-- ==== Sys2Proof/Word.lean ====
section
/-! DEFINITION. The word types of the module (R5): registers are 64 bits, bytes are 8 bits, a vector
register is 256 bytes (R116). Values the spec counts, indexes or measures are natural numbers. -/
namespace Sys2Proof

/-- A byte; byte order is little-endian everywhere (R5). -/
abbrev Byte := BitVec 8
/-- A 64-bit register or structure word (R5). -/
abbrev W64 := BitVec 64
/-- A 256-byte vector register without a format of its own (R116). -/
abbrev VReg := BitVec 2048

end Sys2Proof
end

