-- ==== Sys2Proof/Syntax.lean ====
section
/-! DEFINITION. The commands of the module, one constructor of Instr per row of spec/opcode_table.json, with the
operands each carries. Instruction rows carry the tile that issues them and the fields of the instruction words;
event rows carry what the outside world fixes (a measured value, which instance, whether a check fails); mailbox
rows carry the message header and the payload. -/
namespace Sys2Proof

/-- MMA fields (Tables 03-9, 03-10). -/
structure MmaF where
  fmtA : Nat
  fmtB : Nat
  turnA : Bool
  turnB : Bool
  accIn : Bool
  cont : Bool
  lm1 : Nat
  ldef : Bool
  bcA : Bool
  bcB : Bool
  bcSrc : Nat
  splice : Bool
  ref : Bool
  dest : Bool
  s : Nat
  set : Nat
  sigTok : Nat
  sig : Bool
  aBase : Nat
  bBase : Nat
  cBase : Nat
  deriving DecidableEq, Repr

/-- Vector instruction fields (Tables 05-1, 05-2). -/
structure VecF where
  vd : Nat
  va : Nat
  vb : Nat
  vc : Nat
  fmt : Nat
  fmt2 : Nat
  rm : Nat
  sat : Bool
  amx : Nat
  amxe : Bool
  sub : Nat
  sigTok : Nat
  sig : Bool
  grp : Bool
  imm : Nat
  base : Nat
  xa : Nat
  xb : Nat
  aux : Nat
  deriving DecidableEq, Repr

/-- Porter instruction fields (Table 08-4); addr is word 1. -/
structure PorF where
  lbase : Nat
  len : Nat
  sigTok : Nat
  sig : Bool
  xr : Nat
  xre : Bool
  scope : Nat
  via : Nat
  sub : Nat
  noalloc : Bool
  ret : Bool
  tcnt : Nat
  addr : Nat
  deriving DecidableEq, Repr

/-- REEF_PUT fields (Table 11-3). -/
structure ReefPutF where
  lbase : Nat
  len : Nat
  sigTok : Nat
  sig : Bool
  xr : Nat
  xre : Bool
  bucket : Nat
  group : Nat
  elemOfs : Nat
  deriving DecidableEq, Repr

/-- The MX element formats of Table 02-11. The instruction word does not carry them all; see the assumption log. -/
inductive MxElem where
  | e4m3 | e5m2 | e3m2 | e2m3 | e2m1 | int8
  deriving DecidableEq, Repr

/-- The integer stages of a DPU that residue checks cover (Table 03-7). -/
inductive DpuStage where
  | multiplier | tree | k4Sum
  deriving DecidableEq, Repr

/-- A transient error of one DPU step (R82): the stage, which product or K4 block of the slice, and what it adds to the
stage's output (to a product's magnitude, to the tree sum, or to a block sum in quarters). -/
structure DpuUpset where
  stage : DpuStage
  k : Nat
  delta : Int
  deriving DecidableEq, Repr

/-- What the consumer's comparison of a whole block with its side-table CRC finds (R251): the stored data decide,
or the first transfer was corrupted, or both were. -/
inductive CrcOutcome where
  | stored | transferError | bothBad
  deriving DecidableEq, Repr

/-- The width of a core's read: 64 bits, or the lower or upper aligned half (R6). -/
inductive ReadWidth where
  | full | lower | upper
  deriving DecidableEq, Repr

/-- A PTP message at the management port (R155): Sync of a one-step or two-step transmitter, Follow_Up, the Delay_Req that
the module sends, Delay_Resp, and Announce with currentUtcOffset; seq is the sequenceId, and t1 and t4 are the transmitter's
stamps with their correction field. unsupported: any other message. -/
inductive PtpMsg where
  | sync (domain seq t1 : Nat) (twoStep : Bool)
  | followUp (domain seq t1 : Nat)
  | delayReq (seq : Nat)
  | delayResp (domain seq t4 : Nat)
  | announce (domain : Nat) (utcOffset : Option Int)
  | unsupported
  deriving DecidableEq, Repr

/-- The timed actions of Table 06-4 that have no row of their own. -/
inductive RampAction where
  | sramHbmif | logic | preload
  deriving DecidableEq, Repr

/-- A received flit (Table 10-1): 96 header bits, 240 payload bytes, its CRC field, whether an uncorrectable codeword
touched it (R281), and the lane of each such codeword that no flit before it was touched by. -/
structure Flit where
  hdr : Nat
  payload : Nat
  crc : Nat
  bad : Bool
  uncorr : List Nat
  deriving DecidableEq, Repr

/-- How the CTRL flit of a control body arrived: whether its CRC was good, and the reserved bits of its header and body
(R282, R284, Table 10-3). -/
structure CtrlIn where
  good : Bool
  reserved : Nat
  deriving DecidableEq, Repr

/-- The HELLO control body (Table 10-3). -/
structure HelloBody where
  major : Nat
  minor : Nat
  node : Nat
  port : Nat
  lanes : Nat
  gateway : Bool
  deriving DecidableEq, Repr

/-- The two 40 V feeds (R365). -/
inductive Feed where
  | a | b
  deriving DecidableEq, Repr

/-- The carrier regulators of Table 13-1 that R374 names. -/
inductive Rail where
  | vddSram | vddHbmif | hbmStack | vddLink
  deriving DecidableEq, Repr

/-- What a cartridge answers to a challenge (R408): the hash of its chain's root, its ID, life count, public key
and signature; none when nothing answers. -/
structure CartReply where
  answered : Bool
  rootHash : Nat
  cartId : Nat
  life : Nat
  key : Nat
  signature : Nat
  deriving DecidableEq, Repr

/-- Where a message came from (R421): a mailbox, a management session, or another Capstan over VC_MGT. -/
inductive Src where
  | mbx (n : Nat)
  | session (k : Nat)
  | fabric (node : Nat)
  deriving DecidableEq, Repr

/-- The authorisation trailer (Table 14-5), with SHA-384 of the domain string and the covered bytes. -/
structure Trailer where
  seq : Nat
  sendTime : Nat
  key : Nat
  reserved : Nat
  digest : Nat
  signature : Nat
  deriving DecidableEq, Repr

/-- The message header (Table 14-4). reserved gathers the reserved bits of header and payload; hash is the first 8
bytes of SHA-384 over the request (R426). -/
structure Msg where
  verMajor : Nat
  verMinor : Nat
  resp : Bool
  auth : Nat
  cflags : Nat
  status : Nat
  length : Nat
  reserved : Nat
  txn : Nat
  partition : Nat
  trailer : Option Trailer
  hash : Nat
  deriving DecidableEq, Repr

/-- A mailbox command as the Capstan takes it: its source and its message. -/
structure Call where
  src : Src
  msg : Msg
  deriving DecidableEq, Repr

/-- An allocation entry (Table 08-2). -/
structure AllocEntry where
  base : Nat
  size : Nat
  mode : Nat
  die : Nat
  crc : Bool
  ro : Bool
  noalloc : Bool
  dgran : Nat
  allocId : Nat
  deriving DecidableEq, Repr

/-- The source of a MEM_FILL: a 64-bit pattern or another run. -/
inductive FillSrc where
  | pattern (w : W64)
  | offset (o : Nat)
  deriving DecidableEq, Repr

/-- FAB_JOIN payload (R294, R308, R314). -/
structure JoinReq where
  job : Nat
  dimX : Nat
  dimY : Nat
  dimZ : Nat
  x : Nat
  y : Nat
  z : Nat
  timeoutNs : Nat
  joinList : List Nat
  deriving DecidableEq, Repr

/-- A group record (R311): descriptor and rank list. -/
structure GroupRec where
  cvc : Nat
  ranks : List Nat
  deriving DecidableEq, Repr

/-- FAB_PORT operations (R288). -/
inductive PortOp where
  | retrain | disable | enable
  deriving DecidableEq, Repr

/-- PWR_TUNE payload (Table 13-9 fields). -/
structure TuneReq where
  rampEn : Bool
  guardW : Nat
  cleatHoldMs : Nat
  tripLevel : Nat
  releaseLevel : Nat
  stretchPct : Nat
  deriving DecidableEq, Repr

/-- TIME_SET payload: an LNY_SET or an LNY_ADJ value (R150). -/
inductive TimeSetReq where
  | set (v : W64)
  | adj (v : BitVec 32)
  | keep
  deriving DecidableEq, Repr

/-- The block kinds of Table 15-4. -/
inductive BlockKind where
  | tile | reef | update | hbmCtrl | fabricPort | strata
  deriving DecidableEq, Repr

/-- One sample event of a Strata source (R463, R464): die (4 is the spine), source code, raw value, the IDs that travel
with it (R186) and instance. burst counts the samples of the same monitor in the same Strata cycle before it. -/
structure SampleEvent where
  d : Nat
  source : Nat
  raw : Nat
  layer : Nat
  op : Nat
  strandId : Nat
  seqTag : Nat
  inst : Nat
  burst : Nat
  deriving DecidableEq, Repr

/-- Where an access of an application core goes: the device-memory window (R225, R277), the control space (R6), or a fabric
window (R293). -/
inductive CoreWin where
  | device
  | control
  | fabric (w : Nat)
  deriving DecidableEq, Repr

/-- A core access (R277, R293). acq, rel: its aq and rl bits; a FENCE names its predecessor and successor sets, bits 3 to 0
for i, o, r and w. -/
inductive CoreOp where
  | load (acq : Bool)
  | store (rel : Bool) (mask : Nat) (v : Nat)
  | amo (acq rel : Bool) (aop : Nat) (v : Nat)
  | lrsc
  | fence (pred succ : Nat)
  deriving DecidableEq, Repr

/-- A frame at the management port (R435, R436). -/
structure Frame where
  dstMac : Nat
  etherType : Nat
  isUdp : Bool
  dstIp : Nat
  dstPort : Nat
  srcAddr : Nat
  srcPort : Nat
  length : Nat
  auth : Nat
  isHello : Bool
  deriving DecidableEq, Repr

/-- The commands. -/
inductive Instr where
  /-- NOP (R202): Sequencer instruction with no effect. -/
  | nop (t : Nat)
  /-- END (R179): Ends issue of the strand, which then retires and lets the sequencer consider the next descriptor. -/
  | endStrand (t : Nat)
  /-- WAIT (R202): Holds until token counter TOK holds at least N, then subtracts N. -/
  | wait (t tok n : Nat)
  /-- SIGNAL (R203): Sends CNT increments to a token counter of a tile, at once or after earlier work completes. -/
  | signal (t tok : Nat) (after : Bool) (tile cnt : Nat)
  /-- SIGNAL_ARRIVAL (R193): A SIGNAL increment reaches its target counter after backbone latency and is applied before that step's consumption test. -/
  | signalArrival (k : Nat)
  /-- LOOP (R204): Repeats the preceding BACK instructions TRIPS times using the hidden trip stack. -/
  | loop (t trips back : Nat)
  /-- SLI (R202): Loads an immediate into a scalar register. -/
  | sli (t xd : Nat) (imm : W64)
  /-- SADD (R202): Adds a signed immediate to a scalar register modulo 2^64. -/
  | sadd (t xd xa : Nat) (imm : BitVec 32)
  /-- FENCE (R202): Holds until earlier instructions of the selected classes have completed. -/
  | fence (t mask : Nat)
  /-- SSTAT (R205): Reads a sequencer status value into a scalar register. -/
  | sstat (t xd sel : Nat)
  /-- OREL (R272): Holds later porter operations until earlier in-scope writes have landed. -/
  | orel (t scope : Nat)
  /-- OACQ (R272): Holds later SRAM reads and porter operations until earlier porter reads complete. -/
  | oacq (t scope : Nat)
  /-- OFULL (R272): Performs OREL and OACQ together. -/
  | ofull (t scope : Nat)
  /-- MMA (R64): Issues a matrix multiply-accumulate for one block or part of a CONT chain and registers its spans. -/
  | mma (t : Nat) (f : MmaF)
  /-- MSCL (R71): Loads scale set 1 to 15 from a tile SRAM image, checking its scales and reserved bytes. -/
  | mscl (t set src : Nat)
  /-- SCALE_SET_LOAD (R72): A deferred MSCL loads its set once the last MMA using it has made its last promotion. -/
  | scaleSetLoad (t : Nat)
  /-- MFLAG (R80): Returns the matrix flag word after earlier MMAs finish and optionally clears it. -/
  | mflag (t dst : Nat) (clr : Bool)
  /-- FEEDER_DELIVER (R73): An A or B feeder delivers its next slice into its elastic link when the skew bound allows. -/
  | feederDeliver (t : Nat) (isB : Bool) (idx : Nat) (upset : Option Nat)
  /-- DPU_ACCUMULATE (R74): A DPU accumulates its next slice into its inner accumulator when both feeds and the drain condition allow. -/
  | dpuAccumulate (t i j : Nat) (upset : Option DpuUpset)
  /-- COLUMN_DRAIN (R78): A column drains its finished block into its queue entry once the entry is allocated and the previous drain ended. -/
  | columnDrain (t j : Nat)
  /-- QUEUE_HANDOFF (R79): The queue entry becomes visible to the VXE two steps after the last column drain and SIG_TOK is signalled. -/
  | queueHandoff (t : Nat)
  /-- SPLICE_PANEL_WRITE (R98): A DEST block is rounded to BF16 and written into its splice panel, signalling SIG_TOK. -/
  | splicePanelWrite (t : Nat)
  /-- VLD (R120): Loads 256 bytes from tile SRAM into a vector register. -/
  | vld (t : Nat) (f : VecF) (upset : Option Nat)
  /-- VST (R120): Stores a vector register to 256 bytes of tile SRAM. -/
  | vst (t : Nat) (f : VecF)
  /-- VPOP (R145): Waits for and takes the oldest visible finished-tile queue entry into registers or SRAM. -/
  | vpop (t : Nat) (f : VecF)
  /-- QUEUE_ENTRY_FREE (R146): The entry taken by VPOP is freed two steps later and becomes allocatable. -/
  | queueEntryFree (t : Nat)
  /-- VALU (R119): Performs the elementwise arithmetic, compare, select, logic or move selected by SUB. -/
  | valu (t : Nat) (f : VecF)
  /-- VFN (R121): Computes the transcendental function selected by SUB. -/
  | vfnOp (t : Nat) (f : VecF)
  /-- VRED (R122): Reduces lane groups by sum, max, min or amax. -/
  | vred (t : Nat) (f : VecF)
  /-- VSMX (R123): Performs one online-softmax step on four rows. -/
  | vsmx (t : Nat) (f : VecF)
  /-- VPERM (R125): Permutes lanes by index from two sources. -/
  | vperm (t : Nat) (f : VecF)
  /-- VSHUF (R126): Applies a fixed shuffle pattern or block transpose. -/
  | vshuf (t : Nat) (f : VecF)
  /-- VPACK (R127): Narrows consecutive registers into one register by conversion. -/
  | vpack (t : Nat) (f : VecF)
  /-- VUNPK (R128): Widens one register into consecutive FP32 registers exactly. -/
  | vunpk (t : Nat) (f : VecF)
  /-- VQK4 (R129): Quantises 512 FP32 elements into K4 blocks with their scales. -/
  | vqk4 (t : Nat) (f : VecF)
  /-- VMXI_IMPORT (R130): Imports OCP MX elements into FP8 or K4. -/
  | vmxiImport (t : Nat) (f : VecF) (el : MxElem)
  /-- VMXI_SCAN (R130): Updates XB with the largest block exponent of a register of MX scale codes. -/
  | vmxiScan (t : Nat) (f : VecF)
  /-- VRNG (R139): Draws Philox random words as raw, uniform, drop-out or drop mask. -/
  | vrng (t : Nat) (f : VecF)
  /-- VMASK (R142): Applies causal, document and window masks in place to a block. -/
  | vmask (t : Nat) (f : VecF)
  /-- VLOSS_ADD (R143): Adds token losses into the per-tag loss slots. -/
  | vlossAdd (t : Nat) (f : VecF)
  /-- VLOSS_DUMP (R143): Writes the 48 loss slots to tile SRAM and clears them. -/
  | vlossDump (t : Nat) (f : VecF)
  /-- VTREE (R124): Computes tree_combine of up to 16 partial blocks from tile SRAM. -/
  | vtree (t : Nat) (f : VecF)
  /-- VSCMP (R144): Computes shadow-compare distances and feeds them to a Strata monitor. -/
  | vscmp (t : Nat) (f : VecF)
  /-- VAMAX (R131): Reads an amax slot into a scalar register and optionally clears it. -/
  | vamax (t : Nat) (f : VecF)
  /-- VFLAG (R133): Reads the strand or tile flag word and optionally clears it. -/
  | vflag (t : Nat) (f : VecF)
  /-- VSET_STEP (R135): Loads the tile's STEP register at issue. -/
  | vsetStep (t : Nat) (f : VecF)
  /-- VSET_VETO_MASK (R134): Loads the VETO_MASK at issue, keeping forced bits. -/
  | vsetVetoMask (t : Nat) (f : VecF)
  /-- VSET_SEQTAB (R141): Loads and checks the tile's sequence table. -/
  | vsetSeqtab (t : Nat) (f : VecF)
  /-- VXE_RESULT_WRITE (R118): A vector instruction writes its result, raises its flags and signals SIG_TOK. -/
  | vxeResultWrite (t k : Nat)
  /-- PRD (R233): Porter read of lines into tile SRAM, acquire when scoped. -/
  | prd (t : Nat) (f : PorF)
  /-- PWR (R233): Porter write of lines from tile SRAM, release when scoped. -/
  | pwr (t : Nat) (f : PorF)
  /-- PLAND (R262): Porter write whose last line is a landing flag optionally carrying tokens. -/
  | pland (t : Nat) (f : PorF)
  /-- PGATH (R238): Gathers 32-byte items by an index list into tile SRAM. -/
  | pgath (t : Nat) (f : PorF)
  /-- PSCAT (R238): Scatters 32-byte items by an index list from tile SRAM. -/
  | pscat (t : Nat) (f : PorF)
  /-- PAMO (R242): Applies atomic operations at the home, optionally returning old values. -/
  | pamo (t : Nat) (f : PorF)
  /-- PORTER_REQUEST_COMPLETE (R234): A line or item request returns or is acknowledged; when the last one does, the operation completes and SIG applies. -/
  | porterRequestComplete (t op req : Nat) (crc : CrcOutcome)
  /-- REEF_PUT (R323): Hands FP32 gradients to the Reef, converting and adding them into the bucket's local I40 sum. -/
  | reefPut (t : Nat) (f : ReefPutF)
  /-- REEF_CLOSE (R324): Marks the die's last hand-off of the step for a group. -/
  | reefClose (t group sigTok : Nat) (sig : Bool)
  /-- STRAND_LAUNCH (R188): A descriptor's strand launches when a slot is free, its beat has arrived and its tokens are present, consuming tokens. -/
  | strandLaunch (t : Nat)
  /-- STRAND_COMPLETE (R183): A retired strand's work completes; its slot is freed and SIGNAL_MASK counters are incremented. -/
  | strandComplete (t slot : Nat)
  /-- REEXECUTION (R219): A strand with a DATA fault and tries left is discarded and reissued from IP. -/
  | reexecution (t slot : Nat)
  /-- STRAND_WATCHDOG (R191): A strand's progress limit passes before completion, raising a watchdog fault. -/
  | strandWatchdog (t slot : Nat)
  /-- CONTROL_REGISTER_WRITE (R6): Write to a control-space register that has no behaviour of its own, including W1C and RW fields. -/
  | controlRegisterWrite (byCapstan : Bool) (off width : Nat) (v : W64)
  /-- LNY_ADJ_WRITE (R150): Writing LNY_ADJ starts a slew of the offset or refuses it. -/
  | lnyAdjWrite (byCapstan : Bool) (v : W64)
  /-- LNY_SET_WRITE (R150): Writing LNY_SET loads Lanyard absolutely or is refused. -/
  | lnySetWrite (byCapstan : Bool) (v : W64)
  /-- LNY_TRIM_WRITE (R149): Writing LNY_TRIM sets the clamped rate trim. -/
  | lnyTrimWrite (byCapstan : Bool) (v : W64)
  /-- HCH_CTRL_WRITE (R160): Writing HCH_CTRL changes SHIFT only while no program is bound, else refused. -/
  | hchCtrlWrite (byCapstan : Bool) (v : W64)
  /-- MBX_HANDOVER (R419): Writing MBX_CTRL_n with OWNER 1 passes the slot to the Capstan. -/
  | mbxHandover (n : Nat) (v : W64)
  /-- ERR_TAIL_WRITE (R481): Software advances the error ring tail; a write passing the head is ignored. -/
  | errTailWrite (sc : Nat) (v : W64)
  /-- ERR_STATUS_READ (R481): A 64-bit read of ERR_STATUS_s clears DROPPED. -/
  | errStatusRead (sc : Nat) (w : ReadWidth)
  /-- ERR_FAULTQ_READ (R484): A 64-bit read of ERR_FAULTQ_s clears the dropped-record count. -/
  | errFaultqRead (sc : Nat) (w : ReadWidth)
  /-- ERR_SCOPE_CNT_READ (R274): A 64-bit read of ERR_SCOPE_CNT_d returns and clears the mismatch count. -/
  | errScopeCntRead (d : Nat) (w : ReadWidth)
  /-- PWR_INRUSH_READ (R375): A 64-bit read of PWR_INRUSH clears the deferral count. -/
  | pwrInrushRead (w : ReadWidth)
  /-- STR_STAT_READ (R463): A 64-bit read of STR_STAT_m clears DROPPED. -/
  | strStatRead (d m : Nat) (w : ReadWidth)
  /-- PWR_CEIL_OWNER_WRITE (R11): A Slate-limited write of the owner ceiling consumes a change or is refused. -/
  | pwrCeilOwnerWrite (byCapstan : Bool) (v : W64)
  /-- THM_CART_POLICY_WRITE (R11): A Slate-limited write of the cartridge policy consumes a change or is refused. -/
  | thmCartPolicyWrite (byCapstan : Bool) (v : W64)
  /-- HITCH_PULSE (R161): The hitch comparator issues the pulse for a beat; units set their beat counters and take scheduled actions. -/
  | hitchPulse
  /-- HITCH_CALIBRATION (R161): Every 2^30 ns the per-region delivery delays are recalibrated. -/
  | hitchCalibration (delays : List Nat)
  /-- LNY_SLEW_STEP (R150): Every 4,096 cycles during a slew Lanyard adds or withholds 1 ns. -/
  | lnySlewStep
  /-- TIMER_FIRE (R153): A software timer fires when Lanyard reaches its compare value, setting FIRED and an interrupt. -/
  | timerFire (n : Nat)
  /-- PTP_MESSAGE (R155): A PTP message is timestamped and processed by the Capstan servo. -/
  | ptpMessage (x : PtpMsg)
  /-- PPS_EDGE (R496): A PPS_IN rising edge is timestamped, or ignored if too close to the last. -/
  | ppsEdge
  /-- TIME_TRANSFER_START (R156): Every 2^20 ns the receiving module sends TIME_REQ toward the time master. -/
  | timeTransferStart
  /-- HOLDOVER_ENTRY (R158): Three consecutive intervals without a valid correction set HOLDOVER. -/
  | holdoverEntry
  /-- HOLDOVER_TICK (R158): Each millisecond of holdover LNY_ERR_EST grows by HOLD_RATE. -/
  | holdoverTick
  /-- HINT_PULSE (R177): PWR_HINT is pulsed ahead of a beat with a large estimated load step. -/
  | hintPulse (beat : Nat)
  /-- GEAR_RAMP_ACTION (R168): A timed voltage ramp or multiplier preload of the gear-change sequence begins or ends. -/
  | gearRampAction (a : RampAction)
  /-- POWER_GOOD_CHECK (R170): Before an upward switch each region's phases are checked; a failure cancels the change. -/
  | powerGoodCheck (failing : List Nat)
  /-- HBM_RATE_CHANGE (R171): A die's HBM enters self-refresh and relocks its PHY at a new pin rate. -/
  | hbmRateChange (d : Nat)
  /-- HBM_LINK_TRAINING (R247): Controllers test lanes, apply and record repairs, or lose a stack. -/
  | hbmLinkTraining (stack : Nat) (failing : List Nat) (beyondSpare : Bool)
  /-- GEAR_SWITCH (R169): At the hitch pulse of the switch beat every region changes its period and beat increment. -/
  | gearSwitch
  /-- GEAR_CHANGE_COMPLETE (R172): A change completes, PENDING clears and any waiting change starts. -/
  | gearChangeComplete
  /-- CLEAT_ASSERT (R173): CLEAT_N falls; every region goes to gear 0 and pending changes are cancelled. -/
  | cleatAssert (sources : Nat)
  /-- CLEAT_RELEASE (R386): CLEAT_N is released and the CLEAT_HOLD interval starts. -/
  | cleatRelease
  /-- CLEAT_HOLD_EXPIRY (R386): CLEAT_HOLD after release ends and the gear may rise again. -/
  | cleatHoldExpiry
  /-- DROOP_TRIP (R174): A droop detector trips and the region clock stretches to twice its period. -/
  | droopTrip (r det : Nat)
  /-- DROOP_RELEASE (R174): After 16 stretched cycles above the release level the period returns to nominal. -/
  | droopRelease (r : Nat)
  /-- HOME_SLICE_OPERATION (R241): A home slice grants and applies one line, item, atomic or read operation. -/
  | homeSliceOperation (d slice : Nat) (parity : Bool)
  /-- CACHE_EVICT (R239): A shared-cache line is evicted and a dirty line written to HBM. -/
  | cacheEvict (d line : Nat)
  /-- SCRUB_BLOCK (R252): The home scrubs a CRC block in its interval and logs any mismatch. -/
  | scrubBlock (d block : Nat)
  /-- HBM_TEMP_READ (R248): Every 100 µs a controller reads stack temperature and adjusts refresh and throttle. -/
  | hbmTempRead (stack : Nat) (temp : Option Int)
  /-- RELEASE_BEGIN (R269): A scoped release write is begun once earlier in-scope writes have landed. -/
  | releaseBegin (t op : Nat)
  /-- FLAG_LAND (R262): A held flag line lands after its awaited writes, adding TCNT to the target counter. -/
  | flagLand (d k : Nat)
  /-- FLAG_BUFFER_GRANT (R263): A freed flag-buffer entry is granted to the earliest waiting flag line. -/
  | flagBufferGrant (d : Nat)
  /-- DATA_FLIT (R282): A DATA flit is received, checked, acknowledged, and its packets and credits taken. -/
  | dataFlit (port : Nat) (x : Flit)
  /-- IDLE_FLIT (R282): An IDLE flit delivers acknowledgements and credits. -/
  | idleFlit (port : Nat) (x : Flit)
  /-- ACK_SEND (R283): The receiver acknowledges within 64 flits or 100 ns of the last DATA flit. -/
  | ackSend (port : Nat)
  /-- LINK_HELLO (R285): A HELLO control body is received and version, node and port are negotiated or checked. -/
  | linkHello (port : Nat) (c : CtrlIn) (h : HelloBody)
  /-- TIME_REQ (R309): A TIME_REQ control body is stamped and answered with TIME_RSP. -/
  | timeReq (port : Nat) (c : CtrlIn) (t1 : Nat)
  /-- TIME_RSP (R156): A TIME_RSP is stamped and the receiving module corrects its Lanyard. -/
  | timeRsp (port : Nat) (c : CtrlIn) (t1 t2 t3 : Nat)
  /-- RETRAIN (R287): A RETRAIN control body starts retraining on fewer lanes. -/
  | retrain (port : Nat) (c : CtrlIn) (lanes reason : Nat)
  /-- CTRL_REPEAT (R284): HELLO or RETRAIN is repeated every 1 µs until the peer's arrives. -/
  | ctrlRepeat (port : Nat)
  /-- PMD_TRAINING_DONE (R285): PMD training completes on at least two lanes and HELLO starts. -/
  | pmdTrainingDone (port : Nat) (lanes : List Nat)
  /-- HELLO_TIMEOUT (R285): No valid HELLO within 10 ms sends the port DOWN. -/
  | helloTimeout (port : Nat)
  /-- PORT_RESTART (R285): A DOWN port starts training again after 1 s. -/
  | portRestart (port : Nat)
  /-- LANE_FAIL (R287): A lane loses lock or exceeds 16 uncorrectable codewords in 1 ms. -/
  | laneFail (port lane uncorrectable : Nat)
  /-- RETRAIN_DONE (R287): A retrain ends and traffic resumes by replay. -/
  | retrainDone (port : Nat)
  /-- RETRAIN_TIMEOUT (R287): A retrain not done in 10 ms sends the port DOWN, losing its replay buffer. -/
  | retrainTimeout (port : Nat)
  /-- PACKET_FORWARD (R294): A packet for another node is routed to its next hop or discarded with ROUTE_DEAD. -/
  | packetForward (k : Nat)
  /-- PACKET_SEND (R300): An output port grants a packet that holds credits under its arbitration. -/
  | packetSend (port : Nat)
  /-- READ (R303): A read request is checked and answered with READ_RSP or REFUSE. -/
  | readReq (k : Nat)
  /-- READ_ITEM (R303): An item read request is answered with ITEM_RSP or REFUSE. -/
  | readItemReq (k : Nat)
  /-- WRITE (R303): A line write is applied and answered with WRITE_ACK or REFUSE. -/
  | writeReq (k : Nat)
  /-- WRITE_ITEM (R303): An item write is applied and answered with WRITE_ACK or REFUSE. -/
  | writeItemReq (k : Nat)
  /-- ATOMIC (R303): An atomic request is applied at the home and answered. -/
  | atomicReq (k : Nat)
  /-- LAND (R305): A flag line lands at once or is held in the flag buffer with LAND_HELD. -/
  | landReq (k : Nat)
  /-- READ_RSP (R303): Line data returns to the requesting porter. -/
  | readRsp (k : Nat)
  /-- ITEM_RSP (R303): Item data returns to the requesting porter. -/
  | itemRsp (k : Nat)
  /-- WRITE_ACK (R303): A write acknowledgement completes a remote write request. -/
  | writeAck (k : Nat)
  /-- ATOMIC_RSP (R303): An atomic response completes an atomic request with old values if requested. -/
  | atomicRsp (k : Nat)
  /-- LAND_ACK (R305): A flag's landing, cancellation or expiry is reported to the source. -/
  | landAck (k : Nat)
  /-- LAND_HELD (R305): The source learns its flag is held and sends LAND_GO or LAND_CANCEL when responses allow. -/
  | landHeld (k : Nat)
  /-- LAND_GO (R305): The destination lands a held flag. -/
  | landGo (k : Nat)
  /-- LAND_CANCEL (R305): The destination discards a held flag without its token. -/
  | landCancel (k : Nat)
  /-- REFUSE (R312): A refusal completes the request with its reason and faults the strand. -/
  | refuse (k : Nat)
  /-- MGT_MSG (R308): A management message from another Capstan is accepted or refused by quota. -/
  | mgtMsg (k : Nat)
  /-- MGT_RSP (R308): A management response from another Capstan is received. -/
  | mgtRsp (k : Nat)
  /-- FAB_TIMEOUT (R314): A fabric request's timer expires and the operation completes with a timeout. -/
  | fabTimeout (txn : Nat)
  /-- FLAG_EXPIRY (R306): A held flag waiting 4 × FAB_TIMEOUT is discarded with STATUS EXPIRED. -/
  | flagExpiry (d k : Nat)
  /-- FAB_THROTTLE (R301): An injection-credit wait beyond FAB_THROTTLE raises the FABRIC_CREDIT throttle. -/
  | fabThrottle (t : Nat)
  /-- CONTRIB (R328): A child's chunk contribution is added and forwarded to the parent when complete. -/
  | contrib (k : Nat)
  /-- RESEND (R330): A RESEND makes a node resend its part of a chunk and forward the request. -/
  | resend (k : Nat)
  /-- REPORT_SEND (R332): A rank sends its step report once its closes, chunks and verifications are done. -/
  | reportSend (d g : Nat)
  /-- REPORT (R333): A child's report is combined and passed up, or turned into the decision at the root. -/
  | report (k : Nat)
  /-- DECISION (R333): A decision is forwarded to children and then acted on. -/
  | decision (k : Nat)
  /-- DECISION_TIMEOUT (R335): DEC_TIMEOUT expires without a decision and a FABRIC fault is raised. -/
  | decisionTimeout (d g : Nat)
  /-- F32_UP (R336): A child's FP32 all-reduce value is added in tree order and passed up. -/
  | f32Up (k : Nat)
  /-- F32_DOWN (R336): The FP32 all-reduce result is written to OUT_BASE and forwarded. -/
  | f32Down (k : Nat)
  /-- PRE_DECISION_PASS (R344): The update engine computes and hands off the norm and loss partials for a step. -/
  | preDecisionPass (d : Nat)
  /-- COMMIT_PASS (R345): On a decision the update engine commits or records the veto and signals DONE. -/
  | commitPass (d : Nat)
  /-- FEED_SAMPLE (R376): Each microsecond feed voltage and current are sampled and power means updated. -/
  | feedSample (va ia vb ib : Nat)
  /-- FEED_SAG (R367): A feed below 36 V for 1 ms becomes sagging and the feed cap applies. -/
  | feedSag (f : Feed)
  /-- FEED_SAG_END (R367): A feed at 37 V or more for 100 ms stops sagging. -/
  | feedSagEnd (f : Feed)
  /-- FEED_OVERVOLTAGE (R366): A feed above 45 V for 100 ms is opened and counts as lost. -/
  | feedOvervoltage (f : Feed)
  /-- FEED_LOSS (R368): A feed below 32 V or opened is lost and blocked. -/
  | feedLoss (f : Feed)
  /-- FEED_READMIT (R368): A lost feed within range for 1 s is readmitted. -/
  | feedReadmit (f : Feed)
  /-- STANDBY_LOSS (R452): The standby domain falls below threshold and everything resets. -/
  | standbyLoss
  /-- PLUG_LOOP_CLOSE (R485): After 10 ms of closed loop the hot-swap stages and standby turn on. -/
  | plugLoopClose
  /-- PLUG_LOOP_OPEN (R485): An opened loop opens both hot-swap stages and power is lost. -/
  | plugLoopOpen
  /-- HELLO (R425): Negotiates the mailbox or management protocol version. -/
  | hello (c : Call) (major minor : Nat)
  /-- SYS_QUERY (R390): Returns instances in service, gears, throttles and Capstan state. -/
  | sysQuery (c : Call)
  /-- SYS_PARTITION (R430): Defines the partitions' die masks. -/
  | sysPartition (c : Call) (masks : List Nat)
  /-- SYS_CARVEOUT (R416): Sets the host carve-out size for the next module reset. -/
  | sysCarveout (c : Call) (gib : Nat)
  /-- SYS_NET (R435): Sets the Capstan management MAC and IP addresses. -/
  | sysNet (c : Call) (mac ipv4 ipv6 : Nat)
  /-- MEM_MAP (R226): Creates one allocation and returns its PC_BASE. -/
  | memMap (c : Call) (a : AllocEntry)
  /-- MEM_UNMAP (R506): Removes an allocation unless a program is bound. -/
  | memUnmap (c : Call) (allocId : Nat)
  /-- MEM_FILL (R362): Fills a run with a pattern or source, as a repair when REPAIR is set. -/
  | memFill (c : Call) (dst len : Nat) (src : FillSrc)
  /-- MEM_CHECKSUM (R359): Returns linear checksums of a run and its parts, and block CRC results. -/
  | memChecksum (c : Call) (base blocks : Nat)
  /-- MEM_HOLD (R361): Sets REPAIR_PENDING so every later step is vetoed. -/
  | memHold (c : Call)
  /-- MEM_RELEASE (R361): Clears REPAIR_PENDING; repaired working copies are regenerated. -/
  | memRelease (c : Call)
  /-- MEM_SCRUB (R252): Sets the scrub interval. -/
  | memScrub (c : Call) (hours : Nat)
  /-- PROG_LOAD (R432): Copies and checks a program image and returns a handle. -/
  | progLoad (c : Call) (ofs size : Nat) (sign : Option Nat) (key : Nat)
  /-- PROG_BIND (R433): Binds a loaded image and job seed to the partition, waking regions. -/
  | progBind (c : Call) (handle : Nat) (seed : W64)
  /-- PROG_LAUNCH (R434): Sets the beat base of every tile of the bound image. -/
  | progLaunch (c : Call) (beatBase : Nat)
  /-- PROG_ABORT (R218): Aborts every strand slot of the partition with ABORT records. -/
  | progAbort (c : Call)
  /-- PROG_UNBIND (R227): Releases the bound image and its MEMORY_MAP allocations. -/
  | progUnbind (c : Call)
  /-- PROG_KEY (R432): Sets or clears a program-signing key slot. -/
  | progKey (c : Call) (slot : Nat) (key : Option Nat)
  /-- FAB_JOIN (R294): Joins a job with tag, dimensions, coordinates and FAB_TIMEOUT. -/
  | fabJoin (c : Call) (j : JoinReq)
  /-- FAB_LEAVE (R292): Leaves the fabric job. -/
  | fabLeave (c : Call)
  /-- FAB_GROUP (R311): Defines one parallel group record. -/
  | fabGroup (c : Call) (g : GroupRec)
  /-- FAB_WINDOW (R293): Sets the node of a core fabric window. -/
  | fabWindow (c : Call) (w : Nat) (node : Option Nat)
  /-- FAB_PARAM (R301): Sets FAB_THROTTLE. -/
  | fabParam (c : Call) (throttleNs : Nat)
  /-- FAB_QUERY (R288): Returns the port status records. -/
  | fabQuery (c : Call)
  /-- FAB_ROUTE (R296): Sets a run of route-table entries, holding requests on changed routes. -/
  | fabRoute (c : Call) (first : Nat) (entries : List Nat)
  /-- FAB_GATEWAY (R297): Sets a gateway-table entry. -/
  | fabGateway (c : Call) (n : Nat) (at_ : Option (Nat × Nat))
  /-- FAB_PORT (R288): Retrains a port to 4 lanes, or disables or enables it. -/
  | fabPort (c : Call) (port : Nat) (op : PortOp)
  /-- PWR_CEILING (R378): Sets the Slate-limited owner power ceiling. -/
  | pwrCeiling (c : Call) (watts : Nat)
  /-- PWR_PRIORITY (R388): Sets a partition's power priority. -/
  | pwrPriority (c : Call) (p prio : Nat)
  /-- PWR_REQUEST (R389): Sets REQ and GMAX, optionally clearing sticky throttle copies. -/
  | pwrRequest (c : Call) (req gmax : Nat)
  /-- PWR_TETHER_KEY (R393): Sets or clears a tether key. -/
  | pwrTetherKey (c : Call) (slot : Nat) (key : Option Nat)
  /-- PWR_DERATE (R379): Sets the altitude for derating. -/
  | pwrDerate (c : Call) (metres : Nat)
  /-- PWR_CART_POLICY (R410): Sets the Slate-limited cartridge policy. -/
  | pwrCartPolicy (c : Call) (root grace rootHash : Nat)
  /-- PWR_TUNE (R389): Sets ramp, guard, Cleat hold and droop levels, optionally clearing sticky throttles. -/
  | pwrTune (c : Call) (x : TuneReq)
  /-- PWR_METER (R400): Returns meter records by sequence number. -/
  | pwrMeter (c : Call) (fromSeq count : Nat)
  /-- TETHER_CEILING (R394): Sets a signed standing tether ceiling from a beat. -/
  | tetherCeiling (c : Call) (watts at_ : Nat) (rampEn : Bool)
  /-- TETHER_SCHEDULE (R394): Replaces the per-minute tether schedule. -/
  | tetherSchedule (c : Call) (start : Nat) (watts : List Nat)
  /-- TETHER_CLEAR (R394): Removes the standing ceiling and schedule. -/
  | tetherClear (c : Call)
  /-- TETHER_STATUS (R393): Returns the ceiling in force, cap, input power and last record number. -/
  | tetherStatus (c : Call)
  /-- METER_FETCH (R400): Returns meter records to the tether. -/
  | meterFetch (c : Call) (fromSeq count : Nat)
  /-- TIME_SOURCE (R154): Selects the time source, PTP domain and time master. -/
  | timeSource (c : Call) (src domain : Nat) (master : Bool)
  /-- TIME_SET (R150): Applies an LNY_SET or LNY_ADJ value and the UTC offset. -/
  | timeSet (c : Call) (x : TimeSetReq) (utcOfs : Option Int)
  /-- TIME_SHIFT (R160): Sets the hitch shift while no program is bound. -/
  | timeShift (c : Call) (shift : Nat)
  /-- TIME_STATUS (R158): Returns Lanyard status, error estimate and beat. -/
  | timeStatus (c : Call)
  /-- SEC_OWNER_CLAIM (R431): Installs or replaces the owner key. -/
  | secOwnerClaim (c : Call) (key : Nat)
  /-- SEC_OWNER_RELEASE (R431): Removes the owner key. -/
  | secOwnerRelease (c : Call)
  /-- SEC_ATTEST (R443): Returns a doubly signed attestation report, committing the HSS index first. -/
  | secAttest (c : Call) (nonce : Nat)
  /-- SEC_CERTS (R443): Returns the certificate chain in pieces. -/
  | secCerts (c : Call) (piece : Nat)
  /-- SEC_REVOKE (R447): Revokes a firmware key slot unless that would leave no bootable firmware. -/
  | secRevoke (c : Call) (lms : Bool) (slot : Nat)
  /-- SEC_DEBUG_DISABLE (R446): Sets the one-way debug-disable switch. -/
  | secDebugDisable (c : Call)
  /-- SEC_DEBUG_OPEN (R447): Opens the debug port until module reset. -/
  | secDebugOpen (c : Call)
  /-- SEC_FABRIC_LOCK (R448): Sets the Slate-limited fabric identity lock. -/
  | secFabricLock (c : Call) (lock : Bool) (node : Nat)
  /-- SEC_FW_WRITE (R438): Writes bytes into the inactive firmware slot. -/
  | secFwWrite (c : Call) (ofs : Nat) (data : List Byte)
  /-- SEC_FW_ACTIVATE (R442): Verifies the inactive slot and makes it the trial slot. -/
  | secFwActivate (c : Call)
  /-- SEC_FW_COMMIT (R442): Ends the firmware trial. -/
  | secFwCommit (c : Call)
  /-- CNT_FAULTS (R484): Takes queued fault records of the partition and its dies' scope registers. -/
  | cntFaults (c : Call) (max : Nat)
  /-- CNT_STRATA_CONFIG (R467): Writes a monitor's configuration and alarm and clears it. -/
  | cntStrataConfig (c : Call) (d m : Nat) (cfg : W64) (alarm : Nat)
  /-- CNT_STRATA_READ (R467): Returns consistent snapshots of up to 8 monitors. -/
  | cntStrataRead (c : Call) (d : Nat) (ms : List Nat)
  /-- CNT_STRATA_CLEAR (R467): Clears a monitor's counts, extremes, bins and flags. -/
  | cntStrataClear (c : Call) (d m : Nat)
  /-- CNT_STRATA_ACK (R467): Clears a monitor's ALARM alone. -/
  | cntStrataAck (c : Call) (d m : Nat)
  /-- CNT_STRATA_ENERGY (R472): Returns energy ledgers or module energy totals. -/
  | cntStrataEnergy (c : Call) (d : Option Nat)
  /-- CNT_DUMP_TRIGGER (R473): Triggers a Geode dump of the partition by command. -/
  | cntDumpTrigger (c : Call)
  /-- CNT_DUMP_MAP (R475): Maps the partition's dump areas as a read-only allocation. -/
  | cntDumpMap (c : Call)
  /-- CNT_DUMP_KEEP (R475): Sets or clears KEEP to protect the last dump. -/
  | cntDumpKeep (c : Call) (keep : Bool)
  /-- CNT_DUMP_FAB_TRIG (R473): Clears FAB_TRIG so fabric timeouts do not trigger dumps. -/
  | cntDumpFabTrig (c : Call)
  /-- CNT_DUMP_STATUS (R474): Returns the dump status. -/
  | cntDumpStatus (c : Call)
  /-- RST_PARTITION (R455): Resets the dies of one partition and releases them. -/
  | rstPartition (c : Call)
  /-- RST_BLOCK (R458): Starts a block reset: the block stops accepting operations and drains. -/
  | rstBlock (c : Call) (b : BlockKind) (idx timeoutUs : Nat)
  /-- RST_CAPSTAN (R428): Commands a Capstan restart. -/
  | rstCapstan (c : Call)
  /-- RST_MODULE (R452): Commands a module reset. -/
  | rstModule (c : Call)
  /-- BRICK_FAIL (R371): A brick fails and the brick cap or shutdown applies. -/
  | brickFail (b : Nat)
  /-- PHASE_FAIL (R372): A package-regulator phase fails and is switched off; its region is capped. -/
  | phaseFail (r i : Nat)
  /-- RAIL_REGULATOR_FAIL (R374): A die rail or link regulator fails, fencing the die or shutting down. -/
  | railRegulatorFail (rail : Rail) (i : Nat)
  /-- INRUSH_GRANT (R375): At a beat the power controller grants or defers a region wake. -/
  | inrushGrant (r neighbourPeak : Nat)
  /-- GATE_RAMP_DONE (R375): A region's 128 µs gate ramp ends and neighbour pre-stretch stops. -/
  | gateRampDone (r : Nat)
  /-- RAISE_CHECK (R384): Every 10 ms the power controller considers raising the module gear. -/
  | raiseCheck (logicPower spreadEst : Nat)
  /-- WEAR_UPDATE (R383): Each minute the wear count is updated in MRAM, setting WEAR_OUT at its limit. -/
  | wearUpdate (seconds : Nat)
  /-- STRETCH_CHECK (R387): Stretch residence over 10 ms lowers or restores a region's cap. -/
  | stretchCheck (r permille : Nat)
  /-- SHARE_BUDGET (R388): Every 100 ms the budget is divided among partitions by priority. -/
  | shareBudget (pBase : Nat) (draws : List Nat)
  /-- BALLAST_ADJUST (R392): Every 1 ms ballast is adjusted to ramp the draw down. -/
  | ballastAdjust (drawWithout : Nat)
  /-- TETHER_CEILING_CHANGE (R395): A standing ceiling's beat or a schedule minute changes the tether ceiling in force. -/
  | tetherCeilingChange
  /-- METER_RECORD (R396): At the end of each UTC minute a meter record body is formed. -/
  | meterRecord
  /-- METER_SIGN (R398): The meter record is signed with the ECDSA and HSS keys and released. -/
  | meterSign
  /-- DIE_SENSOR_READ (R402): Every 100 µs die sensors are read and thermal caps adjusted. -/
  | dieSensorRead (d : Nat) (temps : List (Option Int))
  /-- INLET_READ (R379): Every second the inlet is read and the derating cap updated. -/
  | inletRead (temp : Int)
  /-- BLOWER_UPDATE (R407): Every 100 ms the blower speed is set from temperatures. -/
  | blowerUpdate (measured rpm : Nat)
  /-- BLOWER_FAIL (R407): Measured speed below half for 5 s marks the cartridge failed. -/
  | blowerFail
  /-- CART_CHALLENGE (R408): The cartridge is challenged and identified or marked unidentified. -/
  | cartChallenge (c : CartReply)
  /-- CART_PRESENCE_CHANGE (R501): CART_PRES_N opens or closes and the cartridge cap or challenge follows. -/
  | cartPresenceChange (present : Bool)
  /-- CART_LIFE_TICK (R409): Each minute the cartridge life count grows and warning or expiry is set. -/
  | cartLifeTick (meanSpeed : Nat)
  /-- CART_LIFE_WRITE (R409): Each hour the life count is written into the cartridge. -/
  | cartLifeWrite
  /-- MGT_FRAME (R435): A management-port frame is classified to PTP, management, drop or the cores. -/
  | mgtFrame (fr : Frame)
  /-- SESSION_EXPIRY (R436): A management session ends after 600 s without a message. -/
  | sessionExpiry (k : Nat)
  /-- CAPSTAN_RESTART (R428): A parity error or 100 ms watchdog restarts the Capstan, which reprocesses owned mailboxes. -/
  | capstanRestart
  /-- BLOCK_RESET_IDLE (R458): Drain ends or TIMEOUT passes; the block is reset and remaining operations complete ABORTED. -/
  | blockResetIdle (timedOut : Bool)
  /-- RESET_N_ASSERT (R493): A RESET_N low pulse of 100 ns or more asserts a module reset. -/
  | resetNAssert (pulseNs : Nat)
  /-- RESET_N_RELEASE (R453): RESET_N release starts the release order with the spine domains. -/
  | resetNRelease (retest : List Nat)
  /-- LOADER_CHECK (R441): Firmware verifies the core loader, forms CDI_2 and releases the cores. -/
  | loaderCheck
  /-- RELEASE_WAVE_STAGE (R454): A self-timed stage acknowledges release and the wave passes to the next stage. -/
  | releaseWaveStage (row d : Nat)
  /-- RELEASE_STAGE_TIMEOUT (R454): A die stage not acknowledging within 10 ms fences the die. -/
  | releaseStageTimeout (d : Nat)
  /-- REFCLK_STOP (R503): REFCLK stops; regions and Lanyard stop advancing. -/
  | refclkStop
  /-- STRATA_SAMPLE (R463): An event sample updates a monitor's count, sum, extremes and bin. -/
  | strataSample (x : SampleEvent)
  /-- STRATA_PERIOD_SAMPLE (R462): A sampled source's period expires and it takes a sample. -/
  | strataPeriodSample (d m : Nat)
  /-- ENERGY_CALIBRATION (R470): Each Lanyard second the die's energy scale is recomputed against measured rail energy. -/
  | energyCalibration (d measured : Nat)
  /-- GEODE_TRIGGER (R473): A breach, watchdog, fabric timeout or command triggers a freeze of the partition. -/
  | geodeTrigger (p cause tile : Nat)
  /-- GEODE_SETTLE (R474): Handshakes settle or 10 µs pass; T_SETTLED is stamped and section writing starts. -/
  | geodeSettle (p : Nat)
  /-- GEODE_WRITE_END (R474): Section writing finishes or reaches 20 ms; the header is written. -/
  | geodeWriteEnd (p : Nat) (truncated : Bool)
  /-- SMBUS_BLOCK_READ (R497): An SMBus block read with PEC returns module data. -/
  | smbusBlockRead (addr code : Nat) (pecOk : Bool)
  /-- SMBUS_ALERT_RESPONSE (R498): A host's alert-response read releases SMB_ALERT_N. -/
  | smbusAlertResponse
  /-- REFCLK_RESTART (R491): REFCLK resumes after an interruption; regions and Lanyard advance again and Lanyard stays in holdover until corrected. -/
  | refclkRestart
  /-- STANDBY_VALID (R369): With the plug loop closed, a feed rises to at least 20 V after a standby loss and the standby domain comes back up. -/
  | standbyValid
  /-- MRAM_PULSE_END (R451): An MRAM write pulse ends; a reset held back for it takes effect, and a commit that the Capstan waits on completes. -/
  | mramPulseEnd
  /-- TILE_SRAM_LINE_REQUEST (R256): A line request from another tile's porter reaches the target tile SRAM and is written or read there, with a parity error status where one applies. -/
  | tileSramLineRequest (t : Nat) (upset : Option Nat)
  /-- FABRIC_WINDOW_ACCESS (R293): An application-core access to a fabric window becomes a fabric request to the window's node, or returns all ones with an access fault if no node is set. -/
  | fabricWindowAccess (w : CoreWin) (ofs : Nat) (op : CoreOp)
  /-- AMBER_RAM_READ (R456): A read of Amber RAM with bad parity returns the stored value and records the offset in the error status block. -/
  | amberRamRead (ofs : Nat) (w : ReadWidth) (parity : Bool)
  deriving DecidableEq, Repr

end Sys2Proof
end

