-- ==== Sys2Proof/Config.lean ====
section
/-! DEFINITION. What the spec leaves open: uninterpreted constants without a body. Nothing in Lean can
evaluate them, so a statement that mentions one holds whatever its value is. The assumption log names each. -/
namespace Sys2Proof

/-- A fresh free word: the value of a result the spec does not state, drawn with the state's counter. -/
opaque Config.freeWord : Nat → W64

/-- Which of the neighbouring FP32 values inside the bound of Table 05-4 (or of R347 for cospi) the fixed
function number `fn` returns for the operand bits `x`; read modulo the number of candidates. -/
opaque Config.fnPick (fn x : Nat) : Nat

/-- SHA-384 of an octet string (R220, R423): a named standard the spec does not restate. -/
opaque Config.sha384 : List Byte → List Byte

/-- ECDSA P-384 verification of a signature over a digest under a public key (R393, R424, R432, R439, R408). -/
opaque Config.ecdsaVerify (key digest sig : Nat) : Bool

/-- LMS verification under a public key (R439). -/
opaque Config.lmsVerify (key digest sig : Nat) : Bool

/-- ECDSA signature by the module's Alias key over a digest (R398, R443). -/
opaque Config.aliasSign (digest : Nat) : Nat

/-- HSS signature made with one index of the HSS state (R443, R444). -/
opaque Config.hssSign (index digest : Nat) : Nat

/-- HMAC-SHA-384 of a message under a key (R440, R441). -/
opaque Config.hmac384 (key msg : Nat) : Nat

/-- The digest, as a number, of what a cartridge signs: the challenge, its ID and its life count (R408), whose octet order the
spec does not give. -/
opaque Config.labelDigest (label : Nat) (words : List Nat) : Nat

/-- The unique device secret derived from the SRAM physical unclonable function (R440). -/
opaque Config.uds : Nat

/-- Garnet's key-slot entries: SHA-384 of the public key of ECDSA slot and LMS slot i (R439). -/
opaque Config.ecdsaSlot (i : Nat) : Nat
opaque Config.lmsSlot (i : Nat) : Nat

/-- SHA-384 of a public key given as a number (R439, R410). -/
opaque Config.keyHash (key : Nat) : Nat

/-- The module serial MODULE_ID (R396, R443). -/
opaque Config.moduleId : Nat

/-- Manufacture date in days since 1970-01-01 (Table 17-6). -/
opaque Config.manufactureDate : Nat

/-- The certificate chain bytes, in 3,840-byte pieces (R443). -/
opaque Config.certPiece (i : Nat) : List Byte

/-- The root of the cartridge certificate chains that Hexbizen holds (R410 ROOT 0), as a hash. -/
opaque Config.hexbizenCartRoot : Nat

/-- The Capstan's PTP or PPS servo (R154, R155): TRIM and ADJ it sets from the exchange (t1, t2, t3, t4). The
algorithm is not given. -/
opaque Config.servoTrim (t1 t2 t3 t4 : Nat) : Int
opaque Config.servoAdj (t1 t2 t3 t4 : Nat) : Int

/-- The node ID of the job's fabric time master (R156): the spec gives no register that tells a module which one it is. -/
opaque Config.timeMaster : Nat

/-- Fixed per-event energy costs in microjoules of each counted event kind at gear 5 (R469). -/
opaque Config.eventCost (kind : Nat) : Nat

/-- The STATUS numbers of a LAND_ACK for a cancelled and for an expired flag (R305, R306): named, not numbered. -/
opaque Config.ackCancelled : Nat
opaque Config.ackExpired : Nat

/-- The set of a home slice in which a line lies, and the line of a full set that an allocating miss replaces (R239). -/
opaque Config.cacheSet (off : Nat) : Nat
opaque Config.victim (draw : Nat) : Nat

/-- Whether the first transfer of a block to an engine arrives with an error, at a draw (R251; log entry 140). -/
opaque Config.transferError (draw : Nat) : Bool

/-- Whether an ATOMIC_RSP in transit whose flit does not tell has six slots, at a draw (R302; log entry 143). -/
opaque Config.rspLong (draw : Nat) : Bool

/-- The random challenge number i sent to a cartridge (R408). -/
opaque Config.challenge (i : Nat) : Nat

end Sys2Proof
end

