-- ==== Sys2Proof/Machine/Num.lean ====
section
/-! DEFINITION. Number formats and conversions of chapter 02: bit layouts (R33, R34), exact values, the one
rounding function of R53 with its flags (R55), integers (R54), K4 codes (R41), the inner accumulators A20 and
I20 (R45, R47), I40 (R49, R51), and the correctly rounded operations the engines share (R119). -/
namespace Sys2Proof.Machine

/-- Bits [lo + n - 1 : lo] of x (R5). -/
def bits (x lo n : Nat) : Nat := (x >>> lo) % 2 ^ n

/-- Bit i of x. -/
def bit (x i : Nat) : Bool := x.testBit i

/-- Two's complement reading of the low n bits. -/
def toSigned (n x : Nat) : Int :=
  let v := x % 2 ^ n
  if v < 2 ^ (n - 1) then v else (v : Int) - 2 ^ n

/-- Two's complement encoding of v in n bits. -/
def ofSigned (n : Nat) (v : Int) : Nat := (v % 2 ^ n).toNat

def natOfBool (b : Bool) : Nat := if b then 1 else 0

/-! Flag bits of the strand flag word (Table 05-6). -/
def flInvalid : Nat := 1
def flDivZero : Nat := 2
def flOverflow : Nat := 4
def flUnderflow : Nat := 8
def flInexact : Nat := 16
def flSaturate : Nat := 32
def flNanIn : Nat := 64

/-- A value of an element format: an exact dyadic (-1)^neg * m * 2^e, an infinity or a NaN. -/
inductive Val where
  | fin (neg : Bool) (m : Nat) (e : Int)
  | inf (neg : Bool)
  | nan
  deriving DecidableEq, Repr

/-- An exact dyadic number m * 2^e. -/
structure Dy where
  m : Int
  e : Int
  deriving DecidableEq, Repr

def Dy.zero : Dy := ⟨0, 0⟩

/-- Exact sum. -/
def Dy.add (a b : Dy) : Dy :=
  let e := min a.e b.e
  ⟨a.m * 2 ^ (a.e - e).toNat + b.m * 2 ^ (b.e - e).toNat, e⟩

def Dy.mul (a b : Dy) : Dy := ⟨a.m * b.m, a.e + b.e⟩

def Dy.neg (a : Dy) : Dy := ⟨-a.m, a.e⟩

/-- Is a less than b, exactly. -/
def Dy.lt (a b : Dy) : Bool := (a.add b.neg).m < 0

def Dy.toVal (a : Dy) : Val := .fin (a.m < 0) a.m.natAbs a.e

def Val.toDy : Val → Dy
  | .fin neg m e => ⟨if neg then -(m : Int) else m, e⟩
  | _ => Dy.zero

def Val.isFin : Val → Bool
  | .fin _ _ _ => true
  | _ => false

def Val.isNan : Val → Bool
  | .nan => true
  | _ => false

/-- A floating-point format (Table 02-2, Table 02-3). -/
structure FFmt where
  ebits : Nat
  fbits : Nat
  bias : Nat
  maxEnc : Nat
  hasInf : Bool
  hasNan : Bool
  nanEnc : Nat
  deriving DecidableEq, Repr

def fp32 : FFmt := ⟨8, 23, 127, 0x7F7FFFFF, true, true, 0x7FC00000⟩
def bf16 : FFmt := ⟨8, 7, 127, 0x7F7F, true, true, 0x7FC0⟩
def fp16 : FFmt := ⟨5, 10, 15, 0x7BFF, true, true, 0x7E00⟩
def e4m3 : FFmt := ⟨4, 3, 7, 0x7E, false, true, 0x7F⟩
def e5m2 : FFmt := ⟨5, 2, 15, 0x7B, true, true, 0x7E⟩
def e2m1 : FFmt := ⟨2, 1, 1, 0x7, false, false, 0⟩
/-- The FP6 elements of MX import (Table 02-11): no infinity and no NaN. -/
def e3m2 : FFmt := ⟨3, 2, 3, 0x1F, false, false, 0⟩
def e2m3 : FFmt := ⟨2, 3, 1, 0x1F, false, false, 0⟩

def FFmt.width (f : FFmt) : Nat := 1 + f.ebits + f.fbits
def FFmt.signBit (f : FFmt) (neg : Bool) : Nat := if neg then 2 ^ (f.ebits + f.fbits) else 0
/-- Exponent of the smallest normal. -/
def FFmt.emin (f : FFmt) : Int := 1 - (f.bias : Int)
def FFmt.infEnc (f : FFmt) : Nat := (2 ^ f.ebits - 1) * 2 ^ f.fbits

/-- The value of an encoding (R33, R34). -/
def decodeF (f : FFmt) (x : Nat) : Val :=
  let neg := bit x (f.ebits + f.fbits)
  let e := bits x f.fbits f.ebits
  let fr := bits x 0 f.fbits
  let mag := bits x 0 (f.ebits + f.fbits)
  if f.hasInf && e == 2 ^ f.ebits - 1 then
    if fr == 0 then .inf neg else .nan
  else if f.hasNan && !f.hasInf && mag == 2 ^ (f.ebits + f.fbits) - 1 then .nan
  else if e == 0 then .fin neg fr (f.emin - f.fbits)
  else .fin neg (2 ^ f.fbits + fr) ((e : Int) - f.bias - f.fbits)

/-- Rounding modes of Table 02-8. -/
inductive RMode where
  | rne | rz | sr
  deriving DecidableEq, Repr

def RMode.ofCode : Nat → Option RMode
  | 0 => some .rne
  | 1 => some .rz
  | 2 => some .sr
  | _ => none

/-- floor(log2 (num / den)) for positive num and den. -/
def floorLog2 (num den : Nat) : Int :=
  let k : Int := (num.log2 : Int) - den.log2
  let ge : Bool := if k ≥ 0 then decide (den * 2 ^ k.toNat ≤ num) else decide (den ≤ num * 2 ^ (-k).toNat)
  if ge then k else k - 1

/-- Round num / den to an integer, ties to even. -/
def rneDiv (num den : Nat) : Nat :=
  let q := num / den
  let r := num % den
  if 2 * r > den || (2 * r == den && q % 2 == 1) then q + 1 else q

def roundDiv (mode : RMode) (r num den : Nat) : Nat :=
  match mode with
  | .rne => rneDiv num den
  | .rz => num / den
  | .sr => (num * 65536 + r * den) / (den * 65536)

/-- num / den scaled by 2^(-s), as a fraction. -/
def scaleFrac (num den : Nat) (s : Int) : Nat × Nat :=
  (num * 2 ^ (-s).toNat, den * 2 ^ s.toNat)

/-- Encoding and flags of an element (R53, R55). -/
abbrev Enc := Nat × Nat

/-- to_float of R53 on the positive rational num / den, with the flags of Table 02-9. -/
def roundPos (f : FFmt) (mode : RMode) (sat : Bool) (r : Nat) (neg : Bool) (num den : Nat) : Enc :=
  let e := max (floorLog2 num den) f.emin
  let s := e - f.fbits
  let (n', d') := scaleFrac num den s
  let n := roundDiv mode r n' d'
  let exact := n * d' == n'
  let enc : Int := (e - f.emin) * 2 ^ f.fbits + n
  let tiny := floorLog2 num den < f.emin
  if enc > f.maxEnc then
    if f.hasInf && !sat && mode != .rz then (f.signBit neg + f.infEnc, flOverflow ||| flInexact)
    else (f.signBit neg + f.maxEnc, flOverflow ||| flInexact ||| flSaturate)
  else (f.signBit neg + enc.toNat,
    if exact then 0 else flInexact ||| (if tiny then flUnderflow else 0))

/-- A conversion of a value to a floating-point format (R53, R55). -/
def convF (f : FFmt) (mode : RMode) (sat : Bool) (r : Nat) (v : Val) : Enc :=
  match v with
  | .nan => (f.nanEnc, flNanIn ||| (if f.hasNan then 0 else flInvalid))
  | .inf neg =>
    if f.hasInf && !sat then (f.signBit neg + f.infEnc, 0)
    else (f.signBit neg + f.maxEnc, flSaturate)
  | .fin neg m e =>
    if m = 0 then (f.signBit neg, 0)
    else roundPos f mode sat r neg (m * 2 ^ e.toNat) (2 ^ (-e).toNat)

/-- A conversion to INT8 or INT4 of x * c (R54). -/
def convI (n : Nat) (mode : RMode) (r : Nat) (v : Val) (c : Dy) : Enc :=
  let lo : Int := -(2 ^ (n - 1) : Nat)
  let hi : Int := (2 ^ (n - 1) : Nat) - 1
  match v with
  | .nan => (0, flNanIn ||| flInvalid)
  | .inf neg => (ofSigned n (if neg then lo else hi), flSaturate)
  | .fin neg m e =>
    let p := Dy.mul ⟨m, e⟩ c
    let num := p.m.natAbs * 2 ^ p.e.toNat
    let den := 2 ^ (-p.e).toNat
    let q : Int := roundDiv mode r num den
    let q := if neg then -q else q
    if q < lo then (ofSigned n lo, flOverflow ||| flInexact ||| flSaturate)
    else if q > hi then (ofSigned n hi, flOverflow ||| flInexact ||| flSaturate)
    else (ofSigned n q, if q.natAbs * den == num then 0 else flInexact)

/-- Exact sum of two values with its flags; zeros follow IEEE 754 as R106 and R37 give. -/
def Val.add (a b : Val) : Val × Nat :=
  match a, b with
  | .nan, _ => (.nan, flNanIn)
  | _, .nan => (.nan, flNanIn)
  | .inf s, .inf t => if s == t then (.inf s, 0) else (.nan, flInvalid)
  | .inf s, _ => (.inf s, 0)
  | _, .inf t => (.inf t, 0)
  | .fin s m e, .fin t n g =>
    if m = 0 && n = 0 then (.fin (s && t) 0 0, 0)
    else
      let d := ((Val.fin s m e).toDy).add ((Val.fin t n g).toDy)
      (d.toVal, 0)

def Val.negate : Val → Val
  | .fin s m e => .fin (!s) m e
  | .inf s => .inf (!s)
  | .nan => .nan

/-- Exact product. -/
def Val.mul (a b : Val) : Val × Nat :=
  match a, b with
  | .nan, _ => (.nan, flNanIn)
  | _, .nan => (.nan, flNanIn)
  | .inf s, .inf t => (.inf (s != t), 0)
  | .inf s, .fin t n _ => if n = 0 then (.nan, flInvalid) else (.inf (s != t), 0)
  | .fin s m _, .inf t => if m = 0 then (.nan, flInvalid) else (.inf (s != t), 0)
  | .fin s m e, .fin t n g => (.fin (s != t) (m * n) (e + g), 0)

/-- The one final rounding of an operation to its format under RNE (R119). -/
def finish (f : FFmt) (sat : Bool) (v : Val) (fl : Nat) : Enc :=
  match v with
  | .nan => (f.nanEnc, fl)
  | v => let (b, g) := convF f .rne sat 0 v; (b, fl ||| g)

def fAdd (f : FFmt) (sat : Bool) (a b : Nat) : Enc :=
  let (v, fl) := (decodeF f a).add (decodeF f b); finish f sat v fl
def fSub (f : FFmt) (sat : Bool) (a b : Nat) : Enc :=
  let (v, fl) := (decodeF f a).add (decodeF f b).negate; finish f sat v fl
def fMul (f : FFmt) (sat : Bool) (a b : Nat) : Enc :=
  let (v, fl) := (decodeF f a).mul (decodeF f b); finish f sat v fl
/-- Fused multiply-add: rounded once (R119). -/
def fFma (f : FFmt) (sat : Bool) (a b c : Nat) : Enc :=
  let (p, fl) := (decodeF f a).mul (decodeF f b)
  if (decodeF f c).isNan then (f.nanEnc, flNanIn)
  else match p with
    | .nan => (f.nanEnc, fl)
    | p => let (v, g) := p.add (decodeF f c); finish f sat v (fl ||| g)

/-- rne_fp32(a + b) on FP32 bit patterns. -/
def add32 (a b : Nat) : Nat := (fAdd fp32 false a b).1
def mul32 (a b : Nat) : Nat := (fMul fp32 false a b).1
def sub32 (a b : Nat) : Nat := (fSub fp32 false a b).1

/-- Total order of values for MIN and MAX: +0 is greater than -0 (Table 05-3 text). Not used on NaN. -/
def Val.less (a b : Val) : Bool :=
  match a, b with
  | .inf s, .inf t => s && !t
  | .inf s, _ => s
  | _, .inf t => !t
  | .fin s m e, .fin t n g =>
    if m = 0 && n = 0 then s && !t
    else ((Val.fin s m e).toDy).lt ((Val.fin t n g).toDy)
  | _, _ => false

/-- VALU MIN and MAX: the canonical NaN if either input is NaN. -/
def fMinMax (f : FFmt) (isMax : Bool) (a b : Nat) : Enc :=
  let va := decodeF f a
  let vb := decodeF f b
  if va.isNan || vb.isNan then (f.nanEnc, flNanIn)
  else if isMax then (if va.less vb then b else a, 0)
  else (if vb.less va then b else a, 0)

/-- Numeric comparison with equal zeros (R37); false if either is NaN. -/
def Val.ltNum (a b : Val) : Bool :=
  match a, b with
  | .fin _ 0 _, .fin _ 0 _ => false
  | .nan, _ => false
  | _, .nan => false
  | a, b => a.less b

def Val.eqNum (a b : Val) : Bool :=
  match a, b with
  | .nan, _ => false
  | _, .nan => false
  | .inf s, .inf t => s == t
  | .inf _, _ => false
  | _, .inf _ => false
  | .fin s m e, .fin t n g => (((Val.fin s m e).toDy).add ((Val.fin t n g).toDy).neg).m == 0

/-- Correctly rounded division of finite values with a nonzero divisor. -/
def divFin (f : FFmt) (sat : Bool) (a b : Dy) : Enc :=
  let neg := (a.m < 0) != (b.m < 0)
  if a.m = 0 then (f.signBit neg, 0)
  else
    let s := a.e - b.e
    roundPos f .rne sat 0 neg (a.m.natAbs * 2 ^ s.toNat) (b.m.natAbs * 2 ^ (-s).toNat)

/-- rne(a / b) on FP32 patterns (R347), IEEE special cases. -/
def div32 (a b : Nat) : Nat :=
  match decodeF fp32 a, decodeF fp32 b with
  | .nan, _ => fp32.nanEnc
  | _, .nan => fp32.nanEnc
  | .inf _, .inf _ => fp32.nanEnc
  | .inf s, .fin t _ _ => fp32.signBit (s != t) + fp32.infEnc
  | .fin s _ _, .inf t => fp32.signBit (s != t)
  | .fin s m e, .fin t n g =>
    if n = 0 then (if m = 0 then fp32.nanEnc else fp32.signBit (s != t) + fp32.infEnc)
    else if m = 0 then fp32.signBit (s != t)
    else (divFin fp32 false (Val.fin s m e).toDy (Val.fin t n g).toDy).1

/-- Integer square root by binary digits from the top; n digits. -/
def isqrtGo : Nat → Nat → Nat → Nat
  | 0, _, r => r
  | n + 1, x, r =>
    let r' := r + 2 ^ n
    isqrtGo n x (if r' * r' ≤ x then r' else r)

def isqrt (x : Nat) : Nat := isqrtGo (x.log2 / 2 + 1) x 0

/-- Correctly rounded square root of a positive dyadic: an integer root with a sticky half. -/
def sqrtPos (f : FFmt) (sat : Bool) (m : Nat) (e : Int) : Enc :=
  let k : Nat := 80 + (if e % 2 = 0 then 0 else 1)
  let x := m * 2 ^ k
  let g := (e - k) / 2
  let r := isqrt x
  let n := 2 * r + (if r * r == x then 0 else 1)
  let g := g - 1
  roundPos f .rne sat 0 false (n * 2 ^ g.toNat) (2 ^ (-g).toNat)

def sqrt32 (a : Nat) : Nat :=
  match decodeF fp32 a with
  | .nan => fp32.nanEnc
  | .inf s => if s then fp32.nanEnc else a
  | .fin s m e =>
    if m = 0 then a else if s then fp32.nanEnc else (sqrtPos fp32 false m e).1

/-- rne_fp32 of an exact dyadic. -/
def rne32 (d : Dy) : Nat := (convF fp32 .rne false 0 d.toVal).1

/-- The FP32 pattern of a natural number, rounded by R53. -/
def fp32OfNat (n : Nat) : Nat := rne32 ⟨n, 0⟩

def val32 (x : Nat) : Val := decodeF fp32 x
def dy32 (x : Nat) : Dy := (val32 x).toDy
def one32 : Nat := 0x3F800000

/-- A positive, normal, finite FP32 value (R42, R71). -/
def isPosNormal32 (x : Nat) : Bool := x < 0x7F800000 && 0x00800000 ≤ x

/-- Format codes of Table 02-1. -/
def fmtBits : Nat → Nat
  | 0 => 32 | 1 => 16 | 2 => 16 | 3 => 8 | 4 => 8 | 5 => 4 | 6 => 8 | 7 => 4 | 8 => 40 | _ => 0

def ffmtOf : Nat → Option FFmt
  | 0 => some fp32 | 1 => some bf16 | 2 => some fp16 | 3 => some e4m3 | 4 => some e5m2 | 5 => some e2m1
  | _ => none

/-- Value of an element of a format code; integers as exact values (R31 to R41). -/
def elemVal (fmt x : Nat) : Val :=
  match ffmtOf fmt with
  | some f => decodeF f x
  | none =>
    let n := fmtBits fmt
    let v := toSigned n x
    .fin (v < 0) v.natAbs 0

/-- The legal codes of a K4 block scale are 0x08 to 0xFE (R41). -/
def kbsLegal (k : Nat) : Bool := 0x08 ≤ k && k ≤ 0xFE
/-- kbs(KS) = (1 + F / 8) * 2^(E - 15) (R41). -/
def kbs (k : Nat) : Dy := ⟨8 + (k % 8 : Nat), ((k / 8 : Nat) : Int) - 18⟩

/-- smallest legal block-scale code whose value is at least num / den, clamped as R91 gives -/
def kbsUp (num den : Nat) : Nat :=
  let codes := (List.range 247).map (· + 8)
  let ok := fun k : Nat =>
    let v := kbs k
    decide (num * 2 ^ (-v.e).toNat ≤ v.m.natAbs * 2 ^ v.e.toNat * den)
  (codes.find? ok).getD 0xFE

/-- An A20 accumulator (R44). e = 255 with m = 0x80000 is the NaN marker. -/
structure A20 where
  s : Bool
  e : Nat
  m : Nat
  deriving DecidableEq, Repr

def A20.clear : A20 := ⟨false, 0, 0⟩
def A20.nanMarker : A20 := ⟨false, 255, 0x80000⟩
def A20.isNan (a : A20) : Bool := a.e == 255
def A20.value (a : A20) : Dy := ⟨if a.s then -(a.m : Int) else a.m, (a.e : Int) - 146⟩
/-- The 32-bit container of Table 02-6. -/
def A20.container (a : A20) : Nat := natOfBool a.s * 2 ^ 28 + a.e * 2 ^ 20 + a.m

/-- a20_exp(x): the smallest e with |x| < 2^20 * 2^(e - 146). -/
def a20Exp (x : Dy) : Nat :=
  if x.m = 0 then 0
  else (floorLog2 (x.m.natAbs * 2 ^ x.e.toNat) (2 ^ (-x.e).toNat) + 127).toNat

/-- |s| / 2^(e - 146), rounded to even. -/
def a20Quant (s : Dy) (e : Nat) : Nat :=
  let g := s.e - ((e : Int) - 146)
  rneDiv (s.m.natAbs * 2 ^ g.toNat) (2 ^ (-g).toNat)

/-- The rounding loop of R45; the exact sum of two magnitudes below 2^20 quanta needs at most two turns. -/
def a20Loop : Nat → Dy → Nat → Nat × Nat
  | 0, s, e => (a20Quant s e, e)
  | k + 1, s, e => if a20Quant s e < 2 ^ 20 then (a20Quant s e, e) else a20Loop k s (e + 1)

/-- a20_add of R45 with a finite addend; the second component says that it saturated. -/
def a20Add (a : A20) (x : Option Dy) : A20 × Bool :=
  match x with
  | none => (A20.nanMarker, false)
  | some x =>
    if a.isNan then (A20.nanMarker, false)
    else
      let s := a.value.add x
      let (n, e) := a20Loop 3 s (max a.e (a20Exp x))
      if e > 254 then (⟨s.m < 0, 254, 2 ^ 20 - 1⟩, true)
      else if n = 0 then (⟨false, e, 0⟩, false)
      else (⟨s.m < 0, e, n⟩, false)

/-- i20_add of R47. -/
def i20Add (a x : Int) : Int × Bool :=
  let s := a + x
  if s > 524287 then (524287, true) else if s < -524288 then (-524288, true) else (s, false)

/-- A Reef contribution element and whether it was non-finite or saturated (R49). -/
def reefQuant (k : Int) (x : Nat) : Int × Bool × Bool :=
  match val32 x with
  | .nan => (0, true, false)
  | .inf s => (if s then -8388607 else 8388607, true, false)
  | .fin neg m e =>
    let g := e + k
    let q : Int := rneDiv (m * 2 ^ g.toNat) (2 ^ (-g).toNat)
    let q := if neg then -q else q
    if q > 8388607 then (8388607, false, true)
    else if q < -8388607 then (-8388607, false, true)
    else (q, false, false)

/-- The flags of that conversion (Table 02-9): its target has no NaN and ends at ±8,388,607. -/
def reefQuantFlags (k : Int) (x : Nat) : Nat :=
  match val32 x with
  | .nan => flNanIn ||| flInvalid
  | .inf _ => flSaturate
  | .fin _ m e =>
    let g := e + k
    if (reefQuant k x).2.2 then flOverflow ||| flInexact ||| flSaturate
    else if (reefQuant k x).1.natAbs * 2 ^ (-g).toNat = m * 2 ^ g.toNat then 0 else flInexact

/-- rne_fp32(Q * 2^(-k)) of R51; a sum too large for FP32 becomes an infinity (DESIGN CHOICE, log entry 124). -/
def reefBack (k : Int) (q : Int) : Nat := rne32 ⟨q, -k⟩
/-- Its flags (Table 02-9). -/
def reefBackFlags (k : Int) (q : Int) : Nat := (convF fp32 .rne false 0 (Dy.toVal ⟨q, -k⟩)).2

/-- floor(log2 |x|) of a finite nonzero FP32 value, values below -127 taken as -127 (R326). -/
def amaxExp (x : Nat) : Option Int :=
  match val32 x with
  | .fin _ m e => if m = 0 then none else some (max (-127) ((m.log2 : Int) + e))
  | _ => none

/-- CRC-32C over a byte list (R249): Castagnoli, reflected, initial and final 0xFFFFFFFF. -/
def crcByteGo : Nat → Nat → Nat
  | 0, c => c
  | n + 1, c => crcByteGo n (if c % 2 = 1 then (c / 2) ^^^ 0x82F63B78 else c / 2)

def crc32cGo (c : Nat) : List Byte → Nat
  | [] => c
  | b :: bs => crc32cGo (crcByteGo 8 (c ^^^ b.toNat)) bs

def crc32c (l : List Byte) : Nat := crc32cGo 0xFFFFFFFF l ^^^ 0xFFFFFFFF

/-- One Philox round (R137). -/
def philoxGo : Nat → (Nat × Nat × Nat × Nat) → Nat → Nat → (Nat × Nat × Nat × Nat)
  | 0, c, _, _ => c
  | n + 1, (c0, c1, c2, c3), k0, k1 =>
    let p0 := 0xD2511F53 * c0
    let p1 := 0xCD9E8D57 * c2
    philoxGo n ((p1 / 2 ^ 32) ^^^ c1 ^^^ k0, p1 % 2 ^ 32, (p0 / 2 ^ 32) ^^^ c3 ^^^ k1, p0 % 2 ^ 32)
      ((k0 + 0x9E3779B9) % 2 ^ 32) ((k1 + 0xBB67AE85) % 2 ^ 32)

/-- The word drawn for element index e (R137, Table 05-7). -/
def draw (seed stream tag layer op step e : Nat) : Nat :=
  let g := e / 4
  let c0 := g % 2 ^ 32
  let c1 := (g / 2 ^ 32) % 2 ^ 16 + tag % 256 * 2 ^ 16 + stream % 256 * 2 ^ 24
  let c2 := layer % 2 ^ 16 + op % 2 ^ 16 * 2 ^ 16
  let (w0, w1, w2, w3) := philoxGo 10 (c0, c1, c2, step % 2 ^ 32) (seed % 2 ^ 32) (seed / 2 ^ 32 % 2 ^ 32)
  match e % 4 with
  | 0 => w0
  | 1 => w1
  | 2 => w2
  | _ => w3

/-- tree_combine of R84 with any pairwise operation; fuel is the number of levels. -/
def pairLevel {α : Type} (f : α → α → α) : List α → List α
  | a :: b :: rest => f a b :: pairLevel f rest
  | l => l

def treeGo {α : Type} (f : α → α → α) : Nat → List α → List α
  | 0, l => l
  | n + 1, l => treeGo f n (pairLevel f l)

/-- tree_combine(p) of R84 on FP32 patterns; +0 for an empty list, which R84 never meets. -/
def treeCombine (p : List Nat) : Nat := (treeGo add32 (p.length.log2 + 1) p).headD 0

/-- Linear checksum modulo 2^61 - 1 (R330, R359), the index starting at i + 1. -/
def csumMod : Nat := 2 ^ 61 - 1

def csumGo (i : Nat) (acc : Nat) : List Int → Nat
  | [] => acc
  | q :: qs => csumGo (i + 1) ((acc + (i + 1) * (q % csumMod).toNat) % csumMod) qs

def csum (l : List Int) : Nat := csumGo 0 0 l

end Sys2Proof.Machine
end

