-- ==== Sys2Proof/Machine/TileState.lean ====
section
/-! DEFINITION. The state of one tile: sequencer and strand slots, range tracker, engine queues, matrix array, splice
buffer, finished-tile queue, vector engine and porter (chapters 03, 04, 05, 07 and the porter of 08). -/
namespace Sys2Proof.Machine

/-- A strand descriptor (Table 07-1). -/
structure Desc where
  strandId : Nat
  seqTag : Nat
  lmode : Nat
  layer : Nat
  op : Nat
  waitMask : Nat
  signalMask : Nat
  launchBeat : Nat
  ip : Nat
  wdog : Nat
  rangePtr : Nat
  rangeCnt : Nat
  queueSlots : Nat
  amaxMask : Nat
  setMask : Nat
  recomp : Nat
  eclass : Nat
  clrMflag : Bool
  deriving DecidableEq, Repr

/-- A range list entry (Table 07-4), in 64-byte lines of the tile SRAM. -/
structure RangeEnt where
  base : Nat
  len : Nat
  rd : Bool
  wr : Bool
  deriving DecidableEq, Repr

/-- Phases of an occupied strand slot (R179, R219). reissue: waiting to be issued again after a DATA fault. -/
inductive Phase where
  | issuing | retiring | reissue
  deriving DecidableEq, Repr

/-- An occupied strand slot. inst: the tile's running number of the launch, which tells apart two passes of one
descriptor; ended: END has been issued, so that the next descriptor is considered (R188); late is the lateness in
1/65,536 beat; loops holds the address of each open LOOP and the trips still to run; acqOps are the operations
an acquire hold waits for (R270, R272); rels the scope and issue number of each release hold (R272); badNodes the nodes on
which a write of it failed, and how (R264, R305); barked: its watchdog has expired (R191). -/
structure Slot where
  desc : Desc
  inst : Nat
  ended : Bool
  phase : Phase
  ip : Nat
  late : Nat
  launchAt : Nat
  tries : Nat
  limitFrom : Nat
  loops : List (Nat × Nat)
  flags : Nat
  ranges : List RangeEnt
  acqOps : List Nat
  rels : List (Nat × Nat)
  badNodes : List (Nat × Nat × Nat × Nat)
  barked : Bool
  deriving DecidableEq, Repr

/-- What travels with an issued instruction (R186, R135): its issue number on the tile, the slot and address it was
issued from, the IDs of its strand, the STEP and VETO_MASK it took, and the launch it belongs to (0: none). -/
structure Info where
  id : Nat
  slot : Nat
  ip : Nat
  strandId : Nat
  layer : Nat
  op : Nat
  seqTag : Nat
  step : Nat
  veto : Nat
  inst : Nat
  deriving DecidableEq, Repr

/-- A range-tracker entry (R195): lines [lo, hi) of the tile SRAM, its instruction and its strand's launch. -/
structure Track where
  id : Nat
  lo : Nat
  hi : Nat
  wr : Bool
  inst : Nat
  deriving DecidableEq, Repr

inductive ArrOp where
  | mma (f : MmaF) (panel : Nat)
  | mscl (set src : Nat) (deferred : Bool)
  | mflag (dst : Nat) (clr : Bool)
  deriving DecidableEq, Repr

structure ArrItem where
  info : Info
  op : ArrOp
  deriving DecidableEq, Repr

/-- The vector instructions that go through the engine's queue. -/
inductive VKind where
  | vld | vst | vpop | valu | vfn | vred | vsmx | vperm | vshuf | vpack | vunpk | vqk4
  | vmxiImport (el : MxElem) | vmxiScan | vrng | vmask | vlossAdd | vlossDump | vtree | vscmp | vamax | vflag
  | vset | vsetSeqtab
  deriving DecidableEq, Repr

/-- addr is the tile SRAM byte address formed at issue. -/
structure VItem where
  info : Info
  kind : VKind
  f : VecF
  addr : Nat
  deriving DecidableEq, Repr

/-- A vector instruction in flight: what it writes when its result is written (R118). -/
structure VRes where
  info : Info
  regs : List (Nat × VReg)
  scal : List (Nat × W64)
  sram : List (Nat × List Byte)
  flags : Nat
  amax : Option (Nat × Nat)
  loss : List (Nat × Nat × Nat)
  strata : Option (Nat × Nat × List Nat)
  sig : Option Nat
  deriving DecidableEq, Repr

/-- Porter and Reef hand-off operations of the porter queue. -/
inductive PKind where
  | prd | pwr | pland | pgath | pscat | pamo | reefPut (bucket group : Nat) | reefClose (group : Nat)
  deriving DecidableEq, Repr

/-- How a request of a porter operation ended; off: the node offset of its line or item. -/
inductive ReqEnd where
  | ok | dataBad (code detail : Nat) | refused (cls code detail : Nat) | timeout (off : Nat) | lost (off : Nat) | aborted (off : Nat)
  deriving DecidableEq, Repr

/-- The answer that waits to be taken by the porter (R234): data of a line or item, old values of an atomic, and the
side-table CRC sent with whole blocks (R251). -/
structure Resp where
  req : Nat
  fin : ReqEnd
  data : List Byte
  crc : Option Nat
  deriving DecidableEq, Repr

/-- A porter operation. next is the first request not yet sent, flying those sent and unanswered, sentAt when each left, resps those
answered and not yet taken, got those complete. node: another node, or none for the own one. dead: its strand was
aborted, so that its returns are dropped (R254). -/
structure PorOp where
  info : Info
  kind : PKind
  f : PorF
  addr : Nat
  elemOfs : Nat
  index : List Nat
  begun : Bool
  node : Option Nat
  next : Nat
  total : Nat
  flying : List Nat
  sentAt : List (Nat × Nat)
  resps : List Resp
  got : List Nat
  ends : List ReqEnd
  retry : List Nat
  dead : Bool
  deriving DecidableEq, Repr

/-- A SIGNAL waiting in the signal unit (R203). -/
structure SigItem where
  info : Info
  tok : Nat
  after : Bool
  tile : Nat
  cnt : Nat
  deriving DecidableEq, Repr

/-- A scale set (Table 03-3), FP32 bit patterns. -/
structure ScaleSet where
  ta : Nat
  tb : Nat
  ra : List Nat
  cb : List Nat
  deriving DecidableEq, Repr

def ScaleSet.ones : ScaleSet := ⟨one32, one32, List.replicate 16 one32, List.replicate 16 one32⟩

/-- An issued, begun MMA: its first slice and its block in the tile's running numbering, and the C block it read. -/
structure MmaRec where
  info : Info
  f : MmaF
  start : Nat
  blk : Nat
  first : Bool
  cBlock : List Nat
  deriving DecidableEq, Repr

/-- A block of the array: closed once its last MMA is known. -/
structure BlockRec where
  n : Nat
  info : Info
  dest : Bool
  panel : Nat
  sig : Option Nat
  closed : Bool
  alloc : Bool
  vals : List Nat
  deriving DecidableEq, Repr

/-- An entry of the finished-tile queue (R78). by_: the issue number of the VPOP that took it (R145); done: that VPOP has
completed (R146). -/
structure QEntry where
  blk : Nat
  info : Info
  vals : List Nat
  visible : Bool
  by_ : Option Nat
  done : Bool
  deriving DecidableEq, Repr

/-- A slice in an elastic link: 32 bytes of elements and 4 K4 block-scale codes. -/
structure Slice where
  elems : List Byte
  scales : List Byte
  deriving DecidableEq, Repr

/-- One DPU: inner accumulators, accumulating and draining outer registers (R44, R47, R68), and its two hold counters, for
an empty feeder and for a column that waits to drain (R89). -/
structure Dpu where
  a20 : A20
  i20 : Int
  acc : Nat
  drain : Nat
  holdFeed : Nat
  holdDrain : Nat
  deriving DecidableEq, Repr

def Dpu.init : Dpu := ⟨A20.clear, 0, 0, 0, 0, 0⟩

/-- The matrix array. f, g and c count slices delivered and accumulated over the tile's running numbering; the links
hold the slices from their base count on; drained counts blocks drained per column. -/
structure Arr where
  mmas : List MmaRec
  blocks : List BlockRec
  nextSlice : Nat
  nextBlk : Nat
  openBlk : Bool
  f : List Nat
  g : List Nat
  c : List Nat
  linkA : List (List Slice)
  linkB : List (List Slice)
  dpus : List Dpu
  drained : List Nat
  sets : List ScaleSet
  mflags : Nat
  queue : List QEntry
  splice : List (List Byte)
  spliceW : Nat
  deriving DecidableEq, Repr

def Arr.init : Arr where
  mmas := []
  blocks := []
  nextSlice := 0
  nextBlk := 0
  openBlk := false
  f := List.replicate 16 0
  g := List.replicate 16 0
  c := List.replicate 256 0
  linkA := List.replicate 16 []
  linkB := List.replicate 16 []
  dpus := List.replicate 256 Dpu.init
  drained := List.replicate 16 0
  sets := List.replicate 16 ScaleSet.ones
  mflags := 0
  queue := []
  splice := List.replicate 128 (List.replicate 512 0)
  spliceW := 0

/-- The forced bits of VETO_MASK (R134): INVALID, DIVZERO, NAN_IN and the MTX copies of NAN_ACC, OVF_OUT, NAN_IN. -/
def vetoForced : Nat := 0x1C0043
/-- VETO_MASK after tile reset (R134). -/
def vetoReset : Nat := vetoForced + 0x24 + 0x30000

/-- The vector engine. -/
structure Vxe where
  regs : List VReg
  amax : List Nat
  tileFlags : Nat
  veto : Nat
  step : Nat
  seqtab : List (Nat × Nat)
  loss : List (Nat × Nat)
  inflight : List VRes
  deriving DecidableEq, Repr

def Vxe.init : Vxe where
  regs := List.replicate 32 0
  amax := List.replicate 16 0
  tileFlags := 0
  veto := vetoReset
  step := 0
  seqtab := [(0, 0)]
  loss := List.replicate 48 (0, 0)
  inflight := []

/-- One tile. table, ranges, code and pass data come from the bound image (R221). considered: the local beat at which
the sequencer first considered the next descriptor, none while the one before it has not issued END (R188, R191); launches: strands launched since tile reset. -/
structure Tile where
  slots : List (Option Slot)
  regs : List W64
  tokens : List Nat
  table : List Desc
  descIdx : Nat
  beatBase : Nat
  period : Nat
  wdogDef : Nat
  launched : Bool
  launches : Nat
  considered : Option Nat
  barked : Bool
  lateCount : Nat
  lateMax : Nat
  stopped : Bool
  codeBase : Nat
  codeSize : Nat
  nextId : Nat
  track : List Track
  arrQ : List ArrItem
  vxeQ : List VItem
  porQ : List PorOp
  sigQ : List SigItem
  arr : Arr
  vxe : Vxe
  ops : List PorOp
  deriving DecidableEq, Repr

/-- A tile after tile reset. -/
def Tile.init : Tile where
  slots := List.replicate 4 none
  regs := List.replicate 16 0
  tokens := List.replicate 16 0
  table := []
  descIdx := 0
  beatBase := 0
  period := 0
  wdogDef := 0
  launched := false
  launches := 0
  considered := none
  barked := false
  lateCount := 0
  lateMax := 0
  stopped := false
  codeBase := 0
  codeSize := 0
  nextId := 0
  track := []
  arrQ := []
  vxeQ := []
  porQ := []
  sigQ := []
  arr := Arr.init
  vxe := Vxe.init
  ops := []

end Sys2Proof.Machine
end

