-- ==== Sys2Proof/Machine/NetState.lean ====
section
/-! DEFINITION. The state behind the tiles: shared caches, home slices and flag buffers (08, 09), the fabric (10), the
Reef engines (11) and the update engines (12). -/
namespace Sys2Proof.Machine

/-- Who issued a request to a home or to a tile SRAM. -/
inductive Who where
  | tile (t op req : Nat)
  | remote (node txn : Nat)
  | core
  | engine (agent : Nat)
  deriving DecidableEq, Repr

/-- Who issued it, as an agent number of Table 09-3. -/
def Who.agent : Who → Nat
  | .tile t _ _ => t
  | .remote _ _ => 0xFFFF
  | .core => 0x0500
  | .engine a => a

/-- The region a request came from, if a tile issued it. -/
def Who.region : Who → Option Nat
  | .tile t _ _ => some (t / 12)
  | .remote _ _ => none
  | .core => none
  | .engine _ => none

/-- What a request does at its home (R241, R242, R246, R260). mask has one bit per byte of the line. -/
inductive HomeKind where
  | readLine
  | writeLine (mask : Nat) (data : List Byte)
  | readItem
  | writeItem (data : List Byte)
  | atomic (aop : Nat) (ret : Bool) (data : List Byte)
  deriving DecidableEq, Repr

/-- A request waiting at a home slice or at a tile SRAM. off is the node offset of its first byte; whole: its aligned
4 KiB block lies wholly in its operation (R250, R251); path: the edges of the die square it crosses (R235); since:
when it reached the home. -/
structure HomeReq where
  who : Who
  off : Nat
  kind : HomeKind
  cls : Nat
  noalloc : Bool
  scope : Nat
  whole : Bool
  layer : Nat
  op : Nat
  strandId : Nat
  seqTag : Nat
  path : List Nat
  since : Nat
  deriving DecidableEq, Repr

/-- A line of a shared cache: physical line number, node offset, 64 bytes, and the release tag it keeps (R239, R273). -/
structure CacheLine where
  key : Nat
  off : Nat
  data : List Byte
  dirty : Bool
  poisoned : Bool
  tag : Option (Nat × Nat)
  deriving DecidableEq, Repr

/-- One of the 16 slices of a shared cache: waiting requests in arrival order and the grants each class received in
the current window of 64 cycles (R241). -/
structure HomeSlice where
  waiting : List HomeReq
  cycle : Nat
  grants : List Nat
  deriving DecidableEq, Repr

/-- A flag line in a flag buffer, or waiting for an entry of it (R262, R263, R305). waits: a remote one that was sent with
WAITS = 1; since: when it arrived; owe: the input port and dateline class whose credits its packet still holds. -/
structure FlagLine where
  who : Who
  off : Nat
  data : List Byte
  ttok : Nat
  tcnt : Nat
  waits : Bool
  since : Nat
  layer : Nat
  op : Nat
  strandId : Nat
  seqTag : Nat
  part : Nat
  scope : Nat
  owe : Option (Nat × Nat)
  deriving DecidableEq, Repr

/-- An allocation in force (R226). -/
structure Alloc where
  e : AllocEntry
  pcBase : Nat
  part : Nat
  fromImage : Bool
  deriving DecidableEq, Repr

/-- A stack and its controller: lost, repairs recorded, throttle in eighths of the full rate, readings in a row below 93 °C
(ten make a millisecond), temperature (none: unreadable), readings in a row at the trip, refresh, link training, and the training values saved: pin rate and the repairs they hold
(R171). -/
structure Stack where
  lost : Bool
  repairs : List Nat
  rate : Nat
  coolReads : Nat
  temp : Option Int
  trips : Nat
  refreshHalved : Bool
  training : Bool
  saved : List (Nat × List Nat)
  deriving DecidableEq, Repr

def Stack.init : Stack := ⟨false, [], 8, 0, some 0, 0, false, false, []⟩

/-- A fabric packet (Tables 10-11, 10-12) with its payload bytes. -/
structure Packet where
  ptype : Nat
  vc : Nat
  dclass : Nat
  flip : Nat
  route : Nat
  dest : Nat
  src : Nat
  offset : Nat
  space : Nat
  scope : Nat
  job : Nat
  txn : Nat
  layer : Nat
  op : Nat
  arg : Nat
  data : List Byte
  deriving DecidableEq, Repr

/-- A packet in an output queue: forwarded or injected (R300), and when it came to this module or was made. -/
structure OutPkt where
  pkt : Packet
  fwd : Bool
  since : Nat
  deriving DecidableEq, Repr

/-- A received packet, the port it came through (16 for one made by the module itself), and when it arrived. -/
structure InPkt where
  pkt : Packet
  port : Nat
  at_ : Nat
  deriving DecidableEq, Repr

inductive PortSt where
  | down | training | hello | up | retraining | miswired | versionFail | disabled
  deriving DecidableEq, Repr

def PortSt.code : PortSt → Nat
  | .down => 0 | .training => 1 | .hello => 2 | .up => 3 | .retraining => 4 | .miswired => 5 | .versionFail => 6
  | .disabled => 7

/-- A flit sent on a port: type (0 DATA, 1 IDLE, 2 CTRL), FSEQ, ACKSEQ, ACKV, NAK, credit returns and content, and the lanes
active when it was sent (R281). -/
structure TxFlit where
  ftype : Nat
  fseq : Nat
  ackseq : Nat
  ackv : Bool
  nak : Bool
  credits : List (Nat × Nat × Nat)
  start : Nat
  body : List Byte
  lanes : List Nat
  deriving DecidableEq, Repr

/-- One fabric port (Tables 10-4, 10-5; R283, R285, R287, R299). uncorr: the uncorrectable codewords of the last millisecond:
lane, time and how many. -/
structure Port where
  st : PortSt
  lanes : Nat
  working : List Nat
  since : Nat
  peerGw : Bool
  major : Nat
  minor : Nat
  peerNode : Nat
  peerPort : Nat
  replays : Nat
  crcErrors : Nat
  fecUncorr : Nat
  uncorr : List (Nat × Nat × Nat)
  degrades : Nat
  protoErrors : Nat
  lastChange : Nat
  helloSent : Bool
  helloGot : Bool
  ctrl : Option (Nat × List Byte)
  txSeq : Nat
  ackedSeq : Nat
  replay : List TxFlit
  replayRun : Nat
  rxSeq : Nat
  rxBad : Bool
  sinceAck : Nat
  lastData : Nat
  rxSlots : List (List Byte)
  rxNeed : Nat
  credits : List (Nat × Nat × Nat)
  owed : List (Nat × Nat × Nat)
  out : List OutPkt
  rrNext : Nat
  sinceInj : List (Nat × Nat)
  wire : List TxFlit
  deriving DecidableEq, Repr

/-- Buffer slots per class and input of a virtual channel (Table 10-10). -/
def vcSlots (vc : Nat) : Nat :=
  if vc = 0 || vc = 1 then 96 else if vc = 2 then 32 else if vc = 3 then 80 else if vc < 16 then 64 else 0

def allVcs : List Nat := List.range 16

def fullCredits : List (Nat × Nat × Nat) :=
  (allVcs.map fun v => [(v, 0, vcSlots v), (v, 1, vcSlots v)]).flatten

def Port.init : Port where
  st := .down
  lanes := 4
  working := [0, 1, 2, 3]
  since := 0
  peerGw := false
  major := 0
  minor := 0
  peerNode := 0
  peerPort := 0
  replays := 0
  crcErrors := 0
  fecUncorr := 0
  uncorr := []
  degrades := 0
  protoErrors := 0
  lastChange := 0
  helloSent := false
  helloGot := false
  ctrl := none
  txSeq := 0
  ackedSeq := 4095
  replay := []
  replayRun := 0
  rxSeq := 4095
  rxBad := false
  sinceAck := 0
  lastData := 0
  rxSlots := []
  rxNeed := 0
  credits := fullCredits
  owed := []
  out := []
  rrNext := 0
  sinceInj := []
  wire := []

/-- An outstanding request over the fabric (R303, R314). strand: the issuing strand; route: the route it took (R298);
held: a LAND whose LAND_HELD came; going: its LAND_GO or LAND_CANCEL left; bad: how an earlier request of the strand to
the node failed, for a LAND that waits for it (R305, R264). -/
structure FabReq where
  txn : Nat
  who : Who
  part : Nat
  strand : Nat
  node : Nat
  off : Nat
  ptype : Nat
  route : Nat
  sentAt : Nat
  held : Bool
  going : Bool
  bad : Option (Nat × Nat × Nat)
  deriving DecidableEq, Repr

/-- What a partition joined (R294, R308, R314). -/
structure Join where
  job : Nat
  dims : Nat × Nat × Nat
  coord : Nat × Nat × Nat
  timeoutNs : Nat
  joinList : List Nat
  deriving DecidableEq, Repr

/-- A fabric window of the application cores (R293). -/
structure Window where
  node : Nat
  job : Nat
  part : Nat
  deriving DecidableEq, Repr

/-- The module's fabric state. discarded: packets discarded and counted (R313, R314); mgtGot: management messages the
Capstan holds, with when they came until they start. -/
structure Fabric where
  ports : List Port
  inbox : List InPkt
  routes : List (Nat × Nat)
  gateways : List (Nat × Nat × Nat)
  windows : List (Nat × Window)
  reqs : List FabReq
  nextTxn : Nat
  throttleNs : Nat
  discarded : Nat
  timeReqAt : Option (Nat × Nat)
  lastTimeReq : Nat
  mgtGot : List (Packet × Option Nat)
  deriving DecidableEq, Repr

def Fabric.init : Fabric where
  ports := List.replicate 16 Port.init
  inbox := []
  routes := []
  gateways := []
  windows := []
  reqs := []
  nextTxn := 0
  throttleNs := 100000
  discarded := 0
  timeReqAt := none
  lastTimeReq := 0
  mgtGot := []

/-- Kinds of event in a veto latch slot (R331). -/
structure Veto where
  nonfin : Bool
  sat : Bool
  err : Bool
  deriving DecidableEq, Repr

def Veto.none : Veto := ⟨false, false, false⟩
def Veto.any (v : Veto) : Bool := v.nonfin || v.sat || v.err
def Veto.join (a b : Veto) : Veto := ⟨a.nonfin || b.nonfin, a.sat || b.sat, a.err || b.err⟩

/-- A bucket of a die's Reef engine (Table 11-2) with its scale exponent, the hand-offs taken this step, and when the
last of them made its local sum ready (R338). -/
structure Bucket where
  group : Nat
  kind : Nat
  bucket : Nat
  elems : Nat
  stage : Nat
  out : Nat
  puts : Nat
  k : Int
  outTok : Nat
  outSig : Bool
  outTile : Nat
  taken : Nat
  amax : Option Int
  readyAt : Nat
  outDone : Bool
  f32Sent : Bool
  deriving DecidableEq, Repr

/-- A contribution received for a chunk (R328). -/
structure Contrib where
  step : Nat
  bucket : Nat
  group : Nat
  shard : Nat
  chunk : Nat
  child : Nat
  data : List Int
  cs : Nat
  veto : Veto
  amax : Option Int
  deriving DecidableEq, Repr

/-- What became of a chunk at this node: sent to the parent, verified or failed at the root (R330), or without output because
its memory is lost (R339). -/
inductive ChunkFate where
  | sent | verified | failed | lost
  deriving DecidableEq, Repr

structure ChunkMark where
  step : Nat
  group : Nat
  bucket : Nat
  shard : Nat
  chunk : Nat
  fate : ChunkFate
  retries : Nat
  deriving DecidableEq, Repr

/-- A step report or decision body (R332, R333, Table 11-6). -/
structure Report where
  step : Nat
  veto : Veto
  csum : Bool
  vetoRank : Nat
  lastRank : Nat
  lastClose : Nat
  retries : Nat
  eb : List (Nat × Option Int)
  deriving DecidableEq, Repr

/-- Per die and group: the step open in the Reef, its close, the report timer (R324, R325, R332, R335), and the step last
acted on. children: the reports received for the open step. -/
structure GroupSt where
  g : Nat
  cvc : Nat
  ranks : List Nat
  sign : Nat
  step : Option Nat
  closedAt : Option Nat
  closeOp : Option (Nat × Nat)
  reportLeft : Bool
  reportAt : Nat
  timedOut : Bool
  children : List (Nat × Report)
  vetoSeen : Veto
  retries : Nat
  decided : Option Nat
  deriving DecidableEq, Repr

/-- The FP32 values a child sent for a KIND 1 bucket (R336). -/
structure F32Part where
  step : Nat
  group : Nat
  bucket : Nat
  child : Nat
  vals : List Nat
  deriving DecidableEq, Repr

/-- The Reef engine of a die. latch: the two step slots (R135). csumFails: checksum failures counted (R330). flags: the flags its
reads and conversions raised (R36, R55).
lateStep: the step whose last report left (R136).
f32: values of KIND 1 buckets received from children, and whether the result came. decided: decisions waiting for the
update engine. -/
structure Reef where
  retry : Nat
  decTimeoutMs : Nat
  decBase : Nat
  decTile : Nat
  decTok : Nat
  decSig : Bool
  buckets : List Bucket
  groups : List GroupSt
  contribs : List Contrib
  marks : List ChunkMark
  f32 : List F32Part
  latch : List Veto
  csumFails : Nat
  flags : Nat
  lateStep : Option Nat
  credHeld : Bool
  deriving DecidableEq, Repr

def Reef.init : Reef where
  retry := 0
  decTimeoutMs := 0
  decBase := 0
  decTile := 0
  decTok := 0
  decSig := false
  buckets := []
  groups := []
  contribs := []
  marks := []
  f32 := []
  latch := [Veto.none, Veto.none]
  csumFails := 0
  flags := 0
  lateStep := none
  credHeld := false

/-- A hyperparameter entry (Table 12-3), FP32 patterns. -/
structure Hyper where
  beta1 : Nat
  beta2 : Nat
  eps : Nat
  decayL : Nat
  vclip : Nat
  lrMult : Nat
  deriving DecidableEq, Repr

/-- A schedule segment (Table 12-4). -/
structure Seg where
  kind : Nat
  len : Nat
  lrA : Nat
  lrB : Nat
  deriving DecidableEq, Repr

/-- An update descriptor (Table 12-5). -/
structure UDesc where
  layer : Nat
  op : Nat
  opt : Nat
  m1 : Nat
  v : Nat
  rem : Bool
  norm : Bool
  decay : Bool
  wcFmt : Nat
  wcEn : Bool
  wcSr : Bool
  splice : Bool
  spliceLog2 : Nat
  hp : Nat
  rows : Nat
  cols : Nat
  row0 : Nat
  master : Nat
  grad : Nat
  state : Nat
  wc : Nat
  res : Nat
  deriving DecidableEq, Repr

/-- The UPDATE section of a die (Table 12-2). -/
structure UpdSec where
  group : Nat
  normEn : Bool
  normBkt : Nat
  lossEn : Bool
  lossBkt : Nat
  maxNorm : Nat
  gscale : Nat
  schedT0 : Nat
  auditEvery : Nat
  stateLine : Nat
  commit : Nat
  loss : Nat
  lossTiles : Nat
  doneTile : Nat
  doneTok : Nat
  doneSig : Bool
  audit : Nat
  hps : List Hyper
  segs : List Seg
  descs : List UDesc
  deriving DecidableEq, Repr

/-- The update engine of a die (12): its section, the step whose pre-decision pass ran, the decision it still has to
act on, REPAIR_PENDING, the descriptors repaired under the hold, its position when frozen, and the flags its reads and conversions
raised (R36, R55). -/
structure Upd where
  sec : Option UpdSec
  preDone : Option Nat
  todo : Option (Nat × Bool)
  repair : Bool
  repaired : List Nat
  position : Nat
  stopped : Bool
  flags : Nat
  deriving DecidableEq, Repr

def Upd.init : Upd := ⟨none, none, none, false, [], 0, false, 0⟩

/-- What travels with a strand fault (Table 07-7). -/
structure FaultRec where
  cls : Nat
  code : Nat
  tile : Nat
  layer : Nat
  op : Nat
  strandId : Nat
  ip : Nat
  ipValid : Bool
  tries : Nat
  beat : Nat
  detail : Nat
  deriving DecidableEq, Repr

/-- A Strata monitor (Tables 16-1, 16-2). -/
structure Monitor where
  source : Nat
  shift : Nat
  layerFilt : Bool
  opFilt : Bool
  layer : Nat
  op : Nat
  sel : Nat
  period : Nat
  alarm : Bool
  sumSat : Bool
  shadow : Bool
  dropped : Nat
  count : Nat
  sum : Nat
  min : Nat
  max : Nat
  alarmAt : Nat
  bins : List Nat
  nextAt : Nat
  deriving DecidableEq, Repr

def Monitor.init : Monitor where
  source := 0
  shift := 0
  layerFilt := false
  opFilt := false
  layer := 0
  op := 0
  sel := 0x3FF
  period := 0
  alarm := false
  sumSat := false
  shadow := false
  dropped := 0
  count := 0
  sum := 0
  min := 0xFFFFFFFF
  max := 0
  alarmAt := 0
  bins := List.replicate 32 0
  nextAt := 0

/-- The energy engine of a die (R469 to R472): scale as num / den, ledger in µJ, charges of the running second. -/
structure Energy where
  num : Nat
  den : Nat
  calibrated : Bool
  ledger : List (Nat × Nat × Int)
  raw : List (Nat × Nat × Nat)
  published : List (Nat × Nat × Int)
  second : Nat
  deriving DecidableEq, Repr

def Energy.init : Energy := ⟨1, 1, false, [], [], [], 0⟩

/-- A die: scrubbed: the time of each block's last scrub (R252); its shared cache, in it the side-table entries not yet written to HBM (R249), home slices, flag buffer, engines, monitors, energy engine, fault queue and scope
registers (Tables 09-4, 09-5), HBM pin rate in tenths of Gb/s, the local beat counter of its units outside the regions
(R162), and release state. scopeLast: releasing agent, acquiring
agent, their scopes and the acquirer's layer. -/
structure Die where
  cache : List CacheLine
  sideTab : List (Nat × Nat)
  slices : List HomeSlice
  flags : List FlagLine
  flagWait : List FlagLine
  lineCredits : Nat
  itemCredits : Nat
  cleanParity : Nat
  scrubbed : List (Nat × Nat)
  scopeCnt : Nat
  scopeLast : Option (Nat × Nat × Nat × Nat × Nat)
  faultQ : List FaultRec
  obsStep : Option Nat
  reef : Reef
  upd : Upd
  mons : List Monitor
  energy : Energy
  pinRate : Nat
  beat : Nat
  beatFrac : Nat
  fenced : Bool
  released : Nat
  deriving DecidableEq, Repr

def Die.init : Die where
  cache := []
  sideTab := []
  slices := List.replicate 16 ⟨[], 0, [0, 0, 0, 0]⟩
  flags := []
  flagWait := []
  lineCredits := 16384
  itemCredits := 4096
  cleanParity := 0
  scrubbed := []
  scopeCnt := 0
  scopeLast := none
  faultQ := []
  obsStep := none
  reef := Reef.init
  upd := Upd.init
  mons := List.replicate 256 Monitor.init
  energy := Energy.init
  pinRate := 32
  beat := 0
  beatFrac := 0
  fenced := false
  released := 0

end Sys2Proof.Machine
end

