-- ==== Sys2Proof/Machine/PwrState.lean ====
section
/-! DEFINITION. The state of time and clocks (06), power and thermal control (13). -/
namespace Sys2Proof.Machine

/-- Lanyard and its registers (Tables 06-6 to 06-8). now is the nanosecond count, frac its 40-bit fraction; skip: the next
cycle's nanosecond is withheld (R150); tmrArmed: timers that have not fired since their last write (R153); beat: the
last hitch pulse; hints: beats hinted, and whether rising. ptpWait: PTP messages stamped and not yet delivered, with their
stamps; ptpSync: sequence number, t1 and t2 of the last Sync; ptpDelay: sequence number and t3 of the last Delay_Req (R155).
dlv: an event was delivered in this cycle; dlvWait: cycles for which each class of R152 has waited. sinceGood: cycles since
the last valid correction, missed: exchanges lost since then, sinceHold: cycles of holdover not yet in the estimate (R158,
R309). calDone, calAt: the last hitch calibration (R161). -/
structure Lny where
  now : Nat
  frac : Nat
  refclk : Bool
  srcActive : Nat
  locked : Bool
  holdover : Bool
  timeFault : Bool
  adjRemain : Int
  slewCycles : Nat
  adjRefused : Bool
  setRefused : Bool
  src : Nat
  master : Bool
  domain : Nat
  holdRate : Nat
  faultNs : Nat
  trim : Int
  errEst : Nat
  ppsTs : Nat
  ppsSeen : Bool
  ppsIgnored : Nat
  utcOfs : Int
  tmr : List Nat
  tmrEn : Nat
  tmrFired : Nat
  tmrArmed : Nat
  skip : Bool
  shift : Nat
  hintEn : Bool
  hintThr : Nat
  beat : Nat
  hints : List (Nat × Bool)
  ptpWait : List (PtpMsg × Nat)
  ptpSync : Option (Nat × Option Nat × Nat)
  ptpDelay : Option (Nat × Nat)
  dlv : Bool
  dlvWait : List Nat
  sinceGood : Nat
  missed : Nat
  sinceHold : Nat
  calDone : Bool
  calAt : Nat
  deriving DecidableEq, Repr

def Lny.init : Lny where
  now := 0
  frac := 0
  refclk := true
  srcActive := 0
  locked := false
  holdover := false
  timeFault := false
  adjRemain := 0
  slewCycles := 0
  adjRefused := false
  setRefused := false
  src := 0
  master := false
  domain := 0
  holdRate := 25
  faultNs := 25
  trim := 0
  errEst := 0
  ppsTs := 0
  ppsSeen := false
  ppsIgnored := 0
  utcOfs := 0
  tmr := List.replicate 8 0
  tmrEn := 0
  tmrFired := 0
  tmrArmed := 0
  skip := false
  shift := 10
  hintEn := false
  hintThr := 100
  beat := 0
  hints := []
  ptpWait := []
  ptpSync := none
  ptpDelay := none
  dlv := false
  dlvWait := [0, 0, 0, 0]
  sinceGood := 0
  missed := 0
  sinceHold := 0
  calDone := false
  calAt := 0

/-- A supply voltage in mV (R168): the value it has or ramps to, where the ramp started, and when. -/
structure Volt where
  goal : Nat
  from_ : Nat
  start : Nat
  deriving DecidableEq, Repr

def Volt.still (mv : Nat) : Volt := ⟨mv, mv, 0⟩

/-- A region (R21): gear it runs at, whether fenced dark, awake or waking, its caps, its stretch state, its local
beat counter (R162), steps done, and its sensors. acc: progress of the running cycle in units of 1/80 step, need: its length
in those units; delay: the delivery delay the hitch comparator launches its pulse early by, pulseAt: the Lanyard time of
that launch (R161). -/
structure Region where
  gear : Nat
  fenced : Bool
  awake : Bool
  waking : Bool
  released : Bool
  phases : Nat
  thermCap : Nat
  stretchCap : Nat
  shareCap : Nat
  inRamp : Nat
  tripped : List Nat
  stretched : Bool
  stretchLeft : Nat
  stretchLen : Nat
  preStretch : Nat
  stretchedTotal : Nat
  stretchEvents : Nat
  beat : Nat
  frac : Nat
  acc : Nat
  need : Nat
  steps : Nat
  delay : Nat
  pulseAt : Nat
  temps : List (Option Int)
  tripRun : List Nat
  hotAt : Nat
  coolAt : Nat
  stretchAt : Nat
  calmAt : Nat
  vLogic : Volt
  deriving DecidableEq, Repr

/-- A region after module reset: gear 0, uncapped, gated (R384, Table 06-10, Table 15-3). A region cap of 7 is none. -/
def Region.init : Region where
  gear := 0
  fenced := false
  awake := false
  waking := false
  released := false
  phases := 0
  thermCap := 7
  stretchCap := 7
  shareCap := 7
  inRamp := 0
  tripped := []
  stretched := false
  stretchLeft := 0
  stretchLen := 0
  preStretch := 0
  stretchedTotal := 0
  stretchEvents := 0
  beat := 0
  frac := 0
  acc := 0
  need := 80
  steps := 0
  delay := 0
  pulseAt := 0
  temps := List.replicate 8 (some 0)
  tripRun := List.replicate 8 0
  hotAt := 0
  coolAt := 0
  stretchAt := 0
  calmAt := 0
  vLogic := Volt.still 450

/-- A gear change under R168: of the module, or of one region's cap. sramDone, logicDone: the ramps of VDD_SRAM and
VDD_HBMIF, and of VDD_LOGIC, have started. -/
structure GearChange where
  region : Option Nat
  next : Nat
  up : Bool
  bc : Nat
  sramDone : Bool
  logicDone : Bool
  checked : Bool
  preloaded : Bool
  switched : Bool
  deriving DecidableEq, Repr

inductive FeedSt where
  | normal | sagging | lost
  deriving DecidableEq, Repr

def FeedSt.code : FeedSt → Nat
  | .normal => 0 | .sagging => 1 | .lost => 2

/-- A feed (R365 to R368): millivolts, units of 10 mA, state, and since when each condition has held. -/
structure FeedRec where
  mv : Nat
  ma10 : Nat
  st : FeedSt
  below36 : Option Nat
  above37 : Option Nat
  above45 : Option Nat
  inRange : Option Nat
  opened : Bool
  okMinute : Bool
  deriving DecidableEq, Repr

def FeedRec.init : FeedRec := ⟨0, 0, .normal, none, none, none, none, false, true⟩

/-- One microsecond sample: Lanyard, P and P_100µ in 0.1 W, and the cap C and the ceiling that compliance is judged by
(the tether's, else C) at that time, in W. -/
structure PSample where
  at_ : Nat
  p : Nat
  mean : Nat
  cap : Nat
  ceil : Nat
  deriving DecidableEq, Repr

/-- A meter record body (Table 13-6) in terms of its fields; digest of the previous body; its two signatures. -/
structure MeterRec where
  seq : Nat
  minute : Nat
  start : Nat
  pMin : Nat
  pMean : Nat
  pMax : Nat
  pPeak : Nat
  ceilStart : Nat
  ceilLow : Nat
  capLow : Nat
  compliant : Bool
  feedAok : Bool
  feedBok : Bool
  timeFault : Bool
  gap : Bool
  energy : Nat
  sampled : Nat
  prevDigest : Nat
  sigs : Option (Nat × Nat)
  deriving DecidableEq, Repr

/-- What the power controller gathers over the running UTC minute (R396, R397). -/
structure MinuteAcc where
  start : Nat
  any : Bool
  pMin : Nat
  pMax : Nat
  pPeak : Nat
  pSum : Nat
  samples : Nat
  ceilStart : Nat
  ceilLow : Nat
  capLow : Nat
  ok : Bool
  timeFault : Bool
  gap : Bool
  deriving DecidableEq, Repr

def MinuteAcc.init : MinuteAcc where
  start := 0
  any := false
  pMin := 0xFFFF
  pMax := 0
  pPeak := 0
  pSum := 0
  samples := 0
  ceilStart := 0
  ceilLow := 0
  capLow := 1200
  ok := true
  timeFault := false
  gap := false

/-- What the power controller does periodically, each task with an index (a region, a die, a stack). -/
inductive Task where
  | sample | raise | wear | stretch | share | ballast | sensors | hbm | inlet | blower | lifeTick | lifeWrite | defer
  deriving DecidableEq, Repr

/-- The power controller and its registers (Tables 13-9 to 13-11, 06-9, 06-10). Gear ceilings of R411: burst (R382),
hbm (R403), spine (R402); burstWhy: throttle bits of the lowering in force; wear seconds; the standing tether ceiling (value, beat), the schedule (start minute,
watts) and the tether ceiling last in force. parts: PRIO, REQ, GMAX, ALLOC per partition; throt: reasons in force and
sticky copies; ran: when each periodic task last ran. vLink and vStack: VDD_LINK and the three HBM stack rails in mV, the same at every gear (R166). -/
structure Power where
  gear : Nat
  cur : Option GearChange
  queue : List GearChange
  aborts : Nat
  gearAt : Nat
  cleat : Bool
  cleatCount : Nat
  cleatSources : Nat
  cleatActive : Nat
  cleatHoldMs : Nat
  cleatRelAt : Option Nat
  feedA : FeedRec
  feedB : FeedRec
  hist : List PSample
  p100u : Nat
  p100m : Nat
  p20 : Nat
  spreadUs : Nat
  peakUs : Nat
  peakWin : Nat
  countFrom : Nat
  burstCeil : Nat
  hbmCeil : Nat
  hbmAt : Nat
  hbmCool : Nat
  spineCeil : Nat
  burstLowAt : Option Nat
  burstWhy : Nat
  otherLowAt : Option Nat
  wear : Nat
  bricks : Nat
  linkRegs : Nat
  deferrals : Nat
  wakeQ : List Nat
  wakingRegion : Option Nat
  droopTrip : Nat
  droopRelease : Nat
  stretchPct : Nat
  derateM : Nat
  rampEn : Bool
  guard : Nat
  ramp : Option (Nat × Nat)
  ballast : Nat
  ballastPart : Option Nat
  standing : Option (Nat × Nat)
  schedule : Nat × List Nat
  tether : Nat
  tetherFrom : Nat
  parts : List (Nat × Nat × Nat × Nat)
  throt : List (Nat × Nat)
  ran : List ((Task × Nat) × Nat)
  fabThrotAt : List (Option Nat)
  minute : MinuteAcc
  lastMinute : Nat
  meter : List MeterRec
  meterSeq : Nat
  vSram : List Volt
  vHbmif : List Volt
  vLink : Nat
  vStack : Nat × Nat × Nat
  railsOn : Bool
  tripped : Bool
  hotSwap : Bool
  standby : Bool
  deriving DecidableEq, Repr

/-- Power registers at reset (Table 13-9). -/
def Power.init : Power where
  gear := 0
  cur := none
  queue := []
  aborts := 0
  gearAt := 0
  cleat := false
  cleatCount := 0
  cleatSources := 0
  cleatActive := 0
  cleatHoldMs := 10
  cleatRelAt := none
  feedA := FeedRec.init
  feedB := FeedRec.init
  hist := []
  p100u := 0
  p100m := 0
  p20 := 0
  spreadUs := 0
  peakUs := 0
  peakWin := 0
  countFrom := 0
  burstCeil := 7
  hbmCeil := 7
  hbmAt := 0
  hbmCool := 0
  spineCeil := 7
  burstLowAt := none
  burstWhy := 0
  otherLowAt := none
  wear := 0
  bricks := 0
  linkRegs := 3
  deferrals := 0
  wakeQ := []
  wakingRegion := none
  droopTrip := 40
  droopRelease := 20
  stretchPct := 20
  derateM := 0
  rampEn := true
  guard := 50
  ramp := none
  ballast := 0
  ballastPart := none
  standing := none
  schedule := (0, [])
  tether := 0
  tetherFrom := 0
  parts := List.replicate 4 (0, 300, 7, 0)
  throt := List.replicate 4 (0, 0)
  ran := []
  fabThrotAt := List.replicate 4 none
  minute := MinuteAcc.init
  lastMinute := 0
  meter := []
  meterSeq := 0
  vSram := List.replicate 4 (Volt.still 600)
  vHbmif := List.replicate 4 (Volt.still 650)
  vLink := 800
  vStack := (1100, 400, 1800)
  railsOn := true
  tripped := false
  hotSwap := true
  standby := true

inductive CartSt where
  | absent | identified | unidentified | failed
  deriving DecidableEq, Repr

def CartSt.code : CartSt → Nat
  | .absent => 0 | .identified => 1 | .unidentified => 2 | .failed => 3

/-- The thermal block and the cartridge (Tables 13-12, 13-13; R407 to R410). hottest: recent hottest readings per die
for the rise of R405; lives: life counts of the last 8 cartridge IDs, in hundredths of a
minute; challengeDue: a challenge is due whatever the time (R408). -/
structure Thermal where
  spine : List (Option Int)
  spineTrip : List Nat
  spineHotAt : Nat
  spineCoolAt : Nat
  rises : List (List (Nat × Int))
  inlet : Int
  inletTrip : Nat
  fanCmd : Nat
  fanMeas : Nat
  fanRpm : Nat
  fanSlowAt : Option Nat
  cart : CartSt
  cartExpired : Bool
  cartWarn : Bool
  cartInGrace : Bool
  cartId : Nat
  cartLife : Nat
  cartStored : Nat
  lives : List (Nat × Nat)
  present : Bool
  challenges : Nat
  challengeAt : Nat
  challengeDue : Bool
  deriving DecidableEq, Repr

def Thermal.init : Thermal where
  spine := List.replicate 16 (some 0)
  spineTrip := List.replicate 16 0
  spineHotAt := 0
  spineCoolAt := 0
  rises := List.replicate 4 []
  inlet := 0
  inletTrip := 0
  fanCmd := 0
  fanMeas := 0
  fanRpm := 0
  fanSlowAt := none
  cart := .absent
  cartExpired := false
  cartWarn := false
  cartInGrace := false
  cartId := 0
  cartLife := 0
  cartStored := 0
  lives := []
  present := false
  challenges := 0
  challengeAt := 0
  challengeDue := true

end Sys2Proof.Machine
end

