-- ==== Sys2Proof/Machine/CapState.lean ====
section
/-! DEFINITION. The state of the Capstan, its mailboxes, the security stores and MRAM (14), of reset and the standby
domain (15), of the error status block and the Geode dump (16), and of the pins (17). -/
namespace Sys2Proof.Machine

/-- An entry of a transaction table (R426). -/
structure TxnEnt where
  txn : Nat
  hash : Nat
  cmd : Nat
  status : Nat
  result : W64
  deriving DecidableEq, Repr

/-- A response as the Capstan leaves it: the header's STATUS, RESULT, and the rest of the payload as words (R422). -/
structure Reply where
  cmd : Nat
  txn : Nat
  status : Nat
  result : W64
  payload : List Nat
  auth : Nat
  cflags : Nat
  part : Nat
  deriving DecidableEq, Repr

/-- A mailbox (Tables 14-1, 14-2): ver is its agreed version (R425), reply its buffer's response, handAt when a message was handed
over that has not started (R421). -/
structure Mailbox where
  owner : Bool
  seq : Nat
  status : Nat
  seqDone : Nat
  valid : Bool
  done : Bool
  irqEn : Bool
  ver : Option (Nat × Nat)
  table : List TxnEnt
  reply : Option Reply
  handAt : Option Nat
  deriving DecidableEq, Repr

def Mailbox.init : Mailbox := ⟨false, 0, 0, 0, false, false, false, none, [], none, none⟩

/-- A management session (R436): its source, time of the last message, agreed version, table, last response, and when a
message came that has not started. -/
structure Session where
  addr : Nat
  port : Nat
  last : Nat
  ver : Option (Nat × Nat)
  table : List TxnEnt
  reply : Option Reply
  handAt : Option Nat
  deriving DecidableEq, Repr

/-- STATE of MBX_CAPSTAN (Table 14-3). -/
inductive CapRun where
  | booting | running | restarting | recovery
  deriving DecidableEq, Repr

def CapRun.code : CapRun → Nat
  | .booting => 0 | .running => 1 | .restarting => 2 | .recovery => 3

/-- One tile of a loaded image: its code region, descriptor table and the bytes placed in its SRAM. -/
structure TileImg where
  tile : Nat
  codeBase : Nat
  codeSize : Nat
  table : List Desc
  segs : List (Nat × List Byte)
  deriving DecidableEq, Repr

/-- A shadow-compare reference of an image (R111, R468): its die and monitor, layer and alarm. -/
structure ShadowRef where
  die : Nat
  mon : Nat
  layer : Nat
  alarm : Nat
  deriving DecidableEq, Repr

/-- The REEF section of an image for one die (Tables 11-1, 11-2). -/
structure ReefImg where
  die : Nat
  retry : Nat
  decTimeoutMs : Nat
  decBase : Nat
  decTile : Nat
  decTok : Nat
  decSig : Bool
  buckets : List Bucket
  deriving DecidableEq, Repr

/-- An address or area that the loader checks against allocations (R506), for a rejected item at byte ofs of section
sec: near: within one allocation placed near-first on that die, with crc: one with CRC = 1; else every byte mapped, for
a write to none with RO = 1. -/
structure Need where
  off : Nat
  len : Nat
  near : Option Nat
  crc : Bool
  write : Bool
  sec : Nat
  ofs : Nat
  deriving DecidableEq, Repr

/-- A loaded image after the checks of Table 07-13. -/
structure Image where
  handle : Nat
  digest : Nat
  shift : Nat
  dieMask : Nat
  period : Nat
  wdogDef : Nat
  tiles : List TileImg
  allocs : List AllocEntry
  groups : List (Nat × GroupRec)
  signs : List (Nat × Nat)
  reefs : List ReefImg
  upds : List (Nat × UpdSec)
  refs : List ShadowRef
  needs : List Need
  deriving DecidableEq, Repr

/-- A partition: its dies, at most two loaded images, the bound one with its job seed, whether launched, its join, its
groups (R311), and the bind that waits for its regions to wake (R375). -/
structure Part where
  mask : Nat
  images : List Image
  nextHandle : Nat
  bound : Option Image
  seed : Nat
  launched : Bool
  join : Option Join
  groups : List (Nat × GroupRec)
  binding : Option Call
  deriving DecidableEq, Repr

def Part.init : Part where
  mask := 0
  images := []
  nextHandle := 1
  bound := none
  seed := 0
  launched := false
  join := none
  groups := []
  binding := none

/-- A firmware component header field set as Garnet reads it is parsed from flash bytes; the boot record (R440). -/
structure BootRec where
  active : Nat
  trial : Bool
  tries : Nat
  deriving DecidableEq, Repr

/-- The two copies of a Slate item in MRAM (R446): whether the second one is current, and the value, the remaining changes and
the CRC that the other one holds; the current copy's value and count are the item's own fields. -/
structure SlateItem where
  second : Bool
  other : Nat × Nat × Nat
  deriving DecidableEq, Repr

/-- The Capstan, its keys and stores. The Slate items of Table 14-13 carry their remaining changes. keySeqs: the last
SEQ accepted under each public key (Amber), mramSeqs: the committed ones. lastTurn and lastMbx: the source a command was last
started from, and the mailbox last taken of each page (R421). mgtRefused: the source of the last datagram answered outside a
session, with the status (R436). -/
structure Capstan where
  run : CapRun
  lastTurn : Nat
  lastMbx : List Nat
  mgtRefused : Option (Nat × Nat × Nat)
  restarts : Nat
  mbx : List Mailbox
  sessions : List (Option Session)
  fabReplies : List ((Nat × Nat) × Reply)
  keySeqs : List (Nat × Nat)
  mramSeqs : List (Nat × Nat)
  ownerKey : Option Nat
  tetherKeys : List (Option Nat)
  progKeys : List (Option Nat)
  carve : Nat
  carveNext : Nat
  boot : BootRec
  bootCount : Nat
  measFw : Nat
  measLoader : Nat
  fwSlots : Nat × Nat
  slot : Nat
  cdi1 : Option Nat
  cdi2 : Option Nat
  coresReleased : Bool
  revEcdsa : Nat
  revLms : Nat
  debugDisable : Bool
  debugOpened : Bool
  ceil : Nat
  ceilLeft : Nat
  fabLock : Option Nat
  fabLockLeft : Nat
  cartRoot : Nat
  cartGrace : Nat
  cartHash : Nat
  cartLeft : Nat
  slate : List SlateItem
  hss : Nat
  mac : Nat
  ipv4 : Nat
  ipv6 : Nat
  mgtDropped : Nat
  mgtPtp : Nat
  mgtOs : Nat
  scrubHours : Nat
  deriving DecidableEq, Repr

def Capstan.init : Capstan where
  run := .booting
  lastTurn := 5
  lastMbx := [15, 15, 15, 15]
  mgtRefused := none
  restarts := 0
  mbx := List.replicate 64 Mailbox.init
  sessions := List.replicate 8 none
  fabReplies := []
  keySeqs := []
  mramSeqs := []
  ownerKey := none
  tetherKeys := [none, none, none, none]
  progKeys := [none, none, none, none]
  carve := 32
  carveNext := 32
  boot := ⟨0, false, 0⟩
  bootCount := 0
  measFw := 0
  measLoader := 0
  fwSlots := (0, 0)
  slot := 0
  cdi1 := none
  cdi2 := none
  coresReleased := false
  revEcdsa := 0
  revLms := 0
  debugDisable := false
  debugOpened := false
  ceil := 1200
  ceilLeft := 64
  fabLock := none
  fabLockLeft := 16
  cartRoot := 0
  cartGrace := 0
  cartHash := 0
  cartLeft := 8
  slate := List.replicate 5 ⟨false, (0, 0, 0)⟩
  hss := 0
  mac := 0
  ipv4 := 0
  ipv6 := 0
  mgtDropped := 0
  mgtPtp := 0
  mgtOs := 0
  scrubHours := 24

/-- An event record of the error status block (Table 16-11). -/
structure EvRec where
  event : Nat
  part : Nat
  source : Nat
  time : Nat
  layer : Nat
  op : Nat
  detail : Nat
  deriving DecidableEq, Repr

/-- One page of the error status block (Tables 16-9, 16-10). faultDrop: fault records dropped. -/
structure ErrPage where
  recs : List EvRec
  head : Nat
  tail : Nat
  overflow : Bool
  dropped : Nat
  irqEn : Bool
  faultDrop : Nat
  deriving DecidableEq, Repr

def EvRec.zero : EvRec := ⟨0, 0, 0, 0, 0, 0, 0⟩
def ErrPage.init : ErrPage := ⟨List.replicate 32 EvRec.zero, 0, 0, false, 0, false, 0⟩

/-- An Obsidian record (Table 15-8). Its CRC is computed when the record is serialised. -/
structure ObsRec where
  rtype : Nat
  boot : Nat
  part : Nat
  unlocked : Bool
  time : Nat
  seq : Nat
  payload : List Nat
  deriving DecidableEq, Repr

/-- The Obsidian log (R460): which first-fault set this boot fills, its record count, and the records by index. -/
structure Obsidian where
  set : Nat
  filled : Nat
  ringNext : Nat
  seq : Nat
  recs : List (Nat × ObsRec)
  deriving DecidableEq, Repr

def Obsidian.init : Obsidian := ⟨0, 0, 2048, 0, []⟩

/-- Write classes of the MRAM port (Table 14-11). -/
inductive MramClass where
  | firstFault | hss | slate | obsidian | geode
  deriving DecidableEq, Repr

def MramClass.prio : MramClass → Nat
  | .firstFault => 1 | .hss => 2 | .slate => 3 | .obsidian => 4 | .geode => 5

/-- A waiting MRAM write: a record of the Obsidian log, or another write already in the registers it belongs to. -/
structure MramReq where
  cls : MramClass
  rec? : Option ObsRec
  deriving DecidableEq, Repr

/-- A reset that is held back (R451). -/
inductive HeldReset where
  | module (cause : Nat)
  deriving DecidableEq, Repr

/-- The MRAM write port (R451, Table 14-11): the pulse in progress, the writes waiting, how many of the last 16 writes
each class had, the reset held back, and whether wear and similar records are waiting. -/
structure Mram where
  pulse : Option MramReq
  waiting : List MramReq
  served : List MramClass
  held : Option HeldReset
  deriving DecidableEq, Repr

def Mram.init : Mram := ⟨none, [], [], none⟩

/-- The header of a dump (Table 16-5) without its constant fields. -/
structure DumpHdr where
  cause : Nat
  status : Nat
  trigTile : Nat
  sections : Nat
  tTrig : Nat
  tSettled : Nat
  tWritten : Nat
  step : Nat
  strandId : Nat
  layer : Nat
  op : Nat
  cls : Nat
  code : Nat
  later : Nat
  dieMask : Nat
  deriving DecidableEq, Repr

/-- A trigger that has reached the dump controller and is not yet resolved (R473). -/
structure Trig where
  cause : Nat
  tile : Nat
  step : Nat
  strandId : Nat
  layer : Nat
  op : Nat
  cls : Nat
  code : Nat
  deriving DecidableEq, Repr

inductive DumpPhase where
  | none | settling | writing | done
  deriving DecidableEq, Repr

/-- The dump controller of one partition (R473 to R475). -/
structure Geode where
  frozen : Bool
  phase : DumpPhase
  fabTrig : Bool
  keep : Bool
  trigs : List Trig
  hdr : Option DumpHdr
  mapped : Bool
  deriving DecidableEq, Repr

def Geode.init : Geode := ⟨false, .none, false, false, [], none, false⟩

/-- The standby domain (R456, R457): Amber RAM as cells, words with bad parity, backup registers and the reset cause
fields of Table 15-7. -/
structure Standby where
  amber : List Host.Cell
  amberBad : List Nat
  bkp : List W64
  cause : Nat
  afterTrip : Bool
  moduleResets : Nat
  capRestarts : Nat
  deriving DecidableEq, Repr

def Standby.init : Standby := ⟨[], [], List.replicate 32 0, 0, false, 0, 0⟩

/-- A block reset in progress (R458): when its TIMEOUT passes, the operations that were outstanding when it began, and the
call it answers (none: the Capstan restarted meanwhile, Table 15-10). -/
structure BlkReset where
  kind : BlockKind
  idx : Nat
  until_ : Nat
  open_ : List Who
  call : Option Call
  deriving DecidableEq, Repr

/-- Reset control: the module reset held, how far the release order of Table 15-3 went (the last row whose step is
complete), the die-to-die edges of row 7 that are released, and the block reset in progress. -/
structure Rst where
  low : Bool
  row : Nat
  rowAt : Nat
  edges : List Nat
  blk : Option BlkReset
  deriving DecidableEq, Repr

def Rst.init : Rst := ⟨true, 0, 0, [], none⟩

/-- Pins and interface state (17): loop, address straps, the alert wire, hint wire, and the last SMBus reply. hintPs:
length of the last hint pulse in ns. -/
structure Pins where
  loopClosed : Bool
  addr : Nat
  alertLow : Bool
  lastHint : Option (Nat × Nat)
  smb : Option (List Byte)
  deriving DecidableEq, Repr

def Pins.init : Pins := ⟨true, 3, false, none, none⟩

end Sys2Proof.Machine
end

