-- ==== Sys2Proof/Machine/State.lean ====
section
/-! DEFINITION. The state of the module: every register, memory, queue, counter, mode and pin the spec names, as plain
data, with the queue of waiting commands; its faults and refusals; and the state right after reset. -/
namespace Sys2Proof.Machine

/-- A SIGNAL on its way over the backbone (R193): the tile that sent it, target tile, counter, increments. -/
structure Fly where
  src : Nat
  tile : Nat
  tok : Nat
  cnt : Nat
  deriving DecidableEq, Repr

/-- An answer the backbone carries to the application cores for a window access (R293), or for a register read. -/
structure CoreAns where
  data : W64
  accessFault : Bool
  deriving DecidableEq, Repr

/-- The state. pending: the commands that are waiting, first in, first out. sram: cells of every tile SRAM, tile t's
byte a under t * 2^21 + a; sramBad: the 32-bit words (by byte address of the same numbering) whose parity is bad. hbm:
cells of every stack by physical place, (stack * 32 + pseudo-channel) * 0x48000000 + byte. crcs: side-table entries by
physical block that differ from the CRC of a zero block. fly: SIGNALs on the backbone. tileReqs: line requests that
other porters sent to a tile SRAM. awaiting: commands the Capstan has begun and that wait for the MRAM port. outs:
answers sent to sources other than mailboxes. coreWait: accesses of the application cores that wait, in order; coreRel: a FENCE
ow,ow with no store after it yet; coreLoads: die and release tag of the lines loaded since the last FENCE ir,ir (R277). free:
counts the free values drawn. -/
structure State where
  pending : List Instr
  lny : Lny
  regions : List Region
  power : Power
  thermal : Thermal
  tiles : List Tile
  sram : List Host.Cell
  sramBad : List Nat
  fly : List Fly
  tileReqs : List (Nat × HomeReq)
  hbm : List Host.Cell
  poison : List Nat
  crcs : List (Nat × Nat)
  stks : List Stack
  dies : List Die
  fabric : Fabric
  parts : List Part
  allocs : List Alloc
  cap : Capstan
  standby : Standby
  errs : List ErrPage
  obs : Obsidian
  flash : List Host.Cell
  mram : Mram
  awaiting : List Instr
  geodes : List Geode
  spineMons : List Monitor
  rst : Rst
  pins : Pins
  irqs : List Nat
  coreAns : Option CoreAns
  coreWait : List (CoreWin × Nat × CoreOp)
  coreRel : Bool
  coreLoads : List (Nat × Nat × Nat)
  free : Nat
  deriving DecidableEq, Repr

/-- Faults: why the model stops.

reservedInstance: raised by every command that names an instance number the module does not have (a tile of 384 or
more, a die of 4 or more, a port of 16 or more, ...). Safe: no command of the module carries such a number. -/
inductive Fault where
  | reservedInstance
  deriving DecidableEq, Repr

/-- Refusals: notModelled is raised by an arm of exec whose command has no meaning in the model yet. Safe. -/
inductive Refusal where
  | notModelled (mnemonic : String)
  deriving DecidableEq, Repr

/-- The partitions after the first boot: partition 0 holds all four dies (R430). -/
def Part.reset : List Part := [{ Part.init with mask := 15 }, Part.init, Part.init, Part.init]

/-- The module right after reset: first power-up with RESET_N still low, every register at its reset value, memories
listing nothing, no command waiting. -/
def State.reset : State where
  pending := []
  lny := Lny.init
  regions := List.replicate 32 Region.init
  power := Power.init
  thermal := Thermal.init
  tiles := List.replicate 384 Tile.init
  sram := []
  sramBad := []
  fly := []
  tileReqs := []
  hbm := []
  poison := []
  crcs := []
  stks := List.replicate 20 { Stack.init with training := true }
  dies := List.replicate 4 Die.init
  fabric := Fabric.init
  parts := Part.reset
  allocs := []
  cap := Capstan.init
  standby := Standby.init
  errs := List.replicate 5 ErrPage.init
  obs := Obsidian.init
  flash := []
  mram := Mram.init
  awaiting := []
  geodes := List.replicate 4 Geode.init
  spineMons := List.replicate 64 Monitor.init
  rst := Rst.init
  pins := Pins.init
  irqs := []
  coreAns := none
  coreWait := []
  coreRel := false
  coreLoads := []
  free := 0

end Sys2Proof.Machine
end

