-- ==== Sys2Proof/Machine/Ops.lean ====
section
/-! DEFINITION. The operations every meaning is built from: outcomes, byte stores, access to the parts of State, tile
SRAM and HBM, the error status block (16), the Obsidian log and the MRAM port (15, 14), interrupts and free values. -/
namespace Sys2Proof.Machine

abbrev Out := Host.Outcome State Fault Refusal

/-- Runs a meaning where every instance it names exists. -/
def onInst (ok : Bool) (s : State) (f : State → State) : Out :=
  if ok then .next (f s) else .fault .reservedInstance

/-! Byte stores: sparse, strictly rising, an unlisted byte reads 0. -/

def cellGet : List Host.Cell → Nat → Byte
  | [], _ => 0
  | (k, v) :: r, a => if a < k then 0 else if a = k then v else cellGet r a

def cellSet : List Host.Cell → Nat → Byte → List Host.Cell
  | [], a, b => if b = 0 then [] else [(a, b)]
  | (k, v) :: r, a, b =>
    if a < k then (if b = 0 then (k, v) :: r else (a, b) :: (k, v) :: r)
    else if a = k then (if b = 0 then r else (a, b) :: r)
    else (k, v) :: cellSet r a b

/-- The canonical form above a lower bound. -/
def cellsWf : Nat → List Host.Cell → Bool
  | _, [] => true
  | lo, (k, v) :: r => decide (lo ≤ k) && v != 0 && cellsWf (k + 1) r

/-- Removes every cell with an address in [lo, hi). -/
def cellsClear (l : List Host.Cell) (lo hi : Nat) : List Host.Cell := l.filter fun c => c.1 < lo || hi ≤ c.1

def cellsRead (l : List Host.Cell) (a : Nat) : Nat → List Byte
  | 0 => []
  | n + 1 => cellGet l a :: cellsRead l (a + 1) n

def cellsWrite (l : List Host.Cell) (a : Nat) : List Byte → List Host.Cell
  | [] => l
  | b :: bs => cellsWrite (cellSet l a b) (a + 1) bs

/-- Writes the bytes whose bit of mask is set. -/
def cellsMask (l : List Host.Cell) (a mask : Nat) : List Byte → List Host.Cell
  | [] => l
  | b :: bs => cellsMask (if mask % 2 = 1 then cellSet l a b else l) (a + 1) (mask / 2) bs

/-- Little-endian reading and writing (R5). -/
def leNat : List Byte → Nat
  | [] => 0
  | b :: bs => b.toNat + 256 * leNat bs

def natLe : Nat → Nat → List Byte
  | 0, _ => []
  | n + 1, v => BitVec.ofNat 8 (v % 256) :: natLe n (v / 256)

/-- Bytes [lo, lo + n) of a byte string. -/
def sub (l : List Byte) (lo n : Nat) : List Byte := (l.drop lo).take n
/-- The little-endian number in bytes [lo, lo + n). -/
def leAt (l : List Byte) (lo n : Nat) : Nat := leNat (sub l lo n)

/-- Replaces element i of a list. -/
def modAt {α : Type} (l : List α) (i : Nat) (f : α → α) : List α := l.modify i f

/-! Parts of State. -/

def State.tile (s : State) (t : Nat) : Tile := s.tiles.getD t Tile.init
def State.modTile (s : State) (t : Nat) (f : Tile → Tile) : State := { s with tiles := modAt s.tiles t f }
def State.die (s : State) (d : Nat) : Die := s.dies.getD d Die.init
def State.modDie (s : State) (d : Nat) (f : Die → Die) : State := { s with dies := modAt s.dies d f }
def State.region (s : State) (r : Nat) : Region := s.regions.getD r Region.init
def State.modRegion (s : State) (r : Nat) (f : Region → Region) : State := { s with regions := modAt s.regions r f }
def State.part (s : State) (p : Nat) : Part := s.parts.getD p Part.init
def State.modPart (s : State) (p : Nat) (f : Part → Part) : State := { s with parts := modAt s.parts p f }
def State.stk (s : State) (k : Nat) : Stack := s.stks.getD k Stack.init
def State.modStk (s : State) (k : Nat) (f : Stack → Stack) : State := { s with stks := modAt s.stks k f }
def State.port (s : State) (p : Nat) : Port := s.fabric.ports.getD p Port.init
def State.modPort (s : State) (p : Nat) (f : Port → Port) : State :=
  { s with fabric := { s.fabric with ports := modAt s.fabric.ports p f } }
def State.geode (s : State) (p : Nat) : Geode := s.geodes.getD p Geode.init
def State.modGeode (s : State) (p : Nat) (f : Geode → Geode) : State := { s with geodes := modAt s.geodes p f }
def State.page (s : State) (k : Nat) : ErrPage := s.errs.getD k ErrPage.init
def State.modPage (s : State) (k : Nat) (f : ErrPage → ErrPage) : State := { s with errs := modAt s.errs k f }
def State.mbx (s : State) (n : Nat) : Mailbox := s.cap.mbx.getD n Mailbox.init
def State.modCap (s : State) (f : Capstan → Capstan) : State := { s with cap := f s.cap }
def State.modMbx (s : State) (n : Nat) (f : Mailbox → Mailbox) : State :=
  s.modCap fun c => { c with mbx := modAt c.mbx n f }
def State.modLny (s : State) (f : Lny → Lny) : State := { s with lny := f s.lny }
def State.modPower (s : State) (f : Power → Power) : State := { s with power := f s.power }
def State.modThermal (s : State) (f : Thermal → Thermal) : State := { s with thermal := f s.thermal }
def State.modFab (s : State) (f : Fabric → Fabric) : State := { s with fabric := f s.fabric }
def State.modReef (s : State) (d : Nat) (f : Reef → Reef) : State := s.modDie d fun x => { x with reef := f x.reef }
def State.modUpd (s : State) (d : Nat) (f : Upd → Upd) : State := s.modDie d fun x => { x with upd := f x.upd }

/-- Lanyard (R148). -/
def State.now (s : State) : Nat := s.lny.now
/-- The beat number of a Lanyard time: 48 bits (R159). -/
def beatOf (shift now : Nat) : Nat := now / 2 ^ shift % 2 ^ 48
def State.beatNow (s : State) : Nat := beatOf s.lny.shift s.lny.now

/-- The die, region and partition of a tile (R20 to R22, R430). -/
def dieOfTile (t : Nat) : Nat := t / 96
def regionOfTile (t : Nat) : Nat := t / 12
def partOfDieGo (d : Nat) : Nat → List Part → Option Nat
  | _, [] => none
  | p, x :: xs => if bit x.mask d then some p else partOfDieGo d (p + 1) xs
def State.partOfDie (s : State) (d : Nat) : Option Nat := partOfDieGo d 0 s.parts
def State.partOfTile (s : State) (t : Nat) : Option Nat := s.partOfDie (dieOfTile t)
def State.diesOf (s : State) (p : Nat) : List Nat := (List.range 4).filter fun d => bit (s.part p).mask d
def State.tilesOf (s : State) (p : Nat) : List Nat := (List.range 384).filter fun t => bit (s.part p).mask (dieOfTile t)
def State.defined (s : State) (p : Nat) : Bool := (s.part p).mask != 0
/-- Whether a Geode dump holds the tile (R474). -/
def State.tileFrozen (s : State) (t : Nat) : Bool :=
  match s.partOfTile t with
  | some p => (s.geode p).frozen
  | none => false

/-- Whether the timers of a partition have stopped: a dump froze it and has settled (R474). -/
def State.timersStopped (s : State) (p : Nat) : Bool := (s.geode p).frozen && (s.geode p).phase != .settling

/-- A free value (a value the spec does not state), fresh at every draw. -/
def State.drawFree (s : State) : W64 × State := (Config.freeWord s.free, { s with free := s.free + 1 })

/-- Saturating 16-bit and 32-bit counters. -/
def inc16 (n : Nat) : Nat := min (n + 1) 65535
def inc32 (n : Nat) : Nat := min (n + 1) (2 ^ 32 - 1)

/-- An external interrupt source of the cores' controller becomes pending (R420, R481, R153). -/
def State.raiseIrq (s : State) (src : Nat) : State :=
  { s with irqs := if s.irqs.contains src then s.irqs else s.irqs ++ [src] }

/-- Node IDs {G, z, y, x} of coordinates (R291), and the module's own: the locked one (R448), else that of a join. -/
def nodeOf (x : Nat × Nat × Nat) : Nat := x.2.2 % 32 * 1024 + x.2.1 % 32 * 32 + x.1 % 32
def State.nodeId (s : State) : Option Nat :=
  match s.cap.fabLock with
  | some n => some n
  | none => s.parts.findSome? fun p => p.join.map fun j => nodeOf j.coord

/-! The error status block. -/

def ErrPage.full (p : ErrPage) : Bool := p.head != p.tail && p.head % 32 == p.tail % 32

/-- R481: a new record is written only while the ring is not full. -/
def ErrPage.put (p : ErrPage) (r : EvRec) : ErrPage :=
  if p.full then { p with dropped := inc16 p.dropped, overflow := true }
  else { p with recs := p.recs.set (p.head % 32) r, head := (p.head + 1) % 64 }

/-- Posts a record in one page and raises source 36 + s when it is written and enabled (R481). -/
def State.postPage (s : State) (k : Nat) (r : EvRec) : State :=
  let p := s.page k
  let s1 := s.modPage k fun x => x.put r
  if !p.full && p.irqEn then s1.raiseIrq (36 + k) else s1

/-- Posts an event in the page of a partition, or of the module where no partition owns it (R480). -/
def State.post (s : State) (part : Option Nat) (event source layer op detail : Nat) : State :=
  match part with
  | some p => s.postPage (p + 1) ⟨event, p, source, s.now, layer, op, detail⟩
  | none => s.postPage 0 ⟨event, 0xFF, source, s.now, layer, op, detail⟩

/-- An event of "every partition": page 0 and the page of every defined partition (R480). -/
def State.postAll (s : State) (event source detail : Nat) : State :=
  [0, 1, 2, 3].foldl (fun s p => if s.defined p then s.post (some p) event source 0 0 detail else s)
    (s.post none event source 0 0 detail)

/-! The Obsidian log and the MRAM write port. -/

/-- Where a record goes (R460): the first-fault set of this boot, then the main ring. -/
def Obsidian.place (o : Obsidian) : Nat × Obsidian :=
  if o.filled < 256 then (o.set * 256 + o.filled, { o with filled := o.filled + 1 })
  else (o.ringNext, { o with ringNext := if o.ringNext = 131071 then 2048 else o.ringNext + 1 })

/-- A record's write lands in MRAM. -/
def Obsidian.land (o : Obsidian) (r : ObsRec) : Obsidian :=
  let (i, o1) := o.place
  { o1 with recs := o1.recs.filter (fun x => x.1 != i) ++ [(i, r)] }

def State.mramLand (s : State) (q : MramReq) : State :=
  match q.rec? with
  | some r => { s with obs := s.obs.land r }
  | none => s

/-- Least writes in 16 of a waiting class (Table 14-11). -/
def MramClass.share : MramClass → Nat
  | .firstFault => 0 | .hss => 4 | .slate => 2 | .obsidian => 2 | .geode => 1

def MramClass.all : List MramClass := [.firstFault, .hss, .slate, .obsidian, .geode]

/-- The class served next: the first-fault area first; then a waiting class short of its share among the last 16 writes,
then the highest priority (Table 14-11). -/
def Mram.next (m : Mram) : Option MramClass :=
  let waits := fun c : MramClass => m.waiting.any fun q => q.cls == c
  let have_ := fun c : MramClass => (m.served.filter (fun x => x == c)).length
  if waits .firstFault then some .firstFault
  else match MramClass.all.find? fun c => waits c && have_ c < c.share with
    | some c => some c
    | none => MramClass.all.find? waits

/-- Starts the next pulse unless a reset is held back (R451). -/
def Mram.start (m : Mram) : Mram :=
  if m.held.isSome then m
  else match m.next with
    | none => m
    | some c =>
      match m.waiting.find? fun q => q.cls == c with
      | none => m
      | some q => { m with pulse := some q, waiting := m.waiting.erase q, served := (c :: m.served).take 15 }

/-- A write asks for the MRAM port. -/
def State.mramWrite (s : State) (q : MramReq) : State :=
  let m := { s.mram with waiting := s.mram.waiting ++ [q] }
  { s with mram := if m.pulse.isSome then m else m.start }

/-- An Obsidian record as it lies in MRAM (Table 15-8): its version (R15), fields, payload and CRC. -/
def ObsRec.bytes (r : ObsRec) : List Byte :=
  let body := natLe 1 0 ++ natLe 1 1 ++ natLe 2 r.rtype ++ natLe 2 r.boot ++ natLe 1 r.part ++ natLe 1 (natOfBool r.unlocked) ++
    natLe 8 r.time ++ natLe 4 r.seq ++ natLe 4 0 ++ (((r.payload ++ [0, 0, 0, 0]).take 4).map fun w => natLe 8 w).flatten
  body ++ natLe 4 0 ++ natLe 4 (crc32c body)

/-- Writes an Obsidian record (R460, Table 15-8); part 0xFF is the module. -/
def State.log (s : State) (rtype part : Nat) (payload : List Nat) : State :=
  let r : ObsRec := ⟨rtype, s.cap.bootCount % 65536, part, !s.lny.locked, s.now, s.obs.seq % 2 ^ 32, payload⟩
  let ahead := (s.mram.waiting.filter fun q => q.rec?.isSome).length +
    (match s.mram.pulse with | some q => natOfBool q.rec?.isSome | none => 0)
  let cls := if s.obs.filled + ahead < 256 then MramClass.firstFault
    else if rtype = 0x10 then MramClass.geode else MramClass.obsidian
  ({ s with obs := { s.obs with seq := s.obs.seq + 1 } }).mramWrite ⟨cls, some r⟩

/-- Whether a commit can be written now: no pulse in progress and no reset held (R451). -/
def State.mramIdle (s : State) : Bool := s.mram.pulse.isNone && s.mram.held.isNone

/-! Gears (Table 06-3): VDD_LOGIC and VDD_SRAM in mV, clock multiplier in eighths, HBM pin rate in tenths of Gb/s,
VDD_HBMIF in mV. -/

def gearV (g : Nat) : Nat := [450, 480, 510, 540, 570, 600, 675, 750].getD g 450
def gearSram (g : Nat) : Nat := [600, 600, 620, 650, 680, 700, 750, 800].getD g 600
def gearMult (g : Nat) : Nat := [32, 40, 50, 60, 70, 80, 94, 108].getD g 32
def gearPin (g : Nat) : Nat := [32, 32, 48, 48, 64, 64, 64, 64].getD g 32
def gearHbmif (g : Nat) : Nat := [650, 650, 700, 700, 750, 750, 750, 750].getD g 650

/-! Energy accounting (R469): raw estimates in µJ × mV², so that the ratio of VDD_LOGIC² to gear 5 enters exactly. -/

/-- Event kinds: matrix slices are counted per format pair above evSlice. -/
def evVector : Nat := 1
def evSram : Nat := 2
def evLine : Nat := 3
def evItem : Nat := 4
def evCache : Nat := 5
def evHbm : Nat := 6
def evFlit : Nat := 7
def evSlice : Nat := 256

def addRaw (l : List (Nat × Nat × Nat)) (layer op v : Nat) : List (Nat × Nat × Nat) :=
  match l with
  | [] => [(layer, op, v)]
  | (a, b, c) :: r => if a = layer && b = op then (a, b, c + v) :: r else (a, b, c) :: addRaw r layer op v

/-- Adds n events of a kind to the raw estimate of a pair on a die, once the die is calibrated (R471). -/
def State.charge (s : State) (d gear layer op kind n : Nat) : State :=
  if n = 0 || !(s.die d).energy.calibrated then s
  else s.modDie d fun x =>
    { x with energy := { x.energy with raw := addRaw x.energy.raw layer op (n * Config.eventCost kind * (gearV gear) ^ 2) } }

/-! Tile SRAM (R228, R232). -/

def sramKey (t a : Nat) : Nat := t * 2 ^ 21 + a % 2 ^ 21
def State.sramRead (s : State) (t a n : Nat) : List Byte := cellsRead s.sram (sramKey t a) n
/-- Writes whole words' parity good (R232). -/
def State.sramWrite (s : State) (t a : Nat) (bs : List Byte) : State :=
  let k := sramKey t a
  { s with sram := cellsWrite s.sram k bs, sramBad := s.sramBad.filter fun w => w + 4 ≤ k || k + bs.length ≤ w }
/-- A byte-masked write; a word keeps bad parity unless the mask covers it (R232). -/
def State.sramMask (s : State) (t a mask : Nat) (bs : List Byte) : State :=
  let k := sramKey t a
  { s with sram := cellsMask s.sram k mask bs
           sramBad := s.sramBad.filter fun w => w < k || k + bs.length ≤ w || bits mask (w - k) 4 != 15 }
/-- Zeroed with good parity (Table 15-2). -/
def State.sramZero (s : State) (t : Nat) : State :=
  { s with sram := cellsClear s.sram (t * 2 ^ 21) ((t + 1) * 2 ^ 21)
           sramBad := s.sramBad.filter fun w => w < t * 2 ^ 21 || (t + 1) * 2 ^ 21 ≤ w }
/-- The upset of a word: its parity is bad until it is written (R232). -/
def State.sramUpset (s : State) (t a : Nat) : State :=
  let w := sramKey t a / 4 * 4
  { s with sramBad := if s.sramBad.contains w then s.sramBad else w :: s.sramBad }
/-- The byte address in tile t of the first bad word in [a, a + n). -/
def State.sramBadIn (s : State) (t a n : Nat) : Option Nat :=
  let k := sramKey t a
  let hits := s.sramBad.filter fun w => k < w + 4 && w < k + n
  match hits with
  | [] => none
  | w :: ws => some (ws.foldl min w % 2 ^ 21)
def upsetIn (s : State) (t : Nat) (u : Option Nat) : State :=
  match u with
  | some a => s.sramUpset t a
  | none => s

/-- Readers of SRAM_PARITY events (Table 16-12). -/
def rdFeeder : Nat := 0
def rdVxe : Nat := 1
def rdFetch : Nat := 2
def rdPorter : Nat := 3
def rdReef : Nat := 4
def rdGeode : Nat := 5

def State.postParity (s : State) (t a reader layer op : Nat) : State :=
  s.post (s.partOfTile t) 0x0009 t layer op (a % 2 ^ 21 + reader * 2 ^ 21)

/-! HBM placement (R244, R245), allocations (R226). -/

def spread5 (c : Nat) : Nat × Nat × Nat :=
  let u := c / 160
  let v := c % 160
  ((v % 5 + u) % 5, v / 5 ^^^ (u % 32), u)

/-- Stack, pseudo-channel and byte within it of node offset o (R245). -/
def place (al : Alloc) (o : Nat) : Nat × Nat × Nat :=
  let rel := o - al.e.base
  let c := rel / 256
  let b := rel % 256
  if al.e.mode = 0 then
    let (t, p, u) := spread5 c
    (5 * al.e.die + t, p, al.pcBase + 256 * u + b)
  else if al.e.mode = 1 then
    let gl := al.e.dgran
    let g := rel / 2 ^ gl
    let d := (al.e.die + g) % 4
    let c2 := g / 4 * 2 ^ (gl - 8) + c % 2 ^ (gl - 8)
    let (t, p, u) := spread5 c2
    (5 * d + t, p, al.pcBase + 256 * u + b)
  else
    let u := c / 640
    let v := c % 640
    ((v % 20 + u) % 20, v / 20 ^^^ (u % 32), al.pcBase + 256 * u + b)

def pcBytes : Nat := 0x48000000
/-- The key of a physical byte. -/
def physKey (x : Nat × Nat × Nat) : Nat := (x.1 * 32 + x.2.1) * pcBytes + x.2.2
def stackOfKey (k : Nat) : Nat := k / pcBytes / 32
def dieOfKey (k : Nat) : Nat := stackOfKey k / 5

def Alloc.has (al : Alloc) (o : Nat) : Bool := al.e.base ≤ o && o < al.e.base + al.e.size
/-- The allocation of a partition that holds an offset (R226). -/
def State.allocAt (s : State) (p o : Nat) : Option Alloc := s.allocs.find? fun al => al.part == p && al.has o
def State.allocsOf (s : State) (p : Nat) : List Alloc := s.allocs.filter fun al => al.part == p

/-- The home slice of a node offset: the XOR of its 4-bit fields from bit 6 up (R239). -/
def homeSlice (o : Nat) : Nat :=
  (List.range 9).foldl (fun x i => x ^^^ bits o (6 + 4 * i) 4) 0

/-- Node offsets of Table 08-1. -/
def hbmEnd : Nat := 0xB400000000
def sramWin : Nat := 0x3C000000000
def isHbm (o : Nat) : Bool := o < hbmEnd
def isTileSram (o : Nat) : Bool := sramWin ≤ o && o < sramWin + 384 * 2 ^ 21
def tileOfOff (o : Nat) : Nat := (o - sramWin) / 2 ^ 21
def aOfOff (o : Nat) : Nat := (o - sramWin) % 2 ^ 21

/-! The shared cache and the side table. A line's key is its physical byte divided by 64. -/

def State.cached (s : State) (d key : Nat) : Option CacheLine := (s.die d).cache.find? fun l => l.key == key
/-- The 64 bytes of a line as its home sees them. -/
def State.lineRead (s : State) (d key : Nat) : List Byte :=
  match s.cached d key with
  | some l => l.data
  | none => cellsRead s.hbm (key * 64) 64
def State.linePoison (s : State) (d key : Nat) : Bool :=
  match s.cached d key with
  | some l => l.poisoned
  | none => s.poison.contains key
def putCache (c : List CacheLine) (l : CacheLine) : List CacheLine :=
  l :: c.filter fun x => x.key != l.key
def State.setCache (s : State) (d : Nat) (l : CacheLine) : State := s.modDie d fun x => { x with cache := putCache x.cache l }

/-- The default side-table entry: the CRC of 4,096 zero bytes (R249). -/
def crcZero : Nat := 0x98F94189
/-- The physical identity of a 4 KiB block: the key of its first byte. -/
def State.crcOf (s : State) (blk : Nat) : Nat :=
  match ((s.die (dieOfKey blk)).sideTab ++ s.crcs).find? fun e => e.1 == blk with
  | some e => e.2
  | none => crcZero
def setCrc (l : List (Nat × Nat)) (blk v : Nat) : List (Nat × Nat) :=
  let r := l.filter fun e => e.1 != blk
  if v = crcZero then r else (blk, v) :: r

/-- The change that writing new over old at byte offset i of a 4 KiB block makes in its CRC-32C, by linearity: the CRC
register started at 0 over the difference followed by zeros (R250). -/
def crcDelta (i : Nat) (old new : List Byte) : Nat :=
  let diff := List.zipWith (fun a b => a ^^^ b) old new
  crc32cGo 0 (diff ++ List.replicate (4096 - i - diff.length) 0)

end Sys2Proof.Machine
end

