-- ==== Sys2Proof/Machine/Flags.lean ====
section
/-! DEFINITION. The flag words and the step veto: which kinds of veto event a flag gives (R331), the veto latch and late
vetoes (R135, R136), the strand and tile flag words (Table 05-6, R132) and the matrix flag word (Table 03-6). -/
namespace Sys2Proof.Machine

def hasAny (x mask : Nat) : Bool := x &&& mask != 0

/-- The MTX copies of matrix flag word bits (Table 05-6). -/
def mtx (m : Nat) : Nat := m % 128 * 65536

/-- Matrix flag word bits (Table 03-6). -/
def mfSatA20 : Nat := 1
def mfSatI20 : Nat := 2
def mfNanAcc : Nat := 4
def mfOvfOut : Nat := 8
def mfNanIn : Nat := 16
def mfResidue : Nat := 32
def mfScaleBad : Nat := 64

/-- The kinds of veto event that masked flags give (R331). -/
def Veto.ofFlags (fl : Nat) : Veto where
  nonfin := hasAny fl (flInvalid + flDivZero + flOverflow + flNanIn + mtx (mfNanAcc + mfOvfOut + mfNanIn))
  sat := hasAny fl (flSaturate + mtx (mfSatA20 + mfSatI20))
  err := hasAny fl (flUnderflow + flInexact + mtx (mfResidue + mfScaleBad))

def Veto.error : Veto := ⟨false, false, true⟩

/-- Whether the die's last contribution for a step has already left (R136). -/
def Reef.late (r : Reef) (step : Nat) : Bool :=
  match r.lateStep with
  | some st => step ≤ st
  | none => false

/-- A veto event on a die for a step: the latch slot STEP mod 2 (R135), or a late veto record (R136). -/
def State.setVeto (s : State) (d step : Nat) (v : Veto) (source layer op : Nat) : State :=
  if !v.any then s
  else if (s.die d).reef.late step then s.post (s.partOfDie d) 0x0008 source layer op step
  else s.modReef d fun r => { r with latch := modAt r.latch (step % 2) fun x => x.join v }

/-- The strand an instruction was issued from, while its slot still holds that launch of it. -/
def Tile.holds (x : Tile) (i : Info) : Option Slot :=
  match x.slots.getD i.slot none with
  | some sl => if sl.inst = i.inst then some sl else none
  | none => none

def Tile.modSlot (x : Tile) (k : Nat) (f : Slot → Slot) : Tile :=
  { x with slots := modAt x.slots k fun o => o.map f }

/-- Flags of an instruction: ORed into the strand word and the tile sticky word (R132), and a veto event for those that
its VETO_MASK selects (R135). -/
def State.raiseFlags (s : State) (t : Nat) (i : Info) (fl : Nat) : State :=
  if fl = 0 then s
  else
    let s1 := s.modTile t fun x =>
      let x := { x with vxe := { x.vxe with tileFlags := x.vxe.tileFlags ||| fl } }
      match x.holds i with
      | some _ => x.modSlot i.slot fun sl => { sl with flags := sl.flags ||| fl }
      | none => x
    s1.setVeto (dieOfTile t) i.step (Veto.ofFlags (fl &&& i.veto)) t i.layer i.op

/-- Sets bits of the matrix flag word, FIRST_SAT at the first saturation since the last clear, and the MTX copies. -/
def State.raiseMflags (s : State) (t : Nat) (i : Info) (m dpu : Nat) : State :=
  if m = 0 then s
  else
    let s1 := s.modTile t fun x =>
      let w := x.arr.mflags
      let first := hasAny m (mfSatA20 + mfSatI20) && !bit w 24
      let w1 := w ||| m ||| (if first then dpu % 256 * 65536 + 2 ^ 24 else 0)
      { x with arr := { x.arr with mflags := w1 } }
    s1.raiseFlags t i (mtx m)

end Sys2Proof.Machine
end

