-- ==== Sys2Proof/Machine/Operands.lean ====
section
/-! DEFINITION. The operand forms: elements of a format in a byte string (R5, R39), lanes of a vector register (R116),
matrix panels in linear and turn mode (R61 to R63, R230), transposed 16 × 16 blocks (R236), and effective addresses
(R233, R291). -/
namespace Sys2Proof.Machine

/-- Element k of a packed byte string, w bits wide. -/
def elemBits (n w k : Nat) : Nat := bits n (w * k) w

/-- Packs elements of w bits, element 0 lowest. -/
def packBits (w : Nat) : List Nat → Nat
  | [] => 0
  | x :: xs => x % 2 ^ w + 2 ^ w * packBits w xs

/-- The elements of a byte string. -/
def unpack (w count : Nat) (bs : List Byte) : List Nat :=
  let n := leNat bs
  (List.range count).map fun k => elemBits n w k

/-- Lanes of a vector register (R116). -/
def vLanes (v : VReg) (w : Nat) : List Nat := (List.range (2048 / w)).map fun k => elemBits v.toNat w k
def vOfLanes (w : Nat) (l : List Nat) : VReg := BitVec.ofNat 2048 (packBits w l)
def vBytes (v : VReg) : List Byte := natLe 256 v.toNat
def vOfBytes (l : List Byte) : VReg := BitVec.ofNat 2048 (leNat l)

/-- Row x of a 512-byte panel as the feeder delivers it: 32 bytes, linear (R61) or through the turn read (R230). -/
def panelRow (panel : Nat) (turn : Bool) (w x : Nat) : List Byte :=
  if turn then
    let els := (List.range (256 / w)).map fun k => elemBits panel w (k / 16 * 256 + k % 16 * 16 + x)
    natLe 32 (packBits w els)
  else natLe 32 (bits panel (256 * x) 256)

/-- Transposes every 16 × 16 block of w-bit elements in a byte string (R236). -/
def turnBlock (w : Nat) (bs : List Byte) : List Byte :=
  let n := leNat bs
  natLe (32 * w) (packBits w ((List.range 256).map fun k => elemBits n w (k % 16 * 16 + k / 16)))

def turnGo (w : Nat) : Nat → List Byte → List Byte
  | 0, _ => []
  | k + 1, bs => turnBlock w (bs.take (32 * w)) ++ turnGo w k (bs.drop (32 * w))

def turnBlocks (w : Nat) (bs : List Byte) : List Byte := turnGo w (bs.length / (32 * w)) bs

/-- EW of Table 08-4. -/
def ewBits (e : Nat) : Nat := 4 * 2 ^ (e % 4)

/-- Fields of a global address (Table 10-7). -/
def adrSpace (a : Nat) : Nat := bits a 62 2
def adrRes (a : Nat) : Nat := bits a 58 4
def adrNode (a : Nat) : Nat := bits a 42 16
def adrOff (a : Nat) : Nat := bits a 0 42

/-- A value times a positive dyadic. -/
def Val.scale (v : Val) (c : Dy) : Val :=
  match v with
  | .fin neg m e => .fin neg (m * c.m.natAbs) (e + c.e)
  | v => v

/-- FP32 words of a byte string. -/
def words32 (bs : List Byte) (n : Nat) : List Nat := unpack 32 n bs
def bytes32 (ws : List Nat) : List Byte := natLe (4 * ws.length) (packBits 32 ws)

end Sys2Proof.Machine
end

