-- ==== Sys2Proof/Machine/Order.lean ====
section
/-! DEFINITION. What orders the porter's operations: the requests of an operation (R234, R238, R262), the node an address
names (R291, R292), the scopes of Table 09-1, landing (R256, R264) and release (R269). -/
namespace Sys2Proof.Machine

/-! Nodes. -/

/-- Coordinates of a module node ID (R291), by dimension. -/
def coord (node d : Nat) : Nat := bits node (5 * d) 5
def isGateway (node : Nat) : Bool := bit node 15

/-- Attachment of a gateway: coordinates of the module and span port index (R297). -/
def State.gateway (s : State) (node : Nat) : Option (Nat × Nat) :=
  (s.fabric.gateways.find? fun e => e.1 == node % 256).map Prod.snd

/-- Whether a node ID may be a destination under R292. -/
def nodeValid (s : State) (dims : Nat × Nat × Nat) (node : Nat) : Bool :=
  if isGateway node then bits node 8 7 == 0 && (s.gateway node).isSome
  else decide (coord node 0 < dims.1 ∧ coord node 1 < dims.2.1 ∧ coord node 2 < dims.2.2)

/-- The node an effective address names (R292): itself, another, or a breach. -/
inductive Target where
  | own
  | node (n : Nat)
  | breach (code : Nat)
  deriving DecidableEq, Repr

def State.target (s : State) (p a : Nat) : Target :=
  if adrRes a ≠ 0 || 2 ≤ adrSpace a then .breach 0x30
  else if adrSpace a = 0 then (if adrNode a = 0 then .own else .breach 0x30)
  else match s.nodeId with
    | none => .breach 0x31
    | some own =>
      if adrNode a = own then .own
      else match (s.part p).join with
        | none => .breach 0x32
        | some j => if nodeValid s j.dims (adrNode a) then .node (adrNode a) else .breach 0x31

/-! The die square (R23, R24, R235). -/

/-- The dies that each of the four edges bridges. -/
def edgeDies (k : Nat) : Nat × Nat := [(0, 1), (2, 3), (0, 2), (1, 3)].getD k (0, 0)

/-- The edge between two dies, if they are bridged. -/
def edgeOf (a b : Nat) : Option Nat :=
  (List.range 4).find? fun k => edgeDies k == (a, b) || edgeDies k == (b, a)

/-- The intermediate die of a request between diagonal dies: by default the one across the row edge first, with VIA 1 the
other. -/
def midDie (a b via : Nat) : Option Nat :=
  if a + b ≠ 3 then none
  else
    let row := [1, 0, 3, 2].getD a 0
    some (if via = 1 then 3 - row else row)

/-- The edges a request crosses, in order. -/
def edgePath (a b via : Nat) : List Nat :=
  match midDie a b via with
  | some m => (edgeOf a m).toList ++ (edgeOf m b).toList
  | none => (edgeOf a b).toList

/-! Block resets and controllers. -/

/-- Whether a block reset holds a block of Table 15-4 (R458). -/
def State.held (s : State) (k : BlockKind) (idx : Nat) : Bool :=
  match s.rst.blk with
  | some b => b.kind == k && b.idx == idx
  | none => false

/-- Whether the operation was outstanding when a block reset began, and so still runs (R458). -/
def State.wasOpen (s : State) (who : Who) : Bool :=
  match s.rst.blk with
  | some b => b.open_.contains who
  | none => false

/-- Whether the controller of a physical line accepts commands (R171, R458). -/
def State.stackFree (s : State) (k : Nat) : Bool := !(s.stk k).training && !s.held .hbmCtrl k
def State.keyReady (s : State) (key : Nat) : Bool := s.stackFree (stackOfKey (key * 64))

/-- Whether the controllers of a request's stack accept commands (R171, R247, R458). -/
def State.stackReady (s : State) (al : Alloc) (off : Nat) : Bool := s.stackFree (place al off).1

/-- Whether the controllers of every stack that a partition's allocations use accept commands (R171). -/
def State.engReady (s : State) (p : Nat) : Bool :=
  (List.range 20).all fun k => s.stackFree k || !(s.allocs.any fun al => al.part == p && (al.e.mode != 0 || al.e.die == k / 5))

/-! An operation's requests. -/

def PorOp.isWrite (o : PorOp) : Bool :=
  match o.kind with
  | .pwr | .pland | .pscat | .pamo => true
  | .prd | .pgath | .reefPut _ _ | .reefClose _ => false

def PorOp.isItem (o : PorOp) : Bool :=
  match o.kind with
  | .pgath | .pscat => true
  | .prd | .pwr | .pland | .pamo | .reefPut _ _ | .reefClose _ => false

def PorOp.isCas (o : PorOp) : Bool := o.kind == .pamo && (o.f.sub == 13 || o.f.sub == 14)

/-- How far the target of request r lies above the effective address. -/
def PorOp.delta (o : PorOp) (r : Nat) : Nat :=
  if o.isItem then 32 * o.index.getD r 0 else if o.isCas then 32 * r else 64 * r
def PorOp.reqOff (o : PorOp) (r : Nat) : Nat := adrOff o.addr + o.delta r

def PorOp.isFlag (o : PorOp) (r : Nat) : Bool := o.kind == .pland && r + 1 == o.total

def ReqEnd.good : ReqEnd → Bool
  | .ok => true
  | .dataBad _ _ => true
  | .refused _ _ _ => false
  | .timeout _ => false
  | .lost _ => false
  | .aborted _ => false

/-- How a request of the operation failed, if one did. -/
def PorOp.failed (o : PorOp) : Option ReqEnd := (o.ends ++ o.resps.map Resp.fin).find? fun e => !e.good

/-- Whether every request has landed (R256). -/
def PorOp.landed (o : PorOp) : Bool := o.begun && o.flying.isEmpty && decide (o.total ≤ o.next) && o.failed.isNone

/-- The requests that have not landed: not yet answered, not yet sent, or refused. -/
def PorOp.unlanded (o : PorOp) : List Nat :=
  if o.failed.isSome then List.range o.total else o.flying ++ (List.range (o.total - o.next)).map (o.next + ·)

/-- The scope a request carries: of a scoped PLAND its first line only (R268). -/
def PorOp.scopeOf (o : PorOp) (r : Nat) : Nat := if o.kind == .pland && r != 0 then 0 else o.f.scope

/-- A release write (R268). -/
def PorOp.isRelease (o : PorOp) : Bool := o.f.scope != 0 && (o.kind == .pwr || o.kind == .pland || o.kind == .pamo)

/-! Scopes and releases. -/

/-- Whether a location of the module lies in a scope around tile t (Table 09-1). -/
def State.inScope (s : State) (scope t p off : Nat) : Bool :=
  if scope = 0 then false
  else if 4 ≤ scope then true
  else if isTileSram off then
    let u := tileOfOff off
    if scope = 1 then u == t else if scope = 2 then u / 4 == t / 4 else dieOfTile u == dieOfTile t
  else scope == 3 && match s.allocAt p off with
    | some al => (place al off).1 / 5 == dieOfTile t
    | none => false

/-- Whether an operation still has a write to land within a scope. The items of one that has not read its index list may
lie on any die. -/
def State.openWrite (s : State) (scope t p : Nat) (o : PorOp) : Bool :=
  o.isWrite && match (if o.begun then (match o.node with | some n => Target.node n | none => .own) else s.target p o.addr) with
    | .own => if o.isItem && !o.begun then decide (3 ≤ scope) else o.unlanded.any fun r => s.inScope scope t p (o.reqOff r)
    | .node _ => scope == 5 && !o.unlanded.isEmpty
    | .breach _ => false

/-- R269: whether every write to a location within the scope has landed that a launch issued before instruction id. -/
def State.released (s : State) (scope t inst id : Nat) : Bool :=
  let x := s.tile t
  let p := (s.partOfTile t).getD 0
  scope == 0 ||
    !((x.ops ++ x.porQ).any fun o => o.info.inst == inst && o.info.id < id && s.openWrite scope t p o) &&
      !(x.track.any fun e => e.wr && e.inst == inst && e.id < id) &&
      !(scope == 5 && x.slots.any fun o => match o with | some sl => sl.inst == inst && !sl.badNodes.isEmpty | none => false)

end Sys2Proof.Machine
end

