-- ==== Sys2Proof/Machine/Tiles.lean ====
section
/-! DEFINITION. What every tile instruction shares: tokens (R192, R193), faults and their actions (Tables 07-7, 07-8),
aborting a strand in every engine (R89, R147, R254), the range tracker (R195, R196), the span checks of R199, R200 and
R216, and issue (R180). -/
namespace Sys2Proof.Machine

/-- The four words of a strand fault record (Table 07-7). -/
def FaultRec.words (r : FaultRec) : List Nat :=
  [r.cls % 256 + r.code % 256 * 2 ^ 8 + r.tile % 2 ^ 16 * 2 ^ 16 + r.layer % 2 ^ 16 * 2 ^ 32 + r.op % 2 ^ 16 * 2 ^ 48,
   r.strandId % 2 ^ 32 + r.ip % 2 ^ 17 * 2 ^ 32 + natOfBool r.ipValid * 2 ^ 49 + r.tries % 4 * 2 ^ 50,
   r.beat % 2 ^ 48, r.detail % 2 ^ 64]

/-- A trigger reaches the dump controller of a partition (R473). -/
def State.trigger (s : State) (p : Option Nat) (tr : Trig) : State :=
  match p with
  | some p =>
    if (s.geode p).frozen then
      s.modGeode p fun g => { g with hdr := g.hdr.map fun h => { h with later := inc16 h.later } }
    else s.modGeode p fun g => { g with trigs := g.trigs ++ [tr] }
  | none => s

/-- A fault record enters the die's queue with a FAULT_QUEUED event (R484), and the first of a step the Obsidian log
(Table 15-9). -/
def State.postFault (s : State) (d source : Nat) (r : FaultRec) (step : Nat) : State :=
  let p := s.partOfDie d
  let full := 256 ≤ (s.die d).faultQ.length
  let s1 := if full then
      match p with
      | some p => s.modPage (p + 1) fun x => { x with faultDrop := inc16 x.faultDrop }
      | none => s
    else s.modDie d fun x => { x with faultQ := x.faultQ ++ [r] }
  let s2 := s1.post p 0x0015 source r.layer r.op (r.cls % 256 + r.code % 256 * 256)
  if (s.die d).obsStep = some step then s2
  else (s2.modDie d fun x => { x with obsStep := some step }).log 0x000F (p.getD 0xFF) r.words

/-! Discarding a strand's work. -/

def MmaRec.stop (m : MmaRec) : Nat := m.start + m.f.s

/-- Removed slice positions below p. -/
def cutBelow (cuts : List (Nat × Nat)) (p : Nat) : Nat :=
  (cuts.map fun c => min p c.2 - min p c.1).sum

def inCuts (cuts : List (Nat × Nat)) (p : Nat) : Bool := cuts.any fun c => c.1 ≤ p && p < c.2

/-- A link's slices, whose first has the position base, without those of removed blocks. -/
def cutLink (cuts : List (Nat × Nat)) (base : Nat) (l : List Slice) : List Slice :=
  ((List.range l.length).zip l).filterMap fun x => if inCuts cuts (base + x.1) then none else some x.2

/-- Discards every unfinished block that holds an MMA of the strands chosen (R89, R90): its MMAs, slices and entry go,
and a DPU that had begun it falls back to the block before it. -/
def Arr.discard (a : Arr) (mine : Info → Bool) : Arr :=
  let bad := ((a.mmas.filter fun m => mine m.info).map fun m => m.blk).dedup
  if bad.isEmpty then a
  else
    let cuts := (a.mmas.filter fun m => bad.contains m.blk).map fun m => (m.start, m.stop)
    let below := fun n : Nat => (bad.filter fun b => b < n).length
    let pos := fun p : Nat => p - cutBelow cuts p
    { a with
      mmas := (a.mmas.filter fun m => !bad.contains m.blk).map fun m => { m with start := pos m.start, blk := m.blk - below m.blk }
      blocks := (a.blocks.filter fun b => !bad.contains b.n).map fun b => { b with n := b.n - below b.n }
      nextSlice := pos a.nextSlice
      openBlk := a.openBlk && !bad.contains (a.nextBlk - 1)
      nextBlk := a.nextBlk - below a.nextBlk
      f := a.f.map pos
      g := a.g.map pos
      c := a.c.map pos
      linkA := List.zipWith (fun l p => cutLink cuts (p - l.length) l) a.linkA a.f
      linkB := List.zipWith (fun l p => cutLink cuts (p - l.length) l) a.linkB a.g
      dpus := List.zipWith (fun (x : Dpu) p =>
        if p ≠ 0 && inCuts cuts (p - 1) then { x with a20 := A20.clear, i20 := 0, acc := x.drain } else x) a.dpus a.c
      drained := a.drained.map fun n => n - below n }

/-- An entry whose VPOP, of issue number id, has completed, or stays consumed because it was discarded (R146, R147). -/
def QEntry.finish (ids : List Nat) (e : QEntry) : QEntry :=
  match e.by_ with
  | some id => if ids.contains id then { e with done := true } else e
  | none => e

/-- Discards a launch's work in flight in every engine. redo: for a re-execution, which also frees the strand's visible
entries that VPOP has not taken (R219). An entry that a discarded VPOP had taken stays consumed (R147). -/
def Tile.discard (x : Tile) (inst : Nat) (redo : Bool) : Tile :=
  let mine := fun i : Info => i.inst == inst
  let arr := x.arr.discard mine
  let pops := (x.vxe.inflight.filter fun r => mine r.info).map fun r => r.info.id
  { x with
    arr := { arr with queue := (arr.queue.filter fun e => !(redo && mine e.info && e.by_.isNone)).map (QEntry.finish pops) }
    arrQ := x.arrQ.filter fun q => !mine q.info
    vxeQ := x.vxeQ.filter fun q => !mine q.info
    vxe := { x.vxe with inflight := x.vxe.inflight.filter fun r => !mine r.info }
    porQ := x.porQ.filter fun q => !mine q.info
    ops := (x.ops.map fun o => if mine o.info then { o with dead := true, next := o.total } else o).filter fun o =>
      !(o.dead && o.flying.isEmpty && o.resps.isEmpty)
    sigQ := x.sigQ.filter fun q => !mine q.info
    track := x.track.filter fun e => e.inst != inst }

/-- Aborts the strand of slot k: its work ends and its slot is free. -/
def Tile.abort (x : Tile) (k : Nat) : Tile :=
  match x.slots.getD k none with
  | some sl => let y := x.discard sl.inst false; { y with slots := y.slots.set k none }
  | none => x

/-- The local beat counter a tile reads (R162). -/
def State.localBeat (s : State) (t : Nat) : Nat := (s.region (regionOfTile t)).beat

def State.recOf (s : State) (t : Nat) (i : Info) (ipValid : Bool) (cls code detail : Nat) : FaultRec where
  cls := cls
  code := code
  tile := t
  layer := i.layer
  op := i.op
  strandId := i.strandId
  ip := i.ip
  ipValid := ipValid
  tries := match (s.tile t).holds i with | some sl => sl.tries | none => 0
  beat := s.localBeat t
  detail := detail

/-- Whether a DATA fault of the strand leads to re-execution (R219). -/
def Tile.canRetry (x : Tile) (i : Info) : Bool :=
  match x.holds i with
  | some sl => sl.tries < sl.desc.recomp
  | none => false

/-- A fault of a strand: its record and the action of its class (R218, R219, Table 07-8). -/
def State.fault (s : State) (t : Nat) (i : Info) (ipValid : Bool) (cls code detail : Nat) : State :=
  let d := dieOfTile t
  let p := s.partOfTile t
  let s1 := s.postFault d t (s.recOf t i ipValid cls code detail) i.step
  let tr : Trig := ⟨0, t, i.step, i.strandId, i.layer, i.op, cls, code⟩
  let veto := fun s : State => s.setVeto d i.step Veto.error t i.layer i.op
  let stop := fun s : State => s.modTile t fun x =>
    let x := if (x.holds i).isSome then x.abort i.slot else x
    { x with stopped := true }
  if cls = 1 then (veto (stop s1)).trigger p { tr with cause := 1 }
  else if cls = 2 then
    if code = 3 then veto (stop s1)
    else if (s1.tile t).canRetry i then
      s1.modTile t fun x => (x.discard i.inst true).modSlot i.slot fun sl => { sl with phase := .reissue }
    else veto s1
  else if cls = 3 then veto (stop s1)
  else if cls = 4 then s1.modTile t fun x => if (x.holds i).isSome then x.abort i.slot else x
  else if cls = 5 then s1.trigger p { tr with cause := 2 }
  else if cls = 6 then
    let s2 := veto s1
    match p with
    | some q => if code = 1 && (s.geode q).fabTrig then s2.trigger p { tr with cause := 3 } else s2
    | none => s2
  else s1

/-- The IDs of something that belongs to the tile and to no strand. -/
def State.noStrand (s : State) (t : Nat) : Info := ⟨0, 4, 0, 0, 0, 0, 0, (s.tile t).vxe.step, 0, 0⟩

/-- Adds to a token counter; above 65,535 it holds there and the tile raises TOKEN_OVERFLOW, which names no strand
(R192, R193). -/
def State.addToken (s : State) (t k n : Nat) : State :=
  let v := (s.tile t).tokens.getD k 0 + n
  let s1 := s.modTile t fun x => { x with tokens := x.tokens.set k (min v 65535) }
  if v ≤ 65535 then s1 else s1.fault t (s.noStrand t) false 1 0x04 k

def State.sigToken (s : State) (t : Nat) (sig : Option Nat) : State :=
  match sig with
  | some k => s.addToken t k 1
  | none => s

/-! The range tracker. -/

/-- A tile SRAM span: first byte, length, and whether it is written. -/
structure Span where
  at_ : Nat
  len : Nat
  wr : Bool
  deriving DecidableEq, Repr

def Span.lo (x : Span) : Nat := x.at_ / 64
def Span.hi (x : Span) : Nat := (x.at_ + x.len + 63) / 64

def Track.overlaps (e : Track) (x : Span) : Bool := e.lo < x.hi && x.lo < e.hi && (e.wr || x.wr)

/-- Whether an earlier-registered overlapping span holds an access of instruction id (R196). -/
def Tile.blocked (x : Tile) (id : Nat) (spans : List Span) : Bool :=
  spans.any fun sp => x.track.any fun e => e.id < id && e.overlaps sp

def Tile.register (x : Tile) (i : Info) (spans : List Span) : Tile :=
  { x with track := x.track ++ spans.map fun sp => ⟨i.id, sp.lo, sp.hi, sp.wr, i.inst⟩ }

/-- Releases the entries of an instruction (R195). -/
def Tile.release (x : Tile) (id : Nat) : Tile := { x with track := x.track.filter fun e => e.id != id }

def Tile.trackFits (x : Tile) (spans : List Span) : Bool := x.track.length + spans.length ≤ 16

/-- Why a span may not be accessed by a strand: ADDR_RUNTIME, CODE_REGION, RANGE_UNDECLARED or RANGE_ACCESS (R120,
R199, R200). -/
def Tile.spanBreach (x : Tile) (sl : Slot) (sp : Span) : Option Nat :=
  if sp.at_ % 64 ≠ 0 || 2 ^ 21 < sp.at_ + sp.len then some 0x0C
  else if x.codeSize ≠ 0 && sp.lo < x.codeBase + x.codeSize && x.codeBase < sp.hi then some 0x05
  else
    let inside := sl.ranges.filter fun r => r.base ≤ sp.lo && sp.hi ≤ r.base + r.len
    if inside.isEmpty then some 0x02
    else if inside.any fun r => if sp.wr then r.wr else r.rd then none
    else some 0x03

def Tile.spansBreach (x : Tile) (sl : Slot) (spans : List Span) : Option (Nat × Nat) :=
  spans.findSome? fun sp => (x.spanBreach sl sp).map fun c => (c, sp.at_)

/-- Whether a write lies in a read range of an incomplete recomputable strand (R216). -/
def Tile.recompHit (x : Tile) (spans : List Span) : Option Nat :=
  spans.findSome? fun sp =>
    if sp.wr && x.slots.any fun o => match o with
      | some sl => sl.desc.recomp != 0 && sl.ranges.any fun r => r.rd && !r.wr && r.base < sp.hi && sp.lo < r.base + r.len
      | none => false
    then some sp.at_ else none

/-! Issue. -/

def findIssuing (k : Nat) : List (Option Slot) → Option (Nat × Slot)
  | [] => none
  | some sl :: r => if sl.phase = .issuing then some (k, sl) else findIssuing (k + 1) r
  | none :: r => findIssuing (k + 1) r

def Tile.issuing (x : Tile) : Option (Nat × Slot) := findIssuing 0 x.slots

/-- Whether a porter operation has not completed (R234). -/
def Tile.opOpen (x : Tile) (id : Nat) : Bool := (x.porQ ++ x.ops).any fun o => o.info.id == id && !o.dead

def Tile.mkInfo (x : Tile) (k : Nat) (sl : Slot) : Info :=
  ⟨x.nextId, k, sl.ip, sl.desc.strandId, sl.desc.layer, sl.desc.op, sl.desc.seqTag, x.vxe.step, x.vxe.veto, sl.inst⟩

/-- Whether a tile may work: its dump controller has not frozen it, and its region is in service, awake and clocked. -/
def State.live (s : State) (t : Nat) : Bool :=
  let r := s.region (regionOfTile t)
  !s.tileFrozen t && r.awake && !r.fenced && s.lny.refclk

/-- What an instruction does at issue: held, a contract breach, or done; jump: with the next instruction elsewhere. -/
inductive Issue where
  | hold
  | breach (code detail : Nat)
  | done (s : State)
  | jump (ip : Nat) (s : State)

/-- Issues an instruction of the issuing strand (R180): nothing where no strand issues or the tile is frozen; a DATA
fault CODE_PARITY where its word has bad parity (Table 08-3); a hold for an acquire or release (R270, R272). sram: it
reads tile SRAM; por: it is a porter operation. -/
def State.issue (s : State) (t : Nat) (sram por : Bool) (act : Nat → Slot → Info → Issue) : State :=
  let x := s.tile t
  if !s.live t then s
  else match x.issuing with
    | none => s
    | some (k, sl) =>
      let i := x.mkInfo k sl
      match s.sramBadIn t (sl.ip * 16) 16 with
      | some a => (s.postParity t a rdFetch i.layer i.op).fault t i true 2 3 a
      | none =>
        if sl.acqOps.any x.opOpen && (sram || por) || por && !(sl.rels.all fun r => s.released r.1 t sl.inst r.2) then s
        else match act k sl i with
          | .hold => s
          | .breach c d => s.fault t i true 1 c d
          | .done s1 => s1.modTile t fun y =>
            { (y.modSlot k fun z => { z with ip := z.ip + 1 }) with nextId := y.nextId + 1 }
          | .jump ip s1 => s1.modTile t fun y => { (y.modSlot k fun z => { z with ip := ip }) with nextId := y.nextId + 1 }

end Sys2Proof.Machine
end

