-- ==== Sys2Proof/Machine/Fabric.lean ====
section
/-! DEFINITION. Packets and routes of the Preug fabric (10): node IDs (R291), packet headers (R302), routing in dimension
order (R294, R295), the member of a pair (R290), the route and gateway tables (R296, R297), and injection. -/
namespace Sys2Proof.Machine

/-! Packet types (Table 10-12). -/
def ptRead : Nat := 0x01
def ptReadItem : Nat := 0x02
def ptWrite : Nat := 0x03
def ptWriteItem : Nat := 0x04
def ptAtomic : Nat := 0x05
def ptLand : Nat := 0x06
def ptReadRsp : Nat := 0x10
def ptItemRsp : Nat := 0x11
def ptWriteAck : Nat := 0x12
def ptAtomicRsp : Nat := 0x13
def ptLandAck : Nat := 0x14
def ptLandGo : Nat := 0x15
def ptLandCancel : Nat := 0x16
def ptLandHeld : Nat := 0x17
def ptRefuse : Nat := 0x18
def ptReef : Nat := 0x20
def ptMgtMsg : Nat := 0x30
def ptMgtRsp : Nat := 0x31

/-- Refusal reasons (Table 10-14). -/
def rsUnmapped : Nat := 0x01
def rsReadonly : Nat := 0x02
def rsNoJob : Nat := 0x03
def rsAmoTarget : Nat := 0x04
def rsTileForeign : Nat := 0x05
def rsQuota : Nat := 0x06
def rsTargetFault : Nat := 0x07
def rsRouteDead : Nat := 0x08
def rsPartReset : Nat := 0x09

/-- Slots of a packet: two of header, then its data (R302). -/
def Packet.slots (p : Packet) : Nat := 2 + (p.data.length + 15) / 16

def Packet.isReq (p : Packet) : Bool := 1 ≤ p.ptype && p.ptype ≤ 6

/-- The 32 header bytes (Table 10-11). -/
def Packet.header (p : Packet) : List Byte :=
  natLe 8 (p.ptype % 64 + p.vc % 32 * 2 ^ 8 + p.dclass % 2 * 2 ^ 13 + p.flip % 8 * 2 ^ 14 + p.route % 2 ^ 15 * 2 ^ 17 +
    p.dest % 2 ^ 16 * 2 ^ 32 + p.src % 2 ^ 16 * 2 ^ 48) ++
  natLe 8 (p.offset % 2 ^ 42 + p.space % 4 * 2 ^ 42 + p.scope % 8 * 2 ^ 44 + p.job % 2 ^ 16 * 2 ^ 48) ++
  natLe 8 (p.txn % 2 ^ 32 + p.layer % 2 ^ 16 * 2 ^ 32 + p.op % 2 ^ 16 * 2 ^ 48) ++ natLe 8 p.arg

def Packet.bytes (p : Packet) : List Byte :=
  p.header ++ p.data ++ List.replicate (16 * p.slots - 32 - p.data.length) 0

/-- Reads a packet from its slots. -/
def Packet.ofBytes (l : List Byte) : Packet :=
  let a := leAt l 0 8
  let b := leAt l 8 8
  let c := leAt l 16 8
  { ptype := bits a 0 6, vc := bits a 8 5, dclass := bits a 13 1, flip := bits a 14 3, route := bits a 17 15,
    dest := bits a 32 16, src := bits a 48 16, offset := bits b 0 42, space := bits b 42 2, scope := bits b 44 3,
    job := bits b 48 16, txn := bits c 0 32, layer := bits c 32 16, op := bits c 48 16, arg := leAt l 24 8,
    data := l.drop 32 }

/-- Packet types of Table 10-12. -/
def ptKnown (t : Nat) : Bool :=
  decide (1 ≤ t ∧ t ≤ 6) || decide (0x10 ≤ t ∧ t ≤ 0x18) || t == ptReef || t == ptMgtMsg || t == ptMgtRsp

/-- The reserved header bits and codes that a receiver checks (R13, R14): reserved fields, PTYPE, VC, SPACE, SCOPE and AOP. -/
def headReserved (l : List Byte) : Bool :=
  let p := Packet.ofBytes l
  bits (leAt l 0 8) 6 2 != 0 || bits (leAt l 8 8) 47 1 != 0 || !ptKnown p.ptype || decide (16 ≤ p.vc) || p.space == 3 || p.ptype == ptAtomic && bits p.arg 0 4 == 15 ||
    decide (6 ≤ p.scope)

/-- A reserved bit or kind of a Reef sub-header (R13). -/
def rheadReserved (l : List Byte) : Bool :=
  6 ≤ bits (leAt l 0 8) 0 4 || bits (leAt l 0 8) 17 15 != 0 || bits (leAt l 8 8) 56 8 != 0 ||
    bits (leAt l 16 8) 61 3 != 0 || bits (leAt l 24 8) 42 22 != 0

def dimOf (x : Nat × Nat × Nat) (d : Nat) : Nat := if d = 0 then x.1 else if d = 1 then x.2.1 else x.2.2

/-- The dimensions the module's routing uses: those of the job it joined (R294). -/
def State.dims (s : State) : Nat × Nat × Nat :=
  match s.parts.findSome? fun p => p.join with
  | some j => j.dims
  | none => (1, 1, 1)

def State.routeEntry (s : State) (node : Nat) : Nat :=
  match s.fabric.routes.find? fun e => e.1 == node with
  | some e => e.2
  | none => 0

/-- The hop in dimension order (R294, R295): direction 2d for + and 2d + 1 for −, and whether it crosses the dateline. -/
def hopGo (dims : Nat × Nat × Nat) (own route flip d : Nat) : Option (Nat × Bool) :=
  let n := max (dimOf dims d) 1
  let a := coord own d
  let b := coord route d
  if a = b then none
  else
    let up := (b + n - a) % n
    let down := (a + n - b) % n
    let plus := decide (up ≤ down) != bit flip d
    some (if plus then (2 * d, a + 1 == n) else (2 * d + 1, a == 0))

def nextHop (dims : Nat × Nat × Nat) (own route flip : Nat) : Option (Nat × Bool) :=
  match hopGo dims own route flip 0 with
  | some x => some x
  | none =>
    match hopGo dims own route flip 1 with
    | some x => some x
    | none => hopGo dims own route flip 2

def parity (x : Nat) : Nat := (List.range 16).foldl (fun p i => (p + natOfBool (bit x i)) % 2) 0

def State.portUp (s : State) (p : Nat) : Bool := (s.port p).st == .up

/-- The member of the pair of a direction (R290); none where neither is UP. -/
def State.member (s : State) (dir route off : Nat) : Option Nat :=
  let m := parity (route % 2 ^ 15 ^^^ bits off 6 15)
  let p := 2 * dir + m
  let q := 2 * dir + (1 - m)
  if s.portUp p then some p else if s.portUp q then some q else none

/-- The output port and dateline class of a packet at this node; inp: its input port, 16 for one injected here. -/
def State.outPort (s : State) (p : Packet) (inp : Nat) : Option (Nat × Nat) :=
  let own := s.nodeId.getD 0xFFFF
  let entry := s.routeEntry p.dest
  let span := fun k : Nat => if s.portUp (12 + k % 4) then some (12 + k % 4, 0) else none
  if inp = 16 && !isGateway p.dest && entry % 4 = 1 then span (bits entry 5 2)
  else match nextHop s.dims own p.route p.flip with
    | some (dir, cross) =>
      let same := inp < 12 && inp / 4 == dir / 2
      (s.member dir p.route p.offset).map fun port => (port, natOfBool (cross || same && p.dclass == 1))
    | none =>
      if isGateway p.dest then
        match s.gateway p.dest with
        | some g => span g.2
        | none => none
      else none

/-- The route an endpoint uses toward a node (R298): its entry, the coordinates and the span of a gateway's attachment, and
which members of the first hop are UP. -/
def State.routeCode (s : State) (node : Nat) : Nat :=
  let entry := s.routeEntry node
  let own := s.nodeId.getD 0xFFFF
  let r := if isGateway node then ((s.gateway node).map Prod.fst).getD 0 else node
  let ups := match nextHop s.dims own r (bits entry 2 3) with
    | some (dir, _) => natOfBool (s.portUp (2 * dir)) + 2 * natOfBool (s.portUp (2 * dir + 1))
    | none => 0
  let span := if isGateway node then ((s.gateway node).map fun g => g.2 + 1).getD 0 else 0
  ups + entry % 2 ^ 16 * 2 ^ 2 + r % 2 ^ 15 * 2 ^ 18 + span % 2 ^ 8 * 2 ^ 33

/-- Puts a packet that came at a time into the output queue of its next hop; none where no live path leads on (R313). -/
def State.queuePkt (s : State) (p : Packet) (inp at_ : Nat) : Option State :=
  match s.outPort p inp with
  | some (port, cls) =>
    some (s.modPort port fun x => { x with out := x.out ++ [⟨{ p with dclass := cls }, inp != 16, at_⟩] })
  | none => none

/-- The header a packet of this node carries to a destination (R296, R297, R302). -/
def State.mkPkt (s : State) (ptype vc dest off space job txn layer op arg scope : Nat) (data : List Byte) : Packet where
  ptype := ptype
  vc := vc
  dclass := 0
  flip := bits (s.routeEntry dest) 2 3
  route := (if isGateway dest then ((s.gateway dest).map Prod.fst).getD 0 else dest) % 2 ^ 15
  dest := dest
  src := s.nodeId.getD 0xFFFF
  offset := off
  space := space
  scope := scope
  job := job
  txn := txn
  layer := layer
  op := op
  arg := arg
  data := data

def State.unreachable (s : State) (node : Nat) : Bool := !isGateway node && s.routeEntry node % 4 == 2

/-- Discarded and counted (R313, R314). -/
def State.countDiscard (s : State) : State := s.modFab fun f => { f with discarded := inc32 f.discarded }

/-- Sends a packet of this node that nobody waits for: discarded and counted where it has no live path (R313), or while the
node ID is unassigned, which is no source (R291). One to this node enters its own inbox. -/
def State.inject (s : State) (p : Packet) : State :=
  if s.nodeId.isNone || s.unreachable p.dest then s.countDiscard
  else if s.nodeId = some p.dest then s.modFab fun f => { f with inbox := f.inbox ++ [⟨p, 16, s.now⟩] }
  else (s.queuePkt p 16 s.now).getD s.countDiscard

/-- The answer to a request (R303): STATUS and REASON in ARG. -/
def State.answerPkt (s : State) (q : Packet) (ptype status reason : Nat) (data : List Byte) : State :=
  s.inject (s.mkPkt ptype 1 q.src q.offset q.space q.job q.txn q.layer q.op (status % 256 + reason % 256 * 256) q.scope data)

def State.refusePkt (s : State) (q : Packet) (reason : Nat) : State := s.answerPkt q ptRefuse 0 reason []

/-- The partition that joined a job tag (R304). -/
def jobGo (job p : Nat) : List Part → Option Nat
  | [] => none
  | x :: r => if (match x.join with | some j => j.job == job | none => false) then some p else jobGo job (p + 1) r
def State.partOfJob (s : State) (job : Nat) : Option Nat := jobGo job 0 s.parts

/-- The job tag and FAB_TIMEOUT of a partition (R314). -/
def State.jobOf (s : State) (p : Nat) : Option Nat := (s.part p).join.map fun j => j.job
def State.fabTimeoutNs (s : State) (p : Nat) : Nat := match (s.part p).join with | some j => j.timeoutNs | none => 2000000

/-! The packets received and not yet acted on. -/

def State.pktAt (s : State) (k : Nat) : Option InPkt := s.fabric.inbox[k]?

/-- The credits of a packet's slots go back to the sender of its input port (R299). -/
def owe (l : List (Nat × Nat × Nat)) (vc cls n : Nat) : List (Nat × Nat × Nat) :=
  match l with
  | [] => [(vc, cls, n)]
  | (v, c, m) :: r => if v = vc && c = cls then (v, c, m + n) :: r else (v, c, m) :: owe r vc cls n

def State.returnCredits (s : State) (port vc cls n : Nat) : State :=
  if port < 16 && vc < 16 then s.modPort port fun x => { x with owed := owe x.owed vc cls n } else s

/-- Takes packet k out of the inbox and frees its buffer slots. -/
def State.takePkt (s : State) (k : Nat) (x : InPkt) : State :=
  (s.modFab fun f => { f with inbox := f.inbox.eraseIdx k }).returnCredits x.port x.pkt.vc x.pkt.dclass x.pkt.slots

/-- A meaning that acts on packet k of the inbox when it has the type and is for this node. -/
def onPacket (s : State) (k : Nat) (ok : Packet → Bool) (f : InPkt → State → State) : State :=
  match s.pktAt k with
  | some x => if ok x.pkt && some x.pkt.dest == s.nodeId then f x s else s
  | none => s

end Sys2Proof.Machine
end

