-- ==== Sys2Proof/Machine/Monitors.lean ====
section
/-! DEFINITION. Strata sources and monitors (R462 to R465, R468): how a sample enters a monitor. -/
namespace Sys2Proof.Machine

/-! Sources (Table 16-3). -/

/-- Whether a code is a source, whether it is sampled, whether it carries IDs, whether it is global, and its instances. -/
structure SrcInfo where
  sampled : Bool
  ids : Bool
  glob : Bool
  insts : Nat
  deriving DecidableEq, Repr

/-- Tile sources have 96 instances on a die, regions 8, stacks 5, ports 16, region sensors 64, spine sensors 16; a source
of the die itself has one. -/
def srcInfo (c : Nat) : Option SrcInfo :=
  if c = 0x01 || c = 0x02 || c = 0x03 || c = 0x04 || c = 0x05 || c = 0x06 || c = 0x0D then some ⟨false, true, false, 96⟩
  else if c = 0x07 then some ⟨true, false, false, 96⟩
  else if c = 0x08 then some ⟨false, false, false, 4⟩
  else if c = 0x09 then some ⟨false, false, false, 5⟩
  else if c = 0x0A || c = 0x0B || c = 0x0C then some ⟨false, false, false, 1⟩
  else if c = 0x10 || c = 0x14 then some ⟨true, false, false, 8⟩
  else if c = 0x11 then some ⟨true, false, false, 64⟩
  else if c = 0x12 then some ⟨true, false, false, 5⟩
  else if c = 0x13 then some ⟨false, false, false, 8⟩
  else if c = 0x15 then some ⟨true, false, false, 1⟩
  else if 0x20 ≤ c && c ≤ 0x28 then some ⟨false, true, false, 96⟩
  else if c = 0x40 || c = 0x41 then some ⟨false, false, true, 16⟩
  else if c = 0x42 then some ⟨true, false, true, 1⟩
  else if c = 0x43 then some ⟨true, false, true, 16⟩
  else if c = 0x44 then some ⟨false, false, true, 1⟩
  else none

def srcNearLat : Nat := 0x01
def srcFarLat : Nat := 0x02
def srcGravelLat : Nat := 0x03
def srcFabRtt : Nat := 0x04
def srcFabWait : Nat := 0x05
def srcStrandLate : Nat := 0x06
def srcScWait : Nat := 0x08
def srcChildWait : Nat := 0x0A
def srcDecideWait : Nat := 0x0B
def srcReefRetry : Nat := 0x0C
def srcShadow : Nat := 0x0D
def srcStretch : Nat := 0x13
def srcFabHop : Nat := 0x40
def srcReplay : Nat := 0x41
def srcMgtWait : Nat := 0x44

/-- The sources whose events other commands post themselves (log entry 109). -/
def srcPosted (c : Nat) : Bool :=
  [srcNearLat, srcFarLat, srcGravelLat, srcFabRtt, srcFabWait, srcStrandLate, srcScWait, srcChildWait, srcDecideWait, srcReefRetry,
    srcShadow, srcStretch, srcFabHop, srcReplay, srcMgtWait].contains c

/-! Monitors: die 4 is the spine die. -/

def State.monsOf (s : State) (d : Nat) : List Monitor := if d = 4 then s.spineMons else (s.die d).mons
def State.mon (s : State) (d m : Nat) : Monitor := (s.monsOf d).getD m Monitor.init
def State.modMon (s : State) (d m : Nat) (f : Monitor → Monitor) : State :=
  if d = 4 then { s with spineMons := modAt s.spineMons m f } else s.modDie d fun x => { x with mons := modAt x.mons m f }
def monExists (d m : Nat) : Bool := d < 4 && m < 256 || d = 4 && m < 64
/-- Monitors that take only sources of class global (R466). -/
def monGlobal (d m : Nat) : Bool := d == 4 || decide (224 ≤ m)

def binOf (v : Nat) : Nat := if v = 0 then 0 else if 2 ^ 30 ≤ v then 31 else v.log2 + 1

/-- One sample enters (R463). -/
def Monitor.add (m : Monitor) (v : Nat) : Monitor :=
  let sum := m.sum + v
  { m with
    count := m.count + 1
    sum := Nat.min sum (2 ^ 64 - 1)
    sumSat := m.sumSat || decide (2 ^ 64 - 1 ≤ sum)
    min := Nat.min m.min v
    max := Nat.max m.max v
    bins := modAt m.bins (binOf v) inc32 }

def Monitor.scaled (m : Monitor) (raw : Nat) : Nat := Nat.min raw (2 ^ 32 - 1) / 2 ^ m.shift

/-- A raw value reaches a monitor: a sample, and the alarm of R465 when it is at or above the threshold or force says so. -/
def State.sample (s : State) (d m raw : Nat) (force : Bool) : State :=
  let x := s.mon d m
  let v := x.scaled raw
  let alarm := force || (x.alarmAt != 0 && decide (x.alarmAt ≤ v))
  let s1 := s.modMon d m fun x => { x.add v with alarm := x.alarm || alarm }
  if alarm && !x.alarm then
    let p := if monGlobal d m then none else s.partOfDie d
    s1.post p 0x000E ((if d = 4 then 0xFF else d) * 256 + m) 0 0 v
  else s1

def State.dropSample (s : State) (d m : Nat) : State := s.modMon d m fun x => { x with dropped := inc16 x.dropped }

/-- Whether an event passes a monitor's filters and selection. -/
def Monitor.takes (x : Monitor) (source layer op inst : Nat) : Bool :=
  x.source == source && (!x.layerFilt || x.layer == layer) && (!x.opFilt || x.op == op) && (x.sel == 0x3FF || x.sel == inst)

/-- An event of a source reaches every monitor of its die that takes it; beyond 8 in one cycle it is lost (R463). -/
def State.sampleEvent (s : State) (e : SampleEvent) : State :=
  if (s.monsOf e.d).all fun m => m.source != e.source then s
  else (List.range (s.monsOf e.d).length).foldl (fun s m =>
    if (s.mon e.d m).takes e.source e.layer e.op e.inst then
      if 8 ≤ e.burst then s.dropSample e.d m else s.sample e.d m e.raw false
    else s) s

/-- One event of a source, alone in its Strata cycle. -/
def State.emit (s : State) (d source raw layer op strandId seqTag inst : Nat) : State :=
  s.sampleEvent ⟨d, source, raw, layer, op, strandId, seqTag, inst, 0⟩

/-- An event of a source of the module reaches the monitors of every die that take it (R466). -/
def State.emitAll (s : State) (source raw layer op inst : Nat) : State :=
  [0, 1, 2, 3, 4].foldl (fun s d => s.emit d source raw layer op 0 0 inst) s

/-- The distances of a VSCMP reach their monitor (R144, R468). -/
def State.shadowFeed (s : State) (d m layer op imm : Nat) (us : List Nat) : State :=
  let x := s.mon d m
  if x.source ≠ srcShadow then s.dropSample d m
  else if !x.takes srcShadow layer op x.sel then s
  else us.foldl (fun s u => s.sample d m u (imm != 0 && decide (imm ≤ u))) s

end Sys2Proof.Machine
end

