-- ==== Sys2Proof/Machine/Mailbox.lean ====
section
/-! DEFINITION. How the Capstan takes a message and completes it (14): the order of its checks, roles (R429), the
authorisation trailer (R424), the transaction table (R426), and the completion of R420. -/
namespace Sys2Proof.Machine

/-! Status codes (Table 14-6). -/
def stOk : Nat := 0x0000
def stVersion : Nat := 0x0010
def stReserved : Nat := 0x0011
def stFormat : Nat := 0x0012
def stRange : Nat := 0x0013
def stResource : Nat := 0x0014
def stToken : Nat := 0x0015
def stDigest : Nat := 0x0016
def stTime : Nat := 0x0017
def stAuth : Nat := 0x0018
def stPermission : Nat := 0x0019
def stSlRefused : Nat := 0x001A
def stNotHeld : Nat := 0x001B
def stBusy : Nat := 0x001C
def stUnknown : Nat := 0x001D
def stSignature : Nat := 0x001E
def stTxn : Nat := 0x001F
def stPartition : Nat := 0x0020

/-- Roles of Table 14-7. jobOwner: a job agent's command that R466 or R473 also gives the module owner; claim:
SEC_OWNER_CLAIM under R431. -/
inductive Role where
  | owner | job | any | tether | jobOwner | claim
  deriving DecidableEq, Repr

/-- What the Capstan knows of a command: its code, role, whether it changes state, whether a frozen partition refuses it
(Table 14-14), its defined CFLAGS bits, and whether carrying it out writes MRAM. -/
structure CmdInfo where
  code : Nat
  role : Role
  change : Bool
  prog : Bool
  cflags : Nat
  mram : Bool
  mem : Bool
  deriving DecidableEq, Repr

/-- What a command answers; later: the response follows with a later event. -/
structure Answer where
  s : State
  status : Nat
  result : W64
  payload : List Nat
  later : Bool

def State.answer (s : State) (status : Nat) : Answer := ⟨s, status, 0, [], false⟩
def State.ok (s : State) : Answer := ⟨s, stOk, 0, [], false⟩

def SEC10 : Nat := 10000000000

/-- The session or mailbox a message came by. -/
def State.session (s : State) (k : Nat) : Option Session := s.cap.sessions.getD k none
def State.modSession (s : State) (k : Nat) (f : Session → Session) : State :=
  s.modCap fun c => { c with sessions := modAt c.sessions k fun o => o.map f }

def State.verOf (s : State) : Src → Option (Nat × Nat)
  | .mbx n => (s.mbx n).ver
  | .session k => match s.session k with | some x => x.ver | none => none
  | .fabric _ => some (1, 0)

def State.setVer (s : State) (v : Option (Nat × Nat)) : Src → State
  | .mbx n => s.modMbx n fun m => { m with ver := v }
  | .session k => s.modSession k fun x => { x with ver := v }
  | .fabric _ => s

def State.txns (s : State) : Src → List TxnEnt
  | .mbx n => (s.mbx n).table
  | .session k => match s.session k with | some x => x.table | none => []
  | .fabric _ => []

/-- Enters a transaction; of more than 8 the oldest goes (R426). -/
def addTxn (l : List TxnEnt) (e : TxnEnt) : List TxnEnt :=
  let l := l.filter (fun x => x.txn != e.txn) ++ [e]
  l.drop (l.length - 8)

def State.putTxn (s : State) (e : TxnEnt) : Src → State
  | .mbx n => s.modMbx n fun m => { m with table := addTxn m.table e }
  | .session k => s.modSession k fun x => { x with table := addTxn x.table e }
  | .fabric _ => s

/-- Whether the Capstan holds a message of that source to serve. -/
def State.hasMsg (s : State) : Src → Bool
  | .mbx n => (s.mbx n).owner
  | .session k => (s.session k).isSome
  | .fabric node => s.fabric.mgtGot.any fun p => p.1.src == node

/-- When the message was handed over, while it has not started. -/
def State.handAt (s : State) : Src → Option Nat
  | .mbx n => (s.mbx n).handAt
  | .session k => (s.session k).bind fun x => x.handAt
  | .fabric node => (s.fabric.mgtGot.find? fun p => p.1.src == node).bind Prod.snd

/-- The first message of a node is marked as started. -/
def markStarted (node : Nat) : List (Packet × Option Nat) → List (Packet × Option Nat)
  | [] => []
  | p :: r => if p.1.src = node then (p.1, none) :: r else p :: markStarted node r

def State.clearHand (s : State) : Src → State
  | .mbx n => s.modMbx n fun m => { m with handAt := none }
  | .session k => s.modSession k fun x => { x with handAt := none }
  | .fabric node => s.modFab fun f => { f with mgtGot := markStarted node f.mgtGot }

/-! Whose turn it is (R421): the four partition pages, the management port and VC_MGT are sources 0 to 5. -/

def turnOf : Src → Nat
  | .mbx n => n / 16
  | .session _ => 4
  | .fabric _ => 5

/-- The message a source offers next: of a page the first mailbox after the one last taken, of the management port and of VC_MGT
the message that came first. -/
def State.offers (s : State) (k : Nat) : Option Src :=
  if k < 4 then
    ((List.range 16).map fun i => Src.mbx (16 * k + (s.cap.lastMbx.getD k 15 + 1 + i) % 16)).find? fun x => (s.handAt x).isSome
  else if k = 4 then
    ((List.range 8).foldl (fun (b : Option (Nat × Src)) i =>
      match s.handAt (.session i), b with
      | some t, some (u, y) => if t < u then some (t, .session i) else some (u, y)
      | some t, none => some (t, .session i)
      | none, b => b) none).map Prod.snd
  else (s.fabric.mgtGot.find? fun p => p.2.isSome).map fun p => .fabric p.1.src

/-- The message that starts next. -/
def State.turn (s : State) : Option Src := (List.range 6).findSome? fun i => s.offers ((s.cap.lastTurn + 1 + i) % 6)

/-- Commands in progress: those that wait for a port or a controller, binds that wait for regions, and a block reset. -/
def State.inProgress (s : State) : Nat :=
  s.awaiting.length + (s.parts.filter fun p => p.binding.isSome).length +
    (match s.rst.blk with | some b => natOfBool b.call.isSome | none => 0)

/-- Whether the command of a message may start: fewer than 8 run and it is its turn, or it has started before. A Capstan in
recovery serves what it serves as it comes. -/
def State.mayStart (s : State) (src : Src) : Bool :=
  match s.handAt src with
  | some _ => s.inProgress < 8 && (s.turn == some src || s.cap.run == .recovery)
  | none => true

/-- The turn passes on. -/
def Capstan.taken (c : Capstan) (src : Src) : Capstan :=
  { c with
    lastTurn := turnOf src
    lastMbx := match src with | .mbx n => c.lastMbx.set (n / 16) (n % 16) | .session _ => c.lastMbx | .fabric _ => c.lastMbx }

/-- A command starts: how long it waited since its hand-over is posted (Table 16-3). -/
def State.startMsg (s : State) (src : Src) : State :=
  match s.handAt src with
  | some t => ((s.clearHand src).modCap fun c => c.taken src).emitAll srcMgtWait (s.now - t) 0 0 0
  | none => s

/-- Bytes as the 64-bit words of a payload, the last one filled with zeros. -/
def packWords (l : List Byte) : List Nat := (List.range ((l.length + 7) / 8)).map fun k => leNat ((l.drop (8 * k)).take 8)

def eraseFirst {α : Type} (q : α → Bool) : List α → List α
  | [] => []
  | x :: r => if q x then r else x :: eraseFirst q r

/-- A response message (Table 14-4): the header with RESP set, RESULT and the payload. -/
def Reply.bytes (r : Reply) : List Byte :=
  natLe 1 0 ++ natLe 1 1 ++ natLe 2 r.cmd ++ natLe 1 (1 + r.auth % 4 * 2) ++ natLe 1 r.cflags ++ natLe 2 r.status ++
    natLe 4 (8 + 8 * r.payload.length) ++ natLe 4 0 ++ natLe 8 r.txn ++ natLe 8 (r.part % 256) ++ natLe 8 r.result.toNat ++
    (r.payload.map fun w => natLe 8 w).flatten

/-! The mailbox buffers (R416, R417). -/

/-- The carve-out: module-striped at PC_BASE 0, outside every partition's map, its offsets the cores' physical addresses
(R415, R226, R244). -/
def State.carveAlloc (s : State) : Alloc := ⟨⟨0, s.cap.carve * 2 ^ 30, 2, 0, false, false, false, 0, 0⟩, 0, 4, false⟩

/-- MBX_BUF_BASE: the top 256 KiB of the carve-out. -/
def State.mbxBufBase (s : State) : Nat := s.cap.carve * 2 ^ 30 - 2 ^ 18

/-- The buffer of mailbox n. -/
def State.mbxBuf (s : State) (n : Nat) : Nat := s.mbxBufBase + 4096 * n

/-- The Capstan writes into the carve-out, past the caches (R417), by chunks of 256 bytes. -/
def State.carveWrite (s : State) (o : Nat) (l : List Byte) : State :=
  { s with hbm := (List.range ((l.length + 255) / 256)).foldl (fun m k =>
    cellsWrite m (physKey (place s.carveAlloc (o + 256 * k))) ((l.drop (256 * k)).take 256)) s.hbm }

/-- Completes a message (R420): response, status, OWNER, DONE bit, interrupt, in that order. -/
def State.complete (s : State) (src : Src) (r : Reply) : State :=
  match src with
  | .mbx n =>
    let m := s.mbx n
    let s1 := (s.carveWrite (s.mbxBuf n) (r.bytes.take 4096)).modMbx n fun m =>
      { m with reply := some r, status := r.status, seqDone := m.seq, valid := true, owner := false, done := true }
    if m.irqEn then s1.raiseIrq (32 + n / 16) else s1
  | .session k => s.modSession k fun x => { x with reply := some r, last := s.now }
  | .fabric node =>
    let txn := match s.fabric.mgtGot.find? fun p => p.1.src == node with | some p => p.1.txn | none => 0
    { s.modCap fun c => { c with fabReplies := c.fabReplies ++ [((node, txn), r)] } with
      fabric := { s.fabric with mgtGot := eraseFirst (fun p => p.1.src == node) s.fabric.mgtGot } }

/-- A command's answer. -/
def State.reply (_s : State) (c : Call) (code : Nat) (a : Answer) : State :=
  a.s.complete c.src ⟨code, c.msg.txn, a.status, a.result, a.payload, c.msg.auth, c.msg.cflags, c.msg.partition⟩

/-- The header checks of R422, R425, R13 before the role: none where the message passes. -/
def headCheck (s : State) (c : Call) (x : CmdInfo) : Option Nat :=
  let m := c.msg
  let hello := x.code = 0x0001
  let badVer := match s.verOf c.src with
    | some v => m.verMajor != v.1 || decide (v.2 < m.verMinor)
    | none => true
  if !hello && badVer then some stVersion
  else if m.reserved ≠ 0 || m.auth = 3 || m.status ≠ 0 || m.resp || (3 < m.partition && m.partition ≠ 0xFF) then some stReserved
  else if 4064 < m.length then some stFormat
  else if m.cflags &&& (255 - x.cflags) ≠ 0 then some stReserved
  else none

/-- The role check (R429 to R431). -/
def roleCheck (s : State) (c : Call) (x : CmdInfo) : Option Nat :=
  let m := c.msg
  let job := match c.src with
    | .mbx n =>
      if m.auth ≠ 0 then some stPermission
      else if m.partition ≠ n / 16 || !s.defined (n / 16) then some stPartition else none
    | _ => some stPermission
  let owner := if s.cap.ownerKey.isNone then some stAuth else if m.auth ≠ 1 then some stPermission else none
  let byMbx := match c.src with | .mbx _ => true | _ => false
  match x.role with
  | .owner => owner
  | .claim => if s.cap.ownerKey.isNone then (if m.auth = 0 && byMbx then none else some stAuth) else owner
  | .job => job
  | .jobOwner =>
    if m.auth = 1 then (if s.cap.ownerKey.isNone then some stAuth
      else if 3 < m.partition || !s.defined m.partition then some stPartition else none)
    else job
  | .tether => if m.auth ≠ 2 then some stPermission else none
  | .any =>
    if m.auth = 2 then some stPermission
    else if m.auth = 1 then (if s.cap.ownerKey.isNone then some stAuth else none)
    else if x.code = 0x0001 then none
    else match c.src with
      | .mbx n => if m.partition ≠ n / 16 then some stPartition else none
      | _ => some stPermission

/-- The public key a trailer names: the owner's, or a tether key (R424). -/
def State.trailerKey (s : State) (auth key : Nat) : Option Nat :=
  if auth = 1 then (if key = 0 then s.cap.ownerKey else none) else s.cap.tetherKeys.getD key none

/-- The last SEQ accepted under a public key. -/
def seqOf (l : List (Nat × Nat)) (key : Nat) : Option Nat := (l.find? fun e => e.1 == key).map Prod.snd
def setSeq (l : List (Nat × Nat)) (key seq : Nat) : List (Nat × Nat) := (key, seq) :: l.filter fun e => e.1 != key

/-- Whether the trailer is accepted (R424). -/
def trailerOk (s : State) (c : Call) (t : Trailer) : Bool :=
  let waived := match c.src with | .mbx _ => !s.lny.locked | _ => false
  match s.trailerKey c.msg.auth t.key with
  | none => false
  | some k => Config.ecdsaVerify k t.digest t.signature &&
    (match seqOf s.cap.keySeqs k with | some q => decide (q < t.seq) | none => true) &&
    (waived || (decide (t.sendTime ≤ s.now + SEC10) && decide (s.now ≤ t.sendTime + SEC10)))

/-- An accepted SEQ is kept in the Amber RAM and committed to MRAM (R424). -/
def State.acceptSeq (s : State) (auth key seq : Nat) : State :=
  match s.trailerKey auth key with
  | none => s
  | some k => s.modCap fun c => { c with keySeqs := setSeq c.keySeqs k seq, mramSeqs := setSeq c.mramSeqs k seq }

/-- The partition a request acts on: the mailbox's for AUTH 0, the header's otherwise. -/
def Call.part (c : Call) : Nat :=
  match c.src with
  | .mbx n => if c.msg.auth = 0 then n / 16 else c.msg.partition
  | _ => c.msg.partition

/-- Carries a message out in its turn: header, repeats, role, trailer, then the body; the transaction entry is written last (R428).
A command that must write MRAM while a pulse is in progress waits for it (R424, R451), and one that reads or writes memory
while a controller of its partition takes no command waits for that (R171). -/
def capstanRun (self : Instr) (c : Call) (x : CmdInfo) (body : State → Answer) (s0 : State) : State :=
  let recoveryOk := [0x0001, 0x0002, 0x0609, 0x060A].contains x.code && match c.src with | .session _ => true | _ => false
  let serves := match s0.cap.run with
    | .running => true
    | .restarting => true
    | .recovery => recoveryOk
    | .booting => false
  if !serves || !s0.hasMsg c.src || !s0.mayStart c.src then s0
  else
    let s := (if s0.cap.run = .restarting then s0.modCap fun k => { k with run := .running } else s0).startMsg c.src
    match headCheck s c x with
    | some st => s.reply c x.code (s.answer st)
    | none =>
      match (s.txns c.src).find? fun e => e.txn == c.msg.txn with
      | some e =>
        if e.hash ≠ c.msg.hash then s.reply c x.code (s.answer stTxn)
        else if x.change then s.reply c x.code ⟨s, e.status, e.result, [], false⟩
        else go s
      | none => go s
where
  go (s : State) : State :=
    let recovering := s.cap.run = .recovery
    let fin := fun a : Answer =>
      if a.later then a.s else
      let s1 := a.s.putTxn ⟨c.msg.txn, c.msg.hash, x.code, a.status, a.result⟩ c.src
      s1.reply c x.code { a with s := s1 }
    match if recovering && s.cap.ownerKey.isNone then none else roleCheck s c x with
    | some st => s.reply c x.code (s.answer st)
    | none =>
      if x.mem && !s.engReady (Call.part c) then wait s
      else if c.msg.auth = 0 then
        if x.prog && (s.geode (Call.part c)).frozen then s.reply c x.code (s.answer stBusy)
        else if x.mram && !s.mramIdle then wait s
        else fin (body s)
      else match c.msg.trailer with
        | none => s.reply c x.code (s.answer stAuth)
        | some t =>
          if t.reserved ≠ 0 then s.reply c x.code (s.answer stReserved)
          else if !trailerOk s c t then s.reply c x.code (s.answer stAuth)
          else if !s.mramIdle then wait s
          else
            let s1 := s.acceptSeq c.msg.auth t.key t.seq
            if x.prog && (s.geode (Call.part c)).frozen then s1.reply c x.code (s1.answer stBusy)
            else fin (body s1)
  wait (s : State) : State :=
    if s.awaiting.contains self then s
    else if 8 ≤ s.awaiting.length then s
    else { s with awaiting := s.awaiting ++ [self] }

def cmdR (code : Nat) (role : Role) : CmdInfo := ⟨code, role, false, false, 0, false, false⟩
def cmdC (code : Nat) (role : Role) : CmdInfo := ⟨code, role, true, false, 0, false, false⟩
def cmdM (code : Nat) (role : Role) : CmdInfo := ⟨code, role, true, false, 0, true, false⟩
def cmdP (code : Nat) : CmdInfo := ⟨code, .job, true, true, 0, false, false⟩

/-- Whether any partition has a program bound. -/
def State.anyBound (s : State) : Bool := s.parts.any fun p => p.bound.isSome

/-! The Slate store (R446, R11): an SL write of another value consumes a change or is refused. -/

inductive Sl where
  | same | refused | write
  deriving DecidableEq, Repr

def slWrite (changes : Bool) (left : Nat) : Sl := if !changes then .same else if left = 0 then .refused else .write

/-- The SL_REFUSED event: item number 0 to 4 of Table 14-13, source the mailbox or 0xFFFF for the management port. -/
def State.slRefuse (s : State) (src : Option Src) (item : Nat) : State :=
  let from_ := match src with | some (.mbx n) => n | _ => 0xFFFF
  let p := match src with | some (.mbx n) => some (n / 16) | _ => none
  s.post p 0x0004 from_ 0 0 item

/-- An item's value and remaining changes, in the order of Table 14-13. -/
def Capstan.slateWord (c : Capstan) (item : Nat) : Nat × Nat :=
  if item = 0 then (c.ceil, c.ceilLeft)
  else if item = 1 then (c.revEcdsa + c.revLms * 2 ^ 8, 0)
  else if item = 2 then (natOfBool c.debugDisable, natOfBool (!c.debugDisable))
  else if item = 3 then ((match c.fabLock with | some n => n + 2 ^ 16 | none => 0), c.fabLockLeft)
  else (c.cartRoot + c.cartGrace * 2 + c.cartHash * 2 ^ 16, c.cartLeft)

/-- The CRC-32C of a copy: over its value and its count. -/
def slateCrc (x : Nat × Nat) : Nat := crc32c (natLe 64 x.1 ++ natLe 2 x.2)

/-- A change of a Slate item (R446): the inactive copy takes the new value and count and becomes the current one, so that the
old copy stands beside it; the change is recorded in the Obsidian log (Table 15-9). -/
def State.slateChange (s : State) (item : Nat) (f : Capstan → Capstan) : State :=
  let old := s.cap.slateWord item
  let s1 := s.modCap fun c =>
    let c1 := f c
    { c1 with slate := modAt c1.slate item fun x => ⟨!x.second, (old.1, old.2, slateCrc old)⟩ }
  s1.log 0x0009 0xFF [item, (s1.cap.slateWord item).2]

end Sys2Proof.Machine
end

