-- ==== Sys2Proof/Machine/Link.lean ====
section
/-! DEFINITION. The link layer of a fabric port (10): port states (Table 10-4), flits (R282), acknowledgement and replay
(R283), control bodies (R284, Table 10-3), bring-up (R285, R286), width (R287, R288) and sending a packet (R299, R300). -/
namespace Sys2Proof.Machine

/-! Port states. -/

/-- The port status record (Table 10-5). -/
def Port.words (x : Port) : List Nat :=
  [x.st.code + x.lanes % 8 * 2 ^ 4 + natOfBool x.peerGw * 2 ^ 7 + x.major % 256 * 2 ^ 8 + x.minor % 256 * 2 ^ 16 +
     x.peerNode % 2 ^ 16 * 2 ^ 24 + x.peerPort % 16 * 2 ^ 40,
   x.replays + x.crcErrors * 2 ^ 32, x.fecUncorr + x.degrades * 2 ^ 32, x.lastChange]

/-- A change of a port: of STATE or LANES it is logged, and one to or from UP is posted (Table 10-5). -/
def State.portMove (s : State) (p : Nat) (f : Port → Port) : State :=
  let old := s.port p
  let new := f old
  if old.st = new.st && old.lanes = new.lanes then s.modPort p f
  else
    let s1 := (s.modPort p f).modPort p fun x => { x with lastChange := s.now }
    let w := (s1.port p).words
    let s2 := s1.log 0x0004 0xFF w
    if (old.st == .up) != (new.st == .up) then s2.postAll 0x000F p (w.headD 0) else s2

/-- The other member of a torus pair. -/
def pairOf (p : Nat) : Option Nat := if 12 ≤ p then none else some (if p % 2 = 0 then p + 1 else p - 1)

/-- A packet that no live path leads on: counted, and a request is answered with ROUTE_DEAD (R313). -/
def State.discardPkt (s : State) (p : Packet) : State :=
  if p.isReq || p.ptype = ptMgtMsg then s.refusePkt p rsRouteDead else s.countDiscard

/-- The packets waiting at a port that went down move to the other member of its pair, or are discarded (R313). -/
def State.moveOut (s : State) (p : Nat) : State :=
  let out := (s.port p).out
  let s1 := s.modPort p fun x => { x with out := [] }
  match pairOf p with
  | some q =>
    if s1.portUp q then s1.modPort q fun x => { x with out := x.out ++ out }
    else out.foldl (fun s o => s.discardPkt o.pkt) s1
  | none => out.foldl (fun s o => s.discardPkt o.pkt) s1

/-- The link state a port begins a bring-up with. -/
def Port.fresh (x : Port) : Port :=
  { x with
    helloSent := false, helloGot := false, ctrl := none, txSeq := 0, ackedSeq := 4095, replay := [], replayRun := 0
    uncorr := [], rxSeq := 4095, rxBad := false, sinceAck := 0, rxSlots := [], rxNeed := 0, credits := fullCredits, owed := [] }

/-- A port leaves service: its replay buffer is lost and its queue moves (R287, R313). -/
def State.portDown (s : State) (p : Nat) (st : PortSt) : State :=
  (s.portMove p fun x => { x.fresh with st := st, since := s.now }).moveOut p

/-! Sending flits. -/

def zeroFlit (ftype : Nat) (body : List Byte) : TxFlit := ⟨ftype, 0, 0, false, false, [], 0, body, []⟩

/-- The lanes in use: the lowest-numbered working ones (R287). -/
def Port.active (x : Port) : List Nat := x.working.take x.lanes

/-- Flits go out on the lanes in use. -/
def Port.put (x : Port) (fs : List TxFlit) : Port := { x with wire := x.wire ++ fs.map fun f => { f with lanes := x.active } }

/-- The 256 bytes of a flit (Tables 10-1, 10-2). -/
def TxFlit.bytes (f : TxFlit) : List Byte :=
  let cr := fun k => f.credits.getD k (0, 0, 0)
  let cf := fun k => (cr k).1 % 32 + (cr k).2.1 % 2 * 2 ^ 5 + (cr k).2.2 % 64 * 2 ^ 6
  let h := f.fseq % 4096 + f.ackseq % 4096 * 2 ^ 12 + natOfBool f.ackv * 2 ^ 24 + natOfBool f.nak * 2 ^ 25 + f.ftype % 8 * 2 ^ 26 +
    cf 0 * 2 ^ 32 + cf 1 * 2 ^ 44 + f.start % 2 ^ 15 * 2 ^ 56
  let b := natLe 12 h ++ f.body.take 240 ++ List.replicate (240 - f.body.length) 0
  b ++ natLe 4 (crc32c b)

/-- Its 16-byte units and the lane of each: round-robin over the lanes in use, in ascending order (R281). -/
def TxFlit.units (f : TxFlit) : List (Nat × List Byte) :=
  (List.range 16).map fun k => (f.lanes.getD (k % f.lanes.length) 0, sub f.bytes (16 * k) 16)

/-- Up to two credit returns of at most 63 slots (Table 10-2): the fields, and what is still owed. -/
def takeCredits : Nat → List (Nat × Nat × Nat) → List (Nat × Nat × Nat) × List (Nat × Nat × Nat)
  | 0, l => ([], l)
  | _, [] => ([], [])
  | n + 1, (v, c, m) :: r =>
    if m = 0 then takeCredits n r
    else
      let k := min m 63
      let t := takeCredits n (if m = k then r else (v, c, m - k) :: r)
      ((v, c, k) :: t.1, t.2)

/-- The header fields every DATA and IDLE flit carries: acknowledgement and credits. -/
def Port.stamp (x : Port) (f : TxFlit) : TxFlit × Port :=
  let (cr, owed) := takeCredits 2 x.owed
  ({ f with ackseq := x.rxSeq, ackv := true, nak := x.rxBad, credits := cr }, { x with owed := owed, sinceAck := 0 })

def Port.sendIdle (x : Port) : Port :=
  let (f, y) := x.stamp (zeroFlit 1 [])
  y.put [f]

/-- A control body: its code and content from byte 16 on. -/
def Port.sendCtrl (x : Port) (body : Nat × List Byte) : Port :=
  x.put [zeroFlit 2 ([BitVec.ofNat 8 body.1, 0, 0, 0] ++ body.2)]

/-- Replays everything from the last acknowledged FSEQ on. -/
def Port.resend (x : Port) : Port :=
  if x.replay.isEmpty then x else { x.put x.replay with replays := inc32 x.replays }

/-- A port replays what was not acknowledged; the replay's length is posted (Table 16-3). -/
def State.resendOn (s : State) (p : Nat) : State :=
  let n := (s.port p).replay.length
  let s1 := s.modPort p Port.resend
  if n = 0 then s1 else s1.emitAll srcReplay n 0 0 p

/-- Starts a retrain with a reason (Table 10-3) on the number of lanes given (R287). -/
def State.startRetrain (s : State) (p lanes reason : Nat) : State :=
  if lanes < 2 then s.portDown p .down
  else s.portMove p fun x =>
    let body := (4, natLe 1 lanes ++ natLe 1 reason)
    let y := x.sendCtrl body
    { y with
      st := .retraining, since := s.now, ctrl := some body, lanes := lanes
      degrades := if lanes < x.lanes then inc16 x.degrades else x.degrades }

/-! Acknowledgements and credits received. -/

/-- How far FSEQ b lies after a, modulo 4,096. -/
def seqDiff (a b : Nat) : Nat := (b + 4096 - a % 4096) % 4096

/-- Releases the flits up to an acknowledged FSEQ. -/
def Port.acked (x : Port) (seq : Nat) : Port :=
  let n := seqDiff x.ackedSeq seq
  if n = 0 || x.replay.length < n then x else { x with ackedSeq := seq % 4096, replay := x.replay.drop n, replayRun := 0 }

def addCredit (l : List (Nat × Nat × Nat)) (vc cls n : Nat) : List (Nat × Nat × Nat) :=
  l.map fun e => if e.1 = vc && e.2.1 = cls then (vc, cls, e.2.2 + n) else e

/-- The credit fields of a header. -/
def Port.takeCr (x : Port) (hdr : Nat) : Port :=
  let l := addCredit x.credits (bits hdr 32 5) (bits hdr 37 1) (bits hdr 38 6)
  { x with credits := addCredit l (bits hdr 44 5) (bits hdr 49 1) (bits hdr 50 6) }

/-- The acknowledgement fields of a header: NAK replays, and the eighth replay in a row retrains the link (R283). -/
def State.takeAck (s : State) (p hdr : Nat) : State :=
  let s1 := if bit hdr 24 then s.modPort p fun x => x.acked (bits hdr 12 12) else s
  if !bit hdr 25 then s1
  else
    let s2 := (s1.modPort p fun x => let y := x.acked (bits hdr 12 12); { y with replayRun := y.replayRun + 1 }).resendOn p
    let x := s2.port p
    if x.replayRun < 8 then s2 else s2.startRetrain p (min (min 3 x.working.length) x.lanes) 1

/-! Receiving flits. -/

/-- The flit's bytes 0 to 251. -/
def Flit.bytes252 (x : Flit) : List Byte := natLe 12 x.hdr ++ natLe 240 x.payload
def flitGood (x : Flit) : Bool := !x.bad && x.uncorr.isEmpty && crc32c (Flit.bytes252 x) == x.crc % 2 ^ 32
/-- Whether a header has a reserved field or value set. -/
def flitReserved (x : Flit) : Bool :=
  bits x.hdr 29 3 != 0 || bits x.hdr 71 25 != 0 || 3 ≤ bits x.hdr 26 3 || 16 ≤ bits x.hdr 32 5 || 16 ≤ bits x.hdr 44 5

/-- Data slots that follow a packet's header. A Reef packet's and a message's come from their own headers; rsp: whether
an ATOMIC_RSP brings old values. -/
def dataSlots (h : List Byte) (rsp : Bool) : Nat :=
  let t := bits (leAt h 0 8) 0 6
  if t = ptWrite || t = ptAtomic || t = ptLand || t = ptReadRsp then 4
  else if t = ptWriteItem || t = ptItemRsp then 2
  else if t = ptAtomicRsp then (if rsp then 4 else 0)
  else if t = ptReef || t = ptMgtMsg || t = ptMgtRsp then 2
  else 0

/-- Whether a slot is all zero. -/
def zeroSlot (x : List Byte) : Bool := x.all fun b => b == 0

/-- Whether an ATOMIC_RSP in transit whose slots (with their START flags) follow carries data: none where neither a nonzero
slot nor the next packet's START tells. -/
def rspData (l : List (Bool × List Byte)) : Option Bool :=
  let next := l.take 4
  if next.any Prod.fst then some false else if next.any fun x => !zeroSlot x.2 then some true else none

/-- The same, with a free value where the flit does not tell (log entry 143). -/
def State.rspLong (s : State) (l : List (Bool × List Byte)) : Bool × State :=
  match rspData l with
  | some b => (b, s)
  | none => (Config.rspLong s.free, { s with free := s.free + 1 })

def State.protoError (s : State) (p : Nat) : State := s.modPort p fun x => { x with protoErrors := x.protoErrors + 1 }

/-- A packet that has arrived enters the inbox; one with a reserved field or code in its header, or in the sub-header of a
Reef packet for this node, is discarded and counted (R13, R14). -/
def State.packetIn (s : State) (p : Nat) (slots : List (List Byte)) : State :=
  let b := slots.flatten
  let k := Packet.ofBytes b
  if headReserved b || k.ptype = ptReef && some k.dest = s.nodeId && rheadReserved (b.drop 32) then
    (s.protoError p).returnCredits p k.vc k.dclass slots.length
  else s.modFab fun f => { f with inbox := f.inbox ++ [⟨k, p, s.now⟩] }

/-- Slots of a Reef packet or a message, from its first four slots (Tables 11-7, 14-4). -/
def bodySlots (t : Nat) (h : List Byte) : Nat :=
  if t = ptReef then
    let kind := bits (leAt h 32 8) 0 4
    let n := bits (leAt h 56 8) 32 10 + 1
    4 + (if kind = 0 then (5 * n + 15) / 16 else if kind = 4 || kind = 5 then (4 * n + 15) / 16
      else if kind = 2 || kind = 3 then (32 + n + 15) / 16 else 0)
  else 2 + (min (32 + leAt h 40 4) 1024 + 15) / 16

/-- Takes the slots of a DATA flit one by one: those of the packet begun before, then new packets at their START. -/
def slotsGo (s : State) (p : Nat) : List (Bool × List Byte) → State
  | [] => s
  | (start, x) :: r =>
    let y := s.port p
    if y.rxNeed = 0 && !start then slotsGo s p r
    else
      let got := y.rxSlots ++ [x]
      let h := got.flatten
      let t := bits (leAt h 0 8) 0 6
      let own := some (bits (leAt h 0 8) 32 16) == s.nodeId
      let asked := s.fabric.reqs.any fun q => q.txn == leAt h 16 4 && q.ptype == ptAtomic &&
        match q.who with
        | .tile u op _ => (s.tile u).ops.any fun o => o.info.id == op && o.f.ret
        | _ => true
      let (long, s) := if own then (asked, s) else if got.length = 2 && t = ptAtomicRsp then s.rspLong r else (false, s)
      let want :=
        if got.length < 2 then 2
        else if got.length = 2 then 2 + dataSlots h long
        else if got.length = 4 && (t = ptReef || t = ptMgtMsg || t = ptMgtRsp) then bodySlots t h
        else got.length + y.rxNeed - 1
      if want ≤ got.length then
        slotsGo ((s.modPort p fun x => { x with rxSlots := [], rxNeed := 0 }).packetIn p got) p r
      else slotsGo (s.modPort p fun x => { x with rxSlots := got, rxNeed := want - got.length }) p r

def flitSlots (x : Flit) : List (Bool × List Byte) :=
  (List.range 15).map fun n => (bit x.hdr (56 + n), natLe 16 (bits x.payload (128 * n) 128))

/-- A bad flit or a sequence gap is answered with NAK and the last good FSEQ, once until the replay arrives (R283). -/
def State.nak (s : State) (p : Nat) : State :=
  if (s.port p).rxBad then s
  else s.modPort p fun x => let y := { x with rxBad := true }; if y.st = .up then y.sendIdle else y

/-- The acknowledgement that 64 flits without one force. -/
def State.ackDue (s : State) (p : Nat) : State :=
  if 64 ≤ (s.port p).sinceAck && s.portUp p then s.modPort p Port.sendIdle else s

/-- Uncorrectable codewords of a lane are counted, and the lane fails where more than 16 come within 1 ms, or where it lost
lock (n = 0); the end that detects it retrains on the lowest-numbered working lanes (R287). -/
def State.laneErrors (s : State) (p lane n : Nat) : State :=
  let x := s.port p
  let recent := (lane, s.now, n) :: x.uncorr.filter fun e => decide (s.now < e.2.1 + 1000000)
  let s1 := s.modPort p fun x => { x with fecUncorr := min (x.fecUncorr + n) (2 ^ 32 - 1), uncorr := recent }
  let fails := n = 0 || decide (16 < ((recent.filter fun e => e.1 == lane).map fun e => e.2.2).sum)
  if !fails || !(x.st = .up || x.st = .retraining) || !x.working.contains lane then s1
  else
    let s2 := s1.modPort p fun x => { x with working := x.working.erase lane }
    s2.startRetrain p (min (min 3 (x.working.length - 1)) x.lanes) 0

/-- The uncorrectable codewords first met with a flit (R281). -/
def State.flitErrors (s : State) (p : Nat) (x : Flit) : State := x.uncorr.foldl (fun s l => s.laneErrors p l 1) s

def State.crcError (s : State) (p : Nat) : State := s.modPort p fun y => { y with crcErrors := inc32 y.crcErrors }

/-- A CTRL flit among the others: a bad one is lost, a reserved field or body code is counted (R282, R284); the bodies of
Table 10-3 have their own commands. -/
def State.ctrlFlit (s : State) (p : Nat) (x : Flit) : State :=
  if flitReserved x || x.payload % 256 = 0 || 5 ≤ x.payload % 256 then s.protoError p else s

/-- A DATA flit (R282, R283). -/
def State.dataIn (s : State) (p : Nat) (x : Flit) : State :=
  if !s.portUp p then s
  else
    let s0 := s.modPort p fun y => { y with sinceAck := y.sinceAck + 1, lastData := s.now }
    if !flitGood x then (((s0.flitErrors p x).crcError p).nak p).ackDue p
    else if bits x.hdr 26 3 = 2 then s0.ctrlFlit p x
    else if flitReserved x then ((s0.protoError p).nak p).ackDue p
    else if bits x.hdr 26 3 ≠ 0 then s
    else
      let seq := bits x.hdr 0 12
      let s1 := s0.takeAck p x.hdr
      if seq = ((s0.port p).rxSeq + 1) % 4096 then
        let s2 := s1.modPort p fun y => { y.takeCr x.hdr with rxSeq := seq, rxBad := false }
        (slotsGo s2 p (flitSlots x)).ackDue p
      else if seqDiff seq (s0.port p).rxSeq < 512 then s1.ackDue p
      else (s1.nak p).ackDue p

/-- An IDLE flit. -/
def State.idleIn (s : State) (p : Nat) (x : Flit) : State :=
  if !s.portUp p then s
  else
    let s0 := s.modPort p fun y => { y with sinceAck := y.sinceAck + 1 }
    if !flitGood x then ((s0.flitErrors p x).crcError p).ackDue p
    else if bits x.hdr 26 3 = 2 then s0.ctrlFlit p x
    else if flitReserved x then (s0.protoError p).ackDue p
    else if bits x.hdr 26 3 ≠ 1 then s
    else ((s0.modPort p fun y => y.takeCr x.hdr).takeAck p x.hdr).ackDue p

def execDataFlit (port : Nat) (x : Flit) (s : State) : Out := onInst (port < 16) s fun s => s.dataIn port x
def execIdleFlit (port : Nat) (x : Flit) (s : State) : Out := onInst (port < 16) s fun s => s.idleIn port x

def execAckSend (port : Nat) (s : State) : Out :=
  onInst (port < 16) s fun s => if s.portUp port then s.modPort port Port.sendIdle else s

/-! Bring-up. -/

/-- A CTRL flit with a control body: one with a bad CRC is lost and counted, one with a reserved bit is discarded and counted
as a protocol error (R282, R284). -/
def State.onCtrl (s : State) (p : Nat) (c : CtrlIn) (f : State → State) : State :=
  let x := s.port p
  if !(x.st = .hello || x.st = .up || x.st = .retraining || x.st = .miswired) then s
  else if !c.good then s.crcError p
  else if c.reserved ≠ 0 then s.protoError p
  else f s

/-- The HELLO body of this module (Table 10-3). -/
def State.helloBody (s : State) (p lanes : Nat) : Nat × List Byte :=
  (1, natLe 1 1 ++ natLe 1 0 ++ natLe 2 (s.nodeId.getD 0xFFFF) ++ natLe 1 p ++ natLe 1 lanes ++ natLe 1 0)

def State.sendHello (s : State) (p : Nat) : State :=
  let body := s.helloBody p (s.port p).lanes
  s.modPort p fun x => { x.sendCtrl body with helloSent := true, ctrl := some body }

/-- Node and port that a torus port must find at its far end (R286, R289). -/
def State.expectPeer (s : State) (own p : Nat) : Nat × Nat :=
  let dim := p / 4
  let n := max (dimOf s.dims dim) 1
  let c := coord own dim
  let plus := p / 2 % 2 = 0
  let c2 := if plus then (c + 1) % n else (c + n - 1) % n
  (own - c * 32 ^ dim + c2 * 32 ^ dim, if plus then p + 2 else p - 2)

/-- Judges a port whose peer's HELLO is known. -/
def State.judgePeer (s : State) (p : Nat) : State :=
  let x := s.port p
  if !x.helloGot then s
  else if 12 ≤ p then s.portMove p fun x => { x with st := .up, ctrl := none }
  else match s.nodeId with
    | none => s
    | some own =>
      if s.expectPeer own p = (x.peerNode, x.peerPort) then
        if x.st = .up then s else s.portMove p fun x => { x with st := .up, ctrl := none }
      else if x.st = .miswired then s
      else (s.portMove p fun x => { x with st := .miswired, since := s.now }).moveOut p

/-- A HELLO (R16, R285, R286). -/
def State.helloIn (s : State) (p : Nat) (h : HelloBody) : State :=
  let x := s.port p
  if !(x.st = .hello || x.st = .up || x.st = .miswired) then s
  else if h.lanes < 2 || 4 < h.lanes || 16 ≤ h.port then s.protoError p
  else if h.major = 0 then s.portDown p .versionFail
  else
    let s1 := s.portMove p fun x =>
      { x with
        major := 1, minor := 0, peerNode := h.node % 2 ^ 16, peerPort := h.port, peerGw := h.gateway
        lanes := if x.st = .hello then min x.lanes h.lanes else x.lanes, helloGot := true }
    s1.judgePeer p

def execLinkHello (port : Nat) (c : CtrlIn) (h : HelloBody) (s : State) : Out :=
  onInst (port < 16) s fun s => s.onCtrl port c fun s => s.helloIn port h

/-- TIME_REQ is stamped and answered (R309). -/
def execTimeReq (port : Nat) (c : CtrlIn) (t1 : Nat) (s : State) : Out :=
  onInst (port < 16) s fun s => s.onCtrl port c fun s =>
    if s.portUp port then s.modPort port fun x => x.sendCtrl (3, natLe 8 t1 ++ natLe 8 s.now ++ natLe 8 s.now) else s

/-- The peer's RETRAIN (R287, Table 10-17). -/
def State.retrainIn (s : State) (p lanes reason : Nat) : State :=
  let x := s.port p
  if lanes < 2 || 4 < lanes || 2 < reason then s.protoError p
  else if x.st = .retraining then
    s.portMove p fun x =>
      let n := if x.ctrl.isSome then min x.lanes lanes else x.lanes
      { x with ctrl := none, lanes := n, degrades := if n < x.lanes then inc16 x.degrades else x.degrades }
  else if x.st = .up then
    let s0 := if reason = 2 then s.modPort p fun x => { x with working := [0, 1, 2, 3] } else s
    let n := if reason = 2 then lanes else min lanes (min x.lanes x.working.length)
    (s0.startRetrain p n reason).modPort p fun x => { x with ctrl := none }
  else s

def execRetrain (port : Nat) (c : CtrlIn) (lanes reason : Nat) (s : State) : Out :=
  onInst (port < 16) s fun s => s.onCtrl port c fun s => s.retrainIn port lanes reason

/-- The body that waits for the peer's is sent again (R284). -/
def execCtrlRepeat (port : Nat) (s : State) : Out :=
  onInst (port < 16) s fun s =>
    let x := s.port port
    match x.ctrl with
    | some b => if x.st = .hello || x.st = .retraining then s.modPort port fun x => x.sendCtrl b else s
    | none => s

/-- PMD training ends on the lanes given (R285). -/
def execPmdTrainingDone (port : Nat) (lanes : List Nat) (s : State) : Out :=
  onInst (port < 16) s fun s =>
    let w := (List.range 4).filter fun l => lanes.contains l
    if (s.port port).st ≠ .training || w.length < 2 then s
    else (s.portMove port fun x => { x.fresh with st := .hello, since := s.now, working := w, lanes := w.length }).sendHello port

def ms10 : Nat := 10000000

def execHelloTimeout (port : Nat) (s : State) : Out :=
  onInst (port < 16) s fun s =>
    let x := s.port port
    if x.st = .hello && !x.helloGot && x.since + ms10 ≤ s.now then s.portDown port .down else s

def execPortRestart (port : Nat) (s : State) : Out :=
  onInst (port < 16) s fun s =>
    let x := s.port port
    if x.st = .down && x.since + 1000000000 ≤ s.now then s.portMove port fun x => { x with st := .training, since := s.now } else s

/-- A lane loses lock (0), or yields a number of uncorrectable codewords (R287). -/
def execLaneFail (port lane uncorrectable : Nat) (s : State) : Out :=
  onInst (port < 16 && lane < 4) s fun s => s.laneErrors port lane uncorrectable

def execRetrainDone (port : Nat) (s : State) : Out :=
  onInst (port < 16) s fun s =>
    if (s.port port).st = .retraining then
      (((s.portMove port fun x => { x with st := .up, ctrl := none }).resendOn port).modPort port fun x =>
        { x with replayRun := 0 }).judgePeer port
    else s

def execRetrainTimeout (port : Nat) (s : State) : Out :=
  onInst (port < 16) s fun s =>
    let x := s.port port
    if x.st = .retraining && x.since + ms10 ≤ s.now then s.portDown port .down else s

/-! Sending packets. -/

def creditOf (l : List (Nat × Nat × Nat)) (vc cls : Nat) : Nat :=
  match l.find? fun e => e.1 == vc && e.2.1 == cls with
  | some e => e.2.2
  | none => 0

/-- The first packet of a dateline class in a list. -/
def classHead (l : List OutPkt) (cls : Nat) : Option OutPkt := l.find? fun o => o.pkt.dclass == cls

/-- The packet a channel would send (R300): forwarded ones before injected ones, each in arrival order within its dateline
class, but only an injected one when 31 have gone before it. -/
def Port.offer (x : Port) (vc : Nat) : Option OutPkt :=
  let l := x.out.filter fun o => o.pkt.vc == vc
  let inj := l.filter fun o => !o.fwd
  let run := match x.sinceInj.find? fun e => e.1 == vc with | some e => e.2 | none => 0
  let line := if 31 ≤ run && !inj.isEmpty then inj else (l.filter fun o => o.fwd) ++ inj
  line.find? fun o => classHead line o.pkt.dclass == some o && decide (o.pkt.slots ≤ creditOf x.credits vc o.pkt.dclass)

/-- The channel served next: VC_RSP first, the others round-robin. -/
def Port.choose (x : Port) : Option OutPkt :=
  match x.offer 1 with
  | some o => some o
  | none => ((List.range 16).map fun k => (x.rrNext + k) % 16).findSome? fun v => if v = 1 then none else x.offer v

/-- A packet as DATA flits that begin with it: the first FSEQ is txSeq. -/
def flitsGo (seq : Nat) (first : Bool) : Nat → List Byte → List TxFlit
  | 0, _ => []
  | n + 1, b =>
    { zeroFlit 0 (b.take 240 ++ List.replicate (240 - b.length) 0) with fseq := seq % 4096, start := natOfBool first } ::
      flitsGo (seq + 1) false n (b.drop 240)

def stampAll (x : Port) : List TxFlit → List TxFlit × Port
  | [] => ([], x)
  | f :: r =>
    let (g, y) := x.stamp f
    let (gs, z) := stampAll y r
    (g :: gs, z)

def Port.emit (x : Port) (o : OutPkt) : Port :=
  let n := (o.pkt.slots + 14) / 15
  let (fs, y) := stampAll x (flitsGo x.txSeq true n o.pkt.bytes)
  let vc := o.pkt.vc
  let waits := y.out.any fun q => q.pkt.vc == vc && !q.fwd
  let run := match y.sinceInj.find? fun e => e.1 == vc with | some e => e.2 | none => 0
  { y.put fs with
    out := y.out.erase o
    replay := y.replay ++ fs
    txSeq := (y.txSeq + n) % 4096
    credits := y.credits.map fun e => if e.1 = vc && e.2.1 = o.pkt.dclass then (e.1, e.2.1, e.2.2 - o.pkt.slots) else e
    rrNext := if vc = 1 then y.rrNext else (vc + 1) % 16
    sinceInj := (vc, if o.fwd && waits then run + 1 else 0) :: y.sinceInj.filter fun e => e.1 != vc }

/-- The answers of the Capstan to messages of other nodes become packets (R308). -/
def State.flushReplies (s : State) : State :=
  let out := s.cap.fabReplies
  out.foldl (fun s e =>
    let r := e.2
    s.inject (s.mkPkt ptMgtRsp 1 e.1.1 0 2 0 e.1.2 0 0 0 0 (r.bytes.take 1024)))
    (s.modCap fun c => { c with fabReplies := [] })

/-- The own request a packet in an output queue carries. -/
def State.reqOfPkt (s : State) (o : OutPkt) : Option FabReq :=
  if o.fwd || !o.pkt.isReq then none else s.fabric.reqs.find? fun q => q.txn == o.pkt.txn && q.node == o.pkt.dest

/-- An event of a tile's own fabric request, with its strand's IDs. -/
def State.emitReq (s : State) (q : FabReq) (source raw : Nat) : State :=
  match q.who with
  | .tile t op _ =>
    match (s.tile t).ops.find? fun x => x.info.id == op with
    | some x => s.emit (dieOfTile t) source raw x.info.layer x.info.op x.info.strandId x.info.seqTag (t % 96)
    | none => s
  | .remote _ _ => s
  | .core => s
  | .engine _ => s

/-- How long a packet took through this module, or a porter's request waited for its credits, is posted (Table 16-3). -/
def State.sentOut (s : State) (p : Nat) (o : OutPkt) : State :=
  if o.fwd then s.emitAll srcFabHop (s.now - o.since) 0 0 p
  else match s.reqOfPkt o with
    | some q => s.emitReq q srcFabWait (s.now - o.since)
    | none => s

def State.sendPacket (s : State) (p : Nat) : State :=
  let s0 := s.flushReplies
  let x := s0.port p
  if x.st ≠ .up then s0
  else match x.choose with
    | none => s0
    | some o => if 512 < x.replay.length + (o.pkt.slots + 14) / 15 then s0 else (s0.modPort p fun x => x.emit o).sentOut p o

def execPacketSend (port : Nat) (s : State) : Out := onInst (port < 16) s fun s => s.sendPacket port

end Sys2Proof.Machine
end

