-- ==== Sys2Proof/Machine/Clear.lean ====
section
/-! DEFINITION. What resets and power losses clear and keep (Table 15-2). -/
namespace Sys2Proof.Machine

/-- Every tile's state and SRAM, and what is on its way between tiles. -/
def State.clearTiles (s : State) : State :=
  { s with tiles := List.replicate 384 Tile.init, sram := [], sramBad := [], fly := [], tileReqs := [] }

/-- What a module reset keeps of the Capstan: what MRAM and the Amber RAM hold (Table 15-2, R416, R424, R446). -/
def Capstan.kept (c : Capstan) : Capstan :=
  { Capstan.init with
    keySeqs := c.keySeqs, mramSeqs := c.mramSeqs, ownerKey := c.ownerKey, tetherKeys := c.tetherKeys
    carve := c.carveNext, carveNext := c.carveNext, boot := c.boot, bootCount := c.bootCount
    revEcdsa := c.revEcdsa, revLms := c.revLms, debugDisable := c.debugDisable, ceil := c.ceil, ceilLeft := c.ceilLeft
    fabLock := c.fabLock, fabLockLeft := c.fabLockLeft, cartRoot := c.cartRoot, cartGrace := c.cartGrace
    cartHash := c.cartHash, cartLeft := c.cartLeft, slate := c.slate, hss := c.hss, mac := c.mac, ipv4 := c.ipv4, ipv6 := c.ipv6 }

/-- What a module reset keeps of the power controller: MRAM and flash, the feed stages, the Cleat line, failed phases'
regulators, and the minute that the reset interrupts (R399). -/
def Power.kept (p : Power) : Power :=
  { Power.init with
    cleat := p.cleat, cleatActive := p.cleatActive, cleatRelAt := p.cleatRelAt
    feedA := { FeedRec.init with st := p.feedA.st, opened := p.feedA.opened }
    feedB := { FeedRec.init with st := p.feedB.st, opened := p.feedB.opened }
    wear := p.wear, bricks := p.bricks, linkRegs := p.linkRegs, minute := { p.minute with gap := true }
    meter := p.meter, meterSeq := p.meterSeq, railsOn := p.railsOn, tripped := p.tripped, hotSwap := p.hotSwap
    standby := p.standby }

/-- A cartridge that is fitted counts as unidentified until its challenge passes (R408, R501). -/
def Thermal.kept (t : Thermal) : Thermal :=
  { Thermal.init with
    present := t.present, cart := if t.present then .unidentified else .absent, lives := t.lives }

def Lny.kept (l : Lny) : Lny := { Lny.init with now := l.now, frac := l.frac, refclk := l.refclk }

def Stack.kept (k : Stack) : Stack := { Stack.init with repairs := k.repairs, training := true }

def Port.kept (x : Port) : Port := { Port.init with lastChange := x.lastChange }

/-- The effect of a module reset on everything in its scope (R452). The dump controllers, the error status block and the
monitors return to their reset values; a reset cause is noted in the standby domain (Table 15-7). -/
def State.clearModule (s : State) (cause : Nat) : State :=
  let c := s.clearTiles
  { c with
    lny := s.lny.kept
    regions := s.regions.map fun r => { Region.init with phases := r.phases, temps := r.temps }
    power := s.power.kept
    thermal := s.thermal.kept
    stks := s.stks.map Stack.kept
    dies := List.replicate 4 Die.init
    fabric := { Fabric.init with ports := s.fabric.ports.map Port.kept }
    parts := s.parts.map fun p => { Part.init with mask := p.mask }
    allocs := []
    cap := s.cap.kept
    standby := { s.standby with
      cause := cause, afterTrip := s.power.tripped, moduleResets := inc16 s.standby.moduleResets
      amber := cellsClear s.standby.amber 0 0x7000 }
    errs := List.replicate 5 ErrPage.init
    mram := Mram.init
    awaiting := []
    geodes := List.replicate 4 Geode.init
    spineMons := List.replicate 64 Monitor.init
    rst := Rst.init
    irqs := []
    coreAns := none, coreWait := [], coreRel := false, coreLoads := [] }

/-- A standby loss clears the standby domain, Lanyard and HBM too; a pulse in progress is finished (R451, R452). -/
def State.clearAll (s : State) : State :=
  let s1 := match s.mram.pulse with | some q => s.mramLand q | none => s
  let c := s1.clearModule 0
  { c with
    lny := { Lny.init with refclk := s.lny.refclk }
    power := { s.power.kept with
      feedA := { FeedRec.init with st := .lost }, feedB := { FeedRec.init with st := .lost }
      cleat := false, cleatActive := 0, cleatRelAt := none, railsOn := false, vLink := 0, vStack := (0, 0, 0)
      tripped := false, standby := false }
    hbm := [], poison := [], crcs := []
    cap := { c.cap with keySeqs := [] }
    standby := Standby.init
    pins := { s.pins with alertLow := false, lastHint := none, smb := none } }

/-- The partitions' work is lost with the rails, HBM with them; everything but the standby domain stops (R404, R368). -/
def State.losePower (s : State) : State :=
  let s1 := (List.range 16).foldl (fun s p => s.portDown p .down) s
  let c := s1.clearTiles
  { c with
    regions := s.regions.map fun r => { Region.init with phases := r.phases, temps := r.temps, tripRun := r.tripRun }
    dies := s1.dies.map fun d => { Die.init with faultQ := d.faultQ, mons := d.mons }
    parts := s1.parts.map fun p => { Part.init with mask := p.mask }
    allocs := [], hbm := [], poison := [], crcs := []
    power := { s1.power with
      gear := 0, cur := none, queue := [], wakeQ := [], wakingRegion := none, ramp := none, ballast := 0
      ballastPart := none, railsOn := false, vLink := 0, vStack := (0, 0, 0) }
    cap := { s1.cap with run := .booting, coresReleased := false }
    geodes := List.replicate 4 Geode.init
    rst := { s1.rst with row := 0, rowAt := s.now, edges := [], blk := none } }

end Sys2Proof.Machine
end

