-- ==== Sys2Proof/Machine/Security.lean ====
section
/-! DEFINITION. Boot (R438 to R442), the system and security commands of Table 14-7, attestation (R443 to R445) and the
Slate items they change (R446 to R448). -/
namespace Sys2Proof.Machine

def outState (o : Out) (s : State) : State :=
  match o with
  | .next s1 => s1
  | _ => s

/-! Firmware components (Tables 14-9, 14-10). -/

def slotBase (slot : Nat) : Nat := slot * 0x6000000
def loaderOfs : Nat := 0x4000000
def slotSize : Nat := 0x6000000

/-- The fields of a component header that later steps use, and its payload. -/
structure Comp where
  typ : Nat
  ecdsaSlot : Nat
  lmsSlot : Nat
  digest : Nat
  loadAddr : Nat
  payload : List Byte
  deriving DecidableEq, Repr

/-- Reads a component and checks it under R439; none where it is not valid. area: the bytes its place in the slot has. -/
def compRead (flash : List Host.Cell) (revE revL base area typ : Nat) : Option Comp :=
  let h := cellsRead flash base 4096
  let es := leAt h 8 1
  let ls := leAt h 9 1
  let size := leAt h 16 8
  let ofs := leAt h 24 8
  let zero := fun lo n => (sub h lo n).all fun b => b == 0
  let head := leAt h 0 4 == 0x5746564B && leAt h 5 1 == 1 && leAt h 6 2 == typ && zero 10 6 && zero 240 16 && zero 2092 2004
  if !head || 8 ≤ es || 8 ≤ ls || bit revE es || bit revL ls || area < ofs + size || ofs % 4096 ≠ 0 then none
  else
    let ePub := sub h 96 96
    let lPub := sub h 192 48
    let payload := cellsRead flash (base + ofs) size
    let dig := leNat (Config.sha384 (sub h 0 256))
    if leNat (Config.sha384 ePub) == Config.ecdsaSlot es && leNat (Config.sha384 lPub) == Config.lmsSlot ls &&
      Config.sha384 payload == sub h 48 48 && Config.ecdsaVerify (leNat ePub) dig (leAt h 256 96) &&
      Config.lmsVerify (leNat lPub) dig (leAt h 352 1740)
    then some ⟨typ, es, ls, leAt h 48 48, leAt h 32 8, payload⟩ else none

def State.firmware (s : State) (slot revE revL : Nat) : Option Comp := compRead s.flash revE revL (slotBase slot) loaderOfs 1
def State.loader (s : State) (slot revE revL : Nat) : Option Comp :=
  compRead s.flash revE revL (slotBase slot + loaderOfs) (slotSize - loaderOfs) 2

/-- BKP_RST_CAUSE (Table 15-7). -/
def State.rstCause (s : State) : Nat :=
  s.standby.cause % 8 + natOfBool s.standby.afterTrip * 8 + s.standby.moduleResets * 2 ^ 16 +
    s.standby.capRestarts * 2 ^ 32 + s.cap.bootCount % 65536 * 2 ^ 48

/-- Garnet (R440, R460): the boot count, the key sequence numbers rebuilt from MRAM (R456), the next first-fault set, the reset record, the boot record of a trial, the
firmware check and CDI_1; recovery where no slot holds valid firmware. -/
def State.garnet (s : State) : State :=
  let s1 := { (s.modCap fun c => { c with bootCount := c.bootCount + 1, run := .booting, keySeqs := c.mramSeqs }) with
    obs := { s.obs with set := (s.obs.set + 1) % 8, filled := 0 } }
  let s2 := s1.log 0x0001 0xFF [s1.rstCause]
  let b := s.cap.boot
  let s3 := if b.trial && b.tries = 3 then
      (s2.modCap fun c => { c with boot := ⟨1 - b.active, false, b.tries⟩ }).log 0x0002 0xFF [1 - b.active]
    else s2
  let act := s3.cap.boot.active
  let pick := match s3.firmware act s.cap.revEcdsa s.cap.revLms with
    | some f => some (act, f)
    | none => (s3.firmware (1 - act) s.cap.revEcdsa s.cap.revLms).map fun f => (1 - act, f)
  let s4 := if s3.cap.boot.trial then s3.modCap fun c => { c with boot := { c.boot with tries := c.boot.tries + 1 } } else s3
  match pick with
  | none => s4.modCap fun c => { c with run := .recovery }
  | some (slot, f) => s4.modCap fun c =>
    { c with measFw := f.digest, fwSlots := (f.ecdsaSlot, f.lmsSlot), slot := slot
             cdi1 := some (Config.hmac384 Config.uds f.digest) }

/-- The loader is copied to LOAD_ADDR, a core physical address; no part of it goes beyond the carve-out. -/
def State.copyLoader (s : State) (l : Comp) : State :=
  s.carveWrite l.loadAddr (l.payload.take (s.cap.carve * 2 ^ 30 - l.loadAddr))

/-- The core loader check (R441): once the wave is complete and the carve-out's stacks are trained (Table 15-3). -/
def doLoader (s : State) : State :=
  if s.cap.run ≠ .booting || s.rst.row < 8 || s.stks.any (fun k => k.training && !k.lost) then s
  else match s.cap.cdi1 with
    | none => s
    | some cdi1 =>
      match s.loader s.cap.slot s.cap.revEcdsa s.cap.revLms with
      | some l => (s.copyLoader l).modCap fun c => { c with
          run := .running, measLoader := l.digest, cdi2 := some (Config.hmac384 cdi1 l.digest), coresReleased := true }
      | none => s.modCap fun c => { c with run := .running, coresReleased := false }

def execLoaderCheck (s : State) : Out := .next (doLoader s)

/-! Protocol and system commands. -/

def execHello (c : Call) (major minor : Nat) (s : State) : Out :=
  .next (capstanRun (.hello c major minor) c (cmdR 0x0001 .any) (fun s =>
    if major = 0 then (s.setVer none c.src).answer stVersion
    else
      let a := (s.setVer (some (1, 0)) c.src).ok
      { a with result := 1 }) s)

/-- MBX_CAPSTAN (Table 14-3). -/
def State.mbxCapstan (s : State) : Nat :=
  s.cap.run.code + s.inProgress % 2 ^ 8 * 2 ^ 8 + s.cap.restarts * 2 ^ 16

/-! Instances in service (Table 01-1, R20, R247) on the dies of a mask. -/

def State.regionsUp (s : State) (mask : Nat) : List Nat := (List.range 32).filter fun r => bit mask (r / 8) && !(s.region r).fenced
def State.stacksOn (s : State) (mask : Nat) : List Nat := (List.range 20).filter fun k => bit mask (k / 5) && !(s.stk k).lost
def State.diesUp (s : State) (mask : Nat) : List Nat := (List.range 4).filter fun d => bit mask d && !(s.die d).fenced
def State.phasesUp (s : State) (mask : Nat) : Nat :=
  (((List.range 32).filter fun r => bit mask (r / 8)).map fun r =>
    ((List.range 6).filter fun i => !bit (s.region r).phases i).length).sum
/-- A fabric port is in service unless it is disabled (R288). -/
def State.portsUp (s : State) : Nat := (s.fabric.ports.filter fun x => x.st != .disabled).length

/-- Level by level: tiles, clusters, regions, compute dies, the spine die, stacks, package-regulator phases, fabric ports. -/
def State.inService (s : State) (mask : Nat) : List Nat :=
  let r := (s.regionsUp mask).length
  [12 * r, 3 * r, r, (s.diesUp mask).length, 1, (s.stacksOn mask).length, s.phasesUp mask, s.portsUp]

/-- HCH_RGEAR_0 and HCH_RGEAR_1 for the dies of a mask: 0xF for a region fenced dark. -/
def State.rgears (s : State) (mask half : Nat) : Nat :=
  ((List.range 16).map fun k =>
    let r := 16 * half + k
    let x := s.region r
    (if !bit mask (r / 8) then 0 else if x.fenced then 15 else x.gear % 16) * 2 ^ (4 * k)).sum

def State.stacksUp (s : State) : Nat := (s.stks.filter fun k => !k.lost).length

/-- The bytes of each pseudo-channel the carve-out takes (R416, R245). -/
def State.carvePc (s : State) : Nat := (s.cap.carve * 2 ^ 30 / 256 + 639) / 640 * 256
/-- What allocations may use (R244, R416). -/
def State.capacity (s : State) : Nat := s.stacksUp * 32 * (0x47BAC000 - s.carvePc)

def State.throttles (s : State) (ps : List Nat) : List Nat :=
  (ps.map fun p => let t := s.power.throt.getD p (0, 0); [t.1, t.2]).flatten

/-- R20, R390; a job agent sees the part of its own partition (R429). -/
def execSysQuery (c : Call) (s : State) : Out :=
  .next (capstanRun (.sysQuery c) c (cmdR 0x0002 .any) (fun s =>
    let ps := if c.msg.auth = 1 then [0, 1, 2, 3] else [Call.part c]
    let mask := if c.msg.auth = 1 then 15 else (s.part (Call.part c)).mask
    let a := s.ok
    { a with
      payload := s.inService mask ++ [s.power.gear, s.rgears mask 0, s.rgears mask 1, s.mbxCapstan,
        natOfBool s.cap.coresReleased, s.capacity] ++ s.throttles ps }) s)

def disjointMasks : List Nat → Bool
  | [] => true
  | m :: r => r.all (fun x => m &&& x == 0) && disjointMasks r

/-- Dies in no partition are power-gated (R430). -/
def State.gateFree (s : State) : State :=
  (List.range 32).foldl (fun s r =>
    if (s.partOfDie (r / 8)).isNone then s.modRegion r fun x => { x with awake := false, waking := false, released := false }
    else s) s

def execSysPartition (c : Call) (masks : List Nat) (s : State) : Out :=
  .next (capstanRun (.sysPartition c masks) c (cmdC 0x0003 .owner) (fun s =>
    if masks.length ≠ 4 then s.answer stFormat
    else if masks.any (fun m => 15 < m) || !disjointMasks masks then s.answer stRange
    else if (List.range 4).any (fun p => (s.part p).bound.isSome && (s.part p).mask != masks.getD p 0) then s.answer stBusy
    else ({ s with parts := List.zipWith (fun (p : Part) m => { p with mask := m }) s.parts masks }).gateFree.ok) s)

def execSysCarveout (c : Call) (gib : Nat) (s : State) : Out :=
  .next (capstanRun (.sysCarveout c gib) c (cmdM 0x0004 .owner) (fun s =>
    if gib < 16 || 64 < gib then s.answer stRange else (s.modCap fun k => { k with carveNext := gib }).ok) s)

def execSysNet (c : Call) (mac ipv4 ipv6 : Nat) (s : State) : Out :=
  .next (capstanRun (.sysNet c mac ipv4 ipv6) c (cmdM 0x0005 .owner) (fun s =>
    (s.modCap fun k => { k with mac := mac, ipv4 := ipv4, ipv6 := ipv6 }).ok) s)

def execProgKey (c : Call) (slot : Nat) (key : Option Nat) (s : State) : Out :=
  .next (capstanRun (.progKey c slot key) c (cmdC 0x0206 .owner) (fun s =>
    if 4 ≤ slot then s.answer stRange
    else (s.modCap fun k => { k with progKeys := k.progKeys.set slot key }).ok) s)

/-! Security commands. -/

def execSecOwnerClaim (c : Call) (key : Nat) (s : State) : Out :=
  .next (capstanRun (.secOwnerClaim c key) c (cmdM 0x0601 .claim) (fun s =>
    (s.modCap fun k => { k with ownerKey := some key }).ok) s)

def execSecOwnerRelease (c : Call) (s : State) : Out :=
  .next (capstanRun (.secOwnerRelease c) c (cmdM 0x0602 .owner) (fun s =>
    (s.modCap fun k => { k with ownerKey := none }).ok) s)

/-- State of a partition in a report (Table 14-12). -/
def State.partState (s : State) (p : Nat) : Nat :=
  let x := s.part p
  if x.mask = 0 then 0 else if x.launched && x.bound.isSome then 4 else if x.bound.isSome then 3
  else if !x.images.isEmpty then 2 else 1

/-- The 64-byte record of a partition, or a withheld one (R445): mask, state, digest, seed. -/
def State.partRec (s : State) (p : Nat) (shown : Bool) : List Byte :=
  if shown then
    let x := s.part p
    natLe 1 x.mask ++ natLe 1 (s.partState p) ++ natLe 6 0 ++ natLe 48 (match x.bound with | some i => i.digest | none => 0) ++
      natLe 8 (if x.bound.isSome then x.seed else 0)
  else natLe 64 0xFF00

/-- The 512-byte report body (Table 14-12). -/
def State.reportBody (s : State) (nonce : Nat) (shown : Nat → Bool) : List Byte :=
  let k := s.cap
  let flags := natOfBool k.debugDisable + 2 * natOfBool k.debugOpened + 4 * k.slot + 8 * natOfBool k.boot.trial +
    16 * natOfBool s.lny.locked + 32 * natOfBool k.ownerKey.isSome
  natLe 1 0 ++ natLe 1 1 ++ natLe 2 512 ++ natLe 4 0 ++ natLe 8 Config.moduleId ++ natLe 48 nonce ++ natLe 8 s.now ++
    natLe 1 flags ++ natLe 1 (k.fwSlots.1 + 8 * k.fwSlots.2) ++ natLe 1 k.revEcdsa ++ natLe 1 k.revLms ++ natLe 1 k.ceilLeft ++
    natLe 1 k.fabLockLeft ++ natLe 1 k.cartLeft ++ natLe 1 0 ++ natLe 48 k.measFw ++ natLe 48 k.measLoader ++
    natLe 48 (match k.ownerKey with | some x => Config.keyHash x | none => 0) ++
    natLe 4 (match k.fabLock with | some n => n + 65536 | none => s.nodeId.getD 0xFFFF) ++ natLe 4 s.power.wear ++ natLe 24 0 ++
    ((List.range 4).map fun p => s.partRec p (shown p)).flatten

/-- The ASCII label of a report's signatures. -/
def attestLabel : List Byte := [0x4B, 0x56, 0x31, 0x2D, 0x41, 0x54, 0x54, 0x45, 0x53, 0x54]

/-- HSS signature with the current index, after index + 1 is committed (R444). -/
def State.hssNext (s : State) (digest : Nat) : Nat × State :=
  (Config.hssSign s.cap.hss digest, s.modCap fun k => { k with hss := k.hss + 1 })

def execSecAttest (c : Call) (nonce : Nat) (s : State) : Out :=
  .next (capstanRun (.secAttest c nonce) c { cmdR 0x0603 .any with mram := true } (fun s =>
    if 2 ^ 30 ≤ s.cap.hss then s.answer stResource
    else
      let body := s.reportBody nonce fun p => c.msg.auth = 1 || p = Call.part c
      let dig := leNat (Config.sha384 (attestLabel ++ body))
      let (h, s1) := s.hssNext dig
      let a := s1.ok
      { a with payload := packWords (body ++ natLe 96 (Config.aliasSign dig) ++ natLe 3292 h) }) s)

def execSecCerts (c : Call) (piece : Nat) (s : State) : Out :=
  .next (capstanRun (.secCerts c piece) c (cmdR 0x0604 .any) (fun s =>
    let a := s.ok
    { a with payload := packWords (Config.certPiece piece) }) s)

/-- What the revocation bits would be, and whether R447 forbids them. -/
def State.revokeBusy (s : State) (revE revL : Nat) : Bool :=
  revE % 256 = 255 || revL % 256 = 255 ||
    ((s.firmware s.cap.boot.active revE revL).isNone && (s.firmware (1 - s.cap.boot.active) revE revL).isNone)

def execSecRevoke (c : Call) (lms : Bool) (slot : Nat) (s : State) : Out :=
  .next (capstanRun (.secRevoke c lms slot) c (cmdM 0x0605 .owner) (fun s =>
    if 8 ≤ slot then s.answer stRange
    else
      let revE := if lms then s.cap.revEcdsa else s.cap.revEcdsa ||| 2 ^ slot
      let revL := if lms then s.cap.revLms ||| 2 ^ slot else s.cap.revLms
      if revE = s.cap.revEcdsa && revL = s.cap.revLms then s.ok
      else if s.revokeBusy revE revL then s.answer stBusy
      else (s.slateChange 1 fun k => { k with revEcdsa := revE, revLms := revL }).ok) s)

def execSecDebugDisable (c : Call) (s : State) : Out :=
  .next (capstanRun (.secDebugDisable c) c (cmdM 0x0606 .owner) (fun s =>
    if s.cap.debugDisable then s.ok
    else (s.slateChange 2 fun k => { k with debugDisable := true }).ok) s)

def execSecDebugOpen (c : Call) (s : State) : Out :=
  .next (capstanRun (.secDebugOpen c) c (cmdC 0x0607 .owner) (fun s =>
    if s.cap.debugDisable then s.answer stPermission
    else ((s.modCap fun k => { k with debugOpened := true }).log 0x000E 0xFF []).ok) s)

def execSecFabricLock (c : Call) (lock : Bool) (node : Nat) (s : State) : Out :=
  .next (capstanRun (.secFabricLock c lock node) c (cmdM 0x0608 .owner) (fun s =>
    let new := if lock then some (node % 65536) else none
    match slWrite (decide (new ≠ s.cap.fabLock)) s.cap.fabLockLeft with
    | .same => s.ok
    | .refused => (s.slRefuse (some c.src) 3).answer stSlRefused
    | .write => (s.slateChange 3 fun k => { k with fabLock := new, fabLockLeft := k.fabLockLeft - 1 }).ok) s)

def execSecFwWrite (c : Call) (ofs : Nat) (data : List Byte) (s : State) : Out :=
  .next (capstanRun (.secFwWrite c ofs data) c (cmdC 0x0609 .owner) (fun s =>
    if 3840 < data.length then s.answer stFormat
    else if slotSize < ofs + data.length then s.answer stRange
    else ({ s with flash := cellsWrite s.flash (slotBase (1 - s.cap.boot.active) + ofs) data }).ok) s)

def execSecFwActivate (c : Call) (s : State) : Out :=
  .next (capstanRun (.secFwActivate c) c (cmdM 0x060A .owner) (fun s =>
    let slot := 1 - s.cap.boot.active
    if (s.firmware slot s.cap.revEcdsa s.cap.revLms).isNone || (s.loader slot s.cap.revEcdsa s.cap.revLms).isNone
    then s.answer stSignature
    else (s.modCap fun k => { k with boot := ⟨slot, true, 0⟩ }).ok) s)

def execSecFwCommit (c : Call) (s : State) : Out :=
  .next (capstanRun (.secFwCommit c) c (cmdM 0x060B .owner) (fun s =>
    (s.modCap fun k => { k with boot := { k.boot with trial := false } }).ok) s)

end Sys2Proof.Machine
end

