-- ==== Sys2Proof/Machine/Gear.lean ====
section
/-! DEFINITION. The cap and the gears (13: R377 to R379, R389, R411), gear changes (06: R166 to R173), the Cleat line
(R385, R386), fencing (R373), hard trips (R404), and their commands. -/
namespace Sys2Proof.Machine

def MS : Nat := 1000000
def SEC1 : Nat := 1000000000

/-! Cap sources (Table 13-2). -/

/-- R367. -/
def State.feedCap (s : State) : Option Nat :=
  match s.power.feedA.st, s.power.feedB.st with
  | .sagging, .normal => some 1000
  | .normal, .sagging => some 1000
  | .sagging, .sagging => some 800
  | .sagging, .lost => some 800
  | .lost, .sagging => some 800
  | .normal, .normal => none
  | .normal, .lost => none
  | .lost, .normal => none
  | .lost, .lost => none

def bitCount (n w : Nat) : Nat := ((List.range w).filter fun i => bit n i).length

/-- R371. -/
def State.brickCap (s : State) : Option Nat :=
  let n := bitCount s.power.bricks 8
  if 7 ≤ n then none else some (200 * (n - 1))

/-- R379; a fraction of a watt is dropped. -/
def State.derateCap (s : State) : Nat :=
  let t := s.thermal.inlet
  let a := s.power.derateM
  if 35 < t || 3000 < a then 600
  else ((12000 - 300 * max 0 (t - 30) - 2 * max 0 ((a : Int) - 1500)) / 10).toNat

/-- R410. -/
def State.cartCap (s : State) : Option Nat :=
  let t := s.thermal
  if t.cart ≠ .identified then some 600
  else if !t.cartExpired then none
  else if t.cartInGrace then some 900 else some 600

/-- The cap sources in force with their throttle reasons (Table 13-2, Table 13-4). -/
def State.capSources (s : State) : List (Nat × Nat) :=
  [(4, s.cap.ceil), (12, s.derateCap)] ++ (if s.power.tether = 0 then [] else [(5, s.power.tether)]) ++
    (match s.feedCap with | some v => [(1, v)] | none => []) ++
    (match s.brickCap with | some v => [(2, v)] | none => []) ++
    (match s.cartCap with | some v => [(13, v)] | none => [])

/-- The cap C in watts (R377). -/
def State.capC (s : State) : Nat := (s.capSources.map Prod.snd).foldl min 1200

/-- The lowest hardware cap (PWR_CAP). -/
def State.hwCap (s : State) : Nat :=
  ((s.capSources.filter fun x => x.1 != 4 && x.1 != 5).map Prod.snd).foldl min 1200

/-! Gear ceilings (R411). -/

def wearLimit : Nat := 28800000
/-- CLEAT_N or its hold forces gear 0 (R386). -/
def State.cleatHolds (s : State) : Bool := s.power.cleat || s.power.cleatRelAt.isSome
def State.spineInvalid (s : State) : Bool := s.thermal.spine.any Option.isNone

/-- The ceiling of every source but the burst limits. -/
def State.sourceCeil (s : State) : Nat :=
  if s.cleatHolds then 0
  else min (min (if wearLimit ≤ s.power.wear then 6 else 7) (if s.spineInvalid then 5 else 7))
    (min s.power.spineCeil s.power.hbmCeil)
def State.gearCeil (s : State) : Nat := min s.sourceCeil s.power.burstCeil

/-- R406: what the number of invalid sensors of a region allows. -/
def invalidCap (n : Nat) : Nat := if n = 0 then 7 else if n ≤ 2 then 5 else if n ≤ 7 then 3 else 0
def Region.invalids (r : Region) : Nat := (r.temps.filter Option.isNone).length
def Region.phasesBad (r : Region) : Nat := bitCount r.phases 6

/-- What the module gear lets a region run at (R372). -/
def Region.moduleTop (r : Region) (g : Nat) : Nat := if r.phases ≠ 0 then g - 1 else g

/-- The gear a region runs at under module gear g (R167, R372, R411). -/
def Region.target (r : Region) (g : Nat) : Nat :=
  let own := min (min r.thermCap r.stretchCap) (min r.shareCap (invalidCap r.invalids))
  min (r.moduleTop g) own

/-! Throttle reasons (R389). -/

/-- Whether an allocation of a partition may lie on a stack, or its dies hold it. -/
def State.usesStack (s : State) (p k : Nat) : Bool :=
  bit (s.part p).mask (k / 5) || s.allocs.any fun al => al.part == p && (al.e.mode != 0 || al.e.die == k / 5)

def State.reasons (s : State) (p old : Nat) : Nat :=
  let w := s.power
  let c := s.capC
  let rs := ((List.range 32).filter fun r => bit (s.part p).mask (r / 8)).map s.region
  let served := rs.filter fun r => !r.fenced
  let on := fun (b : Bool) (n : Nat) => if b then 2 ^ n else 0
  let caps := (s.capSources.map fun x => on (x.2 == c && c < 1200) x.1).foldl (· ||| ·) 0
  let waits := w.wakeQ.any fun r => bit (s.part p).mask (r / 8)
  on s.cleatHolds 0 ||| caps |||
    on (served.any fun r => r.phases != 0 && r.gear + 1 == max w.gear 1) 3 |||
    (if w.burstCeil < 7 then w.burstWhy else 0) |||
    on (wearLimit ≤ w.wear && w.gear == 6 && min w.burstCeil (min w.spineCeil w.hbmCeil) == 7 && !s.spineInvalid) 9 |||
    on ((w.spineCeil < 7 && w.gear == w.spineCeil) || (s.spineInvalid && w.gear == 5) ||
      served.any fun r => (r.thermCap < 7 && r.gear == r.thermCap) || (r.invalids != 0 && r.gear == invalidCap r.invalids)) 10 |||
    on ((w.hbmCeil < 7 && w.gear == w.hbmCeil) || (List.range 20).any fun k => (s.stk k).rate < 8 && s.usesStack p k) 11 |||
    on (served.any fun r => r.shareCap < 7 && r.gear == r.shareCap && r.gear < min w.gear (w.parts.getD p (0, 300, 7, 0)).2.2.1) 14 |||
    on (served.any fun r => r.stretchCap < 7 && r.gear == r.stretchCap) 15 |||
    (if waits then old &&& 2 ^ 16 else 0) ||| (if w.ramp.isSome then old &&& 2 ^ 17 else 0) ||| (old &&& 2 ^ 18)

/-- Every partition's reasons are formed anew, and their sticky copies take them up. -/
def State.rethrottle (s : State) : State :=
  s.modPower fun w => { w with throt := (List.range 4).map fun p =>
    let old := w.throt.getD p (0, 0)
    let new := if s.defined p then s.reasons p old.1 else 0
    (new, old.2 ||| new) }

/-- A reason that an event raises by itself. -/
def State.raiseThrot (s : State) (p n : Nat) : State :=
  s.modPower fun w => { w with throt := modAt w.throt p fun x => (x.1 ||| 2 ^ n, x.2 ||| 2 ^ n) }

/-! Periodic work. -/

/-- When a periodic task last ran. -/
def State.lastRun (s : State) (k : Task) (i : Nat) : Option Nat := (s.power.ran.find? fun e => e.1 == (k, i)).map Prod.snd

/-- Whether a periodic task is due: its period has passed since it last ran, or Lanyard was set back meanwhile. -/
def State.due (s : State) (k : Task) (i period : Nat) : Bool :=
  match s.lastRun k i with
  | some t => decide (t + period ≤ s.now) || decide (s.now < t)
  | none => true

/-- A periodic task runs when it is due, and not before. -/
def State.paced (s : State) (k : Task) (i period : Nat) (f : State → State) : State :=
  if s.due k i period then
    f (s.modPower fun w => { w with ran := ((k, i), s.now) :: w.ran.filter fun e => e.1 != (k, i) })
  else s

/-! Supplies: every ramp runs at 10 mV/µs (R168). -/

/-- The voltage at Lanyard time t. -/
def Volt.at_ (v : Volt) (t : Nat) : Nat :=
  let d := (t - v.start) / 100
  if v.from_ ≤ v.goal then min (v.from_ + d) v.goal else max (v.from_ - d) v.goal
/-- When its ramp ends. -/
def Volt.ends (v : Volt) : Nat := v.start + 100 * ((max v.goal v.from_) - (min v.goal v.from_))
/-- A ramp to another voltage starts at time t; one to the same voltage changes nothing. -/
def Volt.ramp (v : Volt) (goal t : Nat) : Volt := if goal = v.goal then v else ⟨goal, v.at_ t, t⟩

/-- Whether every ramp of VDD_SRAM and VDD_HBMIF has ended, and every one of VDD_LOGIC. -/
def State.sramSteady (s : State) : Bool := (s.power.vSram ++ s.power.vHbmif).all fun v => v.ends ≤ s.now
def State.logicSteady (s : State) : Bool := s.regions.all fun r => r.vLogic.ends ≤ s.now

/-! Gear changes. -/

def GearChange.new (region : Option Nat) (next : Nat) (up : Bool) (bc : Nat) : GearChange :=
  ⟨region, next, up, bc, region.isSome, false, false, false, false⟩

/-- The Lanyard time T of a change's switch beat. -/
def State.switchAt (s : State) (c : GearChange) : Nat := c.bc * 2 ^ s.lny.shift
/-- The first beat whose Lanyard time lies at least 64 µs ahead (R168). -/
def State.firstBc (s : State) : Nat := (s.now + 64000 + 2 ^ s.lny.shift - 1) / 2 ^ s.lny.shift

/-- The gear of a region once a change is in effect. -/
def State.gearAfter (s : State) (c : GearChange) (r : Nat) : Nat :=
  match c.region with
  | none => (s.region r).target c.next
  | some k => if r = k then c.next else (s.region r).gear

/-- The pin rate of the highest gear among a die's regions in service; 3.2 Gb/s where all are fenced dark (R167). -/
def State.pinOf (s : State) (d : Nat) (gear : Nat → Nat) : Nat :=
  let gs := ((List.range 8).filter fun k => !(s.region (8 * d + k)).fenced).map fun k => gear (8 * d + k)
  if gs.isEmpty then 32 else gearPin (gs.foldl max 0)

/-- The pin rate of a die once a module change is in effect (R167). -/
def State.rateAfter (s : State) (c : GearChange) (d : Nat) : Nat :=
  match c.region with
  | some _ => (s.die d).pinRate
  | none => s.pinOf d (s.gearAfter c)

/-- The pin rate that the gears in force ask of a die: a fencing or a region's cap may have changed it. -/
def State.rateNow (s : State) (d : Nat) : Nat := s.pinOf d fun r => (s.region r).gear

def hbmifOf (rate : Nat) : Nat := if rate ≤ 32 then 650 else if rate ≤ 48 then 700 else 750

/-- Whether a die's pin-rate change of a change in flight has ended. -/
def State.rateSettled (s : State) (c : GearChange) (d : Nat) : Bool :=
  (s.die d).pinRate == s.rateAfter c d && (List.range 5).all fun k => !(s.stk (5 * d + k)).training || (s.stk (5 * d + k)).lost

/-- A waiting change starts its own sequence (R172); one that changes nothing is passed over, and a region never runs above
the module gear. -/
def State.startFrom (s : State) : List GearChange → State
  | [] => s.modPower fun w => { w with cur := none, queue := [] }
  | c :: r =>
    let (from_, next) := match c.region with
      | none => (s.power.gear, c.next)
      | some k => ((s.region k).gear, min c.next ((s.region k).moduleTop s.power.gear))
    if from_ = next then s.startFrom r
    else
      let n := GearChange.new c.region next (decide (from_ < next)) s.firstBc
      s.modPower fun w => { w with cur := some n, queue := r, gearAt := n.bc % 2 ^ 48 }

/-- A change is requested: none while CLEAT_N or its hold is in force (R173); it waits behind one in flight (R172). -/
def State.requestChange (s : State) (region : Option Nat) (next : Nat) : State :=
  if s.cleatHolds then s
  else
    let c := GearChange.new region next false 0
    match s.power.cur with
    | none => s.startFrom [c]
    | some _ => s.modPower fun w => { w with queue := w.queue ++ [c] }

/-- The gear that the last change decided for a region gives it. -/
def State.regionGoal (s : State) (r : Nat) : Nat :=
  let l := (match s.power.cur with | some c => if c.switched then [] else [c] | none => []) ++ s.power.queue
  match (l.filter fun c => c.region == some r).getLast? with
  | some c => c.next
  | none => (s.region r).gear

/-- A region's own limits changed: its cap is lowered or raised by the sequence of R168; a region that is not awake has
no clock to switch. -/
def State.retarget (s : State) (r : Nat) : State :=
  let x := s.region r
  let t := x.target s.power.gear
  if x.fenced then s
  else if !x.awake then s.modRegion r fun x => { x with gear := t }
  else if t = s.regionGoal r then s
  else s.requestChange (some r) t

/-- The module gear the controller last decided. -/
def State.goal (s : State) : Nat :=
  match (s.power.queue.filter fun q => q.region.isNone).getLast? with
  | some q => q.next
  | none => match s.power.cur with
    | some c => if c.region.isNone && !c.switched then c.next else s.power.gear
    | none => s.power.gear

/-- A ceiling other than the burst limits fell: the module gear follows it. -/
def State.followCeil (s : State) : State :=
  let g := s.sourceCeil
  if g < s.goal then (s.requestChange none g).modPower fun w => { w with otherLowAt := some s.now } else s

/-- A change is cancelled (R170, R172): voltages go back to those of the gears in force; a pin rate already changed stands. -/
def State.cancelChange (s : State) : State :=
  let s1 := s.modPower fun w => { w with
    aborts := inc16 w.aborts, cur := none, vSram := w.vSram.map fun v => v.ramp (gearSram w.gear) s.now
    vHbmif := (List.range 4).map fun d => (w.vHbmif.getD d (Volt.still 650)).ramp (hbmifOf (s.die d).pinRate) s.now }
  let s2 := { s1 with regions := s1.regions.map fun (r : Region) => { r with vLogic := r.vLogic.ramp (gearV r.gear) s.now } }
  s2.startFrom s2.power.queue

/-- R172: Lanyard was set or the shift changed. A change not yet switched is cancelled and decided afresh. -/
def State.lnyMoved (s : State) : State :=
  match s.power.cur with
  | none => s
  | some c =>
    if c.switched then s.modPower fun w => { w with cur := some { c with bc := s.now / 2 ^ s.lny.shift } }
    else (s.modPower fun w => { w with queue := c :: w.queue }).cancelChange

/-! The Cleat line. -/

def cleatFeed : Nat := 1
def cleatBrick : Nat := 2
def cleatPhase : Nat := 4
def cleatPwr : Nat := 8
def cleatThermal : Nat := 16
def cleatExt : Nat := 32

/-- Whether something still stands above its gear 0 value. -/
def State.aboveGear0 (s : State) : Bool :=
  s.power.vSram.any (fun v => v.goal != 600) || s.power.vHbmif.any (fun v => v.goal != 650) ||
    s.dies.any (fun d => d.pinRate != 32) || s.regions.any fun r => r.vLogic.goal != 450

/-- CLEAT_N falls (R173, R385, R386): gear 0 everywhere, no pending change; the lowering of voltages and rates is the
one change that follows. -/
def State.cleatAssert (s : State) (sources : Nat) : State :=
  let src := if sources % 32 = 0 then cleatExt else sources % 64
  if s.power.cleat then s.modPower fun w =>
    { w with cleatActive := w.cleatActive ||| src, cleatSources := w.cleatSources ||| src }
  else
    let fresh := GearChange.new none 0 false (s.now / 2 ^ s.lny.shift)
    let low := { fresh with switched := true, preloaded := true }
    let s1 := s.modPower fun w => { w with
      cleat := true, cleatCount := inc16 w.cleatCount, cleatSources := src, cleatActive := src, cleatRelAt := none
      gear := 0, queue := [], cur := if s.aboveGear0 then some low else none, ramp := none, ballast := 0, ballastPart := none }
    let s2 := { s1 with regions := s1.regions.map fun (r : Region) => { r with gear := 0 }, pins := { s1.pins with alertLow := true } }
    (s2.log 0x0007 0xFF [src]).rethrottle

/-! Fencing and trips. -/

/-- Every strand of a tile whose region is fenced faults with REGION_FENCED (R373). -/
def State.loseTile (s : State) (t : Nat) : State :=
  (List.range 4).foldl (fun s k =>
    match (s.tile t).slots.getD k none with
    | some sl => s.fault t ((s.tile t).mkInfo k sl) true 3 1 0
    | none => s) s

/-- The neighbours of a region on its die (R375). -/
def neighbours (r : Nat) : List Nat :=
  (if r % 8 = 0 then [] else [r - 1]) ++ if r % 8 = 7 then [] else [r + 1]

def State.endPreStretch (s : State) (r : Nat) : State :=
  (neighbours r).foldl (fun s k => s.modRegion k fun x =>
    { x with preStretch := x.preStretch - 1, stretched := !x.tripped.isEmpty || 1 < x.preStretch }) s

/-- R373: a region is fenced dark. -/
def State.fenceRegion (s : State) (r : Nat) : State :=
  let x := s.region r
  if x.fenced then s
  else
    let s1 := if x.waking then s.endPreStretch r else s
    let sf := s1.modRegion r fun x => { x with fenced := true, awake := false, waking := false, stretched := false }
    let s2 := sf.modPower fun w => { w with
      wakeQ := w.wakeQ.filter (· != r), wakingRegion := if w.wakingRegion = some r then none else w.wakingRegion }
    (List.range 12).foldl (fun s k => s.loseTile (12 * r + k)) s2

/-- A stack is lost (R247). -/
def State.loseStack (s : State) (k : Nat) : State := s.modStk k fun x => { x with lost := true, training := false }

/-- R404: the shutdown record names what tripped. -/
def State.hardTrip (s : State) (source what : Nat) : State :=
  if s.power.tripped then s
  else
    let s1 := (s.cleatAssert source).losePower
    let s2 := { s1 with
      power := { s1.power with tripped := true }, thermal := { s1.thermal with fanCmd := 100 }
      pins := { s1.pins with alertLow := true } }
    s2.log 0x0008 0xFF [what]

/-! Commands. -/

/-- Module-level work of the power controller runs while the rails are on and RESET_N is high. -/
def State.pwrRuns (s : State) : Bool := s.power.railsOn && !s.rst.low

def onChange (s : State) (f : GearChange → State) : State :=
  match s.power.cur with
  | some c => if s.pwrRuns then f c else s
  | none => s

def State.setChange (s : State) (f : GearChange → GearChange) : State := s.modPower fun w => { w with cur := w.cur.map f }

/-- VDD_LOGIC of the regions a change reaches. -/
def State.rampLogic (s : State) (c : GearChange) : State :=
  { s with regions := (List.range 32).map fun r =>
      let x := s.region r
      if x.fenced || c.region.any (fun k => k != r) then x else { x with vLogic := x.vLogic.ramp (gearV (s.gearAfter c r)) s.now } }

/-- Table 06-4, up: SRAM and HBMIF from T − 60 µs, logic from T − 40 µs, preload from T − 4 µs; down: each step after the
one before it has ended (R172). VDD_LOGIC rises only after VDD_SRAM has, and falls before it (R167). -/
def State.rampAction (s : State) (a : RampAction) : State :=
  onChange s fun c =>
    let T := s.switchAt c
    match a with
    | .sramHbmif =>
      let may := if c.up then decide (T ≤ s.now + 60000) && !c.switched
        else c.switched && c.logicDone && s.logicSteady && (List.range 4).all fun d => s.rateSettled c d
      if !may || c.sramDone then s
      else (s.modPower fun w => { w with
        vSram := w.vSram.map fun v => v.ramp (gearSram c.next) s.now
        vHbmif := (List.range 4).map fun d =>
          (w.vHbmif.getD d (Volt.still 650)).ramp (hbmifOf (s.rateAfter c d)) s.now }).setChange fun c => { c with sramDone := true }
    | .logic =>
      let may := if c.up then decide (T ≤ s.now + 40000) && !c.switched && c.sramDone && s.sramSteady
        else c.switched && decide (T + 2000 ≤ s.now)
      if !may || c.logicDone then s else (s.rampLogic c).setChange fun c => { c with logicDone := true }
    | .preload =>
      if c.switched || c.preloaded || s.now + 4000 < T || (c.up && !c.checked) then s
      else s.setChange fun c => { c with preloaded := true }

def execGearRampAction (a : RampAction) (s : State) : Out := .next (s.rampAction a)

/-- R170: the phases in service of the regions that are not fenced dark. -/
def execPowerGoodCheck (failing : List Nat) (s : State) : Out :=
  onInst (failing.all fun r => r < 32) s fun s => onChange s fun c =>
    if !c.up || c.switched || c.checked || !c.logicDone || !s.logicSteady || s.now + 8000 < s.switchAt c then s
    else if failing.any fun r => !(s.region r).fenced && (c.region.isNone || c.region == some r) then s.cancelChange.rethrottle
    else s.setChange fun c => { c with checked := true }

/-- A die's controllers hold its stacks in self-refresh, relock the PHY and reload the values saved for the rate, with the
lane repairs; the stacks take no command until that has ended (R171). -/
def State.setRate (s : State) (d rate : Nat) : State :=
  (List.range 5).foldl (fun s k => s.modStk (5 * d + k) fun x =>
      { x with training := !x.lost, repairs := ((x.repairs ++ ((x.saved.find? fun e => e.1 == rate).map Prod.snd).getD [])).dedup })
    (s.modDie d fun x => { x with pinRate := rate })

/-- R171, in its place in a change; with no change in flight, a die whose regions in service ask for another rate changes
to it, and VDD_HBMIF with it (R167; DESIGN CHOICE, log entry 135). -/
def State.rateChange (s : State) (d : Nat) : State :=
  match s.power.cur with
  | none =>
    let rate := s.rateNow d
    if !s.pwrRuns || (s.die d).pinRate = rate then s
    else (s.setRate d rate).modPower fun w => { w with vHbmif := modAt w.vHbmif d fun v => v.ramp (hbmifOf rate) s.now }
  | some _ => onChange s fun c =>
    let T := s.switchAt c
    let may := if c.up then decide (T ≤ s.now + 38000) && c.sramDone && !c.switched
      else c.switched && decide (T + 2000 ≤ s.now)
    let rate := s.rateAfter c d
    if !may || (s.die d).pinRate = rate then s else s.setRate d rate

def execHbmRateChange (d : Nat) (s : State) : Out := onInst (d < 4) s fun s => s.rateChange d

/-- Whether beat b is now or past at beat n (R159). -/
def beatPast (n b : Nat) : Bool :=
  let ahead := (b % 2 ^ 48 + 2 ^ 48 - n % 2 ^ 48) % 2 ^ 48
  ahead = 0 || decide (2 ^ 47 ≤ ahead)

/-- R169, at the hitch pulse for Bc. -/
def State.gearSwitch (s : State) : State :=
  onChange s fun c =>
    let ready := !c.switched && c.preloaded && beatPast s.lny.beat c.bc &&
      (!c.up || (c.sramDone && c.logicDone && s.logicSteady && c.checked && (List.range 4).all fun d => (s.die d).pinRate == s.rateAfter c d))
    if !ready then s
    else
      let s1 := { s with regions := (List.range 32).map fun r =>
        let x := s.region r
        { x with gear := s.gearAfter c r } }
      ((s1.modPower fun w => { w with gear := if c.region.isNone then c.next else w.gear }).setChange
        fun c => { c with switched := true }).rethrottle

def execGearSwitch (s : State) : Out := .next s.gearSwitch

/-- R172. -/
def State.changeDone (s : State) : State :=
  onChange s fun c =>
    if !c.switched || !(c.up || (c.logicDone && c.sramDone && s.logicSteady && s.sramSteady && (List.range 4).all fun d => s.rateSettled c d)) then s
    else s.startFrom s.power.queue

def execGearChangeComplete (s : State) : Out := .next s.changeDone

def execCleatAssert (sources : Nat) (s : State) : Out := .next (s.cleatAssert sources)

def execCleatRelease (s : State) : Out :=
  .next (if !s.power.cleat || s.power.tripped then s
    else s.modPower fun w => { w with cleat := false, cleatActive := 0, cleatRelAt := some s.now })

/-- R386. -/
def execCleatHoldExpiry (s : State) : Out :=
  .next (match s.power.cleatRelAt with
    | some t => if t + s.power.cleatHoldMs * MS ≤ s.now then (s.modPower fun w => { w with cleatRelAt := none }).rethrottle else s
    | none => s)

/-- A cycle whose edge is due later than 1 ns from now is a stretched one from its start (R174). -/
def Region.stretch (r : Region) : Region :=
  { r with stretched := true, need := if r.acc + gearMult r.gear < r.need then 160 else r.need }

/-- R174, R175: a detector trips and the region's cycles last twice the nominal period. -/
def execDroopTrip (r det : Nat) (s : State) : Out :=
  onInst (r < 32 && det < 24) s fun s =>
    let x := s.region r
    if x.fenced || !x.awake then s
    else s.modRegion r fun x => { x.stretch with
      tripped := if x.tripped.contains det then x.tripped else det :: x.tripped, stretchLeft := 16
      stretchEvents := if x.tripped.isEmpty then x.stretchEvents + 1 else x.stretchEvents
      stretchLen := if x.tripped.isEmpty then 0 else x.stretchLen }

/-- R174: sixteen stretched cycles above the release level have passed; the event's length is posted (R175). -/
def execDroopRelease (r : Nat) (s : State) : Out :=
  onInst (r < 32) s fun s =>
    let x := s.region r
    if x.tripped.isEmpty || x.stretchLeft ≠ 0 then s
    else (s.modRegion r fun x => { x with tripped := [], stretched := x.preStretch != 0 }).emit (r / 8) srcStretch x.stretchLen
      0 0 0 0 (r % 8)

end Sys2Proof.Machine
end

