-- ==== Sys2Proof/Machine/Array.lean ====
section
/-! DEFINITION. The matrix array's work (03, 04): exact slice sums, promotion, reference products, scale sets, and the
beginning of MMA, MSCL and MFLAG at the head of the array's queue. -/
namespace Sys2Proof.Machine

/-- Products per slice (Table 03-1) and default L (Table 02-5) of a format code. -/
def sliceN (fmt : Nat) : Nat := 256 / max (fmtBits fmt) 1
def defaultL (fmt : Nat) : Nat := if fmt = 3 || fmt = 4 then 2 else if fmt = 6 then 1 else 4
def mmaL (f : MmaF) : Nat := if f.ldef then defaultL f.fmtA else f.lm1 + 1
def isIntFmt (fmt : Nat) : Bool := fmt = 6 || fmt = 7

/-- The sum of one slice: none is non-finite (R67); ok: every residue check of it holds (R82). -/
structure SliceSum where
  x : Option Dy
  nanIn : Bool
  badScale : Bool
  ok : Bool
  deriving DecidableEq, Repr

def sumDy (l : List Dy) : Dy := l.foldl Dy.add Dy.zero

/-- Products of the elements of a slice, exact. -/
def products (fa fb : Nat) (a b : List Nat) : List Val :=
  List.zipWith (fun x y => ((elemVal fa x).mul (elemVal fb y)).1) a b

def anyNan (fmt : Nat) (l : List Nat) : Bool := l.any fun x => (elemVal fmt x).isNan

/-! Residue checks modulo 7 (R82, Table 03-7): each compares the residue of a stage's output with the one predicted from
its inputs. An error in a stage that the format does not use, or that the table does not cover, is not modelled. -/

/-- What an upset adds in a stage: where, and how much. -/
def DpuUpset.at_ (u : Option DpuUpset) (st : DpuStage) : Option (Nat × Int) :=
  match u with
  | some x => if x.stage = st then some (x.k, x.delta) else none
  | none => none

/-- A product with an error in its magnitude. -/
def Val.nudge (d : Int) : Val → Val
  | .fin neg m e => .fin neg ((m : Int) + d).toNat e
  | v => v

/-- The residue of a product against the product of its operands' residues. -/
def mulOk : Val → Val → Val → Bool
  | .fin _ m _, .fin _ n _, .fin _ q _ => q % 7 == m % 7 * (n % 7) % 7
  | _, _, _ => true

/-- The products as the multipliers give them, and whether every check of them holds. -/
def multiply (fa fb : Nat) (a b : List Nat) (u : Option DpuUpset) : List Val × Bool :=
  let p := match DpuUpset.at_ u .multiplier with
    | some (k, d) => modAt (products fa fb a b) k (Val.nudge d)
    | none => products fa fb a b
  (p, ((a.zip b).zip p).all fun x => mulOk (elemVal fa x.1.1) (elemVal fb x.1.2) x.2)

/-- A sum of products in units of 2^e with an error d, and its residue against the sum of the product residues. -/
def checkedSum (e : Int) (p : List Dy) (d : Int) : Dy × Bool :=
  let l := p.map fun x => x.m * 2 ^ (x.e - e).toNat
  let n := l.sum + d
  (⟨n, e⟩, n % 7 == (l.map fun x => x % 7).sum % 7)

def treePlain (fa fb : Nat) (a b : List Nat) (u : Option DpuUpset) : SliceSum :=
  let (p, ok) := multiply fa fb a b u
  let nan := anyNan fa a || anyNan fb b
  if isIntFmt fa then
    let (n, ok2) := checkedSum 0 (p.map Val.toDy) (match DpuUpset.at_ u .tree with | some x => x.2 | none => 0)
    ⟨some n, nan, false, ok && ok2⟩
  else ⟨if p.all Val.isFin then some (sumDy (p.map Val.toDy)) else none, nan, false, ok⟩

/-- The four scaled block sums of a K4 slice (R66); a product of two K4 elements is a whole number of quarters. -/
def treeK4 (a b : List Nat) (sa sb : List Byte) (u : Option DpuUpset) : SliceSum :=
  let (p, ok) := multiply 5 5 a b u
  let sums := (List.range 4).map fun h => checkedSum (-2) (((p.map Val.toDy).drop (16 * h)).take 16)
    (match DpuUpset.at_ u .k4Sum with | some (k, d) => if k = h then d else 0 | none => 0)
  let blk := fun h : Nat =>
    (((sums.getD h (Dy.zero, true)).1).mul (kbs (sa.getD h 0).toNat)).mul (kbs (sb.getD h 0).toNat)
  ⟨some (sumDy ((List.range 4).map blk)), false, (sa ++ sb).any fun k => !kbsLegal k.toNat, ok && sums.all Prod.snd⟩

def sliceElems (fmt : Nat) (x : Slice) : List Nat := unpack (fmtBits fmt) (sliceN fmt) x.elems

def sliceSum (f : MmaF) (a b : Slice) (u : Option DpuUpset) : SliceSum :=
  let ea := sliceElems f.fmtA a
  let eb := sliceElems f.fmtB b
  if f.fmtA = 5 then treeK4 ea eb a.scales b.scales u else treePlain f.fmtA f.fmtB ea eb u

/-- TA × TB × ra[i] × cb[j], exact (R71). -/
def scaleProd (x : ScaleSet) (i j : Nat) : Dy :=
  (((dy32 x.ta).mul (dy32 x.tb)).mul (dy32 (x.ra.getD i one32))).mul (dy32 (x.cb.getD j one32))

/-- R69. inner: none is the NaN marker. The flags are matrix flag word bits. -/
def promote (outer : Nat) (inner : Option Dy) (sc : Dy) : Nat × Nat :=
  match inner with
  | none => (fp32.nanEnc, 0)
  | some v =>
    let o := val32 outer
    if o.isNan then (fp32.nanEnc, 0)
    else
      let r := (finish fp32 false (o.add (v.mul sc).toVal).1 0).1
      (r, if o.isFin && !(val32 r).isFin then mfOvfOut else 0)

/-- One DPU step of an ordinary MMA: the slice sum enters the inner accumulator, which is promoted when due (R65 to
R69). -/
def dpuSum (d : Dpu) (f : MmaF) (rel : Nat) (set : ScaleSet) (i j : Nat) (a b : Slice) (u : Option DpuUpset) :
    Dpu × Nat × Bool :=
  let x := sliceSum f a b u
  let nan := (if x.nanIn then mfNanIn else 0) ||| (if x.ok then 0 else mfResidue)
  let due := (rel + 1) % mmaL f = 0 || rel + 1 = f.s
  let sc := scaleProd set i j
  if isIntFmt f.fmtA then
    let (v, sat) := i20Add d.i20 (match x.x with | some y => y.m * 2 ^ y.e.toNat | none => 0)
    let fl := nan ||| (if sat then mfSatI20 else 0)
    if due then
      let (o, g) := promote d.acc (some ⟨v, 0⟩) sc
      ({ d with i20 := 0, acc := o }, fl ||| g, x.badScale)
    else ({ d with i20 := v }, fl, x.badScale)
  else
    let (v, sat) := a20Add d.a20 x.x
    let fl := nan ||| (if sat then mfSatA20 else 0) ||| (if v.isNan && !d.a20.isNan then mfNanAcc else 0)
    if due then
      let (o, g) := promote d.acc (if v.isNan then none else some v.value) sc
      ({ d with a20 := A20.clear, acc := o }, fl ||| g, x.badScale)
    else ({ d with a20 := v }, fl, x.badScale)

/-- The reference products of one slice, added in ascending k into the FP32 register (R106, R107). -/
def refGo (acc fl : Nat) : List Val → Nat × Nat
  | [] => (acc, fl)
  | p :: ps =>
    let o := val32 acc
    let r := (finish fp32 false (o.add p).1 0).1
    refGo r (fl ||| (if o.isFin && p.isFin && !(val32 r).isFin && !(val32 r).isNan then mfOvfOut else 0)) ps

def dpuRef (d : Dpu) (f : MmaF) (set : ScaleSet) (i j : Nat) (a b : Slice) (u : Option DpuUpset) : Dpu × Nat × Bool :=
  let ea := sliceElems f.fmtA a
  let eb := sliceElems f.fmtB b
  let sc := scaleProd set i j
  let blk := fun k : Nat =>
    if f.fmtA = 5 then (kbs (a.scales.getD (k / 16) 0).toNat).mul (kbs (b.scales.getD (k / 16) 0).toNat) else ⟨1, 0⟩
  let (prods, ok) := multiply f.fmtA f.fmtB ea eb u
  let ps := List.zipWith (fun p k => p.scale (sc.mul (blk k))) prods (List.range (sliceN f.fmtA))
  let nan := (if anyNan f.fmtA ea || anyNan f.fmtB eb then mfNanIn else 0) ||| (if ok then 0 else mfResidue)
  let (r, fl) := refGo d.acc nan ps
  ({ d with acc := r }, fl, f.fmtA == 5 && (a.scales ++ b.scales).any fun k => !kbsLegal k.toNat)

def dpuStep (d : Dpu) (f : MmaF) (rel : Nat) (set : ScaleSet) (i j : Nat) (a b : Slice) (u : Option DpuUpset) :
    Dpu × Nat × Bool :=
  if f.ref then dpuRef d f set i j a b u else dpuSum d f rel set i j a b u

/-- The registers of a DPU at the first slice of a block (R70). -/
def Dpu.start (d : Dpu) (start : Nat) : Dpu :=
  { d with drain := d.acc, acc := if (val32 start).isNan then fp32.nanEnc else start, a20 := A20.clear, i20 := 0 }

/-! Positions. -/

def Arr.mmaAt (a : Arr) (p : Nat) : Option MmaRec := a.mmas.find? fun m => m.start ≤ p && p < m.stop
def minList (l : List Nat) : Nat := match l with | [] => 0 | x :: xs => xs.foldl min x
def Arr.cRow (a : Arr) (i : Nat) : List Nat := (a.c.drop (16 * i)).take 16
def Arr.cCol (a : Arr) (j : Nat) : List Nat := (List.range 16).map fun i => a.c.getD (16 * i + j) 0
def Arr.count (a : Arr) (isB : Bool) (idx : Nat) : Nat := (if isB then a.g else a.f).getD idx 0
/-- R73: room in the elastic link. -/
def Arr.linkRoom (a : Arr) (isB : Bool) (idx : Nat) : Bool :=
  a.count isB idx < minList (if isB then a.cCol idx else a.cRow idx) + 4
def Arr.blkStart (a : Arr) (n : Nat) : Nat := minList ((a.mmas.filter fun m => m.blk == n).map fun m => m.start)
def Arr.blkStop (a : Arr) (n : Nat) : Nat := ((a.mmas.filter fun m => m.blk == n).map fun m => m.stop).foldl max 0
def Arr.minC (a : Arr) : Nat := minList a.c
/-- Entries of the finished-tile queue in use (R78). -/
def Arr.used (a : Arr) : Nat := a.queue.length + (a.blocks.filter fun b => b.alloc && !b.dest).length
/-- Those that a launch holds (R201). -/
def Arr.usedBy (a : Arr) (inst : Nat) : Nat :=
  (a.queue.filter fun e => e.info.inst == inst).length +
    (a.blocks.filter fun b => b.alloc && !b.dest && b.info.inst == inst).length

/-! The spans of Table 03-9's operands. -/

def opSpan (base s fmt : Nat) : Span := ⟨base * 64, 512 * s + (if fmt = 5 then 64 * s else 0), false⟩

/-- The spans an MMA registers (R88): a receiver of a broadcast registers none for it (R231), and the splice buffer is
not tracked (R101). own: the tile's index in its cluster. -/
def mmaSpans (f : MmaF) (own : Nat) : List Span :=
  (if f.splice || f.bcA && f.bcSrc != own then [] else [opSpan f.aBase f.s f.fmtA]) ++
  (if f.bcB && f.bcSrc != own then [] else [opSpan f.bBase f.s f.fmtB]) ++
  (if f.accIn then [⟨f.cBase * 64, 1024, false⟩] else [])

/-! Scale sets. -/

def readSet (bs : List Byte) : ScaleSet :=
  ⟨leAt bs 0 4, leAt bs 4 4, words32 (sub bs 64 64) 16, words32 (sub bs 128 64) 16⟩

/-- R71: every scale positive, normal and finite, every reserved byte zero. -/
def setOk (bs : List Byte) : Bool :=
  let x := readSet bs
  isPosNormal32 x.ta && isPosNormal32 x.tb && x.ra.all isPosNormal32 && x.cb.all isPosNormal32 &&
    (sub bs 8 56).all (fun b => b == 0) && (sub bs 192 64).all fun b => b == 0

/-- Whether an issued, unfinished MMA uses a scale set (R72): one at the array not past its last promotion. -/
def Arr.setBusy (a : Arr) (set : Nat) : Bool := a.mmas.any fun m => m.f.set == set && a.minC < m.stop

/-- A scale set takes its image, or SCALE_IMAGE is raised (R71). -/
def State.takeSet (s : State) (t : Nat) (i : Info) (set src : Nat) (bs : List Byte) : State :=
  if setOk bs then s.modTile t fun x => { x with arr := { x.arr with sets := x.arr.sets.set set (readSet bs) } }
  else s.fault t i true 1 0x0A (src * 64)

/-- Loads the set of an MSCL at the head of the queue and completes it. An image with bad parity is a DATA fault; a strand
with no tries left runs on with the image as read (R219, R253). -/
def State.loadSet (s : State) (t : Nat) (i : Info) (set src : Nat) : State :=
  let bs := s.sramRead t (src * 64) 256
  let s1 := s.modTile t fun x => ({ x with arrQ := x.arrQ.drop 1 }).release i.id
  match s.sramBadIn t (src * 64) 256 with
  | some a =>
    let s2 := (s1.postParity t a rdFeeder i.layer i.op).fault t i true 2 2 a
    if (s.tile t).canRetry i then s2 else s2.takeSet t i set src bs
  | none => s1.takeSet t i set src bs

/-- Begins an MMA: its slices follow those already begun, in the open block or a new one (R70). -/
def Arr.beginMma (a : Arr) (i : Info) (f : MmaF) (panel : Nat) (cBlock : List Nat) : Arr :=
  let n := if a.openBlk then a.nextBlk - 1 else a.nextBlk
  let blk : BlockRec := ⟨n, i, f.dest, panel, if f.sig then some f.sigTok else none, !f.cont, false, List.replicate 256 0⟩
  { a with
    mmas := a.mmas ++ [⟨i, f, a.nextSlice, n, !a.openBlk, cBlock⟩]
    blocks := (a.blocks.filter fun b => b.n != n) ++ [blk]
    nextSlice := a.nextSlice + f.s
    nextBlk := n + 1
    openBlk := f.cont }

/-- Begins the instruction at the head of the array's queue if it can (R88); none where it waits. -/
def State.arrBegin (s : State) (t : Nat) : Option State :=
  let x := s.tile t
  match x.arrQ with
  | [] => none
  | ⟨i, .mma f panel⟩ :: rest =>
    let a := x.arr
    let spans := mmaSpans f (t % 4)
    if x.blocked i.id spans then none
    else if !((a.f ++ a.g).any fun p => a.nextSlice ≤ p) then none
    else
      let s1 := s.modTile t fun x => { x with arrQ := rest }
      if f.accIn && a.openBlk then some (s1.fault t i true 1 0x07 0)
      else
        let cb := if f.accIn then words32 (s.sramRead t (f.cBase * 64) 1024) 256 else []
        let s2 := s1.modTile t fun x => { x with arr := a.beginMma i f panel cb }
        match if f.accIn then s.sramBadIn t (f.cBase * 64) 1024 else none with
        | some ad => some ((s2.postParity t ad rdFeeder i.layer i.op).fault t i true 2 2 ad)
        | none => some s2
  | ⟨i, .mscl set src deferred⟩ :: _ =>
    if deferred || x.blocked i.id [⟨src * 64, 256, false⟩] then none
    else if x.arr.setBusy set then
      some (s.modTile t fun x => { x with arrQ := match x.arrQ with
        | q :: r => { q with op := .mscl set src true } :: r
        | [] => [] })
    else some (s.loadSet t i set src)
  | ⟨_, .mflag dst clr⟩ :: rest =>
    let a := x.arr
    if a.mmas.any fun m => a.minC < m.stop then none
    else some (s.modTile t fun x =>
      { x with
        arrQ := rest
        regs := x.regs.set dst (BitVec.ofNat 64 a.mflags)
        arr := { a with mflags := if clr then 0 else a.mflags } })

end Sys2Proof.Machine
end

