-- ==== Sys2Proof/Machine/Strata.lean ====
section
/-! DEFINITION. Strata monitors (R462 to R468) and energy accounting (R469 to R472), with their mailbox commands. -/
namespace Sys2Proof.Machine

/-- An event of a source that no other command of the model posts by itself. -/
def execStrataSample (x : SampleEvent) (s : State) : Out :=
  onInst (x.d < 5) s fun s =>
    match srcInfo x.source with
    | some k => if k.sampled || srcPosted x.source then s else s.sampleEvent x
    | none => s

/-- A temperature as a sampled source gives it: °C + 64, at least 0. -/
def tempRaw (t : Int) : Nat := (t + 64).toNat

/-- What a sampled source reads of one instance on a die (Table 16-3); a sensor that cannot be read gives no sample. -/
def State.sampled (s : State) (d source inst : Nat) : Option Nat :=
  let x := s.region (8 * d + inst)
  if source = 0x07 then some (s.tile (96 * d + inst)).arr.used
  else if source = 0x10 then some (x.vLogic.at_ s.now)
  else if source = 0x11 then ((s.region (8 * d + inst / 8)).temps.getD (inst % 8) none).map tempRaw
  else if source = 0x12 then ((s.stk (5 * d + inst)).temp).map tempRaw
  else if source = 0x14 then some x.gear
  else if source = 0x15 then (s.partOfDie d).map fun p => (s.power.throt.getD p (0, 0)).1
  else if source = 0x42 then some s.power.p100u
  else if source = 0x43 then (s.thermal.spine.getD inst none).map tempRaw
  else none

/-- The instances a monitor selects, of n. -/
def Monitor.insts (x : Monitor) (n : Nat) : List Nat := if x.sel = 0x3FF then List.range n else [x.sel]

/-- R464: a sampled source gives one sample of each selected instance every 2^(10 + PERIOD) ns. -/
def execStrataPeriodSample (d m : Nat) (s : State) : Out :=
  onInst (monExists d m) s fun s =>
    let x := s.mon d m
    match srcInfo x.source with
    | some k =>
      if !k.sampled || s.now < x.nextAt then s
      else
        let per := 2 ^ (10 + x.period)
        (((x.insts k.insts).filterMap (s.sampled d x.source)).foldl (fun s v => s.sample d m v false) s).modMon d m fun x => { x with nextAt := (s.now / per + 1) * per }
    | none => s

/-! Energy (R470 to R472). -/

def addLedger (l : List (Nat × Nat × Int)) (layer op : Nat) (v : Int) : List (Nat × Nat × Int) :=
  if l.any fun e => e.1 == layer && e.2.1 == op then
    l.map fun e => if e.1 = layer && e.2.1 = op then (e.1, e.2.1, e.2.2 + v) else e
  else if l.length < 4096 then l ++ [(layer, op, v)]
  else if l.any fun e => e.1 == 0xFFFD && e.2.1 == 0xFFFD then
    l.map fun e => if e.1 = 0xFFFD && e.2.1 = 0xFFFD then (e.1, e.2.1, e.2.2 + v) else e
  else l ++ [(0xFFFD, 0xFFFD, v)]

/-- E_meas / E_raw clamped to 0.5 to 2.0, as a fraction. -/
def clampScale (num den : Nat) : Nat × Nat := if num * 2 < den then (1, 2) else if 2 * den < num then (2, 1) else (num, den)

/-- The second ends on a die: its charges enter the ledger, the difference to the measured energy goes to
(0xFFFE, 0xFFFE), and the scale is set. A second without activity leaves the quotient, and so the scale, open. -/
def State.calibrate (s : State) (d measured : Nat) : State :=
  let e := (s.die d).energy
  let unit := 600 ^ 2
  let charges := e.raw.map fun r => (r.1, r.2.1, r.2.2 * e.num / (unit * e.den))
  let total := (charges.map fun c => c.2.2).sum
  let rawSum := (e.raw.map fun r => r.2.2).sum
  let led := charges.foldl (fun l c => addLedger l c.1 c.2.1 c.2.2) e.ledger
  let led1 := addLedger led 0xFFFE 0xFFFE ((measured : Int) - total)
  let (w, sf) := s.drawFree
  let (num, den) := if rawSum = 0 then (2 ^ 32 + w.toNat % (3 * 2 ^ 32 + 1), 2 ^ 33) else clampScale (measured * unit) rawSum
  let s1 := (if rawSum = 0 then sf else s).modDie d fun x =>
    { x with energy := { num := num, den := den, calibrated := true, ledger := led1, raw := [], published := led1
                         second := s.now / SEC1 } }
  if rawSum ≠ 0 && clampScale (measured * unit) rawSum ≠ (measured * unit, rawSum) then
    s1.post (s.partOfDie d) 0x0014 d 0 0 (roundPos fp32 .rne false 0 false (measured * unit) rawSum).1
  else s1

/-- At the end of each Lanyard second, once (R470). -/
def execEnergyCalibration (d measured : Nat) (s : State) : Out :=
  onInst (d < 4) s fun s => if s.now / SEC1 = (s.die d).energy.second then s else s.calibrate d measured

/-- Current of an energy class per tile at gear 5, in 10 mA (Table 07-3). -/
def eclassCur (c : Nat) : Nat := [15, 55, 40, 90, 120, 230, 240, 250].getD c 0

/-- The estimate of R471 for a strand that ran some steps: ECLASS current under R187 times VDD_LOGIC times its time. -/
def State.chargeClass (s : State) (d gear layer op eclass steps : Nat) : State :=
  if (s.die d).energy.calibrated then s
  else s.modDie d fun x =>
    { x with energy := { x.energy with raw := addRaw x.energy.raw layer op (eclassCur eclass * gearV gear ^ 2 * steps * 6 / 1000000) } }

/-! Mailbox commands. -/

/-- What R466 lets a caller touch: PERMISSION, or RANGE for a monitor that does not exist. -/
def monRole (s : State) (c : Call) (d m : Nat) : Option Nat :=
  if !monExists d m then some stRange
  else if c.msg.auth = 1 then none
  else if monGlobal d m || s.partOfDie d ≠ some (Call.part c) then some stPermission
  else none

/-- Whether the partition of a die has a program bound. -/
def State.dieBound (s : State) (d : Nat) : Bool :=
  match s.partOfDie d with
  | some p => (s.part p).bound.isSome
  | none => false

def Monitor.ofCfg (x : Monitor) (w alarm : Nat) : Monitor :=
  { Monitor.init with
    source := bits w 0 8, shift := bits w 8 5, layerFilt := bit w 13, opFilt := bit w 14, layer := bits w 16 16,
    op := bits w 32 16, sel := bits w 48 10, period := bits w 58 4, alarmAt := alarm, shadow := x.shadow }

/-- STR_CFG_m as it reads. -/
def Monitor.cfg (x : Monitor) : Nat :=
  x.source + x.shift * 2 ^ 8 + natOfBool x.layerFilt * 2 ^ 13 + natOfBool x.opFilt * 2 ^ 14 + x.layer * 2 ^ 16 +
    x.op * 2 ^ 32 + x.sel * 2 ^ 48 + x.period * 2 ^ 58
def Monitor.stat (x : Monitor) : Nat :=
  natOfBool x.alarm + 2 * natOfBool x.sumSat + 4 * natOfBool x.shadow + x.dropped * 2 ^ 16

/-- Why a configuration is refused (R464, R466). -/
def cfgBad (d m w : Nat) : Option Nat :=
  let src := bits w 0 8
  if bit w 15 || bits w 62 2 ≠ 0 then some stReserved
  else if src = 0 then none
  else match srcInfo src with
    | none => some stRange
    | some k =>
      if (bit w 13 || bit w 14) && !k.ids then some stRange
      else if bits w 48 10 ≠ 0x3FF && k.insts ≤ bits w 48 10 then some stRange
      else if k.glob != monGlobal d m then some stPermission
      else none

def cnt (code : Nat) : CmdInfo := cmdC code .jobOwner

def execCntStrataConfig (c : Call) (d m : Nat) (cfg : W64) (alarm : Nat) (s : State) : Out :=
  .next (capstanRun (.cntStrataConfig c d m cfg alarm) c (cnt 0x0702) (fun s =>
    match monRole s c d m with
    | some st => s.answer st
    | none =>
      match cfgBad d m cfg.toNat with
      | some st => s.answer st
      | none =>
        if (s.mon d m).shadow && s.dieBound d then s.answer stBusy
        else
          let per := 2 ^ (10 + bits cfg.toNat 58 4)
          (s.modMon d m fun x => { x.ofCfg cfg.toNat alarm with nextAt := (s.now / per + 1) * per }).ok) s)

/-- A snapshot: every register of Table 16-1. -/
def Monitor.words (x : Monitor) : List Nat := [x.cfg, x.stat, x.count, x.sum, x.min, x.max, x.alarmAt] ++ x.bins

def execCntStrataRead (c : Call) (d : Nat) (ms : List Nat) (s : State) : Out :=
  .next (capstanRun (.cntStrataRead c d ms) c (cnt 0x0702) (fun s =>
    if 8 < ms.length then s.answer stFormat
    else match ms.findSome? fun m => monRole s c d m with
      | some st => s.answer st
      | none =>
        let a := s.ok
        { a with payload := (ms.map fun m => (s.mon d m).words).flatten }) s)

def Monitor.clear (x : Monitor) : Monitor :=
  { x with count := 0, sum := 0, max := 0, min := 0xFFFFFFFF, bins := List.replicate 32 0, sumSat := false, alarm := false
           dropped := 0 }

def execCntStrataClear (c : Call) (d m : Nat) (s : State) : Out :=
  .next (capstanRun (.cntStrataClear c d m) c (cnt 0x0702) (fun s =>
    match monRole s c d m with
    | some st => s.answer st
    | none => (s.modMon d m Monitor.clear).ok) s)

def execCntStrataAck (c : Call) (d m : Nat) (s : State) : Out :=
  .next (capstanRun (.cntStrataAck c d m) c (cnt 0x0702) (fun s =>
    match monRole s c d m with
    | some st => s.answer st
    | none => (s.modMon d m fun x => { x with alarm := false }).ok) s)

/-- A ledger as words: IDs and the signed 48-bit count of each entry. -/
def ledgerWords (l : List (Nat × Nat × Int)) : List Nat := (l.map fun e => [e.1 + e.2.1 * 2 ^ 16, ofSigned 48 e.2.2]).flatten

def execCntStrataEnergy (c : Call) (d : Option Nat) (s : State) : Out :=
  .next (capstanRun (.cntStrataEnergy c d) c (cnt 0x0702) (fun s =>
    match d with
    | some d =>
      if 4 ≤ d then s.answer stRange
      else if c.msg.auth ≠ 1 && s.partOfDie d ≠ some (Call.part c) then s.answer stPermission
      else
        let a := s.ok
        { a with payload := ledgerWords (s.die d).energy.published }
    | none =>
      if c.msg.auth ≠ 1 then s.answer stPermission
      else
        let (w, s1) := s.drawFree
        let a := s1.ok
        { a with payload := [w.toNat] }) s)

end Sys2Proof.Machine
end

