-- ==== Sys2Proof/Machine/Time.lean ====
section
/-! DEFINITION. Lanyard, its discipline and timers, hitch pulses, the load hint, and the time commands (06). -/
namespace Sys2Proof.Machine

/-! Errors of Lanyard (R158). -/

/-- TIME_FAULT follows the estimate; its setting is reported to every partition. HOLDOVER and TIME_FAULT mark the running
minute (Table 13-6). -/
def State.errCheck (s : State) : State :=
  let l := s.lny
  let bad := decide (l.faultNs < l.errEst)
  let s1 := s.modLny fun l => { l with timeFault := bad }
  let s2 := if bad && !l.timeFault then s1.postAll 0x0007 0x0600 l.errEst else s1
  if bad || l.holdover then s2.modPower fun w => { w with minute := { w.minute with timeFault := true } } else s2

/-- An offset is taken for slewing, or refused (R150). -/
def Lny.adjust (l : Lny) (v : Int) : Lny :=
  if v.natAbs ≤ 65535 then { l with adjRemain := v, slewCycles := 0, locked := true } else { l with adjRefused := true }

def clampTrim (v : Int) : Int := max (-(2 ^ 28)) (min (2 ^ 28) v)

/-! Delivery of stamps and events (R152): classes 0 CLEAT_N, 1 hitch beats, 2 PTP stamps, 3 timers. -/

/-- Whether timer n is due (R153). -/
def Lny.due (l : Lny) (n : Nat) : Bool := bit l.tmrEn n && bit l.tmrArmed n && decide (l.tmr.getD n 0 ≤ l.now)

/-- Whether a class has an event waiting; CLEAT_N is delivered at once. -/
def Lny.waits (l : Lny) (c : Nat) : Bool :=
  if c = 1 then l.refclk && beatOf l.shift l.now != l.beat
  else if c = 2 then !l.ptpWait.isEmpty
  else if c = 3 then (List.range 8).any l.due
  else false

/-- Whether this cycle delivers an event of a class: none was delivered in it yet, and the class is the first that
has waited nearly 32 cycles, or else the first that waits. -/
def Lny.mayDeliver (l : Lny) (c : Nat) : Bool :=
  !l.dlv && match [1, 2, 3].find? fun k => l.waits k && 29 ≤ l.dlvWait.getD k 0 with
    | some k => k == c
    | none => [1, 2, 3].find? l.waits == some c

/-- An event of a class is delivered. -/
def Lny.deliver (l : Lny) (c : Nat) : Lny := { l with dlv := true, dlvWait := l.dlvWait.set c 0 }

/-- A valid correction ends holdover; the error it leaves is not stated, a free value. -/
def State.correct (s : State) (trim : Option Int) (adj : Int) : State :=
  let (w, s1) := s.drawFree
  (s1.modLny fun l =>
    let a := l.adjust adj
    { a with trim := match trim with | some t => clampTrim t | none => l.trim
             holdover := false, errEst := w.toNat % 2 ^ 32, sinceGood := 0, missed := 0 }).errCheck

/-! Registers (Tables 06-7 to 06-9). -/

def Lny.status (l : Lny) : Nat :=
  l.srcActive + 4 * natOfBool l.locked + 8 * natOfBool l.holdover + 16 * natOfBool l.timeFault +
    32 * natOfBool (l.adjRemain != 0) + 64 * natOfBool l.adjRefused + 128 * natOfBool l.setRefused +
    l.adjRemain.natAbs * 2 ^ 16

/-- Another source begins to count its intervals. -/
def Lny.setSrc (l : Lny) (src : Nat) : Lny :=
  if l.src = src then l else { l with src := src, srcActive := src, sinceGood := 0, missed := 0 }

def Lny.setCtrl (l : Lny) (v : Nat) : Lny :=
  { l.setSrc (bits v 0 2) with
    master := bit v 2, domain := bits v 3 7, holdRate := bits v 16 8
    faultNs := bits v 24 8 }

/-- A write by the application cores to a register that takes writes only from the Capstan is ignored and recorded
(R154). -/
def capstanOnly (byCapstan : Bool) (off : Nat) (s : State) (f : State → State) : State :=
  if byCapstan then f s else s.post none 0x0003 0x0500 0 0 off

def lnyBase : Nat := 0x10000

def execLnyAdjWrite (byCapstan : Bool) (v : W64) (s : State) : Out :=
  .next (capstanOnly byCapstan (lnyBase + 0x20) s fun s => s.modLny fun l => l.adjust (toSigned 32 (v.toNat % 2 ^ 32)))

/-- Whether LNY_SET takes a value (R150). -/
def State.setOk (s : State) (v : Nat) : Bool := !s.anyBound && (!s.lny.locked || decide (s.now ≤ v))

def State.lnySet (s : State) (v : Nat) : State :=
  if s.setOk v then (s.modLny fun l => { l with now := v, frac := 0, locked := true }).lnyMoved
  else s.modLny fun l => { l with setRefused := true }

def execLnySetWrite (byCapstan : Bool) (v : W64) (s : State) : Out :=
  .next (capstanOnly byCapstan (lnyBase + 0x28) s fun s => s.lnySet v.toNat)

/-- R149. -/
def execLnyTrimWrite (byCapstan : Bool) (v : W64) (s : State) : Out :=
  .next (capstanOnly byCapstan (lnyBase + 0x18) s fun s =>
    s.modLny fun l => { l with trim := clampTrim (toSigned 32 (v.toNat % 2 ^ 32)) })

def shiftOk (n : Nat) : Bool := 8 ≤ n && n ≤ 20
def State.setShift (s : State) (n : Nat) : State := (s.modLny fun l => { l with shift := n }).lnyMoved

/-- R160: a write that would change SHIFT while a program is bound, or to a value outside 8 to 20, is refused. -/
def State.hchWrite (s : State) (v : Nat) : State :=
  let n := bits v 0 5
  if n ≠ s.lny.shift && (s.anyBound || !shiftOk n) then s.post none 0x0006 0x0600 0 0 n
  else
    let s1 := s.modLny fun l => { l with hintEn := bit v 5, hintThr := bits v 16 12 }
    if n = s.lny.shift then s1 else s1.setShift n

def execHchCtrlWrite (byCapstan : Bool) (v : W64) (s : State) : Out :=
  .next (capstanOnly byCapstan (lnyBase + 0x100) s fun s => s.hchWrite v.toNat)

/-! Beats. -/

/-- R161, R162: the pulse for the current beat sets every local beat counter. A region's pulse left the comparator early by
its delivery delay. -/
def State.hitch (s : State) (b : Nat) : State :=
  { s with
    lny := { s.lny.deliver 1 with beat := b }
    regions := s.regions.map fun (r : Region) => { r with beat := b, frac := 0, pulseAt := b * 2 ^ s.lny.shift - r.delay }
    dies := s.dies.map fun (d : Die) => { d with beat := b, beatFrac := 0 } }

def execHitchPulse (s : State) : Out := .next (if s.lny.mayDeliver 1 then s.hitch s.beatNow else s)

/-- R161: the delays are measured after a module reset and every 2^30 ns. -/
def execHitchCalibration (delays : List Nat) (s : State) : Out :=
  .next (if delays.length ≠ 32 || s.lny.calDone && s.now < s.lny.calAt + 2 ^ 30 then s
    else { s with
      lny := { s.lny with calDone := true, calAt := s.now }
      regions := List.zipWith (fun (r : Region) d => { r with delay := d }) s.regions delays })

/-- R150: every 4,096 cycles one nanosecond is added or withheld. -/
def execLnySlewStep (s : State) : Out :=
  .next (let l := s.lny
    if l.adjRemain = 0 || l.slewCycles < 4096 then s
    else if 0 < l.adjRemain then s.modLny fun l => { l with now := l.now + 1, adjRemain := l.adjRemain - 1, slewCycles := 0 }
    else s.modLny fun l => { l with skip := true, adjRemain := l.adjRemain + 1, slewCycles := 0 })

/-- R153. -/
def execTimerFire (n : Nat) (s : State) : Out :=
  onInst (n < 8) s fun s =>
    let l := s.lny
    if l.due n && l.mayDeliver 3 then
      (s.modLny fun l => { l.deliver 3 with tmrFired := l.tmrFired ||| 2 ^ n, tmrArmed := l.tmrArmed &&& (255 - 2 ^ n) }).raiseIrq (48 + n)
    else s

/-! Sources. -/

/-- R155: a PTP message with its stamp reaches the Capstan's servo, an ordinary clock that only receives time. A Sync gives
t2, and t1 itself or with its Follow_Up; the Delay_Req gives t3; the Delay_Resp completes the exchange. -/
def State.ptpTake (s : State) (x : PtpMsg) (stamp : Nat) : State :=
  let l := s.lny
  let mine := fun d : Nat => decide (l.src = 1) && d == l.domain
  match x with
  | .sync d seq t1 twoStep =>
    if mine d then s.modLny fun l => { l with ptpSync := some (seq, if twoStep then none else some t1, stamp) } else s
  | .followUp d seq t1 =>
    match l.ptpSync with
    | some (q, none, t2) => if mine d && q == seq then s.modLny fun l => { l with ptpSync := some (q, some t1, t2) } else s
    | _ => s
  | .delayReq seq => if l.src = 1 then s.modLny fun l => { l with ptpDelay := some (seq, stamp) } else s
  | .delayResp d seq t4 =>
    match l.ptpSync, l.ptpDelay with
    | some (_, some t1, t2), some (q, t3) =>
      if mine d && q == seq then
        (s.modLny fun l => { l with ptpSync := none, ptpDelay := none }).correct (some (Config.servoTrim t1 t2 t3 t4))
          (Config.servoAdj t1 t2 t3 t4)
      else s
    | _, _ => s
  | .announce d o =>
    match o with
    | some o => if mine d then s.modLny fun l => { l with utcOfs := toSigned 16 (ofSigned 16 o) } else s
    | none => s
  | .unsupported => s

/-- The first stamped PTP message is delivered in its turn (R152). -/
def State.ptpDeliver (s : State) : State :=
  match s.lny.ptpWait with
  | [] => s
  | (x, stamp) :: r => if s.lny.mayDeliver 2 then (s.modLny fun l => { l.deliver 2 with ptpWait := r }).ptpTake x stamp else s

/-- R155: the management MAC stamps a message with Lanyard to within 2 ns (a free value); its delivery follows (R152). -/
def execPtpMessage (x : PtpMsg) (s : State) : Out :=
  .next (let (w, s1) := s.drawFree
    s1.modLny fun l => { l with ptpWait := l.ptpWait ++ [(x, l.now + w.toNat % 5 - 2)] })

/-- R496, and the servo of source PPS. -/
def execPpsEdge (s : State) : Out :=
  .next (let l := s.lny
    if l.ppsSeen && l.now < l.ppsTs + 500000000 then s.modLny fun l => { l with ppsIgnored := l.ppsIgnored + 1 }
    else
      let s1 := s.modLny fun l => { l with ppsTs := l.now, ppsSeen := true }
      if l.src = 3 then s1.correct (some (Config.servoTrim l.ppsTs l.now 0 0)) (Config.servoAdj l.ppsTs l.now 0 0) else s1)

/-- The port toward the time master (R156). -/
def State.timePort (s : State) : Option Nat :=
  match s.nodeId with
  | some own =>
    match nextHop s.dims own Config.timeMaster 0 with
    | some (dir, _) => s.member dir Config.timeMaster 0
    | none => none
  | none => none

/-- R156, R309: TIME_REQ leaves every 2^20 ns; an exchange that got no answer is abandoned and counts as missing. -/
def execTimeTransferStart (s : State) : Out :=
  .next (if s.lny.src ≠ 2 || s.lny.master || s.now < s.fabric.lastTimeReq + 2 ^ 20 then s
    else match s.timePort with
      | some p =>
        let s1 := if s.fabric.timeReqAt.isSome then s.modLny fun l => { l with missed := l.missed + 1 } else s
        (s1.modPort p fun x => x.sendCtrl (2, natLe 8 s.now)).modFab fun f =>
          { f with timeReqAt := some (p, s.now), lastTimeReq := s.now }
      | none => s)

/-- R156: half the difference of the two ways, a half nanosecond dropped downward. -/
def execTimeRsp (port : Nat) (c : CtrlIn) (t1 t2 t3 : Nat) (s : State) : Out :=
  onInst (port < 16) s fun s => s.onCtrl port c fun s =>
    if s.fabric.timeReqAt ≠ some (port, t1) || s.lny.src ≠ 2 || !s.portUp port then s
    else
      let off := (((t2 : Int) - t1) - ((s.now : Int) - t3)) / 2
      (s.modFab fun f => { f with timeReqAt := none }).correct (some (Config.servoTrim t1 t2 t3 s.now)) off

/-- The interval of a source in ns: FABRIC 2^20 (R156), PPS a second (R155), PTP a second (log entry 133). -/
def srcInterval (src : Nat) : Nat := if src = 2 then 2 ^ 20 else 1000000000

/-- R158, R309: three intervals in a row without a valid correction. -/
def Lny.lost (l : Lny) : Bool := l.src != 0 && (3 ≤ l.missed || decide (3 * srcInterval l.src ≤ l.sinceGood))

/-- R158. -/
def execHoldoverEntry (s : State) : Out :=
  .next (if !s.lny.lost || s.lny.holdover then s else (s.modLny fun l => { l with holdover := true, sinceHold := 0 }).errCheck)

/-- R158: a millisecond of holdover. -/
def execHoldoverTick (s : State) : Out :=
  .next (if s.lny.holdover && decide (1000000 ≤ s.lny.sinceHold) then
      (s.modLny fun l =>
        { l with errEst := min (l.errEst + l.holdRate) (2 ^ 32 - 1), sinceHold := l.sinceHold - 1000000 }).errCheck
    else s)

/-- R491, Table 17-12. -/
def execRefclkStop (s : State) : Out := .next (s.modLny fun l => { l with refclk := false })
def execRefclkRestart (s : State) : Out :=
  .next (if s.lny.refclk then s else (s.modLny fun l => { l with refclk := true, holdover := true, sinceHold := 0 }).errCheck)

/-! The load hint (R177, R187). -/

def Desc.byBeat (d : Desc) : Bool := d.lmode == 1 || d.lmode == 3

/-- The energy classes of a tile's strands launched by beat that run now. -/
def Tile.classesNow (x : Tile) : List Nat :=
  x.slots.filterMap fun o => match o with
    | some sl => if sl.desc.byBeat then some sl.desc.eclass else none
    | none => none

/-- The energy class of the last strand that the tile's table launches by beat after beat n and no later than b, in
this pass or the next. -/
def Tile.classAhead (x : Tile) (n b : Nat) : Option Nat :=
  let pass : Nat → List Desc → List (Nat × Desc) := fun base l => l.map fun d => ((base + d.launchBeat) % 2 ^ 48, d)
  let next := if x.period = 0 then [] else pass (x.beatBase + x.period) x.table
  let l := pass x.beatBase (x.table.drop x.descIdx) ++ next
  if !x.launched then none
  else ((l.filter fun e => e.2.byBeat && !beatPast n e.1 && beatPast b e.1).getLast?).map fun e => e.2.eclass

/-- The estimated VDD_LOGIC current of the strands launched by beat, in 10 mA × multiplier × mV: of each tile those that
run, until the next one of its table takes their place (DESIGN CHOICE, log entry 134). -/
def State.estimate (s : State) (b : Nat) : Nat :=
  ((List.range 384).map fun t =>
    let x := s.tile t
    let g := (s.region (regionOfTile t)).gear
    (match x.classAhead s.beatNow b with
      | some c => eclassCur c
      | none => (x.classesNow.map eclassCur).sum) * gearMult g * gearV g).sum

def execHintPulse (beat : Nat) (s : State) : Out :=
  .next (let l := s.lny
    let new := s.estimate beat
    let old := s.estimate (beat + 2 ^ 48 - 1)
    let at_ := beat * 2 ^ l.shift
    let step := (max new old) - (min new old)
    if !l.hintEn || at_ < l.now + 500 || l.hints.any (fun h => h.1 == beat) || step ≤ l.hintThr * 100 * 80 * 600 then s
    else
      let up := decide (old < new)
      { s with
        lny := { l with hints := (beat, up) :: l.hints.filter fun h => s.now ≤ h.1 * 2 ^ l.shift }
        pins := { s.pins with lastHint := some (s.now, if up then 100 else 300) } })

/-! Mailbox commands. -/

def execTimeSource (c : Call) (src domain : Nat) (master : Bool) (s : State) : Out :=
  .next (capstanRun (.timeSource c src domain master) c (cmdC 0x0501 .owner) (fun s =>
    if 4 ≤ src || 128 ≤ domain then s.answer stRange
    else (s.modLny fun l => { l.setSrc src with domain := domain, master := master }).ok) s)

def execTimeSet (c : Call) (x : TimeSetReq) (utcOfs : Option Int) (s : State) : Out :=
  .next (capstanRun (.timeSet c x utcOfs) c (cmdC 0x0502 .owner) (fun s =>
    let bad := match utcOfs with | some o => decide (o < -32768) || decide (32767 < o) | none => false
    if bad then s.answer stRange
    else
      let s1 := match utcOfs with | some o => s.modLny fun l => { l with utcOfs := o } | none => s
      match x with
      | .keep => s1.ok
      | .adj v =>
        let n := toSigned 32 v.toNat
        (s1.modLny fun l => l.adjust n).answer (if n.natAbs ≤ 65535 then stOk else stRange)
      | .set v => (s1.lnySet v.toNat).answer (if s1.setOk v.toNat then stOk else if s1.anyBound then stBusy else stTime)) s)

def execTimeShift (c : Call) (shift : Nat) (s : State) : Out :=
  .next (capstanRun (.timeShift c shift) c (cmdC 0x0503 .job) (fun s =>
    if s.anyBound then s.answer stBusy
    else if !shiftOk shift then s.answer stRange
    else if shift = s.lny.shift then s.ok
    else (s.setShift shift).ok) s)

def execTimeStatus (c : Call) (s : State) : Out :=
  .next (capstanRun (.timeStatus c) c (cmdR 0x0504 .any) (fun s =>
    let a := s.ok
    { a with payload := [s.lny.status, s.lny.errEst, s.beatNow] }) s)

end Sys2Proof.Machine
end

