-- ==== Sys2Proof/Machine/Clock.lean ====
section
/-! DEFINITION. The passing of one nanosecond: Lanyard (R148 to R150), the region clocks (R165, R174) and their local beat
counters (R162). -/
namespace Sys2Proof.Machine

/-- One Lanyard cycle: 1 ns and TRIM units of 2^-40 ns (R149); a nanosecond that the slew withholds is left out (R150). -/
def Lny.tick (l : Lny) : Lny :=
  let f := (l.frac : Int) + l.trim
  let adv := if 2 ^ 40 ≤ f then 2 else if f < 0 then 0 else 1
  let frac := (f % 2 ^ 40).toNat
  let hold := l.skip && adv != 0
  { l with
    now := l.now + (if hold then adv - 1 else adv), frac := frac, skip := l.skip && !hold
    slewCycles := if l.adjRemain = 0 then 0 else l.slewCycles + 1
    dlv := false, dlvWait := (List.range 4).map fun c => if l.waits c then l.dlvWait.getD c 0 + 1 else 0
    sinceGood := l.sinceGood + 1, sinceHold := if l.holdover then l.sinceHold + 1 else 0 }

/-- What one step adds to the fraction of a local beat counter, in 2^-32 beat (R162, Table 06-3). -/
def fracStep (gear shift : Nat) : Nat := 80 * 2 ^ 32 / (gearMult gear * 2 ^ shift)

/-- The edge that ends a region's cycle, if it is due: one step. The next cycle is a stretched one while the stretch
lasts (R174). -/
def Region.edge (shift : Nat) (r : Region) : Region :=
  if r.acc < r.need then r
  else
    let st := natOfBool (decide (80 < r.need))
    { r with
      acc := r.acc - r.need, need := if r.stretched then 160 else 80, steps := r.steps + 1
      frac := min (r.frac + fracStep r.gear shift) (2 ^ 32 - 1)
      stretchLeft := r.stretchLeft - st, stretchLen := r.stretchLen + st, stretchedTotal := r.stretchedTotal + st }

/-- A nanosecond of a region's clock: multiplier units of 1/80 step, in which at most two edges fall. -/
def Region.tick (shift : Nat) (r : Region) : Region :=
  if !r.awake || r.fenced then r
  else (({ r with acc := r.acc + gearMult r.gear }).edge shift).edge shift

/-- A nanosecond of the local beat counter of a die's engines and backbone units, at one step a nanosecond (R162; DESIGN
CHOICE, log entry 132). -/
def Die.tick (shift : Nat) (d : Die) : Die := { d with beatFrac := min (d.beatFrac + 2 ^ 32 / 2 ^ shift) (2 ^ 32 - 1) }

/-- A Capstan that restarted runs again. -/
def CapRun.tick (c : CapRun) : CapRun :=
  match c with
  | .restarting => .running
  | .booting => .booting
  | .running => .running
  | .recovery => .recovery

/-- One nanosecond passes, and a PTP message whose turn it is reaches the servo; with REFCLK stopped neither Lanyard nor the regions advance (R491, Table 17-12). -/
def tick (s : State) : State :=
  let cap := { s.cap with run := s.cap.run.tick }
  if s.lny.refclk then
    ({ s with
      lny := s.lny.tick, regions := s.regions.map (Region.tick s.lny.shift), dies := s.dies.map (Die.tick s.lny.shift)
      cap := cap }).ptpDeliver
  else { s with cap := cap }

end Sys2Proof.Machine
end

