-- ==== Sys2Proof/Machine/Porter.lean ====
section
/-! DEFINITION. The porter (R233 to R238, R251, R254, R268 to R272, R292, R298, R305, R307): beginning an operation, sending
its requests, taking their answers, and completing it. -/
namespace Sys2Proof.Machine

/-! An operation's requests. -/

/-- Layout 1 of PRD and PWR (Table 08-4), and the element width. -/
def PorOp.turn (o : PorOp) : Bool := (o.kind == .prd || o.kind == .pwr) && o.f.sub % 4 == 1
def PorOp.ew (o : PorOp) : Nat := ewBits (o.f.sub / 4)

/-- Where request r lies in the tile's SRAM. -/
def PorOp.local_ (o : PorOp) (r : Nat) : Nat := o.f.lbase * 64 + (if o.isItem then 32 * r else 64 * r)

/-- The tile SRAM spans of an operation (Table 08-5). -/
def porSpans (kind : PKind) (f : PorF) (idx : Nat) : List Span :=
  let at_ := f.lbase * 64
  match kind with
  | .prd => [⟨at_, 64 * f.len, true⟩]
  | .pwr | .pland => [⟨at_, 64 * f.len, false⟩]
  | .pgath => [⟨idx, 4 * f.len, false⟩, ⟨at_, 32 * f.len, true⟩]
  | .pscat => [⟨idx, 4 * f.len, false⟩, ⟨at_, 32 * f.len, false⟩]
  | .pamo => if f.ret then [⟨at_, 64 * f.len, false⟩, ⟨at_, 64 * f.len, true⟩] else [⟨at_, 64 * f.len, false⟩]
  | .reefPut _ _ => [⟨at_, 64 * f.len, false⟩]
  | .reefClose _ => []

/-- The breach an operation's address makes by itself (Tables 08-11, 10-16). -/
def porBreach (s : State) (p : Nat) (o : PorOp) : Option Nat :=
  match s.target p o.addr with
  | .breach c => some c
  | tg =>
    let off := adrOff o.addr
    if off % (if o.isItem then 32 else 64) ≠ 0 then some 0x25
    else if o.kind = .pland && o.f.tcnt ≠ 0 && !isTileSram (off + 64 * (o.total - 1)) then some 0x24
    else if o.kind = .pamo && tg = .own && !isHbm off then some 0x22
    else none

/-! Beginning. -/

/-- Begins the operation at the head of the porter's queue, which may begin: its index list is read, and its address
checked. -/
def State.porStart (s : State) (t : Nat) (o : PorOp) : State :=
  let p := (s.partOfTile t).getD 0
  let s0 := s.modTile t fun x => { x with porQ := x.porQ.drop 1 }
  let idx := if o.isItem then unpack 32 o.f.len (s.sramRead t o.elemOfs (4 * o.f.len)) else []
  let o1 := { o with begun := true, index := idx, node := match s.target p o.addr with | .node n => some n | _ => none }
  match (s.tile t).recompHit (porSpans o.kind o.f o.elemOfs) with
  | some a => (s0.modTile t fun x => x.release o.info.id).fault t o.info true 1 0x06 a
  | none =>
    match porBreach s p o1 with
    | some c => (s0.modTile t fun x => x.release o.info.id).fault t o.info true 1 c o.addr
    | none =>
      let s1 := s0.modTile t fun x => { x with ops := x.ops ++ [o1] }
      match if o.isItem then s.sramBadIn t o.elemOfs (4 * o.f.len) else none with
      | some a => (s1.postParity t a rdPorter o.info.layer o.info.op).fault t o.info true 2 2 a
      | none => s1

/-! Sending. -/

/-- The bytes a write request carries, already transposed where the layout says so (R236), and its first bad word. -/
def State.reqData (s : State) (t : Nat) (o : PorOp) (r : Nat) : List Byte × Option Nat :=
  if o.turn then
    let blk := 32 * o.ew
    let b := 64 * r / blk
    let at_ := o.f.lbase * 64 + b * blk
    (sub (turnBlock o.ew (s.sramRead t at_ blk)) (64 * r - b * blk) 64, s.sramBadIn t at_ (max blk 64))
  else
    let n := if o.isItem then 32 else 64
    (s.sramRead t (o.local_ r) n, s.sramBadIn t (o.local_ r) n)

/-- What sending a request does. -/
inductive Sent where
  | wait
  | breach (code : Nat)
  | done (s : State)

def State.modOp (s : State) (t id : Nat) (f : PorOp → PorOp) : State :=
  s.modTile t fun x => { x with ops := x.ops.map fun o => if o.info.id = id then f o else o }

/-- Takes a line or item credit of the die (R234). -/
def State.credit (s : State) (t : Nat) (item : Bool) (give : Bool) : State :=
  s.modDie (dieOfTile t) fun d =>
    if item then { d with itemCredits := if give then d.itemCredits + 1 else d.itemCredits - 1 }
    else { d with lineCredits := if give then d.lineCredits + 1 else d.lineCredits - 1 }

/-- The die that holds a location. -/
def State.dieOfOff (s : State) (p off : Nat) : Nat :=
  if isTileSram off then dieOfTile (tileOfOff off)
  else match s.allocAt p off with
    | some al => (place al off).1 / 5
    | none => 0

/-- A request that ended without travelling: it waits to be taken like an answer. -/
def State.endReq (s : State) (t : Nat) (o : PorOp) (r : Nat) (fin : ReqEnd) : State :=
  (s.credit t o.isItem false).modOp t o.info.id fun o => { o with next := r + 1, resps := o.resps ++ [⟨r, fin, [], none⟩] }

/-- The request leaves: its credit is taken. -/
def State.fly_ (s : State) (t : Nat) (o : PorOp) (r : Nat) : State :=
  (s.credit t o.isItem false).modOp t o.info.id fun o => { o with next := r + 1, flying := o.flying ++ [r], sentAt := (r, s.now) :: o.sentAt }

/-- A flag line arrives at the buffer of a die (R262, R263). -/
def State.arriveFlag (s : State) (d : Nat) (fl : FlagLine) : State :=
  s.modDie d fun x =>
    if x.flagWait.isEmpty && x.flags.length < 1024 then { x with flags := x.flags ++ [fl] }
    else { x with flagWait := x.flagWait ++ [fl] }

/-- Queues a request at the home slice of its offset. -/
def State.toHome (s : State) (d : Nat) (q : HomeReq) : State :=
  s.modDie d fun x => { x with slices := modAt x.slices (homeSlice q.off) fun h => { h with waiting := h.waiting ++ [q] } }

/-- What a request asks of its location. -/
def State.reqKind (s : State) (t : Nat) (o : PorOp) (r : Nat) : HomeKind :=
  let d := (s.reqData t o r).1
  match o.kind with
  | .prd | .reefPut _ _ | .reefClose _ => .readLine
  | .pgath => .readItem
  | .pscat => .writeItem d
  | .pamo => .atomic o.f.sub o.f.ret d
  | .pwr | .pland => .writeLine (2 ^ 64 - 1) d

/-- Whether the aligned 4 KiB block of an offset lies wholly in the operation (R250, R251). -/
def PorOp.wholeBlock (o : PorOp) (off : Nat) : Bool :=
  let b := off / 4096 * 4096
  (o.kind == .prd || o.kind == .pwr) && decide (adrOff o.addr ≤ b) && decide (b + 4096 ≤ adrOff o.addr + 64 * o.total)

/-- Whether an earlier request of the tile to the same line crosses the die square by another VIA and has not completed
(R257). home: the die of the line. -/
def Tile.viaHeld (x : Tile) (t home : Nat) (o : PorOp) (off : Nat) : Bool :=
  (midDie (dieOfTile t) home o.f.via).isSome && x.ops.any fun e =>
    e.node.isNone && e.f.via != o.f.via &&
      (e.flying ++ e.resps.map Resp.req).any fun r => e.reqOff r / 64 == off / 64

/-- How a write of the same launch to the own node before this request failed, if one did: its flag line never lands
(R264). -/
def Tile.failedOwn (x : Tile) (o : PorOp) : Option ReqEnd :=
  x.ops.findSome? fun e =>
    if e.info.inst == o.info.inst && decide (e.info.id ≤ o.info.id) && e.isWrite && e.node.isNone then e.failed else none

/-- Whether a line of tile SRAM lies in the tile's code region (R199). -/
def Tile.inCode (x : Tile) (a : Nat) : Bool :=
  x.codeSize != 0 && decide (x.codeBase ≤ a / 64) && decide (a / 64 < x.codeBase + x.codeSize)

/-- Whether the queue between two regions is full (R165). -/
def State.reqsFull (s : State) (t u : Nat) : Bool :=
  regionOfTile t != regionOfTile u &&
    decide (8 ≤ (s.tileReqs.filter fun q => regionOfTile q.1 == regionOfTile u && q.2.who.region == some (regionOfTile t)).length)

/-- A request to the own node (R226, R235, R240, R247). -/
def State.sendLocal (s : State) (t p : Nat) (o : PorOp) (r : Nat) : Sent :=
  let off := o.reqOff r
  let home := s.dieOfOff p off
  let who : Who := .tile t o.info.id r
  let req : HomeReq := {
    who := who, off := off, kind := s.reqKind t o r, cls := if o.kind = .pamo then 2 else if o.isItem then 3 else 4,
    noalloc := o.f.noalloc, scope := o.scopeOf r, whole := o.wholeBlock off, layer := o.info.layer,
    op := o.info.op, strandId := o.info.strandId, seqTag := o.info.seqTag, path := edgePath (dieOfTile t) home o.f.via,
    since := s.now }
  let flag : FlagLine := {
    who := who, off := off, data := (s.reqData t o r).1, ttok := o.f.sub, tcnt := o.f.tcnt, waits := false,
    since := s.now, layer := o.info.layer, op := o.info.op, strandId := o.info.strandId, seqTag := o.info.seqTag,
    part := p, scope := o.scopeOf r, owe := none }
  if (s.tile t).viaHeld t home o off then .wait
  else if isHbm off then
    match s.allocAt p off with
    | none => .breach (if o.isItem then 0x23 else if o.kind = .pamo then 0x22 else 0x20)
    | some al =>
      if o.isWrite && al.e.ro then .breach 0x21
      else
        let k := (place al off).1
        if (s.stk k).lost then .done (s.endReq t o r (.refused 3 2 off))
        else if o.isFlag r then
          match (s.tile t).failedOwn o with
          | some e => .done (s.endReq t o r e)
          | none => .done ((s.fly_ t o r).arriveFlag (k / 5) flag)
        else .done ((s.fly_ t o r).toHome (k / 5) req)
  else if isTileSram off && !o.isItem then
    let u := tileOfOff off
    if s.partOfTile u ≠ some p then .breach 0x26
    else if (s.tile u).inCode (aOfOff off) then .breach 0x05
    else if (s.region (regionOfTile u)).fenced then .done (s.endReq t o r (.refused 3 1 off))
    else if o.isFlag r then
      match (s.tile t).failedOwn o with
      | some e => .done (s.endReq t o r e)
      | none => .done ((s.fly_ t o r).arriveFlag (dieOfTile u) flag)
    else if s.reqsFull t u then .wait
    else
      let s1 := s.fly_ t o r
      .done { s1 with tileReqs := s1.tileReqs ++ [(u, req)] }
  else .breach (if o.isItem then 0x23 else 0x20)

/-- A write of a launch to a node that failed: no flag line it sends to that node later will land (R305). -/
def State.noteBad (s : State) (t inst : Nat) (write : Bool) (node : Nat) (why : Nat × Nat × Nat) : State :=
  if !write then s
  else s.modTile t fun x => { x with slots := x.slots.map fun o => o.map fun sl =>
    if sl.inst = inst then { sl with badNodes := sl.badNodes ++ [(node, why.1, why.2.1, why.2.2)] } else sl }

/-- A request to another node (R296, R298, R303, R305, R307). -/
def State.sendRemote (s : State) (t p node : Nat) (o : PorOp) (r : Nat) : Sent :=
  let off := o.reqOff r
  let line := off / 64
  let land := o.isFlag r
  let mine := s.fabric.reqs.filter fun q => q.node == node && match q.who with | .tile u _ _ => u == t | _ => false
  let bad := match (s.tile t).holds o.info with
    | some sl => (sl.badNodes.find? fun e => e.1 == node).map Prod.snd
    | none => none
  let dead := (s.endReq t o r (.refused 6 3 off)).noteBad t o.info.inst (o.isWrite) node (6, 3, off)
  if 2 ^ 42 ≤ off then .breach (if o.isItem then 0x23 else 0x20)
  else if s.unreachable node then .done dead
  else if s.fabric.reqs.any fun q => q.node == node && q.route != s.routeCode node then .wait
  else if mine.any fun q => q.off / 64 == line && (q.ptype == ptLand) != land then .wait
  else
    let waits := bad.isSome || mine.any fun q => q.strand == o.info.inst && ptWrite ≤ q.ptype && q.ptype ≤ ptLand
    let d := (s.reqData t o r).1
    let pt := match o.kind with
      | .prd | .reefPut _ _ | .reefClose _ => ptRead
      | .pgath => ptReadItem
      | .pscat => ptWriteItem
      | .pamo => ptAtomic
      | .pwr => ptWrite
      | .pland => if land then ptLand else ptWrite
    let arg := if pt = ptWrite then 2 ^ 64 - 1 else if pt = ptAtomic then o.f.sub % 16 + natOfBool o.f.ret * 16
      else if pt = ptLand then o.f.sub % 16 + o.f.tcnt % 16 * 16 + natOfBool waits * 256 else 0
    let txn := s.fabric.nextTxn % 2 ^ 32
    let pkt := s.mkPkt pt (if land then 2 else 0) node off 1 ((s.jobOf p).getD 0) txn o.info.layer o.info.op arg (o.scopeOf r)
      (if o.isWrite then d else [])
    match s.queuePkt pkt 16 s.now with
    | none => .done dead
    | some s1 =>
      let s2 := (s1.fly_ t o r).charge (dieOfTile t) (s.region (regionOfTile t)).gear o.info.layer o.info.op evFlit 1
      .done { s2 with fabric := { s2.fabric with
        nextTxn := s2.fabric.nextTxn + 1
        reqs := s2.fabric.reqs ++ [⟨txn, .tile t o.info.id r, p, o.info.inst, node, off, pt, s.routeCode node, s.now,
          false, false, if land then bad else none⟩] } }

/-- Sends the next request of an operation. A word with bad parity is sent as read and makes the operation end with the
error (Table 08-3). -/
def State.sendReq (s : State) (t : Nat) (o : PorOp) : Sent :=
  let p := (s.partOfTile t).getD 0
  let r := o.next
  let x := s.tile t
  let d := s.die (dieOfTile t)
  if 256 ≤ (x.ops.map fun o => o.flying.length).sum then .wait
  else if (if o.isItem then d.itemCredits else d.lineCredits) = 0 then .wait
  else
    let out := match o.node with
      | none => s.sendLocal t p o r
      | some n => s.sendRemote t p n o r
    match out with
    | .done s1 =>
      match if o.isWrite then (s.reqData t o r).2 else none with
      | some a => .done ((s1.postParity t a rdPorter o.info.layer o.info.op).modOp t o.info.id fun o =>
          { o with ends := o.ends ++ [.dataBad 2 a] })
      | none => .done s1
    | out => out

/-- The read spans of an operation are free once its last request has left (R195). -/
def State.freeReads (s : State) (t : Nat) : State :=
  s.modTile t fun x =>
    { x with track := x.track.filter fun e =>
        e.wr || !x.ops.any fun o => o.info.id == e.id && !o.dead && decide (o.total ≤ o.next) && !(match o.kind with | .reefPut _ _ => true | _ => false) }

/-- Sends requests in the order of the operations, up to n of them. -/
def State.porSend : Nat → State → Nat → State
  | 0, s, _ => s
  | n + 1, s, t =>
    match (s.tile t).ops.find? fun o => !o.dead && o.next < o.total with
    | none => s.freeReads t
    | some o =>
      match s.sendReq t o with
      | .wait => s.freeReads t
      | .breach c => s.fault t o.info true 1 c (o.addr + o.delta o.next)
      | .done s1 => State.porSend n s1 t

/-! Answers. -/

/-- An answer reaches the porter. -/
def State.answerTile (s : State) (t op : Nat) (x : Resp) : State :=
  s.modOp t op fun o =>
    if o.flying.contains x.req then { o with flying := o.flying.erase x.req, resps := o.resps ++ [x] } else o

/-- Class, code and DETAIL of the fault an end of a request gives (Tables 08-10, 10-15, R314, R459). -/
def ReqEnd.cause : ReqEnd → Option (Nat × Nat × Nat)
  | .ok => none
  | .dataBad c d => some (2, c, d)
  | .refused cls c d => some (cls, c, d)
  | .timeout off => some (6, 1, off)
  | .lost off => some (3, 2, off)
  | .aborted off => some (3, 3, off)

/-- Completes an operation: its spans are free, SIG applies where every request delivered, and its fault is raised. -/
def State.finishOp (s : State) (t : Nat) (o : PorOp) : State :=
  let s1 := s.modTile t fun x => { (x.release o.info.id) with ops := x.ops.filter fun q => q.info.id != o.info.id }
  let s2 := if o.f.sig && o.ends.all ReqEnd.good then s1.addToken t o.f.sigTok 1 else s1
  match o.ends.findSome? ReqEnd.cause with
  | some (cls, code, detail) => s2.fault t o.info true cls code detail
  | none => s2

/-- Writes the answer to request r into tile SRAM: a line, an item, or elements scattered under the turn layout. -/
def State.deliver (s : State) (t : Nat) (o : PorOp) (r : Nat) (data : List Byte) : State :=
  if o.turn then
    let w := o.ew
    let blk := 32 * w
    let b := 64 * r / blk
    let at_ := o.f.lbase * 64 + b * blk
    let old := unpack w 256 (s.sramRead t at_ blk)
    let els := unpack w (512 / w) data
    let first := (64 * r - b * blk) * 8 / w
    let new := (List.range 256).map fun k =>
      let src := k % 16 * 16 + k / 16
      if first ≤ src && src < first + 512 / w then els.getD (src - first) 0 else old.getD k 0
    s.sramWrite t at_ (natLe blk (packBits w new))
  else s.sramWrite t (o.local_ r) data

/-- What the home of a block holds, and its side-table entry. -/
def State.blockBytes (s : State) (al : Alloc) (b : Nat) : List Byte :=
  ((List.range 64).map fun k =>
    let key := physKey (place al (b + 64 * k)) / 64
    s.lineRead (dieOfKey (key * 64)) key).flatten
def State.blockCrc (s : State) (al : Alloc) (b : Nat) : Nat := s.crcOf (physKey (place al b))

/-- R251: the verification of the block of a line just delivered, when it is the last of a block read whole; none while the
second read waits for the controllers (R254). -/
def State.verifyBlock (s : State) (t : Nat) (o : PorOp) (r : Nat) (sent : Nat) (crc : CrcOutcome) : Option State :=
  let p := (s.partOfTile t).getD 0
  let b := o.reqOff r / 4096 * 4096
  let r0 := (b - adrOff o.addr) / 64
  match s.allocAt p b with
  | none => some s
  | some al =>
    if !al.e.crc || !(List.range 64).all fun k => o.got.contains (r0 + k) then some s
    else
      let all := s.sramRead t (o.f.lbase * 64) (64 * o.total)
      let got := sub (if o.turn then turnBlocks o.ew all else all) (64 * r0) 4096
      if crc = .stored && crc32c got = sent then some s
      else if !(List.range 16).all fun c => s.stackReady al (b + 256 * c) then none
      else
        let cur := s.blockBytes al b
        if crc ≠ .bothBad && crc32c cur = s.blockCrc al b then
          let s1 := (List.range 64).foldl (fun s k => s.deliver t o (r0 + k) (sub cur (64 * k) 64)) s
          some (s1.post (some p) 0x000C t o.info.layer o.info.op b)
        else some (s.modOp t o.info.id fun o => { o with ends := o.ends ++ [.dataBad 4 b] })

/-- The latency of an answered line read or item is posted (Table 16-3). -/
def State.postLat (s : State) (t : Nat) (o : PorOp) (req : Nat) : State :=
  match o.sentAt.find? fun e => e.1 == req with
  | none => s
  | some e =>
    let off := o.reqOff req
    let src := if o.isItem then srcGravelLat
      else if o.kind == .prd && o.node.isNone && isHbm off then
        (if s.dieOfOff ((s.partOfTile t).getD 0) off = dieOfTile t then srcNearLat else srcFarLat)
      else 0
    if src = 0 then s else s.emit (dieOfTile t) src (s.now - e.2) o.info.layer o.info.op o.info.strandId o.info.seqTag (t % 96)

/-- Takes the answer to a request (R234): its data go into tile SRAM, its credit is free, and the operation completes
with its last request. Of an operation of an aborted strand only the credit is freed (R254). none: a second read waits. -/
def State.takeAnswer (s : State) (t op req : Nat) (crc : CrcOutcome) : Option State :=
  match (s.tile t).ops.find? fun o => o.info.id == op with
  | none => some s
  | some o =>
    match o.resps.find? fun x => x.req == req with
    | none => some s
    | some x =>
      let s0 := s.charge (dieOfTile t) (s.region (regionOfTile t)).gear o.info.layer o.info.op (if o.isItem then evItem else evLine) 1
      let s1 := ((s0.postLat t o req).credit t o.isItem true).modOp t op fun o =>
        { o with resps := o.resps.erase x, got := req :: o.got, sentAt := o.sentAt.filter fun e => e.1 != req }
      if o.dead then
        some (s1.modTile t fun y => { y with ops := y.ops.filter fun o => !(o.dead && o.flying.isEmpty && o.resps.isEmpty) })
      else
        let s2 := if x.fin = .ok then s1 else s1.modOp t op fun o => { o with ends := o.ends ++ [x.fin] }
        let writes := x.fin.good && (match o.kind with
          | .prd | .pgath => true
          | .pamo => o.f.ret
          | .pwr | .pland | .pscat | .reefPut _ _ | .reefClose _ => false)
        let s3 := if writes && !x.data.isEmpty then s2.deliver t o req x.data else s2
        let s4 := match x.crc, (s3.tile t).ops.find? (fun (o : PorOp) => o.info.id == op) with
          | some c, some o1 => if o.kind == PKind.prd && o.wholeBlock (o.reqOff req) then s3.verifyBlock t o1 req c crc else some s3
          | _, _ => some s3
        s4.map fun s4 => match (s4.tile t).ops.find? (fun (o : PorOp) => o.info.id == op) with
          | some o1 => if o1.total ≤ o1.got.length then s4.finishOp t o1 else s4
          | none => s4

end Sys2Proof.Machine
end

