-- ==== Sys2Proof/Machine/Home.lean ====
section
/-! DEFINITION. The homes (R239 to R247, R249 to R252, R259 to R264, R273): applying a request to its line, arbitration at
a home slice, eviction and scrubbing, flag lines, and requests at a tile SRAM. -/
namespace Sys2Proof.Machine

/-! Atomics (Table 08-7). -/

/-- Element width in bytes of an AOP. -/
def aopBytes (aop : Nat) : Nat := if [1, 4, 6, 9, 11, 14].contains aop then 8 else 4

/-- The value stored for one element; o: old, x: operand. -/
def aopVal (aop o x : Nat) : Nat :=
  match aop with
  | 0 => (o + x) % 2 ^ 32
  | 1 => (o + x) % 2 ^ 64
  | 2 => add32 o x
  | 3 => if toSigned 32 x < toSigned 32 o then x else o
  | 4 => if toSigned 64 x < toSigned 64 o then x else o
  | 5 => min o x
  | 6 => min o x
  | 7 => (fMinMax fp32 false o x).1
  | 8 => if toSigned 32 o < toSigned 32 x then x else o
  | 9 => if toSigned 64 o < toSigned 64 x then x else o
  | 10 => max o x
  | 11 => max o x
  | _ => (fMinMax fp32 true o x).1

/-- Applies n elements of w bytes: the new target bytes and the operand bytes with the old values (R242). -/
def atomicGo (aop w : Nat) : Nat → List Byte → List Byte → List Byte × List Byte
  | 0, _, _ => ([], [])
  | n + 1, tgt, opd =>
    let o := leNat (tgt.take w)
    if aop = 13 || aop = 14 then
      let r := atomicGo aop w n (tgt.drop w) (opd.drop (2 * w))
      let new := if o = leNat (opd.take w) then sub opd w w else tgt.take w
      (new ++ r.1, tgt.take w ++ sub opd w w ++ r.2)
    else
      let r := atomicGo aop w n (tgt.drop w) (opd.drop w)
      (natLe w (aopVal aop o (leNat (opd.take w))) ++ r.1, tgt.take w ++ r.2)

def atomicApply (aop : Nat) (tgt opd : List Byte) : List Byte × List Byte :=
  let w := aopBytes aop
  atomicGo aop w (opd.length / (if aop = 13 || aop = 14 then 2 * w else w)) tgt opd

/-! Scope tags (R271, R273). -/

def dieOfAgent (a : Nat) : Option Nat :=
  if a < 384 then some (a / 96) else if 0x400 ≤ a && a < 0x404 then some (a - 0x400)
  else if 0x410 ≤ a && a < 0x414 then some (a - 0x410) else none

/-- Whether an agent lies in the agent set of a scope around another (Table 09-1). -/
def agentIn (scope self other : Nat) : Bool :=
  if scope = 5 then true
  else if scope = 4 then self != 0xFFFF && other != 0xFFFF
  else if scope = 3 then (dieOfAgent self).isSome && dieOfAgent self == dieOfAgent other
  else if scope = 2 then decide (self < 384) && decide (other < 384) && self / 4 == other / 4
  else self == other && decide (self < 384)

/-- The test an acquire read makes on a release tag (R273). -/
def scopeTest (d : Die) (tag : Option (Nat × Nat)) (who : Who) (scope layer : Nat) : Die :=
  match tag with
  | none => d
  | some (w, ws) =>
    let r := who.agent
    if r = w then d
    else if agentIn ws w r && agentIn scope r w then d
    else { d with scopeCnt := inc32 d.scopeCnt, scopeLast := some (w, r, ws, scope, layer) }

/-! Applying a request. -/

/-- Bytes [lo, lo + new.length) of a line replaced. -/
def splice (line : List Byte) (lo : Nat) (new : List Byte) : List Byte := line.take lo ++ new ++ line.drop (lo + new.length)

/-- Merges bytes under a mask (R260). -/
def mergeMask : List Byte → List Byte → Nat → List Byte
  | o :: os, n :: ns, m => (if m % 2 = 1 then n else o) :: mergeMask os ns (m / 2)
  | os, _, _ => os

/-! The cache (R239). -/

/-- The line number under which the side-table entry of a block is evicted (DESIGN CHOICE, log entry 136). -/
def crcLine (blk : Nat) : Nat := 2 ^ 40 + blk

/-- Evicts a line, of a side-table entry or of data; a dirty line waits while its controller takes no command (R171). -/
def State.evict (s : State) (d key : Nat) : State :=
  if 2 ^ 40 ≤ key then
    let blk := key - 2 ^ 40
    match (s.die d).sideTab.find? fun e => e.1 == blk with
    | none => s
    | some e =>
      if !s.keyReady (blk / 64) then s
      else { s.modDie d fun x => { x with sideTab := x.sideTab.filter fun e => e.1 != blk } with crcs := setCrc s.crcs blk e.2 }
  else match s.cached d key with
  | none => s
  | some l =>
    if l.dirty && !s.keyReady key then s
    else
      let s1 := s.modDie d fun x => { x with cache := x.cache.filter fun l => l.key != key }
      if l.dirty then
        { s1 with
          hbm := cellsWrite s1.hbm (key * 64) l.data
          poison := if l.poisoned then key :: s1.poison.filter (fun k => k != key) else s1.poison.filter fun k => k != key }
      else s1

/-- Whether two lines lie in one set of one slice: 4,096 sets of 16 ways. -/
def sameSet (a b : Nat) : Bool := homeSlice a == homeSlice b && Config.cacheSet a % 4096 == Config.cacheSet b % 4096

/-- Makes room for a line: a full set gives up one of its lines that can be written back, a free choice (log entry 137);
none where no line of the set can. -/
def State.makeRoom (s : State) (d off : Nat) : Option State :=
  let all := (s.die d).cache
  if all.length < 16 then some s
  else
    let set := all.filter fun l => sameSet l.off off
    if set.length < 16 then some s
    else
      let can := set.filter fun l => !l.dirty || s.keyReady l.key
      match can[Config.victim s.free % max can.length 1]? with
      | some v => some ({ s with free := s.free + 1 }.evict d v.key)
      | none => none

/-- Puts a line into the shared cache, in its own place or in room made for it. -/
def State.allocate (s : State) (d : Nat) (l : CacheLine) : Option State :=
  if (s.cached d l.key).isSome then some (s.setCache d l) else (s.makeRoom d l.off).map fun s1 => s1.setCache d l

/-- Stores a line at its home: in the shared cache, or in HBM where the miss does not allocate (R239). -/
def State.putLine (s : State) (d key off : Nat) (data : List Byte) (alloc : Bool) (tag : Option (Nat × Nat)) : State :=
  let inHbm : State := { s with hbm := cellsWrite s.hbm (key * 64) data, poison := s.poison.filter fun k => k != key }
  if alloc || (s.cached d key).isSome then (s.allocate d ⟨key, off, data, true, false, tag⟩).getD inHbm else inHbm

/-- Keeps the side table current (R250), its entries held in the shared cache like other lines (R249): a line of a whole-block write sets the CRC from the block's contents, any other
write changes it by its difference. -/
def State.keepCrc (s : State) (al : Alloc) (off : Nat) (whole : Bool) (old new : List Byte) : State :=
  if !al.e.crc then s
  else
    let b := off / 4096 * 4096
    let k := physKey (place al b)
    let v := if whole then crc32c (s.blockBytes al b) else s.crcOf k ^^^ crcDelta (off % 4096) old new
    s.modDie (dieOfKey k) fun x => { x with sideTab := (k, v) :: x.sideTab.filter fun e => e.1 != k }

/-- The answer of a home: how the request ended, its data, the side-table value sent with it. -/
structure HomeAns where
  s : State
  fin : ReqEnd
  data : List Byte
  crc : Option Nat

/-- Detects bad parity in a cached line (R240): a clean line is read again, a dirty one is poisoned. -/
def State.lineParity (s : State) (d key off : Nat) (p : Option Nat) : State :=
  match s.cached d key with
  | none => s
  | some l =>
    if l.dirty then (s.setCache d { l with poisoned := true }).post p 0x000B d 0 0 (off % 2 ^ 42 + 2 ^ 63)
    else ((s.setCache d { l with data := cellsRead s.hbm (key * 64) 64 }).modDie d fun x =>
      { x with cleanParity := x.cleanParity + 1 }).post p 0x000B d 0 0 (off % 2 ^ 42)

/-- Applies one operation to its line as one update (R259). -/
def State.homeApply (s : State) (al : Alloc) (q : HomeReq) (parity : Bool) : HomeAns :=
  let line := q.off / 64 * 64
  let lo := q.off % 64
  let ph := place al line
  let key := physKey ph / 64
  let d := ph.1 / 5
  let p := some al.part
  let full := match q.kind with | .writeLine m _ => m == 2 ^ 64 - 1 | _ => false
  if (s.stk ph.1).lost then ⟨s, .refused 3 2 q.off, [], none⟩
  else
    let s := s.charge d (s.power.gear) q.layer q.op evCache 1
    let s := if (s.cached d key).isSome then s else s.charge d (s.power.gear) q.layer q.op evHbm 1
    let s := if parity && !full then s.lineParity d key line p else s
    let hit := (s.cached d key).isSome
    let alloc := !q.noalloc && !al.e.noalloc
    let old := s.lineRead d key
    let bad := s.linePoison d key && !full
    let fin : ReqEnd := if bad then .dataBad 5 q.off else .ok
    let tag := if q.scope = 0 then none else some (q.who.agent, q.scope)
    let crc := if al.e.crc && q.whole then some (s.blockCrc al (q.off / 4096 * 4096)) else none
    let test := fun s : State => if q.scope = 0 then s else
      s.modDie d fun x => scopeTest x (match s.cached d key with | some l => l.tag | none => none) q.who q.scope q.layer
    let fill := fun s : State =>
      if hit || !alloc then s else (s.allocate d ⟨key, line, old, false, s.poison.contains key, none⟩).getD s
    let store := fun (s : State) (new : List Byte) (tag : Option (Nat × Nat)) (allocate : Bool) =>
      (s.putLine d key line new allocate tag).keepCrc al line (q.whole && full) old new
    match q.kind with
    | .readLine => ⟨fill (test s), fin, old, crc⟩
    | .readItem => ⟨s, fin, sub old lo 32, none⟩
    | .writeLine m data => if bad then ⟨s, fin, [], none⟩ else ⟨store s (mergeMask old data m) tag alloc, fin, [], none⟩
    | .writeItem data => if bad then ⟨s, fin, [], none⟩ else ⟨store s (splice old lo data) none false, fin, [], none⟩
    | .atomic aop ret opd =>
      if bad then ⟨s, fin, opd, none⟩
      else
        let r := atomicApply aop (old.drop lo) opd
        ⟨store (test s) (splice old lo r.1) tag alloc, fin, if ret then r.2 else [], none⟩

/-! Home slices. -/

/-- Least grants per 64 cycles of a class (Table 08-6). -/
def classShare (c : Nat) : Nat := if c = 2 || c = 3 then 4 else if c = 4 then 8 else 0

/-- The class served in this cycle (R241): the highest that waits, unless the cycles left in the window are all needed
for shares not yet given. -/
def HomeSlice.pick (h : HomeSlice) (waits : Nat → Bool) : Option Nat :=
  let lack := fun c => if waits c then classShare c - h.grants.getD (c - 1) 0 else 0
  let need := lack 2 + lack 3 + lack 4
  if 64 - h.cycle ≤ need then [2, 3, 4].find? fun c => lack c != 0 else [1, 2, 3, 4].find? waits

def HomeSlice.grant (h : HomeSlice) (c : Nat) : HomeSlice :=
  if h.cycle + 1 ≥ 64 then { h with cycle := 0, grants := [0, 0, 0, 0] }
  else { h with cycle := h.cycle + 1, grants := modAt h.grants (c - 1) (· + 1) }

/-- Whether an earlier waiting request of the same tile targets the same line (R257). -/
def sameLine (a b : HomeReq) : Bool :=
  match a.who, b.who with
  | .tile t _ _, .tile u _ _ => t == u && a.off / 64 == b.off / 64
  | _, _ => false

/-- The first request of a class that may be served, with its place. -/
def pickReq (ok : HomeReq → Bool) (c : Nat) : List HomeReq → List HomeReq → Option HomeReq
  | _, [] => none
  | seen, q :: r => if q.cls == c && ok q && !seen.any (sameLine q) then some q else pickReq ok c (seen ++ [q]) r

/-- Whether a flag line of the tile to the same line, issued before the request, is still held (R257). -/
def State.behindFlag (s : State) (q : HomeReq) : Bool :=
  match q.who with
  | .tile t op r => s.dies.any fun d => (d.flags ++ d.flagWait).any fun fl => fl.off / 64 == q.off / 64 && match fl.who with
    | .tile u op2 r2 => u == t && (decide (op2 < op) || op2 == op && decide (r2 < r))
    | .remote _ _ => false
    | .core => false
    | .engine _ => false
  | .remote _ _ => false
  | .core => false
  | .engine _ => false

/-- The allocation a waiting request of a tile reaches. -/
def State.allocOfReq (s : State) (q : HomeReq) : Option Alloc :=
  match q.who with
  | .tile t _ _ => s.allocAt ((s.partOfTile t).getD 4) q.off
  | .remote _ _ => none
  | .core => none
  | .engine _ => none

/-- Whether a waiting request may be served. -/
def State.reqReady (s : State) (q : HomeReq) : Bool :=
  !s.behindFlag q && match s.allocOfReq q with
    | some al =>
      let k := (place al q.off).1
      !(s.stk k).training && (!s.held .hbmCtrl k || s.wasOpen q.who)
    | none => true

/-- Whether the place a flag line goes to takes it now. -/
def State.flagPlaceReady (s : State) (fl : FlagLine) : Bool :=
  if isTileSram fl.off then !s.held .tile (tileOfOff fl.off) || s.wasOpen fl.who
  else match s.allocAt fl.part fl.off with
    | some al =>
      let k := (place al fl.off).1
      !(s.stk k).training && (!s.held .hbmCtrl k || s.wasOpen fl.who)
    | none => true

/-- The answer to a tile's request. -/
def State.answer_ (s : State) (who : Who) (fin : ReqEnd) (data : List Byte) (crc : Option Nat) : State :=
  match who with
  | .tile t op r => s.answerTile t op ⟨r, fin, data, crc⟩
  | .remote _ _ => s
  | .core => s
  | .engine _ => s

/-- The request that wins a slice's arbitration among those that may be served, and the state after its grant; how long it
waited is posted. -/
def State.granted (s : State) (d k : Nat) (ok : HomeReq → Bool) : Option (HomeReq × State) :=
  let h := (s.die d).slices.getD k ⟨[], 0, [0, 0, 0, 0]⟩
  let pickOf := fun c => pickReq ok c [] h.waiting
  match h.pick fun c => (pickOf c).isSome with
  | none => none
  | some c => (pickOf c).map fun q => (q, (s.modDie d fun x =>
      { x with slices := modAt x.slices k fun h => { h.grant c with waiting := h.waiting.erase q } }).emit d srcScWait
        (s.now - q.since) 0 0 0 0 (c - 1))

def HomeKind.isAtomic : HomeKind → Bool
  | .atomic _ _ _ => true
  | .readLine => false
  | .writeLine _ _ => false
  | .readItem => false
  | .writeItem _ => false

/-- A tile's request is applied and answered. -/
def State.serveReq (s : State) (q : HomeReq) (parity : Bool) : State :=
  match s.allocOfReq q with
  | none => s.answer_ q.who (.refused 1 (if q.kind.isAtomic then 0x22 else 0x20) q.off) [] none
  | some al =>
    let a := s.homeApply al q parity
    a.s.answer_ q.who a.fin a.data a.crc

/-- One operation of a home slice. -/
def State.sliceOp (s : State) (d k : Nat) (parity : Bool) : State :=
  match s.granted d k s.reqReady with
  | none => s
  | some (q, s1) => s1.serveReq q parity

/-- A slice serves its requests in its order until request q is granted. -/
def State.untilGrant : Nat → State → Nat → Nat → HomeReq → State
  | 0, s, _, _, _ => s
  | n + 1, s, d, k, q =>
    match s.granted d k fun r => r == q || s.reqReady r with
    | none => s
    | some (r, s1) => if r == q then s1 else State.untilGrant n (s1.serveReq r false) d k q

/-- A request of a requester other than a tile joins its slice's queue, wins its arbitration in its turn, and is applied
(R241, R243). -/
def State.homeDo (s : State) (al : Alloc) (q : HomeReq) : HomeAns :=
  let d := (place al q.off).1 / 5
  let k := homeSlice q.off
  let n := ((s.die d).slices.getD k ⟨[], 0, [0, 0, 0, 0]⟩).waiting.length + 1
  let w := { q with who := .engine 0 }
  (State.untilGrant n (s.toHome d w) d k w).homeApply al q false

/-! Scrubbing. -/

/-- Reads the lines of a block at its home as a plain reader (Table 08-6). -/
def State.readBlock (s : State) (al : Alloc) (block : Nat) : State × List Byte :=
  (List.range 64).foldl (fun (x : State × List Byte) k =>
    let a := x.1.homeDo al ⟨.engine 0x0600, block + 64 * k, .readLine, 4, true, 0, false, 0, 0, 0, 0, [], s.now⟩
    (a.s, x.2 ++ a.data)) (s, [])

/-- A scrub interval in ns. -/
def State.scrubNs (s : State) : Nat := max s.cap.scrubHours 1 * 3600000000000

/-- Scrubs the CRC block at a node offset, of each allocation homed on the die, once in each interval, when its controllers
accept commands (R252). -/
def State.scrub (s : State) (d block : Nat) : State :=
  s.allocs.foldl (fun s al =>
    let done := (s.die d).scrubbed.any fun e => e.1 == physKey (place al block) && e.2 / s.scrubNs == s.now / s.scrubNs
    let ready := !done && (List.range 16).all fun c => s.stackReady al (block + 256 * c)
    if al.e.crc && al.has block && block % 4096 == 0 && (place al block).1 / 5 == d && ready then
      let (s1, bytes) := s.readBlock al block
      let k := physKey (place al block)
      let s2 := s1.modDie d fun x => { x with scrubbed := (k, s1.now) :: x.scrubbed.filter fun e => e.1 != k }
      if crc32c bytes != s1.blockCrc al block then (s2.post (some al.part) 0x000D d 0 0 block).log 0x000B al.part [d, block]
      else s2
    else s) s

/-! Flag lines. -/

/-- A response about a flag line of another node. -/
def State.tellFlag (s : State) (fl : FlagLine) (ptype status reason : Nat) : State :=
  match fl.who with
  | .remote node txn =>
    s.inject (s.mkPkt ptype 1 node fl.off 1 ((s.jobOf fl.part).getD 0) txn fl.layer fl.op (status % 256 + reason % 256 * 256)
      fl.scope [])
  | .tile _ _ _ => s
  | .core => s
  | .engine _ => s

/-- A free entry goes to the flag line that has waited longest (R263), and is held from then on (R306); a line of
another node gives its credits back. -/
def State.flagGrant (s : State) (d : Nat) : State :=
  let x := s.die d
  match x.flagWait with
  | [] => s
  | fl :: r =>
    if 1024 ≤ x.flags.length then s
    else
      let s1 := s.modDie d fun e => { e with flags := e.flags ++ [{ fl with owe := none, since := s.now }], flagWait := r }
      match fl.owe with
      | some (port, cls) => (s1.returnCredits port 2 cls 6).tellFlag fl ptLandHeld 0 0
      | none => s1

/-- Entries that have freed are granted in the step in which they free (R263). -/
def State.flagFill (s : State) (d : Nat) : State :=
  (List.range (s.die d).flagWait.length).foldl (fun s _ => s.flagGrant d) s

/-- Lands a flag line: the line is written, and TCNT added to the counter of the tile that holds it (R237, R262). -/
def State.landFlag (s : State) (fl : FlagLine) : HomeAns :=
  if isTileSram fl.off then
    let u := tileOfOff fl.off
    if (s.region (regionOfTile u)).fenced then ⟨s, .refused 3 1 fl.off, [], none⟩
    else
      let s1 := s.sramWrite u (aOfOff fl.off) fl.data
      ⟨if fl.tcnt = 0 then s1 else s1.addToken u fl.ttok fl.tcnt, .ok, [], none⟩
  else match s.allocAt fl.part fl.off with
    | none => ⟨s, .refused 1 0x20 fl.off, [], none⟩
    | some al => s.homeDo al ⟨fl.who, fl.off, .writeLine (2 ^ 64 - 1) fl.data, 4, false, fl.scope, false, fl.layer, fl.op,
        fl.strandId, fl.seqTag, [], s.now⟩

/-- Whether every write that a local flag line waits for has landed, of the porter or into the tile's own SRAM (R262), and
no earlier request of its tile to its line still waits (R257). -/
def State.flagReady (s : State) (fl : FlagLine) : Bool :=
  match fl.who with
  | .remote _ _ => false
  | .core => false
  | .engine _ => false
  | .tile t op req =>
    let x := s.tile t
    match x.ops.find? fun o => o.info.id == op with
    | none => true
    | some o =>
      let line := fun (q : HomeReq) => q.off / 64 == fl.off / 64 && match q.who with
        | .tile u op2 _ => u == t && decide (op2 ≤ op)
        | _ => false
      o.flying.all (fun r => r == req) && decide (o.total ≤ o.next) && o.failed.isNone &&
        x.ops.all (fun e => !(e.info.inst == o.info.inst && e.info.id < op && e.isWrite && e.node.isNone) || e.landed) &&
        !x.track.any (fun e => e.wr && e.inst == o.info.inst && e.id < op) &&
        !s.dies.any (fun d => d.slices.any fun h => h.waiting.any line) && !s.tileReqs.any fun q => line q.2

/-- A held flag line of this module lands when its writes have, and no dump freezes its tile (R262, R279). -/
def State.flagStep (s : State) (d k : Nat) : State :=
  match (s.die d).flags[k]? with
  | none => s
  | some fl =>
    let frozen := match fl.who with | .tile t _ _ => s.tileFrozen t | _ => false
    if frozen || !s.flagReady fl || !s.flagPlaceReady fl then s
    else
      let a := s.landFlag fl
      ((a.s.modDie d fun x => { x with flags := x.flags.eraseIdx k }).flagFill d).answer_ fl.who a.fin [] none

/-- The flag lines of a launch that a failed write of operation op leaves without their data never land: their PLANDs end
as the write did (R264). -/
def State.dropFlags (s : State) (t op : Nat) (fin : ReqEnd) : State :=
  let instOf := fun id : Nat => ((s.tile t).ops.find? fun o => o.info.id == id).map fun o => o.info.inst
  let mine := fun (fl : FlagLine) => match fl.who with
    | .tile u op2 _ => u == t && decide (op ≤ op2) && instOf op2 == instOf op
    | _ => false
  let gone := ((s.dies.map fun d => (d.flags ++ d.flagWait).filter mine).flatten).map fun fl => fl.who
  let s1 := { s with dies := s.dies.map fun d =>
    { d with flags := d.flags.filter (fun f => !mine f), flagWait := d.flagWait.filter fun f => !mine f } }
  gone.foldl (fun s w => s.answer_ w fin [] none) ([0, 1, 2, 3].foldl State.flagFill s1)

/-! Requests at a tile SRAM. -/

/-- The request that a tile's SRAM takes next: the first one for it, where no earlier one between the same two regions still
stands before it in their queue (R165), and no flag line of the same tile and line is still held (R257). -/
def State.nextTileReq (s : State) (t : Nat) : Option HomeReq :=
  match s.tileReqs.find? fun q => q.1 == t && !s.behindFlag q.2 with
  | none => none
  | some (_, q) =>
    let same := fun e : Nat × HomeReq => regionOfTile e.1 == regionOfTile t && e.2.who.region == q.who.region
    if q.who.region == some (regionOfTile t) || (s.tileReqs.find? same).map Prod.snd == some q then some q else none

/-- A request at a tile's SRAM is served (R197, R256). -/
def State.tileReq (s : State) (t : Nat) (upset : Option Nat) : State :=
  match s.nextTileReq t with
  | none => s
  | some q =>
    if s.held .tile t && !s.wasOpen q.who then s
    else
      let s1 := upsetIn { s with tileReqs := s.tileReqs.erase (t, q) } t upset
      let a := aOfOff q.off
      if (s.region (regionOfTile t)).fenced then s1.answer_ q.who (.refused 3 1 q.off) [] none
      else match q.kind with
        | .writeLine m data => (s1.sramMask t a m data).answer_ q.who .ok [] none
        | .readLine =>
          match s1.sramBadIn t a 64 with
          | some b => (s1.postParity t b rdPorter q.layer q.op).answer_ q.who (.dataBad 2 b) (s1.sramRead t a 64) none
          | none => s1.answer_ q.who .ok (s1.sramRead t a 64) none
        | .readItem | .writeItem _ | .atomic _ _ _ => s1.answer_ q.who (.refused 1 0x22 q.off) [] none

/-! Meanings. -/

def execHomeSliceOperation (d slice : Nat) (parity : Bool) (s : State) : Out :=
  onInst (d < 4 && slice < 16) s fun s => s.sliceOp d slice parity

def execCacheEvict (d line : Nat) (s : State) : Out := onInst (d < 4) s fun s => s.evict d line

def execScrubBlock (d block : Nat) (s : State) : Out := onInst (d < 4) s fun s => s.scrub d block

def execFlagLand (d k : Nat) (s : State) : Out := onInst (d < 4) s fun s => s.flagStep d k

end Sys2Proof.Machine
end

