-- ==== Sys2Proof/Machine/Reef.lean ====
section
/-! DEFINITION. The Reef (11): hand-offs (R323 to R325), scale (R326), the tree and its checksum (R327 to R330), reports
and decisions (R332 to R335), the floating-point all-reduce (R336) and the packets of Table 11-7. -/
namespace Sys2Proof.Machine

/-! The engines' accesses to memory (R321). -/

/-- Agent numbers of Table 09-3. -/
def reefAgent (d : Nat) : Nat := 0x0410 + d
def updAgent (d : Nat) : Nat := 0x0400 + d
def capAgent : Nat := 0x0600

/-- An engine's request is in class 1, a reader's of the Capstan in class 4 (Table 08-6); its writes are plain. -/
def engReq (agent off : Nat) (kind : HomeKind) (whole : Bool) (now : Nat) : HomeReq :=
  ⟨.engine agent, off, kind, if agent = capAgent then 4 else 1, false, 0, whole, 0, 0, 0, 0, [], now⟩

/-- Node offsets of the 64-byte lines that [off, off + n) touches. -/
def linesOf (off n : Nat) : List Nat :=
  (List.range ((off + n + 63) / 64 - off / 64)).map fun k => (off / 64 + k) * 64

/-- What an engine's read gives: the state after it, the bytes as read, and class, code and DETAIL of what was wrong. -/
structure EngRead where
  s : State
  data : List Byte
  bad : Option (Nat × Nat × Nat)

/-- Reads lines at their homes, each in its turn. -/
def State.readLines (s : State) (p agent : Nat) (ls : List Nat) : EngRead :=
  ls.foldl (fun (x : EngRead) l =>
    let a : HomeAns := match x.s.allocAt p l with
      | none => ⟨x.s, .refused 1 0x20 l, [], none⟩
      | some al => x.s.homeDo al (engReq agent l .readLine false x.s.now)
    ⟨a.s, x.data ++ (if a.data.isEmpty then List.replicate 64 0 else a.data), x.bad <|> a.fin.cause⟩) ⟨s, [], none⟩

/-- Reads n bytes as a reader that verifies no block. -/
def State.plainRead (s : State) (p agent off n : Nat) : EngRead :=
  let a := s.readLines p agent (linesOf off n)
  { a with data := sub a.data (off % 64) n }

/-- The aligned 4 KiB blocks that lie wholly in [off, off + n). -/
def wholeBlocks (off n : Nat) : List Nat :=
  ((List.range ((off + n) / 4096 - (off + 4095) / 4096)).map fun k => ((off + 4095) / 4096 + k) * 4096)

/-- Verifies a block read whole: where its CRC does not match what arrived the block is read once more, which logs a transfer
error or finds it bad (R251). Whether the first transfer has an error is free (log entry 140). -/
def State.verifyRead (s : State) (p agent b : Nat) (al : Alloc) (bytes : List Byte) : State × Bool :=
  let s1 := { s with free := s.free + 1 }
  if !Config.transferError s.free && crc32c bytes == s1.blockCrc al b then (s1, true)
  else
    let a := s1.readLines p agent (linesOf b 4096)
    if crc32c a.data == a.s.blockCrc al b then (a.s.post (some p) 0x000C agent 0 0 b, true) else (a.s, false)

/-- Reads n bytes at a node offset of a partition and verifies the blocks read whole (R251). -/
def State.memRead (s : State) (p agent off n : Nat) : EngRead :=
  (wholeBlocks off n).foldl (fun (x : EngRead) b =>
    match x.s.allocAt p b with
    | none => x
    | some al =>
      if !al.e.crc then x
      else
        let (s1, good) := x.s.verifyRead p agent b al (sub x.data (b - off) 4096)
        { x with s := s1, bad := if good then x.bad else x.bad <|> some (2, 4, b) }) (s.plainRead p agent off n)

/-- Writes bytes at a node offset of a partition, line by line, whole blocks as such (R250); false where a line is not
reachable. -/
def State.memWrite (s : State) (p agent off : Nat) (data : List Byte) : State × Bool :=
  (linesOf off data.length).foldl (fun (x : State × Bool) l =>
    match x.1.allocAt p l with
    | none => (x.1, false)
    | some al =>
      let lo := max off l
      let hi := min (off + data.length) (l + 64)
      let bytes := List.replicate (lo - l) 0 ++ sub data (lo - off) (hi - lo)
      let mask := 2 ^ (hi - l) - 2 ^ (lo - l)
      let b := l / 4096 * 4096
      let whole := decide (off ≤ b ∧ b + 4096 ≤ off + data.length)
      let a := x.1.homeDo al (engReq agent l (.writeLine mask (bytes ++ List.replicate (64 - bytes.length) 0)) whole x.1.now)
      (a.s, x.2 && a.fin == .ok)) (s, true)

/-- A block whose lines one engine has all written gets its CRC from its contents (R250). -/
def State.sealBlock (s : State) (p b : Nat) : State :=
  match s.allocAt p b with
  | none => s
  | some al =>
    if !al.e.crc then s
    else
      let k := physKey (place al b)
      let v := crc32c (s.blockBytes al b)
      s.modDie (dieOfKey k) fun x => { x with sideTab := (k, v) :: x.sideTab.filter fun e => e.1 != k }

/-! Groups, ranks, dies. -/

def Reef.group (r : Reef) (g : Nat) : Option GroupSt := r.groups.find? fun x => x.g == g
def State.reef (s : State) (d : Nat) : Reef := (s.die d).reef
/-- The dies of a partition that hold buckets of a group, lead die first (R317). -/
def State.groupDies (s : State) (p g : Nat) : List Nat := (s.diesOf p).filter fun d => ((s.reef d).group g).isSome
def State.modGroup (s : State) (d g : Nat) (f : GroupSt → GroupSt) : State :=
  s.modReef d fun r => { r with groups := r.groups.map fun x => if x.g = g then f x else x }
def Reef.bucket (r : Reef) (g b : Nat) : Option Bucket := r.buckets.find? fun x => x.group == g && x.bucket == b
def State.modBucket (s : State) (d g b : Nat) (f : Bucket → Bucket) : State :=
  s.modReef d fun r => { r with buckets := r.buckets.map fun x => if x.group = g && x.bucket = b then f x else x }
def State.bucketDie (s : State) (p g b : Nat) : Option Nat := (s.diesOf p).find? fun d => ((s.reef d).bucket g b).isSome

/-- This module's rank in a group. -/
def State.rankIn (s : State) (x : GroupSt) : Nat := x.ranks.idxOf (s.nodeId.getD 0xFFFF)
def GroupSt.n (x : GroupSt) : Nat := x.ranks.length
/-- The tree of relative ranks (R327): the relative rank in the tree of shard sh, its parent and its children's ranks. -/
def relRank (n r sh : Nat) : Nat := (r + n - sh % n) % n
def treeParent (n r sh : Nat) : Nat := ((relRank n r sh - 1) / 2 + sh) % n
def treeKids (n r sh : Nat) : List Nat :=
  ([2 * relRank n r sh + 1, 2 * relRank n r sh + 2].filter fun k => k < n).map fun k => (k + sh) % n

def Bucket.shardLen (b : Bucket) (n : Nat) : Nat := b.elems / max n 1
def Bucket.chunks (b : Bucket) (n : Nat) : Nat := (b.shardLen n + 191) / 192
/-- First element within the bucket, and count, of a chunk. -/
def Bucket.chunkAt (b : Bucket) (n sh c : Nat) : Nat × Nat :=
  (sh * b.shardLen n + 192 * c, min 192 (b.shardLen n - 192 * c))

/-! Packets (Table 11-7). -/

structure RHead where
  rkind : Nat
  veto : Veto
  csumFail : Bool
  bucket : Nat
  step : Nat
  chunk : Nat
  shard : Nat
  amax : Option Int
  cs : Nat
  gsig : Nat
  count : Nat
  deriving DecidableEq, Repr

def Veto.code (v : Veto) : Nat := natOfBool v.nonfin + 2 * natOfBool v.sat + 4 * natOfBool v.err
def Veto.ofCode (n : Nat) : Veto := ⟨bit n 0, bit n 1, bit n 2⟩

/-- An amax exponent byte: 0x80 for none. -/
def amaxByte (a : Option Int) : Nat := match a with | none => 0x80 | some e => ofSigned 8 e
def amaxOfByte (b : Nat) : Option Int := if b = 0x80 then none else some (toSigned 8 b)

def RHead.bytes (h : RHead) : List Byte :=
  natLe 8 (h.rkind % 16 + h.veto.code * 16 + natOfBool h.csumFail * 128 + h.bucket % 512 * 2 ^ 8 + h.step % 2 ^ 32 * 2 ^ 32) ++
  natLe 8 (h.chunk % 2 ^ 32 + h.shard % 2 ^ 16 * 2 ^ 32 + amaxByte h.amax * 2 ^ 48) ++
  natLe 8 h.cs ++ natLe 8 (h.gsig % 2 ^ 32 + (h.count - 1) % 2 ^ 10 * 2 ^ 32)

def RHead.ofBytes (l : List Byte) : RHead :=
  let a := leAt l 0 8
  let b := leAt l 8 8
  let d := leAt l 24 8
  { rkind := bits a 0 4, veto := Veto.ofCode (bits a 4 3), csumFail := bit a 7, bucket := bits a 8 9, step := bits a 32 32,
    chunk := bits b 0 32, shard := bits b 32 16, amax := amaxOfByte (bits b 48 8), cs := leAt l 16 8, gsig := bits d 0 32,
    count := bits d 32 10 + 1 }

def i40Bytes (l : List Int) : List Byte := (l.map fun q => natLe 5 (ofSigned 40 q)).flatten
def i40OfBytes (l : List Byte) (n : Nat) : List Int := (List.range n).map fun k => toSigned 40 (leAt l (5 * k) 5)
def i40Add (a b : Int) : Int := toSigned 40 (ofSigned 40 (a + b))

def padSlots (l : List Byte) : List Byte := l ++ List.replicate ((16 - l.length % 16) % 16) 0

/-- Sends a Reef packet to a rank of a group. -/
def State.sendReef (s : State) (p : Nat) (x : GroupSt) (rank : Nat) (h : RHead) (payload : List Byte) : State :=
  s.inject (s.mkPkt ptReef (4 + x.cvc) (x.ranks.getD rank 0xFFFF) 0 1 ((s.jobOf p).getD 0) 0 0 0 0 0
    (h.bytes ++ padSlots payload))

def GroupSt.head (x : GroupSt) (rkind step : Nat) : RHead :=
  ⟨rkind, Veto.none, false, 0, step, 0, 0, none, 0, x.sign, 1⟩

/-- The latch of a die for a step. -/
def Reef.latchOf (r : Reef) (step : Nat) : Veto := r.latch.getD (step % 2) Veto.none

/-! Chunks. -/

def Reef.mark (r : Reef) (step g b sh c : Nat) : Option ChunkMark :=
  r.marks.find? fun m => m.step == step && m.group == g && m.bucket == b && m.shard == sh && m.chunk == c
def Reef.setMark (r : Reef) (m : ChunkMark) : Reef :=
  { r with marks := m :: r.marks.filter fun x =>
      !(x.step == m.step && x.group == m.group && x.bucket == m.bucket && x.shard == m.shard && x.chunk == m.chunk) }
def Reef.parts (r : Reef) (step g b sh c : Nat) : List Contrib :=
  r.contribs.filter fun x => x.step == step && x.group == g && x.bucket == b && x.shard == sh && x.chunk == c
def Reef.dropParts (r : Reef) (step g b sh c : Nat) : Reef :=
  { r with contribs := r.contribs.filter fun x =>
      !(x.step == step && x.group == g && x.bucket == b && x.shard == sh && x.chunk == c) }

/-- Asks the children of a chunk to send it again (R330). -/
def State.sendResend (s : State) (p : Nat) (x : GroupSt) (step b sh c : Nat) : State :=
  (treeKids x.n (s.rankIn x) sh).foldl (fun s k =>
    s.sendReef p x k { x.head 1 step with bucket := b, shard := sh, chunk := c } []) s

def maxExp (a b : Option Int) : Option Int :=
  match a, b with
  | none, b => b
  | a, none => a
  | some x, some y => some (max x y)

/-- Whether every chunk of the own shard is written, and then OUT_SIG (R329). -/
def State.shardDone (s : State) (d : Nat) (x : GroupSt) (b : Bucket) (step : Nat) : State :=
  let r := s.rankIn x
  let done := (List.range (b.chunks x.n)).all fun c =>
    match (s.reef d).mark step x.g b.bucket r c with
    | some m => m.fate == .verified
    | none => false
  if done && !b.outDone then
    let s1 := s.modBucket d x.g b.bucket fun y => { y with outDone := true }
    if b.outSig then s1.addToken b.outTile b.outTok 1 else s1
  else s

/-- A fault of a Reef engine: agent number 0x0410 + d in TILE, and V_ERROR in the step's latch (R251, R339). -/
def State.reefFault (s : State) (d step : Nat) (why : Nat × Nat × Nat) : State :=
  let r : FaultRec := ⟨why.1, why.2.1, reefAgent d, 0, 0, 0, 0, false, 0, (s.die d).beat, why.2.2⟩
  (s.postFault d (reefAgent d) r step).setVeto d step Veto.error (reefAgent d) 0 0

/-- Flags of the engine's own reads and conversions (R36, R55; DESIGN CHOICE, log entry 139: where they are held). -/
def State.reefFlags (s : State) (d fl : Nat) : State := if fl = 0 then s else s.modReef d fun e => { e with flags := e.flags ||| fl }

def orFlags (l : List Nat) : Nat := l.foldl (· ||| ·) 0
/-- NaN input, where FP32 values hold one. -/
def nanFlags (l : List Nat) : Nat := if l.any fun w => val32 w == .nan then flNanIn else 0

/-- A read of the engine whose fault, if it has one, is raised. -/
def State.reefRead (s : State) (d p step off n : Nat) : EngRead :=
  let a := s.memRead p (reefAgent d) off n
  match a.bad with
  | some why => { a with s := a.s.reefFault d step why }
  | none => a

/-- A write of the engine; one to lost memory is a fault of it. -/
def State.reefWrite (s : State) (d p step off : Nat) (data : List Byte) : State × Bool :=
  let (s1, ok) := s.memWrite p (reefAgent d) off data
  (if ok then s1 else s1.reefFault d step (3, 2, off), ok)

/-- Whether memory is there to read or write: no class but DATA is wrong with it. -/
def EngRead.there (a : EngRead) : Bool := match a.bad with | some (c, _, _) => c == 2 | none => true

/-- The blocks of a shard's output that chunk c completes: those of which every chunk is verified. -/
def State.sealOut (s : State) (d p step : Nat) (x : GroupSt) (b : Bucket) (c : Nat) : State :=
  let r := s.rankIn x
  let done := fun k => match (s.reef d).mark step x.g b.bucket r k with | some m => m.fate == .verified | none => false
  (wholeBlocks b.out (4 * b.shardLen x.n)).foldl (fun s blk =>
    let lo := (blk - b.out) / 768
    let hi := (blk + 4095 - b.out) / 768
    if lo ≤ c && c ≤ hi && (List.range (hi + 1 - lo)).all fun i => done (lo + i) then s.sealBlock p blk else s) s

/-- The root settles a chunk: it writes a verified one, asks for a bad one again, or gives it up (R329, R330). -/
def State.chunkRoot (s : State) (d p step : Nat) (x : GroupSt) (b : Bucket) (sh c tries : Nat) (sum : List Int) (cs : Nat) : State :=
  let mark := fun (s : State) (f : ChunkFate) (n : Nat) => s.modReef d fun e => e.setMark ⟨step, x.g, b.bucket, sh, c, f, n⟩
  if csum sum = cs then
    let out := (sum.map fun q => natLe 4 (reefBack b.k q)).flatten
    let (s1, ok1) := (s.reefFlags d (orFlags (sum.map (reefBackFlags b.k)))).reefWrite d p step (b.stage + 5 * b.elems + 5 * (192 * c)) (i40Bytes sum)
    let (s2, ok2) := if ok1 then s1.reefWrite d p step (b.out + 4 * (192 * c)) out else (s1, false)
    if ok2 then ((mark s2 .verified tries).sealOut d p step x b c).shardDone d x b step else mark s2 .lost tries
  else if tries < (s.reef d).retry then
    ((mark (s.modReef d fun e => e.dropParts step x.g b.bucket sh c) .sent (tries + 1)).modGroup d x.g
      fun y => { y with retries := inc32 y.retries }).sendResend p x step b.bucket sh c
  else
    ((((mark s .failed tries).modReef d fun e => { e with csumFails := inc32 e.csumFails }).post (some p) 0x0010 (reefAgent d) 0 0
      (x.g + b.bucket * 2 ^ 4 + sh * 2 ^ 13 + step * 2 ^ 32))).log 0x000C p [x.g, b.bucket, sh, c, step]

/-- The local part of a chunk: what its staging holds, or where that is lost free values (log entry 138). -/
def State.localPart (s : State) (d p step : Nat) (b : Bucket) (at_ n : Nat) : EngRead × List Int :=
  let a := s.reefRead d p step (b.stage + 5 * at_) (5 * n)
  if a.there then (a, i40OfBytes a.data n)
  else
    let (w, s1) := a.s.drawFree
    ({ a with s := s1 }, List.replicate n (toSigned 40 (w.toNat % 2 ^ 40)))

/-- Moves a chunk on when its local sum and every child's contribution are there (R328 to R330). The output of the update
engine's group waits until that engine has acted on the decision before (R346), and every access while a controller of the
partition takes no command (R171). -/
def State.chunkGo (s : State) (d p step g bkt sh c : Nat) : State :=
  match (s.reef d).group g, (s.reef d).bucket g bkt with
  | some x, some b =>
    let n := x.n
    let r := s.rankIn x
    let root := r == sh
    let mark := (s.reef d).mark step g bkt sh c
    let open_ := match mark with | none => true | some m => root && m.fate == .sent
    let busy := root && match (s.die d).upd.sec with | some u => u.group == g && (s.die d).upd.todo.isSome | none => false
    let parts := (s.reef d).parts step g bkt sh c
    let kids := treeKids n r sh
    if b.kind ≠ 0 || x.step ≠ some step || b.taken < b.puts || !open_ || busy || parts.length < kids.length || !s.engReady p then s
    else
      let at_ := b.chunkAt n sh c
      let (a, own) := s.localPart d p step b at_.1 at_.2
      let sum := parts.foldl (fun a k => List.zipWith i40Add a k.data) own
      let cs := parts.foldl (fun a k => (a + k.cs) % csumMod) (csum own)
      let v := parts.foldl (fun a k => a.join k.veto) ((a.s.reef d).latchOf step)
      let am := parts.foldl (fun a k => maxExp a k.amax) b.amax
      let tries := match mark with | some m => m.retries | none => 0
      let s1 := if kids.isEmpty || mark.isSome then a.s else a.s.emit d srcChildWait (s.now - b.readyAt) 0 0 0 0 0
      if root then
        let s2 := s1.modGroup d g fun y => { y with vetoSeen := y.vetoSeen.join v }
        if a.there then s2.chunkRoot d p step x b sh c tries sum cs
        else s2.modReef d fun e => e.setMark ⟨step, g, bkt, sh, c, .lost, tries⟩
      else
        (s1.modReef d fun e => e.setMark ⟨step, g, bkt, sh, c, .sent, tries⟩).sendReef p x (treeParent n r sh)
          { x.head 0 step with veto := v, bucket := bkt, chunk := c, shard := sh, amax := am, cs := cs, count := at_.2 }
          (i40Bytes sum)
  | _, _ => s

/-- Every chunk of a bucket that has taken its hand-offs. -/
def State.bucketGo (s : State) (d p step g bkt : Nat) : State :=
  match (s.reef d).group g, (s.reef d).bucket g bkt with
  | some x, some b =>
    (List.range x.n).foldl (fun s sh => (List.range (b.chunks x.n)).foldl (fun s c => s.chunkGo d p step g bkt sh c) s) s
  | _, _ => s

/-! Floating-point all-reduce (R336). -/

def State.f32Out (s : State) (d p : Nat) (x : GroupSt) (b : Bucket) (step : Nat) (v : List Nat) : State :=
  let h := { x.head 5 step with bucket := b.bucket, count := b.elems }
  let s1 := (treeKids x.n (s.rankIn x) 0).foldl (fun s k => s.sendReef p x k h (bytes32 v)) s
  let s2 := (s1.reefWrite d p step b.out (bytes32 v)).1
  let s3 := s2.modBucket d x.g b.bucket fun y => { y with outDone := true }
  if b.outSig then s3.addToken b.outTile b.outTok 1 else s3

/-- The node's sum: own value, then the left and the right child's, NaN in its canonical pattern (R36, R84). -/
def f32Sum (own : List Nat) (kids : List (List Nat)) : List Nat :=
  kids.foldl (fun a k => List.zipWith add32 a k) (own.map fun w => if val32 w = .nan then fp32.nanEnc else w)

def State.f32Go (s : State) (d p step g bkt : Nat) : State :=
  match (s.reef d).group g, (s.reef d).bucket g bkt with
  | some x, some b =>
    let r := s.rankIn x
    let kids := treeKids x.n r 0
    let got := kids.filterMap fun k => (s.reef d).f32.find? fun f =>
      f.step == step && f.group == g && f.bucket == bkt && f.child == k
    if b.kind ≠ 1 || x.step ≠ some step || b.taken < b.puts || b.f32Sent || got.length < kids.length || !s.engReady p then s
    else
      let a := s.reefRead d p step b.stage (4 * b.elems)
      let (w, s0) := if a.there then (0, a.s) else a.s.drawFree
      let own := if a.there then words32 a.data b.elems else List.replicate b.elems (w.toNat % 2 ^ 32)
      let v := f32Sum own (got.map fun f => f.vals)
      let s1 := (s0.reefFlags d (nanFlags (own ++ (got.map fun f => f.vals).flatten))).modBucket d g bkt fun y => { y with f32Sent := true }
      let s2 := if v.any fun w => !(val32 w).isFin then s1.setVeto d step ⟨true, false, false⟩ (reefAgent d) 0 0 else s1
      let s3 := (s2.reefWrite d p step (b.stage + 4 * b.elems) (bytes32 v)).1
      if r = 0 then s3.f32Out d p x b step v
      else s3.sendReef p x (treeParent x.n r 0) { x.head 4 step with bucket := bkt, count := b.elems } (bytes32 v)
  | _, _ => s

/-! Hand-offs. -/

/-- Opens a group's step at its first hand-off (R325); the staging of its buckets starts the step afresh. -/
def GroupSt.openStep (x : GroupSt) (step : Nat) : GroupSt := if x.step.isNone then { x with step := some step } else x

/-- Adds FP32 values into a KIND 0 bucket's local sum from element e on (R323), with the veto events of R49. -/
def State.reefAdd (s : State) (d p step : Nat) (b : Bucket) (e : Nat) (vals : List Nat) : State :=
  let s0 := if b.taken = 0 then (s.reefWrite d p step b.stage (List.replicate (5 * b.elems) 0)).1 else s
  let q := vals.map (reefQuant b.k)
  let v : Veto := ⟨q.any fun x => x.2.1, q.any fun x => x.2.2, false⟩
  let am := vals.foldl (fun a x => maxExp a (amaxExp x)) b.amax
  let a := s0.reefRead d p step (b.stage + 5 * e) (5 * vals.length)
  let s1 := if a.there then (a.s.reefWrite d p step (b.stage + 5 * e)
      (i40Bytes (List.zipWith i40Add (i40OfBytes a.data vals.length) (q.map Prod.fst)))).1 else a.s
  (s1.modBucket d b.group b.bucket fun y => { y with taken := y.taken + 1, amax := am, readyAt := s.now }).setVeto d step v
    (reefAgent d) 0 0

/-- A hand-off of FP32 values into a bucket: the step opens, the values enter, and the last one starts the sending. -/
def State.handOff (s : State) (d p step : Nat) (b : Bucket) (e : Nat) (vals : List Nat) : State :=
  let s1 := s.modGroup d b.group fun x => x.openStep step
  let s2 := if b.kind = 0 then s1.reefAdd d p step b e vals
    else (s1.reefWrite d p step (b.stage + 4 * e) (bytes32 vals)).1.modBucket d b.group b.bucket fun y =>
      { y with taken := y.taken + 1, readyAt := s.now }
  if b.taken + 1 < b.puts then s2
  else if b.kind = 0 then s2.bucketGo d p step b.group b.bucket else s2.f32Go d p step b.group b.bucket

/-- Whether the Reef takes a hand-off for a step now (R325). -/
def GroupSt.takes (x : GroupSt) (step : Nat) : Bool :=
  !x.timedOut && match x.step with | none => true | some t => t == step

/-- REEF_PUT at the head of the porter's queue; none where it waits. -/
def State.reefPutBegin (s : State) (t : Nat) (o : PorOp) (bkt g : Nat) : Option State :=
  let p := (s.partOfTile t).getD 0
  let s0 := s.modTile t fun x => { (x.release o.info.id) with porQ := x.porQ.drop 1 }
  match s.bucketDie p g bkt with
  | none => some (s0.fault t o.info true 1 0x40 (g + bkt * 16))
  | some d =>
    match (s.reef d).group g, (s.reef d).bucket g bkt with
    | some x, some b =>
      if x.step.isNone && x.decided == some o.info.step then some (s0.fault t o.info true 1 0x41 (g + bkt * 16))
      else if !x.takes o.info.step || s.held .reef d || !s.engReady p then none
      else if b.puts ≤ b.taken then some (s0.fault t o.info true 1 0x41 (g + bkt * 16))
      else if x.closedAt.isSome then some (s0.fault t o.info true 1 0x42 g)
      else if b.elems < o.elemOfs + 16 * o.f.len then some (s0.fault t o.info true 1 0x40 o.elemOfs)
      else
        let at_ := o.f.lbase * 64
        let vals := words32 (s.sramRead t at_ (64 * o.f.len)) (16 * o.f.len)
        let fl := if b.kind = 0 then orFlags (vals.map (reefQuantFlags b.k)) else nanFlags vals
        let s1 := (s0.raiseFlags t o.info fl).handOff d p o.info.step b o.elemOfs vals
        let s2 := if o.f.sig then s1.addToken t o.f.sigTok 1 else s1
        match s.sramBadIn t at_ (64 * o.f.len) with
        | some a => some (((s2.setVeto d o.info.step Veto.error (reefAgent d) o.info.layer o.info.op).postParity t a rdReef
            o.info.layer o.info.op).fault t o.info true 2 2 a)
        | none => some s2
    | _, _ => some (s0.fault t o.info true 1 0x40 (g + bkt * 16))

/-- REEF_CLOSE at the head of the porter's queue; it completes when the report leaves (R324). -/
def State.reefCloseBegin (s : State) (t : Nat) (o : PorOp) (g : Nat) : Option State :=
  let d := dieOfTile t
  let s0 := s.modTile t fun x => { x with porQ := x.porQ.drop 1 }
  match (s.reef d).group g with
  | none => some ((s0.modTile t fun x => x.release o.info.id).fault t o.info true 1 0x40 g)
  | some x =>
    if !(x.step.isNone && x.decided == some o.info.step) && (!x.takes o.info.step || s.held .reef d) then none
    else if x.closedAt.isSome || x.step.isNone && x.decided == some o.info.step then some ((s0.modTile t fun x => x.release o.info.id).fault t o.info true 1 0x42 g)
    else some ((s0.modGroup d g fun x => { x.openStep o.info.step with closedAt := some s.now, closeOp := some (t, o.info.id) }).modTile
      t fun y => { y with ops := y.ops ++ [{ o with begun := true, total := 1, next := 1, flying := [0] }] })

/-! Reports and decisions. -/

/-- Every bucket of a group on a die has sent its chunks and settled its own shard (R332). -/
def State.bucketsDone (s : State) (d : Nat) (x : GroupSt) (step : Nat) : Bool :=
  let e := s.reef d
  let r := s.rankIn x
  (e.buckets.filter fun b => b.group == x.g).all fun b =>
    if b.kind = 1 then b.outDone
    else b.puts ≤ b.taken && (List.range x.n).all fun sh => (List.range (b.chunks x.n)).all fun c =>
      match e.mark step x.g b.bucket sh c with
      | some m => if sh = r then m.fate != .sent else m.fate == .sent
      | none => false

/-- This rank's own part of the report. REPAIR_PENDING sets V_ERROR (R361). -/
def State.ownReport (s : State) (ds : List Nat) (x : GroupSt) (step : Nat) : Report :=
  let r := s.rankIn x
  let own := ds.foldl (fun v d => (v.join ((s.reef d).latchOf step)).join
    (if (s.die d).upd.repair then Veto.error else Veto.none)) Veto.none
  let got := (ds.map fun d => (s.reef d).contribs.filter fun c => c.step == step && c.group == x.g).flatten
  let seen := got.foldl (fun v c => v.join c.veto)
    (ds.foldl (fun v d => match (s.reef d).group x.g with | some y => v.join y.vetoSeen | none => v) own)
  { step := step
    veto := seen
    csum := ds.any fun d => (s.reef d).marks.any fun m => m.step == step && m.group == x.g && m.fate == .failed
    vetoRank := if own.any then r else 0xFFFF
    lastRank := r
    lastClose := ds.foldl (fun m d => match (s.reef d).group x.g with | some y => max m (y.closedAt.getD 0) | none => m) 0
    retries := ds.foldl (fun n d => match (s.reef d).group x.g with | some y => n + y.retries | none => n) 0
    eb := (ds.map fun d => ((s.reef d).buckets.filter fun b => b.group == x.g).map fun b =>
      (b.bucket, (got.filter fun c => c.bucket == b.bucket).foldl (fun a c => maxExp a c.amax) b.amax)).flatten }

def ebOf (l : List (Nat × Option Int)) (b : Nat) : Option Int := (l.find? fun e => e.1 == b).bind Prod.snd

/-- Combining reports (R333). -/
def Report.join (a b : Report) : Report where
  step := a.step
  veto := a.veto.join b.veto
  csum := a.csum || b.csum
  vetoRank := min a.vetoRank b.vetoRank
  lastRank := if a.lastClose < b.lastClose then b.lastRank else a.lastRank
  lastClose := max a.lastClose b.lastClose
  retries := min (a.retries + b.retries) (2 ^ 32 - 1)
  eb := a.eb.map fun e => (e.1, maxExp e.2 (ebOf b.eb e.1))

def Report.vetoed (r : Report) : Bool := r.veto.any || r.csum

/-- Words 0 to 3 of Table 11-6. -/
def Report.words (r : Report) (veto : Bool) : List Nat :=
  [r.step % 2 ^ 32 + 2 ^ 32 + natOfBool veto * 2 ^ 33 + r.veto.code * 2 ^ 34 + natOfBool r.csum * 2 ^ 37 +
    r.vetoRank % 2 ^ 16 * 2 ^ 48, r.lastRank % 2 ^ 16, r.lastClose % 2 ^ 64, r.retries % 2 ^ 32]

/-- Bucket numbers of a group, in order. -/
def State.ebOrder (s : State) (ds : List Nat) (g : Nat) : List Nat :=
  ((ds.map fun d => ((s.reef d).buckets.filter fun b => b.group == g).map fun b => b.bucket).flatten).mergeSort (· ≤ ·)

def Report.payload (r : Report) (veto : Bool) (order : List Nat) : List Byte :=
  ((r.words veto).map fun w => natLe 8 w).flatten ++ (order.map fun b => natLe 1 (amaxByte (ebOf r.eb b))).flatten

def Report.ofPayload (l : List Byte) (order : List Nat) : Report :=
  let a := leAt l 0 8
  { step := bits a 0 32, veto := Veto.ofCode (bits a 34 3), csum := bit a 37, vetoRank := bits a 48 16,
    lastRank := leAt l 8 2, lastClose := leAt l 16 8, retries := leAt l 24 4,
    eb := (List.range order.length).map fun i => (order.getD i 0, amaxOfByte (leAt l (32 + i) 1)) }

/-- R326. -/
def kNext (n : Nat) (k : Int) (e : Option Int) : Int :=
  let c : Int := if n ≤ 1 then 0 else ((n - 1).log2 + 1 : Nat)
  match e with
  | none => k
  | some e => max (-128) (min 127 (22 - (c + 2) - max e (-127)))

/-- One die acts on the decision (R334). -/
def State.actOn (s : State) (d p : Nat) (r : Report) (g : Nat) : State :=
  match (s.reef d).group g with
  | none => s
  | some x =>
    let e := s.reef d
    let rec_ := ((r.words r.vetoed).map fun w => natLe 8 w).flatten ++ List.replicate 32 0
    let s0 := (s.reefWrite d p r.step (e.decBase + 128 * g + 64 * (r.step % 2)) rec_).1
    let s1 := (s0.emit d srcDecideWait (s.now - x.reportAt) 0 0 0 0 0).emit d srcReefRetry x.retries 0 0 0 0 0
    let s2 := s1.modReef d fun e =>
      { e with
        buckets := e.buckets.map fun b =>
          if b.group = g then
            { b with
              k := if b.kind = 0 then kNext x.n b.k (ebOf r.eb b.bucket) else b.k
              taken := 0, amax := none, outDone := false, f32Sent := false }
          else b
        contribs := e.contribs.filter fun c => !(c.group == g && c.step == r.step)
        marks := e.marks.filter fun c => !(c.group == g && c.step == r.step)
        f32 := e.f32.filter fun c => !(c.group == g && c.step == r.step)
        latch := e.latch.set (r.step % 2) Veto.none
        groups := e.groups.map fun y =>
          if y.g = g then
            { y with step := none, closedAt := none, closeOp := none, reportLeft := false, timedOut := false, children := []
                     vetoSeen := Veto.none, retries := 0, decided := some r.step }
          else y }
    let s3 := match (s2.die d).upd.sec with
      | some u => if u.group = g then s2.modUpd d fun u => { u with todo := some (r.step, r.vetoed) } else s2
      | none => s2
    if e.decSig then s3.addToken e.decTile e.decTok 1 else s3

/-- A decision at this rank: forwarded to the children, then acted on by every die with buckets of the group (R333). -/
def State.decide_ (s : State) (p g : Nat) (x : GroupSt) (r : Report) : State :=
  let ds := s.groupDies p g
  let order := s.ebOrder ds g
  let h := { x.head 3 r.step with veto := r.veto, csumFail := r.csum, count := order.length }
  let s1 := (treeKids x.n (s.rankIn x) 0).foldl (fun s k => s.sendReef p x k h (r.payload r.vetoed order)) s
  ds.foldl (fun s d => s.actOn d p r g) s1

/-- Whether a die's last contribution for a step has left: every group on it has reported the step or acted on it. -/
def Reef.allLeft (e : Reef) (step : Nat) : Bool :=
  e.groups.all fun x => x.decided == some step || (x.step == some step && x.reportLeft)

/-- The report of a rank leaves when its conditions and its children's reports are there (R332, R333); the REEF_CLOSEs
complete, and at the root the decision follows. -/
def State.reportGo (s : State) (p g : Nat) : State :=
  let ds := s.groupDies p g
  match ds with
  | [] => s
  | lead :: _ =>
    match (s.reef lead).group g with
    | none => s
    | some x =>
      match x.step with
      | none => s
      | some step =>
        let kids := treeKids x.n (s.rankIn x) 0
        let ready := ds.all fun d => match (s.reef d).group g with
          | some y => y.closedAt.isSome && y.step == some step && s.bucketsDone d y step && s.engReady p
          | none => false
        let kidReps := x.children.filter fun c => c.2.step == step
        if x.reportLeft || x.timedOut || !ready || kidReps.length < kids.length then s
        else
          let rep := kidReps.foldl (fun r c => r.join c.2) (s.ownReport ds x step)
          let closes := ds.filterMap fun d => ((s.reef d).group g).bind fun y => y.closeOp
          let s1 := ds.foldl (fun s d => s.modGroup d g fun y => { y with reportLeft := true, reportAt := s.now }) s
          let s2 := ds.foldl (fun s d => s.modReef d fun e =>
            if e.allLeft step then { e with lateStep := some (max step (e.lateStep.getD 0)) } else e) s1
          let s3 := closes.foldl (fun s c =>
            match (s.tile c.1).ops.find? fun o => o.info.id == c.2 with
            | some o => s.finishOp c.1 o
            | none => s) s2
          if s.rankIn x = 0 then s3.decide_ p g x rep
          else
            let order := s3.ebOrder ds g
            s3.sendReef p x (treeParent x.n (s.rankIn x) 0)
              { x.head 2 step with veto := rep.veto, csumFail := rep.csum, count := order.length } (rep.payload false order)

/-! Received packets. -/

/-- The step a packet may be for now (R337): the open one, or the next once this rank's report left. -/
def GroupSt.accepts (x : GroupSt) (step : Nat) : Bool :=
  match x.step with
  | none => true
  | some t => step ≤ t || x.reportLeft

/-- A Reef packet of kind rk: its group must be the partition's and its signature the group's (R337). -/
def State.onReef (s : State) (k rk : Nat) (f : Nat → Nat → GroupSt → RHead → Packet → State → Option State) : State :=
  onPacket s k (fun q => q.ptype == ptReef && bits (leAt q.data 0 8) 0 4 == rk) fun inp _ =>
    let q := inp.pkt
    let h := RHead.ofBytes q.data
    let g := q.vc - 4
    let proto := fun s1 : State => if inp.port < 16 then s1.modPort inp.port fun y => { y with protoErrors := y.protoErrors + 1 } else s1
    if rheadReserved q.data then proto (s.takePkt k inp)
    else match s.partOfJob q.job with
    | none => (s.takePkt k inp).countDiscard
    | some p =>
      let ds := s.groupDies p g
      let d := if rk = 2 || rk = 3 then ds.head? else (s.diesOf p).find? fun d => ((s.reef d).bucket g h.bucket).isSome
      match d with
      | none => (s.takePkt k inp).countDiscard
      | some d =>
        if (s.geode p).frozen || s.held .reef d then s
        else match (s.reef d).group g with
          | none => (s.takePkt k inp).countDiscard
          | some x =>
            if h.gsig ≠ x.sign then
              ((s.takePkt k inp).setVeto d h.step Veto.error (reefAgent d) 0 0).post (some p) 0x0011 (reefAgent d) 0 0
                (h.gsig + x.sign * 2 ^ 32)
            else match f d p x h q (s.takePkt k inp) with
              | some s1 => s1
              | none => s

def GroupSt.rankOf (x : GroupSt) (node : Nat) : Nat := x.ranks.idxOf node

def payloadOf (q : Packet) : List Byte := q.data.drop 32

def State.gotContrib (s : State) (k : Nat) : State :=
  s.onReef k 0 fun d p x h q s1 =>
    if !x.accepts h.step then none
    else
      let c : Contrib := ⟨h.step, h.bucket, x.g, h.shard, h.chunk, x.rankOf q.src, i40OfBytes (payloadOf q) h.count, h.cs,
        h.veto, h.amax⟩
      let same := fun y : Contrib => y.step == c.step && y.group == c.group && y.bucket == c.bucket && y.shard == c.shard &&
        y.chunk == c.chunk && y.child == c.child
      let s2 := s1.modReef d fun e => { e with contribs := e.contribs.filter (fun y => !same y) ++ [c] }
      some (s2.chunkGo d p h.step x.g h.bucket h.shard h.chunk)

def State.gotResend (s : State) (k : Nat) : State :=
  s.onReef k 1 fun d p x h _ s1 =>
    let s2 := s1.modReef d fun e =>
      let e1 := e.dropParts h.step x.g h.bucket h.shard h.chunk
      { e1 with marks := e1.marks.filter fun m =>
          !(m.step == h.step && m.group == x.g && m.bucket == h.bucket && m.shard == h.shard && m.chunk == h.chunk) }
    some ((s2.sendResend p x h.step h.bucket h.shard h.chunk).chunkGo d p h.step x.g h.bucket h.shard h.chunk)

def State.gotReport (s : State) (k : Nat) : State :=
  s.onReef k 2 fun d p x h q s1 =>
    if !x.accepts h.step then none
    else
      let r := Report.ofPayload (payloadOf q) (s.ebOrder (s.groupDies p x.g) x.g)
      let child := x.rankOf q.src
      let s2 := s1.modGroup d x.g fun y => { y with children := y.children.filter (fun c => c.1 != child) ++ [(child, r)] }
      some (s2.reportGo p x.g)

def State.gotDecision (s : State) (k : Nat) : State :=
  s.onReef k 3 fun _ p x h q s1 =>
    let r := Report.ofPayload (payloadOf q) (s.ebOrder (s.groupDies p x.g) x.g)
    if x.timedOut || x.step ≠ some h.step || !x.reportLeft then some s1.countDiscard
    else if !s.engReady p then none
    else some (s1.decide_ p x.g x r)

def State.gotF32Up (s : State) (k : Nat) : State :=
  s.onReef k 4 fun d p x h q s1 =>
    if !x.accepts h.step then none
    else
      let f : F32Part := ⟨h.step, x.g, h.bucket, x.rankOf q.src, words32 (payloadOf q) h.count⟩
      some ((s1.modReef d fun e => { e with f32 := e.f32 ++ [f] }).f32Go d p h.step x.g h.bucket)

def State.gotF32Down (s : State) (k : Nat) : State :=
  s.onReef k 5 fun d p x h q s1 =>
    match (s.reef d).bucket x.g h.bucket with
    | some b => if b.outDone || x.step ≠ some h.step then some s1.countDiscard else if !s.engReady p then none else some (s1.f32Out d p x b h.step (words32 (payloadOf q) h.count))
    | none => some s1.countDiscard

/-- R335: the timer of the lead die expires first. -/
def State.decisionOut (s : State) (d g : Nat) : State :=
  match s.partOfDie d, (s.reef d).group g with
  | some p, some x =>
    match x.step with
    | none => s
    | some step =>
      let coming := s.fabric.inbox.any fun i => i.pkt.ptype == ptReef && i.pkt.vc == 4 + x.cvc &&
        bits (leAt i.pkt.data 0 8) 0 4 == 3 && some i.pkt.dest == s.nodeId
      if (s.groupDies p g).head? ≠ some d || !x.reportLeft || x.timedOut || coming || s.timersStopped p ||
        s.now < x.reportAt + (s.reef d).decTimeoutMs * 1000000 then s
      else
        let s1 := (s.groupDies p g).foldl (fun s d => s.modGroup d g fun y => { y with timedOut := true }) s
        let s2 := s1.reefFault d step (6, 1, g + step * 2 ^ 32)
        if (s2.geode p).fabTrig then s2.trigger (some p) ⟨3, reefAgent d, step, 0, 0, 0, 6, 1⟩ else s2
  | _, _ => s

end Sys2Proof.Machine
end

