-- ==== Sys2Proof/Machine/Fn.lean ====
section
/-! DEFINITION. The functions of Table 05-4 and cospi of R347. Each is a fixed function of its operand whose result
the spec only bounds: the exact function is enclosed by a rational, and the uninterpreted constant Config.fnPick
chooses among the FP32 values inside the bound. RCP and SQRT are correctly rounded and have no choice. -/
namespace Sys2Proof.Machine

/-- Fixed-point precision of the enclosures, in bits. -/
def fnP : Nat := 200
def fixPi : Nat := 0x3243f6a8885a308d313198a2e03707344a4093822299f31d008
def fixLn2 : Nat := 0xb17217f7d1cf79abc9e3b39803f2f6af40f343267298b62d8a
def fixLog2e : Nat := 0x171547652b82fe1777d0ffda0d23a7d11d6aef551bad2b4b116
def fixInvSqrt2Pi : Nat := 0x662114cf50d942343f2cf1402eae38bfd3829f30512706d8c0

/-- e^(y / 2^fnP) for 0 ≤ y < 2^fnP, in fixed point, by its series. -/
def expSeries : Nat → Nat → Nat → Nat → Nat → Nat
  | 0, _, _, _, acc => acc
  | n + 1, k, y, t, acc => let t' := t * y / 2 ^ fnP / k; expSeries n (k + 1) y t' (acc + t')

/-- 2^(a / 2^fnP) as a mantissa in fixed point and a power of two, for a signed fixed-point a. -/
def exp2Fix (a : Int) : Nat × Int :=
  let n := a / (2 ^ fnP : Nat)
  let f := (a % (2 ^ fnP : Nat)).toNat
  (expSeries 60 1 (f * fixLn2 / 2 ^ fnP) (2 ^ fnP) (2 ^ fnP), n)

/-- A signed fixed-point reading of a dyadic, truncated. -/
def dyFix (d : Dy) : Int := d.m * 2 ^ ((fnP : Int) + d.e).toNat / 2 ^ (-((fnP : Int) + d.e)).toNat

/-- An enclosure of an exact result: sign, a rational magnitude, and whether that magnitude is exact. -/
structure Approx where
  neg : Bool
  num : Nat
  den : Nat
  exact : Bool
  deriving DecidableEq, Repr

def Approx.ofFix (a : Int) : Approx := ⟨a < 0, a.natAbs, 2 ^ fnP, a == 0⟩
def Approx.ofMant (neg : Bool) (m : Nat) (e : Int) (exact : Bool) : Approx :=
  ⟨neg, m * 2 ^ e.toNat, 2 ^ (fnP + (-e).toNat), exact⟩

/-- The FP32 values within k ulp of the enclosed result, one of them chosen by Config.fnPick (R121). With an
absolute bound 2^(-absBits) that is looser than k ulp, the choice ranges over three quarters of that bound. A result of
2^128 or more overflows (R121). -/
def chooseNear (fn x k : Nat) (absBits : Option Nat) (a : Approx) : Enc :=
  let pick := Config.fnPick fn x
  let lo := if a.num = 0 then 0 else (roundPos fp32 .rz false 0 false a.num a.den).1
  let exactLo := a.exact && (a.num = 0 || (roundPos fp32 .rz false 0 false a.num a.den).2 == 0)
  let ulpExp : Int := max ((lo / 2 ^ 23 : Nat) : Int) 1 - 150
  let wide := match absBits with
    | none => false
    | some b => decide (ulpExp + (k.log2 : Int) < -(b : Int))
  if wide then
    let b := absBits.getD 0
    let off : Int := ((pick % 2 ^ 21 : Nat) : Int) - 2 ^ 20
    let v : Int := (if a.neg then -1 else 1) * ((a.num * 2 ^ (b + 22) : Nat) : Int) + 3 * off * (a.den : Int)
    let moved : Bool := !(a.exact && off == 0)
    if v = 0 then (0, if a.exact then 0 else flInexact ||| flUnderflow)
    else
      let (r, fl) := roundPos fp32 .rne false 0 (v < 0) v.natAbs (a.den * 2 ^ (b + 22))
      (r, fl ||| if moved then flInexact else 0)
  else if 2 ^ 128 * a.den ≤ a.num then (fp32.signBit a.neg + fp32.infEnc, flOverflow ||| flInexact)
  else
    let first := if exactLo then lo - k else lo + 1 - k
    let r := min (first + pick % (lo + k + 1 - first)) fp32.infEnc
    let inexact := !(exactLo && r == lo)
    (fp32.signBit a.neg + r,
      if r == fp32.infEnc then flOverflow ||| flInexact
      else (if inexact then flInexact ||| (if r < 0x00800000 then flUnderflow else 0) else 0))

/-- 2^x (SUB 0). -/
def fnExp2 (x : Nat) : Enc :=
  match val32 x with
  | .nan => (fp32.nanEnc, flNanIn)
  | .inf s => (if s then 0 else fp32.infEnc, 0)
  | .fin s m e =>
    let d := (Val.fin s m e).toDy
    if d.lt ⟨-160, 0⟩ then chooseNear 0 x 1 none ⟨false, 1, 2 ^ 160, false⟩
    else if Dy.lt ⟨160, 0⟩ d then (fp32.infEnc, flOverflow ||| flInexact)
    else
      let a := dyFix d
      let (mant, n) := exp2Fix a
      chooseNear 0 x 1 none (Approx.ofMant false mant n (a % (2 ^ fnP : Nat) == 0))

/-- Binary digits of log2 of a fixed-point mantissa in [1, 2), most significant first. -/
def log2Digits : Nat → Nat → Nat → Nat
  | 0, _, acc => acc
  | n + 1, y, acc =>
    let y2 := y * y / 2 ^ (2 * fnP)
    if 2 ^ (2 * fnP + 1) ≤ y2 then log2Digits n (y2 / 2) (2 * acc + 1) else log2Digits n y2 (2 * acc)

/-- log2 of m * 2^e for positive m, in signed fixed point with 120 correct digits. -/
def log2Fix (m : Nat) (e : Int) : Int :=
  let l := m.log2
  let y := m * 2 ^ (2 * fnP) / 2 ^ l
  ((l : Int) + e) * (2 ^ fnP : Nat) + ((log2Digits 120 y 0 * 2 ^ (fnP - 120) : Nat) : Int)

/-- log2 x (SUB 1). -/
def fnLog2 (x : Nat) : Enc :=
  match val32 x with
  | .nan => (fp32.nanEnc, flNanIn)
  | .inf s => if s then (fp32.nanEnc, flInvalid) else (fp32.infEnc, 0)
  | .fin s m e =>
    if m = 0 then (fp32.signBit true + fp32.infEnc, flDivZero)
    else if s then (fp32.nanEnc, flInvalid)
    else
      let a := log2Fix m e
      let small : Bool := decide (a.natAbs < 2 ^ (fnP - 2))
      chooseNear 1 x 1 (if small then some 24 else none) { Approx.ofFix a with exact := m = 2 ^ m.log2 }

/-- 1 / x, correctly rounded (SUB 2). -/
def fnRcp (x : Nat) : Enc :=
  match val32 x with
  | .nan => (fp32.nanEnc, flNanIn)
  | .inf s => (fp32.signBit s, 0)
  | .fin s m e =>
    if m = 0 then (fp32.signBit s + fp32.infEnc, flDivZero)
    else divFin fp32 false ⟨1, 0⟩ (Val.fin s m e).toDy

/-- √x, correctly rounded (SUB 3). -/
def fnSqrt (x : Nat) : Enc :=
  match val32 x with
  | .nan => (fp32.nanEnc, flNanIn)
  | .inf s => if s then (fp32.nanEnc, flInvalid) else (x, 0)
  | .fin s m e =>
    if m = 0 then (x, 0) else if s then (fp32.nanEnc, flInvalid) else sqrtPos fp32 false m e

/-- 1 / √x (SUB 4). -/
def fnRsqrt (x : Nat) : Enc :=
  match val32 x with
  | .nan => (fp32.nanEnc, flNanIn)
  | .inf s => if s then (fp32.nanEnc, flInvalid) else (0, 0)
  | .fin s m e =>
    if m = 0 then (fp32.signBit s + fp32.infEnc, flDivZero)
    else if s then (fp32.nanEnc, flInvalid)
    else
      let k := 2 * fnP + (if e % 2 = 0 then 0 else 1)
      let r := isqrt (m * 2 ^ k)
      let g := (e - k) / 2
      chooseNear 4 x 1 none ⟨false, 2 ^ (-g).toNat, r * 2 ^ g.toNat, r * r == m * 2 ^ k⟩

/-- e^y as mantissa and exponent for a dyadic y. -/
def expDy (d : Dy) : Nat × Int := exp2Fix (dyFix d * (fixLog2e : Int) / (2 ^ fnP : Nat))

/-- tanh x (SUB 5). -/
def fnTanh (x : Nat) : Enc :=
  match val32 x with
  | .nan => (fp32.nanEnc, flNanIn)
  | .inf s => (fp32.signBit s + one32, 0)
  | .fin s m e =>
    if m = 0 then (x, 0)
    else
      let d : Dy := ⟨m, e⟩
      if Dy.lt ⟨32, 0⟩ d then chooseNear 5 x 2 none ⟨s, 2 ^ 60 - 1, 2 ^ 60, false⟩
      else if d.lt ⟨1, -12⟩ then
        let x2 := d.mul d
        let p := ((Dy.mk 15 0).add ((Dy.mk (-5) 0).mul x2)).add ((Dy.mk 2 0).mul (x2.mul x2))
        let v := d.mul p
        chooseNear 5 x 2 none ⟨s, v.m.natAbs * 2 ^ v.e.toNat, 15 * 2 ^ (-v.e).toNat, false⟩
      else
        let (q, n) := expDy ⟨2 * m, e⟩
        let big := q * 2 ^ n.toNat
        chooseNear 5 x 2 none ⟨s, big - 2 ^ fnP, big + 2 ^ fnP, false⟩

/-- Partial sums of Σ (-1)^n x^(2n+1) / (2^n n! (2n+1)): t is the current x^(2n+1)/(2^n n!), signed. -/
def erfSeries : Nat → Nat → Int → Int → Int → Int
  | 0, _, _, _, acc => acc
  | n + 1, k, x2, t, acc =>
    let t' := -(t * x2 / (2 ^ fnP : Nat)) / (2 * (k : Int))
    erfSeries n (k + 1) x2 t' (acc + t' / (2 * (k : Int) + 1))

/-- (1 + erf(x / √2)) / 2 for |x| < 8, in fixed point. -/
def phiFix (d : Dy) : Int :=
  let a := dyFix d
  (2 ^ (fnP - 1) : Nat) + (erfSeries 220 1 (a * a / (2 ^ fnP : Nat)) a a) * (fixInvSqrt2Pi : Int) / (2 ^ fnP : Nat)

/-- GELU (SUB 6). -/
def fnGelu (x : Nat) : Enc :=
  match val32 x with
  | .nan => (fp32.nanEnc, flNanIn)
  | .inf s => (if s then fp32.signBit true else fp32.infEnc, 0)
  | .fin s m e =>
    let d := (Val.fin s m e).toDy
    if m = 0 then (x, 0)
    else if d.lt ⟨-8, 0⟩ then chooseNear 6 x 2 (some 40) ⟨true, 0, 1, false⟩
    else if Dy.lt ⟨8, 0⟩ d then
      chooseNear 6 x 2 none ⟨false, m * (2 ^ 60 - 1) * 2 ^ e.toNat, 2 ^ (60 + (-e).toNat), false⟩
    else
      let p := (phiFix d).natAbs
      chooseNear 6 x 2 (if d.lt ⟨-4, 0⟩ then some 40 else none) ⟨s, m * p * 2 ^ e.toNat, 2 ^ (fnP + (-e).toNat), false⟩

/-- SILU (SUB 7). -/
def fnSilu (x : Nat) : Enc :=
  match val32 x with
  | .nan => (fp32.nanEnc, flNanIn)
  | .inf s => (if s then fp32.signBit true else fp32.infEnc, 0)
  | .fin s m e =>
    let d := (Val.fin s m e).toDy
    if m = 0 then (x, 0)
    else if d.lt ⟨-64, 0⟩ then chooseNear 7 x 2 (some 40) ⟨true, 0, 1, false⟩
    else if Dy.lt ⟨64, 0⟩ d then
      chooseNear 7 x 2 none ⟨false, m * (2 ^ 60 - 1) * 2 ^ e.toNat, 2 ^ (60 + (-e).toNat), false⟩
    else
      let (q, n) := expDy d.neg
      let en := q * 2 ^ n.toNat
      let ed := 2 ^ (fnP + (-n).toNat)
      chooseNear 7 x 2 (if d.lt ⟨-20, 0⟩ then some 40 else none)
        ⟨s, m * 2 ^ e.toNat * ed, 2 ^ (-e).toNat * (ed + en), false⟩

/-- VFN on an FP32 operand, by SUB (Table 05-4). -/
def vfn (sub x : Nat) : Enc :=
  match sub with
  | 0 => fnExp2 x
  | 1 => fnLog2 x
  | 2 => fnRcp x
  | 3 => fnSqrt x
  | 4 => fnRsqrt x
  | 5 => fnTanh x
  | 6 => fnGelu x
  | _ => fnSilu x

/-- Terms of the cosine series in fixed point. -/
def cosSeries : Nat → Nat → Int → Int → Int → Int
  | 0, _, _, _, acc => acc
  | n + 1, k, y2, t, acc =>
    let t' := -(t * y2 / (2 ^ fnP : Nat)) / (((2 * k - 1) * (2 * k) : Nat) : Int)
    cosSeries n (k + 1) y2 t' (acc + t')

/-- cospi(f) = cos(πf), within 2 ulp, exact at 0, 0.5 and 1 (R347). -/
def cospi (x : Nat) : Nat :=
  let d := dy32 x
  if d.m = 0 then one32
  else if x = 0x3F000000 then 0
  else if x = one32 then fp32.signBit true + one32
  else
    let y := dyFix d * (fixPi : Int) / (2 ^ fnP : Nat)
    let c := cosSeries 80 1 (y * y / (2 ^ fnP : Nat)) (2 ^ fnP : Nat) (2 ^ fnP : Nat)
    (chooseNear 8 x 2 none { Approx.ofFix c with exact := false }).1

end Sys2Proof.Machine
end

