-- ==== Sys2Proof/Machine/Vector.lean ====
section
/-! DEFINITION. What each vector instruction computes when the engine begins it (05): its result record, or the contract
breach or parity fault that it meets. -/
namespace Sys2Proof.Machine

/-- What an instruction computed: a record, or a breach with its code and detail. -/
inductive VOut where
  | res (r : VRes)
  | breach (code detail : Nat)

/-- What the engine reads: the registers, scalars, tile SRAM reader, sequence table, loss and amax slots, flag words, the
taken queue entry, the job seed and a free word for values the spec does not state. -/
structure VEnv where
  reg : Nat → VReg
  sca : Nat → W64
  ram : Nat → Nat → List Byte
  seqtab : List (Nat × Nat)
  loss : List (Nat × Nat)
  amax : List Nat
  strandFl : Nat
  tileFl : Nat
  entry : Option QEntry
  seed : Nat
  free : Nat

def emptyRes (x : VItem) : VRes :=
  ⟨x.info, [], [], [], 0, none, [], none, if x.f.sig then some x.f.sigTok else none⟩

def fpOf (fmt : Nat) : FFmt := (ffmtOf fmt).getD fp32
def orAll (l : List Nat) : Nat := l.foldl (fun a b => a ||| b) 0

/-- Largest finite magnitude of values, as an FP32 pattern (R131). -/
def amaxOf (l : List Val) : Nat :=
  l.foldl (fun m v => match v with
    | .fin _ a e => let x := (convF fp32 .rne true 0 (.fin false a e)).1; if m < x then x else m
    | _ => m) 0

def amaxUpd (f : VecF) (vals : List Val) : Option (Nat × Nat) := if f.amxe then some (f.amx, amaxOf vals) else none

/-- One register of results with its lanes' flags (R132) and amax. -/
def laneRes (x : VItem) (vd : Nat) (l : List Enc) : VRes :=
  let w := fmtBits x.f.fmt
  { emptyRes x with
    regs := [(vd, vOfLanes w (l.map Prod.fst))]
    flags := orAll (l.map Prod.snd)
    amax := amaxUpd x.f (l.map fun e => elemVal x.f.fmt e.1) }

/-- ABS: the result of a NaN is the canonical NaN (R119). -/
def fAbs (f : FFmt) (sat : Bool) (a : Nat) : Enc :=
  match decodeF f a with
  | .nan => (f.nanEnc, flNanIn)
  | .inf _ => finish f sat (.inf false) 0
  | .fin _ m e => finish f sat (.fin false m e) 0

/-- NEG. -/
def fNeg (f : FFmt) (sat : Bool) (a : Nat) : Enc :=
  match decodeF f a with
  | .nan => (f.nanEnc, flNanIn)
  | v => finish f sat v.negate 0

def fCmp (f : FFmt) (eq : Bool) (a b : Nat) : Enc :=
  let va := decodeF f a
  let vb := decodeF f b
  let r := if eq then va.eqNum vb else va.ltNum vb
  (if r then 2 ^ f.width - 1 else 0, if va.isNan || vb.isNan then flNanIn else 0)

/-- VALU MIN and MAX: the picked value is the elementwise result of R119, clamped by SAT where it is infinite. -/
def fPick (f : FFmt) (sat isMax : Bool) (a b : Nat) : Enc :=
  let r := fMinMax f isMax a b
  finish f sat (decodeF f r.1) r.2

/-- The value VALU SEL picks, as an elementwise result (R119): a NaN becomes the canonical NaN and raises NAN_IN (R36),
and SAT clamps an infinity. The lane of VC is tested as a bit pattern, so that -0 counts as nonzero; a NaN in the source
not picked raises nothing (DESIGN CHOICE, log entry 119). -/
def fSel (f : FFmt) (sat : Bool) (a : Nat) : Enc :=
  let v := decodeF f a
  finish f sat v (if v.isNan then flNanIn else 0)

/-- VALU (Table 05-3). MOVI in every format is one conversion of the FP32 immediate (R119; log entry 119). -/
def vAlu (env : VEnv) (x : VItem) : VRes :=
  let f := fpOf x.f.fmt
  let w := f.width
  let a := vLanes (env.reg x.f.va) w
  let b := vLanes (env.reg x.f.vb) w
  let c := vLanes (env.reg x.f.vc) w
  let two := fun (g : Nat → Nat → Enc) => List.zipWith g a b
  let sat := x.f.sat
  laneRes x x.f.vd <| match x.f.sub with
    | 0 => two (fAdd f sat)
    | 1 => two (fSub f sat)
    | 2 => two (fMul f sat)
    | 3 => List.zipWith (fun p z => fFma f sat p.1 p.2 z) (a.zip b) c
    | 4 => two (fPick f sat false)
    | 5 => two (fPick f sat true)
    | 6 => a.map (fAbs f sat)
    | 7 => a.map (fNeg f sat)
    | 8 => two (fCmp f false)
    | 9 => two (fCmp f true)
    | 10 => List.zipWith (fun p z => fSel f sat (if z != 0 then p.1 else p.2)) (a.zip b) c
    | 11 => two fun p q => (p &&& q, 0)
    | 12 => two fun p q => (p ||| q, 0)
    | 13 => two fun p q => (p ^^^ q, 0)
    | _ => a.map fun _ => convF f .rne sat 0 (val32 x.f.imm)

/-- VFN: the FP32 result, brought to FMT once under SAT (R119, R121). -/
def vFn (env : VEnv) (x : VItem) : VRes :=
  let f := fpOf x.f.fmt
  let one := fun a : Nat =>
    let (y, fl) := vfn x.f.sub (convF fp32 .rne false 0 (decodeF f a)).1
    let (z, g) := convF f .rne x.f.sat 0 (val32 y)
    (z, fl ||| (if (val32 y).isNan then 0 else g))
  laneRes x x.f.vd ((vLanes (env.reg x.f.va) f.width).map one)

/-- Pairwise addition tree with flags (R84, R122). -/
def treeFl (f : FFmt) (sat : Bool) (l : List Nat) : Enc :=
  (treeGo (fun a b : Enc => let (y, g) := fAdd f sat a.1 b.1; (y, a.2 ||| b.2 ||| g)) (l.length.log2 + 1)
    (l.map fun v => (v, 0))).headD (0, 0)

def foldFl (g : Nat → Nat → Enc) : List Nat → Enc
  | [] => (0, 0)
  | a :: l => l.foldl (fun acc b => let (y, fl) := g acc.1 b; (y, acc.2 ||| fl)) (a, 0)

/-- The largest magnitude over finite lanes, in the format (R122). -/
def amaxLane (f : FFmt) (l : List Nat) : Nat :=
  l.foldl (fun m v => if (decodeF f v).isFin then max m (v % 2 ^ (f.width - 1)) else m) 0

def vRedOne (f : FFmt) (sat : Bool) (sub : Nat) (l : List Nat) : Enc :=
  match sub with
  | 0 => treeFl f sat l
  | 1 => foldFl (fMinMax f true) l
  | 2 => foldFl (fMinMax f false) l
  | _ => (amaxLane f l, if l.any fun v => (decodeF f v).isNan then flNanIn else 0)

def chunks {α : Type} (n : Nat) : Nat → List α → List (List α)
  | 0, _ => []
  | k + 1, l => l.take n :: chunks n k (l.drop n)

def padTo (n : Nat) (l : List Enc) : List Enc := l ++ List.replicate (n - l.length) (0, 0)

/-- VRED (R122). -/
def vRed (env : VEnv) (x : VItem) : VRes :=
  let f := fpOf x.f.fmt
  let a := vLanes (env.reg x.f.va) f.width
  let groups := if x.f.grp then [a] else chunks 16 (a.length / 16) a
  laneRes x x.f.vd (padTo a.length (groups.map (vRedOne f x.f.sat x.f.sub)))

/-- One row of VSMX (R123): p, c, m', s' and flags. -/
def smxRow (sat : Bool) (xs : List Nat) (m s : Nat) : List Nat × Nat × Nat × Nat × Nat :=
  let (mx, f1) := foldFl (fMinMax fp32 true) xs
  let (m', f2) := fMinMax fp32 true m mx
  if m' = 0xFF800000 then (xs.map fun _ => 0, one32, m', s, f1 ||| f2)
  else
    let ex := fun a : Nat => let (d, g) := fSub fp32 sat a m'; let (y, h) := fnExp2 d; (y, g ||| h)
    let ps := xs.map ex
    let (c, f3) := ex m
    let (sc, f4) := fMul fp32 sat s c
    let (rs, f5) := treeFl fp32 sat (ps.map Prod.fst)
    let (s', f6) := fAdd fp32 sat sc rs
    (ps.map Prod.fst, c, m', s', f1 ||| f2 ||| orAll (ps.map Prod.snd) ||| f3 ||| f4 ||| f5 ||| f6)

/-- Where VD = VC the write of VC, the later of the two, stands; the same holds for VQK4 and the K4 import (DESIGN
CHOICE, log entry 120). -/
def vSmx (env : VEnv) (x : VItem) : VRes :=
  let a := vLanes (env.reg x.f.va) 32
  let st := vLanes (env.reg x.f.vc) 32
  let rows := (List.range 4).map fun r => smxRow x.f.sat ((a.drop (16 * r)).take 16) (st.getD r 0) (st.getD (4 + r) 0)
  let p := (rows.map fun r => r.1).flatten
  let st' := rows.map (fun r => r.2.2.1) ++ rows.map (fun r => r.2.2.2.1) ++ rows.map fun r => r.2.1
  { emptyRes x with
    regs := [(x.f.vd, vOfLanes 32 p), (x.f.vc, vOfLanes 32 st')]
    flags := orAll (rows.map fun r => r.2.2.2.2)
    amax := amaxUpd x.f ((p ++ st').map val32) }

/-- VPERM (R125). -/
def vPerm (env : VEnv) (x : VItem) : VRes :=
  let w := (fpOf x.f.fmt).width
  let n := 2048 / w
  let a := vLanes (env.reg x.f.va) w
  let c := vLanes (env.reg x.f.vc) w
  laneRes x x.f.vd ((vLanes (env.reg x.f.vb) w).map fun i =>
    ((if i / n % 2 = 1 then c else a).getD (i % n) 0, 0))

/-- VSHUF on one register (Table 05-5). -/
def shuf (sub imm n : Nat) (a b : List Nat) : List Nat :=
  let h := n / 2
  (List.range n).map fun l =>
    match sub with
    | 0 => a.getD (n - 1 - l) 0
    | 1 => a.getD ((l + imm) % n) 0
    | 2 => a.getD (imm % n) 0
    | 3 => (if l % 2 = 0 then a else b).getD (l / 2) 0
    | 4 => (if l % 2 = 0 then a else b).getD (l / 2 + h) 0
    | 5 => if l < h then a.getD (2 * l) 0 else b.getD (2 * (l - h)) 0
    | _ => if l < h then a.getD (2 * l + 1) 0 else b.getD (2 * (l - h) + 1) 0

/-- The 256 elements of a block in registers b to b + 3, row-major, and back (R117). -/
def blockOf (reg : Nat → VReg) (b : Nat) : List Nat := ((List.range 4).map fun k => vLanes (reg (b + k)) 32).flatten
def blockRegs (b : Nat) (l : List Nat) : List (Nat × VReg) :=
  (List.range 4).map fun k => (b + k, vOfLanes 32 ((l.drop (64 * k)).take 64))

def vShuf (env : VEnv) (x : VItem) : VRes :=
  if x.f.sub = 7 then
    let l := blockOf env.reg x.f.va
    let tr := (List.range 256).map fun k => l.getD (k % 16 * 16 + k / 16) 0
    { emptyRes x with regs := blockRegs x.f.vd tr, amax := amaxUpd x.f (tr.map val32) }
  else
    let w := (fpOf x.f.fmt).width
    laneRes x x.f.vd ((shuf x.f.sub x.f.imm (2048 / w) (vLanes (env.reg x.f.va) w) (vLanes (env.reg x.f.vb) w)).map
      fun v => (v, 0))

/-- The random halves of an SR conversion of n elements (R138). -/
def srDraws (env : VEnv) (x : VItem) (n : Nat) : List Nat :=
  let b := (env.sca x.f.xb).toNat
  (List.range n).map fun e =>
    if x.f.rm = 2 then draw env.seed 1 0 x.info.layer x.info.op x.info.step (b + e) % 65536 else 0

/-- RNG_INDEX where an element index reaches 2^50 (R138). -/
def rngBreach (env : VEnv) (x : VItem) (n : Nat) : Bool := 2 ^ 50 < (env.sca x.f.xb).toNat + n

def mode_ (x : VItem) : RMode := (RMode.ofCode x.f.rm).getD .rne

/-- Elements of consecutive registers from r, count in all, of format fmt. -/
def elemsOf (env : VEnv) (r fmt count : Nat) : List Nat :=
  let w := fmtBits fmt
  let n := 2048 / w
  ((List.range (count / n)).map fun k => vLanes (env.reg (r + k)) w).flatten

/-- VPACK (R127). An integer target scales by the FP32 value c in XA (R54). R54 names a positive c: of a negative c the model takes the
magnitude, and it reads a NaN or infinite c as 0 (DESIGN CHOICE, log entry 121). -/
def vPack (env : VEnv) (x : VItem) : VOut :=
  let w := fmtBits x.f.fmt
  let n := 2048 / w
  if x.f.rm = 3 then .breach 0x01 0
  else if x.f.rm = 2 && rngBreach env x n then .breach 0x0D (env.sca x.f.xb).toNat
  else
    let src := elemsOf env x.f.va x.f.fmt2 n
    let vals := src.map (elemVal x.f.fmt2)
    let c := dy32 ((env.sca x.f.xa).toNat % 2 ^ 32)
    let one := fun (v : Val) (r : Nat) => match ffmtOf x.f.fmt with
      | some f => convF f (mode_ x) x.f.sat r v
      | none => convI w (mode_ x) r v c
    let out := List.zipWith one vals (srDraws env x n)
    .res { emptyRes x with
      regs := [(x.f.vd, vOfLanes w (out.map Prod.fst))]
      flags := orAll (out.map Prod.snd)
      amax := amaxUpd x.f vals }

/-- VUNPK: widening is exact (R128, R56); a K4 source is rounded by R93. A tensor scale in XA that is not positive, normal and finite (R42) multiplies as the value XA holds (DESIGN CHOICE,
log entry 122). -/
def vUnpk (env : VEnv) (x : VItem) : VOut :=
  let w := fmtBits x.f.fmt2
  let src := vLanes (env.reg x.f.va) w
  let sc := vBytes (env.reg x.f.vb)
  if x.f.fmt2 = 5 && (sc.take 32).any (fun k => !kbsLegal k.toNat) then .breach 0x01 0
  else
    let t := val32 ((env.sca x.f.xa).toNat % 2 ^ 32)
    let one := fun (a k : Nat) =>
      if x.f.fmt2 = 5 then
        let (v, fl) := ((elemVal 5 a).scale (kbs (sc.getD (k / 16) 0).toNat)).mul t
        finish fp32 x.f.sat v fl
      else convF fp32 .rne false 0 (elemVal x.f.fmt2 a)
    let out := List.zipWith one src (List.range src.length)
    .res { emptyRes x with
      regs := (List.range (32 / w)).map fun k => (x.f.vd + k, vOfLanes 32 ((out.drop (64 * k)).take 64 |>.map Prod.fst))
      flags := orAll (out.map Prod.snd)
      amax := amaxUpd x.f (out.map fun e => val32 e.1) }

/-! K4 quantisation (R91) and MX import (R57 to R60). -/

/-- num / den rounded to FP32 toward +infinity, for a positive quotient. -/
def rup32 (num den : Nat) : Nat :=
  let e := max (floorLog2 num den) fp32.emin
  let (n', d') := scaleFrac num den (e - 23)
  let n := (n' + d' - 1) / d'
  ((e - fp32.emin) * 2 ^ 23 + n).toNat

/-- T of R91 for a finite amax given as an exact non-negative dyadic. -/
def k4Tensor (amax : Dy) : Nat :=
  if amax.m = 0 then one32
  else max (rup32 (amax.m.natAbs * 2 ^ amax.e.toNat) (393216 * 2 ^ (-amax.e).toNat)) 0x00800000

/-- x / c to E2M1, exactly divided and rounded once (R53). -/
def toE2m1 (mode : RMode) (r : Nat) (v : Val) (c : Dy) : Enc :=
  match v with
  | .fin neg m e =>
    if m = 0 then (e2m1.signBit neg, 0)
    else
      let g := e - c.e
      roundPos e2m1 mode true r neg (m * 2 ^ g.toNat) (c.m.natAbs * 2 ^ (-g).toNat)
  | v => convF e2m1 mode true r v

/-- A block of 16 elements: its block-scale code and its element codes with flags (R91). -/
def k4Block (t : Nat) (mode : RMode) (vals : List Val) (rnd : List Nat) : Nat × List Enc :=
  let mags := vals.filterMap fun v => match v with
    | .fin _ m e => if m = 0 then none else some (⟨m, e⟩ : Dy)
    | _ => none
  let m := mags.foldl (fun a b => if a.lt b then b else a) Dy.zero
  let tv := dy32 t
  let code := if m.m = 0 then 0x78
    else
      let g := m.e - tv.e
      kbsUp (m.m.natAbs * 2 ^ g.toNat) (6 * tv.m.natAbs * 2 ^ (-g).toNat)
  (code, List.zipWith (fun v r => toE2m1 mode r v ((kbs code).mul tv)) vals rnd)

/-- Quantises a list of elements in blocks of 16. -/
def k4Quant (t : Nat) (mode : RMode) (vals : List Val) (rnd : List Nat) : List (Nat × List Enc) :=
  List.zipWith (k4Block t mode) (chunks 16 (vals.length / 16) vals) (chunks 16 (rnd.length / 16) rnd)

/-- The element and scale registers of quantised blocks, their flags. -/
def k4Regs (vd vc : Nat) (bl : List (Nat × List Enc)) : List (Nat × VReg) × Nat :=
  ([(vd, vOfLanes 4 (bl.map fun b => b.2.map Prod.fst).flatten), (vc, vOfLanes 8 (bl.map Prod.fst))],
   orAll (bl.map fun b => orAll (b.2.map Prod.snd)))

/-- VQK4 (R129). -/
def vQk4 (env : VEnv) (x : VItem) : VOut :=
  let am := (env.sca x.f.xa).toNat % 2 ^ 32
  if x.f.rm = 3 then .breach 0x01 0
  else if !(val32 am).isFin || ((val32 am).toDy.m < 0) then .breach 0x0B am
  else if x.f.rm = 2 && rngBreach env x 512 then .breach 0x0D (env.sca x.f.xb).toNat
  else
    let vals := (elemsOf env x.f.va 0 512).map val32
    let t := k4Tensor (dy32 am)
    let (regs, fl) := k4Regs x.f.vd x.f.vc (k4Quant t (mode_ x) vals (srDraws env x 512))
    .res { emptyRes x with regs := regs, scal := [(x.f.xb, BitVec.ofNat 64 t)], flags := fl, amax := amaxUpd x.f vals }

/-- The value of an MX element in its byte (Table 02-11). The spec lays out no 6-bit or 4-bit MX elements in VA: each
stands in the low bits of a byte of its own, whose other bits are ignored (DESIGN CHOICE, log entry 123). -/
def mxVal (el : MxElem) (b : Nat) : Val :=
  match el with
  | .e4m3 => decodeF e4m3 (b % 256)
  | .e5m2 => decodeF e5m2 (b % 256)
  | .e3m2 => decodeF e3m2 (b % 64)
  | .e2m3 => decodeF e2m3 (b % 64)
  | .e2m1 => decodeF e2m1 (b % 16)
  | .int8 => (elemVal 6 b).scale ⟨1, -6⟩

/-- The two K4 blocks of one MXFP4 block (R59). -/
def mxfp4Block (free : Nat) (t16 : Int) (xc : Nat) (els : List Nat) : List (Nat × List Enc) :=
  let e : Int := (xc : Int) - 127 - t16
  if xc = 0xFF then [(0x78, els.take 16 |>.map fun _ => (0, flNanIn ||| flInvalid)),
    (0x78, els.drop 16 |>.map fun _ => (0, flNanIn ||| flInvalid))]
  else if e < -14 then
    let one := fun b : Nat => toE2m1 .rne 0 (mxVal .e2m1 b) ⟨1, -(e + 14)⟩
    [(0x08, (els.take 16).map one), (0x08, (els.drop 16).map one)]
  else
    let code := if e ≤ 16 then ((e + 15) * 8).toNat else free % 256
    [(code, (els.take 16).map fun b => (b % 16, 0)), (code, (els.drop 16).map fun b => (b % 16, 0))]

/-- VMXI IMPORT (R130): 256 byte-wide elements, eight blocks of 32. A K4 target of 256 elements fills the lower half of
VD, and the upper half becomes zero (DESIGN CHOICE, log entry 123). -/
def vMxiImport (env : VEnv) (x : VItem) (el : MxElem) : VRes :=
  let els := vLanes (env.reg x.f.va) 8
  let codes := vLanes (env.reg x.f.vb) 8
  let t0 := (env.sca x.f.xa).toInt
  let t : Int := if t0 = -128 then 0 else t0
  let cOf := fun k : Nat => codes.getD (k / 32) 0
  let src := List.zipWith (fun b k =>
    if cOf k = 0xFF then Val.nan else (mxVal el b).scale ⟨1, (cOf k : Int) - 127⟩) els (List.range 256)
  let pow2 := fun e : Int => BitVec.ofNat 64 (rne32 ⟨1, e⟩)
  if x.f.fmt = 5 then
    if el = .e2m1 then
      let t16 := max (t - 16) (-126)
      let bl := ((List.range 8).map fun b =>
        mxfp4Block env.free t16 (codes.getD b 0) ((els.drop (32 * b)).take 32)).flatten
      let (regs, fl) := k4Regs x.f.vd x.f.vc bl
      { emptyRes x with regs := regs, scal := [(x.f.xb, pow2 t16)], flags := fl, amax := amaxUpd x.f src }
    else
      let mags := src.filterMap fun v => match v with
        | .fin _ m e => some (⟨m, e⟩ : Dy)
        | _ => none
      let tt := k4Tensor (mags.foldl (fun a b => if a.lt b then b else a) Dy.zero)
      let (regs, fl) := k4Regs x.f.vd x.f.vc (k4Quant tt .rne src (List.replicate 256 0))
      { emptyRes x with regs := regs, scal := [(x.f.xb, BitVec.ofNat 64 tt)], flags := fl, amax := amaxUpd x.f src }
  else
    let f := fpOf x.f.fmt
    let out := src.map fun v => match v with
      | .nan => (f.nanEnc, flNanIn)
      | v => convF f .rne x.f.sat 0 (v.scale ⟨1, -t⟩)
    { emptyRes x with
      regs := [(x.f.vd, vOfLanes 8 (out.map Prod.fst))]
      scal := [(x.f.xb, pow2 t)]
      flags := orAll (out.map Prod.snd)
      amax := amaxUpd x.f src }

/-- VMXI SCAN (R130). -/
def vMxiScan (env : VEnv) (x : VItem) : VRes :=
  let codes := (vLanes (env.reg x.f.vb) 8).filter fun c => c != 0xFF
  let m := codes.foldl (fun (a : Int) c => max a ((c : Int) - 127)) (env.sca x.f.xb).toInt
  { emptyRes x with scal := [(x.f.xb, BitVec.ofInt 64 m)] }

/-- VRNG (R139). -/
def vRng (env : VEnv) (x : VItem) : VOut :=
  let b := (env.sca x.f.xb).toNat
  if 2 ^ 50 < b + 64 then .breach 0x0D b
  else
    let ids := (env.sca x.f.xa).toNat
    let stream := if x.f.sub = 2 || x.f.sub = 3 then 0 else 2
    let w := (List.range 64).map fun l =>
      draw env.seed stream x.f.aux (ids % 65536) (ids / 65536 % 65536) x.info.step (b + l)
    let va := vLanes (env.reg x.f.va) 32
    let vb := vLanes (env.reg x.f.vb) 32
    .res (laneRes x x.f.vd <| match x.f.sub with
      | 0 => w.map fun v => (v, 0)
      | 1 => w.map fun v => (rne32 ⟨(v / 256 : Nat), -24⟩, 0)
      | 2 => List.zipWith (fun v p => if v < x.f.imm then (0, 0) else fMul fp32 x.f.sat p.1 p.2) w (va.zip vb)
      | _ => w.map fun v => (if v < x.f.imm then 0 else 0xFFFFFFFF, 0))

/-- tag(p): the entry with the largest START at or below p (R141). -/
def tagOf (tab : List (Nat × Nat)) (p : Nat) : Nat :=
  tab.foldl (fun t e => if e.1 ≤ p then e.2 else t) 0xFF

/-- VMASK (R142). -/
def vMask (env : VEnv) (x : VItem) : VRes :=
  let q0 := (env.sca x.f.xa).toNat
  let k0 := (env.sca x.f.xb).toNat
  let keep := fun e : Nat =>
    let q := q0 + e / 16
    let k := k0 + e % 16
    (!bit x.f.sub 0 || k ≤ q) &&
    (!bit x.f.sub 1 || (tagOf env.seqtab q == tagOf env.seqtab k && tagOf env.seqtab q != 0xFF)) &&
    (!bit x.f.sub 2 || (q : Int) - k < x.f.imm)
  let l := List.zipWith (fun v e => if keep e then v else 0xFF800000) (blockOf env.reg x.f.vd) (List.range 256)
  { emptyRes x with regs := blockRegs x.f.vd l, amax := amaxUpd x.f (l.map val32) }

/-- VLOSS ADD (R143): the slots in ascending lane order. -/
def lossGo (tab : List (Nat × Nat)) (sat : Bool) : Nat → List Nat → List (Nat × Nat) × Nat → List (Nat × Nat) × Nat
  | _, [], acc => acc
  | p, v :: vs, (sl, fl) =>
    let tg := tagOf tab p
    if tg = 0xFF then lossGo tab sat (p + 1) vs (sl, fl)
    else
      let (sum, cnt) := sl.getD tg (0, 0)
      let (y, g) := fAdd fp32 sat sum v
      let full := cnt = 2 ^ 32 - 1
      lossGo tab sat (p + 1) vs (sl.set tg (y, if full then cnt else cnt + 1), fl ||| g ||| (if full then flSaturate else 0))

def numbered (l : List (Nat × Nat)) : List (Nat × Nat × Nat) := (List.range l.length).zip l

def vLossAdd (env : VEnv) (x : VItem) : VRes :=
  let (sl, fl) := lossGo env.seqtab x.f.sat (env.sca x.f.xa).toNat (vLanes (env.reg x.f.va) 32) (env.loss, 0)
  { emptyRes x with loss := numbered sl, flags := fl }

/-- VLOSS DUMP (R143). The values of R131 are the FP32 sums it writes, not the integer counts. -/
def vLossDump (env : VEnv) (x : VItem) : VRes :=
  { emptyRes x with
    sram := [(x.addr, (env.loss.map fun e => natLe 4 e.1 ++ natLe 4 e.2).flatten)]
    loss := numbered (List.replicate 48 (0, 0))
    amax := amaxUpd x.f (env.loss.map fun e => val32 e.1) }

/-- tree_combine of R84 with flags: its additions overflow to infinity; NaN operands give the canonical NaN. -/
def treeOne (l : List Nat) : Enc :=
  let r := treeFl fp32 false l
  if l.any fun v => (val32 v).isNan then (fp32.nanEnc, r.2 ||| flNanIn) else r

/-- VTREE (R124). -/
def vTree (env : VEnv) (x : VItem) : VRes :=
  let p := x.f.aux % 16 + 1
  let parts := (List.range p).map fun m => words32 (env.ram (x.addr + 1024 * m) 1024) 256
  let out := (List.range 256).map fun e => treeOne (parts.map fun b => b.getD e 0)
  { emptyRes x with
    regs := blockRegs x.f.vd (out.map Prod.fst)
    flags := orAll (out.map Prod.snd)
    amax := amaxUpd x.f (out.map fun e => val32 e.1) }

/-- The distance of R113. A NaN against an infinity is no case of its first two bullets, so its third applies. -/
def shadowDist (w r : Nat) : Nat :=
  let o := fun x : Nat => if bit x 31 then -((x % 2 ^ 31 : Nat) : Int) else (x : Int)
  match val32 w, val32 r with
  | .nan, .nan => 0
  | .inf a, .inf b => if a == b then 0 else 0xFFFFFFFF
  | .fin _ _ _, .inf _ => 0xFFFFFFFF
  | .fin _ _ _, .nan => 0xFFFFFFFF
  | .inf _, .fin _ _ _ => 0xFFFFFFFF
  | .nan, .fin _ _ _ => 0xFFFFFFFF
  | _, _ => (o w - o r).natAbs

def vScmp (env : VEnv) (x : VItem) : VRes :=
  { emptyRes x with
    strata := some (x.f.aux, x.f.imm, List.zipWith shadowDist (vLanes (env.reg x.f.va) 32) (vLanes (env.reg x.f.vb) 32)) }

/-- VPOP (R145). -/
def vPop (env : VEnv) (x : VItem) : VRes :=
  match env.entry with
  | none => emptyRes x
  | some e =>
    let ids := BitVec.ofNat 64 (e.info.layer % 65536 + e.info.op % 65536 * 65536)
    let r := { emptyRes x with scal := [(x.f.xa, ids)], amax := amaxUpd x.f (e.vals.map val32) }
    if x.f.sub = 0 then { r with regs := blockRegs x.f.vd e.vals } else { r with sram := [(x.addr, bytes32 e.vals)] }

def vLd (env : VEnv) (x : VItem) : VRes :=
  let v := vOfBytes (env.ram x.addr 256)
  let w := fmtBits x.f.fmt
  { emptyRes x with regs := [(x.f.vd, v)], amax := amaxUpd x.f ((vLanes v (max w 1)).map (elemVal x.f.fmt)) }

def vSt (env : VEnv) (x : VItem) : VRes :=
  let v := env.reg x.f.va
  { emptyRes x with sram := [(x.addr, vBytes v)]
                    amax := amaxUpd x.f ((vLanes v (max (fmtBits x.f.fmt) 1)).map (elemVal x.f.fmt)) }

/-- A sequence table image, or none where it breaks R141. -/
def seqTable (bs : List Byte) : Option (List (Nat × Nat)) :=
  let n := (bs.getD 0 0).toNat
  let ent := (List.range n).map fun k => leAt bs (8 + 8 * k) 8
  let starts := ent.map fun e => e % 2 ^ 32
  let tags := ent.map fun e => e / 2 ^ 32 % 256
  if 1 ≤ n && n ≤ 48 && (sub bs 1 7).all (fun b => b == 0) && starts.head? == some 0 &&
    (List.zipWith (fun a b => decide (a < b)) starts (starts.drop 1)).all id &&
    tags.all (fun g => g < 48 || g == 0xFF) && ent.all (fun e => e / 2 ^ 40 == 0)
  then some (starts.zip tags) else none

/-- The result record of any vector instruction. VSET SEQTAB's table is applied by the engine when it begins. -/
def vCompute (env : VEnv) (x : VItem) : VOut :=
  match x.kind with
  | .vld => .res (vLd env x)
  | .vst => .res (vSt env x)
  | .vpop => .res (vPop env x)
  | .valu => .res (vAlu env x)
  | .vfn => .res (vFn env x)
  | .vred => .res (vRed env x)
  | .vsmx => .res (vSmx env x)
  | .vperm => .res (vPerm env x)
  | .vshuf => .res (vShuf env x)
  | .vpack => vPack env x
  | .vunpk => vUnpk env x
  | .vqk4 => vQk4 env x
  | .vmxiImport el => .res (vMxiImport env x el)
  | .vmxiScan => .res (vMxiScan env x)
  | .vrng => vRng env x
  | .vmask => .res (vMask env x)
  | .vlossAdd => .res (vLossAdd env x)
  | .vlossDump => .res (vLossDump env x)
  | .vtree => .res (vTree env x)
  | .vscmp => .res (vScmp env x)
  | .vamax =>
    .res { emptyRes x with scal := [(x.f.xa, BitVec.ofNat 64 (env.amax.getD x.f.amx 0))] }
  | .vflag =>
    .res { emptyRes x with scal := [(x.f.xa, BitVec.ofNat 64 (if bit x.f.sub 0 then env.tileFl else env.strandFl))] }
  | .vset => .res (emptyRes x)
  | .vsetSeqtab =>
    match seqTable (env.ram x.addr 392) with
    | some _ => .res (emptyRes x)
    | none => .breach 0x0E x.addr

end Sys2Proof.Machine
end

