-- ==== Sys2Proof/Machine/Vxe.lean ====
section
/-! DEFINITION. The vector engine as a machine (R118, R145, R146): register and scalar dependencies, beginning the
instruction at the head of the queue, and applying a result. -/
namespace Sys2Proof.Machine

def runOf (r n : Nat) : List Nat := (List.range n).map (r + ·)

/-- Registers per VPACK source run and VUNPK target run (R127, R128). -/
def packQ (x : VItem) : Nat := max (fmtBits x.f.fmt2 / max (fmtBits x.f.fmt) 1) 1
def unpackQ (x : VItem) : Nat := 32 / max (fmtBits x.f.fmt2) 1

/-- The vector registers an instruction reads, and those it writes. -/
def vReads (x : VItem) : List Nat :=
  match x.kind with
  | .vst => [x.f.va]
  | .valu => if x.f.sub = 14 then [] else if x.f.sub = 3 || x.f.sub = 10 then [x.f.va, x.f.vb, x.f.vc]
    else if x.f.sub = 6 || x.f.sub = 7 then [x.f.va] else [x.f.va, x.f.vb]
  | .vfn => [x.f.va]
  | .vred => [x.f.va]
  | .vsmx => [x.f.va, x.f.vc]
  | .vperm => [x.f.va, x.f.vb, x.f.vc]
  | .vshuf => if x.f.sub = 7 then runOf x.f.va 4 else if x.f.sub < 3 then [x.f.va] else [x.f.va, x.f.vb]
  | .vpack => runOf x.f.va (packQ x)
  | .vunpk => if x.f.fmt2 = 5 then [x.f.va, x.f.vb] else [x.f.va]
  | .vqk4 => runOf x.f.va 8
  | .vmxiImport _ => [x.f.va, x.f.vb]
  | .vmxiScan => [x.f.vb]
  | .vrng => if x.f.sub = 2 then [x.f.va, x.f.vb] else []
  | .vmask => runOf x.f.vd 4
  | .vlossAdd => [x.f.va]
  | .vscmp => [x.f.va, x.f.vb]
  | .vld | .vpop | .vlossDump | .vtree | .vamax | .vflag | .vset | .vsetSeqtab => []

def vWrites (x : VItem) : List Nat :=
  match x.kind with
  | .vpop => if x.f.sub = 0 then runOf x.f.vd 4 else []
  | .vsmx => [x.f.vd, x.f.vc]
  | .vshuf => if x.f.sub = 7 then runOf x.f.vd 4 else [x.f.vd]
  | .vunpk => runOf x.f.vd (unpackQ x)
  | .vqk4 => [x.f.vd, x.f.vc]
  | .vmxiImport _ => if x.f.fmt = 5 then [x.f.vd, x.f.vc] else [x.f.vd]
  | .vmask => runOf x.f.vd 4
  | .vtree => runOf x.f.vd 4
  | .vld | .valu | .vfn | .vred | .vperm | .vpack | .vrng => [x.f.vd]
  | .vst | .vmxiScan | .vlossAdd | .vlossDump | .vscmp | .vamax | .vflag | .vset | .vsetSeqtab => []

/-- The scalar registers an instruction reads when the engine begins it, and those it writes (R182). -/
def vScaReads (x : VItem) : List Nat :=
  match x.kind with
  | .vpack => (if isIntFmt x.f.fmt then [x.f.xa] else []) ++ (if x.f.rm = 2 then [x.f.xb] else [])
  | .vunpk => if x.f.fmt2 = 5 then [x.f.xa] else []
  | .vqk4 => [x.f.xa] ++ (if x.f.rm = 2 then [x.f.xb] else [])
  | .vmxiImport _ => [x.f.xa]
  | .vmxiScan => [x.f.xb]
  | .vrng => [x.f.xa, x.f.xb]
  | .vmask => [x.f.xa, x.f.xb]
  | .vlossAdd => [x.f.xa]
  | .vld | .vst | .vpop | .valu | .vfn | .vred | .vsmx | .vperm | .vshuf | .vlossDump | .vtree | .vscmp | .vamax | .vflag
  | .vset | .vsetSeqtab => []

def vScaWrites (x : VItem) : List Nat :=
  match x.kind with
  | .vpop | .vamax | .vflag => [x.f.xa]
  | .vqk4 | .vmxiScan => [x.f.xb]
  | .vmxiImport _ => [x.f.xb]
  | .vld | .vst | .valu | .vfn | .vred | .vsmx | .vperm | .vshuf | .vpack | .vunpk | .vrng | .vmask | .vlossAdd
  | .vlossDump | .vtree | .vscmp | .vset | .vsetSeqtab => []

/-- The tile SRAM spans of an instruction. -/
def vSpans (kind : VKind) (f : VecF) (addr : Nat) : List Span :=
  match kind with
  | .vld => [⟨addr, 256, false⟩]
  | .vst => [⟨addr, 256, true⟩]
  | .vpop => if f.sub = 1 then [⟨addr, 1024, true⟩] else []
  | .vlossDump => [⟨addr, 384, true⟩]
  | .vtree => [⟨addr, 1024 * (f.aux % 16 + 1), false⟩]
  | .vsetSeqtab => [⟨addr, 392, false⟩]
  | _ => []

/-- Whether an instruction issued before id still has to write a scalar register (R182). -/
def Tile.scaWritten (x : Tile) (id r : Nat) : Bool :=
  x.arrQ.any (fun q => q.info.id < id && match q.op with | .mflag dst _ => dst == r | _ => false) ||
  x.vxeQ.any (fun q => q.info.id < id && (vScaWrites q).contains r) ||
  x.vxe.inflight.any fun v => v.info.id < id && v.scal.any fun e => e.1 == r

/-- Whether an instruction issued before id still has to read a scalar register. -/
def Tile.scaToRead (x : Tile) (id r : Nat) : Bool := x.vxeQ.any fun q => q.info.id < id && (vScaReads q).contains r

def Tile.reg (x : Tile) (r : Nat) : W64 := x.regs.getD r 0

/-- Whether a scalar register may be written now: no earlier instruction still has to write or read it (R182, R207). -/
def Tile.scaFree (x : Tile) (r : Nat) : Bool := !x.scaWritten x.nextId r && !x.scaToRead x.nextId r

/-- Dependencies of the head of the queue (R118, R182, R143, R131). -/
def Tile.vHeld (x : Tile) (q : VItem) : Bool :=
  let busy := (x.vxe.inflight.map fun v => v.regs.map Prod.fst).flatten
  (vReads q ++ vWrites q).any (fun r => busy.contains r) ||
  (vScaReads q ++ vScaWrites q).any (fun r => x.scaWritten q.info.id r) ||
  match q.kind with
  | .vlossAdd | .vlossDump => x.vxe.inflight.any fun v => !v.loss.isEmpty
  | .vamax => x.vxe.inflight.any fun v => match v.amax with | some a => a.1 == q.f.amx | none => false
  | _ => false

/-- The oldest visible entry that no VPOP has taken (R145). -/
def Arr.headEntry (a : Arr) : Option QEntry := a.queue.find? fun e => e.visible && e.by_.isNone

/-- The VPOP of issue number id takes that entry. -/
def takeEntry (id : Nat) : List QEntry → List QEntry
  | [] => []
  | e :: r => if e.visible && e.by_.isNone then { e with by_ := some id } :: r else e :: takeEntry id r

def State.jobSeed (s : State) (t : Nat) : Nat :=
  match s.partOfTile t with
  | some p => (s.part p).seed
  | none => 0

def State.vEnv (s : State) (t : Nat) (q : VItem) : VEnv :=
  let x := s.tile t
  { reg := fun r => x.vxe.regs.getD r 0
    sca := fun r => x.regs.getD r 0
    ram := fun a n => s.sramRead t a n
    seqtab := x.vxe.seqtab
    loss := x.vxe.loss
    amax := x.vxe.amax
    strandFl := match x.holds q.info with | some sl => sl.flags | none => 0
    tileFl := x.vxe.tileFlags
    entry := x.arr.headEntry
    seed := s.jobSeed t
    free := (Config.freeWord s.free).toNat }

/-- What beginning an instruction changes at once: VPOP takes its entry, VSET SEQTAB its table, VFLAG and VAMAX clear
(R133, R131). -/
def Tile.vTake (x : Tile) (q : VItem) (ram : Nat → Nat → List Byte) : Tile :=
  match q.kind with
  | .vpop => { x with arr := { x.arr with queue := takeEntry q.info.id x.arr.queue } }
  | .vsetSeqtab =>
    match seqTable (ram q.addr 392) with
    | some l => { x with vxe := { x.vxe with seqtab := l } }
    | none => x
  | .vflag =>
    if bit q.f.sub 1 then
      if bit q.f.sub 0 then { x with vxe := { x.vxe with tileFlags := 0 } }
      else if (x.holds q.info).isSome then x.modSlot q.info.slot fun sl => { sl with flags := 0 } else x
    else x
  | .vamax => if q.f.sub = 1 then { x with vxe := { x.vxe with amax := x.vxe.amax.set q.f.amx 0 } } else x
  | _ => x

/-- Begins the vector instruction at the head of the queue if it can; none where it waits. -/
def State.vxeBegin (s : State) (t : Nat) : Option State :=
  let x := s.tile t
  match x.vxeQ with
  | [] => none
  | q :: rest =>
    let spans := vSpans q.kind q.f q.addr
    if x.vHeld q || x.blocked q.info.id spans then none
    else if q.kind = .vpop && x.arr.headEntry.isNone then none
    else
      let s1 := s.modTile t fun y => { y with vxeQ := rest }
      match x.recompHit spans with
      | some a => some ((s1.modTile t fun y => y.release q.info.id).fault t q.info true 1 0x06 a)
      | none =>
        let env := s.vEnv t q
        let s2 := { s1 with free := match q.kind with | .vmxiImport _ => s1.free + 1 | _ => s1.free }
        match vCompute env q with
        | .breach c d => some ((s2.modTile t fun y => y.release q.info.id).fault t q.info true 1 c d)
        | .res r =>
          let gear := (s.region (regionOfTile t)).gear
          let lines := (spans.map fun sp => sp.hi - sp.lo).sum
          let s2 := (s2.charge (dieOfTile t) gear q.info.layer q.info.op evVector 1).charge (dieOfTile t) gear q.info.layer
            q.info.op evSram lines
          let s3 := s2.modTile t fun y =>
            let y := y.vTake q env.ram
            { y with vxe := { y.vxe with inflight := y.vxe.inflight ++ [r] } }
          match (spans.filter fun sp => !sp.wr).findSome? fun sp => s.sramBadIn t sp.at_ sp.len with
          | some a => some ((s3.postParity t a rdVxe q.info.layer q.info.op).fault t q.info true 2 2 a)
          | none => some s3

end Sys2Proof.Machine
end

