-- ==== Sys2Proof/Machine/Pump.lean ====
section
/-! DEFINITION. The engines of a tile begin what stands at the heads of their queues (R180, R181), the signal unit sends
(R203), and the porter's requests leave. -/
namespace Sys2Proof.Machine

/-- Whether an instruction is one that a launch issued before id. -/
def Info.before (i : Info) (inst id : Nat) : Bool := i.inst == inst && decide (i.id < id)

/-- Whether an MMA of a launch issued before id has neither handed off its entry nor written its splice panel (R183). -/
def Tile.openMma (x : Tile) (inst id : Nat) : Bool :=
  x.arrQ.any (fun q => q.info.before inst id && match q.op with | .mma _ _ => true | .mscl _ _ _ | .mflag _ _ => false) ||
    x.arr.mmas.any fun m => m.info.before inst id

/-- Whether an instruction of a launch issued before id has not completed, by class: array, VXE, porter, signal unit
(R202). -/
def Tile.openArr (x : Tile) (inst id : Nat) : Bool :=
  x.arrQ.any (fun q => q.info.before inst id) || x.arr.mmas.any fun m => m.info.before inst id
def Tile.openVxe (x : Tile) (inst id : Nat) : Bool :=
  x.vxeQ.any (fun q => q.info.before inst id) || x.vxe.inflight.any fun r => r.info.before inst id
def Tile.openPor (x : Tile) (inst id : Nat) : Bool := (x.porQ ++ x.ops).any fun o => o.info.before inst id && !o.dead
def Tile.openSig (x : Tile) (inst id : Nat) : Bool := x.sigQ.any fun q => q.info.before inst id

/-- Whether everything a launch issued before id has completed (R203). -/
def Tile.quiet (x : Tile) (inst id : Nat) : Bool :=
  !(x.openArr inst id || x.openVxe inst id || x.openPor inst id || x.openSig inst id)

/-- Whether all that R183 lists is done for a launch. -/
def Tile.workDone (x : Tile) (inst : Nat) : Bool :=
  !(x.openMma inst x.nextId || x.openVxe inst x.nextId || x.openPor inst x.nextId || x.openSig inst x.nextId)

/-- Whether the queue of signals from a tile's region to another region is full (R165). -/
def State.fliesFull (s : State) (t u : Nat) : Bool :=
  regionOfTile t != regionOfTile u &&
    decide (8 ≤ (s.fly.filter fun f => regionOfTile f.src == regionOfTile t && regionOfTile f.tile == regionOfTile u).length)

/-- The signal at the head of the signal unit's queue is sent (R203), when the queue to its target's region takes it. -/
def State.sigBegin (s : State) (t : Nat) : Option State :=
  let x := s.tile t
  match x.sigQ with
  | [] => none
  | q :: rest =>
    if q.after && !x.quiet q.info.inst q.info.id || s.fliesFull t q.tile then none
    else
      let s1 := s.modTile t fun x => { x with sigQ := rest }
      some { s1 with fly := s1.fly ++ [⟨t, q.tile, q.tok, q.cnt⟩] }

/-- The operation at the head of the porter's queue begins; a release begins by its own event (R269). -/
def State.porBegin (s : State) (t : Nat) : Option State :=
  let x := s.tile t
  match x.porQ with
  | [] => none
  | o :: _ =>
    if x.blocked o.info.id (porSpans o.kind o.f o.elemOfs) then none
    else match o.kind with
      | .reefPut b g => s.reefPutBegin t o b g
      | .reefClose g => s.reefCloseBegin t o g
      | .prd | .pgath | .pscat | .pwr | .pland | .pamo => if o.isRelease then none else some (s.porStart t o)

/-- One begin of one engine, in a fixed order: array, VXE, porter, signal unit. -/
def State.beginOne (s : State) (t : Nat) : Option State :=
  match s.arrBegin t with
  | some s1 => some s1
  | none =>
    match s.vxeBegin t with
    | some s1 => some s1
    | none =>
      match s.porBegin t with
      | some s1 => some s1
      | none => s.sigBegin t

def State.beginAll : Nat → State → Nat → State
  | 0, s, _ => s
  | n + 1, s, t =>
    match s.beginOne t with
    | some s1 => State.beginAll n s1 t
    | none => s

/-- Everything that can begin on a tile begins, and the porter's requests leave. -/
def State.pump (s : State) (t : Nat) : State :=
  if s.live t && !s.held .tile t then State.porSend 256 (State.beginAll 16 s t) t else s

/-- Every tile of a region, where its queue to another had been full (R165). -/
def State.pumpRegion (s : State) (r : Nat) (full : Bool) : State :=
  if full then (List.range 12).foldl (fun s k => s.pump (12 * r + k)) s else s

/-- Every tile of a partition. -/
def State.pumpPart (s : State) (p : Nat) : State := (s.tilesOf p).foldl (fun s t => s.pump t) s

/-! Release begins (R269) and the answers of requests (R234). -/

def State.releaseBegin (s : State) (t op : Nat) : State :=
  let x := s.tile t
  match x.porQ with
  | [] => s
  | o :: _ =>
    if o.info.id = op && o.isRelease && s.live t && !x.blocked op (porSpans o.kind o.f o.elemOfs) && s.released o.f.scope t o.info.inst o.info.id
    then (s.porStart t o).pump t
    else s

/-- Whether a frozen tile still takes returns: while handshakes settle (R254). -/
def State.takesReturns (s : State) (t : Nat) : Bool :=
  match s.partOfTile t with
  | some p => !(s.geode p).frozen || (s.geode p).phase == .settling
  | none => true

def State.requestComplete (s : State) (t op req : Nat) (crc : CrcOutcome) : State :=
  if !s.takesReturns t then s
  else
    let failed := match (s.tile t).ops.find? fun o => o.info.id == op with
      | some o => if o.isWrite && o.node.isNone then
          ((o.resps.find? fun x => x.req == req && !x.fin.good).map Resp.fin) else none
      | none => none
    let s1 := match failed with
      | some fin => s.dropFlags t op fin
      | none => s
    match s1.takeAnswer t op req crc with
    | some s2 => s2.pump t
    | none => s

def execReleaseBegin (t op : Nat) (s : State) : Out := onInst (t < 384) s fun s => s.releaseBegin t op

def execPorterRequestComplete (t op req : Nat) (crc : CrcOutcome) (s : State) : Out :=
  onInst (t < 384) s fun s => s.requestComplete t op req crc

end Sys2Proof.Machine
end

