-- ==== Sys2Proof/Machine/Packet.lean ====
section
/-! DEFINITION. Fabric packets at this node (10): forwarding (R313), requests served for other nodes (R303, R304), landing
flags (R305, R306), answers and refusals to own requests (R312, R314), management messages (R308), the throttle of R301,
and the accesses of the
application cores (R225, R277, R293). -/
namespace Sys2Proof.Machine

/-! Forwarding. -/

def State.forward (s : State) (k : Nat) : State :=
  match s.pktAt k with
  | none => s
  | some x =>
    if some x.pkt.dest = s.nodeId then s
    else match s.queuePkt x.pkt x.port x.at_ with
      | some s1 => s1.takePkt k x
      | none => (s.takePkt k x).discardPkt x.pkt

def execPacketForward (k : Nat) (s : State) : Out := .next (s.forward k)

/-! Requests of other nodes. -/

/-- Why a request is refused (R304, Table 10-14), or the partition it is served for. A tile's code region is unmapped for other
nodes (DESIGN CHOICE, log entry 144). -/
def State.admitReq (s : State) (q : Packet) : Nat ⊕ Nat :=
  let write := ptWrite ≤ q.ptype
  match s.partOfJob q.job with
  | none => .inl rsNoJob
  | some p =>
    if (s.part p).bound.isNone then .inl rsPartReset
    else if isTileSram q.offset then
      let u := tileOfOff q.offset
      if q.ptype = ptAtomic then .inl rsAmoTarget
      else if q.ptype = ptReadItem || q.ptype = ptWriteItem then .inl rsUnmapped
      else if s.partOfTile u ≠ some p then .inl rsTileForeign
      else if (s.region (regionOfTile u)).fenced then .inl rsTargetFault
      else if (s.tile u).inCode (aOfOff q.offset) then .inl rsUnmapped
      else .inr p
    else match s.allocAt p q.offset with
      | none => .inl (if q.ptype = ptAtomic then rsAmoTarget else rsUnmapped)
      | some al =>
        if write && al.e.ro then .inl rsReadonly
        else if (s.stk (place al q.offset).1).lost then .inl rsTargetFault
        else .inr p

/-- Whether the location of a request can be reached now. -/
def State.reachable (s : State) (p : Nat) (off : Nat) : Bool :=
  if isTileSram off then !s.held .tile (tileOfOff off)
  else match s.allocAt p off with
    | some al => s.stackReady al off
    | none => true

def respType (ptype : Nat) : Nat :=
  if ptype = ptRead then ptReadRsp else if ptype = ptReadItem then ptItemRsp
  else if ptype = ptAtomic then ptAtomicRsp else ptWriteAck

def Packet.homeKind (q : Packet) : HomeKind :=
  if q.ptype = ptRead then .readLine
  else if q.ptype = ptReadItem then .readItem
  else if q.ptype = ptWriteItem then .writeItem (q.data.take 32)
  else if q.ptype = ptAtomic then .atomic (bits q.arg 0 4) (bit q.arg 4) (q.data.take 64)
  else .writeLine q.arg (q.data.take 64)

/-- Carries out a request that was let in: the state, whether its location was good, and the data of the answer. -/
def State.apply (s : State) (p : Nat) (q : Packet) : State × Bool × List Byte :=
  let off := q.offset
  if isTileSram off then
    let u := tileOfOff off
    let a := aOfOff off
    if q.ptype = ptRead then
      match s.sramBadIn u a 64 with
      | some b => (s.postParity u b rdPorter q.layer q.op, false, [])
      | none => (s, true, s.sramRead u a 64)
    else (s.sramMask u a q.arg (q.data.take 64), true, [])
  else match s.allocAt p off with
    | none => (s, false, [])
    | some al =>
      let cls := if q.ptype = ptAtomic then 2 else if q.ptype = ptReadItem || q.ptype = ptWriteItem then 3 else 4
      let a := s.homeDo al ⟨.remote q.src q.txn, off, q.homeKind, cls, false, q.scope, false, q.layer, q.op, 0, 0, [], s.now⟩
      (a.s, a.fin == .ok, if q.ptype = ptAtomic && !bit q.arg 4 then [] else a.data)

/-- Serves a request of one of the types READ to ATOMIC. -/
def State.serve (s : State) (k : Nat) (x : InPkt) : State :=
  let q := x.pkt
  match s.admitReq q with
  | .inl reason => (s.takePkt k x).refusePkt q reason
  | .inr p =>
    if !s.reachable p q.offset then s
    else
      let (s1, good, data) := (s.takePkt k x).apply p q
      if good then s1.answerPkt q (respType q.ptype) 0 0 data else s1.refusePkt q rsTargetFault

def onReq (ptype k : Nat) (s : State) : Out :=
  .next (onPacket s k (fun q => q.ptype == ptype) fun x s => s.serve k x)

def execReadReq (k : Nat) (s : State) : Out := onReq ptRead k s
def execReadItemReq (k : Nat) (s : State) : Out := onReq ptReadItem k s
def execWriteReq (k : Nat) (s : State) : Out := onReq ptWrite k s
def execWriteItemReq (k : Nat) (s : State) : Out := onReq ptWriteItem k s
def execAtomicReq (k : Nat) (s : State) : Out := onReq ptAtomic k s

/-! Landing flags at the destination. -/

def Packet.flagLine (q : Packet) (p now : Nat) (waits : Bool) (owe : Option (Nat × Nat)) : FlagLine where
  who := .remote q.src q.txn
  off := q.offset
  data := q.data.take 64
  ttok := bits q.arg 0 4
  tcnt := bits q.arg 4 4
  waits := waits
  since := now
  layer := q.layer
  op := q.op
  strandId := 0
  seqTag := 0
  part := p
  scope := q.scope
  owe := owe

def flagCancelled : Nat := Config.ackCancelled % 255 + 1
def flagExpired : Nat := Config.ackExpired % 255 + 1

/-- Lands a flag line of another node and answers it. -/
def State.landRemote (s : State) (fl : FlagLine) : State :=
  let a := s.landFlag fl
  if a.fin = .ok then
    let s1 := a.s.tellFlag fl ptLandAck 0 0
    if isTileSram fl.off then s1.pump (tileOfOff fl.off) else s1
  else a.s.tellFlag fl ptRefuse 0 rsTargetFault

/-- LAND (R305): with WAITS = 0 it lands, else it enters the flag buffer, or waits for an entry with its credits kept. -/
def State.land (s : State) (k : Nat) (x : InPkt) : State :=
  let q := x.pkt
  match s.admitReq q with
  | .inl reason => (s.takePkt k x).refusePkt q reason
  | .inr p =>
    if !s.reachable p q.offset then s
    else if !bit q.arg 8 then (s.takePkt k x).landRemote (q.flagLine p s.now false none)
    else
      let d := s.dieOfOff p q.offset
      if (s.die d).flagWait.isEmpty && (s.die d).flags.length < 1024 then
        let fl := q.flagLine p s.now true none
        ((s.takePkt k x).modDie d fun e => { e with flags := e.flags ++ [fl] }).tellFlag fl ptLandHeld 0 0
      else
        let fl := q.flagLine p s.now true (some (x.port, q.dclass))
        (s.modFab fun f => { f with inbox := f.inbox.eraseIdx k }).modDie d fun e => { e with flagWait := e.flagWait ++ [fl] }

def execLandReq (k : Nat) (s : State) : Out :=
  .next (onPacket s k (fun q => q.ptype == ptLand) fun x s => s.land k x)

/-- The die and place of a held flag line of another node's transaction. -/
def State.heldFlag (s : State) (node txn : Nat) : Option (Nat × FlagLine) :=
  (List.range 4).findSome? fun d =>
    ((s.die d).flags.find? fun fl => fl.waits && fl.who == .remote node txn).map fun fl => (d, fl)

def State.dropFlag (s : State) (d : Nat) (fl : FlagLine) : State :=
  (s.modDie d fun e => { e with flags := e.flags.erase fl }).flagFill d

/-- LAND_GO lands a held flag, when its place takes it; for one that is gone it is discarded and counted (Table 10-17). -/
def execLandGo (k : Nat) (s : State) : Out :=
  .next (onPacket s k (fun q => q.ptype == ptLandGo) fun x s =>
    let s1 := s.takePkt k x
    match s.heldFlag x.pkt.src x.pkt.txn with
    | some (d, fl) => if s.flagPlaceReady fl then (s1.dropFlag d fl).landRemote fl else s
    | none => s1.countDiscard)

def execLandCancel (k : Nat) (s : State) : Out :=
  .next (onPacket s k (fun q => q.ptype == ptLandCancel) fun x s =>
    let s1 := s.takePkt k x
    match s.heldFlag x.pkt.src x.pkt.txn with
    | some (d, fl) => (s1.dropFlag d fl).tellFlag fl ptLandAck flagCancelled 0
    | none => s1.countDiscard)

def execFlagBufferGrant (d : Nat) (s : State) : Out := onInst (d < 4) s fun s => s.flagGrant d

/-- R306: a flag held for four timeouts is discarded, logged and reported; the timer of a partition that a dump has settled
stands still (R474). -/
def execFlagExpiry (d k : Nat) (s : State) : Out :=
  onInst (d < 4) s fun s =>
    match (s.die d).flags[k]? with
    | none => s
    | some fl =>
      if !fl.waits || s.timersStopped fl.part || s.now < fl.since + 4 * s.fabTimeoutNs fl.part then s
      else
        let node := match fl.who with | .remote n _ => n | .tile _ _ _ => 0 | .core => 0 | .engine _ => 0
        (((s.dropFlag d fl).post (some fl.part) 0x0016 node fl.layer fl.op fl.off).log 0x000D fl.part [node, fl.off]).tellFlag
          fl ptLandAck flagExpired 0

/-! Answers to own requests. -/

def State.reqOf (s : State) (txn : Nat) : Option FabReq := s.fabric.reqs.find? fun q => q.txn == txn
def State.dropReq (s : State) (txn : Nat) : State :=
  s.modFab fun f => { f with reqs := f.reqs.filter fun q => q.txn != txn }
def State.modReq (s : State) (txn : Nat) (g : FabReq → FabReq) : State :=
  s.modFab fun f => { f with reqs := f.reqs.map fun q => if q.txn = txn then g q else q }

def FabReq.sameStrand (a b : FabReq) : Bool :=
  a.node == b.node && a.strand == b.strand && match a.who, b.who with | .tile t _ _, .tile u _ _ => t == u | _, _ => false

/-- The requests before a flag line of the same strand to the same node that still lack their response. -/
def openBefore (l : FabReq) : List FabReq → Bool
  | [] => false
  | q :: r => if q.txn = l.txn then false else (q.sameStrand l && ptWrite ≤ q.ptype) || openBefore l r

/-- LAND_GO or LAND_CANCEL for every held flag whose earlier requests have all been answered (R305). -/
def State.settleLands (s : State) : State :=
  (s.fabric.reqs.filter fun q => q.ptype == ptLand && q.held && !q.going && !openBefore q s.fabric.reqs).foldl (fun s q =>
    let t := if q.bad.isSome then ptLandCancel else ptLandGo
    (s.modReq q.txn fun x => { x with going := true }).inject
      (s.mkPkt t 1 q.node q.off 1 ((s.jobOf q.part).getD 0) q.txn 0 0 0 0 [])) s

/-- A failed request: the flag lines after it of its strand to that node will not land. -/
def markBad (l : FabReq) (why : Nat × Nat × Nat) (seen : Bool) : List FabReq → List FabReq
  | [] => []
  | q :: r =>
    if q.txn = l.txn then q :: markBad l why true r
    else (if seen && q.sameStrand l && q.ptype == ptLand && q.bad.isNone then { q with bad := some why } else q) ::
      markBad l why seen r

/-! Core accesses (R225, R277, R293). -/

/-- The atomics the cores may use. -/
def coreAop (aop : Nat) : Bool := [0, 1, 3, 4, 5, 6, 8, 9, 10, 11].contains aop

/-- An operand that leaves an element as it is. -/
def aopIdentity (aop : Nat) : Nat :=
  let w := 8 * aopBytes aop
  if aop = 3 || aop = 4 then 2 ^ (w - 1) - 1
  else if aop = 5 || aop = 6 then 2 ^ w - 1
  else if aop = 8 || aop = 9 then 2 ^ (w - 1)
  else 0

/-- A line of operands that acts on the element at byte lo only. -/
def coreLine (aop lo v : Nat) : List Byte :=
  let w := aopBytes aop
  ((List.range (64 / w)).map fun k => natLe w (if k = lo / w then v else aopIdentity aop)).flatten

def State.coreFault (s : State) : State := { s with coreAns := some ⟨BitVec.ofNat 64 (2 ^ 64 - 1), true⟩ }

/-- What a core access gets back: 64 bits of a line, or all ones and an access fault. -/
def State.coreData (s : State) (off : Nat) (ok : Bool) (data : List Byte) : State :=
  if ok then { s with coreAns := some ⟨BitVec.ofNat 64 (leAt data (off % 64 / 8 * 8) 8), false⟩ } else s.coreFault
def State.coreAnswer (s : State) (q : FabReq) (fin : ReqEnd) (data : List Byte) : State := s.coreData q.off (fin == .ok) data

/-- A line access of a core: packet type, ARG, scope and data. A store after FENCE ow,ow is a release (after). -/
def coreReq (ofs : Nat) (after : Bool) : CoreOp → Option (Nat × Nat × Nat × List Byte)
  | .load acq => some (ptRead, 0, if acq then 4 else 0, [])
  | .store rel mask v =>
    let lo := ofs % 64 / 8 * 8
    some (ptWrite, mask % 256 * 2 ^ lo, if rel || after then 4 else 0, List.replicate lo 0 ++ natLe 8 v ++ List.replicate (56 - lo) 0)
  | .amo acq rel aop v =>
    if coreAop aop then some (ptAtomic, aop + 16, if acq || rel || after then 4 else 0, coreLine aop (ofs % 64) v) else none
  | .lrsc => none
  | .fence _ _ => none

/-- Whether an access is a store that takes the place after a FENCE ow,ow. -/
def coreStore : CoreOp → Bool
  | .store _ _ _ => true
  | .amo _ _ _ _ => true
  | .load _ => false
  | .lrsc => false
  | .fence _ _ => false

/-- An access to HBM of this node at its home (R277); none while the controllers take no command. -/
def State.coreLocal (s : State) (al : Option Alloc) (off : Nat) (op : CoreOp) : Option State :=
  match al, coreReq off s.coreRel op with
  | some al, some (t, arg, scope, data) =>
    if !s.stackReady al off then none
    else
      let line := off / 64 * 64
      let ph := place al line
      let kind := if t = ptRead then HomeKind.readLine else if t = ptAtomic then .atomic (bits arg 0 4) true data else .writeLine arg data
      let a := s.homeDo al ⟨.core, line, kind, if t = ptAtomic then 2 else 4, false, scope, false, 0, 0, 0, 0, [], s.now⟩
      let tag := ((s.cached (ph.1 / 5) (physKey ph / 64)).bind fun l => l.tag).map fun g => (ph.1 / 5, g.1, g.2)
      let s1 := a.s.coreData off (a.fin == .ok) a.data
      some { s1 with
        coreRel := s1.coreRel && !coreStore op
        coreLoads := if t = ptRead && scope = 0 then s1.coreLoads ++ tag.toList else s1.coreLoads }
  | _, _ => some s.coreFault

/-- An access to another node through a window becomes a request (R293); none while earlier ones went by another route
(R298). -/
def State.coreRemote (s : State) (win : Window) (ofs : Nat) (op : CoreOp) : Option State :=
  match coreReq ofs s.coreRel op with
  | none => some s.coreFault
  | some (t, arg, scope, data) =>
    let txn := s.fabric.nextTxn % 2 ^ 32
    if s.unreachable win.node then some s.coreFault
    else if s.fabric.reqs.any fun q => q.node == win.node && q.route != s.routeCode win.node then none
    else match s.queuePkt (s.mkPkt t 0 win.node (ofs / 64 * 64) 1 win.job txn 0 0 arg scope data) 16 s.now with
      | none => some s.coreFault
      | some s1 =>
        let s2 := s1.modFab fun f => { f with
          nextTxn := f.nextTxn + 1
          reqs := f.reqs ++ [⟨txn, .core, win.part, 0, win.node, ofs, t, s.routeCode win.node, s.now, false, false, none⟩] }
        some { s2 with coreRel := s2.coreRel && !coreStore op }

/-- A FENCE (R277): one whose predecessors include device output waits for the earlier stores; ir,ir makes the loads before it
acquires, ow,ow the store after it a release. -/
def State.coreFence (s : State) (pred succ : Nat) : Option State :=
  let open_ := fun w : Bool => s.fabric.reqs.any fun q => q.who == .core && decide (ptWrite ≤ q.ptype) == w
  if bit pred 2 && open_ true || bit pred 3 && open_ false then none
  else
    let acq := bit pred 3 && bit pred 1 && bit succ 3 && bit succ 1
    let s1 := if acq then
        let t := s.coreLoads.foldl (fun s l => s.modDie l.1 fun x => scopeTest x (some l.2) .core 4 0) s
        { t with coreLoads := [] }
      else s
    some { s1 with coreRel := s1.coreRel || bit pred 2 && bit pred 0 && bit succ 2 && bit succ 0 }

/-- One access to the device-memory window or a fabric window; none where it waits. -/
def State.coreTry (s : State) (w : CoreWin) (ofs : Nat) (op : CoreOp) : Option State :=
  match op, w with
  | .fence p q, _ => s.coreFence p q
  | op, .device => s.coreLocal (s.allocs.find? fun al => al.has ofs) ofs op
  | op, .fabric k =>
    match s.fabric.windows.find? fun e => e.1 == k with
    | none => some s.coreFault
    | some (_, win) =>
      if some win.node = s.nodeId then s.coreLocal (s.allocAt win.part ofs) ofs op else s.coreRemote win ofs op
  | _, .control => some s

/-- The accesses that wait go on, in order. -/
def State.coreGo (s : State) : State :=
  (List.range s.coreWait.length).foldl (fun s _ =>
    match s.coreWait with
    | [] => s
    | (w, ofs, op) :: r => match { s with coreWait := r }.coreTry w ofs op with
      | some s1 => s1
      | none => s) s

/-- A failed write of a tile to another node: the flag lines after it will not land (R305). -/
def State.markFailed (s : State) (q : FabReq) (fin : ReqEnd) : State :=
  match fin.cause with
  | none => s
  | some why =>
    if fin.good || q.ptype < ptWrite then s
    else
      let s1 := s.modFab fun f => { f with reqs := markBad q why false f.reqs }
      match q.who with
      | .tile t _ _ => s1.noteBad t q.strand true q.node why
      | .remote _ _ => s1
      | .core => s1
      | .engine _ => s1

def ReqEnd.answered : ReqEnd → Bool
  | .timeout _ => false
  | .ok => true
  | .dataBad _ _ => true
  | .refused _ _ _ => true
  | .lost _ => true
  | .aborted _ => true

/-- Completes a request of this node; an answer's round trip is posted (Table 16-3). -/
def State.endFab (s : State) (q : FabReq) (fin : ReqEnd) (data : List Byte) : State :=
  let s0 := if fin.answered then s.emitReq q srcFabRtt (s.now - q.sentAt) else s
  let s1 := ((s0.markFailed q fin).dropReq q.txn).settleLands
  let s2 := match q.who with
    | .tile t op req => s1.answerTile t op ⟨req, fin, data, none⟩
    | .core => s1.coreAnswer q fin data
    | .remote _ _ => s1
    | .engine _ => s1
  s2.coreGo

/-- When a request's timer expires (R314). -/
def State.expiry (s : State) (q : FabReq) : Nat := q.sentAt + s.fabTimeoutNs q.part

/-- A response that arrived after the timer of its request expired: the request has timed out (R314). -/
def State.lateOr (s : State) (q : FabReq) (x : InPkt) (f : State → State) : State :=
  if s.expiry q < x.at_ then s.countDiscard.endFab q (.timeout q.off) [] else f s

/-- A response of the type its request expects; any other is discarded and counted (R314). -/
def State.answerIn (s : State) (k : Nat) (x : InPkt) (want : Nat → Bool) : State :=
  let s1 := s.takePkt k x
  match s1.reqOf x.pkt.txn with
  | none => s1.countDiscard
  | some q =>
    if q.node ≠ x.pkt.src || !want q.ptype then s1.countDiscard
    else s1.lateOr q x fun s => s.endFab q .ok (if q.ptype = ptAtomic && x.pkt.data.isEmpty then [] else x.pkt.data)

def onRsp (ptype : Nat) (want : Nat → Bool) (k : Nat) (s : State) : Out :=
  .next (onPacket s k (fun q => q.ptype == ptype) fun x s => s.answerIn k x want)

def execReadRsp (k : Nat) (s : State) : Out := onRsp ptReadRsp (fun t => t == ptRead) k s
def execItemRsp (k : Nat) (s : State) : Out := onRsp ptItemRsp (fun t => t == ptReadItem) k s
def execWriteAck (k : Nat) (s : State) : Out := onRsp ptWriteAck (fun t => t == ptWrite || t == ptWriteItem) k s
def execAtomicRsp (k : Nat) (s : State) : Out := onRsp ptAtomicRsp (fun t => t == ptAtomic) k s

/-- LAND_ACK: landed, or discarded, which completes the PLAND with the status of the request that failed before it, or as
LAND_CANCELLED (R264, R305, R306). -/
def execLandAck (k : Nat) (s : State) : Out :=
  .next (onPacket s k (fun q => q.ptype == ptLandAck) fun x s =>
    let s1 := s.takePkt k x
    match s1.reqOf x.pkt.txn with
    | none => s1.countDiscard
    | some q =>
      if q.node ≠ x.pkt.src || q.ptype ≠ ptLand then s1.countDiscard
      else s1.lateOr q x fun s =>
        if bits x.pkt.arg 0 8 = 0 then s.endFab q .ok []
        else match q.bad with
          | some (cls, code, detail) => s.endFab q (.refused cls code detail) []
          | none => s.endFab q (.refused 6 4 q.off) [])

def execLandHeld (k : Nat) (s : State) : Out :=
  .next (onPacket s k (fun q => q.ptype == ptLandHeld) fun x s =>
    let s1 := s.takePkt k x
    match s1.reqOf x.pkt.txn with
    | some q =>
      if q.node = x.pkt.src && q.ptype = ptLand then (s1.modReq q.txn fun y => { y with held := true }).settleLands
      else s1.countDiscard
    | none => s1.countDiscard)

/-- REFUSE: a FABRIC fault REFUSED, or ROUTE_DEAD, with the offset and the reason (R312). -/
def execRefuse (k : Nat) (s : State) : Out :=
  .next (onPacket s k (fun q => q.ptype == ptRefuse) fun x s =>
    let s1 := s.takePkt k x
    match s1.reqOf x.pkt.txn with
    | none => s1.countDiscard
    | some q =>
      let reason := bits x.pkt.arg 8 8
      s1.lateOr q x fun s =>
        s.endFab q (.refused 6 (if reason = rsRouteDead then 3 else 2) (q.off % 2 ^ 42 + reason * 2 ^ 56)) [])

/-- Whether the response to a request stands in the inbox, there no later than its timer's expiry. -/
def State.answerHere (s : State) (q : FabReq) : Bool :=
  s.fabric.inbox.any fun x => x.pkt.txn == q.txn && some x.pkt.dest == s.nodeId && decide (x.at_ ≤ s.expiry q) &&
    (x.pkt.ptype == ptRefuse || x.pkt.src == q.node && decide (ptReadRsp ≤ x.pkt.ptype ∧ x.pkt.ptype ≤ ptLandAck))

/-- R314: the response is granted before the expiry; the timers of a partition that a dump has settled stand still (R474). -/
def execFabTimeout (txn : Nat) (s : State) : Out :=
  .next (match s.reqOf txn with
    | some q => if s.now < s.expiry q || s.timersStopped q.part || s.answerHere q then s else s.endFab q (.timeout q.off) []
    | none => s)

/-! Management messages (R308). -/

def mgtCount (l : List (Nat × Nat)) (node : Nat) : Nat := match l.find? fun e => e.1 == node with | some e => e.2 | none => 0

/-- A message is taken from a node of a join list while fewer than 16 of that node are unanswered. -/
def State.mgtIn (s : State) (k : Nat) (x : InPkt) : State :=
  let s1 := s.takePkt k x
  let node := x.pkt.src
  let listed := s.parts.any fun p => match p.join with | some j => j.joinList.contains node | none => false
  if !listed then s1.refusePkt x.pkt rsNoJob
  else if 16 ≤ (s.fabric.mgtGot.filter fun q => q.1.src == node).length then s1.refusePkt x.pkt rsQuota
  else s1.modFab fun f => { f with mgtGot := f.mgtGot ++ [(x.pkt, some s.now)] }

def execMgtMsg (k : Nat) (s : State) : Out :=
  .next (onPacket s k (fun q => q.ptype == ptMgtMsg) fun x s => s.mgtIn k x)

/-- A response from another Capstan is received. -/
def execMgtRsp (k : Nat) (s : State) : Out :=
  .next (onPacket s k (fun q => q.ptype == ptMgtRsp) fun x s => s.takePkt k x)

/-! The throttle of R301: reason bit 18. -/

def thFabric : Nat := 18
def setThrot (l : List (Nat × Nat)) (p reason : Nat) (on : Bool) : List (Nat × Nat) :=
  modAt l p fun e =>
    let b := 2 ^ reason
    if on then (e.1 ||| b, e.2 ||| b) else (e.1 - (e.1 &&& b), e.2)

/-- Whether a request of tile t has waited longer than FAB_THROTTLE for the credits of its packet. -/
def State.fabStuck (s : State) (t : Nat) : Bool :=
  s.fabric.ports.any fun y => y.out.any fun o => decide (o.since + s.fabric.throttleNs < s.now) && match s.reqOfPkt o with
    | some q => (match q.who with | .tile u _ _ => u == t | .remote _ _ => false | .core => false | .engine _ => false)
    | none => false

def State.fabWait (s : State) (t : Nat) : State :=
  match s.partOfTile t with
  | none => s
  | some p =>
    if s.fabStuck t then
      s.modPower fun x => { x with throt := setThrot x.throt p thFabric true, fabThrotAt := x.fabThrotAt.set p (some s.now) }
    else match s.power.fabThrotAt.getD p none with
      | some at_ =>
        if at_ + 1000000 ≤ s.now then
          s.modPower fun x => { x with throt := setThrot x.throt p thFabric false, fabThrotAt := x.fabThrotAt.set p none }
        else s
      | none => s

def execFabThrottle (t : Nat) (s : State) : Out := onInst (t < 384) s fun s => s.fabWait t

end Sys2Proof.Machine
end

