-- ==== Sys2Proof/Machine/Power.lean ====
section
/-! DEFINITION. The power controller (13): feeds (R365 to R368), regulators (R371 to R374), waking (R375), input power and
its limits (R376 to R384), stretch, sharing, ramps and ballast (R387 to R392), the tether and the meter (R393 to R400),
the standby domain and the plug loop (R369, R485). -/
namespace Sys2Proof.Machine

/-! Feeds. -/

def State.feedRec (s : State) (f : Feed) : FeedRec := match f with | .a => s.power.feedA | .b => s.power.feedB
def State.modFeed (s : State) (f : Feed) (g : FeedRec → FeedRec) : State :=
  match f with
  | .a => s.modPower fun w => { w with feedA := g w.feedA }
  | .b => s.modPower fun w => { w with feedB := g w.feedB }

def sinceWhen (ok : Bool) (now : Nat) (old : Option Nat) : Option Nat := if ok then some (old.getD now) else none

/-- One sample of a feed. -/
def FeedRec.take (x : FeedRec) (now mv ma10 : Nat) : FeedRec :=
  { x with
    mv := mv, ma10 := ma10, below36 := sinceWhen (mv < 36000) now x.below36, above37 := sinceWhen (37000 ≤ mv) now x.above37
    above45 := sinceWhen (45000 < mv) now x.above45, inRange := sinceWhen (35000 ≤ mv && mv ≤ 45000) now x.inRange }

def FeedRec.state (x : FeedRec) (st : FeedSt) : FeedRec := { x with st := st, okMinute := x.okMinute && st == .normal }

def heldFor (t : Option Nat) (now ns : Nat) : Bool := match t with | some a => a + ns ≤ now | none => false

/-- A change of a feed's state (R498). -/
def State.feedMove (s : State) (f : Feed) (st : FeedSt) : State :=
  let s1 := s.modFeed f fun x => x.state st
  ({ s1 with pins := { s1.pins with alertLow := true } }).rethrottle

def feedNum (f : Feed) : Nat := match f with | .a => 0 | .b => 1

/-- R368: a lost feed is blocked and logged; with both lost the module has no power. -/
def State.feedLost (s : State) (f : Feed) : State :=
  let s1 := (s.feedMove f .lost).log 0x0005 0xFF [feedNum f, 1]
  if s1.power.feedA.st = .lost && s1.power.feedB.st = .lost then s1.losePower else s1

def execFeedSag (f : Feed) (s : State) : Out :=
  .next (let x := s.feedRec f
    if x.st = .normal && heldFor x.below36 s.now MS then s.feedMove f .sagging else s)
def execFeedSagEnd (f : Feed) (s : State) : Out :=
  .next (let x := s.feedRec f
    if x.st = .sagging && heldFor x.above37 s.now (100 * MS) then s.feedMove f .normal else s)
def execFeedOvervoltage (f : Feed) (s : State) : Out :=
  .next (let x := s.feedRec f
    if heldFor x.above45 s.now (100 * MS + 1) && !x.opened then
      let s1 := s.modFeed f fun x => { x with opened := true }
      if x.st = .lost then s1 else s1.feedLost f
    else s)
def execFeedLoss (f : Feed) (s : State) : Out :=
  .next (let x := s.feedRec f
    if x.st ≠ .lost && (x.mv < 32000 || x.opened) then s.feedLost f else s)
def execFeedReadmit (f : Feed) (s : State) : Out :=
  .next (let x := s.feedRec f
    if x.st = .lost && heldFor x.inRange s.now SEC1 && s.power.hotSwap then
      ((s.modFeed f fun x => { x with opened := false }).feedMove f .normal).log 0x0005 0xFF [feedNum f, 0]
    else s)

/-! The standby domain and the plug loop. -/

/-- R369, R452: the domain stays up while either feed reads 20 V or more. -/
def execStandbyLoss (s : State) : Out :=
  .next (if s.power.standby && (decide (20000 ≤ s.power.feedA.mv) || decide (20000 ≤ s.power.feedB.mv)) then s else s.clearAll)

/-- R369. -/
def execStandbyValid (s : State) : Out :=
  .next (if s.pins.loopClosed && !s.power.standby then s.modPower fun w => { w with standby := true } else s)

def execPlugLoopClose (s : State) : Out :=
  .next (if s.pins.loopClosed then s
    else
      let s1 := { s with pins := { s.pins with loopClosed := true } }
      s1.modPower fun w => { w with hotSwap := true, standby := true, feedA := FeedRec.init, feedB := FeedRec.init })

def execPlugLoopOpen (s : State) : Out :=
  .next (let c := s.clearAll
    { c with pins := { c.pins with loopClosed := false }, power := { c.power with hotSwap := false } })

/-! Regulators. -/

/-- R371: a failed brick stays out until module reset; with fewer than four the module shuts down. -/
def execBrickFail (b : Nat) (s : State) : Out :=
  onInst (b < 8) s fun s =>
    if !bit s.power.bricks b then s
    else
      let s1 := (s.modPower fun w => { w with bricks := w.bricks - 2 ^ b }).log 0x0006 0xFF [0, b]
      if bitCount s1.power.bricks 8 < 4 then s1.hardTrip cleatBrick 1 else s1.rethrottle

/-- R372, R373: one failed phase lowers the region, a second fences it dark. -/
def execPhaseFail (r i : Nat) (s : State) : Out :=
  onInst (r < 32 && i < 6) s fun s =>
    let x := s.region r
    if bit x.phases i then s
    else
      let s1 := (s.modRegion r fun x => { x with phases := x.phases + 2 ^ i }).log 0x0006 0xFF [1, r, i]
      if 2 ≤ (s1.region r).phasesBad then (s1.fenceRegion r).rethrottle else (s1.retarget r).rethrottle

def State.fenceDie (s : State) (d : Nat) : State := (List.range 8).foldl (fun s k => s.fenceRegion (8 * d + k)) s

/-- R374; a link regulator is numbered 0 or 1. -/
def execRailRegulatorFail (rail : Rail) (i : Nat) (s : State) : Out :=
  onInst (match rail with | .vddLink => i < 2 | .vddSram => i < 4 | .vddHbmif => i < 4 | .hbmStack => i < 4) s fun s =>
    let s1 := s.log 0x0006 0xFF [2, i]
    match rail with
    | .vddLink =>
      let left := if bit s.power.linkRegs i then s.power.linkRegs - 2 ^ i else s.power.linkRegs
      let s2 := s1.modPower fun w => { w with linkRegs := left }
      if left = 0 then s2.hardTrip 0x20 2 else s2
    | .vddSram | .vddHbmif | .hbmStack =>
      let s2 := s1.fenceDie i
      ((List.range 5).foldl (fun s k => s.loseStack (5 * i + k)) s2).rethrottle

/-! Waking (R375, R433). -/

/-- Whether every region of a partition's dies is awake or fenced dark. -/
def State.allAwake (s : State) (mask : Nat) : Bool :=
  (List.range 32).all fun r => !bit mask (r / 8) || (s.region r).awake || (s.region r).fenced

/-- A bind completes once its regions are awake. -/
def State.finishBind (s : State) (p : Nat) : State :=
  let x := s.part p
  match x.binding, x.bound with
  | some c, some im =>
    if s.allAwake im.dieMask then
      let s1 := (s.modPart p fun x => { x with binding := none }).putTxn ⟨c.msg.txn, c.msg.hash, 0x0202, stOk, 0⟩ c.src
      s1.reply c 0x0202 s1.ok
    else s
  | some _, none => s.modPart p fun x => { x with binding := none }
  | none, _ => s

/-- The regions of some dies that are not awake wait for grants. -/
def State.wakeDies (s : State) (mask : Nat) : State :=
  let rs := (List.range 32).filter fun r => bit mask (r / 8) && !(s.region r).awake && !(s.region r).fenced &&
    !s.power.wakeQ.contains r
  s.modPower fun w => { w with wakeQ := w.wakeQ ++ rs }

/-- R375; neighbourPeak is the highest phase current of a neighbour in the previous beat, in 10 mA. After a deferral the region
is considered again at the next beat. -/
def execInrushGrant (r neighbourPeak : Nat) (s : State) : Out :=
  onInst (r < 32) s fun s =>
    let busy := (List.range 8).any fun k => (s.region (r / 8 * 8 + k)).waking
    let deferred := match s.lastRun .defer r with
      | some t => beatOf s.lny.shift t == s.lny.beat
      | none => false
    if !s.pwrRuns || !s.power.wakeQ.contains r || busy || deferred then s
    else if 680 < neighbourPeak then
      let s1 := s.paced .defer r 0 fun s => s.modPower fun w => { w with deferrals := inc32 w.deferrals }
      match s.partOfDie (r / 8) with
      | some p => s1.raiseThrot p 16
      | none => s1
    else
      let s1 := (s.modRegion r fun x => { x with waking := true, inRamp := s.now }).modPower fun w => { w with wakingRegion := some r }
      (neighbours r).foldl (fun s k => s.modRegion k fun x => { x.stretch with preStretch := x.preStretch + 1 }) s1

/-- The 128 µs gate ramp ends: the region is released at its gear (Table 15-3 row 11). -/
def execGateRampDone (r : Nat) (s : State) : Out :=
  onInst (r < 32) s fun s =>
    let x := s.region r
    if !x.waking || s.now < x.inRamp + 128000 then s
    else
      let g := x.target s.power.gear
      let s1 := (s.endPreStretch r).modRegion r fun x =>
        { x with waking := false, awake := true, released := true, gear := g, vLogic := Volt.still (gearV g) }
      let s2 := s1.modPower fun w => { w with
        wakeQ := w.wakeQ.filter (· != r), wakingRegion := if w.wakingRegion = some r then none else w.wakingRegion }
      ((List.range 4).foldl (fun s p => s.finishBind p) s2).rethrottle

/-! Input power (R376) and its limits (R380 to R382). -/

/-- The mean of the samples of the last ns before now, from a start on. -/
def meanOf (l : List PSample) (now ns start : Nat) : Nat :=
  let xs := l.filter fun x => now < x.at_ + ns && start ≤ x.at_
  (xs.map fun x => x.p).sum / max xs.length 1

/-- Microseconds of a condition among the samples of a window. -/
def timeOf (l : List PSample) (now ns start : Nat) (q : PSample → Bool) : Nat :=
  (l.filter fun x => now < x.at_ + ns && start ≤ x.at_ && q x).length

/-- The running excursion: samples, newest first, that meet a condition. -/
def meanRun (l : List PSample) (q : PSample → Bool) : Nat := (l.takeWhile q).length

/-- The three times of R380 against a limit: spread band in 20 s, peak excursion, peak band in 100 ms, in µs. -/
def bands (l : List PSample) (now start : Nat) (lim : PSample → Nat) : Nat × Nat × Nat :=
  let peak := fun x : PSample => 45 * lim x < 4 * x.mean
  (timeOf l now (20 * SEC1) start fun x => 10 * lim x < x.mean, meanRun l peak, timeOf l now (100 * MS) start peak)

/-- Whether R380 holds against a limit in W. -/
def bandsHold (l : List PSample) (now start mean lim : Nat) (b : Nat × Nat × Nat) : Bool :=
  meanOf l now (20 * SEC1) start ≤ 10 * lim && b.1 ≤ 2000000 && b.2.1 ≤ 10000 && b.2.2 ≤ 10000 && 2 * mean ≤ 25 * lim

/-- TAI − UTC applied (R394). -/
def State.utcMinute (s : State) (t : Nat) : Nat := (((t : Int) - s.lny.utcOfs * 1000000000) / 60000000000).toNat

/-- The tether ceiling in force at a Lanyard time; 0: none (R394). -/
def State.tetherAt (s : State) (t : Nat) : Nat :=
  let a := match s.power.standing with
    | some (v, b) => if beatPast (beatOf s.lny.shift t) b then v else 0
    | none => 0
  let m := s.utcMinute t
  let (start, l) := s.power.schedule
  let b := if start ≤ m then l.getD (m - start) 0 else 0
  if a = 0 then b else if b = 0 then a else min a b

/-- How much allowance must be left when a lowering is decided, in ns (R382). -/
def State.dNs (s : State) : Nat := 66000 + 2 ^ s.lny.shift

/-- R382, R395: the reasons that call for a lowering now, as throttle bits. A tether ceiling about to fall counts already, as far
ahead as the lowerings down to gear 0 may take. -/
def State.burstBits (s : State) : Nat :=
  let w := s.power
  match w.hist with
  | [] => 0
  | x :: _ =>
    let c := s.capC
    let t := s.tetherAt (s.now + max 1 w.gear * s.dNs)
    let c2 := if t = 0 then c else min c t
    let b := bands w.hist s.now w.countFrom fun y => y.cap
    let peak := 45 * c < 4 * x.mean && (10000000 ≤ b.2.1 * 1000 + s.dNs || 10000000 ≤ b.2.2 * 1000 + s.dNs)
    let spread := 10 * c < x.mean && 2000000000 ≤ b.1 * 1000 + s.dNs
    let sus := decide (10 * c2 ≤ meanOf w.hist s.now (20 * SEC1) w.countFrom) || (t != 0 && decide (10 * t < w.p100m))
    (if peak then 64 else 0) + (if spread then 128 else 0) + if sus then 256 else 0

/-- One gear down where a limit binds and the last lowering has switched (R382). -/
def State.burstLower (s : State) : State :=
  let why := s.burstBits
  let g := s.power.gear
  let settled := match s.power.cur with
    | some c => c.region.isSome || (c.switched && c.bc < s.now / 2 ^ s.lny.shift)
    | none => true
  if why = 0 || g = 0 || s.goal < g || !settled || s.cleatHolds then s
  else
    let s1 := s.modPower fun w => { w with burstCeil := g - 1, burstLowAt := some s.now, burstWhy := why }
    (s1.requestChange none (g - 1)).rethrottle

/-- The running minute takes the sample (R396, R397). -/
def State.minuteTake (s : State) (p : Nat) : State :=
  let w := s.power
  let m := w.minute
  let ceil := if w.tether = 0 then s.capC else w.tether
  let judged := w.tether = 0 || w.tetherFrom + 100 * MS ≤ s.now
  let b := bands w.hist s.now w.countFrom fun x => x.ceil
  let held := bandsHold w.hist s.now w.countFrom w.p100u ceil b && (w.tether = 0 || w.p100m ≤ 10 * w.tether)
  s.modPower fun w => { w with minute := { m with
    start := if m.any then m.start else s.now
    any := true
    pMin := min m.pMin w.p100m, pMax := max m.pMax w.p100m, pPeak := max m.pPeak w.p100u
    pSum := m.pSum + p, samples := m.samples + 1
    ceilStart := if m.any then m.ceilStart else w.tether
    ceilLow := if w.tether = 0 then m.ceilLow else if m.ceilLow = 0 then w.tether else min m.ceilLow w.tether
    capLow := min m.capLow s.capC
    ok := m.ok && (!judged || held) } }

/-- R376, R381. -/
def State.feedSample (s : State) (va ia vb ib : Nat) : State :=
  let s1 := (s.modFeed .a fun x => x.take s.now va ia).modFeed .b fun x => x.take s.now vb ib
  let p := (va * ia + vb * ib) / 10000
  let c := s.capC
  let recent := s.power.hist.filter fun x => s.now < x.at_ + 20 * SEC1
  let raw : PSample := ⟨s.now, p, 0, c, if s.power.tether = 0 then c else s.power.tether⟩
  let mean := meanOf (raw :: recent) s.now 100000 0
  let h := { raw with mean := mean } :: recent
  let b := bands h s.now s.power.countFrom fun x => x.cap
  let s2 := s1.modPower fun w => { w with
    hist := h, p100u := mean, p100m := meanOf h s.now (100 * MS) 0, p20 := meanOf h s.now (20 * SEC1) 0
    spreadUs := b.1, peakUs := b.2.1, peakWin := b.2.2 }
  let s3 := s2.minuteTake p
  if 25 * c < 2 * mean then s3.cleatAssert cleatPwr else s3.burstLower

def execFeedSample (va ia vb ib : Nat) (s : State) : Out :=
  .next (if s.pwrRuns then s.paced .sample 0 1000 fun s => s.feedSample va ia vb ib
    else (s.modFeed .a fun x => x.take s.now va ia).modFeed .b fun x => x.take s.now vb ib)

/-! Raising (R384, R391, R405). -/

/-- Draw at another gear: the VDD_LOGIC part scales by clock × VDD_LOGIC². -/
def drawAt (total logic from_ to_ : Nat) : Nat :=
  let a := gearMult from_ * gearV from_ ^ 2
  let b := gearMult to_ * gearV to_ ^ 2
  total - logic + logic * b / max a 1

/-- The upward line of a planned change, in 0.1 W. -/
def State.rampLine (s : State) (t0 v0 : Nat) : Nat := v0 + (s.now - t0) * 1000 / SEC1

/-- The rise of the hottest die sensor over the last 10 s, in °C: of the newest reading over the oldest kept (THM_DIE_d, R405). -/
def riseOf (l : List (Nat × Int)) : Int :=
  match l.head?, l.getLast? with
  | some a, some b => a.2 - b.2
  | _, _ => 0
def State.hotRise (s : State) : Int := (s.thermal.rises.map riseOf).foldl max 0

/-- The controller considers one gear more. logicPower: measured VDD_LOGIC power in 0.1 W; spreadEst: estimated spread-band
time at the higher gear in µs. -/
def State.raiseCheck (s : State) (logicPower spreadEst : Nat) : State :=
  let w := s.power
  let g := w.gear
  let c := s.capC
  let settledRamp := match w.ramp with
    | some (t0, v0) => decide (10 * c ≤ s.rampLine t0 v0) && w.ballastPart.isNone
    | none => false
  let s0 := if settledRamp then s.modPower fun w => { w with ramp := none } else s
  let free := w.cur.isNone && w.queue.isEmpty && !s.regions.any fun r => r.waking
  let rested := (match w.burstLowAt with | some t => decide (t + 20 * SEC1 ≤ s.now) | none => true) &&
    match w.otherLowAt with | some t => decide (t + 100 * MS ≤ s.now) | none => true
  let room := decide (drawAt w.p20 logicPower g (g + 1) + 10 * w.guard ≤ 10 * c) && decide (spreadEst ≤ SEC1 / 1000)
  if 7 ≤ g || s.sourceCeil < g + 1 || !free || !rested || !room then s0.rethrottle
  else
    let held := match s0.power.ramp with
      | some (t0, v0) => decide (s.rampLine t0 v0 < drawAt w.p100m logicPower g (g + 1)) || decide (40 < s.hotRise)
      | none => false
    if held then
      ((List.range 4).foldl (fun s p => if s.defined p then s.raiseThrot p 17 else s) s0).rethrottle
    else
      let s1 := s0.modPower fun w => { w with
        burstCeil := max w.burstCeil (if w.burstCeil < 7 then g + 1 else 7), burstWhy := if g + 1 < 7 then w.burstWhy else 0 }
      (s1.requestChange none (g + 1)).rethrottle

def execRaiseCheck (logicPower spreadEst : Nat) (s : State) : Out :=
  .next (if s.pwrRuns && s.rst.row ≠ 0 then s.paced .raise 0 (10 * MS) fun s => s.raiseCheck logicPower spreadEst else s)

/-- R383: the seconds above 0.70 V of the last minute enter the count in MRAM. -/
def execWearUpdate (seconds : Nat) (s : State) : Out :=
  .next (if !s.pwrRuns then s
    else s.paced .wear 0 (60 * SEC1) fun s =>
      ((s.modPower fun w => { w with wear := w.wear + min seconds 60 }).mramWrite ⟨.obsidian, none⟩).followCeil.rethrottle)

/-- R387; permille: stretched cycles of the last 10 ms in 0.1 %. -/
def execStretchCheck (r permille : Nat) (s : State) : Out :=
  onInst (r < 32) s fun s0 => if !s0.pwrRuns || (s0.region r).fenced then s0 else s0.paced .stretch r (10 * MS) fun s =>
    let x := s.region r
    let pct := s.power.stretchPct
    if pct < permille then
      (((s.modRegion r fun x => { x with stretchCap := x.gear - 1, stretchAt := s.now, calmAt := s.now }).retarget r)).rethrottle
    else if 7 ≤ x.stretchCap then s
    else if 4 * permille < pct then
      if x.calmAt + SEC1 ≤ s.now then
        ((s.modRegion r fun x => { x with stretchCap := x.stretchCap + 1, calmAt := s.now }).retarget r).rethrottle
      else s
    else s.modRegion r fun x => { x with calmAt := s.now }

/-! Sharing (R388). -/

/-- PRIO, REQ, GMAX, ALLOC of a partition. -/
def State.prec (s : State) (p : Nat) : Nat × Nat × Nat × Nat := s.power.parts.getD p (0, 300, 7, 0)

/-- What each bound partition receives of a budget, highest priority first. -/
def shareOut (s : State) (bound : List Nat) : List Nat → Nat → List (Nat × Nat)
  | [], _ => []
  | prio :: rest, left =>
    let ps := bound.filter fun p => (s.prec p).1 == prio
    let total := (ps.map fun p => (s.prec p).2.1).sum
    let each := ps.map fun p => (p, if total ≤ left then (s.prec p).2.1 else left * (s.prec p).2.1 / total)
    each ++ shareOut s bound rest (left - total)

/-- The highest gear whose estimated draw fits an allocation. -/
def fitGear (total logic now_ alloc gmax : Nat) : Nat :=
  ((List.range 8).filter fun g => g ≤ gmax && drawAt total logic now_ g ≤ 10 * alloc).foldl max 0

/-- The gear of a partition's regions: the lowest in service. -/
def State.partGear (s : State) (p : Nat) : Nat :=
  let gs := (((List.range 32).filter fun r => bit (s.part p).mask (r / 8)).map s.region).filter fun r => !r.fenced
  if gs.isEmpty then 0 else (gs.map fun r => r.gear).foldl min 7

def State.retargetPart (s : State) (p : Nat) : State :=
  (List.range 32).foldl (fun s r => if bit (s.part p).mask (r / 8) then s.retarget r else s) s

def State.setShare (s : State) (p cap : Nat) : State :=
  ((List.range 32).foldl (fun s r =>
    if bit (s.part p).mask (r / 8) then s.modRegion r fun x => { x with shareCap := cap } else s) s).retargetPart p

/-- pBase in W; draws: for partition p, entry 2p its measured draw and entry 2p + 1 the VDD_LOGIC part, in 0.1 W. -/
def State.shareBudget (s : State) (pBase : Nat) (draws : List Nat) : State :=
  let bound := (List.range 4).filter fun p => (s.part p).bound.isSome
  let out := shareOut s bound [3, 2, 1, 0] (s.capC - pBase)
  (out.foldl (fun s (x : Nat × Nat) =>
    let (pr, rq, gm, _) := s.prec x.1
    let g := fitGear (draws.getD (2 * x.1) 0) (draws.getD (2 * x.1 + 1) 0) (s.partGear x.1) x.2 gm
    (s.modPower fun w => { w with parts := w.parts.set x.1 (pr, rq, gm, x.2) }).setShare x.1 g) s).rethrottle

def execShareBudget (pBase : Nat) (draws : List Nat) (s : State) : Out :=
  .next (if s.pwrRuns then s.paced .share 0 (100 * MS) fun s => s.shareBudget pBase draws else s)

/-! Planned changes and ballast (R391, R392). -/

/-- A planned change starts a ramp from the draw in force. -/
def State.planned (s : State) : State :=
  if s.power.rampEn then s.modPower fun w => { w with ramp := some (s.now, w.p100m) } else s

/-- A partition stops by a planned change: ballast may run on its idle tiles. -/
def State.plannedStop (s : State) (p : Nat) : State :=
  if s.power.rampEn then s.planned.modPower fun w => { w with ballastPart := some p } else s

def State.stopBallast (s : State) : State := s.modPower fun w => { w with ballast := 0, ballastPart := none }

/-- Ballast energy of a millisecond goes to (0xFFFF, 0xFFFF) on the partition's dies. -/
def State.chargeBallast (s : State) (p watts10 : Nat) : State :=
  let ds := s.diesOf p
  ds.foldl (fun s d => s.modDie d fun x => { x with energy := { x.energy with
    raw := addRaw x.energy.raw 0xFFFF 0xFFFF (watts10 * 100 * 600 ^ 2 / max ds.length 1) } }) s

/-- drawWithout: the draw without ballast, in 0.1 W. -/
def execBallastAdjust (drawWithout : Nat) (s : State) : Out :=
  .next (s.paced .ballast 0 MS fun s => match s.power.ramp, s.power.ballastPart with
    | some (t0, v0), some p =>
      if (s.geode p).frozen then s.stopBallast
      else
        let line := v0 - (s.now - t0) * 1000 / SEC1
        if line ≤ drawWithout then s.stopBallast.modPower fun w => { w with ramp := none }
        else (s.modPower fun w => { w with ballast := line - drawWithout }).chargeBallast p (line - drawWithout)
    | _, _ => s.stopBallast)

/-! The tether (R393 to R395). -/

/-- The ceiling in force is formed anew: a fall restarts the bands, a rise is a planned change. -/
def State.applyTether (s : State) : State :=
  let old := s.power.tether
  let new := s.tetherAt s.now
  if new = old then s
  else
    let falls := new ≠ 0 && (old = 0 || new < old)
    let s1 := s.modPower fun w => { w with tether := new }
    (if falls then s1.modPower fun w => { w with tetherFrom := s.now, countFrom := s.now } else s1.planned).rethrottle

def execTetherCeilingChange (s : State) : Out := .next (if s.pwrRuns then s.applyTether else s)

def ceilOk (w : Nat) : Bool := 400 ≤ w && w ≤ 1200

def execTetherCeiling (c : Call) (watts at_ : Nat) (rampEn : Bool) (s : State) : Out :=
  .next (capstanRun (.tetherCeiling c watts at_ rampEn) c (cmdC 0x0481 .tether) (fun s =>
    if !ceilOk watts then s.answer stRange
    else ((s.modPower fun w => { w with standing := some (watts, at_), rampEn := rampEn }).applyTether).ok) s)

def execTetherSchedule (c : Call) (start : Nat) (watts : List Nat) (s : State) : Out :=
  .next (capstanRun (.tetherSchedule c start watts) c (cmdC 0x0482 .tether) (fun s =>
    if watts.isEmpty || 64 < watts.length || !watts.all ceilOk then s.answer stRange
    else ((s.modPower fun w => { w with schedule := (start, watts) }).applyTether).ok) s)

def execTetherClear (c : Call) (s : State) : Out :=
  .next (capstanRun (.tetherClear c) c (cmdC 0x0483 .tether) (fun s =>
    ((s.modPower fun w => { w with standing := none, schedule := (0, []) }).applyTether).ok) s)

/-- PWR_CAP and PWR_INPUT (Table 13-9). -/
def State.pwrCap (s : State) : Nat := s.capC + s.cap.ceil * 2 ^ 16 + s.power.tether * 2 ^ 32 + s.hwCap * 2 ^ 48
def State.pwrInput (s : State) : Nat :=
  s.power.p100m % 2 ^ 16 + s.power.p20 % 2 ^ 16 * 2 ^ 16 + s.power.p100u % 2 ^ 16 * 2 ^ 32 + s.power.minute.pPeak % 2 ^ 16 * 2 ^ 48

def execTetherStatus (c : Call) (s : State) : Out :=
  .next (capstanRun (.tetherStatus c) c (cmdR 0x0484 .tether) (fun s =>
    let a := s.ok
    { a with payload := [s.power.tether, s.pwrCap, s.pwrInput, s.power.meterSeq - 1] }) s)

/-! Meter records (R396 to R400). -/

/-- The 128-byte body (Table 13-6). -/
def MeterRec.body (m : MeterRec) : List Byte :=
  let words := [256 + m.seq % 2 ^ 32 * 2 ^ 32, m.minute % 2 ^ 32, m.start, Config.moduleId % 2 ^ 64,
    m.pMin % 2 ^ 16 + m.pMean % 2 ^ 16 * 2 ^ 16 + m.pMax % 2 ^ 16 * 2 ^ 32 + m.pPeak % 2 ^ 16 * 2 ^ 48,
    m.ceilStart % 2 ^ 16 + m.ceilLow % 2 ^ 16 * 2 ^ 16 + m.capLow % 2 ^ 16 * 2 ^ 32 + natOfBool m.compliant * 2 ^ 48 +
      natOfBool m.feedAok * 2 ^ 49 + natOfBool m.feedBok * 2 ^ 50 + natOfBool m.timeFault * 2 ^ 51 + natOfBool m.gap * 2 ^ 52,
    m.energy % 2 ^ 32 + m.sampled % 2 ^ 32 * 2 ^ 32, 0]
  (words.map fun w => natLe 8 w).flatten ++ natLe 48 m.prevDigest ++ natLe 16 0

def meterLabel : List Byte := [0x4B, 0x56, 0x31, 0x2D, 0x4D, 0x45, 0x54, 0x45, 0x52]

/-- At the end of a UTC minute its record is formed. -/
def State.meterRecord (s : State) : State :=
  let w := s.power
  let m := w.minute
  if !m.any || s.utcMinute s.now ≤ s.utcMinute m.start then s
  else
    let rec_ : MeterRec := {
      seq := w.meterSeq, minute := s.utcMinute m.start, start := m.start, pMin := m.pMin
      pMean := m.pSum / max m.samples 1, pMax := m.pMax, pPeak := m.pPeak, ceilStart := m.ceilStart, ceilLow := m.ceilLow
      capLow := m.capLow, compliant := m.ok, feedAok := w.feedA.okMinute, feedBok := w.feedB.okMinute
      timeFault := m.timeFault, gap := m.gap || m.samples < 60000000, energy := m.pSum / 10000000
      sampled := min (m.samples / 1000) 60000
      prevDigest := match w.meter.getLast? with | some r => leNat (Config.sha384 r.body) | none => 0
      sigs := none }
    s.modPower fun w => { w with
      meter := w.meter ++ [rec_], meterSeq := w.meterSeq + 1, lastMinute := rec_.minute
      minute := { MinuteAcc.init with timeFault := s.lny.timeFault || s.lny.holdover }
      feedA := { w.feedA with okMinute := w.feedA.st == .normal }, feedB := { w.feedB with okMinute := w.feedB.st == .normal } }

def execMeterRecord (s : State) : Out := .next (if s.pwrRuns then s.meterRecord else s)

/-- Signs the first record that has no signature. -/
def signFirst (ecdsa hss : Nat) : List MeterRec → List MeterRec
  | [] => []
  | r :: l => if r.sigs.isNone then { r with sigs := some (ecdsa, hss) } :: l else r :: signFirst ecdsa hss l

/-- R398: the HSS index is committed before its signature is used, so the write port must be idle. -/
def State.meterSign (s : State) : State :=
  match s.power.meter.find? fun r => r.sigs.isNone with
  | none => s
  | some r =>
    if !s.mramIdle || 2 ^ 30 ≤ s.cap.hss || s.cap.cdi1.isNone then s
    else
      let dig := leNat (Config.sha384 (meterLabel ++ r.body))
      let (h, s1) := s.hssNext dig
      s1.modPower fun w =>
        let l := signFirst (Config.aliasSign dig) h w.meter
        { w with meter := l.drop (l.length - 10240) }

def execMeterSign (s : State) : Out := .next s.meterSign

/-- A released record: body, ECDSA and HSS signature. -/
def MeterRec.words (m : MeterRec) : List Nat :=
  match m.sigs with
  | some (e, h) => packWords (m.body ++ natLe 96 e ++ natLe 3292 h)
  | none => []

/-- Signed records from a sequence number on (R400). -/
def State.meterAnswer (s : State) (fromSeq count : Nat) : Answer :=
  let got := (List.range count).map fun k => s.power.meter.find? fun r => r.seq == fromSeq + k && r.sigs.isSome
  if count = 0 || 16 < count then s.answer stRange
  else if got.any Option.isNone then s.answer stNotHeld
  else
    let a := s.ok
    { a with payload := ((got.filterMap id).map MeterRec.words).flatten }

def execMeterFetch (c : Call) (fromSeq count : Nat) (s : State) : Out :=
  .next (capstanRun (.meterFetch c fromSeq count) c (cmdR 0x0485 .tether) (fun s => s.meterAnswer fromSeq count) s)

def execPwrMeter (c : Call) (fromSeq count : Nat) (s : State) : Out :=
  .next (capstanRun (.pwrMeter c fromSeq count) c (cmdR 0x0408 .owner) (fun s => s.meterAnswer fromSeq count) s)

/-! The power command family. -/

/-- The owner ceiling's Slate item takes a value (R11, R378). -/
def State.setCeil (s : State) (src : Option Src) (watts : Nat) : State × Nat :=
  match slWrite (decide (watts ≠ s.cap.ceil)) s.cap.ceilLeft with
  | .same => (s, stOk)
  | .refused => (s.slRefuse src 0, stSlRefused)
  | .write => ((s.slateChange 0 fun k => { k with ceil := watts, ceilLeft := k.ceilLeft - 1 }).rethrottle, stOk)

def execPwrCeiling (c : Call) (watts : Nat) (s : State) : Out :=
  .next (capstanRun (.pwrCeiling c watts) c (cmdM 0x0401 .owner) (fun s =>
    if !ceilOk watts then s.answer stRange
    else
      let (s1, st) := s.setCeil (some c.src) watts
      s1.answer st) s)

/-- A command waits for the MRAM port. -/
def State.await (s : State) (i : Instr) : State :=
  if s.awaiting.contains i || 8 ≤ s.awaiting.length then s else { s with awaiting := s.awaiting ++ [i] }

/-- PWR_CEIL_OWNER (Table 13-9). -/
def State.ceilWrite (s : State) (byCapstan : Bool) (v : W64) : State :=
  if !byCapstan then s.post none 0x0003 0x0500 0 0 0x20010
  else
    let w := bits v.toNat 0 16
    if !ceilOk w then s
    else if !s.mramIdle then s.await (.pwrCeilOwnerWrite byCapstan v)
    else (s.setCeil none w).1

def execPwrCeilOwnerWrite (byCapstan : Bool) (v : W64) (s : State) : Out := .next (s.ceilWrite byCapstan v)

def execPwrPriority (c : Call) (p prio : Nat) (s : State) : Out :=
  .next (capstanRun (.pwrPriority c p prio) c (cmdC 0x0402 .owner) (fun s =>
    if 4 ≤ p || 4 ≤ prio then s.answer stRange
    else
      let (_, rq, gm, al) := s.prec p
      (s.modPower fun w => { w with parts := w.parts.set p (prio, rq, gm, al) }).ok) s)

/-- Sticky copies are cleared; that of a reason still in force stays set (R389, R8). -/
def State.clearSticky (s : State) (p : Nat) : State :=
  s.modPower fun w => { w with throt := modAt w.throt p fun x => (x.1, x.1) }

def execPwrRequest (c : Call) (req gmax : Nat) (s : State) : Out :=
  .next (capstanRun (.pwrRequest c req gmax) c { cmdC 0x0403 .job with cflags := 1 } (fun s =>
    if req < 50 || 1200 < req || 7 < gmax then s.answer stRange
    else
      let p := Call.part c
      let (pr, _, _, al) := s.prec p
      let s1 := s.modPower fun w => { w with parts := w.parts.set p (pr, req, gmax, al) }
      let cap := (((List.range 32).filter fun r => bit (s.part p).mask (r / 8)).map fun r => (s.region r).shareCap).foldl min 7
      let s2 := (s1.setShare p (min cap gmax)).rethrottle
      (if bit c.msg.cflags 0 then s2.clearSticky p else s2).ok) s)

def execPwrTetherKey (c : Call) (slot : Nat) (key : Option Nat) (s : State) : Out :=
  .next (capstanRun (.pwrTetherKey c slot key) c (cmdM 0x0404 .owner) (fun s =>
    if 4 ≤ slot then s.answer stRange
    else (s.modCap fun k => { k with tetherKeys := k.tetherKeys.set slot key }).ok) s)

def execPwrDerate (c : Call) (metres : Nat) (s : State) : Out :=
  .next (capstanRun (.pwrDerate c metres) c (cmdC 0x0405 .owner) (fun s =>
    if 3000 < metres then s.answer stRange
    else ((s.modPower fun w => { w with derateM := metres }).rethrottle).ok) s)

/-- The cartridge policy's Slate item takes a value (R11, R410). -/
def State.setCart (s : State) (src : Option Src) (root grace hash : Nat) : State × Nat :=
  let same := root = s.cap.cartRoot && grace = s.cap.cartGrace && hash = s.cap.cartHash
  match slWrite (!same) s.cap.cartLeft with
  | .same => (s, stOk)
  | .refused => (s.slRefuse src 4, stSlRefused)
  | .write => ((s.slateChange 4 fun k =>
      { k with cartRoot := root, cartGrace := grace, cartHash := hash, cartLeft := k.cartLeft - 1 }).rethrottle, stOk)

def execPwrCartPolicy (c : Call) (root grace rootHash : Nat) (s : State) : Out :=
  .next (capstanRun (.pwrCartPolicy c root grace rootHash) c (cmdM 0x0406 .owner) (fun s =>
    if 1 < root || 2000 < grace then s.answer stRange
    else
      let (s1, st) := s.setCart (some c.src) root grace rootHash
      s1.answer st) s)

/-- THM_CART_POLICY (Table 13-12); the registered root hash is not in the register. -/
def State.cartWrite (s : State) (byCapstan : Bool) (v : W64) : State :=
  if !byCapstan then s.post none 0x0003 0x0500 0 0 0x30068
  else
    let g := bits v.toNat 16 11
    if 2000 < g then s
    else if !s.mramIdle then s.await (.thmCartPolicyWrite byCapstan v)
    else (s.setCart none (bits v.toNat 0 1) g s.cap.cartHash).1

def execThmCartPolicyWrite (byCapstan : Bool) (v : W64) (s : State) : Out := .next (s.cartWrite byCapstan v)

def execPwrTune (c : Call) (x : TuneReq) (s : State) : Out :=
  .next (capstanRun (.pwrTune c x) c { cmdC 0x0407 .owner with cflags := 1 } (fun s =>
    if x.cleatHoldMs = 0 || 1000 < x.cleatHoldMs || 2 ^ 16 ≤ x.guardW || 256 ≤ x.tripLevel || 256 ≤ x.releaseLevel ||
      256 ≤ x.stretchPct then s.answer stRange
    else
      let s1 := s.modPower fun w => { w with
        rampEn := x.rampEn, guard := x.guardW, cleatHoldMs := x.cleatHoldMs, droopTrip := x.tripLevel
        droopRelease := x.releaseLevel, stretchPct := x.stretchPct }
      let ps := if c.msg.partition = 0xFF then [0, 1, 2, 3] else [c.msg.partition]
      (if bit c.msg.cflags 0 then ps.foldl (fun s p => s.clearSticky p) s1 else s1).ok) s)

end Sys2Proof.Machine
end

