-- ==== Sys2Proof/Machine/Thermal.lean ====
section
/-! DEFINITION. Sensors and thermal limits (R401 to R406, R248), the blower and its cartridge (R407 to R410). -/
namespace Sys2Proof.Machine

/-- A record of a failed reading: the log has no type for it, so that its TYPE is a free value. -/
def State.logInvalid (s : State) (what k : Nat) : State :=
  let (w, s1) := s.drawFree
  s1.log (w.toNat % 65536) 0xFF [what, k]

/-- How many readings in a row stood at a threshold. -/
def tripCount (n : Nat) (t : Option Int) (limit : Int) : Nat :=
  match t with
  | some v => if limit ≤ v then n + 1 else 0
  | none => n

def anyAtLeast (l : List (Option Int)) (v : Int) : Bool := l.any fun t => match t with | some x => decide (v ≤ x) | none => false
def allBelow (l : List (Option Int)) (v : Int) : Bool := l.all fun t => match t with | some x => decide (x < v) | none => true

/-- The hottest valid sensor: its reading and index. -/
def hottest (l : List (Option Int)) : Option (Int × Nat) :=
  ((List.range l.length).zip l).foldl (fun b x =>
    match x.2, b with
    | some v, some (w, k) => if w < v then some (v, x.1) else some (w, k)
    | some v, none => some (v, x.1)
    | none, b => b) none

/-- R402 for a ceiling: one gear down every 10 ms while hot, one up every 100 ms while every valid sensor is cool. The
result is the ceiling and the two times. -/
def thermStep (now gear ceil hotAt coolAt : Nat) (l : List (Option Int)) : Nat × Nat × Nat :=
  if anyAtLeast l 95 then
    (if hotAt + 10 * MS ≤ now then (min ceil gear - 1, now, now) else (ceil, hotAt, now))
  else if allBelow l 92 then
    (if coolAt + 100 * MS ≤ now then (min (ceil + 1) 7, hotAt, now) else (ceil, hotAt, coolAt))
  else (ceil, hotAt, now)

/-- Sensors that stop giving valid readings are logged (R406). -/
def State.logLost (s : State) (base : Nat) (old new : List (Option Int)) : State :=
  (List.range new.length).foldl (fun s k =>
    if (new.getD k none).isNone && (old.getD k none).isSome then s.logInvalid 0 (base + k) else s) s

def State.regionSensors (s : State) (r : Nat) (l : List (Option Int)) : State :=
  let x := s.region r
  let s0 := s.logLost (8 * r) x.temps l
  let (c, h, k) := thermStep s.now x.gear x.thermCap x.hotAt x.coolAt l
  (s0.modRegion r fun x => { x with
    temps := l, thermCap := c, hotAt := h, coolAt := k
    tripRun := List.zipWith (fun n t => tripCount n t 110) x.tripRun l }).retarget r

/-- The hottest readings of the last 10 s of a die (THM_DIE_d, R405). -/
def State.noteHot (s : State) (d : Nat) (l : List (Option Int)) : State :=
  match hottest l with
  | some (v, _) => s.modThermal fun t => { t with
      rises := modAt t.rises d fun h => (s.now, v) :: h.filter fun e => s.now < e.1 + 10 * SEC1 }
  | none => s

/-- A reading of a die's 64 sensors, or of the spine die's 16 (die 4). -/
def State.dieSensors (s : State) (d : Nat) (temps : List (Option Int)) : State :=
  if d < 4 then
    let s1 := (List.range 8).foldl (fun s k => s.regionSensors (8 * d + k) ((temps.drop (8 * k)).take 8)) (s.noteHot d temps)
    if (List.range 8).any fun k => (s1.region (8 * d + k)).tripRun.any (3 ≤ ·) then s1.hardTrip cleatThermal 3 else s1.rethrottle
  else
    let t := s.thermal
    let s0 := s.logLost 256 t.spine temps
    let (c, h, k) := thermStep s.now s.goal s.power.spineCeil t.spineHotAt t.spineCoolAt temps
    let s1 := (s0.modThermal fun t => { t with
      spine := temps, spineHotAt := h, spineCoolAt := k
      spineTrip := List.zipWith (fun n x => tripCount n x 110) t.spineTrip temps }).modPower fun w => { w with spineCeil := c }
    if s1.thermal.spineTrip.any (3 ≤ ·) then s1.hardTrip cleatThermal 3 else s1.followCeil.rethrottle

/-- What the sensors read while a hard trip keeps the module down, for its restart (R404). -/
def State.noteTemps (s : State) (d : Nat) (temps : List (Option Int)) : State :=
  if d < 4 then
    (List.range 8).foldl (fun s k => s.modRegion (8 * d + k) fun r => { r with temps := (temps.drop (8 * k)).take 8 }) s
  else s.modThermal fun t => { t with spine := temps }

def execDieSensorRead (d : Nat) (temps : List (Option Int)) (s : State) : Out :=
  onInst (d < 5) s fun s =>
    if temps.length ≠ (if d < 4 then 64 else 16) then s
    else if s.pwrRuns then s.paced .sensors d 100000 fun s => s.dieSensors d temps
    else if s.power.tripped then s.noteTemps d temps
    else s

/-! HBM stacks (R248, R403). -/

/-- An unreadable temperature counts as 95 °C. -/
def Stack.celsius (x : Stack) : Int := x.temp.getD 95

def Stack.take (x : Stack) (temp : Option Int) : Stack :=
  let t := temp.getD 95
  let cool := t < 93 && x.rate < 8
  { x with
    temp := temp
    refreshHalved := decide (85 < t)
    rate := if 95 ≤ t then max (x.rate - 1) 2 else if cool && 9 ≤ x.coolReads then x.rate + 1 else x.rate
    coolReads := if cool then (x.coolReads + 1) % 10 else 0
    trips := if 105 ≤ t then x.trips + 1 else 0 }

/-- R403: while any stack reads 100 °C or more the module gear goes down one every 100 ms; its ceiling stands until every
stack has stayed below 97 °C for 1 s. -/
def State.hbmCeiling (s : State) : State :=
  let s1 := if s.stks.any fun k => decide (97 ≤ k.celsius) then s.modPower fun w => { w with hbmCool := s.now } else s
  if s1.stks.any fun k => decide (100 ≤ k.celsius) then
    (if s1.power.hbmAt + 100 * MS ≤ s.now then
      (s1.modPower fun w => { w with hbmCeil := min w.hbmCeil s1.goal - 1, hbmAt := s.now }).followCeil
    else s1)
  else if s1.power.hbmCool + SEC1 ≤ s.now then s1.modPower fun w => { w with hbmCeil := 7 } else s1

def State.hbmTemp (s : State) (k : Nat) (temp : Option Int) : State :=
  let s0 := if temp.isNone && (s.stk k).temp.isSome then s.logInvalid 1 k else s
  let s1 := (s0.modStk k fun x => x.take temp).hbmCeiling
  if 3 ≤ (s1.stk k).trips then s1.hardTrip cleatThermal 4 else s1.rethrottle

def execHbmTempRead (stack : Nat) (temp : Option Int) (s : State) : Out :=
  onInst (stack < 20) s fun s => if s.pwrRuns then s.paced .hbm stack 100000 fun s => s.hbmTemp stack temp else s

/-! Inlet (R379). -/

def execInletRead (temp : Int) (s : State) : Out :=
  .next (if !s.pwrRuns then s
    else s.paced .inlet 0 SEC1 fun s =>
      let n := if 45 < temp then s.thermal.inletTrip + 1 else 0
      let s1 := s.modThermal fun t => { t with inlet := temp, inletTrip := n }
      if 3 ≤ n then s1.hardTrip cleatThermal 5 else s1.rethrottle)

/-! The blower (R407). -/

/-- Percent between 30 and 100 as a temperature goes over a span of w degrees from lo; a part of a percent rounds up. -/
def fanFor (t lo w : Int) : Nat :=
  let x := max 0 (min w (t - lo))
  (30 + (70 * x + w - 1) / w).toNat

def State.hottestDie (s : State) : Option Int :=
  ((s.regions.filterMap fun r => (hottest r.temps).map Prod.fst)).foldl
    (fun b v => match b with | some w => some (max w v) | none => some v) none

def State.fanWant (s : State) : Nat :=
  if s.power.tripped then 100
  else max (match s.hottestDie with | some t => fanFor t 60 30 | none => 100) (fanFor s.thermal.inlet 25 10)

/-- The speed is set anew, the measured one taken. -/
def execBlowerUpdate (measured rpm : Nat) (s : State) : Out :=
  .next (s.paced .blower 0 (100 * MS) fun s => s.modThermal fun t => { t with
    fanMeas := measured, fanRpm := rpm, fanCmd := s.fanWant
    fanSlowAt := sinceWhen (2 * measured < t.fanCmd) s.now t.fanSlowAt })

/-- A change of THM_CART.STATE (R498). -/
def State.setCartState (s : State) (st : CartSt) : State :=
  if s.thermal.cart = st then s
  else
    let s1 := s.modThermal fun t => { t with cart := st }
    ({ s1 with pins := { s1.pins with alertLow := true } }).rethrottle

def execBlowerFail (s : State) : Out :=
  .next (if s.thermal.present && heldFor s.thermal.fanSlowAt s.now (5 * SEC1) then s.setCartState .failed else s)

/-! The cartridge (R408 to R410). Lives are in hundredths of a minute. -/

def cartWarnAt : Nat := 216000000
def cartEndAt : Nat := 240000000

/-- Warning, expiry and grace follow the life count: run-hours are hours of it. -/
def State.cartFlags (s : State) : State :=
  let n := s.thermal.cartLife
  let ended := decide (cartEndAt ≤ n)
  (s.modThermal fun t => { t with
    cartWarn := decide (cartWarnAt ≤ n), cartExpired := ended
    cartInGrace := ended && decide (n < cartEndAt + s.cap.cartGrace * 6000) }).rethrottle

/-- The last eight cartridges' counts. -/
def setLife (l : List (Nat × Nat)) (id n : Nat) : List (Nat × Nat) := ((id, n) :: l.filter fun e => e.1 != id).take 8

/-- A challenge: its number, the answer's chain root, key and signature (R408). A failed cartridge stays failed. -/
def State.challenge (s : State) (c : CartReply) : State :=
  let t := s.thermal
  let root := if s.cap.cartRoot = 0 then Config.hexbizenCartRoot else s.cap.cartHash
  let dig := Config.labelDigest 3 [Config.challenge t.challenges, c.cartId, c.life]
  let ok := c.answered && c.rootHash == root && Config.ecdsaVerify c.key dig c.signature
  let s1 := s.modThermal fun t => { t with challenges := t.challenges + 1, challengeAt := s.now, challengeDue := false }
  if t.cart = .failed then s1
  else if !ok then s1.setCartState .unidentified
  else
    let kept := ((t.lives.find? fun e => e.1 == c.cartId).map Prod.snd).getD 0
    let n := max kept (c.life * 100)
    ((s1.modThermal fun t => { t with
      cartId := c.cartId, cartLife := n, cartStored := c.life, lives := setLife t.lives c.cartId n }).cartFlags).setCartState
        .identified

/-- At module reset, when presence has changed, and every 24 h. -/
def State.mayChallenge (s : State) : Bool :=
  s.thermal.present && s.pwrRuns &&
    (s.thermal.challengeDue || decide (s.thermal.challengeAt + 86400 * SEC1 ≤ s.now) || decide (s.now < s.thermal.challengeAt))

def execCartChallenge (c : CartReply) (s : State) : Out := .next (if s.mayChallenge then s.challenge c else s)

/-- R501; during a hard trip the state is read at the next module reset. -/
def execCartPresenceChange (present : Bool) (s : State) : Out :=
  .next (if present = s.thermal.present then s
    else
      let s1 := s.modThermal fun t => { t with present := present, fanSlowAt := none, challengeDue := true }
      if s.power.tripped then s1 else s1.setCartState (if present then .unidentified else .absent))

/-- R409: a minute's mean speed in percent, taken as at least a quarter. -/
def execCartLifeTick (meanSpeed : Nat) (s : State) : Out :=
  .next (let t := s.thermal
    if t.cart ≠ .identified then s
    else s.paced .lifeTick 0 (60 * SEC1) fun s =>
      let t := s.thermal
      let n := t.cartLife + max meanSpeed 25
      (s.modThermal fun t => { t with cartLife := n, lives := setLife t.lives t.cartId n }).cartFlags)

def execCartLifeWrite (s : State) : Out :=
  .next (if s.thermal.cart = .identified then s.paced .lifeWrite 0 (3600 * SEC1) fun s => s.modThermal fun t => { t with cartStored := t.cartLife / 100 } else s)

end Sys2Proof.Machine
end

