-- ==== Sys2Proof/Machine/Regs.lean ====
section
/-! DEFINITION. The control space (R6 to R12, R19): writes to its registers, and the reads that have an effect. -/
namespace Sys2Proof.Machine

/-! Writes. -/

/-- The application cores as an agent (Table 09-3). -/
def coresAgent : Nat := 0x0500

def State.postNarrow (s : State) (off : Nat) : State := s.post none 0x0001 coresAgent 0 0 off
def State.postReserved (s : State) (off : Nat) : State := s.post none 0x0002 coresAgent 0 0 off

/-- Clears the bits of a W1C field that are written as 1. -/
def w1c (old v : Nat) : Nat := old - (old &&& v)

/-- R419: a slot is passed while software holds it; a write while the Capstan holds it is ignored and recorded. -/
def State.handover (s : State) (byCapstan : Bool) (n : Nat) (v : W64) : State :=
  if (s.mbx n).owner && !byCapstan then s.post (some (n / 16)) 0x0005 n 0 0 v.toNat
  else s.modMbx n fun m =>
    { m with owner := bit v.toNat 0, seq := bits v.toNat 16 16, handAt := if bit v.toNat 0 then some s.now else m.handAt }

/-- The mailbox block (Tables 14-1, 14-2). -/
def State.mbxWrite (s : State) (byCapstan : Bool) (off : Nat) (v : W64) : State :=
  let p := off / 0x1000 - 1
  let o := off % 0x1000
  if off = 0 || off = 8 || off = 0x10 then s
  else if off < 0x1000 || 4 ≤ p then s.postReserved off
  else if o = 0 then
    (List.range 16).foldl (fun s i => if bit v.toNat i then s.modMbx (16 * p + i) fun m => { m with done := false } else s) s
  else if o = 8 then
    (List.range 16).foldl (fun s i => s.modMbx (16 * p + i) fun m => { m with irqEn := bit v.toNat i }) s
  else if 0x100 ≤ o && o < 0x300 && o % 0x20 = 0 then s.handover byCapstan (16 * p + (o - 0x100) / 0x20) v
  else if 0x100 ≤ o && o < 0x300 && o % 0x20 = 8 then s
  else s.postReserved off

/-- Registers of the Lanyard block that exist (Table 06-6). -/
def lnyListed (o : Nat) : Bool :=
  o % 8 == 0 && (o ≤ 0x40 || (0x80 ≤ o && o ≤ 0xC0) || (0x100 ≤ o && o ≤ 0x128))

/-- A write of a compare value arms its timer anew (R153). -/
def Lny.setTmr (l : Lny) (n v : Nat) : Lny := { l with tmr := l.tmr.set n v, tmrArmed := l.tmrArmed ||| 2 ^ n }
/-- LNY_TMR_CTRL: a timer that is enabled anew is armed. -/
def Lny.setTmrCtrl (l : Lny) (v : Nat) : Lny :=
  let en := bits v 0 8
  { l with tmrEn := en, tmrFired := w1c l.tmrFired (bits v 8 8), tmrArmed := l.tmrArmed ||| w1c en l.tmrEn }

def State.lnyWrite (s : State) (byCapstan : Bool) (o : Nat) (v : W64) : State :=
  let off := lnyBase + o
  if !lnyListed o then s.postReserved off
  else if 0x80 ≤ o && o ≤ 0xB8 then s.modLny fun l => l.setTmr ((o - 0x80) / 8) v.toNat
  else if o = 0xC0 then s.modLny fun l => l.setTmrCtrl v.toNat
  else capstanOnly byCapstan off s fun s =>
    if o = 0x08 then s.modLny fun l =>
      { l with adjRefused := l.adjRefused && !bit v.toNat 6, setRefused := l.setRefused && !bit v.toNat 7 }
    else if o = 0x10 then s.modLny fun l => l.setCtrl v.toNat
    else if o = 0x18 then s.modLny fun l => { l with trim := clampTrim (toSigned 32 (v.toNat % 2 ^ 32)) }
    else if o = 0x20 then s.modLny fun l => l.adjust (toSigned 32 (v.toNat % 2 ^ 32))
    else if o = 0x28 then s.lnySet v.toNat
    else if o = 0x40 then s.modLny fun l => { l with utcOfs := toSigned 16 (v.toNat % 2 ^ 16) }
    else if o = 0x100 then s.hchWrite v.toNat
    else s

/-- The fields of PWR_PART_p (Table 13-11); a value outside its range is not taken. -/
def State.partWrite (s : State) (p v : Nat) : State :=
  let (_, rq0, gm0, al) := s.prec p
  let rq := if 50 ≤ bits v 16 11 && bits v 16 11 ≤ 1200 then bits v 16 11 else rq0
  let gm := if bits v 28 4 ≤ 7 then bits v 28 4 else gm0
  let s1 := s.modPower fun w => { w with parts := w.parts.set p (bits v 0 2, rq, gm, al) }
  let cap := (((List.range 32).filter fun r => bit (s.part p).mask (r / 8)).map fun r => (s.region r).shareCap).foldl min 7
  (s1.setShare p (min cap gm)).rethrottle

/-- PWR_THROT_p: the sticky copy of a reason in force stays set (R8). -/
def State.throtWrite (s : State) (p v : Nat) : State :=
  s.modPower fun w => { w with throt := modAt w.throt p fun x => (x.1, w1c x.2 (v / 2 ^ 32) ||| x.1) }

/-- The power block (Table 13-9). -/
def State.pwrWrite (s : State) (byCapstan : Bool) (o : Nat) (v : W64) : State :=
  let off := 0x20000 + o
  let n := v.toNat
  if !(o % 8 == 0 && (o ≤ 0x88 || (0xC0 ≤ o && o ≤ 0xF8))) then s.postReserved off
  else if o = 0x10 then s.ceilWrite byCapstan v
  else capstanOnly byCapstan off s fun s =>
    if o = 0x68 then
      let h := bits n 32 10
      if h = 0 || 1000 < h then s else s.modPower fun w => { w with cleatHoldMs := h }
    else if o = 0x78 then s.modPower fun w =>
      { w with droopTrip := bits n 0 8, droopRelease := bits n 8 8, stretchPct := bits n 16 8 }
    else if o = 0x80 then
      if 3000 < bits n 0 12 then s else (s.modPower fun w => { w with derateM := bits n 0 12 }).rethrottle
    else if o = 0x88 then s.modPower fun w => { w with rampEn := bit n 0, guard := bits n 16 16 }
    else if 0xC0 ≤ o && o ≤ 0xD8 then s.partWrite ((o - 0xC0) / 8) n
    else if 0xE0 ≤ o then s.throtWrite ((o - 0xE0) / 8) n
    else s

/-- The thermal block (Table 13-12). -/
def State.thmWrite (s : State) (byCapstan : Bool) (o : Nat) (v : W64) : State :=
  if o = 0x68 then s.cartWrite byCapstan v
  else if o % 8 = 0 && o ≤ 0x60 then capstanOnly byCapstan (0x30000 + o) s fun s => s
  else s.postReserved (0x30000 + o)

/-- A word of the Amber RAM is written with good parity; firmware's areas take no core write (Table 15-5). -/
def State.amberWrite (s : State) (byCapstan : Bool) (o : Nat) (v : W64) : State :=
  if o % 8 ≠ 0 then s.postReserved (0x40000 + o)
  else if o < 0x8000 && !byCapstan then s.post none 0x0013 coresAgent 0 0 o
  else { s with standby := { s.standby with
    amber := cellsWrite s.standby.amber o (natLe 8 v.toNat), amberBad := s.standby.amberBad.filter fun a => a != o } }

/-- The backup block (Table 15-6). -/
def State.bkpWrite (s : State) (byCapstan : Bool) (o : Nat) (v : W64) : State :=
  if o % 8 ≠ 0 || 0x100 < o then s.postReserved (0x50000 + o)
  else if o = 0x100 || (o < 0x40 && !byCapstan) then s
  else { s with standby := { s.standby with bkp := s.standby.bkp.set (o / 8) v } }

/-- R481: the tail moves forward at most to the head. -/
def ErrPage.setTail (p : ErrPage) (v : Nat) : ErrPage :=
  let t := v % 64
  if (t + 64 - p.tail) % 64 ≤ (p.head + 64 - p.tail) % 64 then { p with tail := t } else p

/-- The error status block (Tables 16-9, 16-10, 09-4). -/
def State.errWrite (s : State) (o : Nat) (v : W64) : State :=
  let sc := o / 0x1000
  let r := o % 0x1000
  if 5 ≤ sc || r % 8 ≠ 0 then s.postReserved (0x60000 + o)
  else if r = 0 then s.modPage sc fun p => { p with overflow := p.overflow && !bit v.toNat 1 }
  else if r = 8 then s
  else if r = 0x10 then s.modPage sc fun p => p.setTail v.toNat
  else if r = 0x18 then s.modPage sc fun p => { p with irqEn := bit v.toNat 0 }
  else if r = 0x20 && sc ≠ 0 then s
  else if (0x400 ≤ r && r < 0x800) || (sc = 0 && 0x800 ≤ r && r < 0x840) then s
  else s.postReserved (0x60000 + o)

/-- The monitor whose registers an offset of the Strata block lies in: die and number (R462). -/
def strOf (o : Nat) : Option (Nat × Nat) :=
  let d := o / 0x20000
  let m := o % 0x20000 / 0x200
  if monExists d m then some (d, m) else none

/-- STR_CFG_m written directly: the fields of Table 16-2. -/
def Monitor.setCfg (x : Monitor) (now w : Nat) : Monitor :=
  let y := x.ofCfg w x.alarmAt
  let per := 2 ^ (10 + bits w 58 4)
  { x with
    source := y.source, shift := y.shift, layerFilt := y.layerFilt, opFilt := y.opFilt, layer := y.layer, op := y.op
    sel := y.sel, period := y.period, nextAt := (now / per + 1) * per }

/-- The Strata block (Table 16-1). -/
def State.strWrite (s : State) (byCapstan : Bool) (o : Nat) (v : W64) : State :=
  let off := 0x100000 + o
  let r := o % 0x200
  match strOf o with
  | none => s.postReserved off
  | some (d, m) =>
    if r % 8 ≠ 0 || !(r ≤ 0x30 || (0x100 ≤ r && r < 0x200)) then s.postReserved off
    else capstanOnly byCapstan off s fun s =>
      if r = 0 then s.modMon d m fun x => x.setCfg s.now v.toNat
      else if r = 8 then s.modMon d m fun x => { x with alarm := x.alarm && !bit v.toNat 0 }
      else if r = 0x30 then s.modMon d m fun x => { x with alarmAt := v.toNat % 2 ^ 32 }
      else s

/-- A write to the control space: narrower than 64 bits it is ignored and recorded (R6). -/
def State.regWrite (s : State) (byCapstan : Bool) (off width : Nat) (v : W64) : State :=
  if width ≠ 8 then s.postNarrow off
  else if off < 0x10000 then s.mbxWrite byCapstan off v
  else if off < 0x20000 then s.lnyWrite byCapstan (off - 0x10000) v
  else if off < 0x30000 then s.pwrWrite byCapstan (off - 0x20000) v
  else if off < 0x40000 then s.thmWrite byCapstan (off - 0x30000) v
  else if off < 0x50000 then s.amberWrite byCapstan (off - 0x40000) v
  else if off < 0x60000 then s.bkpWrite byCapstan (off - 0x50000) v
  else if off < 0x70000 then s.errWrite (off - 0x60000) v
  else if 0x100000 ≤ off then s.strWrite byCapstan (off - 0x100000) v
  else s.postReserved off

def execControlRegisterWrite (byCapstan : Bool) (off width : Nat) (v : W64) (s : State) : Out :=
  .next (s.regWrite byCapstan off width v)

def execMbxHandover (n : Nat) (v : W64) (s : State) : Out :=
  .next (if 64 ≤ n then s.postReserved (0x1000 * (n / 16 + 1) + 0x100 + 0x20 * (n % 16)) else s.handover false n v)

def execErrTailWrite (sc : Nat) (v : W64) (s : State) : Out :=
  .next (if 5 ≤ sc then s.postReserved (0x60010 + 0x1000 * sc) else s.modPage sc fun p => p.setTail v.toNat)

/-! Reads. -/

/-- What a read of a given width returns of a register (R6). -/
def halfOf (w : ReadWidth) (v : Nat) : W64 :=
  match w with
  | .full => BitVec.ofNat 64 v
  | .lower => BitVec.ofNat 64 (v % 2 ^ 32)
  | .upper => BitVec.ofNat 64 (v / 2 ^ 32 % 2 ^ 32)

/-- A register value with its reserved bits unspecified (R12). -/
def State.withReserved (s : State) (v res : Nat) : Nat × State :=
  let (w, s1) := s.drawFree
  (v ||| (w.toNat &&& res), s1)

/-- Answers a core's read of a register and, on a 64-bit one, clears its RC fields. -/
def State.answerRead (s : State) (w : ReadWidth) (v res : Nat) (clear : State → State) : State :=
  let (x, s1) := s.withReserved v res
  let s2 := { s1 with coreAns := some ⟨halfOf w x, false⟩ }
  match w with
  | .full => clear s2
  | .lower | .upper => s2

/-- ERR_SCOPE_LAST_d (Table 09-5). -/
def Die.scopeLastWord (x : Die) : Nat :=
  match x.scopeLast with
  | some (rel, acq, rs, as_, layer) =>
    rel % 2 ^ 16 + acq % 2 ^ 16 * 2 ^ 16 + rs % 8 * 2 ^ 32 + as_ % 8 * 2 ^ 36 + 2 ^ 39 + layer % 2 ^ 16 * 2 ^ 40
  | none => 0

/-- A read of a reserved offset returns zero (R19). -/
def State.readReserved (s : State) : State := { s with coreAns := some ⟨0, false⟩ }

/-- ERR_STATUS_s (Table 16-10). -/
def ErrPage.status (p : ErrPage) : Nat :=
  natOfBool (p.head != p.tail) + natOfBool p.overflow * 2 + p.dropped % 2 ^ 16 * 2 ^ 16

def execErrStatusRead (sc : Nat) (w : ReadWidth) (s : State) : Out :=
  .next (if 5 ≤ sc then s.readReserved
    else s.answerRead w (s.page sc).status 0xFFFFFFFF0000FFFC fun s => s.modPage sc fun p => { p with dropped := 0 })

/-- Fault records of a partition that wait for CNT_FAULTS. -/
def State.faultsWaiting (s : State) (p : Nat) : Nat := ((s.diesOf p).map fun d => (s.die d).faultQ.length).sum

/-- Page 0 has no ERR_FAULTQ: a reserved offset reads zero (R19). -/
def execErrFaultqRead (sc : Nat) (w : ReadWidth) (s : State) : Out :=
  .next (if sc = 0 || 5 ≤ sc then s.readReserved
    else s.answerRead w (s.faultsWaiting (sc - 1) % 2 ^ 16 + (s.page sc).faultDrop % 2 ^ 16 * 2 ^ 16) 0xFFFFFFFF00000000
      fun s => s.modPage sc fun p => { p with faultDrop := 0 })

def execErrScopeCntRead (d : Nat) (w : ReadWidth) (s : State) : Out :=
  .next (if 4 ≤ d then s.readReserved
    else s.answerRead w (s.die d).scopeCnt 0xFFFFFFFF00000000 fun s => s.modDie d fun x => { x with scopeCnt := 0 })

/-- PWR_INRUSH (Table 13-9). -/
def State.pwrInrush (s : State) : Nat :=
  s.power.deferrals % 2 ^ 32 + match s.power.wakingRegion with
    | some r => r % 8 * 2 ^ 32 + r / 8 * 2 ^ 37 + 2 ^ 39
    | none => 0

def execPwrInrushRead (w : ReadWidth) (s : State) : Out :=
  .next (s.answerRead w s.pwrInrush 0xFFFFFF0000000000 fun s => s.modPower fun x => { x with deferrals := 0 })

def execStrStatRead (d m : Nat) (w : ReadWidth) (s : State) : Out :=
  .next (if !monExists d m then s.readReserved
    else s.answerRead w (s.mon d m).stat 0xFFFFFFFF0000FFF8 fun s => s.modMon d m fun x => { x with dropped := 0 })

/-- A read of a word of the Amber RAM (R456): with bad parity it returns the stored value and is recorded. What firmware
stores in its own areas is not laid out in the spec, so that their words read as free values. -/
def execAmberRamRead (ofs : Nat) (w : ReadWidth) (parity : Bool) (s : State) : Out :=
  .next (if 0x10000 ≤ ofs || ofs % 8 ≠ 0 then s.readReserved
    else
    let bad := if parity && !s.standby.amberBad.contains ofs then ofs :: s.standby.amberBad else s.standby.amberBad
    let s1 := { s with standby := { s.standby with amberBad := bad } }
    let s2 := if bad.contains ofs then s1.post none 0x0012 coresAgent 0 0 ofs else s1
    s2.answerRead w (if ofs < 0x8000 then 0 else leNat (cellsRead s.standby.amber ofs 8))
      (if ofs < 0x8000 then 2 ^ 64 - 1 else 0) fun s => s)

end Sys2Proof.Machine
end

