-- ==== Sys2Proof/Machine/Pins.lean ====
section
/-! DEFINITION. The management port (R435, R436) and the SMBus target (R497, R498). -/
namespace Sys2Proof.Machine

/-! The management port. -/

/-- What the port makes of a frame (R435). -/
inductive FrameClass where
  | ptp | management | dropped | cores
  deriving DecidableEq, Repr

/-- An address of the Capstan, as SYS_NET set them. -/
def State.capstanIp (s : State) (ip : Nat) : Bool := ip == s.cap.ipv4 || ip == s.cap.ipv6

def State.classify (s : State) (f : Frame) : FrameClass :=
  if f.etherType = 0x88F7 || (f.isUdp && s.capstanIp f.dstIp && (f.dstPort = 319 || f.dstPort = 320)) then .ptp
  else if f.isUdp && s.capstanIp f.dstIp && f.dstPort = 30817 then .management
  else if f.dstMac = s.cap.mac then .dropped
  else .cores

/-- The session of a source address and port. -/
def State.sessionOf (s : State) (addr port : Nat) : Option Nat :=
  (List.range 8).find? fun k => match s.session k with
    | some x => x.addr == addr && x.port == port
    | none => false

/-- A datagram of the management protocol: it keeps its session alive; HELLO opens one while fewer than 8 are open. A ninth is
refused with BUSY (R436), and a message before HELLO with VERSION (Table 14-6). -/
def State.datagram (s : State) (f : Frame) : State :=
  if 4096 < f.length || s.cap.run = .booting then s
  else match s.sessionOf f.srcAddr f.srcPort with
    | some k => s.modSession k fun x => { x with last := s.now, handAt := some s.now }
    | none =>
      let refuse := fun st : Nat => s.modCap fun c => { c with mgtRefused := some (f.srcAddr, f.srcPort, st) }
      if !f.isHello then refuse stVersion
      else match (List.range 8).find? fun k => (s.session k).isNone with
        | none => refuse stBusy
        | some k => s.modCap fun c => { c with sessions := c.sessions.set k (some ⟨f.srcAddr, f.srcPort, s.now, none, [], none, some s.now⟩) }

def execMgtFrame (fr : Frame) (s : State) : Out :=
  .next (match s.classify fr with
    | .ptp => s.modCap fun c => { c with mgtPtp := c.mgtPtp + 1 }
    | .management => s.datagram fr
    | .dropped => s.modCap fun c => { c with mgtDropped := c.mgtDropped + 1 }
    | .cores => s.modCap fun c => { c with mgtOs := c.mgtOs + 1 })

def execSessionExpiry (k : Nat) (s : State) : Out :=
  onInst (k < 8) s fun s =>
    match s.session k with
    | some x =>
      if x.last + 600 * SEC1 ≤ s.now then s.modCap fun c => { c with sessions := c.sessions.set k none } else s
    | none => s

/-! Registers that the SMBus shows, each with its reserved bits. -/

def FeedRec.word (x : FeedRec) : Nat := x.mv % 2 ^ 16 + x.ma10 % 2 ^ 16 * 2 ^ 16 + x.st.code * 2 ^ 32

/-- PWR_STATUS (Table 13-10). -/
def State.pwrStatus (s : State) : Nat :=
  let w := s.power
  w.gear % 16 + s.gearCeil % 16 * 2 ^ 4 + natOfBool s.feedCap.isSome * 2 ^ 8 + natOfBool (w.ballast != 0) * 2 ^ 9 +
    natOfBool w.ramp.isSome * 2 ^ 10 + natOfBool s.thermal.cartWarn * 2 ^ 11 + w.lastMinute % 2 ^ 32 * 2 ^ 16

/-- PWR_CLEAT (Table 13-9). -/
def State.pwrCleat (s : State) : Nat :=
  let w := s.power
  w.cleatCount % 2 ^ 16 + w.cleatSources % 2 ^ 8 * 2 ^ 16 + natOfBool w.cleat * 2 ^ 24 + w.cleatHoldMs % 2 ^ 10 * 2 ^ 32

/-- THM_DIE_d and THM_SPINE (Table 13-12): the hottest sensor, its index, the rise and the invalid sensors. -/
def thmWord (l : List (Option Int)) (rise : Int) : Nat :=
  let h := (hottest l).getD (0, 0)
  ofSigned 8 h.1 + h.2 % 64 * 2 ^ 8 + ofSigned 8 rise * 2 ^ 16 + (l.filter Option.isNone).length % 256 * 2 ^ 24

def State.thmDie (s : State) (d : Nat) : Nat :=
  thmWord (((List.range 8).map fun k => (s.region (8 * d + k)).temps).flatten) (riseOf (s.thermal.rises.getD d []))

def State.thmFan (s : State) : Nat :=
  s.thermal.fanCmd % 2 ^ 8 + s.thermal.fanMeas % 2 ^ 8 * 2 ^ 8 + s.thermal.fanRpm % 2 ^ 16 * 2 ^ 16

/-- Registers as bytes, their reserved bits unspecified (R12). -/
def State.regBytes (s : State) : List (Nat × Nat) → List Byte × State
  | [] => ([], s)
  | (v, res) :: r =>
    let (x, s1) := s.withReserved v res
    let (l, s2) := s1.regBytes r
    (natLe 8 x ++ l, s2)

/-! Control wires of the cartridge (Table 17-5). -/

/-- CART_PRES_N is low while a cartridge is fitted. -/
def State.cartPresLow (s : State) : Bool := s.thermal.present
/-- CART_ALERT_N is low while THM_CART.STATE is not 1, or EXPIRED or CART_WARN is set. -/
def State.cartAlertLow (s : State) : Bool := s.thermal.cart != .identified || s.thermal.cartExpired || s.thermal.cartWarn

/-! SMBus. -/

/-- The ordering code in ASCII (Table 17-11). -/
def orderingCode : List Byte := [0x48, 0x58, 0x4D, 0x2D, 0x4B, 0x56, 0x31, 0x2D, 0x37, 0x32, 0x30, 0x41]

def freeByte (w : W64) (k : Nat) : Byte := BitVec.ofNat 8 (w.toNat / 2 ^ (8 * k))

def feedRes : Nat := 2 ^ 64 - 2 ^ 34
def thmRes : Nat := 2 ^ 64 - 2 ^ 32 + 0xC000

/-- The data of a code (Table 17-6); none for a code not listed. What fills the ordering code's field, and reserved bytes
and bits, are open. -/
def State.smbusData (s : State) (code : Nat) : Option (List Byte × State) :=
  let running := s.cap.run == .running
  let (w, s1) := s.drawFree
  let zeros := fun n => 0x80 :: List.replicate (n - 1) (0 : Byte)
  if code = 1 then
    some (orderingCode ++ (List.range 4).map (freeByte w) ++ natLe 8 Config.moduleId ++ natLe 4 Config.manufactureDate ++
      (List.range 4).map (fun k => freeByte w (4 + k)), s1)
  else if code = 2 then
    some (s.regBytes [(s.pwrInput, 0), (s.power.feedA.word, feedRes), (s.power.feedB.word, feedRes)])
  else if code = 3 then
    some (s.regBytes [(s.pwrStatus, 2 ^ 64 - 2 ^ 48 + 0xF000), (s.pwrCleat, 2 ^ 64 - 2 ^ 42 + 0xFE000000),
      (s.rstCause, 0xFFF0)])
  else if code = 4 then
    (if !running then some (zeros 64, s)
    else
      let (l, s2) := s1.regBytes [(s.thmDie 0, thmRes), (s.thmDie 1, thmRes), (s.thmDie 2, thmRes), (s.thmDie 3, thmRes),
        (thmWord s.thermal.spine 0, thmRes), (ofSigned 8 s.thermal.inlet, 2 ^ 64 - 2 ^ 8), (s.thmFan, 2 ^ 64 - 2 ^ 32)]
      some ((freeByte w 0 &&& 0x7F) :: (List.range 7).map (fun k => freeByte w (k + 1)) ++ l, s2))
  else if code = 5 then
    (if !running then some (zeros 8, s) else some (s.regBytes [(s.mbxCapstan, 2 ^ 64 - 2 ^ 32 + 0xFC)]))
  else none

/-- The target's 7-bit address. -/
def State.smbusAddr (s : State) : Nat := 0x58 + s.pins.addr % 4

def State.setSmb (s : State) (l : Option (List Byte)) : State := { s with pins := { s.pins with smb := l } }

/-- R497: nothing is acknowledged for another address or code, or with a bad PEC. -/
def execSmbusBlockRead (addr code : Nat) (pecOk : Bool) (s : State) : Out :=
  .next (if !s.power.standby || addr ≠ s.smbusAddr || !pecOk then s.setSmb none
    else match s.smbusData code with
      | some (l, s1) => s1.setSmb (some l)
      | none => s.setSmb none)

/-- R498: the module answers a read of the Alert Response Address with its own, and releases the wire. -/
def execSmbusAlertResponse (s : State) : Out :=
  .next (if s.power.standby && s.pins.alertLow then
      { s with pins := { s.pins with alertLow := false, smb := some [BitVec.ofNat 8 s.smbusAddr] } }
    else s.setSmb none)

end Sys2Proof.Machine
end

