-- ==== Sys2Proof/WellFormed.lean ====
section
/-! DEFINITION. Which commands the encodings of the spec admit: the widths of the fields of each command and the numbers of the
instances. An ill-formed command is one that no instruction word, register address or message of the spec can carry. -/
namespace Sys2Proof

/-- Ranges of Tables 03-9 and 03-10. -/
def MmaF.wf (f : MmaF) : Bool :=
  decide (f.fmtA < 16 ∧ f.fmtB < 16 ∧ f.lm1 < 8 ∧ f.bcSrc < 4 ∧ f.s < 4096 ∧ f.set < 16 ∧ f.sigTok < 16 ∧
    f.aBase < 32768 ∧ f.bBase < 32768 ∧ f.cBase < 32768)

/-- Ranges of Tables 05-1 and 05-2. -/
def VecF.wf (f : VecF) : Bool :=
  decide (f.vd < 32 ∧ f.va < 32 ∧ f.vb < 32 ∧ f.vc < 32 ∧ f.fmt < 16 ∧ f.fmt2 < 16 ∧ f.rm < 4 ∧ f.amx < 16 ∧
    f.sub < 16 ∧ f.sigTok < 16 ∧ f.imm < 2 ^ 32 ∧ f.base < 32768 ∧ f.xa < 16 ∧ f.xb < 16 ∧ f.aux < 256)

/-- Ranges of Table 08-4. -/
def PorF.wf (f : PorF) : Bool :=
  decide (f.lbase < 32768 ∧ f.len < 65536 ∧ f.sigTok < 16 ∧ f.xr < 16 ∧ f.scope < 8 ∧ f.via < 4 ∧
    f.sub < 16 ∧ f.tcnt < 16 ∧ f.addr < 2 ^ 64)

/-- Ranges of Table 11-3. -/
def ReefPutF.wf (f : ReefPutF) : Bool :=
  decide (f.lbase < 32768 ∧ f.len < 65536 ∧ f.sigTok < 16 ∧ f.xr < 16 ∧ f.bucket < 512 ∧ f.group < 16 ∧
    f.elemOfs < 2 ^ 32)

/-- Ranges of Tables 14-4 and 14-5, and a source that exists. -/
def Call.wf (c : Call) : Bool :=
  decide (c.msg.verMajor < 256 ∧ c.msg.verMinor < 256 ∧ c.msg.auth < 4 ∧ c.msg.cflags < 256 ∧ c.msg.status < 65536 ∧
    c.msg.length < 2 ^ 32 ∧ c.msg.txn < 2 ^ 64 ∧ c.msg.partition < 256) &&
  match c.src with
  | .mbx n => decide (n < 64)
  | .session k => decide (k < 8)
  | .fabric node => decide (node < 65536)

/-- Widths of Table 10-1. -/
def Flit.wf (x : Flit) : Bool := decide (x.hdr < 2 ^ 96 ∧ x.payload < 2 ^ 1920 ∧ x.crc < 2 ^ 32) && x.uncorr.all fun l => decide (l < 4)

/-- Widths of Table 10-3. -/
def HelloBody.wf (h : HelloBody) : Bool :=
  decide (h.major < 256 ∧ h.minor < 256 ∧ h.node < 65536 ∧ h.port < 256 ∧ h.lanes < 256)

/-- Offsets of a core access: a fabric window holds 2^40 bytes, the device-memory window 2^40, the control space 2^26. -/
def CoreWin.ofsOk (w : CoreWin) (ofs : Nat) : Bool :=
  match w with
  | .device => decide (ofs < 2 ^ 40)
  | .control => decide (ofs < 2 ^ 26)
  | .fabric k => decide (k < 16) && decide (ofs < 2 ^ 40)

/-- A sample of a die or of the spine (R462). -/
def SampleEvent.wf (x : SampleEvent) : Bool := decide (x.d < 5 ∧ x.source < 256 ∧ x.layer < 65536 ∧ x.op < 65536)

/-- The well-formed commands. -/
def Instr.wf : Instr → Bool
  | .nop t => decide (t < 384)
  | .endStrand t => decide (t < 384)
  | .wait t tok n => decide (t < 384) && decide (tok < 16) && decide (n < 65536)
  | .signal t tok _ tile cnt => decide (t < 384) && decide (tok < 16) && decide (tile < 65536) && decide (cnt < 256)
  | .signalArrival _ => true
  | .loop t trips back => decide (t < 384) && decide (trips < 2 ^ 32) && decide (back < 65536)
  | .sli t xd _ => decide (t < 384) && decide (xd < 16)
  | .sadd t xd xa _ => decide (t < 384) && decide (xd < 16) && decide (xa < 16)
  | .fence t mask => decide (t < 384) && decide (mask < 16)
  | .sstat t xd sel => decide (t < 384) && decide (xd < 16) && decide (sel < 16)
  | .orel t scope => decide (t < 384) && decide (scope < 8)
  | .oacq t scope => decide (t < 384) && decide (scope < 8)
  | .ofull t scope => decide (t < 384) && decide (scope < 8)
  | .mma t f => decide (t < 384) && f.wf
  | .mscl t set src => decide (t < 384) && decide (set < 16) && decide (src < 32768)
  | .scaleSetLoad t => decide (t < 384)
  | .mflag t dst _ => decide (t < 384) && decide (dst < 16)
  | .feederDeliver t _ idx _ => decide (t < 384) && decide (idx < 16)
  | .dpuAccumulate t i j _ => decide (t < 384) && decide (i < 16) && decide (j < 16)
  | .columnDrain t j => decide (t < 384) && decide (j < 16)
  | .queueHandoff t => decide (t < 384)
  | .splicePanelWrite t => decide (t < 384)
  | .vld t f _ => decide (t < 384) && f.wf
  | .vst t f => decide (t < 384) && f.wf
  | .vpop t f => decide (t < 384) && f.wf
  | .queueEntryFree t => decide (t < 384)
  | .valu t f => decide (t < 384) && f.wf
  | .vfnOp t f => decide (t < 384) && f.wf
  | .vred t f => decide (t < 384) && f.wf
  | .vsmx t f => decide (t < 384) && f.wf
  | .vperm t f => decide (t < 384) && f.wf
  | .vshuf t f => decide (t < 384) && f.wf
  | .vpack t f => decide (t < 384) && f.wf
  | .vunpk t f => decide (t < 384) && f.wf
  | .vqk4 t f => decide (t < 384) && f.wf
  | .vmxiImport t f _ => decide (t < 384) && f.wf
  | .vmxiScan t f => decide (t < 384) && f.wf
  | .vrng t f => decide (t < 384) && f.wf
  | .vmask t f => decide (t < 384) && f.wf
  | .vlossAdd t f => decide (t < 384) && f.wf
  | .vlossDump t f => decide (t < 384) && f.wf
  | .vtree t f => decide (t < 384) && f.wf
  | .vscmp t f => decide (t < 384) && f.wf
  | .vamax t f => decide (t < 384) && f.wf
  | .vflag t f => decide (t < 384) && f.wf
  | .vsetStep t f => decide (t < 384) && f.wf
  | .vsetVetoMask t f => decide (t < 384) && f.wf
  | .vsetSeqtab t f => decide (t < 384) && f.wf
  | .vxeResultWrite t _ => decide (t < 384)
  | .prd t f => decide (t < 384) && f.wf
  | .pwr t f => decide (t < 384) && f.wf
  | .pland t f => decide (t < 384) && f.wf
  | .pgath t f => decide (t < 384) && f.wf
  | .pscat t f => decide (t < 384) && f.wf
  | .pamo t f => decide (t < 384) && f.wf
  | .porterRequestComplete t _ _ _ => decide (t < 384)
  | .reefPut t f => decide (t < 384) && f.wf
  | .reefClose t group sigTok _ => decide (t < 384) && decide (group < 16) && decide (sigTok < 16)
  | .strandLaunch t => decide (t < 384)
  | .strandComplete t slot => decide (t < 384) && decide (slot < 4)
  | .reexecution t slot => decide (t < 384) && decide (slot < 4)
  | .strandWatchdog t slot => decide (t < 384) && decide (slot < 4)
  | .controlRegisterWrite _ off width _ => decide (off % 4 = 0) && decide (off < 2 ^ 21) && decide (width = 4 ∨ width = 8)
  | .lnyAdjWrite _ _ => true
  | .lnySetWrite _ _ => true
  | .lnyTrimWrite _ _ => true
  | .hchCtrlWrite _ _ => true
  | .mbxHandover n _ => decide (n < 64)
  | .errTailWrite sc _ => decide (sc < 5)
  | .errStatusRead sc _ => decide (sc < 5)
  | .errFaultqRead sc _ => decide (sc < 5)
  | .errScopeCntRead d _ => decide (d < 4)
  | .pwrInrushRead _ => true
  | .strStatRead d m _ => decide (d < 4) && decide (m < 256) || decide (d = 4) && decide (m < 64)
  | .pwrCeilOwnerWrite _ _ => true
  | .thmCartPolicyWrite _ _ => true
  | .hitchPulse => true
  | .hitchCalibration delays => decide (delays.length = 32)
  | .lnySlewStep => true
  | .timerFire n => decide (n < 8)
  | .ptpMessage _ => true
  | .ppsEdge => true
  | .timeTransferStart => true
  | .holdoverEntry => true
  | .holdoverTick => true
  | .hintPulse _ => true
  | .gearRampAction _ => true
  | .powerGoodCheck failing => failing.all fun r => decide (r < 32)
  | .hbmRateChange d => decide (d < 4)
  | .hbmLinkTraining stack _ _ => decide (stack < 20)
  | .gearSwitch => true
  | .gearChangeComplete => true
  | .cleatAssert sources => decide (sources < 64)
  | .cleatRelease => true
  | .cleatHoldExpiry => true
  | .droopTrip r det => decide (r < 32) && decide (det < 24)
  | .droopRelease r => decide (r < 32)
  | .homeSliceOperation d slice _ => decide (d < 4) && decide (slice < 16)
  | .cacheEvict d _ => decide (d < 4)
  | .scrubBlock d _ => decide (d < 4)
  | .hbmTempRead stack _ => decide (stack < 20)
  | .releaseBegin t _ => decide (t < 384)
  | .flagLand d _ => decide (d < 4)
  | .flagBufferGrant d => decide (d < 4)
  | .dataFlit port x => decide (port < 16) && x.wf
  | .idleFlit port x => decide (port < 16) && x.wf
  | .ackSend port => decide (port < 16)
  | .linkHello port _ h => decide (port < 16) && h.wf
  | .timeReq port _ t1 => decide (port < 16) && decide (t1 < 2 ^ 64)
  | .timeRsp port _ t1 t2 t3 => decide (port < 16) && decide (t1 < 2 ^ 64) && decide (t2 < 2 ^ 64) && decide (t3 < 2 ^ 64)
  | .retrain port _ lanes reason => decide (port < 16) && decide (lanes < 256) && decide (reason < 256)
  | .ctrlRepeat port => decide (port < 16)
  | .pmdTrainingDone port _ => decide (port < 16)
  | .helloTimeout port => decide (port < 16)
  | .portRestart port => decide (port < 16)
  | .laneFail port lane _ => decide (port < 16) && decide (lane < 4)
  | .retrainDone port => decide (port < 16)
  | .retrainTimeout port => decide (port < 16)
  | .packetForward _ => true
  | .packetSend port => decide (port < 16)
  | .readReq _ => true
  | .readItemReq _ => true
  | .writeReq _ => true
  | .writeItemReq _ => true
  | .atomicReq _ => true
  | .landReq _ => true
  | .readRsp _ => true
  | .itemRsp _ => true
  | .writeAck _ => true
  | .atomicRsp _ => true
  | .landAck _ => true
  | .landHeld _ => true
  | .landGo _ => true
  | .landCancel _ => true
  | .refuse _ => true
  | .mgtMsg _ => true
  | .mgtRsp _ => true
  | .fabTimeout _ => true
  | .flagExpiry d _ => decide (d < 4)
  | .fabThrottle t => decide (t < 384)
  | .contrib _ => true
  | .resend _ => true
  | .reportSend d g => decide (d < 4) && decide (g < 12)
  | .report _ => true
  | .decision _ => true
  | .decisionTimeout d g => decide (d < 4) && decide (g < 12)
  | .f32Up _ => true
  | .f32Down _ => true
  | .preDecisionPass d => decide (d < 4)
  | .commitPass d => decide (d < 4)
  | .feedSample _ _ _ _ => true
  | .feedSag _ => true
  | .feedSagEnd _ => true
  | .feedOvervoltage _ => true
  | .feedLoss _ => true
  | .feedReadmit _ => true
  | .standbyLoss => true
  | .plugLoopClose => true
  | .plugLoopOpen => true
  | .brickFail b => decide (b < 8)
  | .phaseFail r i => decide (r < 32) && decide (i < 6)
  | .railRegulatorFail rail i => match rail with
    | .vddLink => decide (i < 2)
    | .vddSram => decide (i < 4)
    | .vddHbmif => decide (i < 4)
    | .hbmStack => decide (i < 4)
  | .inrushGrant r _ => decide (r < 32)
  | .gateRampDone r => decide (r < 32)
  | .raiseCheck _ _ => true
  | .wearUpdate _ => true
  | .stretchCheck r _ => decide (r < 32)
  | .shareBudget _ draws => decide (draws.length = 4)
  | .ballastAdjust _ => true
  | .tetherCeilingChange => true
  | .meterRecord => true
  | .meterSign => true
  | .dieSensorRead d temps => decide (d < 5) && decide (temps.length = if d < 4 then 64 else 16)
  | .inletRead _ => true
  | .blowerUpdate _ _ => true
  | .blowerFail => true
  | .cartChallenge _ => true
  | .cartPresenceChange _ => true
  | .cartLifeTick _ => true
  | .cartLifeWrite => true
  | .mgtFrame _ => true
  | .sessionExpiry k => decide (k < 8)
  | .capstanRestart => true
  | .hello c major minor => c.wf && decide (major < 256) && decide (minor < 256)
  | .sysQuery c => c.wf
  | .sysPartition c masks => c.wf && masks.all fun m => decide (m < 256)
  | .sysCarveout c _ => c.wf
  | .sysNet c _ _ _ => c.wf
  | .memMap c _ => c.wf
  | .memUnmap c _ => c.wf
  | .memFill c _ _ _ => c.wf
  | .memChecksum c _ _ => c.wf
  | .memHold c => c.wf
  | .memRelease c => c.wf
  | .memScrub c _ => c.wf
  | .progLoad c _ _ _ _ => c.wf
  | .progBind c handle _ => c.wf && decide (handle < 2 ^ 32)
  | .progLaunch c beatBase => c.wf && decide (beatBase < 2 ^ 48)
  | .progAbort c => c.wf
  | .progUnbind c => c.wf
  | .progKey c slot _ => c.wf && decide (slot < 256)
  | .fabJoin c _ => c.wf
  | .fabLeave c => c.wf
  | .fabGroup c _ => c.wf
  | .fabWindow c w _ => c.wf && decide (w < 256)
  | .fabParam c _ => c.wf
  | .fabQuery c => c.wf
  | .fabRoute c _ _ => c.wf
  | .fabGateway c _ _ => c.wf
  | .fabPort c port _ => c.wf && decide (port < 256)
  | .pwrCeiling c _ => c.wf
  | .pwrPriority c p _ => c.wf && decide (p < 256)
  | .pwrRequest c _ _ => c.wf
  | .pwrTetherKey c slot _ => c.wf && decide (slot < 256)
  | .pwrDerate c _ => c.wf
  | .pwrCartPolicy c _ _ _ => c.wf
  | .pwrTune c _ => c.wf
  | .pwrMeter c _ _ => c.wf
  | .tetherCeiling c _ _ _ => c.wf
  | .tetherSchedule c _ _ => c.wf
  | .tetherClear c => c.wf
  | .tetherStatus c => c.wf
  | .meterFetch c _ _ => c.wf
  | .timeSource c _ _ _ => c.wf
  | .timeSet c _ _ => c.wf
  | .timeShift c _ => c.wf
  | .timeStatus c => c.wf
  | .secOwnerClaim c _ => c.wf
  | .secOwnerRelease c => c.wf
  | .secAttest c _ => c.wf
  | .secCerts c _ => c.wf
  | .secRevoke c _ slot => c.wf && decide (slot < 256)
  | .secDebugDisable c => c.wf
  | .secDebugOpen c => c.wf
  | .secFabricLock c _ _ => c.wf
  | .secFwWrite c _ _ => c.wf
  | .secFwActivate c => c.wf
  | .secFwCommit c => c.wf
  | .cntFaults c _ => c.wf
  | .cntStrataConfig c d m _ _ => c.wf && decide (d < 256) && decide (m < 256)
  | .cntStrataRead c d ms => c.wf && decide (d < 256) && ms.all fun m => decide (m < 256)
  | .cntStrataClear c d m => c.wf && decide (d < 256) && decide (m < 256)
  | .cntStrataAck c d m => c.wf && decide (d < 256) && decide (m < 256)
  | .cntStrataEnergy c _ => c.wf
  | .cntDumpTrigger c => c.wf
  | .cntDumpMap c => c.wf
  | .cntDumpKeep c _ => c.wf
  | .cntDumpFabTrig c => c.wf
  | .cntDumpStatus c => c.wf
  | .rstPartition c => c.wf
  | .rstBlock c _ _ _ => c.wf
  | .blockResetIdle _ => true
  | .rstCapstan c => c.wf
  | .rstModule c => c.wf
  | .resetNAssert _ => true
  | .resetNRelease _ => true
  | .loaderCheck => true
  | .releaseWaveStage row d => decide (4 ≤ row) && decide (row ≤ 8) && decide (d < 4)
  | .releaseStageTimeout d => decide (d < 4)
  | .refclkStop => true
  | .strataSample x => x.wf
  | .strataPeriodSample d m => decide (d < 4) && decide (m < 256) || decide (d = 4) && decide (m < 64)
  | .energyCalibration d _ => decide (d < 4)
  | .geodeTrigger p cause _ => decide (p < 4) && decide (1 ≤ cause) && decide (cause ≤ 4)
  | .geodeSettle p => decide (p < 4)
  | .geodeWriteEnd p _ => decide (p < 4)
  | .smbusBlockRead addr code _ => decide (addr < 128) && decide (code < 256)
  | .smbusAlertResponse => true
  | .refclkRestart => true
  | .standbyValid => true
  | .mramPulseEnd => true
  | .tileSramLineRequest t _ => decide (t < 384)
  | .fabricWindowAccess w ofs _ => w.ofsOk ofs
  | .amberRamRead ofs _ _ => decide (ofs < 65536) && decide (ofs % 8 = 0)

end Sys2Proof
end

