-- ==== Sys2Proof/Machine/CoreBus.lean ====
section
/-! DEFINITION. What the application cores read of the control space (R6, R12, R19, R151), and their accesses to the device-memory
window, the fabric windows and the control space (R225, R277, R293). -/
namespace Sys2Proof.Machine

/-! Register values, each with its reserved bits. A register not listed reads zero (R19). -/

/-- A value of n bits, the bits above reserved. -/
def lowBits (n v : Nat) : Nat × Nat := (v % 2 ^ n, 2 ^ 64 - 2 ^ n)

/-- The mailbox block (Tables 14-1, 14-2). -/
def State.mbxRead (s : State) (off : Nat) : Nat × Nat :=
  let p := off / 0x1000 - 1
  let o := off % 0x1000
  let each := fun f : Mailbox → Bool => ((List.range 16).map fun i => natOfBool (f (s.mbx (16 * p + i))) * 2 ^ i).sum
  if off = 0 then lowBits 24 0x0140
  else if off = 8 then (s.mbxBufBase, 0)
  else if off = 0x10 then (s.mbxCapstan, 2 ^ 64 - 2 ^ 32 + 0xFC)
  else if off < 0x1000 || 4 ≤ p then (0, 0)
  else if o = 0 then lowBits 16 (each Mailbox.done)
  else if o = 8 then lowBits 16 (each Mailbox.irqEn)
  else if 0x100 ≤ o && o < 0x300 && o % 0x20 = 0 then
    let m := s.mbx (16 * p + (o - 0x100) / 0x20)
    (natOfBool m.owner + m.seq % 2 ^ 16 * 2 ^ 16, 2 ^ 64 - 2 ^ 32 + 0xFFFE)
  else if 0x100 ≤ o && o < 0x300 && o % 0x20 = 8 then
    let m := s.mbx (16 * p + (o - 0x100) / 0x20)
    lowBits 33 (m.status % 2 ^ 16 + m.seqDone % 2 ^ 16 * 2 ^ 16 + natOfBool m.valid * 2 ^ 32)
  else (0, 0)

/-- LNY_CTRL (Table 06-8). -/
def Lny.ctrl (l : Lny) : Nat :=
  l.src % 4 + natOfBool l.master * 4 + l.domain % 128 * 8 + l.holdRate % 256 * 2 ^ 16 + l.faultNs % 256 * 2 ^ 24

/-- HCH_CTRL (Table 06-9). -/
def Lny.hchCtrl (l : Lny) : Nat := l.shift % 32 + natOfBool l.hintEn * 32 + l.hintThr % 4096 * 2 ^ 16

/-- HCH_GEAR_STATE (Table 06-10). -/
def State.gearState (s : State) : Nat :=
  let w := s.power
  w.gear % 16 + (match w.cur with | some c => c.next % 16 | none => 0) * 16 + natOfBool w.cur.isSome * 2 ^ 8 +
    natOfBool w.cleat * 2 ^ 9 + w.aborts % 2 ^ 16 * 2 ^ 16

/-- The Lanyard block (Table 06-6): LNY_NOW is the value when the read reaches it (R151); the write-only registers read
zero. -/
def State.lnyRead (s : State) (o : Nat) : Nat × Nat :=
  let l := s.lny
  if o = 0 then (l.now % 2 ^ 64, 0)
  else if o = 0x08 then (l.status, 2 ^ 64 - 2 ^ 32 + 0xFF00)
  else if o = 0x10 then (l.ctrl, 2 ^ 64 - 2 ^ 32 + 0xFC00)
  else if o = 0x18 then lowBits 32 (ofSigned 32 l.trim)
  else if o = 0x30 then lowBits 32 l.errEst
  else if o = 0x38 then (l.ppsTs % 2 ^ 64, 0)
  else if o = 0x40 then lowBits 16 (ofSigned 16 l.utcOfs)
  else if 0x80 ≤ o && o ≤ 0xB8 && o % 8 = 0 then (l.tmr.getD ((o - 0x80) / 8) 0 % 2 ^ 64, 0)
  else if o = 0xC0 then lowBits 16 (l.tmrEn % 256 + l.tmrFired % 256 * 256)
  else if o = 0x100 then (l.hchCtrl, 2 ^ 64 - 2 ^ 28 + 0xFFC0)
  else if o = 0x108 then lowBits 48 s.beatNow
  else if o = 0x110 then (s.gearState, 2 ^ 64 - 2 ^ 32 + 0xFC00)
  else if o = 0x118 then lowBits 48 (match s.power.cur with | some c => c.bc | none => 0)
  else if o = 0x120 then (s.rgears 15 0, 0)
  else if o = 0x128 then (s.rgears 15 1, 0)
  else (0, 0)

/-- PWR_PART_p (Table 13-11). -/
def State.partRegRead (s : State) (p : Nat) : Nat :=
  let (prio, req, gmax, alloc) := s.prec p
  let gears := ((List.range 32).filter fun r => bit (s.part p).mask (r / 8) && !(s.region r).fenced).map fun r => (s.region r).gear
  prio % 4 + req % 2 ^ 11 * 2 ^ 16 + gmax % 16 * 2 ^ 28 + alloc % 2 ^ 16 * 2 ^ 32 +
    (if gears.isEmpty then 0 else gears.foldl min 15) * 2 ^ 48

/-- The power block (Tables 13-9 to 13-11). -/
def State.pwrRead (s : State) (o : Nat) : Nat × Nat :=
  let w := s.power
  if o = 0 then (s.pwrStatus, 2 ^ 64 - 2 ^ 48 + 0xF000)
  else if o = 0x08 then (s.pwrCap, 0)
  else if o = 0x10 then lowBits 23 (s.cap.ceil % 2 ^ 16 + s.cap.ceilLeft % 2 ^ 7 * 2 ^ 16)
  else if o = 0x18 then (s.pwrInput, 0)
  else if o = 0x20 then (w.feedA.word, feedRes)
  else if o = 0x28 then (w.feedB.word, feedRes)
  else if o = 0x30 then lowBits 48 (w.spreadUs % 2 ^ 32 + w.peakUs % 2 ^ 16 * 2 ^ 32)
  else if o = 0x38 then lowBits 33 (w.wear % 2 ^ 32 + natOfBool (decide (wearLimit ≤ w.wear)) * 2 ^ 32)
  else if o = 0x40 then lowBits 8 w.bricks
  else if 0x48 ≤ o && o ≤ 0x60 && o % 8 = 0 then
    lowBits 48 ((List.range 8).map fun r => (s.region (8 * ((o - 0x48) / 8) + r)).phases % 64 * 2 ^ (6 * r)).sum
  else if o = 0x68 then (s.pwrCleat, 2 ^ 64 - 2 ^ 42 + 0xFE000000)
  else if o = 0x70 then (s.pwrInrush, 0xFFFFFF0000000000)
  else if o = 0x78 then lowBits 24 (w.droopTrip % 256 + w.droopRelease % 256 * 256 + w.stretchPct % 256 * 2 ^ 16)
  else if o = 0x80 then lowBits 12 w.derateM
  else if o = 0x88 then (natOfBool w.rampEn + w.guard % 2 ^ 16 * 2 ^ 16, 2 ^ 64 - 2 ^ 32 + 0xFFFE)
  else if 0xC0 ≤ o && o ≤ 0xD8 && o % 8 = 0 then (s.partRegRead ((o - 0xC0) / 8), 2 ^ 64 - 2 ^ 52 + 0x800FFFC)
  else if 0xE0 ≤ o && o ≤ 0xF8 && o % 8 = 0 then
    let t := w.throt.getD ((o - 0xE0) / 8) (0, 0)
    (t.1 % 2 ^ 32 + t.2 % 2 ^ 32 * 2 ^ 32, 0)
  else (0, 0)

/-- THM_HBM_d: the temperatures of the die's stacks. -/
def State.thmHbm (s : State) (d : Nat) : Nat :=
  ((List.range 5).map fun t => ofSigned 8 ((s.stk (5 * d + t)).temp.getD 0) * 2 ^ (8 * t)).sum

/-- THM_CART (Table 13-13); the life count is held in hundredths of a minute. -/
def Thermal.cartWord (t : Thermal) : Nat :=
  t.cart.code + natOfBool t.cartExpired * 4 + natOfBool t.cartInGrace * 8 + t.cartLife / 100 % 2 ^ 32 * 2 ^ 16

/-- The thermal block (Table 13-12). -/
def State.thmRead (s : State) (o : Nat) : Nat × Nat :=
  if o ≤ 0x18 && o % 8 = 0 then (s.thmDie (o / 8), thmRes)
  else if o = 0x20 then (thmWord s.thermal.spine 0, thmRes)
  else if 0x28 ≤ o && o ≤ 0x40 && o % 8 = 0 then lowBits 40 (s.thmHbm ((o - 0x28) / 8))
  else if o = 0x48 then lowBits 8 (ofSigned 8 s.thermal.inlet)
  else if o = 0x50 then lowBits 32 s.thmFan
  else if o = 0x58 then (s.thermal.cartWord, 2 ^ 64 - 2 ^ 48 + 0xFFF0)
  else if o = 0x60 then (s.thermal.cartId % 2 ^ 64, 0)
  else if o = 0x68 then (natOfBool (s.cap.cartRoot != 0) + s.cap.cartGrace % 2 ^ 11 * 2 ^ 16, 2 ^ 64 - 2 ^ 27 + 0xFFFE)
  else (0, 0)

/-- The backup block (Table 15-6). -/
def State.bkpRead (s : State) (o : Nat) : Nat × Nat :=
  if o = 0x100 then (s.rstCause, 0xFFF0)
  else if o % 8 = 0 && o < 0x100 then ((s.standby.bkp.getD (o / 8) 0).toNat, 0)
  else (0, 0)

/-- The words of an event record (Table 16-11), each with its reserved bits. -/
def EvRec.word (r : EvRec) (k : Nat) : Nat × Nat :=
  if k = 0 then (r.event % 2 ^ 16 + r.part % 2 ^ 8 * 2 ^ 16 + r.source % 2 ^ 16 * 2 ^ 32, 2 ^ 64 - 2 ^ 48 + 0xFF000000)
  else if k = 1 then (r.time % 2 ^ 64, 0)
  else if k = 2 then lowBits 32 (r.layer % 2 ^ 16 + r.op % 2 ^ 16 * 2 ^ 16)
  else (r.detail % 2 ^ 64, 0)

/-- The error status block (Tables 16-9 to 16-11, 09-4). -/
def State.errRead (s : State) (o : Nat) : Nat × Nat :=
  let sc := o / 0x1000
  let r := o % 0x1000
  let p := s.page sc
  if 5 ≤ sc || r % 8 ≠ 0 then (0, 0)
  else if r = 0 then (p.status, 0xFFFFFFFF0000FFFC)
  else if r = 8 then lowBits 6 p.head
  else if r = 0x10 then lowBits 6 p.tail
  else if r = 0x18 then lowBits 1 (natOfBool p.irqEn)
  else if r = 0x20 && sc ≠ 0 then lowBits 32 (s.faultsWaiting (sc - 1) % 2 ^ 16 + p.faultDrop % 2 ^ 16 * 2 ^ 16)
  else if 0x400 ≤ r && r < 0x800 then (p.recs.getD ((r - 0x400) / 32) EvRec.zero).word (r % 32 / 8)
  else if sc = 0 && 0x800 ≤ r && r < 0x840 then
    let x := s.die ((r - 0x800) / 16)
    if r % 16 = 0 then lowBits 32 x.scopeCnt else (x.scopeLastWord, 2 ^ 64 - 2 ^ 56 + 2 ^ 35)
  else (0, 0)

/-- The Strata block (Table 16-1). -/
def State.strRead (s : State) (o : Nat) : Nat × Nat :=
  let r := o % 0x200
  match strOf o with
  | none => (0, 0)
  | some (d, m) =>
    let x := s.mon d m
    if r % 8 ≠ 0 then (0, 0)
    else if r = 0 then (x.cfg, 2 ^ 64 - 2 ^ 62 + 2 ^ 15)
    else if r = 8 then (x.stat, 0xFFFFFFFF0000FFF8)
    else if r = 0x10 then (x.count % 2 ^ 64, 0)
    else if r = 0x18 then (x.sum % 2 ^ 64, 0)
    else if r = 0x20 then lowBits 32 x.min
    else if r = 0x28 then lowBits 32 x.max
    else if r = 0x30 then lowBits 32 x.alarmAt
    else if 0x100 ≤ r then lowBits 32 (x.bins.getD ((r - 0x100) / 8) 0)
    else (0, 0)

/-- A word of the Amber RAM; what firmware keeps in its own areas is not laid out, so that those words are open. -/
def State.amberWord (s : State) (o : Nat) : Nat × Nat :=
  if o % 8 ≠ 0 then (0, 0) else if o < 0x8000 then (0, 2 ^ 64 - 1) else (leNat (cellsRead s.standby.amber o 8), 0)

/-- The register at an offset of the control space (Table 00-4) and its reserved bits. -/
def State.regRead (s : State) (off : Nat) : Nat × Nat :=
  if off < 0x10000 then s.mbxRead off
  else if off < 0x20000 then s.lnyRead (off - 0x10000)
  else if off < 0x30000 then s.pwrRead (off - 0x20000)
  else if off < 0x40000 then s.thmRead (off - 0x30000)
  else if off < 0x50000 then s.amberWord (off - 0x40000)
  else if off < 0x60000 then s.bkpRead (off - 0x50000)
  else if off < 0x70000 then s.errRead (off - 0x60000)
  else if 0x100000 ≤ off then s.strRead (off - 0x100000)
  else (0, 0)

/-- What a 64-bit read of an offset clears (RC fields), and what a word of the Amber RAM with bad parity posts. -/
def State.afterRead (s : State) (off : Nat) : State :=
  let e := off - 0x60000
  if 0x60000 ≤ off && off < 0x65000 then
    if e % 0x1000 = 0 then s.modPage (e / 0x1000) fun p => { p with dropped := 0 }
    else if e % 0x1000 = 0x20 && 0x1000 ≤ e then s.modPage (e / 0x1000) fun p => { p with faultDrop := 0 }
    else if 0x800 ≤ e && e < 0x840 && e % 16 = 0 then s.modDie ((e - 0x800) / 16) fun x => { x with scopeCnt := 0 }
    else s
  else if off = 0x20070 then s.modPower fun x => { x with deferrals := 0 }
  else if 0x100000 ≤ off && off % 0x200 = 8 then
    match strOf (off - 0x100000) with
    | some (d, m) => s.modMon d m fun x => { x with dropped := 0 }
    | none => s
  else if 0x40000 ≤ off && off < 0x50000 && s.standby.amberBad.contains (off - 0x40000) then
    s.post none 0x0012 coresAgent 0 0 (off - 0x40000)
  else s

/-- A 64-bit read of the control space. -/
def State.ctrlRead (s : State) (off : Nat) : State :=
  s.answerRead .full (s.regRead off).1 (s.regRead off).2 fun s => s.afterRead off

/-- An access to the control space: registers are read and written whole (R6); no atomic reaches them. -/
def State.ctrlAccess (s : State) (off : Nat) (op : CoreOp) : State :=
  match op with
  | .load _ => s.ctrlRead (off / 8 * 8)
  | .store _ mask v =>
    if mask = 255 then s.regWrite false (off / 8 * 8) 8 (BitVec.ofNat 64 v) else s.postNarrow off
  | .amo _ _ _ _ => s.coreFault
  | .lrsc => s.coreFault
  | .fence _ _ => s

/-- One access of the cores, behind those that wait. -/
def State.coreAccess (s : State) (w : CoreWin) (ofs : Nat) (op : CoreOp) : State :=
  let queue := { s with coreWait := s.coreWait ++ [(w, ofs, op)] }
  match w, op with
  | .control, .fence p q => if s.coreWait.isEmpty then (s.coreFence p q).getD queue else queue
  | .control, op => s.ctrlAccess ofs op
  | w, op => if s.coreWait.isEmpty then (s.coreTry w ofs op).getD queue else queue

def execFabricWindowAccess (w : CoreWin) (ofs : Nat) (op : CoreOp) (s : State) : Out :=
  onInst (Sys2Proof.CoreWin.ofsOk w ofs) s fun s => s.coreAccess w ofs op

end Sys2Proof.Machine
end

