-- ==== Sys2Proof/Machine/FabCmd.lean ====
section
/-! DEFINITION. The fabric mailbox family (Table 14-7, 0x0301 to 0x0309). -/
namespace Sys2Proof.Machine

/-- Torus ports send HELLO with the node ID a join assigns, and what their peers said is judged under its dimensions (R286). -/
def State.rejudge (s : State) : State :=
  (List.range 12).foldl (fun s p =>
    let st := (s.port p).st
    if st = .hello || st = .up || st = .miswired then (s.sendHello p).judgePeer p else s) s

def Call.setPart (c : Call) (s : State) (f : Part → Part) : State := s.modPart (Call.part c) f

def joinRange (j : JoinReq) : Bool :=
  decide (1 ≤ j.dimX ∧ j.dimX ≤ 32 ∧ 1 ≤ j.dimY ∧ j.dimY ≤ 32 ∧ 1 ≤ j.dimZ ∧ j.dimZ ≤ 32 ∧ j.x < j.dimX ∧ j.y < j.dimY ∧
    j.z < j.dimZ ∧ 10000 ≤ j.timeoutNs ∧ j.timeoutNs ≤ 1000000000 ∧ j.job < 65536)

/-- Another partition's join fixes the module's place (R294). -/
def State.joinClash (s : State) (p : Nat) (dims coord : Nat × Nat × Nat) : Bool :=
  (List.range 4).any fun q => q != p && match (s.part q).join with
    | some j => j.dims != dims || j.coord != coord
    | none => false

def execFabJoin (c : Call) (j : JoinReq) (s : State) : Out :=
  .next (capstanRun (.fabJoin c j) c (cmdC 0x0301 .job) (fun s =>
    let dims := (j.dimX, j.dimY, j.dimZ)
    let at_ := (j.x, j.y, j.z)
    if !joinRange j then s.answer stRange
    else if s.cap.fabLock.isSome && s.cap.fabLock != some (nodeOf at_) then s.answer stPermission
    else if s.joinClash (Call.part c) dims at_ then s.answer stBusy
    else (Call.setPart c s fun p => { p with join := some ⟨j.job, dims, at_, j.timeoutNs, j.joinList⟩ }).rejudge.ok) s)

def execFabLeave (c : Call) (s : State) : Out :=
  .next (capstanRun (.fabLeave c) c (cmdC 0x0302 .job) (fun s =>
    let p := Call.part c
    if (s.part p).join.isNone then s.answer stNotHeld
    else ((Call.setPart c s fun p => { p with join := none }).modFab fun f =>
      { f with windows := f.windows.filter fun w => w.2.part != p }).ok) s)

/-- R311. -/
def groupBad (s : State) (g : GroupRec) : Bool :=
  g.ranks.isEmpty || 32768 < g.ranks.length || !g.ranks.Nodup || g.ranks.any isGateway ||
    match s.nodeId with | some n => !g.ranks.contains n | none => true

def execFabGroup (c : Call) (g : GroupRec) (s : State) : Out :=
  .next (capstanRun (.fabGroup c g) c (cmdC 0x0303 .job) (fun s =>
    if 12 ≤ g.cvc then s.answer stRange
    else if groupBad s g then s.answer stFormat
    else (Call.setPart c s fun p => { p with groups := (p.groups.filter fun e => e.1 != g.cvc) ++ [(g.cvc, g)] }).ok) s)

def execFabWindow (c : Call) (w : Nat) (node : Option Nat) (s : State) : Out :=
  .next (capstanRun (.fabWindow c w node) c (cmdC 0x0304 .job) (fun s =>
    let rest := s.fabric.windows.filter fun e => e.1 != w
    if 16 ≤ w then s.answer stRange
    else match node with
      | none => (s.modFab fun f => { f with windows := rest }).ok
      | some n =>
        match (s.part (Call.part c)).join with
        | none => s.answer stNotHeld
        | some j =>
          if !nodeValid s j.dims n then s.answer stRange
          else (s.modFab fun f => { f with windows := (w, ⟨n, j.job, Call.part c⟩) :: rest }).ok) s)

def execFabParam (c : Call) (throttleNs : Nat) (s : State) : Out :=
  .next (capstanRun (.fabParam c throttleNs) c (cmdC 0x0305 .job) (fun s =>
    if throttleNs < 10000 || 10000000 < throttleNs then s.answer stRange
    else (s.modFab fun f => { f with throttleNs := throttleNs }).ok) s)

def execFabQuery (c : Call) (s : State) : Out :=
  .next (capstanRun (.fabQuery c) c (cmdR 0x0306 .any) (fun s =>
    let a := s.ok
    { a with payload := (s.fabric.ports.map Port.words).flatten }) s)

def putRoutes (first : Nat) (l : List (Nat × Nat)) : List Nat → List (Nat × Nat)
  | [] => l
  | e :: r =>
    let rest := l.filter fun x => x.1 != first
    putRoutes (first + 1) (if e = 0 then rest else (first, e) :: rest) r

def execFabRoute (c : Call) (first : Nat) (entries : List Nat) (s : State) : Out :=
  .next (capstanRun (.fabRoute c first entries) c (cmdC 0x0307 .owner) (fun s =>
    if 32768 < first + entries.length then s.answer stRange
    else if entries.any fun e => e % 4 = 3 || 128 ≤ e then s.answer stReserved
    else (s.modFab fun f => { f with routes := putRoutes first f.routes entries }).ok) s)

def execFabGateway (c : Call) (n : Nat) (at_ : Option (Nat × Nat)) (s : State) : Out :=
  .next (capstanRun (.fabGateway c n at_) c (cmdC 0x0308 .owner) (fun s =>
    let rest := s.fabric.gateways.filter fun e => e.1 != n
    if 256 ≤ n then s.answer stRange
    else match at_ with
      | none => (s.modFab fun f => { f with gateways := rest }).ok
      | some (node, span) =>
        if 32768 ≤ node || 4 ≤ span then s.answer stRange
        else (s.modFab fun f => { f with gateways := (n, node, span) :: rest }).ok) s)

/-- FAB_PORT: a retrain to 4 lanes, or disabling or enabling the port (R288). -/
def execFabPort (c : Call) (port : Nat) (op : PortOp) (s : State) : Out :=
  .next (capstanRun (.fabPort c port op) c (cmdC 0x0309 .owner) (fun s =>
    if 16 ≤ port then s.answer stRange
    else match op with
      | .retrain =>
        if (s.port port).st = .up then
          ((s.modPort port fun x => { x with working := [0, 1, 2, 3] }).startRetrain port 4 2).ok
        else s.answer stBusy
      | .disable => (s.portDown port .disabled).ok
      | .enable =>
        if (s.port port).st = .disabled then (s.portMove port fun x => { x with st := .training, since := s.now }).ok
        else s.ok) s)

end Sys2Proof.Machine
end

