-- ==== Sys2Proof/Machine/DumpLayout.lean ====
section
/-! DEFINITION. The contents of the sections of a Geode dump (R477, Table 16-7). What each section holds is the spec's; the order of
its parts and the widths of those that no chapter lays out are the model's (DESIGN CHOICE, log entry 108). -/
namespace Sys2Proof.Machine

/-- A piece of a section: bytes of the state, or bytes that the spec does not state. -/
inductive Piece where
  | bytes (l : List Byte)
  | open_ (n : Nat)
  deriving DecidableEq, Repr

/-- A section before it has a place: TYPE, INDEX, bytes, and its pieces. -/
structure Section where
  typ : Nat
  index : Nat
  size : Nat
  pieces : List Piece
  deriving DecidableEq, Repr

def kib (n : Nat) : Nat := n * 1024

/-- Some bytes in a field of n bytes; what they leave of it is open. -/
def fit (n : Nat) (l : List Byte) : List Piece := [.bytes (l.take n), .open_ (n - l.length)]

def wordsOf (w : Nat) (l : List Nat) : List Byte := (l.map fun x => natLe w x).flatten

/-! Tile sections. -/

/-- A strand descriptor in the layout of Table 07-1. -/
def Desc.bytes (d : Desc) : List Byte :=
  natLe 2 0x0100 ++ natLe 4 d.strandId ++ natLe 1 d.seqTag ++ natLe 1 d.lmode ++
    natLe 2 d.layer ++ natLe 2 d.op ++ natLe 2 d.waitMask ++ natLe 2 d.signalMask ++
    natLe 8 d.launchBeat ++ natLe 4 d.ip ++ natLe 4 d.wdog ++
    natLe 2 d.rangePtr ++ natLe 1 d.rangeCnt ++ natLe 1 d.queueSlots ++ natLe 2 d.amaxMask ++ natLe 2 d.setMask ++
    natLe 8 (d.recomp % 4 + d.eclass % 16 * 2 ^ 8 + natOfBool d.clrMflag * 2 ^ 12) ++ natLe 16 0

def Phase.code : Phase → Nat
  | .issuing => 1
  | .retiring => 2
  | .reissue => 3

/-- A strand slot in 256 bytes: its descriptor; IP, state, TRIES, LOOP depth; the open loops. -/
def slotPieces : Option Slot → List Piece
  | none => fit 256 (natLe 64 0 ++ wordsOf 8 [0, 0, 0, 0])
  | some sl => fit 256 (sl.desc.bytes ++ wordsOf 8 [sl.ip, sl.phase.code, sl.tries, sl.loops.length] ++
      (sl.loops.map fun l => wordsOf 8 [l.1, l.2]).flatten)

/-- An instruction that waits in an engine queue: the engine, its address, its issue number and its slot. -/
def queued (engine : Nat) (i : Info) : List Byte := wordsOf 4 [engine, i.ip, i.id, i.slot]

def sequencerPieces (x : Tile) : List Piece :=
  (x.slots.map slotPieces).flatten ++ [.bytes (wordsOf 8 x.tokens ++ (x.regs.map fun r => natLe 8 r.toNat).flatten)] ++
  fit 384 (x.track.map fun e => wordsOf 8 [e.lo, e.hi, e.id + natOfBool e.wr * 2 ^ 63]).flatten ++
  [.bytes (wordsOf 8 [x.lateCount, x.lateMax])] ++
  fit (kib 4 - 1680) ((x.arrQ.map fun q => queued 0 q.info) ++ (x.vxeQ.map fun q => queued 1 q.info) ++
    (x.porQ.map fun q => queued 2 q.info) ++ (x.sigQ.map fun q => queued 3 q.info)).flatten

def ScaleSet.bytes (x : ScaleSet) : List Byte := wordsOf 4 [x.ta, x.tb] ++ wordsOf 4 x.ra ++ wordsOf 4 x.cb

/-- An elastic link: how many of its four places hold a slice, then the places. -/
def linkPieces (l : List Slice) : List Piece :=
  .bytes (natLe 8 l.length) :: fit 144 (l.map fun x => (x.elems ++ x.scales ++ natLe 4 0).take 36).flatten

/-- The inner accumulators as they lie in their containers (Table 02-6, R47). -/
def innerBytes (d : Dpu) : List Byte := natLe 4 d.a20.container ++ natLe 4 (ofSigned 32 d.i20)

def arrayPieces (a : Arr) : List Piece :=
  [.bytes (wordsOf 4 a.f ++ wordsOf 4 a.g ++ wordsOf 4 a.c)] ++
  ((a.linkA ++ a.linkB).map linkPieces).flatten ++
  [.bytes ((a.dpus.map fun d => wordsOf 4 [d.acc, d.drain]).flatten ++ (a.dpus.map innerBytes).flatten ++ natLe 8 a.mflags ++
    (a.sets.map ScaleSet.bytes).flatten ++ (a.dpus.map fun d => wordsOf 2 [d.holdFeed, d.holdDrain]).flatten)] ++
  fit (kib 16 - 13320) []

/-- The panels that a block still has to write, one bit each: their interlocks (R101). -/
def Arr.pendingPanels (a : Arr) (q : List ArrItem) : Nat :=
  orAll ((a.blocks.filter fun b => b.dest).map (fun b => 2 ^ b.panel) ++
    q.map fun e => match e.op with
      | .mma f panel => if f.dest then 2 ^ panel else 0
      | .mscl _ _ _ => 0
      | .mflag _ _ => 0)

def splicePieces (x : Tile) : List Piece :=
  .bytes x.arr.splice.flatten :: fit (kib 4) (natLe 8 x.arr.spliceW ++ natLe 16 (x.arr.pendingPanels x.arrQ))

def vregBytes (v : VReg) : List Byte := natLe 256 v.toNat

def vxePieces (x : Tile) : List Piece :=
  let v := x.vxe
  .bytes (v.regs.map vregBytes).flatten ::
  fit (kib 4) (wordsOf 8 (x.slots.map fun o => match o with | some sl => sl.flags | none => 0) ++
    wordsOf 8 [v.tileFlags, v.veto, v.step] ++ wordsOf 4 v.amax ++ (v.loss.map fun l => wordsOf 4 [l.1, l.2]).flatten ++
    natLe 8 v.seqtab.length ++ (v.seqtab.map fun e => wordsOf 8 [e.1, e.2]).flatten)

/-- A queue entry in 1,536 bytes: its values; state (0 free, 1 draining, 2 complete, 3 taken), visibility, block, IDs. -/
def entryPieces (vals : List Nat) (st : Nat) (visible : Bool) (blk : Nat) (i : Info) : List Piece :=
  fit 1536 (wordsOf 4 vals ++ wordsOf 8 [st, natOfBool visible, blk, i.strandId, i.layer, i.op, i.seqTag])

def queuePieces (a : Arr) : List Piece :=
  let got := a.queue.map fun e => entryPieces e.vals (if e.by_.isSome then 3 else 2) e.visible e.blk e.info
  let drains := (a.blocks.filter fun b => b.alloc && !b.dest).map fun b => entryPieces b.vals 1 false b.n b.info
  let all := (got ++ drains).take 8
  (all ++ List.replicate (8 - all.length) (fit 1536 (natLe 1024 0 ++ wordsOf 8 [0, 0, 0, 0, 0, 0, 0]))).flatten

/-- One parity-mark bit per 32-bit word of a tile SRAM (R232): 1 marks a word whose parity is bad. -/
def State.parityMarks (s : State) (t : Nat) : List Byte :=
  (List.range (kib 64)).map fun k =>
    BitVec.ofNat 8 ((List.range 8).map fun i => natOfBool (s.sramBad.contains (sramKey t (4 * (8 * k + i)))) * 2 ^ i).sum

def PKind.code : PKind → Nat
  | .prd => 1 | .pwr => 2 | .pland => 3 | .pgath => 4 | .pscat => 5 | .pamo => 6 | .reefPut _ _ => 7 | .reefClose _ => 8

/-- The requests in flight of the porter, 32 bytes each: operation, address, line index, issuing strand (R254). -/
def porterBytes (x : Tile) : List Byte :=
  (x.ops.map fun o => (o.flying.map fun r =>
    natLe 8 o.kind.code ++ natLe 8 (o.addr + o.delta r) ++ natLe 8 r ++ natLe 8 o.info.strandId).flatten).flatten

/-- The sections of a tile. -/
def State.tileSections (s : State) (t : Nat) : List Section :=
  let x := s.tile t
  [⟨1, t, kib 4, sequencerPieces x⟩,
   ⟨2, t, kib 16, arrayPieces x.arr⟩,
   ⟨3, t, kib 68, splicePieces x⟩,
   ⟨4, t, kib 12, vxePieces x⟩,
   ⟨5, t, kib 12, queuePieces x.arr⟩,
   ⟨6, t, kib 2112, [.bytes (s.sramRead t 0 (2 ^ 21) ++ s.parityMarks t)]⟩,
   ⟨7, t, kib 8, fit (kib 8) (porterBytes x)⟩]

/-! Die sections. -/

/-- The node a request was for: the own one as its ID, or 0xFFFF while it has none. -/
def State.ownNode (s : State) : Nat := s.nodeId.getD 0xFFFF

/-- The writes that a flag line of this module still awaits: of its own PLAND and of earlier operations of its strand (R262). -/
def State.flagAwaits (s : State) (fl : FlagLine) : Nat :=
  match fl.who with
  | .tile t op req =>
    let x := s.tile t
    match x.ops.find? fun o => o.info.id == op with
    | none => 0
    | some o =>
      (o.unlanded.filter fun r => r != req).length +
        ((x.ops.filter fun e => e.info.inst == o.info.inst && decide (e.info.id < op) && e.isWrite && e.node.isNone).map fun e =>
          e.unlanded.length).sum +
        (x.track.filter fun e => e.wr && e.inst == o.info.inst && decide (e.id < op)).length
  | .remote _ _ => natOfBool fl.waits
  | .core => 0
  | .engine _ => 0

/-- Held flag lines, 32 bytes each: strand, node, offset, writes still awaited (R279). -/
def State.flagWaitBytes (s : State) (d : Nat) : List Byte :=
  ((s.die d).flags.map fun fl =>
    let node := match fl.who with
      | .remote n _ => n
      | _ => s.ownNode
    natLe 8 fl.strandId ++ natLe 8 node ++ natLe 8 fl.off ++ natLe 8 (s.flagAwaits fl)).flatten

def ChunkFate.code : ChunkFate → Nat
  | .sent => 1 | .verified => 2 | .failed => 3 | .lost => 4

def Bucket.words (b : Bucket) : List Nat :=
  [b.group, b.kind, b.bucket, b.elems, b.stage, b.out, b.puts, ofSigned 64 b.k, b.outTok, natOfBool b.outSig, b.outTile,
   b.taken, natOfBool b.outDone]

/-- Staging descriptors, latches and their kinds, open chunks, timers (R339), each list after its length. -/
def Reef.bytes (r : Reef) : List Byte :=
  let open_ := r.marks.filter fun m => m.fate == .sent
  wordsOf 8 (r.buckets.length :: (r.buckets.map Bucket.words).flatten) ++
  wordsOf 8 (r.latch.map Veto.code) ++
  wordsOf 8 (open_.length :: (open_.map fun m => [m.step, m.group, m.bucket, m.shard, m.chunk, m.fate.code, m.retries]).flatten) ++
  wordsOf 8 (r.groups.length :: (r.groups.map fun g =>
    [g.g, match g.step with | some t => t + 1 | none => 0, match g.closedAt with | some t => t + 1 | none => 0,
     natOfBool g.reportLeft, g.reportAt]).flatten)

/-- Pass (0 none, 1 that of a released step, 2 that of a vetoed one), its step, descriptors, block position, REPAIR_PENDING (R364). -/
def Upd.bytes (u : Upd) : List Byte :=
  wordsOf 8 [match u.todo with | some (_, veto) => 1 + natOfBool veto | none => 0,
    match u.todo with | some (t, _) => t | none => 0,
    match u.sec with | some x => x.descs.length | none => 0, u.position, natOfBool u.repair]

/-- A monitor as its registers lie (Table 16-1). -/
def Monitor.pieces (x : Monitor) : List Piece :=
  [.bytes (wordsOf 8 [x.cfg, x.stat, x.count, x.sum, x.min, x.max, x.alarmAt]), .open_ 200, .bytes (wordsOf 8 x.bins)]

/-- The sections of a die. -/
def State.dieSections (s : State) (d : Nat) : List Section :=
  let x := s.die d
  [⟨8, d, kib 32, fit (kib 32) (s.flagWaitBytes d)⟩,
   ⟨9, d, kib 64, fit (kib 64) x.reef.bytes⟩,
   ⟨10, d, kib 4, fit (kib 4) x.upd.bytes⟩,
   ⟨11, d, kib 64, fit (kib 64) (x.faultQ.map fun r => wordsOf 8 r.words).flatten⟩,
   ⟨12, d, kib 112, ((x.mons.take 224).map Monitor.pieces).flatten⟩]

end Sys2Proof.Machine
end

