-- ==== Sys2Proof/Machine/Update.lean ====
section
/-! DEFINITION. The update engine (12): master addition (R341), the scalars and formulas of R348 to R352, working copies
(R354 to R357), records (Table 12-9, R359), and its two passes (R344, R345, R360, R361, R363). -/
namespace Sys2Proof.Machine

/-! Arithmetic (R347). -/

/-- The rne() of R347: one rounding of an exact value. -/
def rneV (v : Val) : Nat := (finish fp32 false v 0).1
def vAdd (a b : Val) : Val := (a.add b).1
def vMul (a b : Val) : Val := (a.mul b).1
def vSub (a b : Val) : Val := vAdd a b.negate
def oneV : Val := val32 one32

/-- A dyadic rounded to an integer, ties to even. -/
def rneInt (d : Dy) : Int :=
  let n := rneDiv (d.m.natAbs * 2 ^ d.e.toNat) (2 ^ (-d.e).toNat)
  if d.m < 0 then -(n : Int) else n

/-- The exponent of the quantum q(w) of a finite FP32 pattern: q(w) = 2^this. -/
def quantExp (w : Nat) : Int :=
  let e := bits w 23 8
  (if e = 0 then (-126 : Int) else (e : Int) - 127) - 23

/-- R341. -/
def masterAdd (w : Nat) (rho : Int) (delta : Nat) (rem : Bool) : Nat × Int :=
  match val32 w, val32 delta with
  | .fin sw mw ew, .fin sd md ed =>
    let base := (Val.fin sw mw ew).toDy
    let s := (base.add ⟨if rem then rho else 0, quantExp w - 16⟩).add (Val.fin sd md ed).toDy
    let new := if s.m = 0 then rneV (vAdd (.fin sw mw ew) (.fin sd md ed)) else rne32 s
    if !rem || !(val32 new).isFin then (new, 0)
    else
      let q := (s.add (dy32 new).neg).mul ⟨1, 16 - quantExp new⟩
      (new, max (-32768) (min 32767 (rneInt q)))
  | a, b => (rneV (vAdd a b), 0)

/-! The schedule (R352). -/

def segRate (g : Seg) (f : Nat) : Nat :=
  let a := val32 g.lrA
  let b := val32 g.lrB
  if g.kind = 1 then g.lrA
  else if g.kind = 3 then
    let h := rneV (vMul (val32 0x3F000000) (vAdd oneV (val32 (cospi f))))
    rneV (vAdd b (vMul (vSub a b) (val32 h)))
  else rneV (vAdd a (vMul (vSub b a) (val32 f)))

def schedGo (p : Nat) : List Seg → Nat
  | [] => 0
  | [g] => if p < g.len then segRate g (div32 (fp32OfNat p) (fp32OfNat g.len)) else if g.kind = 1 then g.lrA else g.lrB
  | g :: r => if p < g.len then segRate g (div32 (fp32OfNat p) (fp32OfNat g.len)) else schedGo (p - g.len) r

def schedule (u : UpdSec) (t : Nat) : Nat :=
  let p := (t + 2 ^ 32 - u.schedT0 % 2 ^ 32) % 2 ^ 32
  schedGo (if 2 ^ 31 ≤ p then 0 else p) u.segs

/-! Scalars (R348). -/

structure UScal where
  lr : Nat
  nu : Nat
  phi : Nat
  c : Nat

def updScal (u : UpdSec) (t norm2 : Nat) : UScal :=
  let nu := if u.normEn then mul32 (sqrt32 norm2) u.gscale else 0
  let phi := if u.normEn && (val32 u.maxNorm).ltNum (val32 nu) then div32 u.maxNorm nu else one32
  ⟨schedule u t, nu, phi, mul32 u.gscale phi⟩

/-- A bias-correction term for n committed steps. -/
def biasCorr (beta n : Nat) : Nat :=
  if (val32 beta).toDy.m = 0 then one32
  else
    let l := (fnLog2 beta).1
    let x := rneV (vMul (val32 (fp32OfNat n)) (val32 l))
    rneV (vSub oneV (val32 (fnExp2 x).1))

/-! One element (R349). -/

/-- The scaled and clipped gradient. -/
def gradOf (c : Nat) (h : Hyper) (gr : Nat) : Nat :=
  let g := mul32 gr c
  if h.vclip = 0 then g
  else (fMinMax fp32 false (fMinMax fp32 true g (rneV (val32 h.vclip).negate)).1 h.vclip).1

/-- The second moment of ADAMW before it is stored. -/
def newV (h : Hyper) (v g : Nat) : Nat :=
  rneV (vAdd (vMul (val32 h.beta2) (val32 v)) (vMul (vMul (vSub oneV (val32 h.beta2)) (val32 g)) (val32 g)))

/-- New master, remainder and moments of an element; fact: its factored second moment. -/
def updEl (d : UDesc) (h : Hyper) (sc : UScal) (n : Nat) (gr w : Nat) (rho : Int) (m v : Nat) (fact : Option Nat) :
    Nat × Int × Nat × Nat :=
  let g := gradOf sc.c h gr
  let alpha := mul32 sc.lr h.lrMult
  let m1 := if d.opt = 0 then rneV (vAdd (vMul (val32 h.beta1) (val32 m)) (vMul (vSub oneV (val32 h.beta1)) (val32 g)))
    else rneV (vAdd (vMul (val32 h.beta1) (val32 m)) (val32 g))
  let v1 := match fact with | some x => x | none => newV h v g
  let u := if d.opt = 0 then
      let den := add32 (sqrt32 (div32 v1 (biasCorr h.beta2 n))) h.eps
      div32 (div32 m1 (biasCorr h.beta1 n)) den
    else m1
  let decay := if d.decay then vMul (val32 h.decayL) (val32 w) else val32 0
  let delta := rneV (vMul (val32 alpha).negate (vAdd (val32 u) decay))
  let (w1, r1) := masterAdd w rho delta d.rem
  (w1, r1, m1, v1)

/-! State arrays (Table 12-6) and their codes (R351). -/

def pad4k (n : Nat) : Nat := (n + 4095) / 4096 * 4096
def UDesc.e (d : UDesc) : Nat := d.rows * d.cols
def UDesc.m1Size (d : UDesc) : Nat :=
  if d.m1 = 1 then 2 * d.e else if d.m1 = 2 then d.e + d.e / 32 else if d.m1 = 3 then 4 * d.e else 0
def UDesc.vSize (d : UDesc) : Nat :=
  if d.v = 1 then 4 * d.e else if d.v = 2 then d.e + d.e / 32 else if d.v = 3 then 4 * (d.rows + d.cols) else 0
def UDesc.remSize (d : UDesc) : Nat := if d.rem then 2 * d.e else 0
def UDesc.vOff (d : UDesc) : Nat := d.state + pad4k d.m1Size
def UDesc.remOff (d : UDesc) : Nat := d.vOff + pad4k d.vSize

/-- Reads a list of 1,024 values coded 1 per element with an FP32 scale per 128. -/
def codedRead (dec : Nat → Nat → Nat) (codes scales : List Byte) : List Nat :=
  (List.range codes.length).map fun k => dec (codes.getD k 0).toNat (leAt scales (k / 128 * 4) 4)

def q8Dec (code scale : Nat) : Nat := rneV (vMul (Dy.toVal ⟨toSigned 8 code, 0⟩) (val32 scale))
def log8Dec (code scale : Nat) : Nat :=
  if code = 0 then 0 else mul32 scale (fnExp2 (rne32 ⟨(code : Int) - 255, -3⟩)).1

def chunk128 (l : List Nat) : List (List Nat) := chunks 128 (l.length / 128) l

/-- Q8: 128 new values to codes and D. -/
def q8Enc (l : List Nat) : List Byte × Nat :=
  let a := l.foldl (fun x w => let y := w % 2 ^ 31; if x < y then y else x) 0
  let d := if a = 0 then one32 else div32 a (fp32OfNat 127)
  (l.map fun m =>
    let q := val32 (div32 m d)
    BitVec.ofNat 8 (ofSigned 8 (match q with
      | .fin s x e => max (-127) (min 127 (rneInt (Val.fin s x e).toDy))
      | .inf s => if s then -127 else 127
      | .nan => 0)), d)

/-- LOG8: 128 new values to codes and S. -/
def log8Enc (l : List Nat) : List Byte × Nat :=
  let s := l.foldl (fun x w => if x < w then w else x) 0
  (l.map fun v =>
    if s % 2 ^ 31 = 0 || v % 2 ^ 31 = 0 then 0
    else match val32 (fnLog2 (div32 v s)).1 with
      | .fin n x e =>
        let c := 255 + rneInt ((Val.fin n x e).toDy.mul ⟨8, 0⟩)
        if c < 1 then 0 else BitVec.ofNat 8 c.toNat
      | _ => 0, s)

def codedWrite (enc : List Nat → List Byte × Nat) (l : List Nat) : List Byte × List Byte :=
  let b := (chunk128 l).map enc
  ((b.map Prod.fst).flatten, (b.map fun x => natLe 4 x.2).flatten)

/-! Engine memory accesses with their CRC checks (R251, R360). The engine reads every array in whole 4 KiB blocks (DESIGN CHOICE,
log entry 141). -/

/-- Reads n bytes of an array, in the whole blocks that hold them. -/
def State.updRead (s : State) (d p off n : Nat) : EngRead :=
  let lo := off / 4096 * 4096
  let a := s.memRead p (updAgent d) lo (pad4k (off % 4096 + n))
  { a with data := sub a.data (off - lo) n }

/-- Reads several pieces, in order. -/
def State.updReads (s : State) (d p : Nat) (l : List (Nat × Nat)) : State × List (List Byte) × Option (Nat × Nat × Nat) :=
  l.foldl (fun x e =>
    let a := x.1.updRead d p e.1 e.2
    (a.s, x.2.1 ++ [a.data], x.2.2 <|> a.bad)) (s, [], none)

/-- A fault of the update engine, with class, code and DETAIL: agent number 0x0400 + d in TILE, and V_ERROR in the step's
latch. -/
def State.engFault (s : State) (d step layer op : Nat) (why : Nat × Nat × Nat) : State :=
  let r : FaultRec := ⟨why.1, why.2.1, updAgent d, layer, op, 0, 0, false, 0, (s.die d).beat, why.2.2⟩
  (s.postFault d (updAgent d) r step).setVeto d step Veto.error (updAgent d) layer op

/-- A write of the engine; one to lost memory is a fault of it (R364). -/
def State.updWrite (s : State) (d p step layer op off : Nat) (data : List Byte) : State :=
  let (s1, ok) := s.memWrite p (updAgent d) off data
  if ok then s1 else s1.engFault d step layer op (3, 2, off)

/-- Writes, in order. -/
def State.updWrites (s : State) (d p step layer op : Nat) (l : List (Nat × List Byte)) : State :=
  l.foldl (fun s x => s.updWrite d p step layer op x.1 x.2) s

/-- Flags of the engine's reads and conversions (R36, R55; DESIGN CHOICE, log entry 139: where they are held). -/
def State.updFlags (s : State) (d fl : Nat) : State := if fl = 0 then s else s.modUpd d fun e => { e with flags := e.flags ||| fl }

/-! The update of a descriptor. -/

/-- What one block of 1,024 elements reads: (offset, length) of the masters, the gradients, the first and the second moments
with their scales, and the remainders. -/
def UDesc.pieces (d : UDesc) (k : Nat) : List (Nat × Nat) :=
  [(d.master + 4096 * k, 4096), (d.grad + 4096 * k, 4096)] ++
  (if d.m1 = 1 then [(d.state + 2048 * k, 2048), (0, 0)]
    else if d.m1 = 2 then [(d.state + 1024 * k, 1024), (d.state + d.e + 32 * k, 32)]
    else if d.m1 = 3 then [(d.state + 4096 * k, 4096), (0, 0)] else [(0, 0), (0, 0)]) ++
  (if d.v = 1 then [(d.vOff + 4096 * k, 4096), (0, 0)]
    else if d.v = 2 then [(d.vOff + 1024 * k, 1024), (d.vOff + d.e + 32 * k, 32)]
    else if d.v = 3 then [(d.vOff, d.vSize), (0, 0)] else [(0, 0), (0, 0)]) ++
  (if d.rem then [(d.remOff + 2048 * k, 2048)] else [(0, 0)])

/-- The new row and column accumulators and their mean (R350). -/
structure Factors where
  r : List Nat
  c : List Nat
  rm : Nat

def seqSum (l : List Nat) : Nat := l.foldl add32 0

def factStep (beta2 old sum count : Nat) : Nat :=
  rneV (vAdd (vMul (val32 beta2) (val32 old)) (vMul (vSub oneV (val32 beta2)) (val32 (div32 sum (fp32OfNat count)))))

def factors (d : UDesc) (h : Hyper) (c : Nat) (grads oldR oldC : List Nat) : Factors :=
  let q := grads.map fun gr => let g := gradOf c h gr; mul32 g g
  let r := (List.range d.rows).map fun i => factStep h.beta2 (oldR.getD i 0) (seqSum ((q.drop (i * d.cols)).take d.cols)) d.cols
  let cs := (List.range d.cols).map fun j =>
    factStep h.beta2 (oldC.getD j 0) (seqSum ((List.range d.rows).map fun i => q.getD (i * d.cols + j) 0)) d.rows
  ⟨r, cs, div32 (seqSum r) (fp32OfNat d.rows)⟩

def Factors.at_ (f : Factors) (d : UDesc) (k : Nat) : Nat :=
  if f.rm % 2 ^ 31 = 0 then 0 else div32 (mul32 (f.r.getD (k / d.cols) 0) (f.c.getD (k % d.cols) 0)) f.rm

/-- The first moments that the bytes of a block's two M1 pieces hold, and the second moments where kept per element. -/
def UDesc.m1Of (d : UDesc) (a b : List Byte) : List Nat :=
  if d.m1 = 1 then (unpack 16 1024 a).map fun x => x * 65536
  else if d.m1 = 2 then codedRead q8Dec a b
  else if d.m1 = 3 then unpack 32 1024 a
  else List.replicate 1024 0
def UDesc.vOf (d : UDesc) (a b : List Byte) : List Nat :=
  if d.v = 1 then unpack 32 1024 a
  else if d.v = 2 then codedRead log8Dec a b
  else List.replicate 1024 0

/-- A BF16 first moment is written by R53 under RNE, with SAT = 1 where none is exposed (R52). -/
def m1Bf16 (x : Nat) : Enc := convF bf16 .rne true 0 (val32 x)
def m1Writes (d : UDesc) (k : Nat) (m : List Nat) : List (Nat × List Byte) :=
  if d.m1 = 1 then [(d.state + 2048 * k, (m.map fun x => natLe 2 (m1Bf16 x).1).flatten)]
  else if d.m1 = 2 then
    let c := codedWrite q8Enc m
    [(d.state + 1024 * k, c.1), (d.state + d.e + 32 * k, c.2)]
  else if d.m1 = 3 then [(d.state + 4096 * k, bytes32 m)]
  else []
def vWritesOf (d : UDesc) (k : Nat) (v : List Nat) : List (Nat × List Byte) :=
  if d.v = 1 then [(d.vOff + 4096 * k, bytes32 v)]
  else if d.v = 2 then
    let c := codedWrite log8Enc v
    [(d.vOff + 1024 * k, c.1), (d.vOff + d.e + 32 * k, c.2)]
  else []

/-- Updates one block of 1,024 elements from the pieces read. -/
def State.updBlock (s : State) (dd p step : Nat) (u : UpdSec) (sc : UScal) (n : Nat) (d : UDesc) (f : Option Factors) (k : Nat)
    (bs : List (List Byte)) : State :=
  let h := u.hps.getD d.hp ⟨0, 0, 0, 0, 0, 0⟩
  let piece := fun i => bs.getD i []
  let w := unpack 32 1024 (piece 0)
  let g := unpack 32 1024 (piece 1)
  let m := d.m1Of (piece 2) (piece 3)
  let v := d.vOf (piece 4) (piece 5)
  let rho := if d.rem then (unpack 16 1024 (piece 6)).map (toSigned 16) else []
  let out := (List.range 1024).map fun i =>
    updEl d h sc n (g.getD i 0) (w.getD i 0) (rho.getD i 0) (m.getD i 0) (v.getD i 0)
      (f.map fun x => x.at_ d (1024 * k + i))
  let conv := if d.m1 = 1 then orFlags (out.map fun x => (m1Bf16 x.2.2.1).2) else 0
  (s.updFlags dd (nanFlags (w ++ g ++ m ++ v) ||| conv)).updWrites dd p step d.layer d.op
    ([(d.master + 4096 * k, bytes32 (out.map fun x => x.1))] ++ m1Writes d k (out.map fun x => x.2.2.1) ++
      vWritesOf d k (out.map fun x => x.2.2.2) ++
      (if d.rem then [(d.remOff + 2048 * k, (out.map fun x => natLe 2 (ofSigned 16 x.2.1)).flatten)] else []))

/-- What a pass has gathered: the blocks it skipped, by descriptor and node offset. -/
structure PassAcc where
  s : State
  failed : List (Nat × Nat × Nat)

/-- One block: updated, or skipped with a fault, which a DATA fault follows with REPAIR_PENDING (R360). -/
def updOne (dd p step : Nat) (u : UpdSec) (sc : UScal) (n idx : Nat) (d : UDesc) (f : Option Factors) (a : PassAcc) (k : Nat) :
    PassAcc :=
  match a.s.updReads dd p (d.pieces k) with
  | (s, _, some why) =>
    let s1 := s.engFault dd step d.layer d.op why
    ⟨if why.1 = 2 then s1.modUpd dd fun x => { x with repair := true } else s1, a.failed ++ [(idx, k, d.master + 4096 * k)]⟩
  | (s, bs, none) => ⟨s.updBlock dd p step u sc n d f k bs, a.failed⟩

/-! Working copies (R354 to R357). -/

def amaxShard (ws : List Nat) : Nat :=
  ws.foldl (fun m w => let a := w % 2 ^ 31; if a < 0x7F800000 && m < a then a else m) 0

def fp8Exp (fmt amax : Nat) : Int :=
  if amax = 0 then 0
  else
    let x := dy32 amax
    let fmax := if fmt = 3 then 448 else 57344
    max (-126) (min 127 (floorLog2 (fmax * 2 ^ (-x.e).toNat) (x.m.natAbs * 2 ^ x.e.toNat)))

/-- Random value of an element (R356). -/
def wcDraw (seed stream step : Nat) (d : UDesc) (i j : Nat) : Nat :=
  if d.wcSr then draw seed stream 0 d.layer d.op step ((d.row0 + i) * d.cols + j) % 65536 else 0
def wcMode (d : UDesc) : RMode := if d.wcSr then .sr else .rne

def qrRnd (seed step : Nat) (d : UDesc) : List Nat :=
  (List.range d.e).map fun k => wcDraw seed 0x11 step d (k / d.cols) (k % d.cols)
def qcRnd (seed step : Nat) (d : UDesc) : List Nat :=
  (List.range d.e).map fun k => wcDraw seed 0x12 step d (k % d.rows) (k / d.rows)
/-- The values of the row blocking, and of the column blocking. -/
def qrVals (ws : List Nat) : List Val := ws.map val32
def qcVals (d : UDesc) (ws : List Nat) : List Val :=
  (List.range d.e).map fun k => val32 (ws.getD (k % d.rows * d.cols + k / d.rows) 0)

def elemBytes4 (bl : List (Nat × List Enc)) : List Byte :=
  let l := (bl.map fun b => b.2.map Prod.fst).flatten
  natLe (l.length / 2) (packBits 4 l)
def scaleBytes (bl : List (Nat × List Enc)) : List Byte := bl.map fun b => BitVec.ofNat 8 b.1
def blockFlags (bl : List (Nat × List Enc)) : Nat := orFlags (bl.map fun b => orFlags (b.2.map Prod.snd))

/-- An array of a copy: its bytes, for each byte the elements it depends on, and the flags of its conversions. -/
structure CopyPart where
  data : List Byte
  dep : Nat → List Nat
  flags : Nat

/-- T and the arrays of a copy (R354). -/
def wcParts (seed step : Nat) (d : UDesc) (ws : List Nat) : Nat × List CopyPart :=
  let amax := amaxShard ws
  if d.wcFmt = 1 then
    let l := (List.range d.e).map fun k =>
      convF bf16 (wcMode d) true (wcDraw seed 0x10 step d (k / d.cols) (k % d.cols)) (val32 (ws.getD k 0))
    (one32, [⟨(l.map fun e => natLe 2 e.1).flatten, fun b => [b / 2], orFlags (l.map Prod.snd)⟩])
  else if d.wcFmt = 5 then
    let t := k4Tensor (dy32 amax)
    let r := k4Quant t (wcMode d) (qrVals ws) (qrRnd seed step d)
    let c := k4Quant t (wcMode d) (qcVals d ws) (qcRnd seed step d)
    let blk := fun q : Nat => (List.range 16).map fun i => (q * 16 + i) % d.rows * d.cols + (q * 16 + i) / d.rows
    (t, [⟨elemBytes4 r, fun b => [2 * b], blockFlags r⟩, ⟨scaleBytes r, fun b => [16 * b], 0⟩,
      ⟨elemBytes4 c, fun b => blk (b / 8), blockFlags c⟩, ⟨scaleBytes c, blk, 0⟩])
  else
    let e := fp8Exp d.wcFmt amax
    let f := if d.wcFmt = 3 then e4m3 else e5m2
    let l := (List.range d.e).map fun k =>
      convF f (wcMode d) true (wcDraw seed 0x10 step d (k / d.cols) (k % d.cols)) ((val32 (ws.getD k 0)).scale ⟨1, e⟩)
    (rne32 ⟨1, -e⟩, [⟨l.map fun e => BitVec.ofNat 8 e.1, fun b => [b], orFlags (l.map Prod.snd)⟩])

/-- The maximal runs of the bytes given, with where they start. -/
def runsOf : Nat → List (Option Byte) → List (Nat × List Byte)
  | _, [] => []
  | off, none :: r => runsOf (off + 1) r
  | off, some b :: r =>
    match runsOf (off + 1) r with
    | [] => [(off, [b])]
    | (o, bs) :: rest => if o = off + 1 then (off, b :: bs) :: rest else (off, [b]) :: (o, bs) :: rest

/-- What is written of an array at an offset: nothing that depends on an element of a skipped block (R360). -/
def CopyPart.writes (x : CopyPart) (skip : List Nat) (off : Nat) : List (Nat × List Byte) :=
  if skip.isEmpty then [(off, x.data)]
  else runsOf off ((List.range x.data.length).map fun b =>
    if (x.dep b).any fun e => skip.contains (e / 1024) then none else x.data[b]?)

def putParts (dd p step : Nat) (d : UDesc) (skip : List Nat) : Nat → State → List CopyPart → State
  | _, s, [] => s
  | off, s, x :: r =>
    putParts dd p step d skip (off + pad4k x.data.length)
      ((s.updFlags dd x.flags).updWrites dd p step d.layer d.op (x.writes skip off)) r

/-- Reads the FP32 masters of a descriptor again; those of a skipped block count as zero. What is wrong with a block that was
not skipped is a fault. -/
def State.masters (s : State) (dd p step : Nat) (d : UDesc) (skip : List Nat) : State × List Nat :=
  (List.range (d.e / 1024)).foldl (fun x k =>
    if skip.contains k then (x.1, x.2 ++ List.replicate 1024 0)
    else
      let a := x.1.updRead dd p (d.master + 4096 * k) 4096
      (match a.bad with | some why => a.s.engFault dd step d.layer d.op why | none => a.s, x.2 ++ unpack 32 1024 a.data)) (s, [])

/-- Regenerates the working copy of a descriptor. -/
def State.regen (s : State) (dd p step count : Nat) (d : UDesc) (skip : List Nat) : State :=
  if !d.wcEn then s
  else
    let (s1, ws) := s.masters dd p step d skip
    let (t, parts) := wcParts (s.part p).seed step d ws
    let hdr := natLe 8 (t + amaxShard ws * 2 ^ 32) ++ natLe 8 step ++ natLe 8 count ++ List.replicate 40 0
    putParts dd p step d skip (pad4k (d.wc + 64)) ((s1.updFlags dd (nanFlags ws)).updWrite dd p step d.layer d.op d.wc hdr) parts

/-- R357: the residual of every element against its dequantised row blocking. -/
def State.residual (s : State) (dd p step : Nat) (d : UDesc) (skip : List Nat) : State :=
  let (s1, ws) := s.masters dd p step d skip
  let t := k4Tensor (dy32 (amaxShard ws))
  let bl := k4Quant t (wcMode d) (qrVals ws) (qrRnd (s.part p).seed step d)
  let deq := (bl.map fun b => b.2.map fun e => (elemVal 5 e.1).scale ((kbs b.1).mul (dy32 t))).flatten
  let out := List.zipWith (fun w q => finish bf16 true (vSub (val32 w) q) 0) ws deq
  putParts dd p step d skip d.res s1 [⟨(out.map fun e => natLe 2 e.1).flatten, fun b => [b / 2], orFlags (out.map Prod.snd)⟩]

/-! Records. -/

/-- The linear checksum of the 32-bit words of an array (R359). -/
def wordSum (bs : List Byte) : Nat := csum ((unpack 32 (bs.length / 4) bs).map fun x => (x : Int))

/-- Writes the audit record of a descriptor; what is wrong with an array it reads is a fault. -/
def State.auditOne (s : State) (dd p step count : Nat) (u : UpdSec) (x : Nat × UDesc) : State :=
  let d := x.2
  let (s1, sums) := [(d.master, 4 * d.e), (d.state, d.m1Size), (d.vOff, d.vSize), (d.remOff, d.remSize)].foldl
    (fun (a : State × List Nat) e =>
      if e.2 = 0 then (a.1, a.2 ++ [0])
      else
        let r := a.1.updRead dd p e.1 e.2
        (match r.bad with | some why => r.s.engFault dd step d.layer d.op why | none => r.s, a.2 ++ [wordSum r.data])) (s, [])
  s1.updWrite dd p step d.layer d.op (u.audit + 64 * x.1)
    (((sums ++ [step, count]).map fun w => natLe 8 w).flatten ++ List.replicate 16 0)

def commitRec (step : Nat) (committed repair audited : Bool) (count lrNorm clip failed first : Nat) : List Byte :=
  natLe 8 (step % 2 ^ 32 + 2 ^ 32 + natOfBool committed * 2 ^ 33 + natOfBool repair * 2 ^ 34 + natOfBool audited * 2 ^ 35) ++
  natLe 8 count ++ natLe 8 lrNorm ++ natLe 8 (clip % 2 ^ 32 + failed * 2 ^ 32) ++ natLe 8 (first % 2 ^ 42) ++ List.replicate 24 0

/-! The commit pass (R345). -/

/-- Reads one line's bytes of the engine's own (its state line, a norm), with a fault where it cannot. -/
def State.updWord (s : State) (dd p step off n : Nat) : State × Nat :=
  let a := s.memRead p (updAgent dd) off n
  (match a.bad with | some why => a.s.engFault dd step 0 0 why | none => a.s, leNat a.data)

/-- The outputs of the norm buckets of the partition's dies, in die order. -/
def State.norms (s : State) (dd p step : Nat) (u : UpdSec) : State × List Nat :=
  (s.diesOf p).foldl (fun x d =>
    match (x.1.reef d).bucket u.group (u.normBkt + d) with
    | some b => let r := x.1.updWord dd p step b.out 4; (r.1, x.2 ++ [r.2])
    | none => x) (s, [])

/-- The first pass of a factored descriptor: its factors, and whether what it read was good. -/
def State.factPass (s : State) (dd p : Nat) (u : UpdSec) (sc : UScal) (d : UDesc) : State × Option Factors × Bool :=
  if d.v = 3 then
    match s.updReads dd p [(d.grad, 4 * d.e), (d.vOff, 4 * d.rows), (d.vOff + 4 * d.rows, 4 * d.cols)] with
    | (s1, bs, bad) =>
      let h := u.hps.getD d.hp ⟨0, 0, 0, 0, 0, 0⟩
      (s1, some (factors d h sc.c (unpack 32 d.e (bs.getD 0 [])) (unpack 32 d.rows (bs.getD 1 [])) (unpack 32 d.cols (bs.getD 2 []))),
        bad.isNone)
  else (s, none, true)

def stepDesc (dd p step : Nat) (u : UpdSec) (sc : UScal) (count : Nat) (a : PassAcc) (x : Nat × UDesc) : PassAcc :=
  let (idx, d) := x
  let (s0, f, good) := a.s.factPass dd p u sc d
  let b := (List.range (d.e / 1024)).foldl (updOne dd p step u sc (count + 1) idx d f) ⟨s0, a.failed⟩
  let skip := (b.failed.filter fun e => e.1 == idx).map fun e => e.2.1
  let s1 := match f with
    | some x => if good then b.s.updWrite dd p step d.layer d.op d.vOff (bytes32 (x.r ++ x.c)) else b.s
    | none => b.s
  let s2 := s1.regen dd p step count d skip
  ⟨if d.splice && (count + 1) % 2 ^ d.spliceLog2 = 0 then s2.residual dd p step d skip else s2, b.failed⟩

/-- Working copies of the descriptors repaired under a hold are regenerated before the next DONE_SIG (R361). -/
def State.regenRepaired (s : State) (dd p step count : Nat) (u : UpdSec) : State :=
  let e := (s.die dd).upd
  if e.repair then s
  else (e.repaired.foldl (fun s i => match u.descs[i]? with | some d => s.regen dd p step count d [] | none => s) s).modUpd dd
    fun x => { x with repaired := [] }

def State.doneSig (s : State) (dd p step count : Nat) (u : UpdSec) : State :=
  let s1 := (s.regenRepaired dd p step count u).modUpd dd fun x => { x with todo := none }
  if u.doneSig then (s1.addToken u.doneTile u.doneTok 1).pump u.doneTile else s1

/-- On a veto: no value of LR, NORM, CLIP and FIRST_FAIL is stated. -/
def State.vetoRecord (s : State) (dd p step count : Nat) (u : UpdSec) : State :=
  let (a, s1) := s.drawFree
  let (b, s2) := s1.drawFree
  let (c, s3) := s2.drawFree
  s3.updWrite dd p step 0 0 (u.commit + 64 * (step % 2))
    (commitRec step false (s.die dd).upd.repair false count a.toNat b.toNat 0 c.toNat)

def State.commit (s : State) (dd p step count : Nat) (u : UpdSec) : State :=
  let held := (s.die dd).upd.repair
  let (s0, norms) := s.norms dd p step u
  let sc := updScal u step (treeCombine norms)
  let descs := (List.range u.descs.length).zip u.descs
  let a := descs.foldl (stepDesc dd p step u sc count) ⟨s0, []⟩
  let audit := u.auditEvery ≠ 0 && (count + 1) % u.auditEvery = 0
  let s1 := if audit then descs.foldl (fun s x => s.auditOne dd p step count u x) a.s else a.s
  let s2 := s1.updWrite dd p step 0 0 u.stateLine (natLe 8 ((count + 1) % 2 ^ 64))
  let (w, s3) := s2.drawFree
  let first := match a.failed with | x :: _ => x.2.2 | [] => w.toNat
  s3.updWrite dd p step 0 0 (u.commit + 64 * (step % 2))
    (commitRec step true held audit (count + 1) (sc.lr + sc.nu * 2 ^ 32) sc.phi a.failed.length first)

/-- Whether the engine of a die runs: not frozen by a dump, not held by a block reset, and the controllers of its partition's
stacks accept commands (R171). -/
def State.updLive (s : State) (d p : Nat) : Bool := !(s.geode p).frozen && !s.held .update d && s.engReady p

/-- The chunks that waited for the engine's decision are written (R346). -/
def State.afterPass (s : State) (d p g : Nat) : State :=
  match ((s.reef d).group g).bind fun x => x.step with
  | some t => (s.reef d).buckets.foldl (fun s b => if b.group = g && b.kind = 0 then s.bucketGo d p t g b.bucket else s) s
  | none => s

def State.commitPass (s : State) (d : Nat) : State :=
  match s.partOfDie d, (s.die d).upd.sec, (s.die d).upd.todo with
  | some p, some u, some (step, vetoed) =>
    if !s.updLive d p then s
    else
      let (s0, count) := s.updWord d p step u.stateLine 8
      let s1 := if vetoed then s0.vetoRecord d p step count u else s0.commit d p step count u
      (s1.doneSig d p step (if vetoed then count else count + 1) u).afterPass d p u.group
  | _, _, _ => s

/-! The pre-decision pass (R344, R363). -/

/-- Every KIND 0 bucket of the group has its shard output written, or failed a chunk. -/
def State.shardsSettled (s : State) (d : Nat) (x : GroupSt) (step : Nat) : Bool :=
  let e := s.reef d
  let r := s.rankIn x
  (e.buckets.filter fun b => b.group == x.g && b.kind == 0).all fun b =>
    b.puts ≤ b.taken && (List.range (b.chunks x.n)).all fun c =>
      match e.mark step x.g b.bucket r c with
      | some m => m.fate != .sent
      | none => false

/-- Hands values into a KIND 1 bucket of the die; a failed read leaves them open. -/
def State.give (s : State) (d p step : Nat) (u : UpdSec) (bkt : Nat) (vals : List Nat) (bad : Bool) : State :=
  match (s.reef d).bucket u.group bkt with
  | none => s
  | some b =>
    if bad then
      let (w, s1) := s.drawFree
      s1.handOff d p step b 0 (vals.map fun _ => w.toNat % 2 ^ 32)
    else s.handOff d p step b 0 vals

def lossVals (dumps : List (List Byte)) : List Nat :=
  ((List.range 48).map fun g => treeCombine (dumps.map fun b => leAt b (8 * g) 4)) ++
    (List.range 48).map fun g => fp32OfNat (dumps.map fun b => leAt b (8 * g + 4) 4).sum

/-- The gradient blocks that count toward the norm, with their layer and op. -/
def UpdSec.normBlocks (u : UpdSec) : List (Nat × Nat × Nat) :=
  ((u.descs.filter fun d => d.norm).map fun d => (List.range (d.e / 1024)).map fun k => (d.layer, d.op, d.grad + 4096 * k)).flatten

/-- Reads blocks of n bytes; each that reads badly is a fault of the engine. -/
def State.preReads (s : State) (d p step n : Nat) (l : List (Nat × Nat × Nat)) : State × List (List Byte) × Bool :=
  l.foldl (fun x e =>
    let a := if n = 4096 then x.1.updRead d p e.2.2 n else x.1.memRead p (updAgent d) e.2.2 n
    (match a.bad with | some why => a.s.engFault d step e.1 e.2.1 why | none => a.s, x.2.1 ++ [a.data], x.2.2 || a.bad.isSome))
    (s, [], false)

/-- The norm of the die: block sums of the squares of its raw gradients, combined (R344). -/
def normOf (blocks : List (List Byte)) : Nat :=
  treeCombine (blocks.map fun b => seqSum ((unpack 32 1024 b).map fun g => mul32 g g))

def State.preNorm (s : State) (d p step : Nat) (u : UpdSec) : State :=
  if !u.normEn then s
  else match s.preReads d p step 4096 u.normBlocks with
    | (s1, bs, bad) =>
      (s1.updFlags d (nanFlags (bs.map (unpack 32 1024)).flatten)).give d p step u (u.normBkt + d) [normOf bs] bad

def State.preLoss (s : State) (d p step : Nat) (u : UpdSec) : State :=
  if !u.lossEn then s
  else match s.preReads d p step 384 ((List.range u.lossTiles).map fun m => (0, 0, u.loss + 384 * m)) with
    | (s1, bs, bad) =>
      (s1.updFlags d (nanFlags (bs.map fun b => (List.range 48).map fun g => leAt b (8 * g) 4).flatten)).give d p step u
        (u.lossBkt + d) (lossVals bs) bad

def State.prePass (s : State) (d : Nat) : State :=
  match s.partOfDie d, (s.die d).upd.sec with
  | some p, some u =>
    match (s.reef d).group u.group with
    | some x =>
      match x.step with
      | some t =>
        if !s.updLive d p || (s.die d).upd.todo.isSome || (s.die d).upd.preDone = some t || x.closedAt.isNone || !s.shardsSettled d x t
        then s
        else ((s.modUpd d fun e => { e with preDone := some t }).preNorm d p t u).preLoss d p t u
      | none => s
    | none => s
  | _, _ => s

def execPreDecisionPass (d : Nat) (s : State) : Out := onInst (d < 4) s fun s => s.prePass d
def execCommitPass (d : Nat) (s : State) : Out := onInst (d < 4) s fun s => s.commitPass d

end Sys2Proof.Machine
end

