-- ==== Sys2Proof/Machine/MemCmd.lean ====
section
/-! DEFINITION. Allocations and their placement (R226, R244, R245), and the memory commands (R252, R359, R361, R362). -/
namespace Sys2Proof.Machine

/-! Placement. -/

/-- Bytes of each pseudo-channel that an allocation takes (R245). -/
def pcNeed (e : AllocEntry) : Nat :=
  let chunks := (e.size + 255) / 256
  if e.mode = 0 then (chunks + 159) / 160 * 256
  else if e.mode = 1 then
    let g := (e.size - 1) / 2 ^ e.dgran
    let per := 2 ^ (e.dgran - 8)
    let last := if g % 4 = 0 then (e.size - 1) / 256 % per else per - 1
    ((g / 4 * per + last) / 160 + 1) * 256
  else (chunks + 639) / 640 * 256

/-- Whether two allocations share a stack. -/
def sharesStack (a b : AllocEntry) : Bool := a.mode != 0 || b.mode != 0 || a.die == b.die

/-- Where the dump areas begin in every pseudo-channel (R244, R475). -/
def pcTop : Nat := 0x47BAC000

/-- The ends of the allocations in the way of an interval, and the lowest free place above them, first fit. -/
def pcPlace (used : List (Nat × Nat)) (need : Nat) : Nat → Nat → Option Nat
  | 0, _ => none
  | n + 1, at_ =>
    if pcTop < at_ + need then none
    else match used.find? fun u => u.1 < at_ + need && at_ < u.1 + u.2 with
      | none => some at_
      | some u => pcPlace used need n (u.1 + u.2)

/-- The stacks an allocation places data on. -/
def stacksOf (e : AllocEntry) : List Nat :=
  ((List.range (min ((e.size + 255) / 256) (if e.mode = 1 then 4 * 2 ^ (e.dgran - 8) + 1280 else 1280))).map fun c =>
    (place ⟨e, 0, 0, false⟩ (e.base + 256 * c)).1).dedup

def entriesOverlap (a b : AllocEntry) : Bool := a.base < b.base + b.size && b.base < a.base + a.size

/-- PC_BASE of an allocation, or why there is none (R226, R247). -/
def State.placeAlloc (s : State) (p : Nat) (e : AllocEntry) : Option Nat :=
  let clash := s.allocs.any fun al => entriesOverlap al.e e || (al.part == p && al.e.allocId == e.allocId)
  if clash || e.base % 4096 ≠ 0 || e.size % 4096 ≠ 0 || (stacksOf e).any fun k => (s.stk k).lost then none
  else
    let used := (s.allocs.filter fun al => sharesStack al.e e).map fun al => (al.pcBase, pcNeed al.e)
    pcPlace used (pcNeed e) (used.length + 1) s.carvePc

/-- The refusals of an entry in itself (R226, Table 08-2). -/
def entryBad (e : AllocEntry) : Option Nat :=
  if e.mode = 3 then some stReserved
  else if e.size = 0 || hbmEnd < e.base + e.size || 3 < e.die || (e.mode = 1 && (e.dgran < 12 || 30 < e.dgran)) ||
    (e.mode = 2 && e.die ≠ 0) then some stRange
  else none

def State.addAlloc (s : State) (al : Alloc) : State := { s with allocs := s.allocs ++ [al] }

def execMemMap (c : Call) (a : AllocEntry) (s : State) : Out :=
  .next (capstanRun (.memMap c a) c (cmdC 0x0101 .job) (fun s =>
    let p := Call.part c
    match entryBad a with
    | some st => s.answer st
    | none =>
      if a.mode ≠ 2 && !bit (s.part p).mask a.die then s.answer stPartition
      else match s.placeAlloc p a with
        | none => s.answer stResource
        | some pc =>
          let r := (s.addAlloc ⟨a, pc, p, false⟩).ok
          { r with result := BitVec.ofNat 64 pc }) s)

def execMemUnmap (c : Call) (allocId : Nat) (s : State) : Out :=
  .next (capstanRun (.memUnmap c allocId) c (cmdC 0x0102 .job) (fun s =>
    let p := Call.part c
    if (s.part p).bound.isSome then s.answer stBusy
    else
      let mine := fun al : Alloc => al.part == p && al.e.allocId == allocId
      if s.allocs.any mine then ({ s with allocs := s.allocs.filter fun al => !mine al }).ok else s.answer stNotHeld) s)

/-! HBM link training (R247), on dies whose release wave has come so far (Table 15-3). -/

def State.linkTrain (s : State) (k : Nat) (failing : List Nat) (beyond : Bool) : State :=
  let x := s.stk k
  if !x.training || (s.die (k / 5)).released = 0 then s
  else
    let new := (failing.filter fun l => !x.repairs.contains l).dedup
    let rate := (s.die (k / 5)).pinRate
    let s1 := s.modStk k fun x => { x with
      training := false, repairs := x.repairs ++ new, lost := x.lost || beyond
      saved := (rate, x.repairs ++ new) :: x.saved.filter fun e => e.1 != rate }
    new.foldl (fun s l => s.log 0x0003 0xFF [k, l]) s1

/-- The engines and tiles of a partition go on with what waited for a controller. -/
def State.wake (s : State) (p : Nat) : State :=
  let s1 := (s.diesOf p).foldl (fun s d => (s.reef d).buckets.foldl (fun s b =>
    match ((s.reef d).group b.group).bind fun x => x.step with
    | some t => if b.kind = 0 then s.bucketGo d p t b.group b.bucket else s.f32Go d p t b.group b.bucket
    | none => s) s) s
  ((List.range 12).foldl (fun s g => s.reportGo p g) s1).pumpPart p

/-! Runs. -/

/-- Whether every byte of a run lies in the partition's allocations. -/
def State.runIn (s : State) (p off n : Nat) : Bool := (linesOf off n).all fun l => (s.allocAt p l).isSome

/-- The bytes a fill writes; none where its source is unreachable or bad. -/
def State.fillBytes (s : State) (p len : Nat) : FillSrc → State × Option (List Byte)
  | .pattern w =>
    let b := natLe 8 w.toNat
    (s, some ((List.range len).map fun k => b.getD (k % 8) 0))
  | .offset o =>
    let a := s.plainRead p capAgent o len
    (a.s, if a.bad.isNone then some a.data else none)

/-- The arrays a descriptor owns (R343). -/
def UDesc.arrays (d : UDesc) : List (Nat × Nat) :=
  [(d.master, 4 * d.e), (d.state, d.m1Size), (d.vOff, d.vSize), (d.remOff, d.remSize)]

/-- The descriptors that a repair touches are regenerated after the release (R361, R362). -/
def State.noteRepair (s : State) (p dst len : Nat) : State :=
  (s.diesOf p).foldl (fun s d =>
    match (s.die d).upd.sec with
    | none => s
    | some u =>
      let hit := (List.range u.descs.length).filter fun i => match u.descs[i]? with
        | some x => x.arrays.any fun a => dst < a.1 + a.2 && a.1 < dst + len
        | none => false
      s.modUpd d fun x => { x with repaired := (x.repaired ++ hit).dedup }) s

/-- COUNT of the partition's lowest die that has an update section. -/
def State.countOf (s : State) (p : Nat) : State × Nat :=
  match (s.diesOf p).findSome? fun d => (s.die d).upd.sec with
  | some u => let a := s.plainRead p capAgent u.stateLine 8; (a.s, leNat a.data)
  | none => (s, 0)

def execMemFill (c : Call) (dst len : Nat) (src : FillSrc) (s : State) : Out :=
  .next (capstanRun (.memFill c dst len src) c { cmdC 0x0103 .job with cflags := 1, mem := true } (fun s =>
    let p := Call.part c
    let srcOk := match src with | .pattern _ => true | .offset o => s.runIn p o len
    if !s.runIn p dst len || !srcOk then s.answer stRange
    else match s.fillBytes p len src with
      | (s0, none) => s0.answer stResource
      | (s0, some data) =>
        let (s1, ok) := s0.memWrite p capAgent dst data
        if !ok then s1.answer stResource
        else if bit c.msg.cflags 0 then
          let (s2, count) := s1.countOf p
          ((s2.noteRepair p dst len).log 0x000A p [dst, s2.nodeId.getD 0xFFFF, count]).ok
        else s1.ok) s)

/-- Result of a block's CRC, of the bytes read (R359). -/
def State.blockResult (s : State) (p off : Nat) (bytes : List Byte) : Nat :=
  match s.allocAt p off with
  | some al => if !al.e.crc then 2 else if crc32c bytes = s.blockCrc al off then 0 else 1
  | none => 2

/-- The whole sum, the sums of the 16 parts, and the block results of a short run. -/
def State.checksums (s : State) (p base n : Nat) : State × List Nat :=
  let a := s.readLines p capAgent (linesOf base (4096 * n))
  let sum := fun lo hi => wordSum (sub a.data (4096 * lo) (4096 * (hi - lo)))
  (a.s, [sum 0 n] ++ ((List.range 16).map fun k => sum (k * n / 16) ((k + 1) * n / 16)) ++
    if n ≤ 16 then [packBits 2 ((List.range n).map fun k => a.s.blockResult p (base + 4096 * k) (sub a.data (4096 * k) 4096))] else [])

def execMemChecksum (c : Call) (base blocks : Nat) (s : State) : Out :=
  .next (capstanRun (.memChecksum c base blocks) c { cmdR 0x0104 .job with mem := true } (fun s =>
    let p := Call.part c
    if base % 4096 ≠ 0 || !s.runIn p base (4096 * blocks) then s.answer stRange
    else
      let (s1, sums) := s.checksums p base blocks
      let a := s1.ok
      { a with payload := sums }) s)

/-- REPAIR_PENDING of a partition's engines (R361). -/
def State.setRepair (s : State) (p : Nat) (on : Bool) : State :=
  (s.diesOf p).foldl (fun s d => s.modUpd d fun x => { x with repair := on }) s

def execMemHold (c : Call) (s : State) : Out :=
  .next (capstanRun (.memHold c) c (cmdC 0x0105 .job) (fun s => (s.setRepair (Call.part c) true).ok) s)

def execMemRelease (c : Call) (s : State) : Out :=
  .next (capstanRun (.memRelease c) c (cmdC 0x0106 .job) (fun s => (s.setRepair (Call.part c) false).ok) s)

def execMemScrub (c : Call) (hours : Nat) (s : State) : Out :=
  .next (capstanRun (.memScrub c hours) c (cmdC 0x0107 .owner) (fun s =>
    if hours = 0 || 168 < hours then s.answer stRange else (s.modCap fun k => { k with scrubHours := hours }).ok) s)

end Sys2Proof.Machine
end

