-- ==== Sys2Proof/Machine/Geode.lean ====
section
/-! DEFINITION. The Geode dump (R473 to R478): triggers, the freeze, settling, writing the dump; and the counters-and-dump
commands CNT_FAULTS and CNT_DUMP. -/
namespace Sys2Proof.Machine

/-! Triggers and the freeze. -/

/-- Whether a trigger goes before another: the lowest cause, then the lowest tile (R473). -/
def Trig.before (a b : Trig) : Bool := a.cause < b.cause || (a.cause == b.cause && a.tile ≤ b.tile)

/-- The trigger that is resolved first. -/
def bestTrig : List Trig → Option Trig
  | [] => none
  | a :: r => match bestTrig r with
    | none => some a
    | some b => if a.before b then some a else some b

/-- The header that a trigger begins; the other triggers are counted. With KEEP only a summary will be written (R475). -/
def DumpHdr.of (tr : Trig) (now others mask : Nat) (keep : Bool) : DumpHdr where
  cause := tr.cause
  status := if keep then 2 else 0
  trigTile := tr.tile
  sections := 0
  tTrig := now
  tSettled := 0
  tWritten := 0
  step := tr.step
  strandId := tr.strandId
  layer := tr.layer
  op := tr.op
  cls := tr.cls
  code := tr.code
  later := min others 65535
  dieMask := mask

/-- Where the dump area of a die lies: its upper part of each pseudo-channel (R244), and the node offsets that firmware
gives it. -/
def dumpSize : Nat := 0x20080000
def dumpPc : Nat := 0x47CCC000
def dumpBase (d : Nat) : Nat := hbmEnd - (4 - d) * dumpSize
def dumpAlloc (p d : Nat) : Alloc :=
  ⟨⟨dumpBase d, dumpSize, 0, d, false, true, false, 0, 0x80000000 + d⟩, dumpPc, p, true⟩

/-- The mapping of dump areas ends (R475). -/
def State.unmapDump (s : State) (p : Nat) : State :=
  let areas := [dumpAlloc p 0, dumpAlloc p 1, dumpAlloc p 2, dumpAlloc p 3]
  let s1 := { s with allocs := s.allocs.filter fun al => !areas.contains al }
  s1.modGeode p fun g => { g with mapped := false }

/-- Step 1 of Table 16-4. -/
def State.freeze (s : State) (p : Nat) (tr : Trig) : State :=
  let g := s.geode p
  let s1 := if g.keep then s else s.unmapDump p
  s1.modGeode p fun g => { g with
    frozen := true, phase := .settling, trigs := []
    hdr := some (DumpHdr.of tr s.now (g.trigs.length - 1) (s.part p).mask g.keep) }

def execGeodeTrigger (p cause tile : Nat) (s : State) : Out :=
  onInst (p < 4) s fun s =>
    match bestTrig (s.geode p).trigs with
    | some tr => if (s.geode p).frozen || tr.cause ≠ cause || tr.tile ≠ tile then s else s.freeze p tr
    | none => s

/-! Settling. -/

/-- The summary record (R478). -/
def State.dumpSummary (s : State) (p : Nat) (h : DumpHdr) : State :=
  let home := match s.diesOf p with | d :: _ => dumpBase d | [] => 0
  s.log 0x0010 p [h.cause % 2 ^ 8 + h.status % 2 ^ 8 * 2 ^ 8 + h.trigTile % 2 ^ 16 * 2 ^ 16 + h.layer % 2 ^ 16 * 2 ^ 32 +
    h.op % 2 ^ 16 * 2 ^ 48, h.strandId % 2 ^ 32 + h.step % 2 ^ 32 * 2 ^ 32, h.tSettled,
    home % 2 ^ 42 + h.sections % 2 ^ 16 * 2 ^ 42]

/-- Whether a partition has nothing in flight. -/
def State.nothingFlies (s : State) (p : Nat) : Bool :=
  (s.tilesOf p).all fun t => (s.tile t).ops.all fun o => o.flying.isEmpty && o.resps.isEmpty

/-- Steps 2 and 3 of Table 16-4; with KEEP the summary follows at once. -/
def State.settle (s : State) (p : Nat) (h : DumpHdr) : State :=
  let h1 := { h with tSettled := s.now }
  if h.status = 2 then
    (s.dumpSummary p h1).modGeode p fun g => { g with phase := .done, hdr := some h1 }
  else s.modGeode p fun g => { g with phase := .writing, hdr := some h1 }

def execGeodeSettle (p : Nat) (s : State) : Out :=
  onInst (p < 4) s fun s =>
    let g := s.geode p
    match g.hdr with
    | some h =>
      if g.phase = .settling && (h.tTrig + 10000 ≤ s.now || s.nothingFlies p) then s.settle p h else s
    | none => s

/-! Writing the dump (Tables 16-5 and 16-6). -/

/-- Bytes that the spec does not state. -/
def State.drawBytes (s : State) (n : Nat) : List Byte × State :=
  let k := (n + 7) / 8
  ((((List.range k).map fun i => natLe 8 (Config.freeWord (s.free + i)).toNat).flatten).take n, { s with free := s.free + k })

/-- A section with its node offset. -/
structure Placed where
  sec : Section
  off : Nat
  deriving DecidableEq, Repr

def placeSections (at_ : Nat) : List Section → List Placed
  | [] => []
  | x :: r => ⟨x, at_⟩ :: placeSections (at_ + (x.size + 4095) / 4096 * 4096) r

def State.sectionsOf (s : State) (d : Nat) : List Section :=
  ((List.range 96).map fun k => s.tileSections (96 * d + k)).flatten ++ s.dieSections d

/-- Every section of a partition's dump in its place: after header and table on the lowest die. -/
def State.placed (s : State) (p : Nat) : List Placed :=
  let ds := s.diesOf p
  let n := ds.length * 677
  let head := (128 + 32 * n + 4095) / 4096 * 4096
  (ds.map fun d => placeSections (dumpBase d + if ds.head? = some d then head else 0) (s.sectionsOf d)).flatten

/-- Writes bytes of a dump area through their home, line by line; what lies on a lost stack is not written. -/
def State.dumpWrite (s : State) (p off : Nat) (data : List Byte) : State :=
  (linesOf off data.length).foldl (fun s l =>
    let al := dumpAlloc p ((l - dumpBase 0) / dumpSize)
    if (s.stk (place al l).1).lost then s
    else
      let lo := max off l
      let hi := min (off + data.length) (l + 64)
      let bytes := List.replicate (lo - l) 0 ++ sub data (lo - off) (hi - lo)
      let line := bytes ++ List.replicate (64 - bytes.length) 0
      (s.homeDo al { engReq capAgent l (.writeLine (2 ^ (hi - l) - 2 ^ (lo - l)) line) false s.now with cls := 4 }).s) s

def State.writePieces (s : State) (p : Nat) : Nat → List Piece → State
  | _, [] => s
  | off, .bytes l :: r => (s.dumpWrite p off l).writePieces p (off + l.length) r
  | off, .open_ n :: r =>
    let (l, s1) := s.drawBytes n
    (s1.dumpWrite p off l).writePieces p (off + n) r

def State.writeSection (s : State) (p : Nat) (x : Placed) : State := s.writePieces p x.off x.sec.pieces

/-- A section entry (Table 16-6). -/
def Placed.entry (x : Placed) (incomplete : Bool) : List Byte :=
  natLe 2 x.sec.typ ++ natLe 1 0 ++ natLe 1 1 ++ natLe 2 x.sec.index ++
    natLe 2 (natOfBool (x.sec.typ == 6) + 2 * natOfBool incomplete) ++ natLe 8 x.off ++ natLe 8 x.sec.size ++ natLe 8 0

/-- The header (Table 16-5). -/
def DumpHdr.bytes (h : DumpHdr) (p digest : Nat) : List Byte :=
  natLe 4 0x444F4547 ++ natLe 1 0 ++ natLe 1 1 ++ natLe 2 128 ++ natLe 1 h.cause ++ natLe 1 p ++ natLe 1 h.dieMask ++
    natLe 1 h.status ++ natLe 2 h.trigTile ++ natLe 2 h.sections ++ natLe 8 h.tTrig ++ natLe 8 h.tSettled ++
    natLe 8 h.tWritten ++ natLe 4 h.step ++ natLe 4 h.strandId ++ natLe 2 h.layer ++ natLe 2 h.op ++ natLe 1 h.cls ++
    natLe 1 h.code ++ natLe 2 h.later ++ natLe 8 0 ++ natLe 48 digest ++ natLe 16 0

/-- Steps 4 to 6 of Table 16-4: the sections, the header last, and the summary record. A truncated dump has written the
first sections of its table; how many is open. -/
def State.writeDump (s : State) (p : Nat) (h : DumpHdr) (truncated : Bool) : State :=
  let secs := s.placed p
  let (w, s0) := s.drawFree
  let k := if truncated then w.toNat % (secs.length + 1) else secs.length
  let h1 := { h with status := natOfBool truncated, sections := secs.length, tWritten := s.now }
  let s1 := (secs.take k).foldl (fun s x => s.writeSection p x) s0
  let home := match s.diesOf p with | d :: _ => dumpBase d | [] => 0
  let entries := (((secs.take k).map fun x => x.entry false) ++ (secs.drop k).map fun x => x.entry true).flatten
  let digest := match (s.part p).bound with | some i => i.digest | none => 0
  let s2 := (s1.dumpWrite p (home + 128) entries).dumpWrite p home (h1.bytes p digest)
  (s2.dumpSummary p h1).modGeode p fun g => { g with phase := .done, hdr := some h1 }

def execGeodeWriteEnd (p : Nat) (truncated : Bool) (s : State) : Out :=
  onInst (p < 4) s fun s =>
    let g := s.geode p
    match g.hdr with
    | some h =>
      let late := decide (h.tSettled + 20000000 ≤ s.now)
      if g.phase = .writing && (truncated || s.engReady p) && (if truncated then late else !late || s.now = h.tSettled + 20000000) then s.writeDump p h truncated
      else s
    | none => s

/-- What a partition reset leaves of a dump in progress (Table 15-10): its summary record is completed. -/
def State.endDump (s : State) (p : Nat) : State :=
  match (s.geode p).hdr with
  | none => s
  | some h =>
    match (s.geode p).phase with
    | .settling | .writing => s.dumpSummary p { h with status := if h.status = 2 then 2 else 1 }
    | .none | .done => s

/-! Commands. -/

def dumpCmd : CmdInfo := cmdC 0x0703 .jobOwner

def execCntDumpTrigger (c : Call) (s : State) : Out :=
  .next (capstanRun (.cntDumpTrigger c) c dumpCmd (fun s =>
    (s.trigger (some (Call.part c)) ⟨4, capAgent, 0, 0, 0, 0, 0, 0⟩).ok) s)

/-- The dump areas become a read-only allocation of the partition; the answer names the lowest die's. -/
def execCntDumpMap (c : Call) (s : State) : Out :=
  .next (capstanRun (.cntDumpMap c) c dumpCmd (fun s =>
    let p := Call.part c
    let areas := (s.diesOf p).map fun d => dumpAlloc p d
    let home := BitVec.ofNat 64 (match s.diesOf p with | d :: _ => dumpBase d | [] => 0)
    if (s.geode p).mapped then
      let a := s.ok
      { a with result := home }
    else if areas.any fun x => s.allocs.any fun al => entriesOverlap al.e x.e then s.answer stResource
    else
      let s1 := areas.foldl (fun s al => s.addAlloc al) s
      let a := (s1.modGeode p fun g => { g with mapped := true }).ok
      { a with result := home }) s)

def execCntDumpKeep (c : Call) (keep : Bool) (s : State) : Out :=
  .next (capstanRun (.cntDumpKeep c keep) c dumpCmd (fun s =>
    (s.modGeode (Call.part c) fun g => { g with keep := keep }).ok) s)

def execCntDumpFabTrig (c : Call) (s : State) : Out :=
  .next (capstanRun (.cntDumpFabTrig c) c dumpCmd (fun s =>
    (s.modGeode (Call.part c) fun g => { g with fabTrig := false }).ok) s)

/-- The dump status, in the layout of the summary record's first word (R478). -/
def Geode.word (g : Geode) : Nat :=
  match g.hdr with
  | some h => h.cause % 2 ^ 8 + h.status % 2 ^ 8 * 2 ^ 8 + h.trigTile % 2 ^ 16 * 2 ^ 16 + h.layer % 2 ^ 16 * 2 ^ 32 +
      h.op % 2 ^ 16 * 2 ^ 48
  | none => 0

def execCntDumpStatus (c : Call) (s : State) : Out :=
  .next (capstanRun (.cntDumpStatus c) c dumpCmd (fun s =>
    let a := s.ok
    { a with result := BitVec.ofNat 64 (s.geode (Call.part c)).word }) s)

/-- Takes the oldest fault record of some dies: each queue holds its own in order, and beats order the queues' heads. -/
def State.takeFault (s : State) (ds : List Nat) : Option (FaultRec × State) :=
  let heads := ds.filterMap fun d => (s.die d).faultQ.head?.map fun r => (d, r)
  match heads with
  | [] => none
  | h :: t =>
    let b := t.foldl (fun (a : Nat × FaultRec) x => if x.2.beat < a.2.beat then x else a) h
    some (b.2, s.modDie b.1 fun x => { x with faultQ := x.faultQ.drop 1 })

def State.takeFaults (s : State) (ds : List Nat) : Nat → List FaultRec × State
  | 0 => ([], s)
  | n + 1 =>
    match s.takeFault ds with
    | none => ([], s)
    | some (r, s1) =>
      let (l, s2) := s1.takeFaults ds n
      (r :: l, s2)

/-- R484, R482: fault records oldest first, removed; then, where the message has room for them, the scope registers of the
partition's dies, whose counts the reading clears (R274). -/
def execCntFaults (c : Call) (max : Nat) (s : State) : Out :=
  .next (capstanRun (.cntFaults c max) c (cmdR 0x0701 .job) (fun s =>
    let ds := s.diesOf (Call.part c)
    let (recs, s1) := s.takeFaults ds (Nat.min max 127)
    let words := (recs.map FaultRec.words).flatten
    if 4064 < 8 * words.length + 16 * ds.length then
      let a := s1.ok
      { a with payload := words }
    else
      let scope := (ds.map fun d => [(s.die d).scopeCnt, (s.die d).scopeLastWord]).flatten
      let a := (ds.foldl (fun s d => s.modDie d fun x => { x with scopeCnt := 0 }) s1).ok
      { a with payload := words ++ scope }) s)

end Sys2Proof.Machine
end

