-- ==== Sys2Proof/Machine/Matrix.lean ====
section
/-! DEFINITION. The matrix instructions and the events of the array: issue (R86 to R88), feeders (R73, R77), DPUs
(R74), drains (R78), the hand-off (R79) and the splice buffer (R97 to R101). -/
namespace Sys2Proof.Machine

/-! Issue. -/

/-- The operand pairs of R43. -/
def pairOk (a b : Nat) : Bool := (a == b && 1 ≤ a && a ≤ 7) || ((a == 3 || a == 4) && (b == 3 || b == 4))

/-- Encodings that no loaded image holds (R87, R99, R100, R108). -/
def mmaBad (f : MmaF) : Bool :=
  !pairOk f.fmtA f.fmtB || f.s == 0 || f.fmtA == 5 && (f.turnA || f.turnB) ||
    f.splice && (f.fmtA != 1 || f.turnA || f.bcA) || f.dest && f.cont || f.ref && (f.accIn || f.cont)

def execMma (t : Nat) (f : MmaF) (s : State) : Out :=
  onInst (t < 384) s fun s => (s.issue t true false fun _ sl i =>
    let x := s.tile t
    let spans := mmaSpans f (t % 4)
    if 4 ≤ x.arrQ.length then .hold
    else if mmaBad f then .breach 0x01 i.ip
    else if f.sig && f.cont then .breach 0x09 i.ip
    else match x.spansBreach sl spans with
      | some (c, a) => .breach c a
      | none =>
        if !x.trackFits spans then .hold
        else .done (s.modTile t fun x =>
          let y := x.register i spans
          { y with
            arrQ := y.arrQ ++ [⟨i, .mma f y.arr.spliceW⟩]
            arr := if f.dest then { y.arr with spliceW := (y.arr.spliceW + 1) % 128 } else y.arr })).pump t

def execMscl (t set src : Nat) (s : State) : Out :=
  onInst (t < 384) s fun s => (s.issue t true false fun _ sl i =>
    let x := s.tile t
    let spans := [⟨src * 64, 256, false⟩]
    if 4 ≤ x.arrQ.length then .hold
    else if set = 0 then .breach 0x01 i.ip
    else match x.spansBreach sl spans with
      | some (c, a) => .breach c a
      | none =>
        if !x.trackFits spans then .hold
        else .done (s.modTile t fun x =>
          let y := x.register i spans
          { y with arrQ := y.arrQ ++ [⟨i, .mscl set src false⟩] })).pump t

/-- A deferred MSCL loads once the last promotion of the last MMA that uses its set is made (R72). -/
def execScaleSetLoad (t : Nat) (s : State) : Out :=
  onInst (t < 384) s fun s =>
    match (s.tile t).arrQ with
    | ⟨i, .mscl set src true⟩ :: _ =>
      if (s.tile t).arr.setBusy set || !s.live t then s else (s.loadSet t i set src).pump t
    | _ => s

def execMflag (t dst : Nat) (clr : Bool) (s : State) : Out :=
  onInst (t < 384) s fun s => (s.issue t false false fun _ _ i =>
    let x := s.tile t
    if 4 ≤ x.arrQ.length || !x.scaFree dst then .hold
    else .done (s.modTile t fun x => { x with arrQ := x.arrQ ++ [⟨i, .mflag dst clr⟩] })).pump t

/-! Feeders. -/

def feedBase (isB : Bool) (f : MmaF) : Nat := if isB then f.bBase else f.aBase
def feedFmt (isB : Bool) (f : MmaF) : Nat := if isB then f.fmtB else f.fmtA
def feedTurn (isB : Bool) (f : MmaF) : Bool := if isB then f.turnB else f.turnA
def feedBc (isB : Bool) (f : MmaF) : Bool := if isB then f.bcB else f.bcA && !f.splice

/-- The next slice of a feeder: its MMA and its number in it. -/
def Arr.nextFeed (a : Arr) (isB : Bool) (idx : Nat) : Option (MmaRec × Nat) :=
  let p := a.count isB idx
  (a.mmaAt p).map fun m => (m, p - m.start)

/-- What a feeder reads for slice rel: row or column idx of a step panel, with its K4 block scales (R61, R62, R230). -/
def State.readSlice (s : State) (src : Nat) (isB : Bool) (idx : Nat) (f : MmaF) (rel : Nat) : Slice :=
  let base := feedBase isB f * 64
  let el := if feedTurn isB f then
      panelRow (leNat (s.sramRead src (base + 512 * rel) 512)) true (fmtBits (feedFmt isB f)) idx
    else s.sramRead src (base + 512 * rel + 32 * idx) 32
  ⟨el, if feedFmt isB f = 5 then s.sramRead src (base + 512 * f.s + 64 * rel + 4 * idx) 4 else []⟩

/-- The first word with bad parity among those a feeder reads. -/
def State.sliceBad (s : State) (src : Nat) (isB : Bool) (idx : Nat) (f : MmaF) (rel : Nat) : Option Nat :=
  let base := feedBase isB f * 64
  let el := if feedTurn isB f then s.sramBadIn src (base + 512 * rel) 512
    else s.sramBadIn src (base + 512 * rel + 32 * idx) 32
  match el with
  | some a => some a
  | none => if feedFmt isB f = 5 then s.sramBadIn src (base + 512 * f.s + 64 * rel + 4 * idx) 4 else none

/-- Splice panel and byte in it of slice rel, row idx (R97, R99). -/
def splicePlace (f : MmaF) (rel idx : Nat) : Nat × Nat :=
  let o := f.aBase * 64 + 512 * rel + 32 * idx
  (o / 512, o % 512)

/-- A slice enters a tile's link. -/
def State.putSlice (s : State) (t : Nat) (isB : Bool) (idx : Nat) (sl : Slice) : State :=
  s.modTile t fun x =>
    let a := x.arr
    { x with arr :=
      if isB then { a with g := modAt a.g idx (· + 1), linkB := modAt a.linkB idx fun l => l ++ [sl] }
      else { a with f := modAt a.f idx (· + 1), linkA := modAt a.linkA idx fun l => l ++ [sl] } }

/-- The spans of every MMA whose panels are all read are released (R88). -/
def State.freePanels (s : State) (t : Nat) : State :=
  s.modTile t fun x =>
    let got := minList (x.arr.f ++ x.arr.g)
    let read := (x.arr.mmas.filter fun m => m.stop ≤ got).map fun m => m.info.id
    { x with track := x.track.filter fun e => !read.contains e.id }

/-- The tiles of a tile's cluster. -/
def clusterOf (t : Nat) : List Nat := (List.range 4).map fun k => t / 4 * 4 + k

/-- Whether two broadcasts of an operand agree in source tile, base and S (R77). -/
def bcSame (isB : Bool) (f g : MmaF) : Bool :=
  feedBc isB g && g.bcSrc == f.bcSrc && feedBase isB g == feedBase isB f && g.s == f.s

/-- The tiles of a cluster whose feeder takes the same broadcast slice next (R77). The word names no receivers: those of a
broadcast are the tiles whose MMA for it has begun when its first slice goes out (DESIGN CHOICE, log entry 125). -/
def State.bcGroup (s : State) (t : Nat) (isB : Bool) (idx : Nat) (f : MmaF) (rel : Nat) : List Nat :=
  (clusterOf t).filter fun u =>
    match (s.tile u).arr.nextFeed isB idx with
    | some (m, r) => bcSame isB f m.f && r == rel
    | none => false

/-- Whether every tile of the cluster that has begun a matching MMA stands at its first slice, so that the broadcast can
begin with all its receivers (log entry 125). -/
def State.bcReady (s : State) (t : Nat) (isB : Bool) (idx : Nat) (f : MmaF) : Bool :=
  (clusterOf t).all fun u =>
    let a := (s.tile u).arr
    (s.bcGroup t isB idx f 0).contains u || !a.mmas.any fun m => bcSame isB f m.f && a.count isB idx < m.stop

/-- Whether another tile of the cluster is about to begin a broadcast of the operand that disagrees in source, base or
S. The strand whose feeder comes first faults (log entry 125). -/
def State.bcClash (s : State) (t : Nat) (isB : Bool) (idx : Nat) (f : MmaF) : Bool :=
  (clusterOf t).any fun u => u != t &&
    match (s.tile u).arr.nextFeed isB idx with
    | some (m, r) => feedBc isB m.f && r == 0 && !bcSame isB f m.f
    | none => false

/-- The receivers of a slice whose source had bad parity fault (Table 08-3). -/
def State.feedFaults (s : State) (bad : Nat) (us : List Nat) (infos : List Info) : State :=
  (us.zip infos).foldl (fun s x => s.fault x.1 x.2 true 2 2 bad) s

def State.feedFrom (s : State) (t src : Nat) (isB : Bool) (idx : Nat) (m : MmaRec) (rel : Nat) (us : List Nat) : State :=
  let d := s.readSlice src isB idx m.f rel
  let infos := us.map fun u => match (s.tile u).arr.nextFeed isB idx with | some (n, _) => n.info | none => m.info
  let s1 := us.foldl (fun s u => s.putSlice u isB idx d) s
  let s2 := us.foldl (fun s u => s.freePanels u) s1
  match s.sliceBad src isB idx m.f rel with
  | some a => (s2.postParity src a rdFeeder m.info.layer m.info.op).feedFaults a us infos
  | none => if idx = 0 && !isB then
      us.foldl (fun s u => s.charge (dieOfTile t) (s.region (regionOfTile u)).gear m.info.layer m.info.op
        (evSlice + m.f.fmtA * 16 + m.f.fmtB) 1) s2
    else s2

/-- A feeder delivers its next slice, over the spine to every receiver of a broadcast (R73, R77). -/
def State.feed (s : State) (t : Nat) (isB : Bool) (idx : Nat) : State :=
  let a := (s.tile t).arr
  match a.nextFeed isB idx with
  | none => s
  | some (m, rel) =>
    if !a.linkRoom isB idx || !s.live t then s
    else if !isB && m.f.splice then
      let (p, o) := splicePlace m.f rel idx
      if a.blocks.any fun b => b.dest && b.panel == p && b.n < m.blk then s
      else (s.putSlice t isB idx ⟨sub (a.splice.getD p []) o 32, []⟩).freePanels t
    else if feedBc isB m.f then
      let us := s.bcGroup t isB idx m.f rel
      let src := t / 4 * 4 + m.f.bcSrc
      if rel = 0 && s.bcClash t isB idx m.f then s.fault t m.info true 1 0x08 (feedBase isB m.f * 64)
      else if !us.contains src || rel = 0 && !s.bcReady t isB idx m.f ||
        us.any (fun u => !(s.tile u).arr.linkRoom isB idx || !s.live u) then s
      else us.foldl (fun s u => s.pump u) (s.feedFrom t src isB idx m rel us)
    else (s.feedFrom t t isB idx m rel [t]).pump t

/-- upset: a word of the tile SRAM that has lost its parity before the read. -/
def execFeederDeliver (t : Nat) (isB : Bool) (idx : Nat) (upset : Option Nat) (s : State) : Out :=
  onInst (t < 384 && idx < 16) s fun s => (upsetIn s t upset).feed t isB idx

/-! DPUs. -/

def dropTo (base keep : Nat) (l : List Slice) : List Slice := l.drop (keep - base)

/-- Slices that every DPU of a row and of a column has consumed leave the links. -/
def Arr.popLinks (a : Arr) (i j : Nat) : Arr :=
  let keepA := minList (a.cRow i)
  let keepB := minList (a.cCol j)
  { a with
    linkA := modAt a.linkA i fun l => dropTo (a.f.getD i 0 - l.length) keepA l
    linkB := modAt a.linkB j fun l => dropTo (a.g.getD j 0 - l.length) keepB l }

def linkAt (l : List Slice) (count p : Nat) : Slice := l.getD (p - (count - l.length)) ⟨[], []⟩

/-- Whether both links hold the next slice of DPU (i, j). -/
def Arr.fed (a : Arr) (i j : Nat) : Bool :=
  let p := a.c.getD (16 * i + j) 0
  p < a.f.getD i 0 && p < a.g.getD j 0

/-- Whether DPU (i, j) would begin a block while its column still waits to drain the one before the last (R78). -/
def Arr.drainWait (a : Arr) (i j : Nat) (m : MmaRec) : Bool :=
  m.first && a.c.getD (16 * i + j) 0 == m.start && decide (a.drained.getD j 0 + 1 < m.blk)

/-- Whether DPU (i, j) may accumulate its next slice, of MMA m (R74, R78). -/
def Arr.mayStep (a : Arr) (i j : Nat) (m : MmaRec) : Bool := a.fed i j && !a.drainWait i j m

/-- A hold of a DPU is counted by each of its causes (R89). -/
def Arr.countHold (a : Arr) (i j : Nat) (m : MmaRec) : Arr :=
  { a with dpus := modAt a.dpus (16 * i + j) fun d =>
    { d with
      holdFeed := if a.fed i j then d.holdFeed else d.holdFeed + 1
      holdDrain := if a.drainWait i j m then d.holdDrain + 1 else d.holdDrain } }

/-- One DPU step: the array after it, its matrix flags, and whether it read a reserved block scale. A NaN that a block
starts from sets NAN_IN (R36). -/
def Arr.dpuGo (a : Arr) (i j : Nat) (m : MmaRec) (u : Option DpuUpset) : Arr × Nat × Bool :=
  let n := 16 * i + j
  let p := a.c.getD n 0
  let d := a.dpus.getD n Dpu.init
  let begins : Bool := m.first && p = m.start
  let c0 := if m.f.accIn then m.cBlock.getD n 0 else 0
  let d1 := if begins then d.start c0 else d
  let sa := linkAt (a.linkA.getD i []) (a.f.getD i 0) p
  let sb := linkAt (a.linkB.getD j []) (a.g.getD j 0) p
  let (d2, fl, bad) := dpuStep d1 m.f (p - m.start) (if m.f.set = 0 then ScaleSet.ones else a.sets.getD m.f.set ScaleSet.ones) i j sa sb u
  (({ a with dpus := a.dpus.set n d2, c := a.c.set n (p + 1) }).popLinks i j,
    fl ||| (if begins && (val32 c0).isNan then mfNanIn else 0), bad)

def State.dpu (s : State) (t i j : Nat) (u : Option DpuUpset) : State :=
  let a := (s.tile t).arr
  match a.mmaAt (a.c.getD (16 * i + j) 0) with
  | none => s
  | some m =>
    if !s.live t then s
    else if !a.mayStep i j m then s.modTile t fun x => { x with arr := a.countHold i j m }
    else
      let (a1, fl, bad) := a.dpuGo i j m u
      let n := 16 * i + j
      let mf := fl ||| (if bad then mfScaleBad else 0)
      let s1 := (s.modTile t fun x => { x with arr := a1 }).raiseMflags t m.info mf n
      let s2 := if hasAny fl mfResidue then
          (s1.post (s.partOfTile t) 0x000A t m.info.layer m.info.op n).fault t m.info true 2 1 n
        else s1
      (if bad then s2.fault t m.info true 1 0x01 n else s2).pump t

/-- upset: a transient error of an integer stage in this step (R82, R83). -/
def execDpuAccumulate (t i j : Nat) (upset : Option DpuUpset) (s : State) : Out :=
  onInst (t < 384 && i < 16 && j < 16) s fun s => s.dpu t i j upset

/-! Drains and the ends of blocks. -/

/-- The quota of the strand of a block (R201). -/
def Tile.quota (x : Tile) (b : BlockRec) : Nat := match x.holds b.info with | some sl => sl.desc.queueSlots | none => 8

/-- Whether block b may begin to drain a column: it has its entry, or may take one (R78, R79, R98). -/
def Tile.entryOk (x : Tile) (b : BlockRec) : Bool :=
  b.dest || b.alloc ||
    (x.arr.used < 8 && x.arr.usedBy b.info.inst < x.quota b &&
      !x.arr.blocks.any fun o => o.n < b.n && !o.dest && !o.alloc)

/-- The value that DPU (i, j) holds for the block that ends at stop. -/
def Arr.outer (a : Arr) (stop i j : Nat) : Nat :=
  let d := a.dpus.getD (16 * i + j) Dpu.init
  if a.c.getD (16 * i + j) 0 = stop then d.acc else d.drain

def drainCol (vals col : List Nat) (j : Nat) : List Nat :=
  (List.range 256).map fun k => if k % 16 = j then col.getD (k / 16) 0 else vals.getD k 0

def State.drain (s : State) (t j : Nat) : State :=
  let x := s.tile t
  let a := x.arr
  let n := a.drained.getD j 0
  match a.blocks.find? fun b => b.n == n with
  | none => s
  | some b =>
    let stop := a.blkStop n
    if !b.closed || (a.cCol j).any (fun c => c < stop) || !x.entryOk b || !s.live t then s
    else
      let col := (List.range 16).map fun i => a.outer stop i j
      let b1 := { b with alloc := true, vals := drainCol b.vals col j }
      s.modTile t fun x => { x with
        arr := { x.arr with
          drained := x.arr.drained.set j (n + 1)
          blocks := x.arr.blocks.map fun o => if o.n = n then b1 else o } }

def execColumnDrain (t j : Nat) (s : State) : Out := onInst (t < 384 && j < 16) s fun s => (s.drain t j).pump t

def pickBlk : List BlockRec → Option BlockRec
  | [] => none
  | b :: r =>
    match pickBlk r with
    | some c => some (if c.n < b.n then c else b)
    | none => some b

/-- The oldest block of a kind that every column has drained. -/
def Arr.ready (a : Arr) (dest : Bool) : Option BlockRec :=
  pickBlk (a.blocks.filter fun b => b.dest == dest && a.drained.all fun n => b.n < n)

def Arr.dropBlk (a : Arr) (n : Nat) : Arr :=
  { a with blocks := a.blocks.filter fun b => b.n != n, mmas := a.mmas.filter fun m => m.blk != n }

/-- The entry becomes visible and SIG_TOK is signalled. -/
def execQueueHandoff (t : Nat) (s : State) : Out :=
  onInst (t < 384) s fun s =>
    let a := (s.tile t).arr
    match a.ready false with
    | none => s
    | some b =>
      if !s.live t then s
      else
        let s1 := s.modTile t fun x =>
          let y := x.arr.dropBlk b.n
          { x with arr := { y with queue := y.queue ++ [⟨b.n, b.info, b.vals, true, none, false⟩] } }
        (s1.sigToken t b.sig).pump t

/-- Rounds a block to BF16 under RNE with SAT = 1: the panel and the conversion flags (R98). -/
def splicePanel (vals : List Nat) : List Byte × Nat :=
  let l := vals.map fun v => convF bf16 .rne true 0 (val32 v)
  (natLe 512 (packBits 16 (l.map Prod.fst)), orAll (l.map Prod.snd))

def execSplicePanelWrite (t : Nat) (s : State) : Out :=
  onInst (t < 384) s fun s =>
    let a := (s.tile t).arr
    match a.ready true with
    | none => s
    | some b =>
      if !s.live t then s
      else
        let (panel, fl) := splicePanel b.vals
        let s1 := s.modTile t fun x =>
          let y := x.arr.dropBlk b.n
          { x with arr := { y with splice := y.splice.set b.panel panel } }
        ((s1.raiseFlags t b.info fl).sigToken t b.sig).pump t

end Sys2Proof.Machine
end

