-- ==== Sys2Proof/Machine/PorterOps.lean ====
section
/-! DEFINITION. The porter instructions (R233 to R242, R262, R268) and the Reef hand-off instructions (R323, R324): issue
into the porter's queue. -/
namespace Sys2Proof.Machine

/-- A new operation. -/
def PorOp.new (i : Info) (kind : PKind) (f : PorF) (addr elemOfs : Nat) : PorOp where
  info := i
  kind := kind
  f := f
  addr := addr
  elemOfs := elemOfs
  index := []
  begun := false
  node := none
  next := 0
  total := f.len
  flying := []
  sentAt := []
  resps := []
  got := []
  ends := []
  retry := []
  dead := false

/-- Encodings that no loaded image holds (Table 08-4, R236, R238, R242, Table 09-1). -/
def porBad (kind : PKind) (f : PorF) : Bool :=
  f.len == 0 || 6 ≤ f.scope || 2 ≤ f.via ||
    match kind with
    | .prd | .pwr => 2 ≤ f.sub % 4 || f.sub % 4 == 1 && f.len * 64 % (32 * ewBits (f.sub / 4)) != 0
    | .pgath | .pscat => !f.xre || f.scope != 0
    | .pamo => f.sub == 15
    | .pland => false
    | .reefPut _ _ | .reefClose _ => false

/-- Whether an operation is an acquire (R268). -/
def porAcquires (kind : PKind) (f : PorF) : Bool := f.scope != 0 && (kind == .prd || kind == .pamo)

/-- The effective address: ADDR, plus XR (R233). A gather or scatter takes the base of its index list from XR. -/
def porAddr (kind : PKind) (f : PorF) (xr : Nat) : Nat :=
  match kind with
  | .pgath | .pscat => f.addr
  | _ => (f.addr + if f.xre then xr else 0) % 2 ^ 64
def porIdx (kind : PKind) (xr : Nat) : Nat := match kind with | .pgath | .pscat => xr * 64 % 2 ^ 64 | _ => 0

/-- Issues a porter operation: its spans are checked and registered, and it waits for the porter in issue order. -/
def State.porIssue (s : State) (t : Nat) (kind : PKind) (f : PorF) : State :=
  (s.issue t false true fun k sl i =>
    let x := s.tile t
    let xr := (x.reg f.xr).toNat
    let spans := porSpans kind f (porIdx kind xr)
    if 4 ≤ x.porQ.length then .hold
    else if porBad kind f then .breach 0x01 i.ip
    else if f.xre && x.scaWritten i.id f.xr then .hold
    else match x.spansBreach sl spans with
      | some (c, a) => .breach c a
      | none =>
        if !x.trackFits spans then .hold
        else .done (s.modTile t fun x =>
          let y := x.register i spans
          let z := { y with porQ := y.porQ ++ [PorOp.new i kind f (porAddr kind f xr) (porIdx kind xr)] }
          if porAcquires kind f then z.modSlot k fun sl => { sl with acqOps := sl.acqOps ++ [i.id] } else z)).pump t

def execPrd (t : Nat) (f : PorF) (s : State) : Out := onInst (t < 384) s fun s => s.porIssue t .prd f
def execPwr (t : Nat) (f : PorF) (s : State) : Out := onInst (t < 384) s fun s => s.porIssue t .pwr f
def execPland (t : Nat) (f : PorF) (s : State) : Out := onInst (t < 384) s fun s => s.porIssue t .pland f
def execPgath (t : Nat) (f : PorF) (s : State) : Out := onInst (t < 384) s fun s => s.porIssue t .pgath f
def execPscat (t : Nat) (f : PorF) (s : State) : Out := onInst (t < 384) s fun s => s.porIssue t .pscat f
def execPamo (t : Nat) (f : PorF) (s : State) : Out := onInst (t < 384) s fun s => s.porIssue t .pamo f

/-- The fields that REEF_PUT and REEF_CLOSE share with a porter operation. -/
def reefF (lbase len sigTok : Nat) (sig : Bool) : PorF where
  lbase := lbase
  len := len
  sigTok := sigTok
  sig := sig
  xr := 0
  xre := false
  scope := 0
  via := 0
  sub := 0
  noalloc := false
  ret := false
  tcnt := 0
  addr := 0

def State.reefIssue (s : State) (t : Nat) (kind : PKind) (f : PorF) (hold : Bool) (elem : Nat) : State :=
  (s.issue t false true fun _ sl i =>
    let x := s.tile t
    let spans := porSpans kind f 0
    if 4 ≤ x.porQ.length || hold then .hold
    else match x.spansBreach sl spans with
      | some (c, a) => .breach c a
      | none =>
        if !x.trackFits spans then .hold
        else .done (s.modTile t fun x =>
          let y := x.register i spans
          { y with porQ := y.porQ ++ [PorOp.new i kind f 0 elem] })).pump t

/-- REEF_PUT takes its first element index, ELEM_OFS plus XR, at issue. -/
def execReefPut (t : Nat) (f : ReefPutF) (s : State) : Out :=
  onInst (t < 384) s fun s =>
    let x := s.tile t
    let xr := if f.xre then (x.reg f.xr).toNat else 0
    s.reefIssue t (.reefPut f.bucket f.group) (reefF f.lbase f.len f.sigTok f.sig) (f.xre && x.scaWritten x.nextId f.xr)
      (f.elemOfs + xr)

def execReefClose (t group sigTok : Nat) (sig : Bool) (s : State) : Out :=
  onInst (t < 384) s fun s => s.reefIssue t (.reefClose group) (reefF 0 0 sigTok sig) false 0

/-- A line request at a tile SRAM leaves the queue between two regions, and one that waited for it may follow (R165). -/
def execTileSramLineRequest (t : Nat) (upset : Option Nat) (s : State) : Out :=
  onInst (t < 384) s fun s =>
    let r := match s.nextTileReq t with | some q => q.who.region | none => none
    let full := match r with | some r => s.reqsFull (12 * r) t | none => false
    (s.tileReq t upset).pumpRegion (r.getD 0) full

end Sys2Proof.Machine
end

