-- ==== Sys2Proof/Machine/Sequencer.lean ====
section
/-! DEFINITION. The sequencer (07): its instructions (R202 to R205, R272), launch (R188 to R190), completion (R183),
re-execution (R219), the watchdog (R191) and the arrival of signals (R193). -/
namespace Sys2Proof.Machine

def State.setReg (s : State) (t r : Nat) (v : W64) : State := s.modTile t fun x => { x with regs := x.regs.set r v }

/-- A sequencer instruction that writes XD. -/
def State.issueReg (s : State) (t xd : Nat) (f : Slot → Option W64) : State :=
  s.issue t false false fun _ sl i =>
    if !(s.tile t).scaFree xd then .hold
    else match f sl with
      | some v => .done (s.setReg t xd v)
      | none => .breach 0x01 i.ip

def execNop (t : Nat) (s : State) : Out :=
  onInst (t < 384) s fun s => (s.issue t false false fun _ _ _ => .done s).pump t

/-- The strand of a slot retires; with its first END the next descriptor is considered from beat b on (R179, R188). -/
def Tile.endStrand (x : Tile) (k b : Nat) (again : Bool) : Tile :=
  let y := x.modSlot k fun sl => { sl with phase := .retiring, ended := true }
  if again then y else { y with considered := some b, barked := false }

/-- END. -/
def execEndStrand (t : Nat) (s : State) : Out :=
  onInst (t < 384) s fun s => (s.issue t false false fun k sl _ =>
    .done (s.modTile t fun x => x.endStrand k (s.localBeat t) sl.ended)).pump t

/-- WAIT. -/
def execWait (t tok n : Nat) (s : State) : Out :=
  onInst (t < 384) s fun s => (s.issue t false false fun _ _ _ =>
    let v := (s.tile t).tokens.getD tok 0
    if v < n then .hold else .done (s.modTile t fun x => { x with tokens := x.tokens.set tok (v - n) })).pump t

/-- SIGNAL goes to the signal unit (R203); a reserved TILE, or a tile of another partition, is a breach. -/
def execSignal (t tok : Nat) (after : Bool) (tile cnt : Nat) (s : State) : Out :=
  onInst (t < 384) s fun s => (s.issue t false false fun _ _ i =>
    let u := if tile = 0xFFFF then t else tile
    if (s.tile t).sigQ.length ≥ 4 then .hold
    else if 384 ≤ u then .breach 0x01 tile
    else if s.partOfTile u ≠ s.partOfTile t then .breach 0x26 tile
    else .done (s.modTile t fun x => { x with sigQ := x.sigQ ++ [⟨i, tok, after, u, cnt⟩] })).pump t

/-- The k-th signal on its way reaches its counter; between two regions signals keep their order (R165). -/
def execSignalArrival (k : Nat) (s : State) : Out :=
  .next (match s.fly[k]? with
    | some f =>
      let pair := fun g : Fly => regionOfTile g.src == regionOfTile f.src && regionOfTile g.tile == regionOfTile f.tile
      if regionOfTile f.src ≠ regionOfTile f.tile && (s.fly.take k).any pair then s
      else
        ((({ s with fly := s.fly.eraseIdx k }).addToken f.tile f.tok f.cnt).pump f.tile).pumpRegion (regionOfTile f.src)
          (s.fliesFull f.src f.tile)
    | none => s)

/-- The trip stack of a slot at a LOOP (R204): the new stack, and whether the body runs again. -/
def loopStep (ip trips : Nat) : List (Nat × Nat) → List (Nat × Nat) × Bool
  | (a, left) :: r =>
    if a = ip then (if left = 0 then (r, false) else ((a, left - 1) :: r, true))
    else if trips ≤ 1 then ((a, left) :: r, false) else ((ip, trips - 2) :: (a, left) :: r, true)
  | [] => if trips ≤ 1 then ([], false) else ([(ip, trips - 2)], true)

def execLoop (t trips back : Nat) (s : State) : Out :=
  onInst (t < 384) s fun s => (s.issue t false false fun k sl _ =>
    let (st, again) := loopStep sl.ip trips sl.loops
    let s1 := s.modTile t fun x => x.modSlot k fun z => { z with loops := st }
    if again then .jump (sl.ip - back) s1 else .done s1).pump t

def execSli (t xd : Nat) (imm : W64) (s : State) : Out :=
  onInst (t < 384) s fun s => (s.issueReg t xd fun _ => some imm).pump t

def execSadd (t xd xa : Nat) (imm : BitVec 32) (s : State) : Out :=
  onInst (t < 384) s fun s =>
    (if (s.tile t).scaWritten (s.tile t).nextId xa then s
    else s.issueReg t xd fun _ => some ((s.tile t).reg xa + imm.signExtend 64)).pump t

def execFence (t mask : Nat) (s : State) : Out :=
  onInst (t < 384) s fun s => (s.issue t false false fun _ sl i =>
    let x := s.tile t
    let st := sl.inst
    if bit mask 0 && x.openArr st i.id || bit mask 1 && x.openVxe st i.id || bit mask 2 && x.openPor st i.id ||
      bit mask 3 && x.openSig st i.id then .hold
    else .done s).pump t

/-- The status values of Table 07-6. -/
def sstatVal (s : State) (t sel : Nat) (sl : Slot) : Option W64 :=
  let x := s.tile t
  let r := s.region (regionOfTile t)
  match sel with
  | 0 => some (BitVec.ofNat 64 sl.late)
  | 1 => some (BitVec.ofNat 64 (r.beat % 2 ^ 48))
  | 2 => some (BitVec.ofNat 64 t)
  | 3 => some (BitVec.ofNat 64 sl.desc.strandId)
  | 4 => some (BitVec.ofNat 64 x.lateCount)
  | 5 => some (BitVec.ofNat 64 x.lateMax)
  | 6 => some (BitVec.ofNat 64 (r.steps - sl.launchAt))
  | 7 => some (BitVec.ofNat 64 r.gear)
  | _ => none

def execSstat (t xd sel : Nat) (s : State) : Out :=
  onInst (t < 384) s fun s => (s.issueReg t xd fun sl => sstatVal s t sel sl).pump t

/-- The porter reads of a strand that OACQ waits for. -/
def Tile.acqSet (x : Tile) (inst : Nat) : List Nat :=
  ((x.ops ++ x.porQ).filter fun o => o.info.inst == inst && !o.dead &&
    match o.kind with
    | .prd | .pgath => true
    | .pamo => o.f.ret
    | .pwr | .pland | .pscat | .reefPut _ _ | .reefClose _ => false).map fun o => o.info.id

def State.order (s : State) (t scope : Nat) (rel acq : Bool) : State :=
  (s.issue t false false fun k sl i =>
    if 6 ≤ scope then .breach 0x01 i.ip
    else
      let r := if rel then [(scope, i.id)] else []
      let a := if acq then (s.tile t).acqSet sl.inst else []
      .done (s.modTile t fun x => x.modSlot k fun z => { z with rels := z.rels ++ r, acqOps := z.acqOps ++ a })).pump t

def execOrel (t scope : Nat) (s : State) : Out := onInst (t < 384) s fun s => s.order t scope true false
def execOacq (t scope : Nat) (s : State) : Out := onInst (t < 384) s fun s => s.order t scope false true
def execOfull (t scope : Nat) (s : State) : Out := onInst (t < 384) s fun s => s.order t scope true true

/-! Launch. -/

/-- Whether beat b is now or past at a local beat (R159). -/
def beatReached (local_ b : Nat) : Bool :=
  let ahead := (b + 2 ^ 48 - local_ % 2 ^ 48) % 2 ^ 48
  !(1 ≤ ahead && ahead < 2 ^ 47)

def Desc.timed (d : Desc) : Bool := d.lmode == 1 || d.lmode == 3
def Desc.tokened (d : Desc) : Bool := d.lmode == 2 || d.lmode == 3
def Tile.launchBeat (x : Tile) (d : Desc) : Nat := (x.beatBase + d.launchBeat) % 2 ^ 48

/-- The descriptor the sequencer considers next (R188, R189). -/
def Tile.nextDesc (x : Tile) : Option Desc := if x.launched then x.table[x.descIdx]? else none

/-- Where a progress limit runs from (R191). -/
def Tile.limitStart (x : Tile) (d : Desc) : Nat :=
  let from_ := x.considered.getD 0
  if d.timed && !beatReached from_ (x.launchBeat d) then x.launchBeat d else from_

def freeSlot (l : List (Option Slot)) : Option Nat :=
  let k := l.findIdx Option.isNone
  if k < l.length then some k else none

/-- The range list at RANGE_PTR (R507, Table 07-4). -/
def readRanges (s : State) (t : Nat) (d : Desc) : List RangeEnt :=
  (List.range d.rangeCnt).map fun k =>
    let w := leNat (s.sramRead t (d.rangePtr * 64 + 8 * k) 8)
    ⟨bits w 0 15, bits w 16 16, bit w 32, bit w 33⟩

def Tile.mayLaunch (x : Tile) (d : Desc) (beat : Nat) : Bool :=
  !x.stopped && x.issuing.isNone && (freeSlot x.slots).isSome &&
    !x.slots.any (fun o => match o with | some sl => sl.phase == .reissue | none => false) &&
    (!d.timed || beatReached beat (x.launchBeat d)) &&
    (!d.tokened || (List.range 16).all fun k => !bit d.waitMask k || 1 ≤ x.tokens.getD k 0)

/-- The tile after the launch of its next descriptor. late: the lateness in units of 1/65,536 beat; isLate: whether there
is any (R190). The splice buffer keeps its panels (DESIGN CHOICE, log entry 127). -/
def Tile.launch (x : Tile) (d : Desc) (k late : Nat) (isLate : Bool) (steps : Nat) (ranges : List RangeEnt) : Tile :=
  let last := x.descIdx + 1 == x.table.length
  let wrap := last && x.period != 0
  { x with
    slots := x.slots.set k (some {
      desc := d, inst := x.launches + 1, ended := false, phase := .issuing, ip := d.ip, late := late, launchAt := steps, tries := 0, limitFrom := x.limitStart d,
      loops := [], flags := 0, ranges := ranges, acqOps := [], rels := [], badNodes := [], barked := x.barked })
    tokens := (List.range 16).map fun n => x.tokens.getD n 0 - natOfBool (d.tokened && bit d.waitMask n)
    descIdx := if wrap then 0 else x.descIdx + 1
    beatBase := if wrap then (x.beatBase + x.period) % 2 ^ 48 else x.beatBase
    launches := x.launches + 1
    considered := none
    lateCount := if isLate then x.lateCount + 1 else x.lateCount
    lateMax := max x.lateMax late
    barked := false
    arr := { x.arr with spliceW := 0, mflags := if d.clrMflag then 0 else x.arr.mflags } }

/-- The IDs of a descriptor whose strand has not launched. -/
def State.unlaunched (s : State) (t : Nat) (d : Desc) : Info :=
  ⟨0, 4, 0, d.strandId, d.layer, d.op, d.seqTag, (s.tile t).vxe.step, 0, 0⟩

/-- R188, R190; a launch on a tile of a fenced region ends as RESOURCE_LOST (R373). -/
def execStrandLaunch (t : Nat) (s : State) : Out :=
  onInst (t < 384) s fun s =>
    let x := s.tile t
    let r := s.region (regionOfTile t)
    match x.nextDesc with
    | none => s
    | some d =>
      match freeSlot x.slots with
      | none => s
      | some k =>
        if r.fenced && x.mayLaunch d r.beat && !s.tileFrozen t then
          s.fault t (s.unlaunched t d) false 3 1 0
        else if !s.live t || s.held .tile t || !x.mayLaunch d r.beat then s
        else
          let beats := (r.beat + 2 ^ 48 - x.launchBeat d) % 2 ^ 48
          let isLate : Bool := d.timed && (beats != 0 || r.frac != 0)
          let late := if d.timed then beats * 65536 + r.frac / 65536 else 0
          let s1 := s.modTile t fun x => x.launch d k late isLate r.steps (readRanges s t d)
          if isLate then s1.emit (dieOfTile t) srcStrandLate late d.layer d.op d.strandId d.seqTag (t % 96) else s1

/-- Whether the strand of a slot has completed (R183). -/
def Tile.complete_ (x : Tile) (sl : Slot) : Bool := sl.phase == .retiring && x.workDone sl.inst

/-- R219: the faulted strand is issued again from IP in its slot. The splice write index becomes 0, as at a launch (DESIGN
CHOICE, log entry 126). -/
def execReexecution (t slot : Nat) (s : State) : Out :=
  onInst (t < 384 && slot < 4) s fun s =>
    let x := s.tile t
    match x.slots.getD slot none with
    | none => s
    | some sl =>
      if !s.live t || sl.phase ≠ .reissue || x.issuing.isSome then s
      else s.modTile t fun x =>
        let y := x.modSlot slot fun z =>
          { z with phase := .issuing, ip := z.desc.ip, tries := z.tries + 1, flags := 0, loops := [], acqOps := [], rels := [], badNodes := [] }
        { y with arr := { y.arr with spliceW := 0 } }

def Tile.limit (x : Tile) (d : Desc) : Nat := if d.wdog ≠ 0 then d.wdog else if x.wdogDef ≠ 0 then x.wdogDef else 2 ^ 26
/-- Whether the beat in which a limit expires is over: a strand may still complete in that beat (R191, R224). -/
def limitPassed (now from_ limit : Nat) : Bool :=
  let gone := (now + 2 ^ 48 - from_ % 2 ^ 48) % 2 ^ 48
  limit < gone && gone < 2 ^ 47

/-- R191: the watchdog of an occupied slot, or of the descriptor that waits to launch. A completion in the beat of the
expiry wins. -/
def execStrandWatchdog (t slot : Nat) (s : State) : Out :=
  onInst (t < 384) s fun s =>
    let x := s.tile t
    let beat := s.localBeat t
    if (s.partOfTile t).any s.timersStopped then s
    else match x.slots.getD slot none with
      | some sl =>
        if sl.barked || x.complete_ sl || !limitPassed beat sl.limitFrom (x.limit sl.desc) then s
        else
          let i : Info := { x.mkInfo slot sl with ip := sl.ip }
          (s.modTile t fun x => x.modSlot slot fun z => { z with barked := true }).fault t i true 5 2 0
      | none =>
        match x.nextDesc with
        | none => s
        | some d =>
          if x.considered.isNone || x.barked || !limitPassed beat (x.limitStart d) (x.limit d) then s
          else
            (s.modTile t fun x => { x with barked := true }).fault t (s.unlaunched t d) false 5 1 0

end Sys2Proof.Machine
end

