-- ==== Sys2Proof/Machine/VectorOps.lean ====
section
/-! DEFINITION. The vector instructions: issue into the engine's queue (R116 to R146), the writing of results (R118),
and the freeing of queue entries (R146). -/
namespace Sys2Proof.Machine

/-- Whether FMT2 names an MX element (Table 05-1): 3 E4M3, 4 E5M2, 6 INT8. The codes of Table 02-4 hold no E3M2, E2M3 and
E2M1: those go with FMT2 = 3, told apart by the command (DESIGN CHOICE, log entry 26). -/
def mxCode (el : MxElem) (fmt2 : Nat) : Bool :=
  match el with
  | .e5m2 => fmt2 == 4
  | .int8 => fmt2 == 6
  | .e4m3 | .e3m2 | .e2m3 | .e2m1 => fmt2 == 3

/-- The element of a loaded image's word. -/
def mxElemOf (fmt2 : Nat) : MxElem := if fmt2 = 4 then .e5m2 else if fmt2 = 6 then .int8 else .e4m3

/-- The formats and sub-operations that Table 05-3 lists for an instruction, with the AMXE rule of R131. An MX element
goes to the targets of Table 02-11 alone (R57). -/
def vFmtOk (kind : VKind) (f : VecF) : Bool :=
  match kind with
  | .vld | .vst => f.fmt ≤ 8 && f.fmt2 == 0
  | .valu => f.fmt ≤ 2 && f.fmt2 == 0 && f.sub < 15
  | .vfn => f.fmt ≤ 2 && f.fmt2 == 0 && f.sub < 8
  | .vred => f.fmt ≤ 2 && f.fmt2 == 0 && f.sub < 4
  | .vperm => f.fmt ≤ 2 && f.fmt2 == 0
  | .vshuf => f.fmt ≤ 2 && f.fmt2 == 0 && f.sub < 8 && (f.sub != 7 || f.fmt == 0)
  | .vpack => f.fmt2 ≤ 2 && [1, 2, 3, 4, 6, 7].contains f.fmt && f.rm < 3
  | .vunpk => f.fmt2 ≤ 7 && f.fmt == 0
  | .vqk4 => f.fmt2 == 0 && f.fmt == 5 && f.rm < 3
  | .vmxiImport el => mxCode el f.fmt2 && ([3, 5].contains f.fmt || f.fmt == 4 && el == .e5m2)
  | .vpop => f.fmt == 0 && f.fmt2 == 0 && f.sub < 2
  | .vrng => f.fmt == 0 && f.fmt2 == 0 && f.sub < 4
  | .vmask => f.fmt == 0 && f.fmt2 == 0 && f.sub < 8 && (!bit f.sub 2 || f.imm != 0)
  | .vsmx | .vlossAdd | .vlossDump | .vtree | .vscmp => f.fmt == 0 && f.fmt2 == 0
  | .vamax => f.fmt == 0 && f.fmt2 == 0 && f.sub < 2
  | .vflag => f.fmt == 0 && f.fmt2 == 0 && f.sub < 4
  | .vmxiScan | .vset | .vsetSeqtab => f.fmt == 0 && f.fmt2 == 0

def vAmxOk (kind : VKind) (f : VecF) : Bool :=
  !f.amxe || match kind with
    | .vpack | .vqk4 | .vmxiImport _ => true
    | .vamax | .vflag | .vset | .vsetSeqtab | .vscmp | .vmxiScan => false
    | _ => f.fmt < 5

/-- Whole blocks start at a register whose number is a multiple of 4 (R117). VPOP SUB 1 writes no registers, and its VD is
free (DESIGN CHOICE, log entry 131). -/
def vBlockOk (x : VItem) : Bool :=
  match x.kind with
  | .vpop => x.f.sub != 0 || x.f.vd % 4 == 0
  | .vshuf => x.f.sub != 7 || (x.f.vd % 4 == 0 && x.f.va % 4 == 0)
  | .vmask | .vtree => x.f.vd % 4 == 0
  | _ => true

/-- Whether a loaded image can hold the instruction. -/
def vWellFormed (x : VItem) : Bool :=
  vFmtOk x.kind x.f && vAmxOk x.kind x.f && vBlockOk x && (vReads x ++ vWrites x).all (fun r => r < 32)

/-- VLD and VST form their address from XA at issue; other instructions name BASE alone (R120). -/
def vByXa (kind : VKind) : Bool := match kind with | .vld | .vst => true | _ => false
def vAddr (kind : VKind) (f : VecF) (xa : W64) : Nat :=
  if vByXa kind then (f.base * 64 + xa.toNat) % 2 ^ 64 else f.base * 64

/-- Issues a vector instruction; atIssue is what it changes at its issue (R135). -/
def State.vIssue (s : State) (t : Nat) (kind : VKind) (f : VecF) (atIssue : Tile → Tile) : State :=
  (s.issue t ((vSpans kind f 0).any fun sp => !sp.wr) false fun _ sl i =>
    let x := s.tile t
    let q : VItem := ⟨i, kind, f, vAddr kind f (x.reg f.xa)⟩
    let spans := vSpans kind f q.addr
    if 4 ≤ x.vxeQ.length then .hold
    else if !vWellFormed q then .breach 0x01 i.ip
    else if (vByXa kind || kind == .vset) && x.scaWritten i.id f.xa then .hold
    else match x.spansBreach sl spans with
      | some (c, a) => .breach c a
      | none =>
        if !x.trackFits spans then .hold
        else .done (s.modTile t fun x =>
          let y := atIssue (x.register i spans)
          { y with vxeQ := y.vxeQ ++ [q] })).pump t

def execVld (t : Nat) (f : VecF) (upset : Option Nat) (s : State) : Out :=
  onInst (t < 384) s fun s => (upsetIn s t upset).vIssue t .vld f id
def execVst (t : Nat) (f : VecF) (s : State) : Out := onInst (t < 384) s fun s => s.vIssue t .vst f id
def execVpop (t : Nat) (f : VecF) (s : State) : Out := onInst (t < 384) s fun s => s.vIssue t .vpop f id
def execValu (t : Nat) (f : VecF) (s : State) : Out := onInst (t < 384) s fun s => s.vIssue t .valu f id
def execVfnOp (t : Nat) (f : VecF) (s : State) : Out := onInst (t < 384) s fun s => s.vIssue t .vfn f id
def execVred (t : Nat) (f : VecF) (s : State) : Out := onInst (t < 384) s fun s => s.vIssue t .vred f id
def execVsmx (t : Nat) (f : VecF) (s : State) : Out := onInst (t < 384) s fun s => s.vIssue t .vsmx f id
def execVperm (t : Nat) (f : VecF) (s : State) : Out := onInst (t < 384) s fun s => s.vIssue t .vperm f id
def execVshuf (t : Nat) (f : VecF) (s : State) : Out := onInst (t < 384) s fun s => s.vIssue t .vshuf f id
def execVpack (t : Nat) (f : VecF) (s : State) : Out := onInst (t < 384) s fun s => s.vIssue t .vpack f id
def execVunpk (t : Nat) (f : VecF) (s : State) : Out := onInst (t < 384) s fun s => s.vIssue t .vunpk f id
def execVqk4 (t : Nat) (f : VecF) (s : State) : Out := onInst (t < 384) s fun s => s.vIssue t .vqk4 f id
def execVmxiImport (t : Nat) (f : VecF) (el : MxElem) (s : State) : Out :=
  onInst (t < 384) s fun s => s.vIssue t (.vmxiImport el) f id
def execVmxiScan (t : Nat) (f : VecF) (s : State) : Out := onInst (t < 384) s fun s => s.vIssue t .vmxiScan f id
def execVrng (t : Nat) (f : VecF) (s : State) : Out := onInst (t < 384) s fun s => s.vIssue t .vrng f id
def execVmask (t : Nat) (f : VecF) (s : State) : Out := onInst (t < 384) s fun s => s.vIssue t .vmask f id
def execVlossAdd (t : Nat) (f : VecF) (s : State) : Out := onInst (t < 384) s fun s => s.vIssue t .vlossAdd f id
def execVlossDump (t : Nat) (f : VecF) (s : State) : Out := onInst (t < 384) s fun s => s.vIssue t .vlossDump f id
def execVtree (t : Nat) (f : VecF) (s : State) : Out := onInst (t < 384) s fun s => s.vIssue t .vtree f id
def execVscmp (t : Nat) (f : VecF) (s : State) : Out := onInst (t < 384) s fun s => s.vIssue t .vscmp f id
def execVamax (t : Nat) (f : VecF) (s : State) : Out := onInst (t < 384) s fun s => s.vIssue t .vamax f id
def execVflag (t : Nat) (f : VecF) (s : State) : Out := onInst (t < 384) s fun s => s.vIssue t .vflag f id

/-- STEP takes XA[31:0] at issue. -/
def Tile.setStep (f : VecF) (x : Tile) : Tile := { x with vxe := { x.vxe with step := (x.reg f.xa).toNat % 2 ^ 32 } }
/-- VETO_MASK takes XA at issue; the forced bits stay 1 and the reserved bits 0. -/
def Tile.setVetoMask (f : VecF) (x : Tile) : Tile :=
  { x with vxe := { x.vxe with veto := (x.reg f.xa).toNat &&& 0x7F007F ||| vetoForced } }

def execVsetStep (t : Nat) (f : VecF) (s : State) : Out := onInst (t < 384) s fun s => s.vIssue t .vset f (Tile.setStep f)
def execVsetVetoMask (t : Nat) (f : VecF) (s : State) : Out :=
  onInst (t < 384) s fun s => s.vIssue t .vset f (Tile.setVetoMask f)
def execVsetSeqtab (t : Nat) (f : VecF) (s : State) : Out := onInst (t < 384) s fun s => s.vIssue t .vsetSeqtab f id

/-! Results. -/

/-- The registers, scalars, amax slot and loss slots that a result writes; a VPOP's entry has been read (R146). -/
def Tile.vWrite (x : Tile) (r : VRes) : Tile :=
  { x with
    regs := r.scal.foldl (fun l e => l.set e.1 e.2) x.regs
    arr := { x.arr with queue := x.arr.queue.map (QEntry.finish [r.info.id]) }
    vxe := { x.vxe with
      regs := r.regs.foldl (fun l e => l.set e.1 e.2) x.vxe.regs
      amax := match r.amax with
        | some (k, v) => modAt x.vxe.amax k fun o => max o v
        | none => x.vxe.amax
      loss := r.loss.foldl (fun l e => l.set e.1 (e.2.1, e.2.2)) x.vxe.loss } }

def State.vApply (s : State) (t : Nat) (r : VRes) : State :=
  let s1 := s.modTile t fun x => (x.vWrite r).release r.info.id
  let s2 := r.sram.foldl (fun s e => s.sramWrite t e.1 e.2) s1
  let s3 := s2.raiseFlags t r.info r.flags
  let s4 := match r.strata with
    | some (m, imm, us) => s3.shadowFeed (dieOfTile t) m r.info.layer r.info.op imm us
    | none => s3
  s4.sigToken t r.sig

/-- The k-th instruction in flight writes its result. -/
def execVxeResultWrite (t k : Nat) (s : State) : Out :=
  onInst (t < 384) s fun s =>
    match (s.tile t).vxe.inflight[k]? with
    | none => s
    | some r =>
      if !s.live t then s
      else
        let s1 := s.modTile t fun x => { x with vxe := { x.vxe with inflight := x.vxe.inflight.eraseIdx k } }
        (s1.vApply t r).pump t

/-- The first entry whose VPOP has completed is free (R146). -/
def dropTaken : List QEntry → List QEntry
  | [] => []
  | e :: r => if e.done then r else e :: dropTaken r

def execQueueEntryFree (t : Nat) (s : State) : Out :=
  onInst (t < 384) s fun s =>
    if !s.live t then s
    else (s.modTile t fun x => { x with arr := { x.arr with queue := dropTaken x.arr.queue } }).pump t

end Sys2Proof.Machine
end

