-- ==== Sys2Proof/Machine/Image.lean ====
section
/-! DEFINITION. The words of a program image as the loader reads them: instruction words (Tables 03-8 to 03-11, 05-1 to
05-3, 07-5, 08-4, 09-2, 11-3), strand descriptors (Table 07-1), and the header and sections (R220, R221). -/
namespace Sys2Proof.Machine

/-- An instruction of an image, without the tile. -/
inductive LOp where
  | nop
  | endStrand
  | wait (tok n : Nat)
  | signal (tok : Nat) (after : Bool) (tile cnt : Nat)
  | loop (trips back : Nat)
  | scalar (xd : Nat)
  | fence (mask : Nat)
  | order (scope : Nat)
  | mma (f : MmaF)
  | mscl (set src : Nat)
  | mflag (dst : Nat)
  | vec (kind : VKind) (f : VecF)
  | por (kind : PKind) (f : PorF)
  | reefPut (f : ReefPutF)
  | reefClose (group sigTok : Nat) (sig : Bool)
  deriving DecidableEq, Repr

/-- Whether the bit fields (first bit, width) of a number are all zero. -/
def zeros (w : Nat) (l : List (Nat × Nat)) : Bool := l.all fun x => bits w x.1 x.2 == 0

def guard (ok : Bool) (x : LOp) : Option LOp := if ok then some x else none

/-- The sequencer and ordering instructions (Tables 07-5, 09-2); word 1 holds bits 64 on. -/
def decodeSeq (op w : Nat) : Option LOp :=
  let w1 := bits w 64 64
  let a := bits w 8 4
  let b := bits w 12 4
  if op = 0x00 then guard (zeros w [(8, 120)]) .nop
  else if op = 0x01 then guard (zeros w [(8, 120)]) .endStrand
  else if op = 0x02 then guard (zeros w [(12, 52), (80, 48)]) (.wait a w1)
  else if op = 0x03 then
    let tile := bits w1 0 16
    guard (zeros w [(13, 51), (88, 40)] && (tile < 384 || tile == 65535))
      (.signal a (bit w 12) tile (bits w1 16 8))
  else if op = 0x04 then
    guard (zeros w [(8, 56), (112, 16)]) (.loop (bits w1 0 32) (bits w1 32 16))
  else if op = 0x05 then guard (zeros w [(12, 52)]) (.scalar a)
  else if op = 0x06 then guard (zeros w [(16, 48), (96, 32)]) (.scalar a)
  else if op = 0x07 then guard (zeros w [(8, 4), (16, 112)]) (.fence b)
  else if op = 0x08 then guard (zeros w [(16, 112)] && b < 8) (.scalar a)
  else if 0x10 ≤ op && op ≤ 0x12 then guard (zeros w [(11, 117)] && bits w 8 3 < 6) (.order (bits w 8 3))
  else none

/-- MMA (Tables 03-9, 03-10). -/
def mmaOf (w : Nat) : MmaF where
  fmtA := bits w 8 4
  fmtB := bits w 12 4
  turnA := bit w 16
  turnB := bit w 17
  accIn := bit w 18
  cont := bit w 19
  lm1 := bits w 20 3
  ldef := bit w 23
  bcA := bit w 24
  bcB := bit w 25
  bcSrc := bits w 26 2
  splice := bit w 28
  ref := bit w 29
  dest := bit w 30
  s := bits w 32 12
  set := bits w 44 4
  sigTok := bits w 48 4
  sig := bit w 52
  aBase := bits w 64 15
  bBase := bits w 80 15
  cBase := bits w 96 15

def decodeMat (op w : Nat) : Option LOp :=
  if op = 0x40 then
    let f := mmaOf w
    guard (zeros w [(31, 1), (53, 11), (79, 1), (95, 1), (111, 17)] && f.s != 0 && f.fmtA < 9 && f.fmtB < 9) (.mma f)
  else if op = 0x43 then guard (zeros w [(12, 52), (79, 49)] && bits w 8 4 != 0) (.mscl (bits w 8 4) (bits w 64 15))
  else if op = 0x44 then guard (zeros w [(13, 115)]) (.mflag (bits w 8 4))
  else none

/-- Vector fields (Tables 05-1, 05-2). -/
def vecOf (w : Nat) : VecF where
  vd := bits w 8 5
  va := bits w 13 5
  vb := bits w 18 5
  vc := bits w 23 5
  fmt := bits w 28 4
  fmt2 := bits w 32 4
  rm := bits w 36 2
  sat := bit w 38
  amx := bits w 39 4
  amxe := bit w 43
  sub := bits w 44 4
  sigTok := bits w 48 4
  sig := bit w 52
  grp := bit w 53
  imm := bits w 64 32
  base := bits w 96 15
  xa := bits w 112 4
  xb := bits w 116 4
  aux := bits w 120 8

/-- The instruction of an opcode and SUB; none where SUB is reserved, as it is above 0 where
the table gives no SUB (Table 05-3). FMT2 gives the MX element of IMPORT (decodeVec). -/
def vecKind (op sub : Nat) : Option VKind :=
  match op with
  | 0x60 => if sub = 0 then some .vld else none
  | 0x61 => if sub = 0 then some .vst else none
  | 0x62 => if sub < 2 then some .vpop else none
  | 0x63 => if sub < 15 then some .valu else none
  | 0x64 => if sub < 8 then some .vfn else none
  | 0x65 => if sub < 4 then some .vred else none
  | 0x66 => if sub = 0 then some .vsmx else none
  | 0x67 => if sub = 0 then some .vperm else none
  | 0x68 => if sub < 8 then some .vshuf else none
  | 0x69 => if sub = 0 then some .vpack else none
  | 0x6A => if sub = 0 then some .vunpk else none
  | 0x6B => if sub = 0 then some .vqk4 else none
  | 0x6C => if sub = 0 then some (.vmxiImport .e4m3) else if sub = 1 then some .vmxiScan else none
  | 0x6D => if sub < 4 then some .vrng else none
  | 0x6E => if sub < 8 then some .vmask else none
  | 0x6F => if sub = 0 then some .vlossAdd else if sub = 1 then some .vlossDump else none
  | 0x70 => if sub = 0 then some .vtree else none
  | 0x71 => if sub = 0 then some .vscmp else none
  | 0x72 => if sub < 2 then some .vamax else none
  | 0x73 => if sub < 4 then some .vflag else none
  | 0x74 => if sub < 2 then some .vset else if sub = 2 then some .vsetSeqtab else none
  | _ => none

/-- Reserved codes and format fields of a vector instruction (R120). -/
def vecReserved (kind : VKind) (f : VecF) : Bool :=
  9 ≤ f.fmt || 9 ≤ f.fmt2 ||
    match kind with
    | .vpack | .vqk4 => f.rm == 3
    | .vunpk | .vmxiImport _ => false
    | .vamax | .vflag | .vset | .vsetSeqtab | .vmxiScan => f.fmt != 0 || f.fmt2 != 0
    | .vld | .vst | .vpop | .valu | .vfn | .vred | .vsmx | .vperm | .vshuf | .vrng | .vmask | .vlossAdd | .vlossDump
    | .vtree | .vscmp => f.fmt2 != 0

def decodeVec (op w : Nat) : Option LOp :=
  let f := vecOf w
  match vecKind op f.sub with
  | some (.vmxiImport _) => guard (zeros w [(54, 10), (111, 1)] && !vecReserved (.vmxiImport .e4m3) f) (.vec (.vmxiImport (mxElemOf f.fmt2)) f)
  | some k => guard (zeros w [(54, 10), (111, 1)] && !vecReserved k f) (.vec k f)
  | none => none

/-- Porter fields (Table 08-4). -/
def porOf (w : Nat) : PorF where
  lbase := bits w 8 15
  len := bits w 23 16
  sigTok := bits w 39 4
  sig := bit w 43
  xr := bits w 44 4
  xre := bit w 48
  scope := bits w 49 3
  via := bits w 52 2
  sub := bits w 54 4
  noalloc := bit w 58
  ret := bit w 59
  tcnt := bits w 60 4
  addr := bits w 64 64

def porKind (op : Nat) : Option PKind :=
  match op with
  | 0x80 => some .prd
  | 0x81 => some .pwr
  | 0x82 => some .pland
  | 0x83 => some .pgath
  | 0x84 => some .pscat
  | 0x85 => some .pamo
  | _ => none

/-- Reserved values of a porter instruction. -/
def porReserved (kind : PKind) (f : PorF) : Bool :=
  f.len == 0 || 32768 < f.len || 6 ≤ f.scope || 2 ≤ f.via ||
    match kind with
    | .prd | .pwr => 2 ≤ f.sub % 4 || f.tcnt != 0
    | .pland => false
    | .pgath | .pscat => f.sub != 0 || f.tcnt != 0
    | .pamo => f.sub == 15 || f.tcnt != 0
    | .reefPut _ _ | .reefClose _ => false

def decodePor (op w : Nat) : Option LOp :=
  match porKind op with
  | some k => guard (!porReserved k (porOf w)) (.por k (porOf w))
  | none => none

/-- Reef hand-off fields (Table 11-3). -/
def reefOf (w : Nat) : ReefPutF where
  lbase := bits w 8 15
  len := bits w 23 16
  sigTok := bits w 39 4
  sig := bit w 43
  xr := bits w 44 4
  xre := bit w 48
  bucket := bits w 49 9
  group := bits w 58 4
  elemOfs := bits w 64 32

def decodeReef (op w : Nat) : Option LOp :=
  let f := reefOf w
  if op = 0xA0 then
    guard (zeros w [(62, 2), (96, 32)] && f.len != 0 && f.len ≤ 32768) (.reefPut f)
  else if op = 0xA1 then guard (zeros w [(8, 31), (44, 14), (62, 66)]) (.reefClose f.group f.sigTok f.sig)
  else none

/-- Reads a two-word instruction; none for a reserved opcode, encoding or field (R13, R14). -/
def decodeOp (w : Nat) : Option LOp :=
  let op := bits w 0 8
  if op < 0x40 then decodeSeq op w
  else if op < 0x50 then decodeMat op w
  else if 0x60 ≤ op && op < 0x80 then decodeVec op w
  else if 0x80 ≤ op && op < 0xA0 then decodePor op w
  else if 0xA0 ≤ op && op < 0xB0 then decodeReef op w
  else none

/-- The token counter an instruction signals with SIG. -/
def LOp.sigOf : LOp → Option Nat
  | .mma f => if f.sig then some f.sigTok else none
  | .vec _ f => if f.sig then some f.sigTok else none
  | .por _ f => if f.sig then some f.sigTok else none
  | .reefPut f => if f.sig then some f.sigTok else none
  | .reefClose _ tok sig => if sig then some tok else none
  | .nop | .endStrand | .wait _ _ | .signal _ _ _ _ | .loop _ _ | .scalar _ | .fence _ | .order _ | .mscl _ _ | .mflag _ => none

/-- The tile SRAM spans of an instruction of a tile that are fixed at load. -/
def LOp.spans (tile : Nat) : LOp → List Span
  | .mma f => mmaSpans f (tile % 4)
  | .mscl _ src => [⟨src * 64, 256, false⟩]
  | .vec k f => if vByXa k then [] else vSpans k f (f.base * 64)
  | .por k f => (porSpans k f 0).drop (match k with | .pgath | .pscat => 1 | _ => 0)
  | .reefPut f => [⟨f.lbase * 64, 64 * f.len, false⟩]
  | .nop | .endStrand | .wait _ _ | .signal _ _ _ _ | .loop _ _ | .scalar _ | .fence _ | .order _ | .mflag _
  | .reefClose _ _ _ => []

/-- Reads a strand descriptor (Table 07-1). -/
def descOf (b : List Byte) : Desc :=
  let w := leNat b
  let x := fun word lo n => bits w (64 * word + lo) n
  { strandId := x 0 16 32, seqTag := x 0 48 8, lmode := x 0 56 2, layer := x 1 0 16, op := x 1 16 16, waitMask := x 1 32 16
    signalMask := x 1 48 16, launchBeat := x 2 0 48, ip := x 3 0 17, wdog := x 3 32 32, rangePtr := x 4 0 15
    rangeCnt := x 4 16 5, queueSlots := x 4 24 4, amaxMask := x 4 32 16, setMask := x 4 48 16, recomp := x 5 0 2
    eclass := x 5 8 4, clrMflag := x 5 12 1 == 1 }

/-- A descriptor of another version (R15, R17, R184). -/
def descVersion (b : List Byte) : Bool := leAt b 0 2 != 0x0100

/-- Reserved fields and values of a descriptor (R13, R14, R184). -/
def descReserved (b : List Byte) : Bool :=
  let w := leNat b
  let d := descOf b
  d.lmode == 0 || (48 ≤ d.seqTag && d.seqTag < 255) || 16 < d.rangeCnt || 8 < d.queueSlots ||
    8 ≤ d.eclass ||
    !zeros w [(58, 6), (176, 16), (209, 15), (271, 1), (277, 3), (284, 4), (322, 6), (333, 51), (384, 128)]

/-- A range list entry (Table 07-4). -/
def rangeOf (w : Nat) : RangeEnt := ⟨bits w 0 15, bits w 16 16, bit w 32, bit w 33⟩

/-- A section (Table 07-11) with its bytes. -/
structure Sec where
  idx : Nat
  typ : Nat
  minor : Nat
  major : Nat
  target : Nat
  ofs : Nat
  size : Nat
  entry : List Byte
  bytes : List Byte
  deriving DecidableEq, Repr

def secOf (img : List Byte) (i : Nat) : Sec :=
  let e := sub img (128 + 32 * i) 32
  { idx := i, typ := leAt e 0 2, minor := leAt e 2 1, major := leAt e 3 1, target := leAt e 4 2, ofs := leAt e 8 8
    size := leAt e 16 8, entry := e, bytes := sub img (leAt e 8 8) (leAt e 16 8) }

def Sec.isTile (x : Sec) : Bool := 1 ≤ x.typ && x.typ ≤ 4
def Sec.isDie (x : Sec) : Bool := x.typ == 6 || x.typ == 8 || x.typ == 9
def Sec.loaded (x : Sec) : Bool := x.typ < 0x8000

/-- Why an image is rejected (R222): status, section index, byte offset from the image start. -/
structure LErr where
  status : Nat
  sec : Nat
  ofs : Nat
  deriving DecidableEq, Repr

abbrev Chk := Option LErr
def chk (bad : Bool) (status sec ofs : Nat) : Chk := if bad then some ⟨status, sec, ofs⟩ else none
def firstErr (l : List Chk) : Chk := l.findSome? id

/-- A strand of an image: its descriptor and where it stands, its instructions by index in the code, its ranges. -/
structure LStrand where
  d : Desc
  raw : List Byte
  ofs : Nat
  ops : List (Nat × LOp)
  ends : Bool
  ranges : List RangeEnt
  rangeRaw : List Nat
  deriving DecidableEq, Repr

/-- A tile of an image. -/
structure LTile where
  tile : Nat
  tbl : Sec
  code : Sec
  codeBase : Nat
  codeSize : Nat
  ops : List (Option LOp)
  strands : List LStrand
  lists : List Sec
  inits : List Sec
  deriving DecidableEq, Repr

/-- An image with its sections and tiles. -/
structure LImg where
  bytes : List Byte
  secs : List Sec
  period : Nat
  wdogDef : Nat
  shift : Nat
  dieMask : Nat
  tiles : List LTile
  deriving DecidableEq, Repr

/-- The instructions of a strand, from its IP to END, and whether END is there. -/
def strandOps (k : Nat) : List (Option LOp) → List (Nat × LOp) × Bool
  | [] => ([], false)
  | none :: r => let (l, e) := strandOps (k + 1) r; ((k, .nop) :: l, e)
  | some .endStrand :: _ => ([(k, .endStrand)], true)
  | some x :: r => let (l, e) := strandOps (k + 1) r; ((k, x) :: l, e)

/-- The load span of a RANGE_LISTS or SRAM_INIT section: first byte and length. -/
def Sec.span (x : Sec) : Nat × Nat := (leAt x.bytes 0 8 * 64, x.size - 8)

/-- The range list of a descriptor, as words, from the section that holds it wholly; none where no section does. -/
def listOf (lists : List Sec) (d : Desc) : Option (List Nat) :=
  let lo := d.rangePtr * 64
  if d.rangeCnt = 0 then some []
  else (lists.find? fun x => x.span.1 ≤ lo && lo + 8 * d.rangeCnt ≤ x.span.1 + x.span.2).map fun x =>
    (List.range d.rangeCnt).map fun k => leAt x.bytes (8 + (lo - x.span.1) + 8 * k) 8

def strandOf (codeBase : Nat) (code : List (Option LOp)) (lists : List Sec) (tbl : Sec) (k : Nat) : LStrand :=
  let raw := sub tbl.bytes (64 + 64 * k) 64
  let d := descOf raw
  let (ops, ends) := strandOps (d.ip - 4 * codeBase) (code.drop (d.ip - 4 * codeBase))
  let rl := (listOf lists d).getD []
  { d := d, raw := raw, ofs := tbl.ofs + 64 + 64 * k, ops := ops, ends := ends, ranges := rl.map rangeOf, rangeRaw := rl }

def tileOf (secs : List Sec) (tbl : Sec) : LTile :=
  let mine := fun typ => secs.filter fun x => x.typ == typ && x.target == tbl.target
  let code := (mine 2).headD { tbl with size := 0, bytes := [] }
  let w := leAt tbl.bytes 0 8
  let ops := (List.range (code.bytes.length / 16)).map fun k => decodeOp (leAt code.bytes (16 * k) 16)
  let base := bits w 32 15
  { tile := tbl.target, tbl := tbl, code := code, codeBase := base, codeSize := bits w 48 16, ops := ops
    strands := (List.range (bits w 0 16)).map fun k => strandOf base ops (mine 3) tbl k
    lists := mine 3, inits := mine 4 }

def imgOf (img : List Byte) : LImg :=
  let secs := (List.range (leAt img 8 2)).map (secOf img)
  { bytes := img, secs := secs, period := leAt img 32 6, wdogDef := leAt img 40 4, shift := leAt img 24 1
    dieMask := leAt img 25 1, tiles := (secs.filter fun x => x.typ == 1).map (tileOf secs) }

end Sys2Proof.Machine
end

