-- ==== Sys2Proof/Machine/Loader.lean ====
section
/-! DEFINITION. The loader's checks 1 to 11 of Table 07-13: form, versions, digest, reserved fields, dies, placement,
descriptors, instructions, declared ranges, resources and token balance. -/
namespace Sys2Proof.Machine

def noSec : Nat := 0xFFFF

/-- The byte offset of an instruction of a tile. -/
def LTile.at_ (t : LTile) (k : Nat) : Nat := t.code.ofs + 16 * k

/-! Check 1: form (R220, R221, R504). -/

/-- A section whose TARGET is of the wrong kind. -/
def Sec.badTarget (x : Sec) : Bool :=
  if x.isTile then 384 ≤ x.target else if x.isDie then 4 ≤ x.target else (x.typ == 5 || x.typ == 7) && x.target != 0xFFFF

def Sec.repeats (x : Sec) (all : List Sec) : Bool :=
  [1, 2, 5, 6, 7, 8, 9].contains x.typ && all.any fun y => y.idx < x.idx && y.typ == x.typ && y.target == x.target

/-- A section whose size is not that of its content. -/
def Sec.badSize (x : Sec) : Bool :=
  if x.typ = 1 then x.size != 64 + 64 * bits (leAt x.bytes 0 8) 0 16 || bits (leAt x.bytes 0 8) 0 16 == 0
  else if x.typ = 2 then x.size % 16 != 0
  else if x.typ = 3 then x.size < 8 || x.size % 8 != 0
  else if x.typ = 4 then x.size < 8
  else false

def secOverlap (a b : Sec) : Bool := a.ofs < b.ofs + b.size && b.ofs < a.ofs + a.size

def Sec.form (im : LImg) (size : Nat) (x : Sec) : Chk :=
  let entry := 128 + 32 * x.idx
  let out := x.ofs % 64 != 0 || x.ofs < 128 + 32 * im.secs.length || size < x.ofs + x.size
  let over_ := im.secs.any fun y => y.idx < x.idx && secOverlap x y
  chk (out || over_ || x.loaded && (x.badTarget || x.repeats im.secs || x.badSize)) stFormat x.idx entry

def check1 (im : LImg) (size : Nat) : Chk :=
  let n := leAt im.bytes 8 2
  firstErr ([chk (im.bytes.length < 128 || leAt im.bytes 0 4 != 0x4D49564B) stFormat noSec 0,
    chk (leAt im.bytes 6 2 != 128) stFormat noSec 6,
    chk (n = 0 || 4096 < n || size < 128 + 32 * n) stFormat noSec 8,
    chk (leAt im.bytes 16 8 != size) stFormat noSec 16] ++ im.secs.map fun x => x.form im size)

/-! Checks 2 and 3: versions and the digest. -/

def check2 (im : LImg) : Chk :=
  firstErr (chk (leAt im.bytes 5 1 != 1 || leAt im.bytes 4 1 != 0) stVersion noSec 4 ::
    (im.secs.map fun x => chk (x.loaded && (x.major != 1 || x.minor != 0)) stVersion x.idx (128 + 32 * x.idx + 2)) ++
    (im.tiles.map fun t => t.strands.map fun x => chk (descVersion x.raw) stVersion t.tbl.idx x.ofs).flatten)

def imgDigest (b : List Byte) : List Byte := Config.sha384 (b.take 80 ++ List.replicate 48 0 ++ b.drop 128)

def check3 (im : LImg) : Chk := chk (imgDigest im.bytes != sub im.bytes 80 48) stDigest noSec 80

/-! Check 4: reserved fields and codes, here of the section table and of tile sections. -/

def Sec.reserved (x : Sec) : Chk :=
  let w := leNat x.entry
  chk (!zeros w [(48, 16), (192, 64)] || x.typ == 0 || 0x0A ≤ x.typ && x.loaded) stReserved x.idx (128 + 32 * x.idx)

/-- The checks of each entry of a RANGE_LISTS section: the entry's offset in the image, and its word. -/
def Sec.eachEntry (x : Sec) (f : Nat × Nat → Chk) : Chk :=
  firstErr ((List.range ((x.size - 8) / 8)).map fun k => f (x.ofs + 8 + 8 * k, leAt x.bytes (8 + 8 * k) 8))

/-- The reserved fields of a section of a tile. -/
def LImg.inTile (im : LImg) (x : Sec) : Chk :=
  if x.typ = 1 then firstErr (chk (!zeros (leNat (sub x.bytes 0 32)) [(16, 16), (47, 1), (64, 192)]) stReserved x.idx x.ofs ::
    ((im.tiles.filter fun t => t.tbl.idx == x.idx).flatMap fun t => t.strands.map fun y =>
      chk (descReserved y.raw) stReserved x.idx y.ofs))
  else if x.typ = 2 then firstErr ((List.range (x.bytes.length / 16)).map fun k =>
    chk (decodeOp (leAt x.bytes (16 * k) 16)).isNone stReserved x.idx (x.ofs + 16 * k))
  else if x.typ = 3 then x.eachEntry fun e => chk (!zeros e.2 [(15, 1), (34, 30)]) stReserved x.idx e.1
  else none

/-! Check 5: dies. -/

def check5 (im : LImg) (mask : Nat) : Chk :=
  firstErr (chk (im.dieMask &&& mask != im.dieMask) stResource noSec 25 ::
    im.secs.map fun x =>
      chk (x.isTile && !bit im.dieMask (dieOfTile x.target) || x.isDie && !bit im.dieMask x.target) stResource x.idx
        (128 + 32 * x.idx))

/-! Check 6: placement in tile SRAM (R199, R507). -/

def hits (a b : Nat × Nat) : Bool := a.1 < b.1 + b.2 && b.1 < a.1 + a.2
def RangeEnt.bytes (r : RangeEnt) : Nat × Nat := (r.base * 64, r.len * 64)
def LTile.codeSpan (t : LTile) : Nat × Nat := (t.codeBase * 64, t.codeSize * 64)

/-- The placement of a RANGE_LISTS or SRAM_INIT section, on a tile with or without a strand table. -/
def LImg.placeSec (im : LImg) (x : Sec) : Chk :=
  let code := ((im.tiles.find? fun t => t.tile == x.target).map LTile.codeSpan).getD (0, 0)
  if x.typ ≠ 3 && x.typ ≠ 4 then none
  else firstErr [chk (2 ^ 21 < x.span.1 + x.span.2 || hits x.span code) stRange x.idx x.ofs,
    if x.typ = 3 then x.eachEntry fun e =>
      let r := rangeOf e.2
      chk (r.len == 0 || 32768 < r.base + r.len || hits r.bytes code) stRange x.idx e.1
    else none]

def LTile.place (t : LTile) : Chk :=
  let wr := (t.strands.map fun x => (x.ranges.filter fun r => r.wr).map RangeEnt.bytes).flatten
  firstErr ([chk (32768 < t.codeBase + t.codeSize || 8192 < t.codeSize || t.codeSize * 64 < t.code.size) stRange t.tbl.idx
      t.tbl.ofs] ++
    t.strands.map fun x =>
      let mine := (x.d.rangePtr * 64, 8 * x.d.rangeCnt)
      chk ((listOf t.lists x.d).isNone ||
        x.d.rangeCnt != 0 && (hits mine t.codeSpan || t.inits.any (fun y => hits mine y.span) || wr.any fun r => hits mine r))
        stRange t.tbl.idx x.ofs)

def check6 (im : LImg) : Chk := firstErr (im.secs.map im.placeSec ++ im.tiles.map LTile.place)

/-! Loops (R204): each as its first instruction, its LOOP, and its trips. -/

def LStrand.loops (x : LStrand) : List (Nat × Nat × Nat) :=
  x.ops.filterMap fun o => match o.2 with
    | .loop trips back => some (o.1 - back, o.1, trips)
    | _ => none

/-- How often the instruction at k runs. -/
def LStrand.runs (x : LStrand) (k : Nat) : Nat :=
  x.loops.foldl (fun n l => if l.1 ≤ k && k < l.2.1 then n * l.2.2 else n) 1

def LStrand.loopsOk (x : LStrand) : Bool :=
  let lo := match x.ops with | o :: _ => o.1 | [] => 0
  let ls := x.loops
  x.ops.all (fun o => match o.2 with | .loop trips back => trips != 0 && back != 0 && lo + back ≤ o.1 | _ => true) &&
    ls.all (fun a => ls.all fun b => a.2.1 ≤ b.2.1 || b.2.1 < a.1 || a.1 ≤ b.1) &&
    x.ops.all fun o => (ls.filter fun l => l.1 ≤ o.1 && o.1 < l.2.1).length ≤ 4

/-! Check 7: descriptors (R185, R189), IP, END, loops, recomputation (R216). -/

def LOp.harmful : LOp → Bool
  | .signal _ _ _ _ => true
  | .vec .vlossAdd _ => true
  | .por .pland _ => true
  | .por .pamo _ => true
  | .reefPut _ => true
  | .reefClose _ _ _ => true
  | x => x.sigOf.isSome

def LStrand.uses (x : LStrand) (set : Nat) : Bool := x.ops.any fun o => match o.2 with | .mma f => f.set == set | _ => false
def LStrand.loadsSet (x : LStrand) (set : Nat) : Bool := x.ops.any fun o => match o.2 with | .mscl k _ => k == set | _ => false

def LTile.descBad (im : LImg) (t : LTile) (k : Nat) (x : LStrand) : Bool :=
  let d := x.d
  let before := (t.strands.take k).filter fun y => Desc.timed y.d
  let first := 4 * t.codeBase
  d.lmode == 1 && d.waitMask != 0 || d.lmode == 2 && d.launchBeat != 0 ||
    (List.range 16).any (fun n => n != 0 && bit d.setMask n && x.loadsSet n && !x.uses n) ||
    Desc.timed d && (before.any (fun y => d.launchBeat < y.d.launchBeat) || im.period != 0 && im.period ≤ d.launchBeat) ||
    d.ip < first || first + 4 * t.codeSize ≤ d.ip || !x.ends || !x.loopsOk || d.recomp != 0 && x.ops.any fun o => o.2.harmful

def LImg.ids (im : LImg) : List (Nat × Nat × Nat) :=
  (im.tiles.map fun t => t.strands.map fun x => (x.d.strandId, t.tbl.idx, x.ofs)).flatten

def repeatedId : List (Nat × Nat × Nat) → List Nat → Chk
  | [], _ => none
  | x :: r, seen => if seen.contains x.1 then some ⟨stFormat, x.2.1, x.2.2⟩ else repeatedId r (x.1 :: seen)

/-- A STRAND_TABLE without TILE_CODE, or TILE_CODE without STRAND_TABLE (R221). -/
def LImg.alone (im : LImg) (x : Sec) : Bool :=
  let with_ := fun typ => im.secs.any fun y => y.typ == typ && y.target == x.target
  (x.typ == 1 && !with_ 2) || (x.typ == 2 && !with_ 1)

def check7 (im : LImg) : Chk :=
  firstErr ((im.secs.map fun x => chk (im.alone x) stFormat x.idx x.ofs) ++ (im.tiles.map fun t => firstErr ((List.range t.strands.length).map fun k =>
    match t.strands[k]? with
    | some x => chk (t.descBad im k x) stFormat t.tbl.idx x.ofs
    | none => none)) ++ [repeatedId im.ids []])

/-! Check 8: instruction rules. -/

/-- Rules that give a format status, with a count of zero and a misaligned ELEM_OFS (Tables 07-5, 11-3; R43, R63, R87, R99, R100, R108, R117, R120, R131, R236, R268, R505). -/
def LOp.badForm : LOp → Bool
  | .mma f => !pairOk f.fmtA f.fmtB || (f.turnA && f.fmtA == 5) || (f.turnB && f.fmtB == 5) || (f.dest && f.cont) ||
      (f.ref && (f.accIn || f.cont)) || (f.sig && f.cont) ||
      (f.splice && (f.fmtA != 1 || f.fmtB != 1 || f.turnA || f.bcA))
  | .vec k f => !vFmtOk k f || !vAmxOk k f
  | .por k f => porBad k f
  | .reefPut f => f.elemOfs % 16 != 0
  | .wait _ n => n == 0
  | .signal _ _ _ cnt => cnt == 0
  | _ => false

/-- Spans beyond the end of tile SRAM or of the splice buffer, and registers beyond V31 (R87, R99, R117, R120). -/
def LOp.badRange (tile : Nat) (x : LOp) : Bool :=
  let far := fun l : List Span => l.any fun sp => 2 ^ 21 < sp.at_ + sp.len
  match x with
  | .mma f => (if f.splice then 65536 < f.aBase * 64 + 512 * f.s else far [opSpan f.aBase f.s f.fmtA]) ||
      far [opSpan f.bBase f.s f.fmtB] || f.accIn && 2 ^ 21 < f.cBase * 64 + 1024
  | .vec k f =>
    let q : VItem := ⟨⟨0, 0, 0, 0, 0, 0, 0, 0, 0, 0⟩, k, f, 0⟩
    !vBlockOk q || (vReads q ++ vWrites q).any (fun r => 32 ≤ r) || far (LOp.spans tile x)
  | _ => far (LOp.spans tile x)

/-- Whether an operation's lines lie on the tile SRAM of a die outside a mask: its first line starts in the window. -/
def linesForeign (mask off len : Nat) : Bool :=
  let lo := dieOfTile (tileOfOff off)
  let hi := dieOfTile (tileOfOff (off + 64 * (len - 1)))
  (List.range 4).any fun d => lo ≤ d && d ≤ hi && !bit mask d

/-- Breaches of an address fixed at load (R292, R505, Table 08-11). A node is rejected only for a gateway number that is
reserved or that the gateway table lacks, or for a reserved node ID. -/
def LOp.badAddr (s : State) (mask : Nat) : LOp → Bool
  | .por k f =>
    let a := f.addr
    let off := adrOff a
    let node := adrNode a
    let item := k == .pgath || k == .pscat
    if f.xre && !item then false
    else adrRes a != 0 || 2 ≤ adrSpace a || adrSpace a == 0 && node != 0 ||
      adrSpace a == 1 && (node == 0xFFFF || isGateway node && (bits node 8 7 != 0 || (s.gateway node).isNone)) ||
      off % (if item then 32 else 64) != 0 ||
      k == .pland && f.tcnt != 0 && !isTileSram (off + 64 * (f.len - 1)) ||
      adrSpace a == 0 && !item && isTileSram off && linesForeign mask off f.len
  | .signal _ _ tile _ => tile != 0xFFFF && !bit mask (dieOfTile tile)
  | _ => false

def check8 (s : State) (im : LImg) (mask : Nat) : Chk :=
  firstErr (im.tiles.map fun t => firstErr ((List.range t.ops.length).map fun k =>
    match t.ops.getD k none with
    | none => none
    | some x => firstErr [chk x.badForm stFormat t.code.idx (t.at_ k),
        chk (x.badRange t.tile || x.badAddr s (match x with | .signal _ _ _ _ => im.dieMask | _ => mask)) stRange t.code.idx
          (t.at_ k)]))

/-! Check 9: fixed spans within declared ranges (R200), and outside the code regions of other tiles (R199). -/

def LStrand.slot (x : LStrand) : Slot where
  desc := x.d
  inst := 0
  ended := false
  phase := .issuing
  ip := x.d.ip
  late := 0
  launchAt := 0
  tries := 0
  limitFrom := 0
  loops := []
  flags := 0
  ranges := x.ranges
  acqOps := []
  rels := []
  badNodes := []
  barked := false

/-- Whether a porter operation of fixed address reaches a code region of the image through the tile SRAM window. -/
def LImg.hitsCode (im : LImg) : LOp → Bool
  | .por k f =>
    let off := adrOff f.addr
    let item := k == .pgath || k == .pscat
    !item && !f.xre && adrSpace f.addr == 0 && isTileSram off && im.tiles.any fun u =>
      hits (off, 64 * f.len) (sramWin + u.tile * 2 ^ 21 + u.codeSpan.1, u.codeSpan.2)
  | _ => false

def check9 (im : LImg) : Chk :=
  firstErr (im.tiles.map fun t =>
    let x0 := { Tile.init with codeBase := t.codeBase, codeSize := t.codeSize }
    firstErr (t.strands.map fun x => firstErr (x.ops.map fun o =>
      chk ((x0.spansBreach x.slot (LOp.spans t.tile o.2)).isSome || im.hitsCode o.2) stRange t.code.idx (t.at_ o.1))))

/-! Check 10: scale sets, amax slots, queue entries (R185, R201). -/

def LStrand.badUse (x : LStrand) : LOp → Bool
  | .mma f => f.set != 0 && !bit x.d.setMask f.set || x.d.queueSlots == 0 && !f.dest && !f.cont
  | .mscl k _ => !bit x.d.setMask k
  | .vec k f => (f.amxe || k == .vamax) && !bit x.d.amaxMask f.amx
  | _ => false

/-- The queue entries of four consecutive descriptors from k on; in a table that repeats, of four cyclically, which take a
descriptor of a shorter table more than once. -/
def LTile.fourSlots (t : LTile) (cyclic : Bool) (k : Nat) : Nat :=
  let n := t.strands.length
  ((List.range 4).map fun i =>
    if !cyclic && n ≤ k + i then 0 else (t.strands[(k + i) % n]?.map fun x => x.d.queueSlots).getD 0).sum

def check10 (im : LImg) : Chk :=
  firstErr (im.tiles.map fun t => firstErr
    ((t.strands.map fun x => firstErr (x.ops.map fun o => chk (x.badUse o.2) stResource t.code.idx (t.at_ o.1))) ++
      (List.range t.strands.length).map fun k =>
        chk (8 < t.fourSlots (im.period != 0) k) stResource t.tbl.idx (t.tbl.ofs + 64 + 64 * k)))

/-! Check 11: token balance (R194). -/

/-- What an image's engines signal in one step: tile, counter, die, group. -/
structure Done where
  tile : Nat
  tok : Nat
  die : Nat
  group : Nat
  deriving DecidableEq, Repr

/-- The increments that instruction k of a strand of tile src gives to a counter of a tile, in one run. -/
def LOp.gives (src tile tok : Nat) (x : LOp) : Nat :=
  (if src = tile && x.sigOf = some tok then 1 else 0) +
    match x with
    | .signal k _ u n => if k = tok && (if u = 0xFFFF then src else u) = tile then n else 0
    | .por .pland f =>
      let at_ := adrOff f.addr + 64 * (f.len - 1)
      if !f.xre && adrSpace f.addr = 0 && f.sub = tok && isTileSram at_ && tileOfOff at_ = tile then f.tcnt else 0
    | _ => 0

def LStrand.total (x : LStrand) (f : LOp → Nat) : Nat := (x.ops.map fun o => f o.2 * x.runs o.1).sum
def LImg.sumOps (im : LImg) (f : LTile → LOp → Nat) : Nat := (im.tiles.map fun t => (t.strands.map fun x => x.total (f t)).sum).sum

/-- REEF_CLOSEs of one pass for a group on a die. -/
def LImg.closes (im : LImg) (die g : Nat) : Nat :=
  im.sumOps fun t x => match x with
    | .reefClose k _ _ => natOfBool (k == g && dieOfTile t.tile == die)
    | _ => 0

/-- Increments of a counter in one pass, and consumptions. -/
def LImg.adds (im : LImg) (dones : List Done) (t : LTile) (tok : Nat) : Nat :=
  (t.strands.map fun x => natOfBool (bit x.d.signalMask tok)).sum + im.sumOps (fun u x => x.gives u.tile t.tile tok) +
    ((dones.filter fun d => d.tile == t.tile && d.tok == tok).map fun d => im.closes d.die d.group).sum +
    leAt t.tbl.bytes (32 + 2 * tok) 2

def LTile.takes (t : LTile) (tok : Nat) : Nat :=
  (t.strands.map fun x => natOfBool (bit x.d.waitMask tok) + x.total fun o => match o with
    | .wait k n => if k = tok then n else 0
    | _ => 0).sum

/-- The signals of the Reef and the update engine: OUT_SIG of each bucket, DEC_SIG of each group with buckets on the die,
DONE_SIG. -/
def Sec.dones (x : Sec) : List Done :=
  if x.typ = 8 then
    let h2 := leAt x.bytes 16 8
    let bs := (List.range (bits (leAt x.bytes 0 8) 0 10)).map fun k => sub x.bytes (64 + 32 * k) 32
    let gs := (bs.map fun b => bits (leAt b 0 2) 0 4).dedup
    (bs.filterMap fun b => if bit (leAt b 27 1) 4
      then some ⟨leAt b 28 2, bits (leAt b 27 1) 0 4, x.target, bits (leAt b 0 2) 0 4⟩ else none) ++
      if bit h2 20 then gs.map fun g => ⟨bits h2 0 16, bits h2 16 4, x.target, g⟩ else []
  else if x.typ = 9 then
    let h6 := leAt x.bytes 48 8
    if bit h6 20 then [⟨bits h6 0 16, bits h6 16 4, x.target, bits (leAt x.bytes 0 8) 32 4⟩] else []
  else []

/-- A tile without a strand table: it consumes nothing and declares no EXT_IN. -/
def LTile.bare (tile : Nat) : LTile :=
  let none_ : Sec := ⟨noSec, 1, 0, 1, tile, 0, 0, [], []⟩
  ⟨tile, none_, none_, 0, 0, [], [], [], []⟩

/-- The tiles of an image's dies that have no strand table. -/
def LImg.bareTiles (im : LImg) : List LTile :=
  ((List.range 384).filter fun t => bit im.dieMask (dieOfTile t) && !im.tiles.any fun x => x.tile == t).map LTile.bare

/-- Every counter of every tile; an unbalanced one of a tile without a table has no item of the image to name. -/
def check11 (im : LImg) : Chk :=
  let dones := (im.secs.map Sec.dones).flatten
  firstErr ((im.tiles.map fun t => firstErr ((List.range 16).map fun k =>
      chk (im.adds dones t k != t.takes k) stToken t.tbl.idx (t.tbl.ofs + 32 + 2 * k))) ++
    im.bareTiles.map fun t => firstErr ((List.range 16).map fun k => chk (im.adds dones t k != 0) stToken noSec 0))

end Sys2Proof.Machine
end

