-- ==== Sys2Proof/Machine/Sections.lean ====
section
/-! DEFINITION. Check 12 of Table 07-13: the REFERENCE, MEMORY_MAP, GROUPS, REEF_BUCKETS and UPDATE sections, and fixed
addresses and Reef targets against allocations and buckets (R111, R227, R311, R319, R320, R322, R342, R343, R505, R506). -/
namespace Sys2Proof.Machine

def LImg.ofType (im : LImg) (typ : Nat) : List Sec := im.secs.filter fun x => x.typ == typ
def Sec.words (x : Sec) (at_ : Nat) : Nat := leAt x.bytes at_ 8
def Sec.bad (x : Sec) (b : Bool) (status at_ : Nat) : Chk := chk b status x.idx (x.ofs + at_)
def Sec.item (x : Sec) (k n : Nat) : List Byte := sub x.bytes (64 + n * k) n
def Sec.tail0 (x : Sec) (lo : Nat) : Bool := ((sub x.bytes 0 64).drop lo).all fun b => b == 0

/-! REFERENCE. -/

def refChecks (x : Sec) : List Chk :=
  let n := bits (x.words 0) 0 16
  [x.bad (bits (x.words 0) 16 48 != 0 || !x.tail0 8) stReserved 0,
      x.bad (n == 0 || x.size != 64 + 16 * n) stFormat 0] ++
    (List.range n).map fun k =>
      let w := leNat (x.item k 16)
      let at_ := 64 + 16 * k
      firstErr [x.bad (!zeros w [(43, 5), (56, 8), (96, 32)] || bits w 32 4 < 8 || 16 < bits w 38 5) stReserved at_,
        x.bad (bit w 36 && bit w 37) stFormat at_, x.bad (224 ≤ bits w 48 8) stRange at_]

/-- The monitors a REFERENCE section sets up: one on each die that has a strand of the layer and op (R111, R468). -/
def LImg.refs (im : LImg) (x : Sec) : List ShadowRef :=
  ((List.range (bits (x.words 0) 0 16)).map fun k =>
    let w := leNat (x.item k 16)
    let op := bits w 16 16
    let on := fun d => im.tiles.any fun t => dieOfTile t.tile == d && t.strands.any fun y =>
      y.d.layer == bits w 0 16 && (op == 0xFFFF || y.d.op == op)
    if bit w 37 then ((List.range 4).filter on).map fun d => (⟨d, bits w 48 8, bits w 0 16, bits w 64 32⟩ : ShadowRef)
    else []).flatten

/-! MEMORY_MAP. -/

def entryOf (b : List Byte) : AllocEntry :=
  let m := leAt b 16 2
  { base := leAt b 0 8, size := leAt b 8 8, mode := bits m 0 2, die := bits m 2 2, crc := bit m 4, ro := bit m 5
    noalloc := bit m 6, dgran := bits m 8 5, allocId := leAt b 20 4 }

def Sec.entries (x : Sec) : List (Nat × AllocEntry) :=
  if x.typ = 6 then (List.range (bits (x.words 0) 0 11)).map fun k => (64 + 32 * k, entryOf (x.item k 32)) else []

def LImg.entries (im : LImg) : List AllocEntry := ((im.ofType 6).map fun x => x.entries.map Prod.snd).flatten

/-- The entries of the image's MEMORY_MAP sections before the one at an offset of a section. -/
def LImg.entriesTo (im : LImg) (x : Sec) (at_ : Nat) : List AllocEntry :=
  (im.ofType 6).flatMap fun y => (y.entries.filter fun e => y.idx < x.idx || y.idx == x.idx && e.1 < at_).map Prod.snd

/-- Whether a MEMORY_MAP entry is ill-formed, given the entries before it. -/
def mapEntryBad (mask target : Nat) (all : List AllocEntry) (e : AllocEntry) : Bool :=
  e.base % 4096 != 0 || e.size % 4096 != 0 || e.size == 0 ||
    (if e.mode = 0 then e.die != target else if e.mode = 2 then e.die != 0 else false) ||
    e.mode != 2 && !bit mask e.die || e.mode == 1 && (e.dgran < 12 || 30 < e.dgran) ||
    all.any fun y => y.allocId == e.allocId || entriesOverlap y e

def mapChecks (im : LImg) (x : Sec) : List Chk :=
  let n := bits (x.words 0) 0 11
  [x.bad (bits (x.words 0) 11 53 != 0 || !x.tail0 8) stReserved 0,
      x.bad (n == 0 || 1024 < n || x.size != 64 + 32 * n) stFormat 0] ++
    x.entries.map fun y => firstErr [
      x.bad (!zeros (leNat (sub x.bytes y.1 32)) [(135, 1), (141, 19), (192, 64)] || y.2.mode == 3) stReserved y.1,
      x.bad (mapEntryBad im.dieMask x.target (im.entriesTo x y.1) y.2) stFormat y.1, x.bad (hbmEnd < y.2.base + y.2.size) stRange y.1]

/-! GROUPS: each record is padded to a multiple of 64 bytes. -/

def groupsGo (b : List Byte) : Nat → Nat → List (Nat × List Byte × GroupRec)
  | 0, _ => []
  | n + 1, at_ =>
    let ranks := leAt b (at_ + 2) 2
    let len := (16 + 2 * ranks + 63) / 64 * 64
    (at_, sub b at_ 16, ⟨bits (leAt b at_ 2) 0 4, (List.range ranks).map fun k => leAt b (at_ + 16 + 2 * k) 2⟩) ::
      groupsGo b n (at_ + len)

def Sec.groups (x : Sec) : List (Nat × List Byte × GroupRec) :=
  if x.typ = 7 then groupsGo x.bytes (bits (x.words 0) 0 4) 64 else []

def LImg.groups (im : LImg) : List GroupRec := ((im.ofType 7).map fun x => x.groups.map fun g => g.2.2).flatten

/-- A padding byte of a group record that is not zero. -/
def groupPadBad (g : GroupRec) (x : Sec) (at_ : Nat) : Bool :=
  let len := 16 + 2 * g.ranks.length
  (sub x.bytes (at_ + len) ((len + 63) / 64 * 64 - len)).any fun b => b != 0

def groupsChecks (s : State) (x : Sec) : List Chk :=
  let n := bits (x.words 0) 0 4
  let gs := x.groups
  [x.bad (bits (x.words 0) 4 60 != 0 || !x.tail0 8) stReserved 0, x.bad (n == 0 || 12 < n) stFormat 0] ++
    gs.map fun g => firstErr [
      x.bad (!zeros (leNat g.2.1) [(4, 12), (32, 96)] || 12 ≤ g.2.2.cvc || groupPadBad g.2.2 x g.1) stReserved g.1,
      x.bad (x.size < g.1 + 16 + 2 * g.2.2.ranks.length || groupBad s g.2.2 ||
        gs.any (fun h => h.1 < g.1 && h.2.2.cvc == g.2.2.cvc)) stFormat g.1]

/-! REEF_BUCKETS. -/

def bucketOf (b : List Byte) : Bucket :=
  { group := bits (leAt b 0 2) 0 4, kind := bits (leAt b 0 2) 4 1, bucket := bits (leAt b 2 2) 0 9, elems := leAt b 4 4
    stage := leAt b 8 8, out := leAt b 16 8, puts := leAt b 24 2, k := toSigned 8 (leAt b 26 1)
    outTok := bits (leAt b 27 1) 0 4, outSig := bit (leAt b 27 1) 4, outTile := leAt b 28 2, taken := 0, amax := none, readyAt := 0
    outDone := false, f32Sent := false }

def Sec.buckets (x : Sec) : List (Nat × Bucket) :=
  if x.typ = 8 then (List.range (bits (x.words 0) 0 10)).map fun k => (64 + 32 * k, bucketOf (x.item k 32)) else []

def LImg.buckets (im : LImg) : List Bucket := ((im.ofType 8).map fun x => x.buckets.map Prod.snd).flatten
def LImg.ranks (im : LImg) (g : Nat) : Option (List Nat) := (im.groups.find? fun x => x.cvc == g).map fun x => x.ranks

/-- The norm and loss buckets that the die's UPDATE section names (R344): bucket and its elements. -/
def LImg.engineBkts (im : LImg) (die : Nat) : List (Nat × Nat × Nat) :=
  ((im.ofType 9).filter fun x => x.target == die).flatMap fun x =>
    let h := x.words 0
    (if bit h 36 then [(bits h 32 4, bits h 37 9 + die, 1)] else []) ++
      if bit h 46 then [(bits h 32 4, bits h 47 9 + die, 96)] else []

def LImg.putsInto (im : LImg) (b : Bucket) : Nat :=
  im.sumOps fun _ x => match x with
    | .reefPut f => natOfBool (f.group == b.group && f.bucket == b.bucket)
    | _ => 0

/-- The buckets of the image's REEF_BUCKETS sections before the one at an offset of a section. -/
def LImg.bucketsTo (im : LImg) (x : Sec) (at_ : Nat) : List Bucket :=
  (im.ofType 8).flatMap fun y => (y.buckets.filter fun b => y.idx < x.idx || y.idx == x.idx && b.1 < at_).map Prod.snd

def bucketBad (im : LImg) (die : Nat) (raw : List Byte) (prior : List Bucket) (b : Bucket) : Bool :=
  let fmt := bits (leAt raw 0 2) 5 4
  let n := ((im.ranks b.group).getD []).length
  let engine := (im.engineBkts die).any fun e => e.1 == b.group && e.2.1 == b.bucket
  n == 0 || prior.any (fun y => y.group == b.group && y.bucket == b.bucket) ||
    (if b.kind = 0 then b.elems == 0 || b.elems % (16 * n) != 0 || 2 ^ 31 < b.elems || fmt != 8
      else b.elems == 0 || 192 < b.elems || fmt != 0 || b.puts != 1) ||
    b.puts == 0 || b.stage % 64 != 0 || b.out % 64 != 0 || (b.outSig && 384 ≤ b.outTile) ||
    (if engine && b.kind = 1 then im.putsInto b != 0 else im.putsInto b != b.puts)

def Sec.reefImg (x : Sec) : ReefImg :=
  let h := x.words 0
  let h2 := x.words 16
  { die := x.target, retry := bits h 16 2, decTimeoutMs := bits h 32 16, decBase := x.words 8, decTile := bits h2 0 16
    decTok := bits h2 16 4, decSig := bit h2 20, buckets := x.buckets.map Prod.snd }

def reefChecks (im : LImg) (x : Sec) : List Chk :=
  let n := bits (x.words 0) 0 10
  let h := leNat (sub x.bytes 0 64)
  let r := x.reefImg
  [x.bad (!zeros h [(10, 6), (18, 14), (48, 16), (106, 22), (149, 363)]) stReserved 0,
      x.bad (n == 0 || 512 < n || x.size != 64 + 32 * n || r.decTimeoutMs == 0 || r.decBase % 64 != 0 ||
        r.decSig && 384 ≤ r.decTile) stFormat 0] ++
    x.buckets.map fun y =>
      let raw := sub x.bytes y.1 32
      firstErr [x.bad (!zeros (leNat raw) [(9, 7), (25, 7), (221, 3), (240, 16)] || 12 ≤ y.2.group || 9 ≤ bits (leAt raw 0 2) 5 4)
          stReserved y.1,
        x.bad (bucketBad im x.target raw (im.bucketsTo x y.1) y.2) stFormat y.1]

def areaNeed (x : Sec) (die off len ofs : Nat) (crc : Bool) : Need := ⟨off, len, some die, crc, true, x.idx, x.ofs + ofs⟩

/-- Staging, output and decision areas (R320). -/
def LImg.reefNeeds (im : LImg) (x : Sec) : List Need :=
  let r := x.reefImg
  let top := (r.buckets.map fun b => b.group).foldl Nat.max 0
  areaNeed x x.target r.decBase (128 * (top + 1)) 0 false ::
    (x.buckets.map fun y =>
      let b := y.2
      let n := Nat.max ((im.ranks b.group).getD []).length 1
      let st := if b.kind = 0 then 5 * (b.elems + b.elems / n) else 8 * b.elems
      let out := if b.kind = 0 then 4 * b.elems / n else 4 * b.elems
      [areaNeed x x.target b.stage st y.1 false, areaNeed x x.target b.out out y.1 false]).flatten

/-- R322: the group's descriptor and rank list, then its bucket descriptors in BUCKET order with the fields of the module
set to zero. -/
def LImg.groupSign (im : LImg) (g : GroupRec) (desc : List Byte) : Nat :=
  let raws := ((im.ofType 8).map fun x => x.buckets.map fun y => (y.2, sub x.bytes y.1 32)).flatten
  let mine := (List.range 512).flatMap fun k => (raws.filter fun r => r.1.group == g.cvc && r.1.bucket == k).map fun r =>
    r.2.take 8 ++ List.replicate 18 0 ++ sub r.2 26 1 ++ List.replicate 5 0
  crc32c (desc ++ (g.ranks.map (natLe 2)).flatten ++ mine.flatten)

/-! UPDATE. -/

def hyperOf (b : List Byte) : Hyper := ⟨leAt b 0 4, leAt b 4 4, leAt b 8 4, leAt b 12 4, leAt b 16 4, leAt b 20 4⟩
def segOf (b : List Byte) : Seg := ⟨bits (leAt b 0 4) 0 2, leAt b 4 4, leAt b 8 4, leAt b 12 4⟩

def udescOf (b : List Byte) : UDesc :=
  let w := leAt b 0 8
  let ofs := fun k => bits (leAt b (8 * k) 8) 0 42
  { layer := bits w 0 16, op := bits w 16 16, opt := bits w 32 4, m1 := bits w 36 2, v := bits w 38 2, rem := bit w 40
    norm := bit w 41, decay := bit w 42, wcFmt := bits w 43 4, wcEn := bit w 47, wcSr := bit w 48, splice := bit w 49
    spliceLog2 := bits w 50 3, hp := bits w 53 6, rows := leAt b 8 4, cols := leAt b 12 4, row0 := leAt b 16 4
    master := ofs 3, grad := ofs 4, state := ofs 5, wc := ofs 6, res := ofs 7 }

def Sec.nHp (x : Sec) : Nat := bits (x.words 0) 16 8
def Sec.nSeg (x : Sec) : Nat := bits (x.words 0) 24 8
def Sec.nDesc (x : Sec) : Nat := bits (x.words 0) 0 16
def Sec.segAt (x : Sec) (k : Nat) : Nat := 64 + 32 * x.nHp + 16 * k
def Sec.udescAt (x : Sec) (k : Nat) : Nat := 64 + 32 * x.nHp + 16 * x.nSeg + 64 * k

def Sec.updSec (x : Sec) : UpdSec :=
  let h := x.words 0
  let h6 := x.words 48
  { group := bits h 32 4, normEn := bit h 36, normBkt := bits h 37 9, lossEn := bit h 46, lossBkt := bits h 47 9
    maxNorm := leAt x.bytes 8 4, gscale := leAt x.bytes 12 4, schedT0 := leAt x.bytes 16 4, auditEvery := leAt x.bytes 20 2
    stateLine := x.words 24, commit := x.words 32, loss := bits (x.words 40) 0 42, lossTiles := bits (x.words 40) 42 16
    doneTile := bits h6 0 16, doneTok := bits h6 16 4, doneSig := bit h6 20, audit := x.words 56
    hps := (List.range x.nHp).map fun k => hyperOf (x.item k 32)
    segs := (List.range x.nSeg).map fun k => segOf (sub x.bytes (x.segAt k) 16)
    descs := (List.range x.nDesc).map fun k => udescOf (sub x.bytes (x.udescAt k) 64) }

/-- A negative or non-finite FP32 value. -/
def badFp (v : Nat) : Bool := bits v 23 8 == 255 || bit v 31 && bits v 0 31 != 0

def hyperBad (h : Hyper) : Bool :=
  [h.beta1, h.beta2, h.eps, h.decayL, h.vclip, h.lrMult].any badFp || 0x3F800000 ≤ bits h.beta1 0 31 ||
    0x3F800000 ≤ bits h.beta2 0 31

def segBad (g : Seg) : Bool := g.len == 0 || badFp g.lrA || g.kind != 1 && badFp g.lrB

def udescBad (nHp : Nat) (d : UDesc) : Bool :=
  nHp ≤ d.hp || (d.opt == 0 && (d.m1 == 0 || d.v == 0)) || (d.opt == 1 && d.v != 0) || d.e % 1024 != 0 ||
    (d.wcEn && !([1, 3, 4, 5].contains d.wcFmt)) || (d.wcEn && d.wcFmt == 5 && (d.rows % 64 != 0 || d.cols % 64 != 0)) ||
    (d.splice && !(d.wcEn && d.wcFmt == 5))

/-- The header fields that every die of the image names alike (R343). -/
def Sec.shared (x : Sec) : Nat × Nat × Nat := (bits (x.words 0) 32 24, x.words 8, bits (x.words 16) 0 48)

def updHeadBad (im : LImg) (x : Sec) : Bool :=
  let u := x.updSec
  let named := fun e : Nat × Nat × Nat => im.secs.any fun y => y.typ == 8 && y.target == x.target &&
    y.buckets.any fun b => b.2.group == e.1 && b.2.bucket == e.2.1 && b.2.kind == 1 && b.2.elems == e.2.2
  x.nDesc == 0 || 4096 < x.nDesc || x.nHp == 0 || 64 < x.nHp || x.nSeg == 0 || 16 < x.nSeg || 12 ≤ u.group ||
    96 < u.lossTiles || (u.doneSig && 384 ≤ u.doneTile) || x.size != x.udescAt x.nDesc ||
    !(im.engineBkts x.target).all named || (im.ofType 9).any fun y => y.shared != x.shared

def updChecks (im : LImg) (x : Sec) : List Chk :=
  let u := x.updSec
  let h := leNat (sub x.bytes 0 64)
  [x.bad (!zeros h [(56, 8), (176, 16), (234, 22), (298, 22), (378, 6), (405, 43), (490, 22)]) stReserved 0,
      x.bad (updHeadBad im x) stFormat 0] ++
    ((List.range x.nHp).map fun k => firstErr [
      x.bad (bits (leNat (x.item k 32)) 192 64 != 0) stReserved (64 + 32 * k),
      x.bad ((u.hps[k]?.map hyperBad).getD true) stFormat (64 + 32 * k)]) ++
    ((List.range x.nSeg).map fun k => firstErr [
      x.bad (bits (leAt x.bytes (x.segAt k) 4) 2 30 != 0) stReserved (x.segAt k),
      x.bad ((u.segs[k]?.map segBad).getD true) stFormat (x.segAt k)]) ++
    (List.range x.nDesc).map fun k =>
      let w := leNat (sub x.bytes (x.udescAt k) 64)
      firstErr [x.bad (!zeros w ([(59, 5), (160, 32)] ++ (List.range 5).map fun i => (64 * (3 + i) + 42, 22)) || 2 ≤ bits w 32 4 || 9 ≤ bits w 43 4)
          stReserved (x.udescAt k),
        x.bad ((u.descs[k]?.map (udescBad x.nHp)).getD true) stFormat (x.udescAt k)]

/-- Bytes of a working copy from WC_BASE (R354). -/
def UDesc.wcSize (d : UDesc) : Nat :=
  4096 + if d.wcFmt = 1 then 2 * d.e else if d.wcFmt = 5 then 2 * (pad4k (d.e / 2)) + pad4k (d.e / 16) + d.e / 16 else d.e

def updNeeds (x : Sec) : List Need :=
  let u := x.updSec
  let a := fun off len ofs crc => areaNeed x x.target off len ofs crc
  [a u.stateLine 64 0 false, a u.commit 128 0 false, a u.loss (384 * u.lossTiles) 0 false,
    a u.audit (if u.auditEvery = 0 then 0 else 64 * x.nDesc) 0 false] ++
  ((List.range x.nDesc).map fun k => match u.descs[k]? with
    | none => []
    | some d =>
      let at_ := x.udescAt k
      [a d.master (4 * d.e) at_ true, a d.grad (4 * d.e) at_ false,
        a d.state (d.remOff + pad4k d.remSize - d.state) at_ true, a d.wc (if d.wcEn then d.wcSize else 0) at_ false,
        a d.res (if d.splice then 2 * d.e else 0) at_ false]).flatten

/-! Fixed addresses and Reef targets of instructions (R505). -/

/-- An atomic to anything but HBM, lines that leave the tile SRAM window, or a Reef target that is no bucket of the
image. -/
def LImg.badTarget (im : LImg) : LOp → Bool
  | .por .pamo f => !f.xre && adrSpace f.addr == 0 && !isHbm (adrOff f.addr)
  | .por .pgath _ => false
  | .por .pscat _ => false
  | .por _ f =>
    let off := adrOff f.addr
    !f.xre && adrSpace f.addr == 0 && isTileSram off && !isTileSram (off + 64 * (f.len - 1))
  | .reefPut f => match im.buckets.find? fun b => b.group == f.group && b.bucket == f.bucket with
    | none => true
    | some b => !f.xre && b.elems < f.elemOfs + 16 * f.len
  | .reefClose g _ _ => (im.ranks g).isNone
  | _ => false

/-- What a fixed address of a porter operation must reach; an atomic's target lies in an allocation (R242, R505). -/
def opNeed (t : LTile) (k : Nat) : LOp → Option Need
  | .por kind f =>
    let off := adrOff f.addr
    if f.xre || adrSpace f.addr ≠ 0 || isTileSram off && kind != .pamo || kind = .pgath || kind = .pscat then none
    else some ⟨off, (if kind == .pamo && (f.sub == 13 || f.sub == 14) then 32 else 64) * f.len, none, false, kind != .prd, t.code.idx,
      t.at_ k⟩
  | _ => none

def LImg.opNeeds (im : LImg) : List Need :=
  (im.tiles.map fun t => (List.range t.ops.length).filterMap fun k => (t.ops.getD k none).bind (opNeed t k)).flatten

def LImg.needs (im : LImg) : List Need :=
  ((im.ofType 8).map im.reefNeeds).flatten ++ ((im.ofType 9).map updNeeds).flatten ++ im.opNeeds

/-- Whether an address or area is met by a set of allocations. -/
def Need.ok (l : List AllocEntry) (n : Need) : Bool :=
  n.len == 0 || match n.near with
    | some d => l.any fun e => e.mode == 0 && e.die == d && e.base ≤ n.off && n.off + n.len ≤ e.base + e.size && (!n.crc || e.crc)
    | none => (linesOf n.off n.len).all fun a => l.any fun e => e.base ≤ a && a < e.base + e.size && !(n.write && e.ro)

def needsCheck (l : List AllocEntry) (ns : List Need) : Chk := firstErr (ns.map fun n => chk (!n.ok l) stRange n.sec n.ofs)

/-- The checks of a section by its chapter. -/
def LImg.chapter (im : LImg) (s : State) (x : Sec) : List Chk :=
  if x.typ = 5 then refChecks x
  else if x.typ = 6 then mapChecks im x
  else if x.typ = 7 then groupsChecks s x
  else if x.typ = 8 then reefChecks im x
  else if x.typ = 9 then updChecks im x
  else []

/-- Check 4: reserved fields, section types and values (R13, R14). -/
def check4 (s : State) (im : LImg) : Chk :=
  let h := leNat (im.bytes.take 80)
  let zero := fun lo n => chk (bits h lo n != 0) stReserved noSec (lo / 8)
  firstErr ([zero 80 48, chk (im.shift < 8 || 20 < im.shift) stReserved noSec 24, zero 204 4, zero 208 48, zero 304 16,
    zero 352 288] ++
    im.secs.map fun x => firstErr [x.reserved, im.inTile x,
      firstErr ((im.chapter s x).filter fun c => match c with
        | some e => e.status == stReserved && e.ofs < x.ofs + x.size
        | none => false)])

/-- Check 12; the allocations held are those made by MEM_MAP (R506). -/
def check12 (s : State) (p : Nat) (im : LImg) : Chk :=
  let held := ((s.allocsOf p).filter fun al => !al.fromImage).map fun al => al.e
  firstErr (([5, 6, 7, 8, 9].map fun typ => firstErr ((im.ofType typ).flatMap (im.chapter s))) ++
    [firstErr (im.tiles.map fun t => firstErr ((List.range t.ops.length).map fun k => match t.ops.getD k none with
      | some x => chk (im.badTarget x) stRange t.code.idx (t.at_ k)
      | none => none)), needsCheck (held ++ im.entries) im.needs])

/-! The loaded image. -/

def LTile.img (secs : List Sec) (t : LTile) : TileImg :=
  { tile := t.tile, codeBase := t.codeBase, codeSize := t.codeSize, table := t.strands.map fun x => x.d
    segs := secs.filterMap fun x =>
      if x.target ≠ t.tile then none
      else if x.typ = 2 then some (t.codeBase * 64, x.bytes)
      else if x.typ = 3 || x.typ = 4 then some (x.span.1, x.bytes.drop 8) else none }

def LImg.image (im : LImg) (handle : Nat) : Image :=
  { handle := handle, digest := leAt im.bytes 80 48, shift := im.shift, dieMask := im.dieMask, period := im.period
    wdogDef := im.wdogDef, tiles := im.tiles.map (LTile.img im.secs), allocs := im.entries
    groups := im.groups.map fun g => (g.cvc, g)
    signs := ((im.ofType 7).map fun x => x.groups.map fun g => (g.2.2.cvc, im.groupSign g.2.2 g.2.1)).flatten
    reefs := (im.ofType 8).map Sec.reefImg, upds := (im.ofType 9).map fun x => (x.target, x.updSec)
    refs := ((im.ofType 5).map im.refs).flatten, needs := im.needs }

end Sys2Proof.Machine
end

