-- ==== Sys2Proof/Machine/Program.lean ====
section
/-! DEFINITION. The program commands of Table 14-8: loading (R432), binding (R223, R433), launching (R434), aborting (R218)
and unbinding (R227); and the completion of strands (R183) with the end of an image's last pass (R391). -/
namespace Sys2Proof.Machine

/-! Loading. -/

/-- The signature check after check 3 (R432). -/
def State.signatureOk (s : State) (im : LImg) (sign : Option Nat) (key : Nat) : Bool :=
  if s.cap.progKeys.all Option.isNone then true
  else match sign, s.cap.progKeys.getD key none with
    | some g, some k => Config.ecdsaVerify k (leNat (Config.sha384 ("KV1-PROG".toUTF8.toList.map (fun b => BitVec.ofNat 8 b.toNat) ++
        sub im.bytes 80 48))) g
    | _, _ => false

/-- The checks of Table 07-13 in order. -/
def State.loadCheck (s : State) (p size : Nat) (im : LImg) (sign : Option Nat) (key : Nat) : Chk :=
  let mask := (s.part p).mask
  match check1 im size with
  | some e => some e
  | none => firstErr [check2 im, check3 im, chk (!s.signatureOk im sign key) stSignature noSec 80, check4 s im, check5 im mask,
      check6 im, check7 im, check8 s im mask, check9 im, check10 im, check11 im, check12 s p im]

/-- Where the failure lies, in RESULT (R222). -/
def LErr.result (e : LErr) : W64 := BitVec.ofNat 64 (e.sec % 65536 + e.ofs * 65536)

def execProgLoad (c : Call) (ofs size : Nat) (sign : Option Nat) (key : Nat) (s : State) : Out :=
  .next (capstanRun (.progLoad c ofs size sign key) c { cmdP 0x0201 with mem := true } (fun s =>
    let p := Call.part c
    let x := s.part p
    if 4 ≤ key then s.answer stRange
    else if 2 ≤ x.images.length then s.answer stResource
    else if !s.runIn p ofs size then s.answer stRange
    else
      let r := s.plainRead p capAgent ofs size
      if r.bad.isSome then r.s.answer stResource
      else
        let s := r.s
        let im := imgOf r.data
        match s.loadCheck p size im sign key with
        | some e =>
          let a := s.answer e.status
          { a with result := e.result }
        | none =>
          let a := (s.modPart p fun x =>
            { x with images := x.images ++ [im.image x.nextHandle], nextHandle := x.nextHandle + 1 }).ok
          { a with result := BitVec.ofNat 64 x.nextHandle }) s)

/-! Binding. -/

/-- The image's allocations placed in section and entry order; none where one cannot be (R226, R227). -/
def State.placeAll (s : State) (p : Nat) : List AllocEntry → Option State
  | [] => some s
  | e :: r => match s.placeAlloc p e with
    | none => none
    | some pc => (s.addAlloc ⟨e, pc, p, true⟩).placeAll p r

/-- A tile as a bind leaves it (R223; R141, and chapter 03 for the scale sets); image tiles take their table. -/
def Tile.bind (im : Image) (i : Option TileImg) (x : Tile) : Tile :=
  { x with
    slots := List.replicate 4 none, regs := List.replicate 16 0, tokens := List.replicate 16 0
    table := (i.map fun t => t.table).getD [], descIdx := 0, beatBase := 0, period := im.period, wdogDef := im.wdogDef
    launched := false, launches := 0, considered := none, barked := false, lateCount := 0, lateMax := 0, stopped := false
    codeBase := (i.map fun t => t.codeBase).getD 0, codeSize := (i.map fun t => t.codeSize).getD 0
    arr := { x.arr with sets := List.replicate 16 ScaleSet.ones }, vxe := { x.vxe with seqtab := [(0, 0)] } }

def State.bindTile (s : State) (im : Image) (t : Nat) : State :=
  let i := im.tiles.find? fun x => x.tile == t
  let s1 := s.modTile t fun x => x.bind im i
  match i with
  | some x => x.segs.foldl (fun s g => s.sramWrite t g.1 g.2) s1
  | none => s1

/-- A group of an image on a die. -/
def GroupSt.new (im : Image) (g : Nat) (r : GroupRec) : GroupSt where
  g := g
  cvc := r.cvc
  ranks := r.ranks
  sign := ((im.signs.find? fun e => e.1 == g).map Prod.snd).getD 0
  step := none
  closedAt := none
  closeOp := none
  reportLeft := false
  reportAt := 0
  timedOut := false
  children := []
  vetoSeen := Veto.none
  retries := 0
  decided := none

/-- The Reef engine of a die takes the image's section and the groups that have buckets there. -/
def Reef.bind (im : Image) (d : Nat) (e : Reef) : Reef :=
  match im.reefs.find? fun x => x.die == d with
  | none => { Reef.init with credHeld := e.credHeld }
  | some x =>
    let gs := im.groups.filter fun g => x.buckets.any fun b => b.group == g.1
    { Reef.init with
      retry := x.retry, decTimeoutMs := x.decTimeoutMs, decBase := x.decBase, decTile := x.decTile, decTok := x.decTok
      decSig := x.decSig, buckets := x.buckets, groups := gs.map fun g => GroupSt.new im g.1 g.2, credHeld := e.credHeld }

/-- The update engine takes the image's section; a repair hold stays (R361). -/
def Upd.bind (im : Image) (d : Nat) (u : Upd) : Upd :=
  { Upd.init with sec := (im.upds.find? fun x => x.1 == d).map Prod.snd, repair := u.repair, repaired := u.repaired }

def State.bindDie (s : State) (im : Image) (d : Nat) : State :=
  s.modDie d fun x => { x with reef := x.reef.bind im d, upd := x.upd.bind im d, energy := { Energy.init with second := s.now / SEC1 } }

/-- R468. -/
def State.bindRef (s : State) (r : ShadowRef) : State :=
  s.modMon r.die r.mon fun _ =>
    { Monitor.init with source := srcShadow, layerFilt := true, layer := r.layer, alarmAt := r.alarm, shadow := true }

def State.bindImage (s : State) (p : Nat) (im : Image) (seed : Nat) : State :=
  let s1 := (s.tilesOf p).foldl (fun s t => s.bindTile im t) s
  let s2 := (s.diesOf p).foldl (fun s d => s.bindDie im d) s1
  let s3 := im.refs.foldl State.bindRef s2
  let s4 := s3.modGeode p fun g => { g with fabTrig := true }
  let s5 := s4.modPart p fun x => { x with bound := some im, seed := seed, launched := false }
  (s5.wakeDies im.dieMask).planned

def execProgBind (c : Call) (handle : Nat) (seed : W64) (s : State) : Out :=
  .next (capstanRun (.progBind c handle seed) c (cmdP 0x0202) (fun s =>
    let p := Call.part c
    let x := s.part p
    if x.bound.isSome then s.answer stBusy
    else match x.images.find? fun i => i.handle == handle with
      | none => s.answer stNotHeld
      | some im =>
        if im.shift ≠ s.lny.shift then s.answer stTime
        else match needsCheck ((s.allocsOf p).map (fun al => al.e) ++ im.allocs) im.needs with
          | some e =>
            let a := s.answer e.status
            { a with result := e.result }
          | none => match s.placeAll p im.allocs with
            | none => s.answer stResource
            | some s1 =>
              let s2 := s1.bindImage p im seed.toNat
              if s2.allAwake im.dieMask then s2.ok
              else
                let a := (s2.modPart p fun x => { x with binding := some c }).ok
                { a with later := true }) s)

/-! Launching, aborting, unbinding. -/

/-- Whether the start of beat b lies at least n ns ahead (R159). -/
def State.ahead (s : State) (b n : Nat) : Bool :=
  let d := (b % 2 ^ 48 + 2 ^ 48 - s.beatNow) % 2 ^ 48
  1 ≤ d && d < 2 ^ 47 && n ≤ d * 2 ^ s.lny.shift - s.now % 2 ^ s.lny.shift

def Tile.begin_ (base beat : Nat) (x : Tile) : Tile :=
  { x with beatBase := base % 2 ^ 48, descIdx := 0, launched := !x.table.isEmpty, considered := some beat, barked := false
           stopped := false }

def execProgLaunch (c : Call) (beatBase : Nat) (s : State) : Out :=
  .next (capstanRun (.progLaunch c beatBase) c (cmdP 0x0203) (fun s =>
    let p := Call.part c
    let x := s.part p
    if x.bound.isNone then s.answer stNotHeld
    else if x.launched || x.binding.isSome then s.answer stBusy
    else if !s.ahead beatBase 100000 then s.answer stTime
    else
      let s1 := (s.tilesOf p).foldl (fun s t => s.modTile t fun y => y.begin_ beatBase (s.localBeat t)) s
      (s1.modPart p fun x => { x with launched := true }).planned.ok) s)

/-- Aborts every slot of a tile, each with a record of class ABORT (R218), and stops its launches. -/
def State.abortTile (s : State) (t : Nat) : State :=
  let s1 := (List.range 4).foldl (fun s k =>
    let x := s.tile t
    match x.slots.getD k none with
    | some sl => s.fault t { x.mkInfo k sl with ip := sl.ip } true 4 1 0
    | none => s) s
  s1.modTile t fun x => { x with launched := false }

def State.abortPart (s : State) (p : Nat) : State :=
  let s1 := (s.tilesOf p).foldl (fun s t => s.abortTile t) s
  s1.modPart p fun x => { x with launched := false }

/-- An abort also ends a freeze (R224, R474). -/
def execProgAbort (c : Call) (s : State) : Out :=
  .next (capstanRun (.progAbort c) c { cmdP 0x0204 with prog := false } (fun s =>
    let p := Call.part c
    let s1 := (s.abortPart p).modGeode p fun g => { g with frozen := false, trigs := [], phase := if g.phase = .none then .none else .done }
    (s1.plannedStop p).ok) s)

def State.unbind (s : State) (p : Nat) : State :=
  let s1 := (s.tilesOf p).foldl (fun s t => s.modTile t fun x => { x with table := [], launched := false }) s
  let s2 := (s.diesOf p).foldl (fun s d => s.modDie d fun x =>
    { x with reef := { Reef.init with credHeld := x.reef.credHeld }, upd := { x.upd with sec := none } }) s1
  let s3 := { s2 with allocs := s2.allocs.filter fun al => !(al.part == p && al.fromImage) }
  let s4 := s3.modGeode p fun g => { g with mapped := false }
  s4.modPart p fun x =>
    { x with
      images := x.images.filter fun i => some i.handle != x.bound.map fun b => b.handle
      bound := none, launched := false, binding := none }

def execProgUnbind (c : Call) (s : State) : Out :=
  .next (capstanRun (.progUnbind c) c (cmdP 0x0205) (fun s =>
    let p := Call.part c
    if (s.part p).bound.isNone then s.answer stNotHeld else ((s.unbind p).plannedStop p).ok) s)

/-! Completion of strands. -/

/-- A tile that has run its table: nothing left to launch, no slot occupied. -/
def Tile.over_ (x : Tile) : Bool := x.nextDesc.isNone && x.slots.all Option.isNone

/-- The end of the last pass of an image is a planned change (R391), and the partition no longer runs. -/
def State.endPass (s : State) (p : Option Nat) : State :=
  match p with
  | some p =>
    if (s.part p).launched && (s.tilesOf p).all fun t => (s.tile t).over_ then
      (s.modPart p fun x => { x with launched := false }).plannedStop p
    else s
  | none => s

/-- R183: the slot is freed, and SIGNAL_MASK's counters rise by one; the strand's estimate is charged (R471). -/
def State.strandDone (s : State) (t slot : Nat) (sl : Slot) : State :=
  let r := s.region (regionOfTile t)
  let s1 := s.modTile t fun x => { x with slots := x.slots.set slot none }
  let s2 := s1.chargeClass (dieOfTile t) r.gear sl.desc.layer sl.desc.op sl.desc.eclass (r.steps - sl.launchAt)
  let s3 := (List.range 16).foldl (fun s k => if bit sl.desc.signalMask k then s.addToken t k 1 else s) s2
  (s3.pump t).endPass (s.partOfTile t)

def execStrandComplete (t slot : Nat) (s : State) : Out :=
  onInst (t < 384 && slot < 4) s fun s =>
    let x := s.tile t
    match x.slots.getD slot none with
    | none => s
    | some sl => if s.tileFrozen t || !x.complete_ sl then s else s.strandDone t slot sl

end Sys2Proof.Machine
end

