-- ==== Sys2Proof/Machine/ReefCmd.lean ====
section
/-! DEFINITION. The events of the Reef (11): its packets, its report and its timer. After each, hand-offs and signals that
waited for it go on. -/
namespace Sys2Proof.Machine

/-- Tiles whose porter or signal unit has something waiting. -/
def State.pumpWaiting (s : State) : State :=
  (List.range 384).foldl (fun s t =>
    let x := s.tile t
    if x.porQ.isEmpty && x.sigQ.isEmpty then s else s.pump t) s

def execContrib (k : Nat) (s : State) : Out := .next (s.gotContrib k).pumpWaiting
def execResend (k : Nat) (s : State) : Out := .next (s.gotResend k).pumpWaiting
def execReport (k : Nat) (s : State) : Out := .next (s.gotReport k).pumpWaiting
def execDecision (k : Nat) (s : State) : Out := .next (s.gotDecision k).pumpWaiting
def execF32Up (k : Nat) (s : State) : Out := .next (s.gotF32Up k).pumpWaiting
def execF32Down (k : Nat) (s : State) : Out := .next (s.gotF32Down k).pumpWaiting

/-- R337: the report leaves when its lead die names the event. -/
def execReportSend (d g : Nat) (s : State) : Out :=
  onInst (d < 4 && g < 12) s fun s => match s.partOfDie d with
    | some p => if (s.groupDies p g).head? = some d then (s.reportGo p g).pumpWaiting else s
    | none => s

def execDecisionTimeout (d g : Nat) (s : State) : Out := onInst (d < 4 && g < 12) s fun s => (s.decisionOut d g).pumpWaiting

end Sys2Proof.Machine
end

