-- ==== Sys2Proof/Machine/Calls.lean ====
section
/-! DEFINITION. The commands that carry a message to the Capstan. -/
namespace Sys2Proof.Machine

/-- The message a command carries. -/
def callOf : Instr → Option Call
  | .hello c _ _ => some c
  | .sysQuery c => some c
  | .sysPartition c _ => some c
  | .sysCarveout c _ => some c
  | .sysNet c _ _ _ => some c
  | .memMap c _ => some c
  | .memUnmap c _ => some c
  | .memFill c _ _ _ => some c
  | .memChecksum c _ _ => some c
  | .memHold c => some c
  | .memRelease c => some c
  | .memScrub c _ => some c
  | .progLoad c _ _ _ _ => some c
  | .progBind c _ _ => some c
  | .progLaunch c _ => some c
  | .progAbort c => some c
  | .progUnbind c => some c
  | .progKey c _ _ => some c
  | .fabJoin c _ => some c
  | .fabLeave c => some c
  | .fabGroup c _ => some c
  | .fabWindow c _ _ => some c
  | .fabParam c _ => some c
  | .fabQuery c => some c
  | .fabRoute c _ _ => some c
  | .fabGateway c _ _ => some c
  | .fabPort c _ _ => some c
  | .pwrCeiling c _ => some c
  | .pwrPriority c _ _ => some c
  | .pwrRequest c _ _ => some c
  | .pwrTetherKey c _ _ => some c
  | .pwrDerate c _ => some c
  | .pwrCartPolicy c _ _ _ => some c
  | .pwrTune c _ => some c
  | .pwrMeter c _ _ => some c
  | .tetherCeiling c _ _ _ => some c
  | .tetherSchedule c _ _ => some c
  | .tetherClear c => some c
  | .tetherStatus c => some c
  | .meterFetch c _ _ => some c
  | .timeSource c _ _ _ => some c
  | .timeSet c _ _ => some c
  | .timeShift c _ => some c
  | .timeStatus c => some c
  | .secOwnerClaim c _ => some c
  | .secOwnerRelease c => some c
  | .secAttest c _ => some c
  | .secCerts c _ => some c
  | .secRevoke c _ _ => some c
  | .secDebugDisable c => some c
  | .secDebugOpen c => some c
  | .secFabricLock c _ _ => some c
  | .secFwWrite c _ _ => some c
  | .secFwActivate c => some c
  | .secFwCommit c => some c
  | .cntFaults c _ => some c
  | .cntStrataConfig c _ _ _ _ => some c
  | .cntStrataRead c _ _ => some c
  | .cntStrataClear c _ _ => some c
  | .cntStrataAck c _ _ => some c
  | .cntStrataEnergy c _ => some c
  | .cntDumpTrigger c => some c
  | .cntDumpMap c => some c
  | .cntDumpKeep c _ => some c
  | .cntDumpFabTrig c => some c
  | .cntDumpStatus c => some c
  | .rstPartition c => some c
  | .rstBlock c _ _ _ => some c
  | .rstCapstan c => some c
  | .rstModule c => some c
  | _ => none

end Sys2Proof.Machine
end

