-- ==== Sys2Proof/Machine/Reset.lean ====
section
/-! DEFINITION. Reset (15): module reset and the release order, Capstan restarts (R428), partition resets (R455), and block
resets (R458). -/
namespace Sys2Proof.Machine

/-! Module reset. -/

/-- A module reset; one that would interrupt an MRAM write pulse is held back until the pulse ends (R451). -/
def State.moduleReset (s : State) (cause : Nat) : State :=
  if s.mram.pulse.isSome then { s with mram := { s.mram with held := some (.module cause) } } else s.clearModule cause

/-- R493. RESET_N is asserted while it is high, or while RST_MODULE holds the reset. -/
def execResetNAssert (pulseNs : Nat) (s : State) : Out :=
  .next (if pulseNs < 100 || !s.power.standby || (s.rst.low && s.standby.cause ≠ 2) then s else s.moduleReset 1)

def execRstModule (c : Call) (s : State) : Out :=
  .next (capstanRun (.rstModule c) c (cmdC 0x0804 .owner) (fun s =>
    let a := (s.moduleReset 2).ok
    { a with later := true }) s)

/-- After a hard trip the module restarts only once every die sensor reads below 80 °C (R404). -/
def State.coolEnough (s : State) : Bool := !s.power.tripped || s.regions.all fun r => allBelow r.temps 80

/-- Failed bricks are put to service again, and every phase is tested under load (R371, R372). -/
def State.retestPhases (s : State) (bad : List Nat) : State :=
  let s1 := s.modPower fun w => { w with bricks := 255, tripped := false }
  (List.range 32).foldl (fun s r =>
    let ks := (List.range 6).filter fun i => bad.contains (6 * r + i)
    let s2 := ks.foldl (fun s i => s.log 0x0006 0xFF [1, r, i])
      (s.modRegion r fun x => { x with phases := (ks.map fun i => 2 ^ i).sum })
    if 2 ≤ ks.length then s2.fenceRegion r else s2) s1

/-- Rows 1 and 2 of Table 15-3. -/
def execResetNRelease (retest : List Nat) (s : State) : Out :=
  .next (if !s.rst.low || !s.power.standby || s.mram.held.isSome || !s.coolEnough then s
    else
      let s1 := ({ s with rst := { s.rst with low := false, row := 1 } }).retestPhases retest
      let s2 := s1.garnet
      { s2 with rst := { s2.rst with row := 2 } })

/-! The release wave. -/

/-- A die that is fenced whole, or whose stage in row 6 has acknowledged. -/
def State.dieSettled (s : State) (d : Nat) : Bool := (s.die d).fenced || (s.die d).released != 0

/-- A row of Table 15-3 is complete; the next one begins now. -/
def State.rowDone (s : State) (row : Nat) : State := { s with rst := { s.rst with row := row, rowAt := s.now } }

/-- Row 6 is complete once every die has acknowledged or is fenced. -/
def State.row6 (s : State) : State := if [0, 1, 2, 3].all s.dieSettled then s.rowDone 6 else s

/-- An edge is left out where one of its dies is fenced. -/
def State.edgeSettled (s : State) (k : Nat) : Bool :=
  let (a, b) := edgeDies k
  (s.die a).fenced || (s.die b).fenced || s.rst.edges.contains k

def State.row7 (s : State) : State := if [0, 1, 2, 3].all s.edgeSettled then s.rowDone 7 else s

/-- Row 3: the rails at their gear 0 values; both feeds are checked, and at least one supplies the module. -/
def State.railsUp (s : State) : State :=
  s.modPower fun w => { w with
    railsOn := true, gear := 0, vSram := List.replicate 4 (Volt.still 600)
    vHbmif := List.replicate 4 (Volt.still 650), vLink := 800, vStack := (1100, 400, 1800) }

def State.canRamp (s : State) : Bool :=
  s.rst.row == 2 && s.cap.run != .recovery && !(s.power.feedA.st == .lost && s.power.feedB.st == .lost)

/-- One stage of the wave acknowledges; row 7's index is an edge in the order of Table 15-3. -/
def State.waveStage (s : State) (row d : Nat) : State :=
  if s.rst.low then s
  else if row = 4 then (if s.canRamp then s.railsUp.rowDone 4 else s)
  else if row = 5 then (if s.rst.row = 4 then s.rowDone 5 else s)
  else if row = 6 then
    (if s.rst.row = 5 && !s.dieSettled d then (s.modDie d fun x => { x with released := 1 }).row6 else s)
  else if row = 7 then
    (if (s.die (edgeDies d).1).released ≠ 0 && (s.die (edgeDies d).2).released ≠ 0 && !s.rst.edges.contains d then
      let s1 := { s with rst := { s.rst with edges := d :: s.rst.edges } }
      if s.rst.row = 6 then s1.row7 else s1
    else if s.rst.row = 6 then s.row7
    else s)
  else if row = 8 then
    (if s.rst.row = 7 then
      (List.range 16).foldl (fun s p =>
        if (s.port p).st = .down then s.portMove p fun x => { x with st := .training, since := s.now } else s) (s.rowDone 8)
    else s)
  else s

def execReleaseWaveStage (row d : Nat) (s : State) : Out :=
  onInst (4 ≤ row && row ≤ 8 && d < 4) s fun s => s.waveStage row d

/-- A die whose stage fails to acknowledge within 10 ms is fenced whole and its stacks are lost (R454); the log has no type for it, so
that its TYPE is a free value. -/
def State.stageTimeout (s : State) (d : Nat) : State :=
  if s.rst.low || s.rst.row ≠ 5 || s.dieSettled d || s.now < s.rst.rowAt + 10000000 then s
  else
    let s1 := (List.range 5).foldl (fun s k => s.loseStack (5 * d + k)) (s.fenceDie d)
    ((s1.modDie d fun x => { x with fenced := true }).logInvalid 6 d).row6

def execReleaseStageTimeout (d : Nat) (s : State) : Out := onInst (d < 4) s fun s => s.stageTimeout d

/-! Capstan restart. -/

/-- Whether a waiting command belongs to a mailbox or is a register write, so that it is done again after a restart. -/
def survives (i : Instr) : Bool :=
  match callOf i with
  | some c => match c.src with | .mbx _ => true | .session _ => false | .fabric _ => false
  | none => true

/-- R428: mailboxes keep OWNER and are served again; sessions and fabric requests are lost. A block reset runs on in
hardware, and its command is repeated. -/
def State.capRestart (s : State) : State :=
  let s1 := s.modCap fun k => { k with
    run := .restarting, restarts := inc16 k.restarts, sessions := List.replicate 8 none, lastTurn := 5
    lastMbx := [15, 15, 15, 15] }
  { s1 with
    fabric := { s1.fabric with mgtGot := [] }
    awaiting := s1.awaiting.filter survives
    standby := { s1.standby with capRestarts := inc16 s1.standby.capRestarts }
    rst := { s1.rst with blk := s1.rst.blk.map fun b => { b with call := none } } }

def execCapstanRestart (s : State) : Out :=
  .next (match s.cap.run with
    | .running | .restarting => s.capRestart
    | .booting | .recovery => s)

/-- The command is complete before the restart, so that it is not carried out again. -/
def execRstCapstan (c : Call) (s : State) : Out :=
  .next (capstanRun (.rstCapstan c) c (cmdC 0x0803 .owner) (fun s => s.capRestart.ok) s)

/-! Partition reset. -/

/-- Whether a request or flag line comes from a tile of a partition. -/
def State.fromPart (s : State) (p : Nat) (who : Who) : Bool :=
  match who with
  | .tile t _ _ => s.partOfTile t == some p
  | .remote _ _ => false
  | .core => false
  | .engine _ => false

/-- A tile after a reset of its own; instruction numbers are never used again. -/
def Tile.cleared (x : Tile) : Tile := { Tile.init with nextId := x.nextId }

/-- The requests of a partition that are on their way are gone with its tiles. -/
def State.dropRequests (s : State) (p : Nat) : State :=
  { s with
    dies := s.dies.map fun (d : Die) => { d with
      slices := d.slices.map fun (h : HomeSlice) => { h with waiting := h.waiting.filter fun q => !s.fromPart p q.who }
      flags := d.flags.filter fun f => !(s.fromPart p f.who || f.part == p)
      flagWait := d.flagWait.filter fun f => !(s.fromPart p f.who || f.part == p) }
    tileReqs := s.tileReqs.filter fun q => !(s.fromPart p q.2.who || s.partOfTile q.1 == some p)
    fly := s.fly.filter fun f => s.partOfTile f.tile != some p
    fabric := { s.fabric with
      reqs := s.fabric.reqs.filter fun q => q.part != p
      windows := s.fabric.windows.filter fun w => w.2.part != p } }

/-- A die's engines, ledgers, fault queue and partition monitors return to their reset values (Table 15-2, R472, R484). -/
def Die.partReset (x : Die) : Die :=
  { x with
    lineCredits := 16384, itemCredits := 4096, faultQ := [], obsStep := none
    reef := { Reef.init with credHeld := x.reef.credHeld }
    upd := { Upd.init with repair := x.upd.repair, repaired := x.upd.repaired }
    mons := (List.replicate 224 Monitor.init) ++ x.mons.drop 224
    energy := Energy.init }

/-- The partition's records are cleared; its page's counts and enable stay. -/
def ErrPage.clearRecs (p : ErrPage) : ErrPage := { p with recs := List.replicate 32 EvRec.zero, head := 0, tail := 0 }

/-- Ends a bind that still waits for its regions (R375). -/
def State.dropBind (s : State) (p : Nat) : State :=
  match (s.part p).binding with
  | some c => s.reply c 0x0202 (s.answer stBusy)
  | none => s

/-- The effect of a partition reset (Table 15-2); the allocations of its image end (R227). -/
def State.partReset (s : State) (p : Nat) : State :=
  let s0 := ((s.endDump p).dropBind p).dropRequests p
  let s1 := (s0.tilesOf p).foldl (fun s t => (s.modTile t Tile.cleared).sramZero t) s0
  let s2 := (s1.diesOf p).foldl (fun s d => s.modDie d Die.partReset) s1
  let s3 := s2.unmapDump p
  let s4 : State := { s3 with allocs := s3.allocs.filter fun al => !(al.part == p && al.fromImage) }
  let s5 := s4.modGeode p fun g => { g with frozen := false, phase := .none, trigs := [] }
  let s6 := s5.modPage (p + 1) ErrPage.clearRecs
  let s7 := s6.modPart p fun x => { x with bound := none, launched := false, binding := none }
  if s7.power.ballastPart = some p then s7.stopBallast else s7

def execRstPartition (c : Call) (s : State) : Out :=
  .next (capstanRun (.rstPartition c) c (cmdC 0x0801 .job) (fun s => (s.partReset (Call.part c)).ok) s)

/-! Block reset. -/

/-- How many blocks of a kind there are. -/
def blockCount : BlockKind → Nat
  | .tile => 384
  | .reef => 4
  | .update => 4
  | .hbmCtrl => 20
  | .fabricPort => 16
  | .strata => 4

/-- The condition of Table 15-4. -/
def State.blockAllowed (s : State) (k : BlockKind) (idx : Nat) : Bool :=
  let free := fun p : Option Nat => match p with
    | some p => (s.part p).bound.isNone || (s.geode p).frozen
    | none => true
  match k with
  | .tile => free (s.partOfTile idx)
  | .reef => free (s.partOfDie idx)
  | .update => free (s.partOfDie idx)
  | .hbmCtrl => true
  | .fabricPort => true
  | .strata => true

/-- Whether a request waits at a block: for a stack at a home slice of its die, for a tile at its SRAM. -/
def State.reqAt (s : State) (k : BlockKind) (idx : Nat) (q : HomeReq) : Bool :=
  match k with
  | .hbmCtrl => match s.allocOfReq q with
    | some al => (place al q.off).1 == idx
    | none => false
  | _ => false

def State.flagAt (s : State) (k : BlockKind) (idx : Nat) (f : FlagLine) : Bool :=
  match k with
  | .tile => isTileSram f.off && tileOfOff f.off == idx
  | .hbmCtrl => !isTileSram f.off && match s.allocAt f.part f.off with
    | some al => (place al f.off).1 == idx
    | none => false
  | _ => false

/-- The operations outstanding at a block. -/
def State.outstanding (s : State) (k : BlockKind) (idx : Nat) : List Who :=
  let homes := (s.dies.map fun d => (d.slices.map fun h => (h.waiting.filter (s.reqAt k idx)).map fun q => q.who).flatten).flatten
  let flags := (s.dies.map fun d => ((d.flags ++ d.flagWait).filter (s.flagAt k idx)).map fun f => f.who).flatten
  match k with
  | .tile => ((s.tileReqs.filter fun q => q.1 == idx).map fun q => q.2.who) ++ flags
  | .hbmCtrl => homes ++ flags
  | .fabricPort => ((s.port idx).out.filterMap s.reqOfPkt).map fun q => q.who
  | .reef => []
  | .update => []
  | .strata => []

/-- What of it was outstanding when the reset began and still is. -/
def State.leftOpen (s : State) (b : BlkReset) : List Who := (s.outstanding b.kind b.idx).filter fun w => b.open_.contains w

/-- A decision that an update engine has not acted on is an operation of it. -/
def State.updOpen (s : State) (b : BlkReset) : Bool := b.kind == .update && (s.die b.idx).upd.todo.isSome

/-- Whether the block is idle. -/
def State.blockIdle (s : State) (b : BlkReset) : Bool :=
  (s.leftOpen b).isEmpty && !s.updOpen b && !(b.kind == .fabricPort && !(s.port b.idx).replay.isEmpty)

/-- The node offset of a tile's request. -/
def State.offOfWho (s : State) (w : Who) : Nat :=
  match w with
  | .tile t op r => match (s.tile t).ops.find? fun o => o.info.id == op with
    | some o => o.reqOff r
    | none => 0
  | .remote _ _ => 0
  | .core => 0
  | .engine _ => 0

/-- Takes an operation out of wherever it waits and ends it at its requester with ABORTED; a flag line of another node is
refused. -/
def State.abortOp (s : State) (w : Who) : State :=
  let lines := (s.dies.map fun d => (d.flags ++ d.flagWait).filter fun f => f.who == w).flatten
  let s1 := { s with
    dies := s.dies.map fun (d : Die) => { d with
      slices := d.slices.map fun (h : HomeSlice) => { h with waiting := h.waiting.filter fun q => q.who != w }
      flags := d.flags.filter fun f => f.who != w
      flagWait := d.flagWait.filter fun f => f.who != w }
    tileReqs := s.tileReqs.filter fun q => q.2.who != w
    fabric := { s.fabric with
      reqs := s.fabric.reqs.filter fun q => q.who != w
      ports := s.fabric.ports.map fun (x : Port) => { x with
        out := x.out.filter fun o => match s.reqOfPkt o with | some q => q.who != w | none => true } } }
  let s2 := [0, 1, 2, 3].foldl State.flagFill (lines.foldl (fun s fl => s.tellFlag fl ptRefuse 0 rsTargetFault) s1)
  s2.answer_ w (.aborted (s.offOfWho w)) [] none

/-- Frees the credits that a tile's requests hold (R234). -/
def State.freeCredits (s : State) (t : Nat) : State :=
  (s.tile t).ops.foldl (fun s o =>
    let n := o.flying.length + o.resps.length
    s.modDie (dieOfTile t) fun d =>
      if o.isItem then { d with itemCredits := d.itemCredits + n } else { d with lineCredits := d.lineCredits + n }) s

/-- A Reef engine's staging state and latches are cleared; its image sections stand. -/
def Reef.clearState (e : Reef) : Reef :=
  { e with
    buckets := e.buckets.map fun (b : Bucket) => { b with taken := 0, amax := none, outDone := false, f32Sent := false }
    groups := e.groups.map fun (x : GroupSt) => { x with
      step := none, closedAt := none, closeOp := none, reportLeft := false, reportAt := 0, timedOut := false, children := []
      vetoSeen := Veto.none, retries := 0, decided := none }
    contribs := [], marks := [], f32 := [], latch := [Veto.none, Veto.none], lateStep := none }

/-- A stack's contents after its controller's reset: kept only if no refresh was missed, which nothing here tells (R458). -/
def State.afterRetrain (s : State) (k : Nat) : State :=
  let (w, s1) := s.drawFree
  if bit w.toNat 0 then s1
  else { s1 with
    hbm := s1.hbm.filter fun c => stackOfKey c.1 != k, poison := s1.poison.filter fun l => stackOfKey (l * 64) != k }

/-- The effect of a block's reset (Tables 15-2, 15-4). -/
def State.resetBlock (s : State) (k : BlockKind) (idx : Nat) : State :=
  match k with
  | .tile => ((s.freeCredits idx).modTile idx Tile.cleared).sramZero idx
  | .reef => s.modReef idx Reef.clearState
  | .update => s.modUpd idx fun u => { u with preDone := none, todo := none, position := 0 }
  | .hbmCtrl => (s.afterRetrain idx).modStk idx fun x => { x with training := !x.lost }
  | .fabricPort =>
    if (s.port idx).st = .disabled then s
    else s.portMove idx fun x => { x.fresh with st := .training, since := s.now }
  | .strata => s.modDie idx fun x => { x with mons := List.replicate 256 Monitor.init }

/-- Ends a block reset: what is left is ABORTED, the block is reset, and the command is answered. -/
def State.endBlock (s : State) (b : BlkReset) (idle : Bool) : State :=
  let left := s.leftOpen b
  let pend := s.updOpen b
  let n := left.length + natOfBool pend
  let s1 := match (s.die b.idx).upd.todo with
    | some (step, _) => if pend then s.setVeto b.idx step Veto.error (0x0400 + b.idx) 0 0 else s
    | none => s
  let s2 := (left.foldl State.abortOp s1).resetBlock b.kind b.idx
  let result := natOfBool idle + n % 2 ^ 16 * 2 ^ 16
  let s3 := ({ s2 with rst := { s2.rst with blk := none } }).log 0x0011 0xFF [result]
  match b.call with
  | some c =>
    let a := s3.ok
    let s4 := s3.putTxn ⟨c.msg.txn, c.msg.hash, 0x0802, stOk, BitVec.ofNat 64 result⟩ c.src
    s4.reply c 0x0802 { a with s := s4, result := BitVec.ofNat 64 result }
  | none => s3

/-- R458: a block reset begins; one at a time. After a Capstan restart the repeated command waits for the reset that runs
in hardware. -/
def execRstBlock (c : Call) (b : BlockKind) (idx timeoutUs : Nat) (s : State) : Out :=
  .next (capstanRun (.rstBlock c b idx timeoutUs) c (cmdC 0x0802 .owner) (fun s =>
    let wait : Answer := { s.ok with later := true }
    if blockCount b ≤ idx || 10000 < timeoutUs then s.answer stRange
    else match s.rst.blk with
      | some r => if r.call.isNone || r.call = some c then wait else s.answer stBusy
      | none =>
        if !s.blockAllowed b idx then s.answer stBusy
        else
          let us := if timeoutUs = 0 then 50 else timeoutUs
          let r : BlkReset := ⟨b, idx, s.now + 1000 * us, s.outstanding b idx, some c⟩
          let a := ({ s with rst := { s.rst with blk := some r } }).ok
          { a with later := true }) s)

/-- The drain ends, or TIMEOUT passes; a completion wins over the expiry. -/
def execBlockResetIdle (timedOut : Bool) (s : State) : Out :=
  .next (match s.rst.blk with
    | none => s
    | some b =>
      if s.blockIdle b then s.endBlock b true
      else if timedOut && b.until_ ≤ s.now then s.endBlock b false
      else s)

end Sys2Proof.Machine
end

