-- ==== Sys2Proof/Machine/Resume.lean ====
section
/-! DEFINITION. The end of an MRAM write pulse (R451), and with it of the commits that the Capstan waits for (R424). -/
namespace Sys2Proof.Machine

/-- Carries out a command that waited for the MRAM port. -/
def resume (i : Instr) (s : State) : State :=
  match i with
  | .hello c major minor => outState (execHello c major minor s) s
  | .sysQuery c => outState (execSysQuery c s) s
  | .sysPartition c masks => outState (execSysPartition c masks s) s
  | .sysCarveout c gib => outState (execSysCarveout c gib s) s
  | .sysNet c mac ipv4 ipv6 => outState (execSysNet c mac ipv4 ipv6 s) s
  | .memMap c a => outState (execMemMap c a s) s
  | .memUnmap c allocId => outState (execMemUnmap c allocId s) s
  | .memFill c dst len src => outState (execMemFill c dst len src s) s
  | .memChecksum c base blocks => outState (execMemChecksum c base blocks s) s
  | .memHold c => outState (execMemHold c s) s
  | .memRelease c => outState (execMemRelease c s) s
  | .memScrub c hours => outState (execMemScrub c hours s) s
  | .progLoad c ofs size sign key => outState (execProgLoad c ofs size sign key s) s
  | .progBind c handle seed => outState (execProgBind c handle seed s) s
  | .progLaunch c beatBase => outState (execProgLaunch c beatBase s) s
  | .progAbort c => outState (execProgAbort c s) s
  | .progUnbind c => outState (execProgUnbind c s) s
  | .progKey c slot key => outState (execProgKey c slot key s) s
  | .fabJoin c j => outState (execFabJoin c j s) s
  | .fabLeave c => outState (execFabLeave c s) s
  | .fabGroup c g => outState (execFabGroup c g s) s
  | .fabWindow c w node => outState (execFabWindow c w node s) s
  | .fabParam c throttleNs => outState (execFabParam c throttleNs s) s
  | .fabQuery c => outState (execFabQuery c s) s
  | .fabRoute c first entries => outState (execFabRoute c first entries s) s
  | .fabGateway c n at_ => outState (execFabGateway c n at_ s) s
  | .fabPort c port op => outState (execFabPort c port op s) s
  | .pwrCeiling c watts => outState (execPwrCeiling c watts s) s
  | .pwrPriority c p prio => outState (execPwrPriority c p prio s) s
  | .pwrRequest c req gmax => outState (execPwrRequest c req gmax s) s
  | .pwrTetherKey c slot key => outState (execPwrTetherKey c slot key s) s
  | .pwrDerate c metres => outState (execPwrDerate c metres s) s
  | .pwrCartPolicy c root grace rootHash => outState (execPwrCartPolicy c root grace rootHash s) s
  | .pwrTune c x => outState (execPwrTune c x s) s
  | .pwrMeter c fromSeq count => outState (execPwrMeter c fromSeq count s) s
  | .tetherCeiling c watts at_ rampEn => outState (execTetherCeiling c watts at_ rampEn s) s
  | .tetherSchedule c start watts => outState (execTetherSchedule c start watts s) s
  | .tetherClear c => outState (execTetherClear c s) s
  | .tetherStatus c => outState (execTetherStatus c s) s
  | .meterFetch c fromSeq count => outState (execMeterFetch c fromSeq count s) s
  | .timeSource c src domain master => outState (execTimeSource c src domain master s) s
  | .timeSet c x utcOfs => outState (execTimeSet c x utcOfs s) s
  | .timeShift c shift => outState (execTimeShift c shift s) s
  | .timeStatus c => outState (execTimeStatus c s) s
  | .secOwnerClaim c key => outState (execSecOwnerClaim c key s) s
  | .secOwnerRelease c => outState (execSecOwnerRelease c s) s
  | .secAttest c nonce => outState (execSecAttest c nonce s) s
  | .secCerts c piece => outState (execSecCerts c piece s) s
  | .secRevoke c lms slot => outState (execSecRevoke c lms slot s) s
  | .secDebugDisable c => outState (execSecDebugDisable c s) s
  | .secDebugOpen c => outState (execSecDebugOpen c s) s
  | .secFabricLock c lock node => outState (execSecFabricLock c lock node s) s
  | .secFwWrite c ofs data => outState (execSecFwWrite c ofs data s) s
  | .secFwActivate c => outState (execSecFwActivate c s) s
  | .secFwCommit c => outState (execSecFwCommit c s) s
  | .cntFaults c max => outState (execCntFaults c max s) s
  | .cntStrataConfig c d m cfg alarm => outState (execCntStrataConfig c d m cfg alarm s) s
  | .cntStrataRead c d ms => outState (execCntStrataRead c d ms s) s
  | .cntStrataClear c d m => outState (execCntStrataClear c d m s) s
  | .cntStrataAck c d m => outState (execCntStrataAck c d m s) s
  | .cntStrataEnergy c d => outState (execCntStrataEnergy c d s) s
  | .cntDumpTrigger c => outState (execCntDumpTrigger c s) s
  | .cntDumpMap c => outState (execCntDumpMap c s) s
  | .cntDumpKeep c keep => outState (execCntDumpKeep c keep s) s
  | .cntDumpFabTrig c => outState (execCntDumpFabTrig c s) s
  | .cntDumpStatus c => outState (execCntDumpStatus c s) s
  | .rstPartition c => outState (execRstPartition c s) s
  | .rstBlock c b idx timeoutUs => outState (execRstBlock c b idx timeoutUs s) s
  | .rstCapstan c => outState (execRstCapstan c s) s
  | .rstModule c => outState (execRstModule c s) s
  | .pwrCeilOwnerWrite b v => outState (execPwrCeilOwnerWrite b v s) s
  | .thmCartPolicyWrite b v => outState (execThmCartPolicyWrite b v s) s
  | _ => s

/-- The waiting commands run in order until one of them starts another write. -/
def resumeAll : Nat → State → State
  | 0, s => s
  | n + 1, s =>
    match s.awaiting with
    | [] => s
    | i :: r => if s.mramIdle then resumeAll n (resume i { s with awaiting := r }) else s

/-- A stack's training ends; what waited for its controller goes on. -/
def State.trained (s : State) (k : Nat) (failing : List Nat) (beyond : Bool) : State :=
  let s1 := s.linkTrain k failing beyond
  if !(s.stk k).training || (s1.stk k).training then s1
  else
    let s2 := [0, 1, 2, 3].foldl (fun s p => if s.defined p then s.wake p else s) s1
    (resumeAll s2.awaiting.length s2).coreGo

/-- The pulse ends: its write has landed. A reset that was held back takes effect; else a first-fault record goes next, then the
commits of the commands that waited for the port (HSS, keys and Slate stand before other records in Table 14-11), then the
other writes. -/
def State.pulseEnd (s : State) : State :=
  match s.mram.pulse with
  | none => s
  | some q =>
    let s1 := s.mramLand q
    let s2 := { s1 with mram := { s1.mram with pulse := none } }
    match s2.mram.held with
    | some (.module cause) => s2.clearModule cause
    | none =>
      let s3 := if s2.mram.waiting.any fun q => q.cls == .firstFault then { s2 with mram := s2.mram.start } else s2
      let s4 := resumeAll s3.awaiting.length s3
      if s4.mram.pulse.isSome then s4 else { s4 with mram := s4.mram.start }

def execHbmLinkTraining (stack : Nat) (failing : List Nat) (beyondSpare : Bool) (s : State) : Out :=
  onInst (stack < 20) s fun s => s.trained stack failing beyondSpare

def execMramPulseEnd (s : State) : Out := .next s.pulseEnd

end Sys2Proof.Machine
end

