-- ==== Sys2Proof/Machine/Dispatch.lean ====
section
/-! DEFINITION. The dispatch of a command to its meaning: one arm per constructor of Instr. -/
namespace Sys2Proof.Machine

def exec (i : Instr) (s : State) : Host.Outcome State Fault Refusal :=
  match i with
  | .nop t => Sys2Proof.Machine.execNop t s
  | .endStrand t => Sys2Proof.Machine.execEndStrand t s
  | .wait t tok n => Sys2Proof.Machine.execWait t tok n s
  | .signal t tok after tile cnt => Sys2Proof.Machine.execSignal t tok after tile cnt s
  | .signalArrival k => Sys2Proof.Machine.execSignalArrival k s
  | .loop t trips back => Sys2Proof.Machine.execLoop t trips back s
  | .sli t xd imm => Sys2Proof.Machine.execSli t xd imm s
  | .sadd t xd xa imm => Sys2Proof.Machine.execSadd t xd xa imm s
  | .fence t mask => Sys2Proof.Machine.execFence t mask s
  | .sstat t xd sel => Sys2Proof.Machine.execSstat t xd sel s
  | .orel t scope => Sys2Proof.Machine.execOrel t scope s
  | .oacq t scope => Sys2Proof.Machine.execOacq t scope s
  | .ofull t scope => Sys2Proof.Machine.execOfull t scope s
  | .mma t f => Sys2Proof.Machine.execMma t f s
  | .mscl t set src => Sys2Proof.Machine.execMscl t set src s
  | .scaleSetLoad t => Sys2Proof.Machine.execScaleSetLoad t s
  | .mflag t dst clr => Sys2Proof.Machine.execMflag t dst clr s
  | .feederDeliver t isB idx upset => Sys2Proof.Machine.execFeederDeliver t isB idx upset s
  | .dpuAccumulate t n j upset => Sys2Proof.Machine.execDpuAccumulate t n j upset s
  | .columnDrain t j => Sys2Proof.Machine.execColumnDrain t j s
  | .queueHandoff t => Sys2Proof.Machine.execQueueHandoff t s
  | .splicePanelWrite t => Sys2Proof.Machine.execSplicePanelWrite t s
  | .vld t f upset => Sys2Proof.Machine.execVld t f upset s
  | .vst t f => Sys2Proof.Machine.execVst t f s
  | .vpop t f => Sys2Proof.Machine.execVpop t f s
  | .queueEntryFree t => Sys2Proof.Machine.execQueueEntryFree t s
  | .valu t f => Sys2Proof.Machine.execValu t f s
  | .vfnOp t f => Sys2Proof.Machine.execVfnOp t f s
  | .vred t f => Sys2Proof.Machine.execVred t f s
  | .vsmx t f => Sys2Proof.Machine.execVsmx t f s
  | .vperm t f => Sys2Proof.Machine.execVperm t f s
  | .vshuf t f => Sys2Proof.Machine.execVshuf t f s
  | .vpack t f => Sys2Proof.Machine.execVpack t f s
  | .vunpk t f => Sys2Proof.Machine.execVunpk t f s
  | .vqk4 t f => Sys2Proof.Machine.execVqk4 t f s
  | .vmxiImport t f el => Sys2Proof.Machine.execVmxiImport t f el s
  | .vmxiScan t f => Sys2Proof.Machine.execVmxiScan t f s
  | .vrng t f => Sys2Proof.Machine.execVrng t f s
  | .vmask t f => Sys2Proof.Machine.execVmask t f s
  | .vlossAdd t f => Sys2Proof.Machine.execVlossAdd t f s
  | .vlossDump t f => Sys2Proof.Machine.execVlossDump t f s
  | .vtree t f => Sys2Proof.Machine.execVtree t f s
  | .vscmp t f => Sys2Proof.Machine.execVscmp t f s
  | .vamax t f => Sys2Proof.Machine.execVamax t f s
  | .vflag t f => Sys2Proof.Machine.execVflag t f s
  | .vsetStep t f => Sys2Proof.Machine.execVsetStep t f s
  | .vsetVetoMask t f => Sys2Proof.Machine.execVsetVetoMask t f s
  | .vsetSeqtab t f => Sys2Proof.Machine.execVsetSeqtab t f s
  | .vxeResultWrite t k => Sys2Proof.Machine.execVxeResultWrite t k s
  | .prd t f => Sys2Proof.Machine.execPrd t f s
  | .pwr t f => Sys2Proof.Machine.execPwr t f s
  | .pland t f => Sys2Proof.Machine.execPland t f s
  | .pgath t f => Sys2Proof.Machine.execPgath t f s
  | .pscat t f => Sys2Proof.Machine.execPscat t f s
  | .pamo t f => Sys2Proof.Machine.execPamo t f s
  | .porterRequestComplete t op req crc => Sys2Proof.Machine.execPorterRequestComplete t op req crc s
  | .reefPut t f => Sys2Proof.Machine.execReefPut t f s
  | .reefClose t group sigTok sig => Sys2Proof.Machine.execReefClose t group sigTok sig s
  | .strandLaunch t => Sys2Proof.Machine.execStrandLaunch t s
  | .strandComplete t slot => Sys2Proof.Machine.execStrandComplete t slot s
  | .reexecution t slot => Sys2Proof.Machine.execReexecution t slot s
  | .strandWatchdog t slot => Sys2Proof.Machine.execStrandWatchdog t slot s
  | .controlRegisterWrite byCapstan off width v => Sys2Proof.Machine.execControlRegisterWrite byCapstan off width v s
  | .lnyAdjWrite byCapstan v => Sys2Proof.Machine.execLnyAdjWrite byCapstan v s
  | .lnySetWrite byCapstan v => Sys2Proof.Machine.execLnySetWrite byCapstan v s
  | .lnyTrimWrite byCapstan v => Sys2Proof.Machine.execLnyTrimWrite byCapstan v s
  | .hchCtrlWrite byCapstan v => Sys2Proof.Machine.execHchCtrlWrite byCapstan v s
  | .mbxHandover n v => Sys2Proof.Machine.execMbxHandover n v s
  | .errTailWrite sc v => Sys2Proof.Machine.execErrTailWrite sc v s
  | .errStatusRead sc w => Sys2Proof.Machine.execErrStatusRead sc w s
  | .errFaultqRead sc w => Sys2Proof.Machine.execErrFaultqRead sc w s
  | .errScopeCntRead d w => Sys2Proof.Machine.execErrScopeCntRead d w s
  | .pwrInrushRead w => Sys2Proof.Machine.execPwrInrushRead w s
  | .strStatRead d m w => Sys2Proof.Machine.execStrStatRead d m w s
  | .pwrCeilOwnerWrite byCapstan v => Sys2Proof.Machine.execPwrCeilOwnerWrite byCapstan v s
  | .thmCartPolicyWrite byCapstan v => Sys2Proof.Machine.execThmCartPolicyWrite byCapstan v s
  | .hitchPulse => Sys2Proof.Machine.execHitchPulse s
  | .hitchCalibration delays => Sys2Proof.Machine.execHitchCalibration delays s
  | .lnySlewStep => Sys2Proof.Machine.execLnySlewStep s
  | .timerFire n => Sys2Proof.Machine.execTimerFire n s
  | .ptpMessage x => Sys2Proof.Machine.execPtpMessage x s
  | .ppsEdge => Sys2Proof.Machine.execPpsEdge s
  | .timeTransferStart => Sys2Proof.Machine.execTimeTransferStart s
  | .holdoverEntry => Sys2Proof.Machine.execHoldoverEntry s
  | .holdoverTick => Sys2Proof.Machine.execHoldoverTick s
  | .hintPulse beat => Sys2Proof.Machine.execHintPulse beat s
  | .gearRampAction a => Sys2Proof.Machine.execGearRampAction a s
  | .powerGoodCheck failing => Sys2Proof.Machine.execPowerGoodCheck failing s
  | .hbmRateChange d => Sys2Proof.Machine.execHbmRateChange d s
  | .hbmLinkTraining stack failing beyondSpare => Sys2Proof.Machine.execHbmLinkTraining stack failing beyondSpare s
  | .gearSwitch => Sys2Proof.Machine.execGearSwitch s
  | .gearChangeComplete => Sys2Proof.Machine.execGearChangeComplete s
  | .cleatAssert sources => Sys2Proof.Machine.execCleatAssert sources s
  | .cleatRelease => Sys2Proof.Machine.execCleatRelease s
  | .cleatHoldExpiry => Sys2Proof.Machine.execCleatHoldExpiry s
  | .droopTrip r det => Sys2Proof.Machine.execDroopTrip r det s
  | .droopRelease r => Sys2Proof.Machine.execDroopRelease r s
  | .homeSliceOperation d slice parity => Sys2Proof.Machine.execHomeSliceOperation d slice parity s
  | .cacheEvict d line => Sys2Proof.Machine.execCacheEvict d line s
  | .scrubBlock d block => Sys2Proof.Machine.execScrubBlock d block s
  | .hbmTempRead stack temp => Sys2Proof.Machine.execHbmTempRead stack temp s
  | .releaseBegin t op => Sys2Proof.Machine.execReleaseBegin t op s
  | .flagLand d k => Sys2Proof.Machine.execFlagLand d k s
  | .flagBufferGrant d => Sys2Proof.Machine.execFlagBufferGrant d s
  | .dataFlit port x => Sys2Proof.Machine.execDataFlit port x s
  | .idleFlit port x => Sys2Proof.Machine.execIdleFlit port x s
  | .ackSend port => Sys2Proof.Machine.execAckSend port s
  | .linkHello port c h => Sys2Proof.Machine.execLinkHello port c h s
  | .timeReq port c t1 => Sys2Proof.Machine.execTimeReq port c t1 s
  | .timeRsp port c t1 t2 t3 => Sys2Proof.Machine.execTimeRsp port c t1 t2 t3 s
  | .retrain port c lanes reason => Sys2Proof.Machine.execRetrain port c lanes reason s
  | .ctrlRepeat port => Sys2Proof.Machine.execCtrlRepeat port s
  | .pmdTrainingDone port lanes => Sys2Proof.Machine.execPmdTrainingDone port lanes s
  | .helloTimeout port => Sys2Proof.Machine.execHelloTimeout port s
  | .portRestart port => Sys2Proof.Machine.execPortRestart port s
  | .laneFail port lane uncorrectable => Sys2Proof.Machine.execLaneFail port lane uncorrectable s
  | .retrainDone port => Sys2Proof.Machine.execRetrainDone port s
  | .retrainTimeout port => Sys2Proof.Machine.execRetrainTimeout port s
  | .packetForward k => Sys2Proof.Machine.execPacketForward k s
  | .packetSend port => Sys2Proof.Machine.execPacketSend port s
  | .readReq k => Sys2Proof.Machine.execReadReq k s
  | .readItemReq k => Sys2Proof.Machine.execReadItemReq k s
  | .writeReq k => Sys2Proof.Machine.execWriteReq k s
  | .writeItemReq k => Sys2Proof.Machine.execWriteItemReq k s
  | .atomicReq k => Sys2Proof.Machine.execAtomicReq k s
  | .landReq k => Sys2Proof.Machine.execLandReq k s
  | .readRsp k => Sys2Proof.Machine.execReadRsp k s
  | .itemRsp k => Sys2Proof.Machine.execItemRsp k s
  | .writeAck k => Sys2Proof.Machine.execWriteAck k s
  | .atomicRsp k => Sys2Proof.Machine.execAtomicRsp k s
  | .landAck k => Sys2Proof.Machine.execLandAck k s
  | .landHeld k => Sys2Proof.Machine.execLandHeld k s
  | .landGo k => Sys2Proof.Machine.execLandGo k s
  | .landCancel k => Sys2Proof.Machine.execLandCancel k s
  | .refuse k => Sys2Proof.Machine.execRefuse k s
  | .mgtMsg k => Sys2Proof.Machine.execMgtMsg k s
  | .mgtRsp k => Sys2Proof.Machine.execMgtRsp k s
  | .fabTimeout txn => Sys2Proof.Machine.execFabTimeout txn s
  | .flagExpiry d k => Sys2Proof.Machine.execFlagExpiry d k s
  | .fabThrottle t => Sys2Proof.Machine.execFabThrottle t s
  | .contrib k => Sys2Proof.Machine.execContrib k s
  | .resend k => Sys2Proof.Machine.execResend k s
  | .reportSend d g => Sys2Proof.Machine.execReportSend d g s
  | .report k => Sys2Proof.Machine.execReport k s
  | .decision k => Sys2Proof.Machine.execDecision k s
  | .decisionTimeout d g => Sys2Proof.Machine.execDecisionTimeout d g s
  | .f32Up k => Sys2Proof.Machine.execF32Up k s
  | .f32Down k => Sys2Proof.Machine.execF32Down k s
  | .preDecisionPass d => Sys2Proof.Machine.execPreDecisionPass d s
  | .commitPass d => Sys2Proof.Machine.execCommitPass d s
  | .feedSample va ia vb ib => Sys2Proof.Machine.execFeedSample va ia vb ib s
  | .feedSag f => Sys2Proof.Machine.execFeedSag f s
  | .feedSagEnd f => Sys2Proof.Machine.execFeedSagEnd f s
  | .feedOvervoltage f => Sys2Proof.Machine.execFeedOvervoltage f s
  | .feedLoss f => Sys2Proof.Machine.execFeedLoss f s
  | .feedReadmit f => Sys2Proof.Machine.execFeedReadmit f s
  | .standbyLoss => Sys2Proof.Machine.execStandbyLoss s
  | .plugLoopClose => Sys2Proof.Machine.execPlugLoopClose s
  | .plugLoopOpen => Sys2Proof.Machine.execPlugLoopOpen s
  | .hello c major minor => Sys2Proof.Machine.execHello c major minor s
  | .sysQuery c => Sys2Proof.Machine.execSysQuery c s
  | .sysPartition c masks => Sys2Proof.Machine.execSysPartition c masks s
  | .sysCarveout c gib => Sys2Proof.Machine.execSysCarveout c gib s
  | .sysNet c mac ipv4 ipv6 => Sys2Proof.Machine.execSysNet c mac ipv4 ipv6 s
  | .memMap c a => Sys2Proof.Machine.execMemMap c a s
  | .memUnmap c allocId => Sys2Proof.Machine.execMemUnmap c allocId s
  | .memFill c dst len src => Sys2Proof.Machine.execMemFill c dst len src s
  | .memChecksum c base blocks => Sys2Proof.Machine.execMemChecksum c base blocks s
  | .memHold c => Sys2Proof.Machine.execMemHold c s
  | .memRelease c => Sys2Proof.Machine.execMemRelease c s
  | .memScrub c hours => Sys2Proof.Machine.execMemScrub c hours s
  | .progLoad c ofs size sign key => Sys2Proof.Machine.execProgLoad c ofs size sign key s
  | .progBind c handle seed => Sys2Proof.Machine.execProgBind c handle seed s
  | .progLaunch c beatBase => Sys2Proof.Machine.execProgLaunch c beatBase s
  | .progAbort c => Sys2Proof.Machine.execProgAbort c s
  | .progUnbind c => Sys2Proof.Machine.execProgUnbind c s
  | .progKey c slot key => Sys2Proof.Machine.execProgKey c slot key s
  | .fabJoin c j => Sys2Proof.Machine.execFabJoin c j s
  | .fabLeave c => Sys2Proof.Machine.execFabLeave c s
  | .fabGroup c g => Sys2Proof.Machine.execFabGroup c g s
  | .fabWindow c w node => Sys2Proof.Machine.execFabWindow c w node s
  | .fabParam c throttleNs => Sys2Proof.Machine.execFabParam c throttleNs s
  | .fabQuery c => Sys2Proof.Machine.execFabQuery c s
  | .fabRoute c first entries => Sys2Proof.Machine.execFabRoute c first entries s
  | .fabGateway c n at_ => Sys2Proof.Machine.execFabGateway c n at_ s
  | .fabPort c port op => Sys2Proof.Machine.execFabPort c port op s
  | .pwrCeiling c watts => Sys2Proof.Machine.execPwrCeiling c watts s
  | .pwrPriority c p prio => Sys2Proof.Machine.execPwrPriority c p prio s
  | .pwrRequest c req gmax => Sys2Proof.Machine.execPwrRequest c req gmax s
  | .pwrTetherKey c slot key => Sys2Proof.Machine.execPwrTetherKey c slot key s
  | .pwrDerate c metres => Sys2Proof.Machine.execPwrDerate c metres s
  | .pwrCartPolicy c root grace rootHash => Sys2Proof.Machine.execPwrCartPolicy c root grace rootHash s
  | .pwrTune c x => Sys2Proof.Machine.execPwrTune c x s
  | .pwrMeter c fromSeq count => Sys2Proof.Machine.execPwrMeter c fromSeq count s
  | .tetherCeiling c watts at_ rampEn => Sys2Proof.Machine.execTetherCeiling c watts at_ rampEn s
  | .tetherSchedule c start watts => Sys2Proof.Machine.execTetherSchedule c start watts s
  | .tetherClear c => Sys2Proof.Machine.execTetherClear c s
  | .tetherStatus c => Sys2Proof.Machine.execTetherStatus c s
  | .meterFetch c fromSeq count => Sys2Proof.Machine.execMeterFetch c fromSeq count s
  | .timeSource c src domain master => Sys2Proof.Machine.execTimeSource c src domain master s
  | .timeSet c x utcOfs => Sys2Proof.Machine.execTimeSet c x utcOfs s
  | .timeShift c shift => Sys2Proof.Machine.execTimeShift c shift s
  | .timeStatus c => Sys2Proof.Machine.execTimeStatus c s
  | .secOwnerClaim c key => Sys2Proof.Machine.execSecOwnerClaim c key s
  | .secOwnerRelease c => Sys2Proof.Machine.execSecOwnerRelease c s
  | .secAttest c nonce => Sys2Proof.Machine.execSecAttest c nonce s
  | .secCerts c piece => Sys2Proof.Machine.execSecCerts c piece s
  | .secRevoke c lms slot => Sys2Proof.Machine.execSecRevoke c lms slot s
  | .secDebugDisable c => Sys2Proof.Machine.execSecDebugDisable c s
  | .secDebugOpen c => Sys2Proof.Machine.execSecDebugOpen c s
  | .secFabricLock c lock node => Sys2Proof.Machine.execSecFabricLock c lock node s
  | .secFwWrite c ofs data => Sys2Proof.Machine.execSecFwWrite c ofs data s
  | .secFwActivate c => Sys2Proof.Machine.execSecFwActivate c s
  | .secFwCommit c => Sys2Proof.Machine.execSecFwCommit c s
  | .cntFaults c max => Sys2Proof.Machine.execCntFaults c max s
  | .cntStrataConfig c d m cfg alarm => Sys2Proof.Machine.execCntStrataConfig c d m cfg alarm s
  | .cntStrataRead c d ms => Sys2Proof.Machine.execCntStrataRead c d ms s
  | .cntStrataClear c d m => Sys2Proof.Machine.execCntStrataClear c d m s
  | .cntStrataAck c d m => Sys2Proof.Machine.execCntStrataAck c d m s
  | .cntStrataEnergy c d => Sys2Proof.Machine.execCntStrataEnergy c d s
  | .cntDumpTrigger c => Sys2Proof.Machine.execCntDumpTrigger c s
  | .cntDumpMap c => Sys2Proof.Machine.execCntDumpMap c s
  | .cntDumpKeep c keep => Sys2Proof.Machine.execCntDumpKeep c keep s
  | .cntDumpFabTrig c => Sys2Proof.Machine.execCntDumpFabTrig c s
  | .cntDumpStatus c => Sys2Proof.Machine.execCntDumpStatus c s
  | .rstPartition c => Sys2Proof.Machine.execRstPartition c s
  | .rstBlock c b idx timeoutUs => Sys2Proof.Machine.execRstBlock c b idx timeoutUs s
  | .rstCapstan c => Sys2Proof.Machine.execRstCapstan c s
  | .rstModule c => Sys2Proof.Machine.execRstModule c s
  | .brickFail b => Sys2Proof.Machine.execBrickFail b s
  | .phaseFail r n => Sys2Proof.Machine.execPhaseFail r n s
  | .railRegulatorFail rail n => Sys2Proof.Machine.execRailRegulatorFail rail n s
  | .inrushGrant r neighbourPeak => Sys2Proof.Machine.execInrushGrant r neighbourPeak s
  | .gateRampDone r => Sys2Proof.Machine.execGateRampDone r s
  | .raiseCheck logicPower spreadEst => Sys2Proof.Machine.execRaiseCheck logicPower spreadEst s
  | .wearUpdate seconds => Sys2Proof.Machine.execWearUpdate seconds s
  | .stretchCheck r permille => Sys2Proof.Machine.execStretchCheck r permille s
  | .shareBudget pBase draws => Sys2Proof.Machine.execShareBudget pBase draws s
  | .ballastAdjust drawWithout => Sys2Proof.Machine.execBallastAdjust drawWithout s
  | .tetherCeilingChange => Sys2Proof.Machine.execTetherCeilingChange s
  | .meterRecord => Sys2Proof.Machine.execMeterRecord s
  | .meterSign => Sys2Proof.Machine.execMeterSign s
  | .dieSensorRead d temps => Sys2Proof.Machine.execDieSensorRead d temps s
  | .inletRead temp => Sys2Proof.Machine.execInletRead temp s
  | .blowerUpdate measured rpm => Sys2Proof.Machine.execBlowerUpdate measured rpm s
  | .blowerFail => Sys2Proof.Machine.execBlowerFail s
  | .cartChallenge c => Sys2Proof.Machine.execCartChallenge c s
  | .cartPresenceChange present => Sys2Proof.Machine.execCartPresenceChange present s
  | .cartLifeTick meanSpeed => Sys2Proof.Machine.execCartLifeTick meanSpeed s
  | .cartLifeWrite => Sys2Proof.Machine.execCartLifeWrite s
  | .mgtFrame fr => Sys2Proof.Machine.execMgtFrame fr s
  | .sessionExpiry k => Sys2Proof.Machine.execSessionExpiry k s
  | .capstanRestart => Sys2Proof.Machine.execCapstanRestart s
  | .blockResetIdle timedOut => Sys2Proof.Machine.execBlockResetIdle timedOut s
  | .resetNAssert pulseNs => Sys2Proof.Machine.execResetNAssert pulseNs s
  | .resetNRelease retest => Sys2Proof.Machine.execResetNRelease retest s
  | .loaderCheck => Sys2Proof.Machine.execLoaderCheck s
  | .releaseWaveStage row d => Sys2Proof.Machine.execReleaseWaveStage row d s
  | .releaseStageTimeout d => Sys2Proof.Machine.execReleaseStageTimeout d s
  | .refclkStop => Sys2Proof.Machine.execRefclkStop s
  | .strataSample x => Sys2Proof.Machine.execStrataSample x s
  | .strataPeriodSample d m => Sys2Proof.Machine.execStrataPeriodSample d m s
  | .energyCalibration d measured => Sys2Proof.Machine.execEnergyCalibration d measured s
  | .geodeTrigger p cause tile => Sys2Proof.Machine.execGeodeTrigger p cause tile s
  | .geodeSettle p => Sys2Proof.Machine.execGeodeSettle p s
  | .geodeWriteEnd p truncated => Sys2Proof.Machine.execGeodeWriteEnd p truncated s
  | .smbusBlockRead addr code pecOk => Sys2Proof.Machine.execSmbusBlockRead addr code pecOk s
  | .smbusAlertResponse => Sys2Proof.Machine.execSmbusAlertResponse s
  | .refclkRestart => Sys2Proof.Machine.execRefclkRestart s
  | .standbyValid => Sys2Proof.Machine.execStandbyValid s
  | .mramPulseEnd => Sys2Proof.Machine.execMramPulseEnd s
  | .tileSramLineRequest t upset => Sys2Proof.Machine.execTileSramLineRequest t upset s
  | .fabricWindowAccess w ofs op => Sys2Proof.Machine.execFabricWindowAccess w ofs op s
  | .amberRamRead ofs w parity => Sys2Proof.Machine.execAmberRamRead ofs w parity s

end Sys2Proof.Machine
end

