-- ==== Sys2Proof/Safety.lean ====
section
/-! DEFINITION. What counts as a safe run, and the conditions on a state that the statements name: memory in canonical
form, a tile with nothing in the way of its issuing strand, a message the Capstan accepts. -/
namespace Sys2Proof.Safety

open Sys2Proof.Machine

/-- The byte stores are in canonical form: addresses strictly rising, no listed byte equal to what an unlisted one reads. -/
def Memory.wf (s : State) : Bool :=
  cellsWf 0 s.sram && cellsWf 0 s.hbm && cellsWf 0 s.flash && cellsWf 0 s.standby.amber

/-- A step that stops nothing. -/
def goesOn (o : Out) : Bool :=
  match o with
  | .next _ => true
  | .fault _ => false
  | .refused _ => false

/-- The instance numbers a command names exist (Tables 00-1 and 00-2; 10, 13 and 14). -/
def instOk : Instr → Bool
  | .nop t | .endStrand t | .wait t .. | .signal t .. | .loop t .. | .sli t .. | .sadd t .. | .fence t .. | .sstat t .. | .orel t ..
  | .oacq t .. | .ofull t .. | .mma t .. | .mscl t .. | .scaleSetLoad t | .mflag t .. | .queueHandoff t | .splicePanelWrite t
  | .vld t .. | .vst t .. | .vpop t .. | .queueEntryFree t | .valu t .. | .vfnOp t .. | .vred t .. | .vsmx t .. | .vperm t ..
  | .vshuf t .. | .vpack t .. | .vunpk t .. | .vqk4 t .. | .vmxiImport t .. | .vmxiScan t .. | .vrng t .. | .vmask t ..
  | .vlossAdd t .. | .vlossDump t .. | .vtree t .. | .vscmp t .. | .vamax t .. | .vflag t .. | .vsetStep t .. | .vsetVetoMask t ..
  | .vsetSeqtab t .. | .vxeResultWrite t .. | .prd t .. | .pwr t .. | .pland t .. | .pgath t .. | .pscat t .. | .pamo t ..
  | .porterRequestComplete t .. | .reefPut t .. | .reefClose t .. | .strandLaunch t | .strandWatchdog t .. | .releaseBegin t ..
  | .fabThrottle t | .tileSramLineRequest t .. => decide (t < 384)
  | .strandComplete t k | .reexecution t k => decide (t < 384 ∧ k < 4)
  | .feederDeliver t _ i _ | .columnDrain t i => decide (t < 384 ∧ i < 16)
  | .dpuAccumulate t i j _ => decide (t < 384 ∧ i < 16 ∧ j < 16)
  | .timerFire n | .brickFail n | .sessionExpiry n => decide (n < 8)
  | .powerGoodCheck l => l.all fun r => decide (r < 32)
  | .hbmRateChange d | .cacheEvict d _ | .scrubBlock d _ | .flagLand d _ | .flagBufferGrant d | .flagExpiry d _
  | .preDecisionPass d | .commitPass d | .releaseStageTimeout d | .energyCalibration d _ | .geodeTrigger d .. | .geodeSettle d
  | .geodeWriteEnd d _ => decide (d < 4)
  | .homeSliceOperation d k _ => decide (d < 4 ∧ k < 16)
  | .reportSend d g | .decisionTimeout d g => decide (d < 4 ∧ g < 12)
  | .dieSensorRead d _ => decide (d < 5)
  | .strataSample x => decide (x.d < 5)
  | .strataPeriodSample d m => monExists d m
  | .hbmLinkTraining k .. | .hbmTempRead k _ => decide (k < 20)
  | .droopTrip r k => decide (r < 32 ∧ k < 24)
  | .droopRelease r | .inrushGrant r _ | .gateRampDone r | .stretchCheck r _ => decide (r < 32)
  | .phaseFail r k => decide (r < 32 ∧ k < 6)
  | .railRegulatorFail rail k => decide (k < if rail = .vddLink then 2 else 4)
  | .dataFlit p _ | .idleFlit p _ | .ackSend p | .linkHello p .. | .timeReq p .. | .timeRsp p .. | .retrain p .. | .ctrlRepeat p
  | .pmdTrainingDone p _ | .helloTimeout p | .portRestart p | .retrainDone p | .retrainTimeout p | .packetSend p => decide (p < 16)
  | .laneFail p l _ => decide (p < 16 ∧ l < 4)
  | .releaseWaveStage row d => decide (4 ≤ row ∧ row ≤ 8 ∧ d < 4)
  | .fabricWindowAccess w ofs _ => Sys2Proof.CoreWin.ofsOk w ofs
  | _ => true

/-- Every line that a die's cache holds has 64 bytes, and a clean one those of HBM (R239). -/
def Cache.coherent (s : State) (d : Nat) : Prop :=
  ∀ k l, s.cached d k = some l → l.data.length = 64 ∧ (l.dirty = false → l.data = cellsRead s.hbm (k * 64) 64)

/-! Tiles. -/

/-- No engine of the tile has anything waiting, and its porter nothing outstanding. -/
structure Quiet (x : Tile) : Prop where
  arrQ : x.arrQ = []
  vxeQ : x.vxeQ = []
  porQ : x.porQ = []
  sigQ : x.sigQ = []
  ops : x.ops = []

/-- The strand sl in slot k of tile t issues next: the tile is in service, awake, clocked and not frozen (R373, R474), and the word
at IP has good parity (Table 08-3). -/
structure Issues (s : State) (t k : Nat) (sl : Slot) : Prop where
  inst : t < 384
  live : s.live t = true
  issuing : (s.tile t).issuing = some (k, sl)
  parity : s.sramBadIn t (sl.ip * 16) 16 = none

/-- The strand sl in slot k of tile t issues next, and nothing holds its instruction: the tile is in service, clocked
and not frozen (R373, R474), its engines are idle, and the word at IP has good parity. -/
structure Ready (s : State) (t k : Nat) (sl : Slot) : Prop where
  inst : t < 384
  live : s.live t = true
  issuing : (s.tile t).issuing = some (k, sl)
  parity : s.sramBadIn t (sl.ip * 16) 16 = none
  acq : sl.acqOps = []
  rel : sl.rels = []
  quiet : Quiet (s.tile t)
  inflight : (s.tile t).vxe.inflight = []
  track : (s.tile t).track = []

/-- The tile after the instruction at IP of slot k is issued (R180). -/
def issued (x : Tile) (k : Nat) : Tile := { (x.modSlot k fun z => { z with ip := z.ip + 1 }) with nextId := x.nextId + 1 }

/-- The tile after a taken LOOP branch to ip. -/
def jumped (x : Tile) (k ip : Nat) : Tile := { (x.modSlot k fun z => { z with ip := ip }) with nextId := x.nextId + 1 }

/-- The information that travels with the instruction that tile t issues. -/
def infoAt (s : State) (t k : Nat) (sl : Slot) : Info := (s.tile t).mkInfo k sl

/-- Every byte of tile SRAM, of HBM and of the two retained stores reads in v as in s. -/
def sameMemory (s v : State) : Prop :=
  (∀ t a n, v.sramRead t a n = s.sramRead t a n) ∧ (∀ a, cellGet v.hbm a = cellGet s.hbm a) ∧
    (∀ a, cellGet v.flash a = cellGet s.flash a) ∧ ∀ a, cellGet v.standby.amber a = cellGet s.standby.amber a

/-- The byte of HBM lies in the buffer of the mailbox that a message came by (R417). -/
def inBuffer (s : State) (src : Src) (a : Nat) : Prop :=
  ∃ n o, src = .mbx n ∧ o < 4096 ∧ a = physKey (place s.carveAlloc (s.mbxBuf n + o))

/-- Every byte reads in v as in s but those of the mailbox's buffer, into which the response goes (R420). -/
def keepsMemory (s v : State) (src : Src) : Prop :=
  (∀ t a n, v.sramRead t a n = s.sramRead t a n) ∧
    (Memory.wf s = true → ∀ a, ¬inBuffer s src a → cellGet v.hbm a = cellGet s.hbm a) ∧
    (∀ a, cellGet v.flash a = cellGet s.flash a) ∧ ∀ a, cellGet v.standby.amber a = cellGet s.standby.amber a

/-! The fabric. -/

/-- Packet k of the inbox is x, of type t, and for this node. -/
structure Arrived (s : State) (k : Nat) (x : InPkt) (t : Nat) : Prop where
  at_ : s.pktAt k = some x
  type : x.pkt.ptype = t
  here : s.nodeId = some x.pkt.dest

/-- v is s with the packet k taken from the inbox. -/
def taken (s v : State) (k : Nat) : Prop := v.fabric.inbox = s.fabric.inbox.eraseIdx k

/-- v is s with the packet k taken from the inbox; packets of this node to itself may have come behind. -/
def tookPkt (s v : State) (k : Nat) : Prop := ∃ l, v.fabric.inbox = s.fabric.inbox.eraseIdx k ++ l

/-- A packet of this node to another, where a live path leads to its destination (R295, R313): v holds it last in the output queue
of its next hop. One to this node stands last in v's inbox. -/
def queued (s v : State) (p : Packet) : Prop :=
  s.unreachable p.dest = false → s.nodeId.isSome = true →
    (s.nodeId = some p.dest → v.fabric.inbox.getLast? = some ⟨p, 16, s.now⟩) ∧
    ∀ port cls, s.nodeId ≠ some p.dest → s.outPort p 16 = some (port, cls) →
      (v.port port).out = (s.port port).out ++ [⟨{ p with dclass := cls }, false, s.now⟩]

/-- v is s with the packet k taken from the inbox and the packet p of this node sent: one to this node stands last in v's
inbox, one to another last in the output queue of its next hop, where a live path leads on (R295, R313). -/
def replied (s v : State) (k : Nat) (p : Packet) : Prop :=
  v.fabric.inbox = s.fabric.inbox.eraseIdx k ++
    (if s.nodeId = some p.dest ∧ s.unreachable p.dest = false then [⟨p, 16, s.now⟩] else []) ∧
  ∀ port cls, s.unreachable p.dest = false → s.nodeId.isSome = true → s.nodeId ≠ some p.dest →
    s.outPort p 16 = some (port, cls) →
    (v.port port).out = (s.port port).out ++ [⟨{ p with dclass := cls }, false, s.now⟩]

/-- v is s with the flag line fl out of the buffer of die d, and the lines that have waited longest in the entries then
free, held from now on (R263, R306). -/
def freed (s v : State) (d : Nat) (fl : FlagLine) : Prop :=
  let l := (s.die d).flags.erase fl
  (v.die d).flags = l ++ ((s.die d).flagWait.take (1024 - l.length)).map (fun f => { f with owe := none, since := s.now }) ∧
    (v.die d).flagWait = (s.die d).flagWait.drop (1024 - l.length)

/-- The answer to a request q (R303). -/
def answerOf (s : State) (q : Packet) (ptype arg : Nat) (data : List Byte) : Packet :=
  s.mkPkt ptype 1 q.src q.offset q.space q.job q.txn q.layer q.op arg q.scope data

/-- A packet of this node about a landing flag of the request q (R305). -/
def flagPkt (s : State) (q : Packet) (p ptype arg : Nat) : Packet :=
  s.mkPkt ptype 1 q.src q.offset 1 ((s.jobOf p).getD 0) q.txn q.layer q.op arg q.scope []

/-- v is s with the own request q ended: it is no longer outstanding, and its issuer has the answer (R312, R314); the accesses
of the cores that wait go on from v. -/
def ended (s v : State) (q : FabReq) (fin : ReqEnd) (data : List Byte) : Prop :=
  v.reqOf q.txn = none ∧ sameMemory s v ∧
    match q.who with
    | .tile t op r => v.tiles = ((s.markFailed q fin).answerTile t op ⟨r, fin, data, none⟩).tiles
    | .core => v.coreAns = (s.coreAnswer q fin data).coreAns ∧ v.tiles = s.tiles
    | .remote _ _ => v.tiles = s.tiles
    | .engine _ => v.tiles = s.tiles

/-! The Reef. -/

/-- Packet k of the inbox is a sound Reef packet of kind rk, for group y of partition p, acted on at die d (R337). -/
structure ReefIn (s : State) (k rk : Nat) (x : InPkt) (p d : Nat) (y : GroupSt) : Prop where
  arrived : Arrived s k x ptReef
  kind : bits (leAt x.pkt.data 0 8) 0 4 = rk
  part : s.partOfJob x.pkt.job = some p
  die : (if rk = 2 ∨ rk = 3 then (s.groupDies p (x.pkt.vc - 4)).head?
    else (s.diesOf p).find? fun d => ((s.reef d).bucket (x.pkt.vc - 4) (RHead.ofBytes x.pkt.data).bucket).isSome) = some d
  group : (s.reef d).group (x.pkt.vc - 4) = some y
  sound : rheadReserved x.pkt.data = false
  sign : (RHead.ofBytes x.pkt.data).gsig = y.sign
  runs : (s.geode p).frozen = false
  free : s.held .reef d = false

/-- A Reef packet of this node to a rank of a group (Table 11-7). -/
def reefPkt (s : State) (p : Nat) (y : GroupSt) (rank : Nat) (h : RHead) (payload : List Byte) : Packet :=
  s.mkPkt ptReef (4 + y.cvc) (y.ranks.getD rank 0xFFFF) 0 1 ((s.jobOf p).getD 0) 0 0 0 0 0 (h.bytes ++ padSlots payload)

/-- The contribution in a CONTRIB packet. -/
def contribOf (x : InPkt) (y : GroupSt) : Contrib :=
  let h := RHead.ofBytes x.pkt.data
  ⟨h.step, h.bucket, y.g, h.shard, h.chunk, y.rankOf x.pkt.src, i40OfBytes (payloadOf x.pkt) h.count, h.cs, h.veto, h.amax⟩

/-- The REEF_CLOSEs of a group on the dies given are over. -/
def closesOver (s v : State) (ds : List Nat) (g : Nat) : State :=
  (ds.filterMap fun e => ((s.reef e).group g).bind fun y => y.closeOp).foldl (fun w c =>
    match (w.tile c.1).ops.find? fun o => o.info.id == c.2 with
    | some o => w.finishOp c.1 o
    | none => w) v

/-- The contributions of a die once c is in: one of each child. -/
def withContrib (l : List Contrib) (c : Contrib) : List Contrib :=
  l.filter (fun y => !(y.step == c.step && y.group == c.group && y.bucket == c.bucket && y.shard == c.shard &&
    y.chunk == c.chunk && y.child == c.child)) ++ [c]

/-! The Capstan. -/

/-- The state once the message has started (R421): its turn is taken, and its wait is posted. -/
def started (s : State) (c : Call) : State := s.startMsg c.src

/-- The state in which the body of an accepted message runs: it has started, and the SEQ of its trailer is kept (R424). -/
def base (s : State) (c : Call) : State :=
  match c.msg.trailer with
  | some t => if c.msg.auth = 0 then started s c else (started s c).acceptSeq c.msg.auth t.key t.seq
  | none => started s c

/-- The Capstan accepts the message: it runs and holds the message, whose turn it is (R421), the header passes, TXN is new, the
role allows the command (R422, R425, R426, R429), the dump controller, the memory controllers and the MRAM port do not hold it
off, and a message with AUTH ≠ 0 has an acceptable trailer (R424). -/
structure Accepts (s : State) (c : Call) (x : CmdInfo) : Prop where
  run : s.cap.run = .running
  msg : s.hasMsg c.src = true
  turn : s.mayStart c.src = true
  head : headCheck (started s c) c x = none
  fresh : (((started s c).txns c.src).find? fun e => e.txn == c.msg.txn) = none
  role : roleCheck (started s c) c x = none
  mem : x.mem = true → (started s c).engReady (Call.part c) = true
  frozen : (x.prog && ((started s c).geode (Call.part c)).frozen) = false
  port : (started s c).mramIdle = true
  trailer : c.msg.auth = 0 ∨ ∃ t, c.msg.trailer = some t ∧ t.reserved = 0 ∧ trailerOk (started s c) c t = true

/-- What completing a command leaves: its transaction entry, then the response (R420, R426, R428). -/
def done (c : Call) (x : CmdInfo) (a : Answer) : State :=
  let s1 := a.s.putTxn ⟨c.msg.txn, c.msg.hash, x.code, a.status, a.result⟩ c.src
  s1.reply c x.code { a with s := s1 }

/-- The call and the row of Table 14-7 of a mailbox command. -/
def cmdOf : Instr → Option (Call × CmdInfo)
  | .hello c _ _ => some (c, cmdR 0x0001 .any)
  | .sysQuery c => some (c, cmdR 0x0002 .any)
  | .sysPartition c _ => some (c, cmdC 0x0003 .owner)
  | .sysCarveout c _ => some (c, cmdM 0x0004 .owner)
  | .sysNet c _ _ _ => some (c, cmdM 0x0005 .owner)
  | .memMap c _ => some (c, cmdC 0x0101 .job)
  | .memUnmap c _ => some (c, cmdC 0x0102 .job)
  | .memFill c _ _ _ => some (c, { cmdC 0x0103 .job with cflags := 1, mem := true })
  | .memChecksum c _ _ => some (c, { cmdR 0x0104 .job with mem := true })
  | .memHold c => some (c, cmdC 0x0105 .job)
  | .memRelease c => some (c, cmdC 0x0106 .job)
  | .memScrub c _ => some (c, cmdC 0x0107 .owner)
  | .progLoad c _ _ _ _ => some (c, { cmdP 0x0201 with mem := true })
  | .progBind c _ _ => some (c, cmdP 0x0202)
  | .progLaunch c _ => some (c, cmdP 0x0203)
  | .progAbort c => some (c, { cmdP 0x0204 with prog := false })
  | .progUnbind c => some (c, cmdP 0x0205)
  | .progKey c _ _ => some (c, cmdC 0x0206 .owner)
  | .fabJoin c _ => some (c, cmdC 0x0301 .job)
  | .fabLeave c => some (c, cmdC 0x0302 .job)
  | .fabGroup c _ => some (c, cmdC 0x0303 .job)
  | .fabWindow c _ _ => some (c, cmdC 0x0304 .job)
  | .fabParam c _ => some (c, cmdC 0x0305 .job)
  | .fabQuery c => some (c, cmdR 0x0306 .any)
  | .fabRoute c _ _ => some (c, cmdC 0x0307 .owner)
  | .fabGateway c _ _ => some (c, cmdC 0x0308 .owner)
  | .fabPort c _ _ => some (c, cmdC 0x0309 .owner)
  | .pwrCeiling c _ => some (c, cmdM 0x0401 .owner)
  | .pwrPriority c _ _ => some (c, cmdC 0x0402 .owner)
  | .pwrRequest c _ _ => some (c, { cmdC 0x0403 .job with cflags := 1 })
  | .pwrTetherKey c _ _ => some (c, cmdM 0x0404 .owner)
  | .pwrDerate c _ => some (c, cmdC 0x0405 .owner)
  | .pwrCartPolicy c _ _ _ => some (c, cmdM 0x0406 .owner)
  | .pwrTune c _ => some (c, { cmdC 0x0407 .owner with cflags := 1 })
  | .pwrMeter c _ _ => some (c, cmdR 0x0408 .owner)
  | .tetherCeiling c _ _ _ => some (c, cmdC 0x0481 .tether)
  | .tetherSchedule c _ _ => some (c, cmdC 0x0482 .tether)
  | .tetherClear c => some (c, cmdC 0x0483 .tether)
  | .tetherStatus c => some (c, cmdR 0x0484 .tether)
  | .meterFetch c _ _ => some (c, cmdR 0x0485 .tether)
  | .timeSource c _ _ _ => some (c, cmdC 0x0501 .owner)
  | .timeSet c _ _ => some (c, cmdC 0x0502 .owner)
  | .timeShift c _ => some (c, cmdC 0x0503 .job)
  | .timeStatus c => some (c, cmdR 0x0504 .any)
  | .secOwnerClaim c _ => some (c, cmdM 0x0601 .claim)
  | .secOwnerRelease c => some (c, cmdM 0x0602 .owner)
  | .secAttest c _ => some (c, { cmdR 0x0603 .any with mram := true })
  | .secCerts c _ => some (c, cmdR 0x0604 .any)
  | .secRevoke c _ _ => some (c, cmdM 0x0605 .owner)
  | .secDebugDisable c => some (c, cmdM 0x0606 .owner)
  | .secDebugOpen c => some (c, cmdC 0x0607 .owner)
  | .secFabricLock c _ _ => some (c, cmdM 0x0608 .owner)
  | .secFwWrite c _ _ => some (c, cmdC 0x0609 .owner)
  | .secFwActivate c => some (c, cmdM 0x060A .owner)
  | .secFwCommit c => some (c, cmdM 0x060B .owner)
  | .cntFaults c _ => some (c, cmdR 0x0701 .job)
  | .cntStrataConfig c _ _ _ _ => some (c, cnt 0x0702)
  | .cntStrataRead c _ _ => some (c, cnt 0x0702)
  | .cntStrataClear c _ _ => some (c, cnt 0x0702)
  | .cntStrataAck c _ _ => some (c, cnt 0x0702)
  | .cntStrataEnergy c _ => some (c, cnt 0x0702)
  | .cntDumpTrigger c => some (c, dumpCmd)
  | .cntDumpMap c => some (c, dumpCmd)
  | .cntDumpKeep c _ => some (c, dumpCmd)
  | .cntDumpFabTrig c => some (c, dumpCmd)
  | .cntDumpStatus c => some (c, dumpCmd)
  | .rstPartition c => some (c, cmdC 0x0801 .job)
  | .rstBlock c _ _ _ => some (c, cmdC 0x0802 .owner)
  | .rstCapstan c => some (c, cmdC 0x0803 .owner)
  | .rstModule c => some (c, cmdC 0x0804 .owner)
  | _ => none

/-- The Capstan accepts the message that a command carries. -/
def Taken (s : State) (i : Instr) (c : Call) : Prop := ∃ x, cmdOf i = some (c, x) ∧ Accepts s c x

/-- In v the message c is complete, with this response (R420, R422). -/
def answered (v : State) (c : Call) (status : Nat) (result : W64) (payload : List Nat) : Prop :=
  ∃ r : Reply, r.txn = c.msg.txn ∧ r.status = status ∧ r.result = result ∧ r.payload = payload ∧
    match c.src with
    | .mbx n => (v.mbx n).reply = some r ∧ (v.mbx n).owner = false ∧ (v.mbx n).done = true ∧ (v.mbx n).status = status
    | .session k => ∃ x, v.session k = some x ∧ x.reply = some r
    | .fabric node => ∃ txn, ((node, txn), r) ∈ v.cap.fabReplies

/-- The message is complete with a status, and nothing it asks for is done. -/
def turnedAway (s : State) (i : Instr) (c : Call) (status : Nat) : Prop :=
  ∃ u, exec i s = .next u ∧ answered u c status 0 [] ∧ u.tiles = s.tiles ∧ u.dies = (started s c).dies ∧ u.parts = s.parts ∧
    u.power = s.power ∧ u.lny = s.lny ∧ u.allocs = s.allocs ∧ u.regions = s.regions ∧ u.stks = s.stks ∧
    u.fabric.ports = s.fabric.ports ∧ keepsMemory s u c.src

/-- The commands that store to no byte of tile SRAM, HBM, flash or the Amber RAM. -/
def storesNothing : Instr → Bool
  | .strandLaunch .. | .reexecution .. | .strandWatchdog .. | .lnyAdjWrite .. | .lnySetWrite .. | .lnyTrimWrite ..
  | .hchCtrlWrite .. | .mbxHandover .. | .errTailWrite .. | .errStatusRead .. | .errFaultqRead ..
  | .errScopeCntRead .. | .pwrInrushRead .. | .strStatRead .. | .pwrCeilOwnerWrite .. | .thmCartPolicyWrite ..
  | .hitchPulse | .hitchCalibration .. | .lnySlewStep | .timerFire .. | .ptpMessage .. | .ppsEdge
  | .timeTransferStart | .holdoverEntry | .holdoverTick | .hintPulse .. | .gearRampAction .. | .powerGoodCheck ..
  | .hbmRateChange .. | .gearSwitch | .gearChangeComplete | .cleatAssert .. | .cleatRelease | .cleatHoldExpiry
  | .droopTrip .. | .droopRelease .. | .flagBufferGrant .. | .dataFlit .. | .idleFlit .. | .ackSend ..
  | .linkHello .. | .timeReq .. | .timeRsp .. | .retrain .. | .ctrlRepeat .. | .pmdTrainingDone ..
  | .helloTimeout .. | .portRestart .. | .laneFail .. | .retrainDone .. | .retrainTimeout .. | .packetForward ..
  | .packetSend .. | .landHeld .. | .landCancel .. | .mgtMsg .. | .mgtRsp .. | .flagExpiry .. | .fabThrottle ..
  | .feedSample .. | .feedSag .. | .feedSagEnd .. | .feedReadmit .. | .plugLoopClose | .phaseFail ..
  | .inrushGrant .. | .raiseCheck .. | .wearUpdate .. | .stretchCheck .. | .shareBudget .. | .ballastAdjust ..
  | .tetherCeilingChange | .meterRecord | .meterSign | .blowerUpdate .. | .blowerFail | .cartChallenge ..
  | .cartPresenceChange .. | .cartLifeTick .. | .cartLifeWrite | .mgtFrame .. | .sessionExpiry .. | .capstanRestart
  | .resetNRelease .. | .releaseWaveStage .. | .releaseStageTimeout .. | .refclkStop | .strataSample ..
  | .strataPeriodSample .. | .energyCalibration .. | .geodeTrigger .. | .geodeSettle .. | .smbusBlockRead ..
  | .smbusAlertResponse | .refclkRestart | .standbyValid | .amberRamRead .. => true
  | _ => false

/-- The messages that store to no byte but the response buffer. -/
def storesResponse : Instr → Bool
  | .memFill .. | .memChecksum .. | .progLoad .. | .progBind .. | .secFwWrite .. | .rstPartition .. | .rstModule .. => false
  | i => (callOf i).isSome

end Sys2Proof.Safety
end

