-- ==== Sys2Proof/Certificates/Slice0/Obligations.lean ====
section
/-! DEFINITION. The statements: what the commands of each family do, what they leave unchanged, and what every step keeps. -/
open Sys2Proof Sys2Proof.Machine

/-- A step runs the command at the front of the queue with the queue's rest (log entry 1: the queue is the model's). -/
def Obligations.StepRunsFront : Prop :=
  ∀ (c : Instr) (s : State) (rest : List Instr), s.pending = c :: rest → step s = exec c { s with pending := rest }

/-- NOP, FENCE, WAIT, END and LOOP complete (R179, R180, R188, R202, R204): the whole next state, everything unnamed unchanged but what
the engines then begin. -/
def Obligations.SequencerCompletes : Prop :=
  (∀ (s : State) (t : Nat), Safety.Quiet (s.tile t) → s.pump t = s) ∧
  ∀ (s : State) (t k : Nat) (sl : Slot), Safety.Issues s t k sl →
    exec (.nop t) s = .next ((s.modTile t fun x => Safety.issued x k).pump t) ∧
    (∀ mask hold, hold = (bit mask 0 && (s.tile t).openArr sl.inst (s.tile t).nextId ||
        bit mask 1 && (s.tile t).openVxe sl.inst (s.tile t).nextId || bit mask 2 && (s.tile t).openPor sl.inst (s.tile t).nextId ||
        bit mask 3 && (s.tile t).openSig sl.inst (s.tile t).nextId) →
      (hold = false → exec (.fence t mask) s = .next ((s.modTile t fun x => Safety.issued x k).pump t)) ∧
      (hold = true → exec (.fence t mask) s = .next (s.pump t))) ∧
    (∀ tok n, n ≤ (s.tile t).tokens.getD tok 0 → exec (.wait t tok n) s = .next ((s.modTile t fun x =>
      Safety.issued { x with tokens := x.tokens.set tok (x.tokens.getD tok 0 - n) } k).pump t)) ∧
    (∀ tok n, (s.tile t).tokens.getD tok 0 < n → exec (.wait t tok n) s = .next (s.pump t)) ∧
    (sl.ended = false → exec (.endStrand t) s = .next ((s.modTile t fun x => Safety.issued
      { (x.modSlot k fun z => { z with phase := .retiring, ended := true }) with
        considered := some (s.localBeat t), barked := false } k).pump t)) ∧
    (sl.ended = true → exec (.endStrand t) s = .next ((s.modTile t fun x => Safety.issued
      (x.modSlot k fun z => { z with phase := .retiring, ended := true }) k).pump t)) ∧
    (∀ trips back, trips ≤ 1 → sl.loops.head?.map Prod.fst ≠ some sl.ip →
      exec (.loop t trips back) s = .next ((s.modTile t fun x =>
        Safety.issued (x.modSlot k fun z => { z with loops := sl.loops }) k).pump t)) ∧
    (∀ trips back, 2 ≤ trips → sl.loops.head?.map Prod.fst ≠ some sl.ip →
      exec (.loop t trips back) s = .next ((s.modTile t fun x =>
        Safety.jumped (x.modSlot k fun z => { z with loops := (sl.ip, trips - 2) :: sl.loops }) k (sl.ip - back)).pump t)) ∧
    (∀ trips back left outer, sl.loops = (sl.ip, left + 1) :: outer →
      exec (.loop t trips back) s = .next ((s.modTile t fun x =>
        Safety.jumped (x.modSlot k fun z => { z with loops := (sl.ip, left) :: outer }) k (sl.ip - back)).pump t)) ∧
    (∀ trips back outer, sl.loops = (sl.ip, 0) :: outer →
      exec (.loop t trips back) s = .next ((s.modTile t fun x =>
        Safety.issued (x.modSlot k fun z => { z with loops := outer }) k).pump t))

/-- SLI, SADD and SSTAT (R182, R205, Table 07-6): the register, and nothing but the tile, changes, but what the engines then begin. -/
def Obligations.ScalarWritesComplete : Prop :=
  ∀ (s : State) (t k : Nat) (sl : Slot) (xd : Nat), Safety.Issues s t k sl →
    ((s.tile t).scaFree xd = true →
      (∀ imm, exec (.sli t xd imm) s =
        .next ((s.modTile t fun x => Safety.issued { x with regs := x.regs.set xd imm } k).pump t)) ∧
      (∀ xa imm, (s.tile t).scaWritten (s.tile t).nextId xa = false → exec (.sadd t xd xa imm) s = .next ((s.modTile t fun x =>
        Safety.issued { x with regs := x.regs.set xd (x.reg xa + imm.signExtend 64) } k).pump t)) ∧
      (∀ sel v, (sel, v) ∈ [(0, sl.late), (1, (s.region (t / 12)).beat % 2 ^ 48), (2, t), (3, sl.desc.strandId),
          (4, (s.tile t).lateCount), (5, (s.tile t).lateMax), (6, (s.region (t / 12)).steps - sl.launchAt),
          (7, (s.region (t / 12)).gear)] →
        exec (.sstat t xd sel) s = .next ((s.modTile t fun x =>
          Safety.issued { x with regs := x.regs.set xd (BitVec.ofNat 64 v) } k).pump t)) ∧
      ∀ sel, 8 ≤ sel → exec (.sstat t xd sel) s =
        .next ((s.fault t (Safety.infoAt s t k sl) true 1 0x01 sl.ip).pump t)) ∧
    ((s.tile t).scaFree xd = false → ∀ imm sel, exec (.sli t xd imm) s = .next (s.pump t) ∧ exec (.sstat t xd sel) s = .next (s.pump t)) ∧
    ∀ xa imm, ((s.tile t).scaFree xd && !(s.tile t).scaWritten (s.tile t).nextId xa) = false →
      exec (.sadd t xd xa imm) s = .next (s.pump t)

/-- OREL, OACQ and OFULL (R270, R272), and their reserved scopes. -/
def Obligations.OrderingCompletes : Prop :=
  ∀ (s : State) (t k : Nat) (sl : Slot) (scope : Nat), Safety.Issues s t k sl →
    (scope < 6 →
      exec (.orel t scope) s = .next ((s.modTile t fun x =>
        Safety.issued (x.modSlot k fun z => { z with rels := z.rels ++ [(scope, (s.tile t).nextId)], acqOps := z.acqOps ++ [] }) k).pump t) ∧
      exec (.oacq t scope) s = .next ((s.modTile t fun x =>
        Safety.issued (x.modSlot k fun z => { z with rels := z.rels ++ [], acqOps := z.acqOps ++ (s.tile t).acqSet sl.inst }) k).pump t) ∧
      exec (.ofull t scope) s = .next ((s.modTile t fun x =>
        Safety.issued (x.modSlot k fun z =>
          { z with rels := z.rels ++ [(scope, (s.tile t).nextId)], acqOps := z.acqOps ++ (s.tile t).acqSet sl.inst }) k).pump t)) ∧
    ∀ i, (i = .orel t scope ∨ i = .oacq t scope ∨ i = .ofull t scope) → 6 ≤ scope →
      exec i s = .next ((s.fault t (Safety.infoAt s t k sl) true 1 0x01 sl.ip).pump t)

/-- SIGNAL and SIGNAL_ARRIVAL (R165, R192, R193, R203). -/
def Obligations.SignalsTravel : Prop :=
  (∀ (s : State) (t k : Nat) (sl : Slot) (tok tile cnt u : Nat) (after : Bool), Safety.Issues s t k sl →
    u = (if tile = 0xFFFF then t else tile) → (s.tile t).sigQ.length < 4 →
    (u < 384 → s.partOfTile u = s.partOfTile t → exec (.signal t tok after tile cnt) s = .next ((s.modTile t fun x =>
      Safety.issued { x with sigQ := x.sigQ ++ [⟨Safety.infoAt s t k sl, tok, after, u, cnt⟩] } k).pump t)) ∧
    (384 ≤ u → exec (.signal t tok after tile cnt) s = .next ((s.fault t (Safety.infoAt s t k sl) true 1 0x01 tile).pump t)) ∧
    (u < 384 → s.partOfTile u ≠ s.partOfTile t →
      exec (.signal t tok after tile cnt) s = .next ((s.fault t (Safety.infoAt s t k sl) true 1 0x26 tile).pump t))) ∧
  (∀ (s : State) (t k : Nat) (sl : Slot) (tok tile cnt u : Nat) (after : Bool), Safety.Ready s t k sl → s.held .tile t = false →
    u = (if tile = 0xFFFF then t else tile) → u < 384 → s.partOfTile u = s.partOfTile t → s.fliesFull t u = false →
    (s.tile t).arr.mmas = [] →
    exec (.signal t tok after tile cnt) s =
      .next { s.modTile t fun x => Safety.issued x k with fly := s.fly ++ [⟨t, u, tok, cnt⟩] }) ∧
  (∀ (s : State) (f : Fly) (rest : List Fly), s.fly = f :: rest → f.tile < s.tiles.length →
    (s.tile f.tile).tokens.getD f.tok 0 + f.cnt ≤ 65535 → s.fliesFull f.src f.tile = false →
    exec (.signalArrival 0) s = .next ({ s.modTile f.tile fun x =>
      { x with tokens := x.tokens.set f.tok (x.tokens.getD f.tok 0 + f.cnt) } with fly := rest }.pump f.tile)) ∧
  (∀ (s : State) (f : Fly) (rest : List Fly), s.fly = f :: rest → s.fliesFull f.src f.tile = true →
    exec (.signalArrival 0) s =
      .next ((({ s with fly := rest }.addToken f.tile f.tok f.cnt).pump f.tile).pumpRegion (f.src / 12) true)) ∧
  (∀ (s : State) (t k n : Nat), t < s.tiles.length → k < (s.tile t).tokens.length →
    65535 < (s.tile t).tokens.getD k 0 + n →
    ∃ v : State, s.addToken t k n = v.fault t (s.noStrand t) false 1 0x04 k ∧ (v.tile t).tokens.getD k 0 = 65535 ∧
      ∀ j, j ≠ k → (v.tile t).tokens.getD j 0 = (s.tile t).tokens.getD j 0)

/-- MMA, MSCL and MFLAG (R70 to R72, R86 to R88, R98): issued, and begun or complete at once on an idle array. -/
def Obligations.MatrixIssueCompletes : Prop :=
  (∀ (s : State) (t k : Nat) (sl : Slot) (i : Info), Safety.Issues s t k sl → i = Safety.infoAt s t k sl →
    (s.tile t).arrQ.length < 4 →
    (∀ f : MmaF, sl.acqOps.any (s.tile t).opOpen = false → mmaBad f = false → (f.sig && f.cont) = false →
      (s.tile t).spansBreach sl (mmaSpans f (t % 4)) = none → (s.tile t).trackFits (mmaSpans f (t % 4)) = true →
      exec (.mma t f) s = .next ((s.modTile t fun x => Safety.issued
        { x.register i (mmaSpans f (t % 4)) with
          arrQ := x.arrQ ++ [⟨i, .mma f x.arr.spliceW⟩]
          arr := { x.arr with spliceW := if f.dest then (x.arr.spliceW + 1) % 128 else x.arr.spliceW } } k).pump t)) ∧
    (∀ set src, sl.acqOps.any (s.tile t).opOpen = false → set ≠ 0 →
      (s.tile t).spansBreach sl [⟨src * 64, 256, false⟩] = none → (s.tile t).trackFits [⟨src * 64, 256, false⟩] = true →
      exec (.mscl t set src) s = .next ((s.modTile t fun x => Safety.issued
        { x.register i [⟨src * 64, 256, false⟩] with arrQ := x.arrQ ++ [⟨i, .mscl set src false⟩] } k).pump t)) ∧
    ∀ dst clr, (s.tile t).scaFree dst = true →
      exec (.mflag t dst clr) s = .next ((s.modTile t fun x => Safety.issued
        { x with arrQ := x.arrQ ++ [⟨i, .mflag dst clr⟩] } k).pump t)) ∧
  ∀ (s : State) (t k : Nat) (sl : Slot), Safety.Ready s t k sl → s.held .tile t = false →
    (∀ f : MmaF, mmaBad f = false → (f.sig && f.cont) = false →
      (s.tile t).spansBreach sl (mmaSpans f (t % 4)) = none →
      (f.accIn = true → (s.tile t).arr.openBlk = false ∧ s.sramBadIn t (f.cBase * 64) 1024 = none) →
      (((s.tile t).arr.f ++ (s.tile t).arr.g).any fun p => (s.tile t).arr.nextSlice ≤ p) = true →
      exec (.mma t f) s = .next (s.modTile t fun x => Safety.issued
        { x.register (Safety.infoAt s t k sl) (mmaSpans f (t % 4)) with
          arr := Arr.beginMma { x.arr with spliceW := if f.dest then (x.arr.spliceW + 1) % 128 else x.arr.spliceW }
            (Safety.infoAt s t k sl) f x.arr.spliceW
            (if f.accIn then words32 (s.sramRead t (f.cBase * 64) 1024) 256 else []) } k)) ∧
    (∀ set src, set ≠ 0 → (s.tile t).spansBreach sl [⟨src * 64, 256, false⟩] = none →
      (s.tile t).arr.setBusy set = false → s.sramBadIn t (src * 64) 256 = none →
      setOk (s.sramRead t (src * 64) 256) = true →
      exec (.mscl t set src) s = .next (s.modTile t fun x => Safety.issued
        { x with arr := { x.arr with sets := x.arr.sets.set set (readSet (s.sramRead t (src * 64) 256)) } } k)) ∧
    ∀ dst clr, ((s.tile t).arr.mmas.any fun m => (s.tile t).arr.minC < m.stop) = false →
      exec (.mflag t dst clr) s = .next (s.modTile t fun x => Safety.issued
        { x with
          regs := x.regs.set dst (BitVec.ofNat 64 x.arr.mflags)
          arr := { x.arr with mflags := if clr then 0 else x.arr.mflags } } k)

/-- FEEDER_DELIVER, DPU_ACCUMULATE, SCALE_SET_LOAD, COLUMN_DRAIN, QUEUE_HANDOFF, SPLICE_PANEL_WRITE and QUEUE_ENTRY_FREE
(R72 to R79, R89, R98, R146). -/
def Obligations.ArrayEventsComplete : Prop :=
  ∀ (s : State) (t : Nat), t < 384 → t < s.tiles.length → s.live t = true →
    (∀ v isB idx upset m rel, v = upsetIn s t upset → idx < 16 → (v.tile t).arr.nextFeed isB idx = some (m, rel) →
      (v.tile t).arr.linkRoom isB idx = true →
      (feedBc isB m.f = false → (m.f.splice = false ∨ isB = true) →
        (v.sliceBad t isB idx m.f rel = none → ∃ u, exec (.feederDeliver t isB idx upset) s = .next (u.pump t) ∧
          u.tiles = ((v.putSlice t isB idx (v.readSlice t isB idx m.f rel)).freePanels t).tiles ∧ Safety.sameMemory s u) ∧
        (∀ a, v.sliceBad t isB idx m.f rel = some a → exec (.feederDeliver t isB idx upset) s =
          .next (((((v.putSlice t isB idx (v.readSlice t isB idx m.f rel)).freePanels t).postParity t a 0 m.info.layer
            m.info.op).fault t m.info true 2 2 a).pump t))) ∧
      (isB = false → m.f.splice = true →
        (∀ b ∈ (v.tile t).arr.blocks, b.dest = true → b.panel = (splicePlace m.f rel idx).1 → m.blk ≤ b.n) →
        exec (.feederDeliver t isB idx upset) s = .next ((v.putSlice t false idx
          ⟨sub ((v.tile t).arr.splice.getD (splicePlace m.f rel idx).1 []) (splicePlace m.f rel idx).2 32, []⟩).freePanels t)) ∧
      (∀ us, feedBc isB m.f = true → us = v.bcGroup t isB idx m.f rel → us.contains (t / 4 * 4 + m.f.bcSrc) = true →
        (rel = 0 → v.bcClash t isB idx m.f = false ∧ v.bcReady t isB idx m.f = true) →
        (∀ u ∈ us, (v.tile u).arr.linkRoom isB idx = true ∧ v.live u = true) →
        exec (.feederDeliver t isB idx upset) s =
          .next (us.foldl (fun s u => s.pump u) (v.feedFrom t (t / 4 * 4 + m.f.bcSrc) isB idx m rel us))) ∧
      (feedBc isB m.f = true → rel = 0 → v.bcClash t isB idx m.f = true → exec (.feederDeliver t isB idx upset) s =
        .next (v.fault t m.info true 1 0x08 (feedBase isB m.f * 64)))) ∧
    (∀ i j m upset, i < 16 → j < 16 → (s.tile t).arr.mmaAt ((s.tile t).arr.c.getD (16 * i + j) 0) = some m →
      ((s.tile t).arr.mayStep i j m = true → ∀ a fl, (s.tile t).arr.dpuGo i j m upset = (a, fl, false) →
        hasAny fl mfResidue = false → exec (.dpuAccumulate t i j upset) s =
          .next (((s.modTile t fun x => { x with arr := a }).raiseMflags t m.info fl (16 * i + j)).pump t)) ∧
      ((s.tile t).arr.mayStep i j m = false → exec (.dpuAccumulate t i j upset) s =
        .next (s.modTile t fun x => { x with arr := x.arr.countHold i j m }))) ∧
    (∀ i set src rest, (s.tile t).arrQ = ⟨i, .mscl set src true⟩ :: rest →
      ((s.tile t).arr.setBusy set = true → exec (.scaleSetLoad t) s = .next s) ∧
      ((s.tile t).arr.setBusy set = false → s.sramBadIn t (src * 64) 256 = none →
        (setOk (s.sramRead t (src * 64) 256) = true → exec (.scaleSetLoad t) s = .next ((s.modTile t fun x =>
          { ({ x with arrQ := rest }).release i.id with
            arr := { x.arr with sets := x.arr.sets.set set (readSet (s.sramRead t (src * 64) 256)) } }).pump t)) ∧
        (setOk (s.sramRead t (src * 64) 256) = false → exec (.scaleSetLoad t) s = .next (((s.modTile t fun x =>
          ({ x with arrQ := rest }).release i.id).fault t i true 1 0x0A (src * 64)).pump t)))) ∧
    (∀ j n b, j < 16 → n = (s.tile t).arr.drained.getD j 0 →
      ((s.tile t).arr.blocks.find? fun x => x.n == n) = some b → b.closed = true → (s.tile t).entryOk b = true →
      ((s.tile t).arr.cCol j).any (fun c => c < (s.tile t).arr.blkStop n) = false →
      ∃ u, exec (.columnDrain t j) s = .next (u.pump t) ∧ (u.tile t).arr.drained = (s.tile t).arr.drained.set j (n + 1) ∧
        (∀ v, v ≠ t → u.tile v = s.tile v) ∧ Safety.sameMemory s u ∧
        ∃ b' ∈ (u.tile t).arr.blocks, b'.n = n ∧ b'.alloc = true ∧
          ∀ i, i < 16 → b'.vals.getD (16 * i + j) 0 = (s.tile t).arr.outer ((s.tile t).arr.blkStop n) i j) ∧
    (∀ b, (s.tile t).arr.ready false = some b → exec (.queueHandoff t) s = .next (((s.modTile t fun x =>
      { x with arr := { x.arr.dropBlk b.n with
        queue := x.arr.queue ++ [⟨b.n, b.info, b.vals, true, none, false⟩] } }).sigToken t b.sig).pump t)) ∧
    (∀ b, (s.tile t).arr.ready true = some b → exec (.splicePanelWrite t) s = .next ((((s.modTile t fun x =>
      { x with arr := { x.arr.dropBlk b.n with splice := x.arr.splice.set b.panel (splicePanel b.vals).1 } }).raiseFlags t b.info
        (splicePanel b.vals).2).sigToken t b.sig).pump t)) ∧
    (∀ pre e post, (s.tile t).arr.queue = pre ++ e :: post → (∀ x ∈ pre, x.done = false) → e.done = true →
      exec (.queueEntryFree t) s = .next ((s.modTile t fun x => { x with arr := { x.arr with queue := pre ++ post } }).pump t)) ∧
    ((∀ x ∈ (s.tile t).arr.queue, x.done = false) → exec (.queueEntryFree t) s = .next (s.pump t))

/-- The vector instructions but VSET (R116 to R146, R180, R181): issue, begin, and the record in flight. -/
def Obligations.VectorBegins : Prop :=
  (∀ (s : State) (t a : Nat) (f : VecF), exec (.vld t f (some a)) s = exec (.vld t f none) (s.sramUpset t a)) ∧
  ∀ (s : State) (t k : Nat) (sl : Slot) (f : VecF) (el : MxElem) (i : Instr) (kind : VKind) (q : VItem),
    (i, kind) ∈ [(Instr.vld t f none, VKind.vld), (.vst t f, .vst), (.vpop t f, .vpop), (.valu t f, .valu), (.vfnOp t f, .vfn),
      (.vred t f, .vred), (.vsmx t f, .vsmx), (.vperm t f, .vperm), (.vshuf t f, .vshuf), (.vpack t f, .vpack),
      (.vunpk t f, .vunpk), (.vqk4 t f, .vqk4), (.vmxiImport t f el, .vmxiImport el), (.vmxiScan t f, .vmxiScan),
      (.vrng t f, .vrng), (.vmask t f, .vmask), (.vlossAdd t f, .vlossAdd), (.vlossDump t f, .vlossDump), (.vtree t f, .vtree),
      (.vscmp t f, .vscmp), (.vamax t f, .vamax), (.vflag t f, .vflag), (.vsetSeqtab t f, .vsetSeqtab)] →
    q = ⟨Safety.infoAt s t k sl, kind, f, vAddr kind f ((s.tile t).reg f.xa)⟩ → vWellFormed q = true →
    (s.tile t).spansBreach sl (vSpans kind f q.addr) = none →
    (Safety.Issues s t k sl → (sl.acqOps.any (s.tile t).opOpen && (vSpans kind f 0).any fun sp => !sp.wr) = false →
      (s.tile t).vxeQ.length < 4 → (kind = .vld ∨ kind = .vst → (s.tile t).scaWritten (s.tile t).nextId f.xa = false) →
      (s.tile t).trackFits (vSpans kind f q.addr) = true →
      exec i s = .next ((s.modTile t fun x => Safety.issued
        { x.register q.info (vSpans kind f q.addr) with vxeQ := x.vxeQ ++ [q] } k).pump t)) ∧
    (Safety.Ready s t k sl → s.held .tile t = false → (s.tile t).recompHit (vSpans kind f q.addr) = none →
      (kind = .vpop → (s.tile t).arr.headEntry.isSome = true) →
      (∀ sp ∈ vSpans kind f q.addr, s.sramBadIn t sp.at_ sp.len = none) → ∀ r, vCompute (s.vEnv t q) q = .res r →
      ∃ u, exec i s = .next u ∧ (u.tile t).vxe.inflight = [r] ∧ (u.tile t).vxe.regs = (s.tile t).vxe.regs ∧
        (u.tile t).regs = (s.tile t).regs ∧ u.sram = s.sram ∧ (u.tile t).vxeQ = [] ∧
        ∃ sl', (u.tile t).issuing = some (k, sl') ∧ sl'.ip = sl.ip + 1 ∧ (u.tile t).nextId = (s.tile t).nextId + 1)

/-- VSET_STEP and VSET_VETO_MASK (R134, R135). -/
def Obligations.VsetTakesAtIssue : Prop :=
  (∀ (s : State) (t k : Nat) (sl : Slot) (f : VecF), Safety.Issues s t k sl → f.fmt = 0 → f.fmt2 = 0 → f.amxe = false →
    (s.tile t).vxeQ.length < 4 → (s.tile t).scaWritten (s.tile t).nextId f.xa = false →
    (s.tile t).track.length ≤ 16 → ∀ q : VItem, q = ⟨Safety.infoAt s t k sl, .vset, f, f.base * 64⟩ →
    exec (.vsetStep t f) s = .next ((s.modTile t fun x => Safety.issued { x with
      vxe := { x.vxe with step := (x.reg f.xa).toNat % 2 ^ 32 }
      vxeQ := x.vxeQ ++ [q] } k).pump t) ∧
    exec (.vsetVetoMask t f) s = .next ((s.modTile t fun x => Safety.issued { x with
      vxe := { x.vxe with veto := (x.reg f.xa).toNat &&& 0x7F007F ||| vetoForced }
      vxeQ := x.vxeQ ++ [q] } k).pump t)) ∧
  ∀ (s : State) (t k : Nat) (sl : Slot) (f : VecF), Safety.Ready s t k sl → s.held .tile t = false →
    f.fmt = 0 → f.fmt2 = 0 → f.amxe = false →
    (∃ u, exec (.vsetStep t f) s = .next u ∧ (u.tile t).vxe.step = ((s.tile t).reg f.xa).toNat % 2 ^ 32 ∧
      (u.tile t).vxe.veto = (s.tile t).vxe.veto ∧ (u.tile t).vxe.regs = (s.tile t).vxe.regs ∧ (u.tile t).regs = (s.tile t).regs ∧
      ∃ r, (u.tile t).vxe.inflight = [r] ∧ r.regs = [] ∧ r.scal = [] ∧ r.sram = [] ∧ r.sig = if f.sig then some f.sigTok else none) ∧
    ∃ u, exec (.vsetVetoMask t f) s = .next u ∧ (u.tile t).vxe.step = (s.tile t).vxe.step ∧
      (u.tile t).vxe.veto = (((s.tile t).reg f.xa).toNat &&& 0x7F007F ||| vetoForced) ∧
      (∀ b, bit vetoForced b = true → bit (u.tile t).vxe.veto b = true) ∧
      (u.tile t).vxe.regs = (s.tile t).vxe.regs ∧ (u.tile t).regs = (s.tile t).regs ∧
      ∃ r, (u.tile t).vxe.inflight = [r] ∧ r.regs = [] ∧ r.scal = [] ∧ r.sram = []

/-- VXE_RESULT_WRITE (R118, R131, R143). -/
def Obligations.VectorResultsLand : Prop :=
  ∀ (s : State) (t k : Nat) (r : VRes), t < 384 → t < s.tiles.length →
    s.live t = true → (s.tile t).vxe.inflight[k]? = some r →
    exec (.vxeResultWrite t k) s = .next (((s.modTile t fun x =>
      { x with vxe := { x.vxe with inflight := x.vxe.inflight.eraseIdx k } }).vApply t r).pump t) ∧
    (Safety.Quiet (s.tile t) → Safety.Memory.wf s = true → (∀ tok, r.sig = some tok → (s.tile t).tokens.getD tok 0 + 1 ≤ 65535) →
      ∃ u, exec (.vxeResultWrite t k) s = .next u ∧ (u.tile t).vxe.inflight = (s.tile t).vxe.inflight.eraseIdx k ∧
        (u.tile t).vxe.regs = r.regs.foldl (fun l e => l.set e.1 e.2) (s.tile t).vxe.regs ∧
        (u.tile t).regs = r.scal.foldl (fun l e => l.set e.1 e.2) (s.tile t).regs ∧
        (u.tile t).vxe.tileFlags = (s.tile t).vxe.tileFlags ||| r.flags ∧
        (∀ n v, r.amax = some (n, v) → n < (s.tile t).vxe.amax.length →
          (u.tile t).vxe.amax.getD n 0 = max ((s.tile t).vxe.amax.getD n 0) v) ∧
        (∀ tok, r.sig = some tok → tok < (s.tile t).tokens.length →
          (u.tile t).tokens.getD tok 0 = (s.tile t).tokens.getD tok 0 + 1) ∧
        (r.sram = [] → u.sram = s.sram) ∧
        (∀ a bs, r.sram = [(a, bs)] → a + bs.length ≤ 2 ^ 21 → u.sramRead t a bs.length = bs ∧
          ∀ b, b < 2 ^ 21 → b < a ∨ a + bs.length ≤ b → u.sramRead t b 1 = s.sramRead t b 1) ∧
        (∀ e ∈ (u.tile t).track, e.id ≠ r.info.id) ∧ u.hbm = s.hbm)

/-- Result records (R119, R120, R131, R133, R145). -/
def Obligations.VectorRecords : Prop :=
  ∀ (env : VEnv) (x : VItem) (r : VRes), vCompute env x = .res r →
    (x.kind = .vld → r.regs = [(x.f.vd, vOfBytes (env.ram x.addr 256))] ∧ r.scal = [] ∧ r.sram = []) ∧
    (x.kind = .vst → r.sram = [(x.addr, vBytes (env.reg x.f.va))] ∧ r.regs = [] ∧ r.scal = []) ∧
    (x.kind = .valu → x.f.sub = 0 → x.f.fmt = 0 → ∃ v, r.regs = [(x.f.vd, v)] ∧ ∀ n, n < 64 →
      (vLanes v 32).getD n 0 = (fAdd fp32 x.f.sat ((vLanes (env.reg x.f.va) 32).getD n 0)
        ((vLanes (env.reg x.f.vb) 32).getD n 0)).1 % 2 ^ 32) ∧
    (x.kind = .vpop → x.f.sub = 0 → ∀ e, env.entry = some e → r.sram = [] ∧
      r.scal = [(x.f.xa, BitVec.ofNat 64 (e.info.layer % 65536 + e.info.op % 65536 * 65536))] ∧
      ∀ n, n < 4 → (r.regs.map Prod.fst).getD n 0 = x.f.vd + n) ∧
    (x.kind = .vamax → r.scal = [(x.f.xa, BitVec.ofNat 64 (env.amax.getD x.f.amx 0))] ∧ r.regs = [] ∧ r.sram = []) ∧
    (x.kind = .vflag → r.scal = [(x.f.xa, BitVec.ofNat 64 (if bit x.f.sub 0 then env.tileFl else env.strandFl))] ∧
      r.regs = [] ∧ r.sram = [])

/-- VPERM (R125). -/
def Obligations.PermuteByIndex : Prop :=
  ∀ (env : VEnv) (x : VItem) (n w : Nat), x.kind = .vperm →
    (x.f.fmt = 0 ∧ n = 6 ∧ w = 32 ∨ (x.f.fmt = 1 ∨ x.f.fmt = 2) ∧ n = 7 ∧ w = 16) →
    ∃ (r : VRes) (v : VReg), vCompute env x = .res r ∧ r.flags = 0 ∧ r.regs = [(x.f.vd, v)] ∧ r.scal = [] ∧ r.sram = [] ∧
      ∀ l i, l < 2 ^ n → i = (vLanes (env.reg x.f.vb) w).getD l 0 % 256 →
        (vLanes v w).getD l 0 = (vLanes (env.reg (if bit i n then x.f.vc else x.f.va)) w).getD (i % 2 ^ n) 0

/-- VMASK (R142). -/
def Obligations.MaskKeepsElements : Prop :=
  (∀ (env : VEnv) (x : VItem), x.kind = .vmask →
    ∃ r : VRes, vCompute env x = .res r ∧ r.flags = 0 ∧ r.scal = [] ∧ r.sram = [] ∧
      r.regs.map Prod.fst = [x.f.vd, x.f.vd + 1, x.f.vd + 2, x.f.vd + 3] ∧
      ∀ row col q k, row < 16 → col < 16 → q = (env.sca x.f.xa).toNat + row → k = (env.sca x.f.xb).toNat + col →
        (vLanes ((r.regs.map Prod.snd).getD (row / 4) 0) 32).getD (row % 4 * 16 + col) 0 =
          if (bit x.f.sub 0 = true → k ≤ q) ∧
             (bit x.f.sub 1 = true → tagOf env.seqtab q = tagOf env.seqtab k ∧ tagOf env.seqtab q ≠ 0xFF) ∧
             (bit x.f.sub 2 = true → (q : Int) - k < x.f.imm)
          then (vLanes (env.reg (x.f.vd + row / 4)) 32).getD (row % 4 * 16 + col) 0 else 0xFF800000) ∧
  ∀ f : VecF, bit f.sub 2 = true → f.imm = 0 → vFmtOk .vmask f = false

/-- PRD, PWR, PLAND, PGATH, PSCAT, PAMO, REEF_PUT and REEF_CLOSE (R233 to R238, R268, R270, R272, R323, R324): issue. -/
def Obligations.PorterIssueCompletes : Prop :=
  ∀ (s : State) (t k : Nat) (sl : Slot), Safety.Issues s t k sl →
    (sl.acqOps.any (s.tile t).opOpen || !(sl.rels.all fun r => s.released r.1 t sl.inst r.2)) = false →
    (∀ (f : PorF) (i : Instr) (kind : PKind), (i, kind) ∈ [(Instr.prd t f, PKind.prd), (.pwr t f, .pwr), (.pland t f, .pland),
        (.pgath t f, .pgath), (.pscat t f, .pscat), (.pamo t f, .pamo)] →
      (4 ≤ (s.tile t).porQ.length → exec i s = .next (s.pump t)) ∧
      ((s.tile t).porQ.length < 4 →
        (porBad kind f = true → exec i s = .next ((s.fault t (Safety.infoAt s t k sl) true 1 0x01 sl.ip).pump t)) ∧
        (porBad kind f = false → (f.xre && (s.tile t).scaWritten (s.tile t).nextId f.xr) = true → exec i s = .next (s.pump t)) ∧
        (porBad kind f = false → (f.xre && (s.tile t).scaWritten (s.tile t).nextId f.xr) = false →
          (s.tile t).spansBreach sl (porSpans kind f (porIdx kind ((s.tile t).reg f.xr).toNat)) = none →
          (s.tile t).trackFits (porSpans kind f (porIdx kind ((s.tile t).reg f.xr).toNat)) = true →
          exec i s = .next ((s.modTile t fun x => Safety.issued (
            let z := { x.register (Safety.infoAt s t k sl) (porSpans kind f (porIdx kind ((s.tile t).reg f.xr).toNat)) with
              porQ := x.porQ ++ [PorOp.new (Safety.infoAt s t k sl) kind f (porAddr kind f ((s.tile t).reg f.xr).toNat)
                (porIdx kind ((s.tile t).reg f.xr).toNat)] }
            if porAcquires kind f then
              z.modSlot k fun sl => { sl with acqOps := sl.acqOps ++ [(Safety.infoAt s t k sl).id] } else z) k).pump t)))) ∧
    ((s.tile t).porQ.length < 4 →
      (∀ f : ReefPutF, (f.xre && (s.tile t).scaWritten (s.tile t).nextId f.xr) = false →
        (s.tile t).spansBreach sl [⟨f.lbase * 64, 64 * f.len, false⟩] = none →
        (s.tile t).trackFits [⟨f.lbase * 64, 64 * f.len, false⟩] = true →
        exec (.reefPut t f) s = .next ((s.modTile t fun x => Safety.issued
          { x.register (Safety.infoAt s t k sl) [⟨f.lbase * 64, 64 * f.len, false⟩] with
            porQ := x.porQ ++ [PorOp.new (Safety.infoAt s t k sl) (.reefPut f.bucket f.group) (reefF f.lbase f.len f.sigTok f.sig) 0
              (f.elemOfs + if f.xre then ((s.tile t).reg f.xr).toNat else 0)] } k).pump t)) ∧
      ∀ group sigTok sig, (s.tile t).trackFits [] = true →
        exec (.reefClose t group sigTok sig) s = .next ((s.modTile t fun x => Safety.issued
          { x with porQ := x.porQ ++ [PorOp.new (Safety.infoAt s t k sl) (.reefClose group) (reefF 0 0 sigTok sig) 0 0] } k).pump t))

/-- Beginning (R234, R238, R269) and RELEASE_BEGIN. -/
def Obligations.PorterBegins : Prop :=
  (∀ (s : State) (t id : Nat), t < 384 → (∀ o ∈ (s.tile t).porQ.head?, o.info.id ≠ id ∨ o.isRelease = false) →
    exec (.releaseBegin t id) s = .next s) ∧
  ∀ (s : State) (t : Nat) (o : PorOp) (rest : List PorOp), t < 384 → t < s.tiles.length → s.live t = true →
    (s.tile t).porQ = o :: rest → (s.tile t).blocked o.info.id (porSpans o.kind o.f o.elemOfs) = false →
    (∀ b g, o.kind ≠ .reefPut b g) → (∀ g, o.kind ≠ .reefClose g) →
    (o.isRelease = true → s.porBegin t = none) ∧
    (o.isRelease = false → s.porBegin t = some (s.porStart t o)) ∧
    (o.isRelease = true → s.released o.f.scope t o.info.inst o.info.id = true →
      exec (.releaseBegin t o.info.id) s = .next ((s.porStart t o).pump t)) ∧
    (s.released o.f.scope t o.info.inst o.info.id = false → exec (.releaseBegin t o.info.id) s = .next s) ∧
    ((s.tile t).recompHit (porSpans o.kind o.f o.elemOfs) = none → o.isItem = false →
      porBreach s ((s.partOfTile t).getD 0) { o with begun := true, index := [], node := match s.target ((s.partOfTile t).getD 0) o.addr with
        | .node n => some n | _ => none } = none →
      ∃ o', ((s.porStart t o).tile t).ops = (s.tile t).ops ++ [o'] ∧ o'.info = o.info ∧ o'.begun = true ∧
        ((s.porStart t o).tile t).porQ = rest ∧ (s.porStart t o).sram = s.sram ∧ (s.porStart t o).hbm = s.hbm)

/-- PORTER_REQUEST_COMPLETE (R234, R254). -/
def Obligations.PorterAnswersLand : Prop :=
  ∀ (s : State) (t id r : Nat) (crc : CrcOutcome), t < 384 →
    (s.takesReturns t = false → exec (.porterRequestComplete t id r crc) s = .next s) ∧
    (s.takesReturns t = true → ((s.tile t).ops.find? fun o => o.info.id == id) = none →
      exec (.porterRequestComplete t id r crc) s = .next (s.pump t)) ∧
    ∀ (o : PorOp) (x : Resp), s.takesReturns t = true → t < s.tiles.length →
      ((s.tile t).ops.find? fun o => o.info.id == id) = some o →
      ((o.resps.find? fun x => x.req == r) = none → exec (.porterRequestComplete t id r crc) s = .next (s.pump t)) ∧
      ((o.resps.find? fun x => x.req == r) = some x → o.dead = false → x.fin = .ok → x.crc = none → o.f.sig = false →
        o.ends.findSome? ReqEnd.cause = none →
        ∃ u : State, exec (.porterRequestComplete t id r crc) s = .next (u.pump t) ∧ u.hbm = s.hbm ∧
          (o.isWrite = true → o.kind ≠ .pamo → u.sram = s.sram) ∧
          (o.kind = .prd → o.f.sub % 4 = 0 → x.data.length = 64 → o.f.lbase * 64 + 64 * r + 64 ≤ 2 ^ 21 → Safety.Memory.wf s = true →
            u.sramRead t (o.f.lbase * 64 + 64 * r) 64 = x.data ∧
            ∀ a, a < 2 ^ 21 → a < o.f.lbase * 64 + 64 * r ∨ o.f.lbase * 64 + 64 * r + 64 ≤ a →
              u.sramRead t a 1 = s.sramRead t a 1) ∧
          (o.total ≤ o.got.length + 1 → ((u.tile t).ops.find? fun o => o.info.id == id) = none))

/-- STRAND_LAUNCH, STRAND_COMPLETE, REEXECUTION and STRAND_WATCHDOG (R179, R183, R188 to R191, R219, R373; log entry 126). -/
def Obligations.StrandsRun : Prop :=
  ∀ (s : State) (t : Nat), t < 384 → t < s.tiles.length →
    (∀ d k, (s.tile t).nextDesc = some d → freeSlot (s.tile t).slots = some k →
      (s.tile t).mayLaunch d (s.region (t / 12)).beat = true →
      (s.live t = true → s.held .tile t = false → ∃ u sl, exec (.strandLaunch t) s = .next u ∧ (u.tile t).slots = (s.tile t).slots.set k (some sl) ∧
        sl.desc = d ∧ sl.phase = .issuing ∧ sl.ip = d.ip ∧ sl.flags = 0 ∧ sl.loops = [] ∧ sl.tries = 0 ∧
        (d.timed = false → sl.late = 0) ∧
        (∀ n, n < 16 → (u.tile t).tokens.getD n 0 = (s.tile t).tokens.getD n 0 - if d.tokened && bit d.waitMask n then 1 else 0) ∧
        (∀ v, v ≠ t → u.tile v = s.tile v) ∧ u.sram = s.sram ∧ u.regions = s.regions) ∧
      ((s.region (t / 12)).fenced = true → s.tileFrozen t = false →
        exec (.strandLaunch t) s = .next (s.fault t (s.unlaunched t d) false 3 1 0))) ∧
    (∀ d, (s.tile t).nextDesc = some d → (s.tile t).mayLaunch d (s.region (t / 12)).beat = false →
      exec (.strandLaunch t) s = .next s) ∧
    (∀ k sl, k < 4 → (s.tile t).slots.getD k none = some sl → s.tileFrozen t = false →
      (sl.phase ≠ .retiring ∨ (s.tile t).workDone sl.inst = false → exec (.strandComplete t k) s = .next s) ∧
      (sl.phase = .retiring → (s.tile t).workDone sl.inst = true →
        (∀ n, n < 16 → bit sl.desc.signalMask n = true → (s.tile t).tokens.getD n 0 < 65535) → (s.tile t).tokens.length = 16 →
        ∃ u : State, exec (.strandComplete t k) s = .next ((u.pump t).endPass (s.partOfTile t)) ∧
          (u.tile t).slots = (s.tile t).slots.set k none ∧
          (∀ n, n < 16 → (u.tile t).tokens.getD n 0 = (s.tile t).tokens.getD n 0 + if bit sl.desc.signalMask n then 1 else 0) ∧
          u.sram = s.sram)) ∧
    (∀ k sl, k < 4 → s.live t = true → (s.tile t).slots.getD k none = some sl → sl.phase = .reissue → (s.tile t).issuing = none →
      ∃ u sl', exec (.reexecution t k) s = .next u ∧ (u.tile t).slots.getD k none = some sl' ∧ sl'.phase = .issuing ∧
        sl'.ip = sl.desc.ip ∧ sl'.tries = sl.tries + 1 ∧ sl'.flags = 0 ∧ sl'.loops = [] ∧ sl'.desc = sl.desc ∧
        (u.tile t).arr.spliceW = 0 ∧ u.sram = s.sram) ∧
    ((s.partOfTile t).any s.timersStopped = false →
      (∀ k sl, (s.tile t).slots.getD k none = some sl →
        (limitPassed (s.localBeat t) sl.limitFrom ((s.tile t).limit sl.desc) = false → exec (.strandWatchdog t k) s = .next s) ∧
        (sl.barked = false → (s.tile t).complete_ sl = false →
          limitPassed (s.localBeat t) sl.limitFrom ((s.tile t).limit sl.desc) = true →
          ∃ i, exec (.strandWatchdog t k) s = .next ((s.modTile t fun x => x.modSlot k fun z => { z with barked := true }).fault t i true 5 2 0))) ∧
      ∀ k d, (s.tile t).slots.getD k none = none → (s.tile t).nextDesc = some d → (s.tile t).considered.isSome = true →
        (s.tile t).barked = false → limitPassed (s.localBeat t) ((s.tile t).limitStart d) ((s.tile t).limit d) = true →
        exec (.strandWatchdog t k) s =
          .next ((s.modTile t fun x => { x with barked := true }).fault t (s.unlaunched t d) false 5 1 0)) ∧
    ∀ k, (s.partOfTile t).any s.timersStopped = true → exec (.strandWatchdog t k) s = .next s

/-- HOME_SLICE_OPERATION (R239 to R243, R259). -/
def Obligations.HomeSliceServes : Prop :=
  (∀ (s : State) (d k : Nat) (parity : Bool), d < 4 → k < 16 →
    ((s.die d).slices.getD k ⟨[], 0, [0, 0, 0, 0]⟩).waiting.all (fun q => !s.reqReady q) = true →
    exec (.homeSliceOperation d k parity) s = .next s) ∧
  ∀ (s : State) (d k : Nat) (q : HomeReq) (parity : Bool), d < 4 → k < 16 →
    (s.die d).slices.getD k ⟨[], 0, [0, 0, 0, 0]⟩ = ⟨[q], 0, [0, 0, 0, 0]⟩ → s.reqReady q = true →
    q.cls = 1 ∨ q.cls = 2 ∨ q.cls = 3 ∨ q.cls = 4 →
    ∃ s1 : State, (∀ key e, s1.lineRead e key = s.lineRead e key) ∧ s1.tiles = s.tiles ∧ s1.hbm = s.hbm ∧ s1.sram = s.sram ∧
      (d < s.dies.length → k < (s.die d).slices.length → (s1.die d).slices.getD k ⟨[], 0, [0, 0, 0, 0]⟩ = ⟨[], 1, modAt [0, 0, 0, 0] (q.cls - 1) (· + 1)⟩) ∧
      (s.allocOfReq q = none → exec (.homeSliceOperation d k parity) s =
        .next (s1.answer_ q.who (.refused 1 (if q.kind.isAtomic then 0x22 else 0x20) q.off) [] none)) ∧
      ∀ al, s.allocOfReq q = some al → exec (.homeSliceOperation d k parity) s =
        .next ((s1.homeApply al q parity).s.answer_ q.who (s1.homeApply al q parity).fin (s1.homeApply al q parity).data
          (s1.homeApply al q parity).crc)

/-- Reads, writes, item writes and atomics at a home (R239, R242, R259, R260). -/
def Obligations.HomeUpdatesOneLine : Prop :=
  ∀ (s : State) (al : Alloc) (q : HomeReq) (key d : Nat), Safety.Memory.wf s = true → Safety.Cache.coherent s d →
    key = physKey (place al (q.off / 64 * 64)) / 64 → d = (place al (q.off / 64 * 64)).1 / 5 → d < s.dies.length →
    (s.stk (place al (q.off / 64 * 64)).1).lost = false → s.linePoison d key = false →
    (q.kind = .readLine → (s.homeApply al q false).fin = .ok ∧ (s.homeApply al q false).data = s.lineRead d key ∧
      ∀ k', (s.homeApply al q false).s.lineRead d k' = s.lineRead d k') ∧
    (∀ m data, q.kind = .writeLine m data → data.length = 64 → (s.homeApply al q false).fin = .ok ∧
      (s.homeApply al q false).s.lineRead d key = mergeMask (s.lineRead d key) data m ∧
      (m = 2 ^ 64 - 1 → (s.homeApply al q false).s.lineRead d key = data) ∧
      ∀ k', k' ≠ key → (s.homeApply al q false).s.lineRead d k' = s.lineRead d k') ∧
    (∀ data, q.kind = .writeItem data → q.off % 64 + data.length ≤ 64 →
      (s.homeApply al q false).s.lineRead d key = splice (s.lineRead d key) (q.off % 64) data ∧
      ∀ k', k' ≠ key → (s.homeApply al q false).s.lineRead d k' = s.lineRead d k') ∧
    ∀ aop ret opd, q.kind = .atomic aop ret opd →
      ((atomicApply aop ((s.lineRead d key).drop (q.off % 64)) opd).1.length + q.off % 64 ≤ 64) →
      (s.homeApply al q false).s.lineRead d key =
        splice (s.lineRead d key) (q.off % 64) (atomicApply aop ((s.lineRead d key).drop (q.off % 64)) opd).1 ∧
      (s.homeApply al q false).data = (if ret then (atomicApply aop ((s.lineRead d key).drop (q.off % 64)) opd).2 else []) ∧
      ∀ k', k' ≠ key → (s.homeApply al q false).s.lineRead d k' = s.lineRead d k'

/-- CACHE_EVICT and SCRUB_BLOCK (R171, R239, R249, R252). -/
def Obligations.EvictionIsInvisible : Prop :=
  (∀ (s : State) (d key : Nat), d < 4 → d < s.dies.length → Safety.Memory.wf s = true → Safety.Cache.coherent s d → key < 2 ^ 40 →
    (s.cached d key = none → exec (.cacheEvict d key) s = .next s) ∧
    ∀ l, s.cached d key = some l →
      (l.dirty = true → s.keyReady key = false → exec (.cacheEvict d key) s = .next s) ∧
      ((l.dirty = true → s.keyReady key = true) →
        ∃ u : State, exec (.cacheEvict d key) s = .next u ∧ u.cached d key = none ∧ (∀ k', u.lineRead d k' = s.lineRead d k') ∧
          cellsRead u.hbm (key * 64) 64 = l.data ∧ u.sram = s.sram)) ∧
  (∀ (s : State) (d blk : Nat), d < 4 → d = dieOfKey blk →
    ∃ u : State, exec (.cacheEvict d (crcLine blk)) s = .next u ∧ u.crcOf blk = s.crcOf blk ∧ u.hbm = s.hbm) ∧
  ∀ (s : State) (d block : Nat), d < 4 →
    ((∀ al ∈ s.allocs, (al.e.crc && al.has block && block % 4096 == 0 && (place al block).1 / 5 == d) = false) →
      exec (.scrubBlock d block) s = .next s) ∧
    ∀ al, s.allocs.filter (fun al => al.e.crc && al.has block && block % 4096 == 0 && (place al block).1 / 5 == d) = [al] →
      (((s.die d).scrubbed.any fun e => e.1 == physKey (place al block) && e.2 / s.scrubNs == s.now / s.scrubNs) = true ∨
        ((List.range 16).all fun c => s.stackReady al (block + 256 * c)) = false → exec (.scrubBlock d block) s = .next s) ∧
      (((s.die d).scrubbed.any fun e => e.1 == physKey (place al block) && e.2 / s.scrubNs == s.now / s.scrubNs) = false →
        ((List.range 16).all fun c => s.stackReady al (block + 256 * c)) = true →
        ∃ u : State, u = (s.readBlock al block).1.modDie d (fun x => { x with
            scrubbed := (physKey (place al block), (s.readBlock al block).1.now) :: x.scrubbed.filter fun e => e.1 != physKey (place al block) }) ∧
          exec (.scrubBlock d block) s = .next (if crc32c (s.readBlock al block).2 = (s.readBlock al block).1.blockCrc al block then u
            else (u.post (some al.part) 0x000D d 0 0 block).log 0x000B al.part [d, block]))

/-- TILE_SRAM_LINE_REQUEST (R165, R197, R232, R256) and FLAG_LAND (R237, R262, R263, R279). -/
def Obligations.TileRequestsServed : Prop :=
  (∀ (s : State) (t : Nat) (upset : Option Nat), t < 384 → s.nextTileReq t = none → exec (.tileSramLineRequest t upset) s = .next s) ∧
  (∀ (s : State) (t : Nat) (q : HomeReq) (upset : Option Nat) (v : State) (full : Bool), t < 384 → s.nextTileReq t = some q →
    v = upsetIn { s with tileReqs := s.tileReqs.erase (t, q) } t upset →
    full = (match q.who.region with | some r => s.reqsFull (12 * r) t | none => false) → (s.held .tile t && !s.wasOpen q.who) = false →
    ((s.region (t / 12)).fenced = true → exec (.tileSramLineRequest t upset) s =
      .next ((v.answer_ q.who (.refused 3 1 q.off) [] none).pumpRegion (q.who.region.getD 0) full)) ∧
    ((s.region (t / 12)).fenced = false →
      (∀ m data, q.kind = .writeLine m data → ∃ u : State,
        exec (.tileSramLineRequest t upset) s = .next ((u.answer_ q.who .ok [] none).pumpRegion (q.who.region.getD 0) full) ∧
        u.tileReqs = v.tileReqs ∧
        (Safety.Memory.wf s = true → data.length = 64 → aOfOff q.off + 64 ≤ 2 ^ 21 →
          (∀ k, k < 64 → u.sramRead t (aOfOff q.off + k) 1 =
            if m / 2 ^ k % 2 = 1 then [data.getD k 0] else s.sramRead t (aOfOff q.off + k) 1) ∧
          ∀ a, a < 2 ^ 21 → a < aOfOff q.off ∨ aOfOff q.off + 64 ≤ a → u.sramRead t a 1 = s.sramRead t a 1)) ∧
      (q.kind = .readLine → v.sramBadIn t (aOfOff q.off) 64 = none → exec (.tileSramLineRequest t upset) s =
        .next ((v.answer_ q.who .ok (s.sramRead t (aOfOff q.off) 64) none).pumpRegion (q.who.region.getD 0) full)) ∧
      ∀ b, q.kind = .readLine → v.sramBadIn t (aOfOff q.off) 64 = some b → exec (.tileSramLineRequest t upset) s =
        .next (((v.postParity t b rdPorter q.layer q.op).answer_ q.who (.dataBad 2 b) (s.sramRead t (aOfOff q.off) 64) none).pumpRegion
          (q.who.region.getD 0) full))) ∧
  ∀ (s : State) (d k : Nat), d < 4 →
    ((s.die d).flags[k]? = none → exec (.flagLand d k) s = .next s) ∧
    ∀ fl, (s.die d).flags[k]? = some fl →
      (s.flagReady fl = false ∨ s.flagPlaceReady fl = false → exec (.flagLand d k) s = .next s) ∧
      (s.flagReady fl = true → s.flagPlaceReady fl = true → (∀ t op r, fl.who = .tile t op r → s.tileFrozen t = false) →
        exec (.flagLand d k) s = .next (((((s.landFlag fl).s.modDie d fun x => { x with flags := x.flags.eraseIdx k }).flagFill d).answer_
          fl.who (s.landFlag fl).fin [] none)) ∧
        (isTileSram fl.off = true → (s.region (tileOfOff fl.off / 12)).fenced = false → Safety.Memory.wf s = true →
          fl.data.length = 64 → aOfOff fl.off + 64 ≤ 2 ^ 21 → tileOfOff fl.off < s.tiles.length →
          (s.tile (tileOfOff fl.off)).tokens.getD fl.ttok 0 + fl.tcnt ≤ 65535 →
          (s.landFlag fl).fin = .ok ∧ (s.landFlag fl).s.sramRead (tileOfOff fl.off) (aOfOff fl.off) 64 = fl.data ∧
          ((s.landFlag fl).s.tile (tileOfOff fl.off)).tokens = (if fl.tcnt = 0 then (s.tile (tileOfOff fl.off)).tokens
            else (s.tile (tileOfOff fl.off)).tokens.set fl.ttok ((s.tile (tileOfOff fl.off)).tokens.getD fl.ttok 0 + fl.tcnt)) ∧
          (s.landFlag fl).s.hbm = s.hbm))

/-- LNY_TRIM_WRITE, LNY_ADJ_WRITE, LNY_SET_WRITE, HCH_CTRL_WRITE and CONTROL_REGISTER_WRITE on the Lanyard block (R149, R150,
R153, R154). -/
def Obligations.TimerAndAdjustWrites : Prop :=
  ∀ (s : State) (v : W64) (off : Nat),
    (∀ i, (i, off) ∈ [(Instr.lnyTrimWrite false v, 0x10018), (.lnyAdjWrite false v, 0x10020), (.lnySetWrite false v, 0x10028),
        (.hchCtrlWrite false v, 0x10100)] →
      exec i s = .next (s.post none 0x0003 0x0500 0 0 off) ∧
      exec (.controlRegisterWrite false off 8 v) s = .next (s.post none 0x0003 0x0500 0 0 off)) ∧
    (off = 0x10000 ∨ off = 0x10008 ∨ off = 0x10010 ∨ off = 0x10030 ∨ off = 0x10038 ∨ off = 0x10040 →
      exec (.controlRegisterWrite false off 8 v) s = .next (s.post none 0x0003 0x0500 0 0 off)) ∧
    (∀ by_ n, n < 8 → ∃ l : Lny, exec (.controlRegisterWrite by_ (0x10080 + 8 * n) 8 v) s = .next { s with lny := l } ∧
      (n < s.lny.tmr.length → l.tmr.getD n 0 = v.toNat) ∧ (∀ m, m ≠ n → l.tmr.getD m 0 = s.lny.tmr.getD m 0) ∧
      l.now = s.lny.now ∧ l.tmrEn = s.lny.tmrEn ∧ l.tmrFired = s.lny.tmrFired) ∧
    (∃ l : Lny, exec (.lnyTrimWrite true v) s = .next { s with lny := l } ∧ l.now = s.lny.now ∧
      l.trim = max (-(2 ^ 28)) (min (2 ^ 28) (toSigned 32 (v.toNat % 2 ^ 32)))) ∧
    (∃ l : Lny, exec (.lnyAdjWrite true v) s = .next { s with lny := l } ∧ l.now = s.lny.now ∧
      ((toSigned 32 (v.toNat % 2 ^ 32)).natAbs ≤ 65535 → l.adjRemain = toSigned 32 (v.toNat % 2 ^ 32) ∧ l.adjRefused = s.lny.adjRefused) ∧
      (65535 < (toSigned 32 (v.toNat % 2 ^ 32)).natAbs → l.adjRefused = true ∧ l.adjRemain = s.lny.adjRemain)) ∧
    exec (.controlRegisterWrite true 0x10010 8 v) s = .next (s.modLny fun l => l.setCtrl v.toNat)

/-- LNY_SET_WRITE by the Capstan (R150). -/
def Obligations.LanyardIsSetOnlyForward : Prop :=
  ∀ (s : State) (v : W64),
    (s.anyBound = false → (s.lny.locked = false ∨ s.now ≤ v.toNat) → ∃ u, exec (.lnySetWrite true v) s = .next u ∧
      u.lny.now = v.toNat ∧ u.lny.locked = true ∧ u.lny.setRefused = s.lny.setRefused) ∧
    (s.anyBound = true ∨ (s.lny.locked = true ∧ v.toNat < s.now) →
      exec (.lnySetWrite true v) s = .next (s.modLny fun l => { l with setRefused := true }))

/-- HCH_CTRL_WRITE by the Capstan (R160). -/
def Obligations.ShiftChangesOnlyUnbound : Prop :=
  ∀ (s : State) (v : W64),
    (s.anyBound = true → v.toNat % 32 ≠ s.lny.shift →
      exec (.hchCtrlWrite true v) s = .next (s.post none 0x0006 0x0600 0 0 (v.toNat % 32))) ∧
    (s.anyBound = false → 8 ≤ v.toNat % 32 → v.toNat % 32 ≤ 20 → ∃ u, exec (.hchCtrlWrite true v) s = .next u ∧
      u.lny.shift = v.toNat % 32 ∧ u.lny.now = s.lny.now ∧ u.lny.hintEn = bit v.toNat 5 ∧ u.tiles = s.tiles ∧ u.sram = s.sram) ∧
    (∀ u, exec (.hchCtrlWrite true v) s = .next u → s.anyBound = true → u.lny.shift = s.lny.shift)

/-- CONTROL_REGISTER_WRITE (R6, R19): narrow writes and reserved offsets, also of the registers with commands of their own. -/
def Obligations.NarrowWritesIgnored : Prop :=
  ∀ (s : State) (by_ : Bool) (off width : Nat) (v : W64),
    (width ≠ 8 → exec (.controlRegisterWrite by_ off width v) s = .next (s.post none 0x0001 0x0500 0 0 off)) ∧
    (0x70000 ≤ off → off < 0x100000 → exec (.controlRegisterWrite by_ off 8 v) s = .next (s.post none 0x0002 0x0500 0 0 off)) ∧
    (∀ n, 64 ≤ n → exec (.mbxHandover n v) s = .next (s.post none 0x0002 0x0500 0 0 (0x1000 * (n / 16 + 1) + 0x100 + 0x20 * (n % 16)))) ∧
    (∀ n, 5 ≤ n → exec (.errTailWrite n v) s = .next (s.post none 0x0002 0x0500 0 0 (0x60010 + 0x1000 * n))) ∧
    ∀ (n m : Nat) (w : ReadWidth) (parity : Bool), ∀ i ∈ (if 5 ≤ n then [Instr.errStatusRead n w, .errFaultqRead n w] else []) ++
        [Instr.errFaultqRead 0 w] ++ (if 4 ≤ n then [.errScopeCntRead n w] else []) ++
        (if monExists n m then [] else [.strStatRead n m w]) ++
        (if 0x10000 ≤ n || n % 8 != 0 then [.amberRamRead n w parity] else []),
      exec i s = .next { s with coreAns := some ⟨0, false⟩ }

/-- Posting an event, and ERR_TAIL_WRITE (R481). -/
def Obligations.EventRingHolds32 : Prop :=
  ∀ (s : State) (sc : Nat) (r : EvRec) (v : W64), sc < s.errs.length → sc < 5 → (s.page sc).recs.length = 32 →
    ((s.page sc).full = false → ((s.postPage sc r).page sc).recs.getD ((s.page sc).head % 32) EvRec.zero = r ∧
      (∀ j, j ≠ (s.page sc).head % 32 → ((s.postPage sc r).page sc).recs.getD j EvRec.zero = (s.page sc).recs.getD j EvRec.zero) ∧
      ((s.postPage sc r).page sc).head = ((s.page sc).head + 1) % 64 ∧
      ((s.page sc).irqEn = true → (s.postPage sc r).irqs.contains (36 + sc) = true) ∧
      ((s.page sc).irqEn = false → (s.postPage sc r).irqs = s.irqs)) ∧
    ((s.page sc).full = true → ((s.postPage sc r).page sc).recs = (s.page sc).recs ∧ (s.postPage sc r).irqs = s.irqs ∧
      ((s.postPage sc r).page sc).overflow = true ∧ ((s.postPage sc r).page sc).dropped = min ((s.page sc).dropped + 1) 65535) ∧
    ((v.toNat % 64 + 64 - (s.page sc).tail) % 64 ≤ ((s.page sc).head + 64 - (s.page sc).tail) % 64 → ∃ u,
      exec (.errTailWrite sc v) s = .next u ∧ (u.page sc).tail = v.toNat % 64 ∧ (u.page sc).head = (s.page sc).head ∧
      (u.page sc).recs = (s.page sc).recs) ∧
    (((s.page sc).head + 64 - (s.page sc).tail) % 64 < (v.toNat % 64 + 64 - (s.page sc).tail) % 64 →
      exec (.errTailWrite sc v) s = .next s)

/-- MBX_HANDOVER (R419). -/
def Obligations.SlotsAreHandedOver : Prop :=
  ∀ (s : State) (n : Nat) (v : W64), n < 64 →
    ((s.mbx n).owner = true → exec (.mbxHandover n v) s = .next (s.post (some (n / 16)) 0x0005 n 0 0 v.toNat)) ∧
    ((s.mbx n).owner = false → n < s.cap.mbx.length → ∃ u, exec (.mbxHandover n v) s = .next u ∧
      (u.mbx n).owner = bit v.toNat 0 ∧ (u.mbx n).seq = v.toNat / 2 ^ 16 % 2 ^ 16 ∧ (u.mbx n).table = (s.mbx n).table ∧
      (∀ m, m ≠ n → u.mbx m = s.mbx m) ∧ u.errs = s.errs ∧ u.tiles = s.tiles)

/-- ERR_STATUS_READ, ERR_FAULTQ_READ, ERR_SCOPE_CNT_READ, PWR_INRUSH_READ, STR_STAT_READ and AMBER_RAM_READ (R6, R9, R12, R456,
R480). -/
def Obligations.ReadsClearWhole : Prop :=
  (∀ (s : State) (sc : Nat) (w : ReadWidth), sc < 5 → sc < s.errs.length → ∃ u a, exec (.errStatusRead sc w) s = .next u ∧
    u.coreAns = some ⟨a, false⟩ ∧ (w ≠ .upper → a.toNat &&& 0xFFFF0003 = (s.page sc).status) ∧
    (w = .full → (u.page sc).dropped = 0) ∧ (w ≠ .full → u.errs = s.errs) ∧ (u.page sc).recs = (s.page sc).recs) ∧
  (∀ (s : State) (sc : Nat) (w : ReadWidth), 1 ≤ sc → sc < 5 → sc < s.errs.length → ∃ u a, exec (.errFaultqRead sc w) s = .next u ∧
    u.coreAns = some ⟨a, false⟩ ∧
    (w ≠ .upper → a.toNat % 2 ^ 32 = s.faultsWaiting (sc - 1) % 2 ^ 16 + (s.page sc).faultDrop % 2 ^ 16 * 2 ^ 16) ∧
    (w = .full → (u.page sc).faultDrop = 0) ∧ (w ≠ .full → u.errs = s.errs) ∧ u.dies = s.dies) ∧
  (∀ (s : State) (w : ReadWidth), exec (.errFaultqRead 0 w) s = .next { s with coreAns := some ⟨0, false⟩ }) ∧
  (∀ (s : State) (d : Nat) (w : ReadWidth), d < 4 → d < s.dies.length → ∃ u a, exec (.errScopeCntRead d w) s = .next u ∧
    u.coreAns = some ⟨a, false⟩ ∧ (w ≠ .upper → (s.die d).scopeCnt < 2 ^ 32 → a.toNat % 2 ^ 32 = (s.die d).scopeCnt) ∧
    (w = .full → (u.die d).scopeCnt = 0) ∧ (w ≠ .full → u.dies = s.dies)) ∧
  (∀ (s : State) (w : ReadWidth), ∃ u a, exec (.pwrInrushRead w) s = .next u ∧ u.coreAns = some ⟨a, false⟩ ∧
    (w ≠ .upper → a.toNat % 2 ^ 32 = s.power.deferrals % 2 ^ 32) ∧
    (w = .full → u.power = { s.power with deferrals := 0 }) ∧ (w ≠ .full → u.power = s.power)) ∧
  (∀ (s : State) (d m : Nat) (w : ReadWidth), monExists d m = true → ∃ u a, exec (.strStatRead d m w) s = .next u ∧
    u.coreAns = some ⟨a, false⟩ ∧ (w ≠ .full → u.dies = s.dies ∧ u.spineMons = s.spineMons)) ∧
  ∀ (s : State) (ofs : Nat) (w : ReadWidth) (parity : Bool), ofs < 0x10000 → ofs % 8 = 0 →
    ∃ u a, exec (.amberRamRead ofs w parity) s = .next u ∧ u.coreAns = some ⟨a, false⟩ ∧
      (0x8000 ≤ ofs → a = halfOf w (leNat (cellsRead s.standby.amber ofs 8))) ∧
      u.standby.amber = s.standby.amber ∧ (parity = true → ofs ∈ u.standby.amberBad) ∧
      (parity = false → ofs ∉ s.standby.amberBad → u = { s with coreAns := u.coreAns, free := s.free + 1 }) ∧
      (parity = false → ofs ∈ s.standby.amberBad →
        u = { s.post none 0x0012 0x0500 0 0 ofs with coreAns := u.coreAns, free := s.free + 1 })

/-- HITCH_PULSE, HITCH_CALIBRATION, LNY_SLEW_STEP, TIMER_FIRE, REFCLK_STOP and REFCLK_RESTART (R150, R152, R153, R161, R162). -/
def Obligations.HitchAndLanyardEvents : Prop :=
  ∀ s : State,
    (s.lny.refclk = true → s.beatNow ≠ s.lny.beat → s.lny.dlv = false → (∀ c, s.lny.dlvWait.getD c 0 < 29) →
      s.lny.mayDeliver 1 = true) ∧
    (s.lny.mayDeliver 1 = true → ∃ u, exec .hitchPulse s = .next u ∧ u.lny = { s.lny.deliver 1 with beat := s.beatNow } ∧
      u.regions.length = s.regions.length ∧ (∀ r, r < s.regions.length → (u.region r).beat = s.lny.now / 2 ^ s.lny.shift % 2 ^ 48 ∧
        (u.region r).frac = 0 ∧ (u.region r).pulseAt = s.beatNow * 2 ^ s.lny.shift - (s.region r).delay ∧
        (u.region r).steps = (s.region r).steps ∧ (u.region r).gear = (s.region r).gear) ∧
      (∀ d, d < s.dies.length → (u.die d).beat = s.beatNow ∧ (u.die d).beatFrac = 0) ∧
      { u with lny := s.lny, regions := s.regions, dies := s.dies } = s) ∧
    (s.lny.mayDeliver 1 = false → exec .hitchPulse s = .next s) ∧
    (∀ delays : List Nat, delays.length = 32 → s.regions.length = 32 → s.lny.calDone = false ∨ s.lny.calAt + 2 ^ 30 ≤ s.now →
      ∃ u, exec (.hitchCalibration delays) s = .next u ∧
      (∀ r, r < 32 → (u.region r).delay = delays.getD r 0 ∧ (u.region r).beat = (s.region r).beat) ∧
      u.lny = { s.lny with calDone := true, calAt := s.now } ∧ { u with regions := s.regions, lny := s.lny } = s) ∧
    (∀ delays : List Nat, delays.length ≠ 32 ∨ (s.lny.calDone = true ∧ s.now < s.lny.calAt + 2 ^ 30) →
      exec (.hitchCalibration delays) s = .next s) ∧
    (0 < s.lny.adjRemain → 4096 ≤ s.lny.slewCycles → exec .lnySlewStep s = .next { s with lny :=
      { s.lny with now := s.lny.now + 1, adjRemain := s.lny.adjRemain - 1, slewCycles := 0 } }) ∧
    (s.lny.adjRemain < 0 → 4096 ≤ s.lny.slewCycles → exec .lnySlewStep s = .next { s with lny :=
      { s.lny with skip := true, adjRemain := s.lny.adjRemain + 1, slewCycles := 0 } }) ∧
    (s.lny.adjRemain = 0 ∨ s.lny.slewCycles < 4096 → exec .lnySlewStep s = .next s) ∧
    (∀ n, n < 8 → bit s.lny.tmrEn n = true → bit s.lny.tmrArmed n = true → s.lny.tmr.getD n 0 ≤ s.lny.now → s.lny.mayDeliver 3 = true →
      ∃ u, exec (.timerFire n) s = .next u ∧ bit u.lny.tmrFired n = true ∧ u.irqs.contains (48 + n) = true ∧
        bit u.lny.tmrArmed n = false ∧ u.lny.now = s.lny.now ∧ u.lny.dlv = true ∧ { u with lny := s.lny, irqs := s.irqs } = s) ∧
    (∀ n, n < 8 → s.lny.now < s.lny.tmr.getD n 0 ∨ s.lny.mayDeliver 3 = false → exec (.timerFire n) s = .next s) ∧
    exec .refclkStop s = .next { s with lny := { s.lny with refclk := false } } ∧
    (s.lny.refclk = false → ∃ u, exec .refclkRestart s = .next u ∧ u.lny.refclk = true ∧ u.lny.holdover = true ∧
      u.lny.now = s.lny.now ∧ u.lny.trim = s.lny.trim) ∧
    (s.lny.refclk = true → exec .refclkRestart s = .next s)

/-- PTP_MESSAGE, PPS_EDGE, TIME_TRANSFER_START, TIME_RSP, HOLDOVER_ENTRY, HOLDOVER_TICK and HINT_PULSE (R155, R156, R158, R177,
R282, R309, R496). -/
def Obligations.TimeSources : Prop :=
  ∀ s : State,
    (∀ x : PtpMsg, ∃ stamp, s.now ≤ stamp + 2 ∧ stamp ≤ s.now + 2 ∧ exec (.ptpMessage x) s =
      .next { s with lny := { s.lny with ptpWait := s.lny.ptpWait ++ [(x, stamp)] }, free := s.free + 1 }) ∧
    (∀ (d seq t4 sq t1 t2 t3 stamp : Nat), s.lny.src = 1 → d = s.lny.domain → s.lny.ptpSync = some (sq, some t1, t2) →
      s.lny.ptpDelay = some (seq, t3) → ∃ u : State, s.ptpTake (.delayResp d seq t4) stamp = u ∧
      u.lny.holdover = false ∧ u.lny.now = s.lny.now ∧ u.lny.tmr = s.lny.tmr ∧ u.lny.shift = s.lny.shift ∧ u.lny.ptpSync = none) ∧
    (∀ (d seq t4 stamp : Nat), s.lny.src ≠ 1 ∨ d ≠ s.lny.domain → s.ptpTake (.delayResp d seq t4) stamp = s ∧
      ∀ t1 b, s.ptpTake (.sync d seq t1 b) stamp = s) ∧
    (s.lny.ppsSeen = true → s.lny.now < s.lny.ppsTs + 500000000 →
      exec .ppsEdge s = .next { s with lny := { s.lny with ppsIgnored := s.lny.ppsIgnored + 1 } }) ∧
    ((s.lny.ppsSeen = false ∨ s.lny.ppsTs + 500000000 ≤ s.lny.now) → ∃ u, exec .ppsEdge s = .next u ∧ u.lny.ppsTs = s.lny.now ∧
      u.lny.ppsSeen = true ∧ u.lny.now = s.lny.now ∧ u.lny.ppsIgnored = s.lny.ppsIgnored) ∧
    (∀ p, s.lny.src = 2 → s.lny.master = false → s.fabric.lastTimeReq + 2 ^ 20 ≤ s.lny.now → s.timePort = some p →
      ∃ u, exec .timeTransferStart s = .next u ∧ u.fabric.timeReqAt = some (p, s.lny.now) ∧ u.fabric.lastTimeReq = s.lny.now ∧
        u.lny = { s.lny with missed := s.lny.missed + natOfBool s.fabric.timeReqAt.isSome }) ∧
    (s.lny.src ≠ 2 ∨ s.lny.master = true ∨ s.lny.now < s.fabric.lastTimeReq + 2 ^ 20 ∨ s.timePort = none →
      exec .timeTransferStart s = .next s) ∧
    (∀ p c t1 t2 t3, p < 16 → c.good = true → c.reserved = 0 → s.lny.src = 2 → s.portUp p = true →
      (s.fabric.timeReqAt = some (p, t1) → ∃ u, exec (.timeRsp p c t1 t2 t3) s = .next u ∧ u.fabric.timeReqAt = none ∧
        u.lny.holdover = false ∧ u.lny.now = s.lny.now) ∧
      (s.fabric.timeReqAt ≠ some (p, t1) → exec (.timeRsp p c t1 t2 t3) s = .next s)) ∧
    (s.lny.lost = true → s.lny.holdover = false → ∃ u, exec .holdoverEntry s = .next u ∧ u.lny.holdover = true ∧ u.lny.trim = s.lny.trim ∧
      u.lny.errEst = s.lny.errEst ∧ u.lny.timeFault = decide (s.lny.faultNs < s.lny.errEst)) ∧
    (s.lny.src ≠ 0 → 3 ≤ s.lny.missed ∨ 3 * srcInterval s.lny.src ≤ s.lny.sinceGood → s.lny.lost = true) ∧
    (s.lny.lost = false ∨ s.lny.holdover = true → exec .holdoverEntry s = .next s) ∧
    (s.lny.holdover = true → 1000000 ≤ s.lny.sinceHold → ∃ u, exec .holdoverTick s = .next u ∧ u.lny.holdover = true ∧
      u.lny.errEst = min (s.lny.errEst + s.lny.holdRate) (2 ^ 32 - 1) ∧ u.lny.timeFault = decide (s.lny.faultNs < u.lny.errEst) ∧
      u.lny.now = s.lny.now) ∧
    (s.lny.holdover = false ∨ s.lny.sinceHold < 1000000 → exec .holdoverTick s = .next s) ∧
    ∀ beat, s.lny.hintEn = true → s.lny.now + 500 ≤ beat * 2 ^ s.lny.shift → (∀ h ∈ s.lny.hints, h.1 ≠ beat) →
      (s.lny.hintThr * 4800000 < s.estimate beat - s.estimate (beat + 2 ^ 48 - 1) →
        ∃ u, exec (.hintPulse beat) s = .next u ∧ u.pins.lastHint = some (s.lny.now, 100) ∧ (beat, true) ∈ u.lny.hints ∧
          u.lny.now = s.lny.now) ∧
      (s.lny.hintThr * 4800000 < s.estimate (beat + 2 ^ 48 - 1) - s.estimate beat →
        ∃ u, exec (.hintPulse beat) s = .next u ∧ u.pins.lastHint = some (s.lny.now, 300) ∧ (beat, false) ∈ u.lny.hints ∧
          u.lny.now = s.lny.now) ∧
      (s.estimate beat ≤ s.estimate (beat + 2 ^ 48 - 1) + s.lny.hintThr * 4800000 →
        s.estimate (beat + 2 ^ 48 - 1) ≤ s.estimate beat + s.lny.hintThr * 4800000 → exec (.hintPulse beat) s = .next s)

/-- R149: Lanyard's cycle and the clamp of TRIM. -/
def Obligations.LanyardFraction : Prop :=
  (∀ l : Lny, l.skip = false → l.frac < 2 ^ 40 → -(2 ^ 28) ≤ l.trim → l.trim ≤ 2 ^ 28 →
    ((l.tick.now : Int) * 2 ^ 40 + l.tick.frac = (l.now : Int) * 2 ^ 40 + l.frac + (2 ^ 40 + l.trim)) ∧ l.tick.frac < 2 ^ 40 ∧
      l.tick.trim = l.trim) ∧
  (∀ (s : State) (v : W64), ∃ u, exec (.lnyTrimWrite true v) s = .next u ∧ -(2 ^ 28) ≤ u.lny.trim ∧ u.lny.trim ≤ 2 ^ 28 ∧
    (-(2 ^ 28) ≤ toSigned 32 (v.toNat % 2 ^ 32) → toSigned 32 (v.toNat % 2 ^ 32) ≤ 2 ^ 28 → u.lny.trim = toSigned 32 (v.toNat % 2 ^ 32))) ∧
  ∀ (l : Lny) (f : Nat), Lny.status { l with frac := f } = l.status

/-- Time on an empty queue (R148, R149; log entry 2: a step without a command is one nanosecond, the model's choice). -/
def Obligations.EmptyQueueTicks : Prop :=
  ∀ s : State, s.pending = [] → s.lny.ptpWait = [] →
    (s.lny.refclk = true → s.lny.skip = false → -(2 ^ 28) ≤ s.lny.trim → s.lny.trim ≤ 2 ^ 28 → s.lny.frac < 2 ^ 40 →
      ∃ u, step s = .next u ∧
        ((u.lny.now : Int) * 2 ^ 40 + u.lny.frac = ((s.lny.now : Int) + 1) * 2 ^ 40 + s.lny.frac + s.lny.trim) ∧
        u.lny.frac < 2 ^ 40 ∧ u.tiles = s.tiles ∧ u.sram = s.sram ∧ u.hbm = s.hbm ∧ u.power = s.power ∧ u.errs = s.errs ∧
        u.fabric = s.fabric ∧ u.parts = s.parts ∧ u.pending = []) ∧
    (s.lny.refclk = false → ∃ u, step s = .next u ∧ u.lny = s.lny ∧ u.regions = s.regions ∧ u.tiles = s.tiles)

/-- GEAR_RAMP_ACTION, POWER_GOOD_CHECK, HBM_RATE_CHANGE, GEAR_SWITCH and GEAR_CHANGE_COMPLETE (R167 to R172). -/
def Obligations.GearChangesRun : Prop :=
  (∀ (s : State) (c : GearChange), s.power.cur = some c → s.pwrRuns = true →
    (c.sramDone = false → (c.up = true ∧ c.switched = false ∧ c.bc * 2 ^ s.lny.shift ≤ s.now + 60000) ∨
        (c.up = false ∧ c.switched = true ∧ c.logicDone = true ∧ s.logicSteady = true ∧ ∀ d, d < 4 → s.rateSettled c d = true) →
      ∃ u c', exec (.gearRampAction .sramHbmif) s = .next u ∧ u.power.vSram = s.power.vSram.map (fun v => v.ramp (gearSram c.next) s.now) ∧
        u.power.cur = some c' ∧ c'.sramDone = true ∧ c'.switched = c.switched ∧ u.regions = s.regions ∧ u.power.gear = s.power.gear) ∧
    (c.logicDone = false → (c.up = true ∧ c.switched = false ∧ c.sramDone = true ∧ s.sramSteady = true ∧
        c.bc * 2 ^ s.lny.shift ≤ s.now + 40000) ∨ (c.up = false ∧ c.switched = true ∧ c.bc * 2 ^ s.lny.shift + 2000 ≤ s.now) →
      ∃ u c', exec (.gearRampAction .logic) s = .next u ∧ u.power.cur = some c' ∧ c'.logicDone = true ∧
        ∀ r, r < 32 → (u.region r).gear = (s.region r).gear ∧ (u.region r).vLogic =
          if (s.region r).fenced || c.region.any (fun k => k != r) then (s.region r).vLogic
          else (s.region r).vLogic.ramp (gearV (s.gearAfter c r)) s.now) ∧
    (c.switched = false → c.preloaded = false → c.bc * 2 ^ s.lny.shift ≤ s.now + 4000 → (c.up = true → c.checked = true) →
      ∃ u c', exec (.gearRampAction .preload) s = .next u ∧ u.power.cur = some c' ∧ c'.preloaded = true ∧ u.regions = s.regions) ∧
    (c.up = true → c.switched = false → c.checked = false → c.logicDone = true → s.logicSteady = true →
      c.bc * 2 ^ s.lny.shift ≤ s.now + 8000 → ∀ l : List Nat, (∀ r ∈ l, r < 32) →
      ((∀ r ∈ l, (s.region r).fenced = true ∨ (c.region ≠ none ∧ c.region ≠ some r)) →
        ∃ u c', exec (.powerGoodCheck l) s = .next u ∧ u.power.cur = some c' ∧ c'.checked = true ∧ u.regions = s.regions) ∧
      ((∃ r ∈ l, (s.region r).fenced = false ∧ (c.region = none ∨ c.region = some r)) →
        ∃ u, exec (.powerGoodCheck l) s = .next u ∧ (s.power.queue = [] → u.power.cur = none) ∧ u.power.gear = s.power.gear ∧
          u.power.aborts = min (s.power.aborts + 1) 65535 ∧ ∀ k, k < s.regions.length → (u.region k).gear = (s.region k).gear)) ∧
    (∀ d, d < 4 → d < s.dies.length → (c.up = false ∧ c.switched = true ∧ c.bc * 2 ^ s.lny.shift + 2000 ≤ s.now) ∨
        (c.up = true ∧ c.switched = false ∧ c.sramDone = true ∧ c.bc * 2 ^ s.lny.shift ≤ s.now + 38000) →
      ((s.die d).pinRate = s.rateAfter c d → exec (.hbmRateChange d) s = .next s) ∧
      ((s.die d).pinRate ≠ s.rateAfter c d → ∃ u, exec (.hbmRateChange d) s = .next u ∧ (u.die d).pinRate = s.rateAfter c d ∧
        (∀ k, k < 5 → 5 * d + k < s.stks.length → (u.stk (5 * d + k)).training = !(s.stk (5 * d + k)).lost) ∧ u.hbm = s.hbm)) ∧
    (c.switched = false → c.preloaded = true → beatPast s.lny.beat c.bc = true →
      (c.up = true → c.sramDone = true ∧ c.logicDone = true ∧ s.logicSteady = true ∧ c.checked = true ∧
        ∀ d, d < 4 → (s.die d).pinRate = s.rateAfter c d) →
      ∃ u c', exec .gearSwitch s = .next u ∧ u.power.cur = some c' ∧ c'.switched = true ∧
        (∀ r, r < 32 → (u.region r).gear = s.gearAfter c r ∧ (u.region r).beat = (s.region r).beat) ∧
        u.power.gear = (if c.region.isNone then c.next else s.power.gear)) ∧
    (c.switched = true ∨ c.preloaded = false ∨ beatPast s.lny.beat c.bc = false → exec .gearSwitch s = .next s) ∧
    (c.switched = true → c.up = true ∨ (c.logicDone = true ∧ c.sramDone = true ∧ s.logicSteady = true ∧ s.sramSteady = true ∧
        ∀ d, d < 4 → s.rateSettled c d = true) →
      exec .gearChangeComplete s = .next (s.startFrom s.power.queue) ∧
      (s.power.queue = [] → (s.startFrom s.power.queue).power.cur = none ∧ (s.startFrom s.power.queue).power.gear = s.power.gear ∧
        (s.startFrom s.power.queue).regions = s.regions)) ∧
    (c.switched = false → exec .gearChangeComplete s = .next s)) ∧
  (∀ (s : State) (d : Nat), d < 4 → d < s.dies.length → s.power.cur = none →
    (s.pwrRuns = false ∨ (s.die d).pinRate = s.rateNow d → exec (.hbmRateChange d) s = .next s) ∧
    (s.pwrRuns = true → (s.die d).pinRate ≠ s.rateNow d → ∃ u, exec (.hbmRateChange d) s = .next u ∧ (u.die d).pinRate = s.rateNow d ∧
      (∀ k, k < 5 → 5 * d + k < s.stks.length → (u.stk (5 * d + k)).training = !(s.stk (5 * d + k)).lost) ∧ u.hbm = s.hbm)) ∧
  ∀ (s : State) (a : RampAction) (l : List Nat), s.power.cur = none ∨ s.pwrRuns = false → (∀ r ∈ l, r < 32) →
    exec (.gearRampAction a) s = .next s ∧ exec (.powerGoodCheck l) s = .next s ∧ exec .gearSwitch s = .next s ∧
      exec .gearChangeComplete s = .next s

/-- CLEAT_ASSERT, CLEAT_RELEASE, CLEAT_HOLD_EXPIRY, DROOP_TRIP and DROOP_RELEASE (R173 to R175, R385, R386). -/
def Obligations.CleatAndDroop : Prop :=
  ∀ s : State,
    (∀ src, s.power.cleat = false → ∃ u, exec (.cleatAssert src) s = .next u ∧ u.power.cleat = true ∧ u.power.gear = 0 ∧
      u.power.queue = [] ∧ (∀ r, (u.region r).gear = 0) ∧ u.power.cleatCount = min (s.power.cleatCount + 1) 65535 ∧
      u.power.cleatSources = (if src % 32 = 0 then 32 else src % 64) ∧ u.pins.alertLow = true ∧ u.tiles = s.tiles ∧ u.sram = s.sram) ∧
    (∀ src, s.power.cleat = true → exec (.cleatAssert src) s = .next (s.modPower fun w => { w with
      cleatActive := w.cleatActive ||| (if src % 32 = 0 then 32 else src % 64)
      cleatSources := w.cleatSources ||| (if src % 32 = 0 then 32 else src % 64) })) ∧
    (s.power.cleat = true → s.power.tripped = false → exec .cleatRelease s = .next (s.modPower fun w =>
      { w with cleat := false, cleatActive := 0, cleatRelAt := some s.now })) ∧
    (s.power.cleat = false ∨ s.power.tripped = true → exec .cleatRelease s = .next s) ∧
    (s.power.cleatRelAt = none → exec .cleatHoldExpiry s = .next s) ∧
    (∀ t, s.power.cleatRelAt = some t → (s.now < t + s.power.cleatHoldMs * 1000000 → exec .cleatHoldExpiry s = .next s) ∧
      (t + s.power.cleatHoldMs * 1000000 ≤ s.now → ∃ u, exec .cleatHoldExpiry s = .next u ∧ u.power.cleatRelAt = none ∧
        u.power.gear = s.power.gear ∧ u.regions = s.regions)) ∧
    (∀ r det, r < 32 → det < 24 → ((s.region r).fenced = true ∨ (s.region r).awake = false → exec (.droopTrip r det) s = .next s) ∧
      (r < s.regions.length → (s.region r).fenced = false → (s.region r).awake = true →
        ∃ u, exec (.droopTrip r det) s = .next u ∧ (u.region r).stretched = true ∧ (u.region r).stretchLeft = 16 ∧
          (u.region r).tripped.contains det = true ∧ (∀ k, k ≠ r → u.region k = s.region k) ∧ u.tiles = s.tiles)) ∧
    ∀ r, r < 32 → ((s.region r).tripped = [] ∨ (s.region r).stretchLeft ≠ 0 → exec (.droopRelease r) s = .next s) ∧
      (r < s.regions.length → (s.region r).tripped ≠ [] → (s.region r).stretchLeft = 0 →
        ∃ u, exec (.droopRelease r) s = .next u ∧ (u.region r).tripped = [] ∧
          (u.region r).stretched = decide ((s.region r).preStretch ≠ 0) ∧ ∀ k, k ≠ r → u.region k = s.region k)

/-- FEED_SAG, FEED_SAG_END, FEED_OVERVOLTAGE, FEED_LOSS, FEED_READMIT, FEED_SAMPLE, BRICK_FAIL, PHASE_FAIL and
RAIL_REGULATOR_FAIL (R365 to R368, R371 to R374, R376). -/
def Obligations.FeedsAndRegulators : Prop :=
  ∀ (s : State) (f g : Feed), f ≠ g →
    ((s.feedRec f).st = .normal → heldFor (s.feedRec f).below36 s.now 1000000 = true →
      ∃ u, exec (.feedSag f) s = .next u ∧ (u.feedRec f).st = .sagging ∧ u.feedRec g = s.feedRec g ∧ u.pins.alertLow = true) ∧
    ((s.feedRec f).st ≠ .normal ∨ heldFor (s.feedRec f).below36 s.now 1000000 = false → exec (.feedSag f) s = .next s) ∧
    ((s.feedRec f).st = .sagging → heldFor (s.feedRec f).above37 s.now 100000000 = true →
      ∃ u, exec (.feedSagEnd f) s = .next u ∧ (u.feedRec f).st = .normal ∧ u.feedRec g = s.feedRec g) ∧
    ((s.feedRec f).st ≠ .sagging ∨ heldFor (s.feedRec f).above37 s.now 100000000 = false → exec (.feedSagEnd f) s = .next s) ∧
    (heldFor (s.feedRec f).above45 s.now 100000001 = true → (s.feedRec f).opened = false →
      ∃ u, exec (.feedOvervoltage f) s = .next u ∧ (u.feedRec f).st = .lost ∧ (u.feedRec f).opened = true ∧ u.feedRec g = s.feedRec g ∧
        ((s.feedRec g).st ≠ .lost → u.power.railsOn = s.power.railsOn)) ∧
    (heldFor (s.feedRec f).above45 s.now 100000001 = false ∨ (s.feedRec f).opened = true → exec (.feedOvervoltage f) s = .next s) ∧
    ((s.feedRec f).st ≠ .lost → (s.feedRec f).mv < 32000 ∨ (s.feedRec f).opened = true →
      ∃ u, exec (.feedLoss f) s = .next u ∧ (u.feedRec f).st = .lost ∧ u.feedRec g = s.feedRec g ∧
        ((s.feedRec g).st ≠ .lost → u.power.railsOn = s.power.railsOn) ∧ ((s.feedRec g).st = .lost → u.power.railsOn = false)) ∧
    ((s.feedRec f).st = .lost ∨ (32000 ≤ (s.feedRec f).mv ∧ (s.feedRec f).opened = false) → exec (.feedLoss f) s = .next s) ∧
    ((s.feedRec f).st = .lost → s.power.hotSwap = true → heldFor (s.feedRec f).inRange s.now 1000000000 = true →
      ∃ u, exec (.feedReadmit f) s = .next u ∧ (u.feedRec f).st = .normal ∧ (u.feedRec f).opened = false ∧ u.feedRec g = s.feedRec g) ∧
    ((s.feedRec f).st ≠ .lost ∨ s.power.hotSwap = false ∨ heldFor (s.feedRec f).inRange s.now 1000000000 = false →
      exec (.feedReadmit f) s = .next s) ∧
    (∀ va ia vb ib, s.pwrRuns = false → ∃ u, exec (.feedSample va ia vb ib) s = .next u ∧ (u.feedRec .a).mv = va ∧
      (u.feedRec .a).ma10 = ia ∧ (u.feedRec .b).mv = vb ∧ (u.feedRec .b).ma10 = ib ∧ u.power.gear = s.power.gear) ∧
    (∀ va ia vb ib, s.pwrRuns = true → (s.due .sample 0 1000 = false → exec (.feedSample va ia vb ib) s = .next s) ∧
      (s.due .sample 0 1000 = true → ∃ u, exec (.feedSample va ia vb ib) s = .next u ∧ (u.feedRec .a).mv = va ∧
        (u.feedRec .b).mv = vb ∧ ∃ h rest, u.power.hist = h :: rest ∧ h.p = (va * ia + vb * ib) / 10000 ∧ h.at_ = s.now)) ∧
    (∀ b, b < 8 → bit s.power.bricks b = false → exec (.brickFail b) s = .next s) ∧
    (∀ b, b < 8 → bit s.power.bricks b = true →
      (4 ≤ bitCount (s.power.bricks - 2 ^ b) 8 → ∃ u, exec (.brickFail b) s = .next u ∧ u.power.bricks = s.power.bricks - 2 ^ b ∧
        u.regions = s.regions ∧ u.power.tripped = s.power.tripped) ∧
      (bitCount (s.power.bricks - 2 ^ b) 8 < 4 → ∃ u, exec (.brickFail b) s = .next u ∧ u.power.bricks = s.power.bricks - 2 ^ b ∧
        u.power.tripped = true)) ∧
    (∀ r i, r < 32 → i < 6 → bit (s.region r).phases i = true → exec (.phaseFail r i) s = .next s) ∧
    (∀ r i, r < 32 → r < s.regions.length → i < 6 → bit (s.region r).phases i = false →
      (2 ≤ bitCount ((s.region r).phases + 2 ^ i) 6 →
        ∃ u, exec (.phaseFail r i) s = .next u ∧ (u.region r).fenced = true ∧ (u.region r).phases = (s.region r).phases + 2 ^ i) ∧
      (bitCount ((s.region r).phases + 2 ^ i) 6 < 2 → ∃ u, exec (.phaseFail r i) s = .next u ∧
        (u.region r).phases = (s.region r).phases + 2 ^ i ∧ (u.region r).fenced = (s.region r).fenced)) ∧
    (∀ i, i < 2 → bit s.power.linkRegs i = true → ∃ u, exec (.railRegulatorFail .vddLink i) s = .next u ∧
      u.power.linkRegs = s.power.linkRegs - 2 ^ i ∧
      (s.power.linkRegs ≠ 2 ^ i → u.regions = s.regions ∧ u.power.tripped = s.power.tripped) ∧
      (s.power.linkRegs = 2 ^ i → u.power.tripped = true)) ∧
    ∀ rail i, rail ≠ .vddLink → i < 4 → s.regions.length = 32 → s.stks.length = 20 →
      ∃ u, exec (.railRegulatorFail rail i) s = .next u ∧ (∀ k, k < 8 → (u.region (8 * i + k)).fenced = true) ∧
        (∀ k, k < 5 → (u.stk (5 * i + k)).lost = true) ∧ u.power.tripped = s.power.tripped

/-- INRUSH_GRANT, GATE_RAMP_DONE, RAISE_CHECK, WEAR_UPDATE, STRETCH_CHECK, SHARE_BUDGET, BALLAST_ADJUST,
TETHER_CEILING_CHANGE, METER_RECORD and METER_SIGN (R375, R383, R384, R387, R388, R392, R394, R396, R398). -/
def Obligations.WakingAndLimits : Prop :=
  ∀ s : State, s.pwrRuns = true →
    (∀ r peak, r < 32 → r < s.regions.length → s.power.wakeQ.contains r = true →
      (∀ k, k < 8 → (s.region (r / 8 * 8 + k)).waking = false) →
      (∀ t, s.lastRun .defer r = some t → beatOf s.lny.shift t ≠ s.lny.beat) →
      (peak ≤ 680 → ∃ u, exec (.inrushGrant r peak) s = .next u ∧ (u.region r).waking = true ∧ (u.region r).inRamp = s.now ∧
        u.power.wakingRegion = some r ∧ (u.region r).gear = (s.region r).gear ∧ u.power.deferrals = s.power.deferrals) ∧
      (680 < peak → ∃ u, exec (.inrushGrant r peak) s = .next u ∧ u.power.deferrals = min (s.power.deferrals + 1) (2 ^ 32 - 1) ∧
        u.regions = s.regions)) ∧
    (∀ r peak, r < 32 → s.power.wakeQ.contains r = false → exec (.inrushGrant r peak) s = .next s) ∧
    (∀ r, r < 32 → (s.region r).waking = false ∨ s.now < (s.region r).inRamp + 128000 → exec (.gateRampDone r) s = .next s) ∧
    (∀ r, r < 32 → r < s.regions.length → (s.region r).waking = true → (s.region r).inRamp + 128000 ≤ s.now →
      ∃ u, exec (.gateRampDone r) s = .next u ∧ (u.region r).awake = true ∧ (u.region r).released = true ∧
        (u.region r).waking = false ∧ (u.region r).gear = (s.region r).target s.power.gear ∧ u.power.wakeQ.contains r = false) ∧
    (∀ l e, s.rst.row ≠ 0 → s.due .raise 0 10000000 = true →
      (7 ≤ s.power.gear ∨ s.sourceCeil < s.power.gear + 1 → ∃ u, exec (.raiseCheck l e) s = .next u ∧ u.regions = s.regions ∧
        u.power.gear = s.power.gear ∧ u.power.cur = s.power.cur ∧ u.power.queue = s.power.queue) ∧
      (s.power.gear < 7 → s.power.gear + 1 ≤ s.sourceCeil → s.power.cur = none → s.power.queue = [] →
        (∀ r ∈ s.regions, r.waking = false) → (∀ t, s.power.burstLowAt = some t → t + 20000000000 ≤ s.now) →
        (∀ t, s.power.otherLowAt = some t → t + 100000000 ≤ s.now) → s.power.ramp = none → e ≤ 1000000 →
        drawAt s.power.p20 l s.power.gear (s.power.gear + 1) + 10 * s.power.guard ≤ 10 * s.capC →
        ∃ u c, exec (.raiseCheck l e) s = .next u ∧ u.power.cur = some c ∧ c.next = s.power.gear + 1 ∧ c.up = true ∧
          c.region = none ∧ u.power.gear = s.power.gear ∧ u.regions = s.regions)) ∧
    (∀ n, s.due .wear 0 60000000000 = true → ∃ u, exec (.wearUpdate n) s = .next u ∧ u.power.wear = s.power.wear + min n 60 ∧
      u.power.gear = s.power.gear) ∧
    (∀ r x, r < 32 → r < s.regions.length → (s.region r).fenced = false → s.due .stretch r 10000000 = true →
      (s.power.stretchPct < x → ∃ u, exec (.stretchCheck r x) s = .next u ∧ (u.region r).stretchCap = (s.region r).gear - 1 ∧
        (u.region r).stretchAt = s.now) ∧
      (4 * x < s.power.stretchPct → (s.region r).stretchCap < 7 → (s.region r).calmAt + 1000000000 ≤ s.now →
        ∃ u, exec (.stretchCheck r x) s = .next u ∧ (u.region r).stretchCap = (s.region r).stretchCap + 1)) ∧
    (∀ r x, r < 32 → (s.region r).fenced = true → exec (.stretchCheck r x) s = .next s) ∧
    (∀ b l, s.due .share 0 100000000 = true →
      ((∀ p, p < 4 → (s.part p).bound = none) → ∃ u, exec (.shareBudget b l) s = .next u ∧ u.regions = s.regions ∧
        u.power.parts = s.power.parts) ∧
      ∀ p, p < 4 → p < s.power.parts.length → (s.prec p).1 < 4 → (∀ q, q < 4 → ((s.part q).bound.isSome = true ↔ q = p)) →
        ∃ u, exec (.shareBudget b l) s = .next u ∧
          (u.prec p).2.2.2 = min (s.prec p).2.1 (s.capC - b) ∧ (u.prec p).2.1 = (s.prec p).2.1) ∧
    (∀ w, s.due .ballast 0 1000000 = true →
      (s.power.ballastPart = none ∨ s.power.ramp = none → ∃ u, exec (.ballastAdjust w) s = .next u ∧ u.power.ballast = 0 ∧
        u.power.ballastPart = none ∧ u.power.gear = s.power.gear) ∧
      ∀ t0 v0 p, s.power.ramp = some (t0, v0) → s.power.ballastPart = some p → (s.geode p).frozen = false →
        ∃ u, exec (.ballastAdjust w) s = .next u ∧
          (w < v0 - (s.now - t0) * 1000 / 1000000000 → u.power.ballast = v0 - (s.now - t0) * 1000 / 1000000000 - w) ∧
          (v0 - (s.now - t0) * 1000 / 1000000000 ≤ w → u.power.ballast = 0 ∧ u.power.ramp = none)) ∧
    (s.tetherAt s.now = s.power.tether → exec .tetherCeilingChange s = .next s) ∧
    (s.tetherAt s.now ≠ 0 → s.power.tether = 0 ∨ s.tetherAt s.now < s.power.tether → ∃ u, exec .tetherCeilingChange s = .next u ∧
      u.power.tether = s.tetherAt s.now ∧ u.power.tetherFrom = s.now ∧ u.power.countFrom = s.now ∧ u.regions = s.regions) ∧
    (s.power.minute.any = false ∨ s.utcMinute s.now ≤ s.utcMinute s.power.minute.start → exec .meterRecord s = .next s) ∧
    (s.power.minute.any = true → s.utcMinute s.power.minute.start < s.utcMinute s.now →
      ∃ u rec_, exec .meterRecord s = .next u ∧ u.power.meter = s.power.meter ++ [rec_] ∧ rec_.seq = s.power.meterSeq ∧
        rec_.sigs = none ∧ rec_.pMin = s.power.minute.pMin ∧ rec_.pMax = s.power.minute.pMax ∧ rec_.compliant = s.power.minute.ok ∧
        u.power.meterSeq = s.power.meterSeq + 1) ∧
    ((s.power.meter.find? fun r => r.sigs.isNone) = none → exec .meterSign s = .next s) ∧
    (∀ r, (s.power.meter.find? fun r => r.sigs.isNone) = some r → s.mramIdle = true → s.cap.hss < 2 ^ 30 → s.cap.cdi1.isSome = true →
      ∃ u, exec .meterSign s = .next u ∧ u.cap.hss = s.cap.hss + 1) ∧
    ∀ (i : Instr) (k : Task) (n period : Nat), (i, k, n, period) ∈ [(Instr.raiseCheck 0 0, Task.raise, 0, 10000000),
        (.wearUpdate 0, .wear, 0, 60000000000), (.shareBudget 0 [], .share, 0, 100000000), (.ballastAdjust 0, .ballast, 0, 1000000)] →
      s.due k n period = false → exec i s = .next s

/-- DIE_SENSOR_READ, INLET_READ, HBM_TEMP_READ, BLOWER_UPDATE, BLOWER_FAIL, CART_CHALLENGE, CART_PRESENCE_CHANGE, CART_LIFE_TICK
and CART_LIFE_WRITE (R248, R379, R401 to R404, R407 to R410, R501). -/
def Obligations.SensorsAndBlower : Prop :=
  ∀ s : State,
    (∀ (d : Nat) (l : List (Option Int)), s.pwrRuns = true → d < 5 → s.due .sensors d 100000 = false → exec (.dieSensorRead d l) s = .next s) ∧
    (∀ (d : Nat) (l : List (Option Int)), s.pwrRuns = true → d < 4 → l.length = 64 → s.regions.length = 32 → s.due .sensors d 100000 = true →
      ∃ u, exec (.dieSensorRead d l) s = .next u ∧ ∀ k, k < 8 → (u.region (8 * d + k)).temps = (l.drop (8 * k)).take 8) ∧
    (∀ l : List (Option Int), s.pwrRuns = true → l.length = 16 → s.thermal.spineTrip.length = 16 → s.due .sensors 4 100000 = true →
      ((∀ x ∈ l, ∀ v, x = some v → v < 110) → (∀ n ∈ s.thermal.spineTrip, n < 3) → ∃ u, exec (.dieSensorRead 4 l) s = .next u ∧ u.thermal.spine = l ∧
        u.power.tripped = s.power.tripped ∧
        ((∀ x ∈ l, ∀ v, x = some v → v < 95) → s.now < s.thermal.spineCoolAt + 100000000 → u.power.spineCeil = s.power.spineCeil)) ∧
      ∀ i v, i < 16 → l[i]? = some (some v) → 110 ≤ v → 2 ≤ s.thermal.spineTrip.getD i 0 →
        ∃ u, exec (.dieSensorRead 4 l) s = .next u ∧ u.power.tripped = true) ∧
    (∀ t : Int, s.pwrRuns = true → s.due .inlet 0 1000000000 = true →
      (t ≤ 45 → ∃ u, exec (.inletRead t) s = .next u ∧ u.thermal.inlet = t ∧ u.thermal.inletTrip = 0 ∧
        u.power.tripped = s.power.tripped ∧ u.regions = s.regions) ∧
      (45 < t → 2 ≤ s.thermal.inletTrip → ∃ u, exec (.inletRead t) s = .next u ∧ u.power.tripped = true)) ∧
    (∀ k (t : Option Int), s.pwrRuns = true → k < 20 → k < s.stks.length → s.due .hbm k 100000 = true →
      (t.getD 95 < 105 → ∃ u, exec (.hbmTempRead k t) s = .next u ∧ (u.stk k).temp = t ∧ (u.stk k).trips = 0 ∧
        (u.stk k).refreshHalved = decide (85 < t.getD 95) ∧ (∀ j, j ≠ k → u.stk j = s.stk j) ∧ u.power.tripped = s.power.tripped) ∧
      (105 ≤ t.getD 95 → 2 ≤ (s.stk k).trips → ∃ u, exec (.hbmTempRead k t) s = .next u ∧ u.power.tripped = true)) ∧
    (∀ k t, k < 20 → s.pwrRuns = false ∨ s.due .hbm k 100000 = false → exec (.hbmTempRead k t) s = .next s) ∧
    (∀ t, s.pwrRuns = false ∨ s.due .inlet 0 1000000000 = false → exec (.inletRead t) s = .next s) ∧
    (∀ m r, s.due .blower 0 100000000 = true → ∃ u, exec (.blowerUpdate m r) s = .next u ∧ u.thermal.fanMeas = m ∧ u.thermal.fanRpm = r ∧
      (s.power.tripped = true → u.thermal.fanCmd = 100) ∧
      (s.power.tripped = false → s.hottestDie = none → u.thermal.fanCmd = max 100 (fanFor s.thermal.inlet 25 10)) ∧
      (∀ t, s.power.tripped = false → s.hottestDie = some t → u.thermal.fanCmd = max (fanFor t 60 30) (fanFor s.thermal.inlet 25 10)) ∧
      u.power.gear = s.power.gear ∧ u.regions = s.regions) ∧
    (∀ m r, s.due .blower 0 100000000 = false → exec (.blowerUpdate m r) s = .next s) ∧
    (s.thermal.present = true → heldFor s.thermal.fanSlowAt s.now 5000000000 = true → s.thermal.cart ≠ .failed →
      ∃ u, exec .blowerFail s = .next u ∧ u.thermal.cart = .failed ∧ u.pins.alertLow = true) ∧
    (s.thermal.present = false ∨ heldFor s.thermal.fanSlowAt s.now 5000000000 = false ∨ s.thermal.cart = .failed →
      exec .blowerFail s = .next s) ∧
    (∀ c : CartReply, s.mayChallenge = false → exec (.cartChallenge c) s = .next s) ∧
    (∀ (c : CartReply) (root : Nat), s.mayChallenge = true → root = (if s.cap.cartRoot = 0 then Config.hexbizenCartRoot else s.cap.cartHash) →
      (s.thermal.cart = .failed → ∃ u, exec (.cartChallenge c) s = .next u ∧ u.thermal.cart = .failed) ∧
      (s.thermal.cart ≠ .failed → c.answered = true → c.rootHash = root →
        Config.ecdsaVerify c.key (Config.labelDigest 3 [Config.challenge s.thermal.challenges, c.cartId, c.life]) c.signature = true →
        ∃ u, exec (.cartChallenge c) s = .next u ∧ u.thermal.cart = .identified ∧ u.thermal.cartId = c.cartId ∧
          c.life * 100 ≤ u.thermal.cartLife) ∧
      (s.thermal.cart ≠ .failed → c.answered = false ∨ c.rootHash ≠ root ∨
          Config.ecdsaVerify c.key (Config.labelDigest 3 [Config.challenge s.thermal.challenges, c.cartId, c.life]) c.signature = false → ∃ u, exec (.cartChallenge c) s = .next u ∧
        u.thermal.cart = .unidentified ∧ u.thermal.cartId = s.thermal.cartId)) ∧
    exec (.cartPresenceChange s.thermal.present) s = .next s ∧
    (∀ p, p ≠ s.thermal.present → ∃ u, exec (.cartPresenceChange p) s = .next u ∧ u.thermal.present = p ∧
      u.thermal.cart = if s.power.tripped then s.thermal.cart else if p then .unidentified else .absent) ∧
    (∀ m, s.thermal.cart = .identified → s.due .lifeTick 0 60000000000 = true → ∃ u, exec (.cartLifeTick m) s = .next u ∧
      u.thermal.cartLife = s.thermal.cartLife + max m 25 ∧ u.thermal.cart = .identified) ∧
    (s.thermal.cart = .identified → s.due .lifeWrite 0 3600000000000 = true → ∃ u, exec .cartLifeWrite s = .next u ∧
      u.thermal = { s.thermal with cartStored := s.thermal.cartLife / 100 }) ∧
    ∀ m, (s.thermal.cart ≠ .identified ∨ s.due .lifeTick 0 60000000000 = false → exec (.cartLifeTick m) s = .next s) ∧
      (s.thermal.cart ≠ .identified ∨ s.due .lifeWrite 0 3600000000000 = false → exec .cartLifeWrite s = .next s)

/-- R377, R378, R379, R410 (Table 13-2). -/
def Obligations.CapIsTheLowestSource : Prop :=
  ∀ s : State, s.capC ≤ s.cap.ceil ∧ s.capC ≤ s.derateCap ∧ s.capC ≤ 1200 ∧ (s.power.tether ≠ 0 → s.capC ≤ s.power.tether) ∧
    (∀ v, s.feedCap = some v → s.capC ≤ v) ∧ (∀ v, s.brickCap = some v → s.capC ≤ v) ∧ (s.thermal.cart ≠ .identified → s.capC ≤ 600) ∧
    (s.capC = 1200 ∨ ∃ x ∈ s.capSources, x.2 = s.capC)

/-- PMD_TRAINING_DONE, LINK_HELLO, HELLO_TIMEOUT, PORT_RESTART, CTRL_REPEAT, LANE_FAIL, RETRAIN, RETRAIN_DONE and
RETRAIN_TIMEOUT (R16, R282, R283 to R288, Table 10-4). -/
def Obligations.PortStates : Prop :=
  ∀ (s : State) (p : Nat), p < 16 → p < s.fabric.ports.length →
    (∀ (i : Instr) (c : CtrlIn) (h : HelloBody) (a b e : Nat),
      i ∈ [Instr.linkHello p c h, .retrain p c a b, .timeReq p c a, .timeRsp p c a b e] →
      ((s.port p).st ∉ [PortSt.hello, .up, .retraining, .miswired] → exec i s = .next s) ∧
      ((s.port p).st ∈ [PortSt.hello, .up, .retraining, .miswired] →
        (c.good = false → exec i s = .next (s.modPort p fun y => { y with crcErrors := inc32 y.crcErrors })) ∧
        (c.good = true → c.reserved ≠ 0 → exec i s = .next (s.modPort p fun y => { y with protoErrors := y.protoErrors + 1 })))) ∧
    (∀ lanes w, w = (List.range 4).filter (fun l => lanes.contains l) →
      ((s.port p).st ≠ .training ∨ w.length < 2 → exec (.pmdTrainingDone p lanes) s = .next s) ∧
      ((s.port p).st = .training → 2 ≤ w.length → ∃ u f, exec (.pmdTrainingDone p lanes) s = .next u ∧ (u.port p).st = .hello ∧
        (u.port p).lanes = w.length ∧ (u.port p).working = w ∧ (u.port p).txSeq = 0 ∧ (u.port p).rxSeq = 4095 ∧
        (u.port p).credits = fullCredits ∧ (u.port p).replay = [] ∧ (u.port p).helloSent = true ∧
        (u.port p).wire = (s.port p).wire ++ [f] ∧ f.ftype = 2 ∧ f.body.head? = some 1 ∧ f.lanes = w ∧ u.tiles = s.tiles)) ∧
    (∀ (c : CtrlIn) (h : HelloBody), (s.port p).st ∈ [PortSt.hello, .up, .miswired] → c.good = true → c.reserved = 0 →
      h.port < 16 → 2 ≤ h.lanes → h.lanes ≤ 4 →
      (h.major = 0 → ∃ u, exec (.linkHello p c h) s = .next u ∧ (u.port p).st = .versionFail ∧ u.tiles = s.tiles) ∧
      (1 ≤ h.major → ∃ u, exec (.linkHello p c h) s = .next u ∧ u.tiles = s.tiles ∧ (u.port p).major = 1 ∧
        (u.port p).peerNode = h.node % 2 ^ 16 ∧ (u.port p).peerPort = h.port ∧ (u.port p).peerGw = h.gateway ∧
        (u.port p).lanes = (if (s.port p).st = .hello then min (s.port p).lanes h.lanes else (s.port p).lanes) ∧
        (12 ≤ p → (u.port p).st = .up) ∧ (p < 12 → s.nodeId = none → (u.port p).st = (s.port p).st) ∧
        ∀ own, p < 12 → s.nodeId = some own →
          (u.port p).st = if s.expectPeer own p = (h.node % 2 ^ 16, h.port) then .up else .miswired)) ∧
    ((((s.port p).st ≠ .hello ∨ (s.port p).helloGot = true ∨ s.now < (s.port p).since + 10000000) →
        exec (.helloTimeout p) s = .next s) ∧
      ((s.port p).st = .hello → (s.port p).helloGot = false → (s.port p).since + 10000000 ≤ s.now →
        ∃ u, exec (.helloTimeout p) s = .next u ∧ (u.port p).st = .down ∧ (u.port p).since = s.now ∧ u.tiles = s.tiles)) ∧
    (((s.port p).st ≠ .down ∨ s.now < (s.port p).since + 1000000000 → exec (.portRestart p) s = .next s) ∧
      ((s.port p).st = .down → (s.port p).since + 1000000000 ≤ s.now → ∃ u, exec (.portRestart p) s = .next u ∧
        (u.port p).st = .training ∧ (u.port p).since = s.now ∧ u.tiles = s.tiles)) ∧
    (∀ b, (s.port p).ctrl = some b → (s.port p).st = .hello ∨ (s.port p).st = .retraining →
      exec (.ctrlRepeat p) s = .next (s.modPort p fun x => { x with
        wire := x.wire ++ [{ zeroFlit 2 ([BitVec.ofNat 8 b.1, 0, 0, 0] ++ b.2) with lanes := x.working.take x.lanes }] })) ∧
    ((s.port p).ctrl = none ∨ (s.port p).st ∉ [PortSt.hello, .retraining] → exec (.ctrlRepeat p) s = .next s) ∧
    (∀ lane n k, lane < 4 → (s.port p).st = .up ∨ (s.port p).st = .retraining → (s.port p).working.contains lane = true →
      k = min (min 3 ((s.port p).working.length - 1)) (s.port p).lanes →
      let errs := n + (((s.port p).uncorr.filter fun e => e.1 == lane && decide (s.now < e.2.1 + 1000000)).map fun e => e.2.2).sum
      (n = 0 ∨ 16 < errs → 2 ≤ k → ∃ u, exec (.laneFail p lane n) s = .next u ∧ (u.port p).st = .retraining ∧
        (u.port p).lanes = k ∧ (u.port p).working = (s.port p).working.erase lane ∧
        (u.port p).degrades = (if k < (s.port p).lanes then inc16 (s.port p).degrades else (s.port p).degrades) ∧
        (u.port p).fecUncorr = min ((s.port p).fecUncorr + n) (2 ^ 32 - 1) ∧ u.tiles = s.tiles) ∧
      (n = 0 ∨ 16 < errs → k < 2 → ∃ u, exec (.laneFail p lane n) s = .next u ∧ (u.port p).st = .down ∧ (u.port p).replay = []) ∧
      (n ≠ 0 → errs ≤ 16 → ∃ u, exec (.laneFail p lane n) s = .next u ∧ (u.port p).st = (s.port p).st ∧
        (u.port p).working = (s.port p).working ∧ (u.port p).fecUncorr = min ((s.port p).fecUncorr + n) (2 ^ 32 - 1) ∧
        u.tiles = s.tiles)) ∧
    (∀ (c : CtrlIn) lanes reason n, c.good = true → c.reserved = 0 → 2 ≤ lanes → lanes ≤ 4 → reason ≤ 2 →
      n = (if reason = 2 then lanes else min lanes (min (s.port p).lanes (s.port p).working.length)) →
      ((s.port p).st = .up → 2 ≤ n → ∃ u f, exec (.retrain p c lanes reason) s = .next u ∧ (u.port p).st = .retraining ∧
        (u.port p).lanes = n ∧ (u.port p).ctrl = none ∧ (u.port p).wire = (s.port p).wire ++ [f] ∧ f.ftype = 2 ∧
        f.body = [4, 0, 0, 0] ++ (natLe 1 n ++ natLe 1 reason) ∧ u.tiles = s.tiles ∧
        (u.port p).working = if reason = 2 then [0, 1, 2, 3] else (s.port p).working) ∧
      ((s.port p).st = .up → n < 2 → ∃ u, exec (.retrain p c lanes reason) s = .next u ∧ (u.port p).st = .down) ∧
      ((s.port p).st = .retraining → ∃ u, exec (.retrain p c lanes reason) s = .next u ∧ (u.port p).st = .retraining ∧
        (u.port p).ctrl = none ∧ u.tiles = s.tiles ∧
        (u.port p).lanes = if (s.port p).ctrl.isSome then min (s.port p).lanes lanes else (s.port p).lanes)) ∧
    (∀ (c : CtrlIn) lanes reason, c.good = true → c.reserved = 0 → lanes < 2 ∨ 4 < lanes ∨ 2 < reason →
      (s.port p).st ∈ [PortSt.hello, .up, .retraining, .miswired] →
      exec (.retrain p c lanes reason) s = .next (s.modPort p fun y => { y with protoErrors := y.protoErrors + 1 })) ∧
    (∀ wrong : Prop, wrong = (p < 12 ∧ (s.port p).helloGot = true ∧ ∃ own, s.nodeId = some own ∧
        s.expectPeer own p ≠ ((s.port p).peerNode, (s.port p).peerPort)) →
      ((s.port p).st ≠ .retraining → exec (.retrainDone p) s = .next s) ∧
      ((s.port p).st = .retraining → ∃ u, exec (.retrainDone p) s = .next u ∧ (u.port p).lanes = (s.port p).lanes ∧
        (u.port p).replayRun = 0 ∧ (u.port p).replay = (s.port p).replay ∧
        (u.port p).wire = (s.port p).wire ++
          (s.port p).replay.map (fun f => { f with lanes := (s.port p).working.take (s.port p).lanes }) ∧
        ((s.port p).replay ≠ [] → (u.port p).replays = inc32 (s.port p).replays) ∧ u.tiles = s.tiles ∧
        (wrong → (u.port p).st = .miswired) ∧ (¬wrong → (u.port p).st = .up ∧ u.fabric.inbox = s.fabric.inbox))) ∧
    (((s.port p).st ≠ .retraining ∨ s.now < (s.port p).since + 10000000 → exec (.retrainTimeout p) s = .next s) ∧
      ((s.port p).st = .retraining → (s.port p).since + 10000000 ≤ s.now → ∃ u, exec (.retrainTimeout p) s = .next u ∧
        (u.port p).st = .down ∧ (u.port p).replay = [] ∧ u.tiles = s.tiles))

/-- DATA_FLIT, IDLE_FLIT, ACK_SEND and TIME_REQ (R281, R282, R283, R299, R302, R309). -/
def Obligations.FlitsTaken : Prop :=
  ∀ (s : State) (p : Nat), p < 16 → p < s.fabric.ports.length →
    ((s.port p).st ≠ .up → (∀ x, exec (.dataFlit p x) s = .next s ∧ exec (.idleFlit p x) s = .next s) ∧
      exec (.ackSend p) s = .next s) ∧
    ((s.port p).st = .up →
      (∀ x, flitGood x = false →
        (∃ u, exec (.dataFlit p x) s = .next u ∧ (u.port p).crcErrors = inc32 (s.port p).crcErrors ∧ u.tiles = s.tiles) ∧
        (∃ u, exec (.idleFlit p x) s = .next u ∧ (u.port p).crcErrors = inc32 (s.port p).crcErrors ∧ u.tiles = s.tiles) ∧
        (x.uncorr = [] → (s.port p).rxBad = false → ∃ u f, exec (.dataFlit p x) s = .next u ∧ (u.port p).rxBad = true ∧
          (u.port p).rxSeq = (s.port p).rxSeq ∧ (u.port p).wire = (s.port p).wire ++ [f] ∧ f.ftype = 1 ∧ f.nak = true ∧
          f.ackseq = (s.port p).rxSeq ∧ u.fabric.inbox = s.fabric.inbox)) ∧
      (∀ x, flitGood x = true → flitReserved x = false → bits x.hdr 26 3 = 0 → bit x.hdr 25 = false →
        (bits x.hdr 0 12 = ((s.port p).rxSeq + 1) % 4096 → ∃ u, exec (.dataFlit p x) s = .next u ∧
          (u.port p).rxSeq = bits x.hdr 0 12 ∧ (u.port p).rxBad = false ∧ u.tiles = s.tiles ∧
          (∀ h, h = natLe 16 (bits x.payload 0 128) ++ natLe 16 (bits x.payload 128 128) → (s.port p).rxSlots = [] →
            (s.port p).rxNeed = 0 → bit x.hdr 56 = true → (∀ n, 1 ≤ n → n < 15 → bit x.hdr (56 + n) = false) →
            (Packet.ofBytes h).ptype = ptRead → headReserved h = false →
            u.fabric.inbox = s.fabric.inbox ++ [⟨Packet.ofBytes h, p, s.now⟩])) ∧
        (bits x.hdr 0 12 ≠ ((s.port p).rxSeq + 1) % 4096 → ∃ u, exec (.dataFlit p x) s = .next u ∧
          (u.port p).rxSeq = (s.port p).rxSeq ∧ u.fabric.inbox = s.fabric.inbox ∧ u.tiles = s.tiles ∧
          (512 ≤ seqDiff (bits x.hdr 0 12) (s.port p).rxSeq → (u.port p).rxBad = true))) ∧
      (∀ x, flitGood x = true → flitReserved x = false → bits x.hdr 26 3 = 1 →
        (bit x.hdr 25 = false → ∃ u, exec (.idleFlit p x) s = .next u ∧ (u.port p).credits = ((s.port p).takeCr x.hdr).credits ∧
          (u.port p).rxSeq = (s.port p).rxSeq ∧ u.fabric.inbox = s.fabric.inbox ∧ u.tiles = s.tiles) ∧
        ∀ y, bit x.hdr 24 = true → bit x.hdr 25 = true → y = (s.port p).acked (bits x.hdr 12 12) →
          (y.replayRun < 7 → ∃ u, exec (.idleFlit p x) s = .next u ∧ (u.port p).st = .up ∧ (u.port p).replay = y.replay ∧
            (u.port p).replayRun = y.replayRun + 1 ∧ u.tiles = s.tiles ∧
            ((s.port p).sinceAck < 63 → (u.port p).wire = (s.port p).wire ++
              y.replay.map (fun f => { f with lanes := (s.port p).working.take (s.port p).lanes }))) ∧
          (7 ≤ y.replayRun → 2 ≤ min (s.port p).working.length (s.port p).lanes → ∃ u, exec (.idleFlit p x) s = .next u ∧
            (u.port p).st = .retraining ∧ (u.port p).lanes = min (min 3 (s.port p).working.length) (s.port p).lanes)) ∧
      (∃ u f, exec (.ackSend p) s = .next u ∧ (u.port p).wire = (s.port p).wire ++ [f] ∧ f.ftype = 1 ∧ f.ackv = true ∧
        f.ackseq = (s.port p).rxSeq ∧ f.nak = (s.port p).rxBad ∧ (u.port p).sinceAck = 0) ∧
      ∀ (c : CtrlIn) t1, c.good = true → c.reserved = 0 → exec (.timeReq p c t1) s = .next (s.modPort p fun x => { x with
        wire := x.wire ++ [{ zeroFlit 2 ([3, 0, 0, 0] ++ (natLe 8 t1 ++ natLe 8 s.now ++ natLe 8 s.now)) with
          lanes := x.working.take x.lanes }] }))

/-- PACKET_FORWARD and PACKET_SEND (R282, R283, R295, R299, R300, R308, R313). -/
def Obligations.PacketsMove : Prop :=
  (∀ (s : State) (k : Nat), s.pktAt k = none ∨ (∃ x, s.pktAt k = some x ∧ s.nodeId = some x.pkt.dest) →
    exec (.packetForward k) s = .next s) ∧
  (∀ (s : State) (k : Nat) (x : InPkt), s.pktAt k = some x → s.nodeId ≠ some x.pkt.dest →
    (∀ port cls, s.outPort x.pkt x.port = some (port, cls) → port < s.fabric.ports.length →
      ∃ u, exec (.packetForward k) s = .next u ∧ Safety.taken s u k ∧
        (u.port port).out = (s.port port).out ++ [⟨{ x.pkt with dclass := cls }, x.port != 16, x.at_⟩] ∧ Safety.sameMemory s u) ∧
    (s.outPort x.pkt x.port = none → x.pkt.isReq = false → x.pkt.ptype ≠ ptMgtMsg → ∃ u, exec (.packetForward k) s = .next u ∧
      Safety.taken s u k ∧ u.fabric.discarded = inc32 s.fabric.discarded ∧ Safety.sameMemory s u) ∧
    (s.outPort x.pkt x.port = none → x.pkt.isReq = true ∨ x.pkt.ptype = ptMgtMsg → ∃ u, exec (.packetForward k) s = .next u ∧
      Safety.replied s u k (Safety.answerOf s x.pkt ptRefuse (rsRouteDead * 256) []) ∧ Safety.sameMemory s u)) ∧
  ∀ (s v : State) (p : Nat), p < 16 → v = s.flushReplies →
    ((v.port p).st ≠ .up ∨ (v.port p).choose = none → exec (.packetSend p) s = .next v) ∧
    ∀ o n, (v.port p).st = .up → (v.port p).choose = some o → n = (o.pkt.slots + 14) / 15 →
      (512 < (v.port p).replay.length + n → exec (.packetSend p) s = .next v) ∧
      ((v.port p).replay.length + n ≤ 512 → ∃ u f rest, exec (.packetSend p) s = .next u ∧ rest.length + 1 = n ∧
        f.fseq = (v.port p).txSeq % 4096 ∧ f.start = 1 ∧ f.ftype = 0 ∧ (u.port p).out = (v.port p).out.erase o ∧
        (u.port p).wire = (v.port p).wire ++
          (f :: rest).map (fun g => { g with lanes := (v.port p).working.take (v.port p).lanes }) ∧
        (u.port p).replay = (v.port p).replay ++ f :: rest ∧ (u.port p).txSeq = ((v.port p).txSeq + n) % 4096 ∧
        u.fabric.inbox = v.fabric.inbox ∧ Safety.sameMemory s u)

/-- READ, READ_ITEM, WRITE, WRITE_ITEM and ATOMIC, and the refusals of R304 (R303, R304, R260). -/
def Obligations.FabricRequestsServed : Prop :=
  ∀ (s : State) (k : Nat) (x : InPkt),
    (∀ (i : Instr) (t reason : Nat), (i, t) ∈ [(Instr.readReq k, ptRead), (.readItemReq k, ptReadItem), (.writeReq k, ptWrite),
        (.writeItemReq k, ptWriteItem), (.atomicReq k, ptAtomic), (.landReq k, ptLand)] → Safety.Arrived s k x t →
      (s.admitReq x.pkt = .inl reason → ∃ u, exec i s = .next u ∧ Safety.sameMemory s u ∧
        Safety.replied s u k (Safety.answerOf s x.pkt ptRefuse (reason % 256 * 256) [])) ∧
      ∀ p, s.admitReq x.pkt = .inr p → s.reachable p x.pkt.offset = false → exec i s = .next s) ∧
    ∀ p, s.admitReq x.pkt = .inr p → s.reachable p x.pkt.offset = true →
      (∀ t a, isTileSram x.pkt.offset = true → t = tileOfOff x.pkt.offset → a = aOfOff x.pkt.offset → a + 64 ≤ 2 ^ 21 →
        (Safety.Arrived s k x ptRead → s.sramBadIn t a 64 = none → ∃ u, exec (.readReq k) s = .next u ∧
          Safety.sameMemory s u ∧ Safety.replied s u k (Safety.answerOf s x.pkt ptReadRsp 0 (s.sramRead t a 64))) ∧
        (Safety.Arrived s k x ptRead → s.sramBadIn t a 64 ≠ none → ∃ u, exec (.readReq k) s = .next u ∧
          Safety.sameMemory s u ∧ Safety.replied s u k (Safety.answerOf s x.pkt ptRefuse (rsTargetFault * 256) [])) ∧
        (Safety.Arrived s k x ptWrite → Safety.Memory.wf s = true → x.pkt.data.length = 64 → ∃ u, exec (.writeReq k) s = .next u ∧
          (∀ i, i < 64 → u.sramRead t (a + i) 1 =
            if bit x.pkt.arg i then [x.pkt.data.getD i 0] else s.sramRead t (a + i) 1) ∧
          (∀ b, b < 2 ^ 21 → b < a ∨ a + 64 ≤ b → u.sramRead t b 1 = s.sramRead t b 1) ∧ u.hbm = s.hbm ∧
          Safety.replied s u k (Safety.answerOf s x.pkt ptWriteAck 0 []))) ∧
      ∀ al r (i : Instr) (t : Nat), isTileSram x.pkt.offset = false → s.allocAt p x.pkt.offset = some al →
        (i, t) ∈ [(Instr.readReq k, ptRead), (.readItemReq k, ptReadItem), (.writeReq k, ptWrite),
          (.writeItemReq k, ptWriteItem), (.atomicReq k, ptAtomic)] → Safety.Arrived s k x t →
        r = (s.takePkt k x).homeDo al ⟨.remote x.pkt.src x.pkt.txn, x.pkt.offset, x.pkt.homeKind,
          if t = ptAtomic then 2 else if t = ptReadItem ∨ t = ptWriteItem then 3 else 4, false, x.pkt.scope, false,
          x.pkt.layer, x.pkt.op, 0, 0, [], s.now⟩ →
        ∃ u, exec i s = .next u ∧ (∀ d key, u.lineRead d key = r.s.lineRead d key) ∧ u.sram = s.sram ∧
          (r.fin = .ok → Safety.replied s u k (Safety.answerOf s x.pkt (respType t) 0
            (if t = ptAtomic ∧ bit x.pkt.arg 4 = false then [] else r.data))) ∧
          (r.fin ≠ .ok → Safety.replied s u k (Safety.answerOf s x.pkt ptRefuse (rsTargetFault * 256) []))

/-- LAND, LAND_GO, LAND_CANCEL, FLAG_EXPIRY and FLAG_BUFFER_GRANT (R263, R305, R306, R474). -/
def Obligations.RemoteFlagsLand : Prop :=
  (∀ (s : State) (k p : Nat) (x : InPkt), Safety.Arrived s k x ptLand → s.admitReq x.pkt = .inr p →
    s.reachable p x.pkt.offset = true →
    (∀ t a, isTileSram x.pkt.offset = true → t = tileOfOff x.pkt.offset → a = aOfOff x.pkt.offset → bit x.pkt.arg 8 = false →
      Safety.Memory.wf s = true → x.pkt.data.length = 64 → a + 64 ≤ 2 ^ 21 → t < s.tiles.length →
      (s.tile t).tokens.getD (bits x.pkt.arg 0 4) 0 + bits x.pkt.arg 4 4 ≤ 65535 →
      ∃ v : State, exec (.landReq k) s = .next (v.pump t) ∧ v.sramRead t a 64 = x.pkt.data ∧
        (∀ b, b < 2 ^ 21 → b < a ∨ a + 64 ≤ b → v.sramRead t b 1 = s.sramRead t b 1) ∧
        (bits x.pkt.arg 4 4 ≠ 0 → (v.tile t).tokens = (s.tile t).tokens.set (bits x.pkt.arg 0 4)
          ((s.tile t).tokens.getD (bits x.pkt.arg 0 4) 0 + bits x.pkt.arg 4 4)) ∧
        Safety.replied s v k (Safety.flagPkt s x.pkt p ptLandAck 0)) ∧
    (∀ al r, isTileSram x.pkt.offset = false → s.allocAt p x.pkt.offset = some al → bit x.pkt.arg 8 = false →
      r = (s.takePkt k x).homeDo al ⟨.remote x.pkt.src x.pkt.txn, x.pkt.offset, .writeLine (2 ^ 64 - 1) (x.pkt.data.take 64), 4,
        false, x.pkt.scope, false, x.pkt.layer, x.pkt.op, 0, 0, [], s.now⟩ →
      ∃ u, exec (.landReq k) s = .next u ∧ (∀ d key, u.lineRead d key = r.s.lineRead d key) ∧ u.sram = s.sram ∧
        (r.fin = .ok → Safety.replied s u k (Safety.flagPkt s x.pkt p ptLandAck 0))) ∧
    (∀ d, d = s.dieOfOff p x.pkt.offset → d < s.dies.length → bit x.pkt.arg 8 = true →
      ((s.die d).flagWait = [] → (s.die d).flags.length < 1024 → ∃ u, exec (.landReq k) s = .next u ∧ Safety.sameMemory s u ∧
        (u.die d).flags = (s.die d).flags ++ [x.pkt.flagLine p s.now true none] ∧
        Safety.replied s u k (Safety.flagPkt s x.pkt p ptLandHeld 0)) ∧
      ((s.die d).flagWait ≠ [] ∨ 1024 ≤ (s.die d).flags.length → ∃ u, exec (.landReq k) s = .next u ∧ Safety.taken s u k ∧
        Safety.sameMemory s u ∧ u.fabric.ports = s.fabric.ports ∧
        (u.die d).flagWait = (s.die d).flagWait ++ [x.pkt.flagLine p s.now true (some (x.port, x.pkt.dclass))]))) ∧
  (∀ (s : State) (k d : Nat) (x : InPkt) (fl : FlagLine), s.heldFlag x.pkt.src x.pkt.txn = some (d, fl) → d < s.dies.length →
    (Safety.Arrived s k x ptLandGo → s.flagPlaceReady fl = false → exec (.landGo k) s = .next s) ∧
    (∀ t, Safety.Arrived s k x ptLandGo → s.flagPlaceReady fl = true → isTileSram fl.off = true → t = tileOfOff fl.off →
      (s.region (t / 12)).fenced = false → Safety.Memory.wf s = true → fl.data.length = 64 → aOfOff fl.off + 64 ≤ 2 ^ 21 →
      t < s.tiles.length → (s.tile t).tokens.getD fl.ttok 0 + fl.tcnt ≤ 65535 →
      ∃ v : State, exec (.landGo k) s = .next (v.pump t) ∧ Safety.tookPkt s v k ∧ Safety.freed s v d fl ∧
        v.sramRead t (aOfOff fl.off) 64 = fl.data ∧
        (fl.tcnt ≠ 0 → (v.tile t).tokens = (s.tile t).tokens.set fl.ttok ((s.tile t).tokens.getD fl.ttok 0 + fl.tcnt)) ∧
        ∀ b, b < 2 ^ 21 → b < aOfOff fl.off ∨ aOfOff fl.off + 64 ≤ b → v.sramRead t b 1 = s.sramRead t b 1) ∧
    (∀ al r, Safety.Arrived s k x ptLandGo → s.flagPlaceReady fl = true → isTileSram fl.off = false →
      s.allocAt fl.part fl.off = some al →
      r = ((s.takePkt k x).dropFlag d fl).homeDo al ⟨fl.who, fl.off, .writeLine (2 ^ 64 - 1) fl.data, 4, false, fl.scope, false,
        fl.layer, fl.op, fl.strandId, fl.seqTag, [], s.now⟩ →
      ∃ u, exec (.landGo k) s = .next u ∧ Safety.tookPkt s u k ∧ (∀ e key, u.lineRead e key = r.s.lineRead e key) ∧
        u.sram = s.sram) ∧
    (Safety.Arrived s k x ptLandCancel → ∃ u, exec (.landCancel k) s = .next u ∧ Safety.tookPkt s u k ∧ Safety.sameMemory s u ∧
      Safety.freed s u d fl)) ∧
  (∀ (s : State) (k : Nat) (x : InPkt) (i : Instr) (t : Nat), (i, t) ∈ [(Instr.landGo k, ptLandGo), (.landCancel k, ptLandCancel)] →
    Safety.Arrived s k x t → s.heldFlag x.pkt.src x.pkt.txn = none → ∃ u, exec i s = .next u ∧ Safety.taken s u k ∧
      u.fabric.discarded = inc32 s.fabric.discarded ∧ Safety.sameMemory s u) ∧
  ∀ (s : State) (d : Nat), d < 4 → d < s.dies.length →
    (∀ j fl, (s.die d).flags[j]? = some fl →
      (fl.waits = false ∨ s.timersStopped fl.part = true ∨ s.now < fl.since + 4 * s.fabTimeoutNs fl.part →
        exec (.flagExpiry d j) s = .next s) ∧
      (fl.waits = true → s.timersStopped fl.part = false → fl.since + 4 * s.fabTimeoutNs fl.part ≤ s.now →
        ∃ u, exec (.flagExpiry d j) s = .next u ∧ Safety.freed s u d fl ∧ Safety.sameMemory s u ∧ u.tiles = s.tiles)) ∧
    ((s.die d).flagWait = [] ∨ 1024 ≤ (s.die d).flags.length → exec (.flagBufferGrant d) s = .next s) ∧
    ∀ fl rest, (s.die d).flagWait = fl :: rest → (s.die d).flags.length < 1024 → ∃ u, exec (.flagBufferGrant d) s = .next u ∧
      (u.die d).flags = (s.die d).flags ++ [{ fl with owe := none, since := s.now }] ∧ (u.die d).flagWait = rest ∧
      Safety.sameMemory s u

/-- READ_RSP, ITEM_RSP, WRITE_ACK, ATOMIC_RSP, LAND_ACK, LAND_HELD, REFUSE and FAB_TIMEOUT (R305, R312, R314). -/
def Obligations.OwnRequestsAnswered : Prop :=
  (∀ (s : State) (k : Nat) (x : InPkt) (q : FabReq), s.reqOf x.pkt.txn = some q → q.node = x.pkt.src →
    (∀ (i : Instr) (t want : Nat), (i, t, want) ∈ [(Instr.readRsp k, ptReadRsp, ptRead), (.itemRsp k, ptItemRsp, ptReadItem),
        (.writeAck k, ptWriteAck, ptWrite), (.writeAck k, ptWriteAck, ptWriteItem), (.atomicRsp k, ptAtomicRsp, ptAtomic)] →
      Safety.Arrived s k x t → q.ptype = want → x.at_ ≤ s.expiry q →
      ∃ u : State, exec i s = .next u.coreGo ∧ Safety.tookPkt s u k ∧ Safety.ended s u q .ok x.pkt.data) ∧
    (Safety.Arrived s k x ptLandAck → q.ptype = ptLand → x.at_ ≤ s.expiry q →
      (bits x.pkt.arg 0 8 = 0 → ∃ u : State, exec (.landAck k) s = .next u.coreGo ∧ Safety.tookPkt s u k ∧
        Safety.ended s u q .ok []) ∧
      (∀ cls code detail, bits x.pkt.arg 0 8 ≠ 0 → q.bad.getD (6, 4, q.off) = (cls, code, detail) →
        ∃ u : State, exec (.landAck k) s = .next u.coreGo ∧ Safety.tookPkt s u k ∧
          Safety.ended s u q (.refused cls code detail) [])) ∧
    (Safety.Arrived s k x ptRefuse → x.at_ ≤ s.expiry q → ∃ u : State, exec (.refuse k) s = .next u.coreGo ∧
      Safety.tookPkt s u k ∧ Safety.ended s u q (.refused 6 (if bits x.pkt.arg 8 8 = rsRouteDead then 3 else 2)
        (q.off % 2 ^ 42 + bits x.pkt.arg 8 8 * 2 ^ 56)) []) ∧
    (∀ (i : Instr) (t want : Nat), (i, t, want) ∈ [(Instr.readRsp k, ptReadRsp, ptRead), (.itemRsp k, ptItemRsp, ptReadItem),
        (.writeAck k, ptWriteAck, ptWrite), (.writeAck k, ptWriteAck, ptWriteItem), (.atomicRsp k, ptAtomicRsp, ptAtomic),
        (.landAck k, ptLandAck, ptLand), (.refuse k, ptRefuse, q.ptype)] →
      Safety.Arrived s k x t → q.ptype = want → s.expiry q < x.at_ →
      ∃ u : State, exec i s = .next u.coreGo ∧ Safety.tookPkt s u k ∧ Safety.ended s u q (.timeout q.off) [] ∧
        ((s.fabric.reqs.filter fun r => r.ptype == ptLand) = [] → u.fabric.discarded = inc32 s.fabric.discarded)) ∧
    (Safety.Arrived s k x ptLandHeld → q.ptype = ptLand → ∃ u q', exec (.landHeld k) s = .next u ∧ Safety.tookPkt s u k ∧
      u.reqOf q.txn = some q' ∧ q'.held = true ∧ Safety.sameMemory s u ∧ u.tiles = s.tiles ∧
      (q.going = false → openBefore q s.fabric.reqs = false → q'.going = true))) ∧
  (∀ (s : State) (txn : Nat), s.reqOf txn = none → exec (.fabTimeout txn) s = .next s) ∧
  (∀ (s : State) (txn : Nat) (q : FabReq), s.reqOf txn = some q →
    (s.now < q.sentAt + s.fabTimeoutNs q.part ∨ s.timersStopped q.part = true ∨ s.answerHere q = true →
      exec (.fabTimeout txn) s = .next s) ∧
    (q.sentAt + s.fabTimeoutNs q.part ≤ s.now → s.timersStopped q.part = false → s.answerHere q = false →
      ∃ u : State, exec (.fabTimeout txn) s = .next u.coreGo ∧ Safety.ended s u q (.timeout q.off) [])) ∧
  ∀ (s : State) (k : Nat) (x : InPkt) (i : Instr) (t : Nat), (i, t) ∈ [(Instr.readRsp k, ptReadRsp), (.itemRsp k, ptItemRsp),
      (.writeAck k, ptWriteAck), (.atomicRsp k, ptAtomicRsp), (.landAck k, ptLandAck), (.landHeld k, ptLandHeld),
      (.refuse k, ptRefuse)] → Safety.Arrived s k x t →
    s.reqOf x.pkt.txn = none ∨ (t ≠ ptRefuse ∧ ∃ q, s.reqOf x.pkt.txn = some q ∧ q.node ≠ x.pkt.src) →
    ∃ u, exec i s = .next u ∧ Safety.taken s u k ∧ u.fabric.discarded = inc32 s.fabric.discarded ∧ u.tiles = s.tiles ∧
      Safety.sameMemory s u

/-- FABRIC_WINDOW_ACCESS, MGT_MSG, MGT_RSP and FAB_THROTTLE (R6, R12, R225, R277, R293, R298, R301, R308). That one command also
carries the accesses to the device-memory window and the control space is the model's choice (log entry 142). -/
def Obligations.WindowsAndMessages : Prop :=
  (∀ (s : State) (w : CoreWin) (ofs : Nat) (op : CoreOp), Sys2Proof.CoreWin.ofsOk w ofs = true → w ≠ .control →
    let ones := { s with coreAns := some ⟨BitVec.ofNat 64 (2 ^ 64 - 1), true⟩ }
    let home := if w = .device then s.allocs.find? (fun al => al.has ofs) else
      (s.fabric.windows.find? fun e => CoreWin.fabric e.1 == w).bind fun e => s.allocAt e.2.part ofs
    let local_ := w = .device ∨ ∃ e, (s.fabric.windows.find? fun e => CoreWin.fabric e.1 == w) = some e ∧ some e.2.node = s.nodeId
    (s.coreWait ≠ [] → exec (.fabricWindowAccess w ofs op) s = .next { s with coreWait := s.coreWait ++ [(w, ofs, op)] }) ∧
    (s.coreWait = [] → (∀ a b, op ≠ .fence a b) →
      (w ≠ .device → (s.fabric.windows.find? fun e => CoreWin.fabric e.1 == w) = none →
        exec (.fabricWindowAccess w ofs op) s = .next ones) ∧
      (coreReq ofs s.coreRel op = none ∨ (local_ ∧ home = none) → exec (.fabricWindowAccess w ofs op) s = .next ones) ∧
      (∀ al t arg scope data, local_ → home = some al → coreReq ofs s.coreRel op = some (t, arg, scope, data) →
        (s.stackReady al ofs = false →
          exec (.fabricWindowAccess w ofs op) s = .next { s with coreWait := [(w, ofs, op)] }) ∧
        ∀ r, s.stackReady al ofs = true → r = s.homeDo al ⟨.core, ofs / 64 * 64,
            if t = ptRead then .readLine else if t = ptAtomic then .atomic (bits arg 0 4) true data else .writeLine arg data,
            if t = ptAtomic then 2 else 4, false, scope, false, 0, 0, 0, 0, [], s.now⟩ →
          ∃ u, exec (.fabricWindowAccess w ofs op) s = .next u ∧ (∀ d key, u.lineRead d key = r.s.lineRead d key) ∧
            u.sram = s.sram ∧ (r.fin = .ok → u.coreAns = some ⟨BitVec.ofNat 64 (leAt r.data (ofs % 64 / 8 * 8) 8), false⟩) ∧
            (r.fin ≠ .ok → u.coreAns = ones.coreAns)) ∧
      ∀ e t arg scope data pkt, (s.fabric.windows.find? fun e => CoreWin.fabric e.1 == w) = some e → some e.2.node ≠ s.nodeId →
        coreReq ofs s.coreRel op = some (t, arg, scope, data) →
        pkt = s.mkPkt t 0 e.2.node (ofs / 64 * 64) 1 e.2.job (s.fabric.nextTxn % 2 ^ 32) 0 0 arg scope data →
        (s.unreachable e.2.node = true → exec (.fabricWindowAccess w ofs op) s = .next ones) ∧
        (s.unreachable e.2.node = false → (∃ q ∈ s.fabric.reqs, q.node = e.2.node ∧ q.route ≠ s.routeCode e.2.node) →
          exec (.fabricWindowAccess w ofs op) s = .next { s with coreWait := [(w, ofs, op)] }) ∧
        (s.unreachable e.2.node = false → (∀ q ∈ s.fabric.reqs, q.node = e.2.node → q.route = s.routeCode e.2.node) →
          (s.outPort pkt 16 = none → exec (.fabricWindowAccess w ofs op) s = .next ones) ∧
          ∀ port cls, s.outPort pkt 16 = some (port, cls) → port < s.fabric.ports.length →
            ∃ u q, exec (.fabricWindowAccess w ofs op) s = .next u ∧
              (u.port port).out = (s.port port).out ++ [⟨{ pkt with dclass := cls }, false, s.now⟩] ∧
              u.fabric.reqs = s.fabric.reqs ++ [q] ∧ q.txn = s.fabric.nextTxn % 2 ^ 32 ∧ q.who = .core ∧ q.node = e.2.node ∧
              q.ptype = t ∧ q.off = ofs ∧ q.sentAt = s.now ∧ u.coreAns = s.coreAns ∧
              u.coreRel = (s.coreRel && !coreStore op) ∧ Safety.sameMemory s u)) ∧
    ∀ a b, s.coreWait = [] → op = .fence a b →
      (∀ busy, busy = (bit a 2 && s.fabric.reqs.any (fun q => q.who == .core && decide (ptWrite ≤ q.ptype)) ||
          bit a 3 && s.fabric.reqs.any (fun q => q.who == .core && decide (q.ptype < ptWrite))) →
        (busy = true → exec (.fabricWindowAccess w ofs op) s = .next { s with coreWait := [(w, ofs, op)] }) ∧
        (busy = false → ∃ u, exec (.fabricWindowAccess w ofs op) s = .next u ∧ Safety.sameMemory s u ∧ u.tiles = s.tiles ∧
          u.coreRel = (s.coreRel || bit a 2 && bit a 0 && bit b 2 && bit b 0)))) ∧
  (∀ (s : State) (ofs : Nat), ofs < 2 ^ 26 →
    (∀ acq, ∃ u v, exec (.fabricWindowAccess .control ofs (.load acq)) s = .next u ∧ u.coreAns = some ⟨v, false⟩ ∧
      Safety.sameMemory s u ∧
      ∀ i, i < 64 → bit (s.regRead (ofs / 8 * 8)).2 i = false → v.getLsbD i = bit (s.regRead (ofs / 8 * 8)).1 i) ∧
    (∀ rel v, exec (.fabricWindowAccess .control ofs (.store rel 255 v)) s =
      .next (s.regWrite false (ofs / 8 * 8) 8 (BitVec.ofNat 64 v))) ∧
    (∀ rel mask v, mask ≠ 255 → exec (.fabricWindowAccess .control ofs (.store rel mask v)) s =
      .next (s.post none 0x0001 coresAgent 0 0 ofs)) ∧
    (∀ op, (∃ a b c d, op = .amo a b c d) ∨ op = .lrsc → exec (.fabricWindowAccess .control ofs op) s =
      .next { s with coreAns := some ⟨BitVec.ofNat 64 (2 ^ 64 - 1), true⟩ }) ∧
    ∀ a b, (s.coreWait ≠ [] ∨ s.coreFence a b = none → exec (.fabricWindowAccess .control ofs (.fence a b)) s =
        .next { s with coreWait := s.coreWait ++ [(.control, ofs, .fence a b)] }) ∧
      ∀ v, s.coreWait = [] → s.coreFence a b = some v → exec (.fabricWindowAccess .control ofs (.fence a b)) s = .next v) ∧
  (∀ (s : State) (k : Nat) (x : InPkt),
    (Safety.Arrived s k x ptMgtMsg →
      ∀ listed, listed = (s.parts.any fun p => match p.join with | some j => j.joinList.contains x.pkt.src | none => false) →
      (listed = true → (s.fabric.mgtGot.filter fun q => q.1.src == x.pkt.src).length < 16 →
        ∃ u, exec (.mgtMsg k) s = .next u ∧ Safety.taken s u k ∧ u.fabric.mgtGot = s.fabric.mgtGot ++ [(x.pkt, some s.now)] ∧
          Safety.sameMemory s u) ∧
      (listed = true → 16 ≤ (s.fabric.mgtGot.filter fun q => q.1.src == x.pkt.src).length →
        ∃ u, exec (.mgtMsg k) s = .next u ∧ u.fabric.mgtGot = s.fabric.mgtGot ∧ Safety.sameMemory s u ∧
          Safety.replied s u k (Safety.answerOf s x.pkt ptRefuse (rsQuota * 256) [])) ∧
      (listed = false → ∃ u, exec (.mgtMsg k) s = .next u ∧ u.fabric.mgtGot = s.fabric.mgtGot ∧ Safety.sameMemory s u ∧
        Safety.replied s u k (Safety.answerOf s x.pkt ptRefuse (rsNoJob * 256) []))) ∧
    (Safety.Arrived s k x ptMgtRsp → ∃ u, exec (.mgtRsp k) s = .next u ∧ Safety.taken s u k ∧ u.fabric.mgtGot = s.fabric.mgtGot ∧
      Safety.sameMemory s u)) ∧
  ∀ (s : State) (t p : Nat), t < 384 → s.partOfTile t = some p → p < s.power.throt.length → p < s.power.fabThrotAt.length →
    (s.fabStuck t = true → ∃ u, exec (.fabThrottle t) s = .next u ∧
      bit (u.power.throt.getD p (0, 0)).1 18 = true ∧ bit (u.power.throt.getD p (0, 0)).2 18 = true ∧
      u.power.fabThrotAt.getD p none = some s.now ∧ u.tiles = s.tiles) ∧
    (s.fabStuck t = false → s.power.fabThrotAt.getD p none = none → exec (.fabThrottle t) s = .next s) ∧
    ∀ at_, s.fabStuck t = false → s.power.fabThrotAt.getD p none = some at_ →
      (s.now < at_ + 1000000 → exec (.fabThrottle t) s = .next s) ∧
      (at_ + 1000000 ≤ s.now → ∃ u, exec (.fabThrottle t) s = .next u ∧ bit (u.power.throt.getD p (0, 0)).1 18 = false ∧
        (u.power.throt.getD p (0, 0)).2 = (s.power.throt.getD p (0, 0)).2 ∧ u.tiles = s.tiles)

/-- CONTRIB, RESEND, F32_UP and F32_DOWN (R327 to R330, R336, R337). -/
def Obligations.ReefSums : Prop :=
  (∀ (s : State) (k p d : Nat) (x : InPkt) (y : GroupSt) (h : RHead), h = RHead.ofBytes x.pkt.data → d < 4 →
    (∀ (i : Instr) (rk : Nat), (i, rk) ∈ [(Instr.contrib k, 0), (.f32Up k, 4)] → Safety.ReefIn s k rk x p d y →
      y.accepts h.step = false → exec i s = .next s.pumpWaiting) ∧
    (∀ v mk kids parts, Safety.ReefIn s k 0 x p d y → y.accepts h.step = true →
      v = ((s.takePkt k x).modReef d fun e => { e with contribs := Safety.withContrib e.contribs (Safety.contribOf x y) }) →
      mk = (s.reef d).mark h.step y.g h.bucket h.shard h.chunk → kids = treeKids y.n (s.rankIn y) h.shard →
      parts = (v.reef d).parts h.step y.g h.bucket h.shard h.chunk →
      (parts.length < kids.length → exec (.contrib k) s = .next v.pumpWaiting) ∧
      ∀ b at_ sum cs tries, kids.length ≤ parts.length → (s.reef d).bucket y.g h.bucket = some b → b.kind = 0 →
        y.step = some h.step → b.puts ≤ b.taken → s.engReady p = true → at_ = b.chunkAt y.n h.shard h.chunk →
        sum = parts.foldl (fun a e => List.zipWith i40Add a e.data) (v.localPart d p h.step b at_.1 at_.2).2 →
        cs = parts.foldl (fun a e => (a + e.cs) % csumMod) (csum (v.localPart d p h.step b at_.1 at_.2).2) →
        tries = (match mk with | some m => m.retries | none => 0) →
        (s.rankIn y ≠ h.shard → mk = none → ∃ (u : State) (veto : Veto) (am : Option Int), exec (.contrib k) s = .next u.pumpWaiting ∧
          (u.reef d).mark h.step y.g h.bucket h.shard h.chunk = some ⟨h.step, y.g, h.bucket, h.shard, h.chunk, .sent, 0⟩ ∧
          Safety.replied s u k (Safety.reefPkt s p y (treeParent y.n (s.rankIn y) h.shard)
            { y.head 0 h.step with veto := veto, bucket := h.bucket, chunk := h.chunk, shard := h.shard, amax := am, cs := cs,
                                   count := at_.2 } (i40Bytes sum)) ∧ u.sram = s.sram ∧
          ∀ e key, u.lineRead e key = (v.localPart d p h.step b at_.1 at_.2).1.s.lineRead e key) ∧
        (s.rankIn y = h.shard → mk = none ∨ mk = some ⟨h.step, y.g, h.bucket, h.shard, h.chunk, .sent, tries⟩ →
          (s.die d).upd.todo = none → (v.localPart d p h.step b at_.1 at_.2).1.there = true →
          ∃ (u : State) (m : ChunkMark), exec (.contrib k) s = .next u.pumpWaiting ∧ Safety.tookPkt s u k ∧
            (u.reef d).mark h.step y.g h.bucket h.shard h.chunk = some m ∧
            (csum sum = cs → m.fate = .verified ∨ m.fate = .lost) ∧
            (csum sum ≠ cs → tries < (s.reef d).retry → m.fate = .sent ∧ m.retries = tries + 1 ∧
              (u.reef d).parts h.step y.g h.bucket h.shard h.chunk = [] ∧ (u.reef d).csumFails = (s.reef d).csumFails) ∧
            (csum sum ≠ cs → (s.reef d).retry ≤ tries → m.fate = .failed ∧ m.retries = tries ∧
              (u.reef d).csumFails = inc32 (s.reef d).csumFails))) ∧
    (∀ v, Safety.ReefIn s k 1 x p d y →
      v = ((s.takePkt k x).modReef d fun e => { e.dropParts h.step y.g h.bucket h.shard h.chunk with
        marks := e.marks.filter fun m => !(m.step == h.step && m.group == y.g && m.bucket == h.bucket && m.shard == h.shard &&
          m.chunk == h.chunk) }) →
      (treeKids y.n (s.rankIn y) h.shard ≠ [] → ∃ u : State, exec (.resend k) s = .next u.pumpWaiting ∧ Safety.tookPkt s u k ∧
        (u.reef d).parts h.step y.g h.bucket h.shard h.chunk = [] ∧ (u.reef d).mark h.step y.g h.bucket h.shard h.chunk = none ∧
        Safety.sameMemory s u) ∧
      ∀ b at_ own, treeKids y.n (s.rankIn y) h.shard = [] → s.rankIn y ≠ h.shard → (s.reef d).bucket y.g h.bucket = some b →
        b.kind = 0 → y.step = some h.step → b.puts ≤ b.taken → s.engReady p = true → at_ = b.chunkAt y.n h.shard h.chunk →
        own = (v.localPart d p h.step b at_.1 at_.2).2 →
        ∃ (u : State) (veto : Veto), exec (.resend k) s = .next u.pumpWaiting ∧ u.sram = s.sram ∧
          Safety.replied s u k (Safety.reefPkt s p y (treeParent y.n (s.rankIn y) h.shard)
            { y.head 0 h.step with veto := veto, bucket := h.bucket, chunk := h.chunk, shard := h.shard, amax := b.amax,
                                   cs := csum own, count := at_.2 } (i40Bytes own))) ∧
    (∀ b v got, Safety.ReefIn s k 4 x p d y → y.accepts h.step = true → (s.reef d).bucket y.g h.bucket = some b →
      v = ((s.takePkt k x).modReef d fun e => { e with
        f32 := e.f32 ++ [⟨h.step, y.g, h.bucket, y.rankOf x.pkt.src, words32 (payloadOf x.pkt) h.count⟩] }) →
      got = ((treeKids y.n (s.rankIn y) 0).filterMap fun c => (v.reef d).f32.find? fun f =>
        f.step == h.step && f.group == y.g && f.bucket == h.bucket && f.child == c) →
      (b.kind ≠ 1 ∨ y.step ≠ some h.step ∨ b.taken < b.puts ∨ b.f32Sent = true ∨ s.engReady p = false ∨
        got.length < (treeKids y.n (s.rankIn y) 0).length → exec (.f32Up k) s = .next v.pumpWaiting) ∧
      ∀ a, b.kind = 1 → y.step = some h.step → b.puts ≤ b.taken → b.f32Sent = false → s.engReady p = true →
        (treeKids y.n (s.rankIn y) 0).length ≤ got.length → s.rankIn y ≠ 0 → a = v.reefRead d p h.step b.stage (4 * b.elems) →
        a.there = true → ∃ (u : State) (b' : Bucket), exec (.f32Up k) s = .next u.pumpWaiting ∧
          (u.reef d).bucket y.g h.bucket = some b' ∧ b'.f32Sent = true ∧ b'.outDone = b.outDone ∧ u.sram = s.sram ∧
          Safety.replied s u k (Safety.reefPkt s p y (treeParent y.n (s.rankIn y) 0)
            { y.head 4 h.step with bucket := h.bucket, count := b.elems }
            (bytes32 (f32Sum (words32 a.data b.elems) (got.map fun f => f.vals))))) ∧
    ∀ b, Safety.ReefIn s k 5 x p d y → (s.reef d).bucket y.g h.bucket = some b →
      (b.outDone = false → y.step = some h.step → s.engReady p = true → ∃ (u : State) (b' : Bucket),
        exec (.f32Down k) s = .next u.pumpWaiting ∧ Safety.tookPkt s u k ∧ (u.reef d).bucket y.g h.bucket = some b' ∧
        b'.outDone = true ∧ b'.stage = b.stage ∧ (b.outSig = false → u.sram = s.sram)) ∧
      (b.outDone = false → y.step = some h.step → s.engReady p = false → exec (.f32Down k) s = .next s.pumpWaiting) ∧
      (b.outDone = true ∨ y.step ≠ some h.step → ∃ u : State, exec (.f32Down k) s = .next u.pumpWaiting ∧ Safety.taken s u k ∧
        u.dies = s.dies ∧ u.fabric.discarded = inc32 s.fabric.discarded ∧ Safety.sameMemory s u)) ∧
  ∀ (s v w : State) (d p step sh c tries cs : Nat) (x : GroupSt) (b : Bucket) (sum : List Int), csum sum = cs →
    d < s.dies.length →
    (s.reefFlags d (orFlags (sum.map (reefBackFlags b.k)))).reefWrite d p step (b.stage + 5 * b.elems + 5 * (192 * c))
      (i40Bytes sum) = (v, true) →
    v.reefWrite d p step (b.out + 4 * (192 * c)) (sum.map fun q => natLe 4 (reefBack b.k q)).flatten = (w, true) →
    (((s.chunkRoot d p step x b sh c tries sum cs).reef d).mark step x.g b.bucket sh c) =
      some ⟨step, x.g, b.bucket, sh, c, .verified, tries⟩ ∧
    ∀ e key, (s.chunkRoot d p step x b sh c tries sum cs).lineRead e key = w.lineRead e key

/-- REPORT_SEND, REPORT, DECISION and DECISION_TIMEOUT (R326, R332 to R335, R337, R474). -/
def Obligations.ReefReports : Prop :=
  ∀ (s : State) (p d g : Nat) (y : GroupSt) (ds : List Nat), d < 4 → g < 12 → s.partOfDie d = some p → ds = s.groupDies p g →
    ds.head? = some d → (s.reef d).group g = some y →
    (∀ step kids rep, y.step = some step →
      kids = y.children.filter (fun c => c.2.step == step) → rep = kids.foldl (fun r c => r.join c.2) (s.ownReport ds y step) →
      (∀ ready : Prop, ready = (s.engReady p = true ∧ ∀ e ∈ ds, ∃ z, (s.reef e).group g = some z ∧ z.closedAt.isSome = true ∧
          z.step = some step ∧ s.bucketsDone e z step = true) →
        (y.reportLeft = true ∨ y.timedOut = true ∨ ¬ready ∨ kids.length < (treeKids y.n (s.rankIn y) 0).length →
          exec (.reportSend d g) s = .next s.pumpWaiting) ∧
        (ready → y.reportLeft = false → y.timedOut = false → (treeKids y.n (s.rankIn y) 0).length ≤ kids.length →
          ∃ v w : State, w = Safety.closesOver s v ds g ∧ v.tiles = s.tiles ∧ v.fabric = s.fabric ∧ Safety.sameMemory s v ∧
            (∀ e ∈ ds, ∃ z, (v.reef e).group g = some z ∧ z.reportLeft = true ∧ z.reportAt = s.now ∧ z.step = some step) ∧
            (s.rankIn y = 0 → exec (.reportSend d g) s = .next (w.decide_ p g y rep).pumpWaiting) ∧
            (s.rankIn y ≠ 0 → exec (.reportSend d g) s = .next (w.sendReef p y (treeParent y.n (s.rankIn y) 0)
              { y.head 2 step with veto := rep.veto, csumFail := rep.csum, count := (w.ebOrder ds g).length }
              (rep.payload false (w.ebOrder ds g))).pumpWaiting)))) ∧
    (y.step = none → exec (.reportSend d g) s = .next s.pumpWaiting) ∧
    (∀ k x h, Safety.ReefIn s k 2 x p d y → h = RHead.ofBytes x.pkt.data → y.g = g →
      (y.accepts h.step = false → exec (.report k) s = .next s.pumpWaiting) ∧
      ∀ r, y.accepts h.step = true → r = Report.ofPayload (payloadOf x.pkt) (s.ebOrder ds g) →
        ∃ (u : State) (z : GroupSt), exec (.report k) s = .next (u.reportGo p g).pumpWaiting ∧ Safety.taken s u k ∧
          (u.reef d).group g = some z ∧ z.children = y.children.filter (fun c => c.1 != y.rankOf x.pkt.src) ++
            [(y.rankOf x.pkt.src, r)] ∧ z.step = y.step ∧ z.reportLeft = y.reportLeft ∧ Safety.sameMemory s u) ∧
    (∀ k x h, Safety.ReefIn s k 3 x p d y → h = RHead.ofBytes x.pkt.data → y.g = g →
      (y.timedOut = false → y.step = some h.step → y.reportLeft = true → s.engReady p = false →
        exec (.decision k) s = .next s.pumpWaiting) ∧
      (∀ r, r = Report.ofPayload (payloadOf x.pkt) (s.ebOrder ds g) → y.timedOut = false → y.step = some h.step →
        y.reportLeft = true → s.engReady p = true → ∃ u : State, exec (.decision k) s = .next u.pumpWaiting ∧
          Safety.tookPkt s u k ∧ ∀ e ∈ ds, (∃ z, (u.reef e).group g = some z ∧ z.step = none ∧ z.decided = some r.step ∧
            z.reportLeft = false ∧ z.children = []) ∧
          ∀ n b z, (s.reef e).group g = some z → (s.reef e).bucket g n = some b → ∃ b', (u.reef e).bucket g n = some b' ∧
            b'.taken = 0 ∧ b'.outDone = false ∧ b'.k = (if b.kind = 0 then kNext z.n b.k (ebOf r.eb n) else b.k)) ∧
      (y.timedOut = true ∨ y.step ≠ some h.step ∨ y.reportLeft = false → ∃ u : State, exec (.decision k) s = .next u.pumpWaiting ∧
        Safety.taken s u k ∧ u.fabric.discarded = inc32 s.fabric.discarded ∧ u.dies = s.dies ∧ Safety.sameMemory s u)) ∧
    ∀ step coming, y.step = some step → coming = (s.fabric.inbox.any fun i => i.pkt.ptype == ptReef && i.pkt.vc == 4 + y.cvc &&
        bits (leAt i.pkt.data 0 8) 0 4 == 3 && some i.pkt.dest == s.nodeId) →
      (y.reportLeft = false ∨ y.timedOut = true ∨ coming = true ∨ s.timersStopped p = true ∨
          s.now < y.reportAt + (s.reef d).decTimeoutMs * 1000000 →
        exec (.decisionTimeout d g) s = .next s.pumpWaiting) ∧
      (y.reportLeft = true → y.timedOut = false → coming = false → s.timersStopped p = false →
        y.reportAt + (s.reef d).decTimeoutMs * 1000000 ≤ s.now →
        ∃ u : State, exec (.decisionTimeout d g) s = .next u.pumpWaiting ∧ Safety.sameMemory s u ∧
          (∀ e ∈ ds, ∃ z, (u.reef e).group g = some z ∧ z.timedOut = true) ∧
          ((s.die d).faultQ.length < 256 → ∃ f, (u.die d).faultQ = (s.die d).faultQ ++ [f] ∧ f.cls = 6 ∧ f.code = 1 ∧
            f.tile = 0x0410 + d ∧ f.detail = g + step * 2 ^ 32))

/-- COMMIT_PASS and PRE_DECISION_PASS (R344, R345, R348, R359, R360, R363). -/
def Obligations.UpdatePasses : Prop :=
  (∀ (s : State) (d : Nat), d < 4 → (s.die d).upd.todo = none ∨ (s.die d).upd.sec = none ∨ s.partOfDie d = none →
    exec (.commitPass d) s = .next s) ∧
  (∀ (s s0 : State) (d p step count : Nat) (u : UpdSec) (vetoed : Bool), d < 4 → s.partOfDie d = some p →
    (s.die d).upd.sec = some u → (s.die d).upd.todo = some (step, vetoed) → s.updWord d p step u.stateLine 8 = (s0, count) →
    (s.updLive d p = false → exec (.commitPass d) s = .next s) ∧
    (s.updLive d p = true → vetoed = true → ∃ (v : State) (w : List Byte) (f : Nat),
      exec (.commitPass d) s = .next ((v.doneSig d p step count u).afterPass d p u.group) ∧
      v = { s0 with free := f }.updWrite d p step 0 0 (u.commit + 64 * (step % 2)) w ∧ w.length = 64 ∧
      leAt w 8 8 = count % 2 ^ 64 ∧ leAt w 0 4 = step % 2 ^ 32 ∧ bit (leAt w 0 8) 33 = false ∧
      bit (leAt w 0 8) 34 = (s0.die d).upd.repair) ∧
    ∀ s1 norms a v1, s.updLive d p = true → vetoed = false → s0.norms d p step u = (s1, norms) →
      a = ((List.range u.descs.length).zip u.descs).foldl
        (stepDesc d p step u (updScal u step (treeCombine norms)) count) ⟨s1, []⟩ →
      v1 = (if u.auditEvery ≠ 0 ∧ (count + 1) % u.auditEvery = 0 then
        ((List.range u.descs.length).zip u.descs).foldl (fun s x => s.auditOne d p step count u x) a.s else a.s) →
      ∃ (v : State) (w : List Byte) (f : Nat),
        exec (.commitPass d) s = .next ((v.doneSig d p step (count + 1) u).afterPass d p u.group) ∧
        v = { v1.updWrite d p step 0 0 u.stateLine (natLe 8 ((count + 1) % 2 ^ 64)) with free := f }.updWrite d p step 0 0
          (u.commit + 64 * (step % 2)) w ∧ w.length = 64 ∧ leAt w 8 8 = (count + 1) % 2 ^ 64 ∧ leAt w 0 4 = step % 2 ^ 32 ∧
        bit (leAt w 0 8) 33 = true ∧ bit (leAt w 0 8) 34 = (s0.die d).upd.repair ∧
        bit (leAt w 0 8) 35 = decide (u.auditEvery ≠ 0 ∧ (count + 1) % u.auditEvery = 0)) ∧
  (∀ (dd p step n idx k : Nat) (u : UpdSec) (sc : UScal) (x : UDesc) (f : Option Factors) (a : PassAcc) (s1 : State)
    (bs : List (List Byte)) (why : Nat × Nat × Nat), dd < s1.dies.length → a.s.updReads dd p (x.pieces k) = (s1, bs, some why) →
    (updOne dd p step u sc n idx x f a k).failed = a.failed ++ [(idx, k, x.master + 4096 * k)] ∧
    ((updOne dd p step u sc n idx x f a k).s.die dd).upd.repair = ((s1.die dd).upd.repair || why.1 == 2) ∧
    ∀ e key, (updOne dd p step u sc n idx x f a k).s.lineRead e key = s1.lineRead e key) ∧
  ∀ (s : State) (d p t : Nat) (u : UpdSec) (y : GroupSt), d < 4 → s.partOfDie d = some p → (s.die d).upd.sec = some u →
    (s.reef d).group u.group = some y → y.step = some t →
    (s.updLive d p = false ∨ (s.die d).upd.todo ≠ none ∨ (s.die d).upd.preDone = some t ∨ y.closedAt = none ∨
      s.shardsSettled d y t = false → exec (.preDecisionPass d) s = .next s) ∧
    ∀ v, s.updLive d p = true → (s.die d).upd.todo = none → (s.die d).upd.preDone ≠ some t → y.closedAt.isSome = true →
      s.shardsSettled d y t = true → v = (s.modUpd d fun e => { e with preDone := some t }) →
      (u.normEn = false → u.lossEn = false → exec (.preDecisionPass d) s = .next v) ∧
      (∀ s1 bs bad, u.normEn = true → u.lossEn = false → v.preReads d p t 4096 u.normBlocks = (s1, bs, bad) →
        exec (.preDecisionPass d) s = .next ((s1.updFlags d (nanFlags (bs.map (unpack 32 1024)).flatten)).give d p t u
          (u.normBkt + d) [treeCombine (bs.map fun b => seqSum ((unpack 32 1024 b).map fun g => mul32 g g))] bad)) ∧
      (∀ s1 bs bad, u.normEn = false → u.lossEn = true →
        v.preReads d p t 384 ((List.range u.lossTiles).map fun m => (0, 0, u.loss + 384 * m)) = (s1, bs, bad) →
        exec (.preDecisionPass d) s = .next ((s1.updFlags d (nanFlags (bs.map fun b =>
          (List.range 48).map fun g => leAt b (8 * g) 4).flatten)).give d p t u (u.lossBkt + d) (lossVals bs) bad)) ∧
      (u.normEn = true → u.lossEn = true → exec (.preDecisionPass d) s = .next ((v.preNorm d p t u).preLoss d p t u))

/-- The turn, the order of the checks and the completion of every mailbox command (R171, R420 to R426, R429, R474). -/
def Obligations.MessagesCompleted : Prop :=
  (∀ (s b : State) (i : Instr) (c : Call) (x : CmdInfo), Safety.cmdOf i = some (c, x) → b = Safety.started s c →
    (s.cap.run = .booting ∨ s.hasMsg c.src = false ∨ s.mayStart c.src = false → exec i s = .next s) ∧
    (s.cap.run = .recovery → (x.code ∉ [0x0001, 0x0002, 0x0609, 0x060A] ∨ ∀ k, c.src ≠ .session k) → exec i s = .next s) ∧
    (s.cap.run = .restarting → s.hasMsg c.src = true → s.mayStart c.src = true →
      exec i s = exec i (s.modCap fun k => { k with run := .running })) ∧
    (s.cap.run = .running → s.hasMsg c.src = true → s.mayStart c.src = true →
      (∀ st, headCheck b c x = some st → exec i s = .next (b.reply c x.code (b.answer st))) ∧
      (headCheck b c x = none →
        (∀ e, ((b.txns c.src).find? fun e => e.txn == c.msg.txn) = some e →
          (e.hash ≠ c.msg.hash → exec i s = .next (b.reply c x.code (b.answer stTxn))) ∧
          (e.hash = c.msg.hash → x.change = true → exec i s = .next (b.reply c x.code ⟨b, e.status, e.result, [], false⟩))) ∧
        (((b.txns c.src).find? fun e => e.txn == c.msg.txn) = none →
          (∀ st, roleCheck b c x = some st → exec i s = .next (b.reply c x.code (b.answer st))) ∧
          (roleCheck b c x = none →
            ∀ w, w = (if b.awaiting.contains i ∨ 8 ≤ b.awaiting.length then b else { b with awaiting := b.awaiting ++ [i] }) →
            (x.mem = true → b.engReady (Call.part c) = false → exec i s = .next w) ∧
            (x.mem = false ∨ b.engReady (Call.part c) = true →
              (c.msg.auth = 0 → x.prog = false ∨ (b.geode (Call.part c)).frozen = false → x.mram = true → b.mramIdle = false →
                exec i s = .next w) ∧
              (c.msg.auth = 0 → x.prog = true → (b.geode (Call.part c)).frozen = true →
                exec i s = .next (b.reply c x.code (b.answer stBusy))) ∧
              (c.msg.auth ≠ 0 → c.msg.trailer = none → exec i s = .next (b.reply c x.code (b.answer stAuth))) ∧
              ∀ tr, c.msg.auth ≠ 0 → c.msg.trailer = some tr →
                (tr.reserved ≠ 0 → exec i s = .next (b.reply c x.code (b.answer stReserved))) ∧
                (tr.reserved = 0 → trailerOk b c tr = false → exec i s = .next (b.reply c x.code (b.answer stAuth))) ∧
                (tr.reserved = 0 → trailerOk b c tr = true → b.mramIdle = false → exec i s = .next w))))))) ∧
  ∀ (c : Call) (x : CmdInfo) (a : Answer) (n : Nat), c.src = .mbx n → n < a.s.cap.mbx.length →
    Safety.answered (Safety.done c x a) c a.status a.result a.payload ∧
    ((Safety.done c x a).mbx n).seqDone = (a.s.mbx n).seq ∧ ((Safety.done c x a).mbx n).valid = true ∧
    (∃ l, ((Safety.done c x a).mbx n).table = l ++ [⟨c.msg.txn, c.msg.hash, x.code, a.status, a.result⟩] ∧ l.length ≤ 7) ∧
    ((a.s.mbx n).irqEn = true → (Safety.done c x a).irqs.contains (32 + n / 16) = true) ∧
    ∀ m, m ≠ n → (Safety.done c x a).mbx m = a.s.mbx m

/-- The system and security families (Table 14-7; R416, R425, R430, R431, R436, R440, R443 to R448). -/
def Obligations.SystemAndSecurityCommands : Prop :=
  ∀ (s : State) (c : Call),
    (∀ major minor, Safety.Taken s (.hello c major minor) c →
      (major ≠ 0 → ∃ u, exec (.hello c major minor) s = .next u ∧ Safety.answered u c stOk 1 [] ∧ u.verOf c.src = some (1, 0) ∧
        u.tiles = s.tiles ∧ Safety.keepsMemory s u c.src) ∧
      (major = 0 → ∃ u, exec (.hello c major minor) s = .next u ∧ Safety.answered u c stVersion 0 [] ∧
        (∀ n, c.src ≠ .fabric n) → u.verOf c.src = none)) ∧
    (Safety.Taken s (.sysQuery c) c → ∃ u, exec (.sysQuery c) s = .next u ∧ Safety.keepsMemory s u c.src ∧
      u.parts = s.parts ∧ ∀ mask r, mask = (if c.msg.auth = 1 then 15 else (s.part (Call.part c)).mask) →
        r = ((List.range 32).filter fun r => bit mask (r / 8) && !(s.region r).fenced).length →
        Safety.answered u c stOk 0 ([12 * r, 3 * r, r, (s.diesUp mask).length, 1, (s.stacksOn mask).length, s.phasesUp mask,
          s.portsUp, s.power.gear, s.rgears mask 0, s.rgears mask 1, s.mbxCapstan, natOfBool s.cap.coresReleased, s.capacity] ++
          s.throttles (if c.msg.auth = 1 then [0, 1, 2, 3] else [Call.part c]))) ∧
    (∀ masks, Safety.Taken s (.sysPartition c masks) c →
      (masks.length ≠ 4 → Safety.turnedAway s (.sysPartition c masks) c stFormat) ∧
      (masks.length = 4 → (masks.any fun m => 15 < m) = true ∨ disjointMasks masks = false →
        Safety.turnedAway s (.sysPartition c masks) c stRange) ∧
      (masks.length = 4 → (masks.any fun m => 15 < m) = false → disjointMasks masks = true → s.parts.length = 4 →
        ((List.range 4).any fun p => (s.part p).bound.isSome && (s.part p).mask != masks.getD p 0) = false →
        ∃ u, exec (.sysPartition c masks) s = .next u ∧ Safety.answered u c stOk 0 [] ∧
          (∀ p, p < 4 → (u.part p).mask = masks.getD p 0 ∧ (u.part p).bound = (s.part p).bound) ∧
          ∀ r, r < 32 → r < s.regions.length → u.partOfDie (r / 8) = none → (u.region r).awake = false)) ∧
    (∀ gib, Safety.Taken s (.sysCarveout c gib) c →
      (gib < 16 ∨ 64 < gib → Safety.turnedAway s (.sysCarveout c gib) c stRange) ∧
      (16 ≤ gib → gib ≤ 64 → ∃ u, exec (.sysCarveout c gib) s = .next u ∧ Safety.answered u c stOk 0 [] ∧ u.cap.carveNext = gib ∧
        u.cap.carve = s.cap.carve ∧ u.allocs = s.allocs)) ∧
    (∀ m a b, Safety.Taken s (.sysNet c m a b) c → ∃ u, exec (.sysNet c m a b) s = .next u ∧ Safety.answered u c stOk 0 [] ∧
      u.cap.mac = m ∧ u.cap.ipv4 = a ∧ u.cap.ipv6 = b) ∧
    (∀ k, Safety.Taken s (.secOwnerClaim c k) c → ∃ u, exec (.secOwnerClaim c k) s = .next u ∧ Safety.answered u c stOk 0 [] ∧
      u.cap.ownerKey = some k) ∧
    (Safety.Taken s (.secOwnerRelease c) c → ∃ u, exec (.secOwnerRelease c) s = .next u ∧ Safety.answered u c stOk 0 [] ∧
      u.cap.ownerKey = none) ∧
    (∀ nonce, Safety.Taken s (.secAttest c nonce) c →
      (2 ^ 30 ≤ s.cap.hss → Safety.turnedAway s (.secAttest c nonce) c stResource) ∧
      (s.cap.hss < 2 ^ 30 → ∃ u body dig, exec (.secAttest c nonce) s = .next u ∧
        body = s.reportBody nonce (fun p => c.msg.auth = 1 || p = Call.part c) ∧ body.length = 512 ∧
        dig = leNat (Config.sha384 (attestLabel ++ body)) ∧ Safety.answered u c stOk 0 (packWords (body ++
          natLe 96 (Config.aliasSign dig) ++ natLe 3292 (Config.hssSign s.cap.hss dig))) ∧ u.cap.hss = s.cap.hss + 1)) ∧
    (∀ piece, Safety.Taken s (.secCerts c piece) c → ∃ u, exec (.secCerts c piece) s = .next u ∧
      Safety.keepsMemory s u c.src ∧ Safety.answered u c stOk 0 (packWords (Config.certPiece piece))) ∧
    (∀ lms slot e l, Safety.Taken s (.secRevoke c lms slot) c → e = (if lms then s.cap.revEcdsa else s.cap.revEcdsa ||| 2 ^ slot) →
      l = (if lms then s.cap.revLms ||| 2 ^ slot else s.cap.revLms) →
      (8 ≤ slot → Safety.turnedAway s (.secRevoke c lms slot) c stRange) ∧
      (slot < 8 → ¬(e = s.cap.revEcdsa ∧ l = s.cap.revLms) → s.revokeBusy e l = true →
        Safety.turnedAway s (.secRevoke c lms slot) c stBusy) ∧
      (slot < 8 → s.revokeBusy e l = false → ∃ u, exec (.secRevoke c lms slot) s = .next u ∧ Safety.answered u c stOk 0 [] ∧
        u.cap.revEcdsa = e ∧ u.cap.revLms = l) ∧
      (slot < 8 → e = s.cap.revEcdsa → l = s.cap.revLms → ∃ u, exec (.secRevoke c lms slot) s = .next u ∧
        Safety.answered u c stOk 0 [] ∧ u.cap.revEcdsa = e ∧ u.cap.revLms = l)) ∧
    (Safety.Taken s (.secDebugDisable c) c → ∃ u, exec (.secDebugDisable c) s = .next u ∧ Safety.answered u c stOk 0 [] ∧
      u.cap.debugDisable = true) ∧
    (Safety.Taken s (.secDebugOpen c) c →
      (s.cap.debugDisable = true → Safety.turnedAway s (.secDebugOpen c) c stPermission) ∧
      (s.cap.debugDisable = false → ∃ u, exec (.secDebugOpen c) s = .next u ∧ Safety.answered u c stOk 0 [] ∧
        u.cap.debugOpened = true)) ∧
    (∀ lock node new, Safety.Taken s (.secFabricLock c lock node) c → new = (if lock then some (node % 65536) else none) →
      (new ≠ s.cap.fabLock → 0 < s.cap.fabLockLeft → ∃ u, exec (.secFabricLock c lock node) s = .next u ∧
        Safety.answered u c stOk 0 [] ∧ u.cap.fabLock = new ∧ u.cap.fabLockLeft = s.cap.fabLockLeft - 1) ∧
      (new ≠ s.cap.fabLock → s.cap.fabLockLeft = 0 → ∃ u, exec (.secFabricLock c lock node) s = .next u ∧
        Safety.answered u c stSlRefused 0 [] ∧ u.cap.fabLock = s.cap.fabLock) ∧
      (new = s.cap.fabLock → ∃ u, exec (.secFabricLock c lock node) s = .next u ∧ Safety.answered u c stOk 0 [] ∧
        u.cap.fabLock = s.cap.fabLock ∧ u.cap.fabLockLeft = s.cap.fabLockLeft)) ∧
    (∀ ofs data at_, Safety.Taken s (.secFwWrite c ofs data) c → at_ = slotBase (1 - s.cap.boot.active) + ofs →
      (3840 < data.length → Safety.turnedAway s (.secFwWrite c ofs data) c stFormat) ∧
      (data.length ≤ 3840 → slotSize < ofs + data.length → Safety.turnedAway s (.secFwWrite c ofs data) c stRange) ∧
      (data.length ≤ 3840 → ofs + data.length ≤ slotSize → Safety.Memory.wf s = true → ∃ u, exec (.secFwWrite c ofs data) s = .next u ∧
        Safety.answered u c stOk 0 [] ∧ cellsRead u.flash at_ data.length = data ∧
        (∀ a, a < at_ ∨ at_ + data.length ≤ a → cellGet u.flash a = cellGet s.flash a) ∧ u.sram = s.sram ∧
        ∀ a, ¬Safety.inBuffer s c.src a → cellGet u.hbm a = cellGet s.hbm a)) ∧
    (∀ slot, Safety.Taken s (.secFwActivate c) c → slot = 1 - s.cap.boot.active →
      ((s.firmware slot s.cap.revEcdsa s.cap.revLms).isNone = true ∨ (s.loader slot s.cap.revEcdsa s.cap.revLms).isNone = true →
        Safety.turnedAway s (.secFwActivate c) c stSignature) ∧
      ((s.firmware slot s.cap.revEcdsa s.cap.revLms).isSome = true → (s.loader slot s.cap.revEcdsa s.cap.revLms).isSome = true →
        ∃ u, exec (.secFwActivate c) s = .next u ∧ Safety.answered u c stOk 0 [] ∧ u.cap.boot = ⟨slot, true, 0⟩)) ∧
    (Safety.Taken s (.secFwCommit c) c → ∃ u, exec (.secFwCommit c) s = .next u ∧ Safety.answered u c stOk 0 [] ∧
      u.cap.boot = { s.cap.boot with trial := false })

/-- The memory and program families (Table 14-7; R159, R222 to R227, R252, R359, R361, R432 to R434). -/
def Obligations.MemoryAndProgramCommands : Prop :=
  ∀ (s : State) (c : Call) (p : Nat), p = Call.part c → p < s.parts.length →
    (∀ a, Safety.Taken s (.memMap c a) c →
      (∀ st, entryBad a = some st → Safety.turnedAway s (.memMap c a) c st) ∧
      (entryBad a = none → a.mode ≠ 2 → bit (s.part p).mask a.die = false → Safety.turnedAway s (.memMap c a) c stPartition) ∧
      (entryBad a = none → a.mode = 2 ∨ bit (s.part p).mask a.die = true →
        (s.placeAlloc p a = none → Safety.turnedAway s (.memMap c a) c stResource) ∧
        ∀ pc, s.placeAlloc p a = some pc → ∃ u, exec (.memMap c a) s = .next u ∧
          Safety.answered u c stOk (BitVec.ofNat 64 pc) [] ∧ u.allocs = s.allocs ++ [⟨a, pc, p, false⟩] ∧
          Safety.keepsMemory s u c.src)) ∧
    (∀ id mine, Safety.Taken s (.memUnmap c id) c → mine = (fun al : Alloc => al.part == p && al.e.allocId == id) →
      ((s.part p).bound.isSome = true → Safety.turnedAway s (.memUnmap c id) c stBusy) ∧
      ((s.part p).bound = none → s.allocs.any mine = false → Safety.turnedAway s (.memUnmap c id) c stNotHeld) ∧
      ((s.part p).bound = none → s.allocs.any mine = true → ∃ u, exec (.memUnmap c id) s = .next u ∧
        Safety.answered u c stOk 0 [] ∧ u.allocs = s.allocs.filter (fun al => !mine al) ∧ Safety.keepsMemory s u c.src)) ∧
    (∀ dst len src x, Safety.Taken s (.memFill c dst len src) c → x = ({ cmdC 0x0103 .job with cflags := 1, mem := true } : CmdInfo) →
      (s.runIn p dst len = false ∨ (∃ o, src = .offset o ∧ s.runIn p o len = false) →
        Safety.turnedAway s (.memFill c dst len src) c stRange) ∧
      (s.runIn p dst len = true → (∀ o, src = .offset o → s.runIn p o len = true) → ∀ s0 got,
        (Safety.base s c).fillBytes p len src = (s0, got) →
        (got = none → exec (.memFill c dst len src) s = .next (Safety.done c x (s0.answer stResource))) ∧
        ∀ data s1 ok, got = some data → s0.memWrite p capAgent dst data = (s1, ok) →
          (ok = false → exec (.memFill c dst len src) s = .next (Safety.done c x (s1.answer stResource))) ∧
          (ok = true → bit c.msg.cflags 0 = false → exec (.memFill c dst len src) s = .next (Safety.done c x s1.ok)) ∧
          ∀ s2 count, ok = true → bit c.msg.cflags 0 = true → s1.countOf p = (s2, count) → exec (.memFill c dst len src) s =
            .next (Safety.done c x ((s2.noteRepair p dst len).log 0x000A p [dst, s2.nodeId.getD 0xFFFF, count]).ok))) ∧
    (∀ base blocks, Safety.Taken s (.memChecksum c base blocks) c →
      (base % 4096 ≠ 0 ∨ s.runIn p base (4096 * blocks) = false → Safety.turnedAway s (.memChecksum c base blocks) c stRange) ∧
      ∀ s1 sums, base % 4096 = 0 → s.runIn p base (4096 * blocks) = true →
        (Safety.base s c).checksums p base blocks = (s1, sums) → ∃ u, exec (.memChecksum c base blocks) s = .next u ∧
          Safety.answered u c stOk 0 sums ∧ sums.length = (if blocks ≤ 16 then 18 else 17) ∧ u.sram = s.sram) ∧
    (Safety.Taken s (.memHold c) c → ∃ u, exec (.memHold c) s = .next u ∧ Safety.answered u c stOk 0 [] ∧
      ∀ d, d ∈ s.diesOf p → d < s.dies.length → (u.die d).upd.repair = true ∧ (u.die d).upd.todo = (s.die d).upd.todo) ∧
    (Safety.Taken s (.memRelease c) c → ∃ u, exec (.memRelease c) s = .next u ∧ Safety.answered u c stOk 0 [] ∧
      ∀ d, d ∈ s.diesOf p → d < s.dies.length → (u.die d).upd.repair = false ∧ (u.die d).upd.todo = (s.die d).upd.todo) ∧
    (∀ h, Safety.Taken s (.memScrub c h) c →
      (h = 0 ∨ 168 < h → Safety.turnedAway s (.memScrub c h) c stRange) ∧
      (1 ≤ h → h ≤ 168 → ∃ u, exec (.memScrub c h) s = .next u ∧ Safety.answered u c stOk 0 [] ∧ u.cap.scrubHours = h)) ∧
    (∀ ofs size sign key, Safety.Taken s (.progLoad c ofs size sign key) c →
      (4 ≤ key → Safety.turnedAway s (.progLoad c ofs size sign key) c stRange) ∧
      (key < 4 → 2 ≤ (s.part p).images.length → Safety.turnedAway s (.progLoad c ofs size sign key) c stResource) ∧
      (key < 4 → (s.part p).images.length < 2 → s.runIn p ofs size = false →
        Safety.turnedAway s (.progLoad c ofs size sign key) c stRange) ∧
      ∀ r, key < 4 → (s.part p).images.length < 2 → s.runIn p ofs size = true → r = (Safety.base s c).plainRead p capAgent ofs size →
        (r.bad ≠ none → ∃ u, exec (.progLoad c ofs size sign key) s = .next u ∧ Safety.answered u c stResource 0 [] ∧
          u.parts = s.parts) ∧
        (∀ e, r.bad = none → r.s.loadCheck p size (imgOf r.data) sign key = some e →
          ∃ u, exec (.progLoad c ofs size sign key) s = .next u ∧ Safety.answered u c e.status e.result [] ∧ u.parts = s.parts) ∧
        (r.bad = none → r.s.loadCheck p size (imgOf r.data) sign key = none →
          ∃ u, exec (.progLoad c ofs size sign key) s = .next u ∧
            Safety.answered u c stOk (BitVec.ofNat 64 (s.part p).nextHandle) [] ∧
            (u.part p).images = (s.part p).images ++ [(imgOf r.data).image (s.part p).nextHandle] ∧
            (u.part p).nextHandle = (s.part p).nextHandle + 1 ∧ (u.part p).bound = (s.part p).bound ∧ u.sram = s.sram)) ∧
    (∀ h seed, Safety.Taken s (.progBind c h seed) c →
      ((s.part p).bound.isSome = true → Safety.turnedAway s (.progBind c h seed) c stBusy) ∧
      ((s.part p).bound = none → ((s.part p).images.find? fun i => i.handle == h) = none →
        Safety.turnedAway s (.progBind c h seed) c stNotHeld) ∧
      ∀ im, (s.part p).bound = none → ((s.part p).images.find? fun i => i.handle == h) = some im →
        (im.shift ≠ s.lny.shift → Safety.turnedAway s (.progBind c h seed) c stTime) ∧
        (∀ e, im.shift = s.lny.shift → needsCheck ((s.allocsOf p).map (fun al => al.e) ++ im.allocs) im.needs = some e →
          ∃ u, exec (.progBind c h seed) s = .next u ∧ Safety.answered u c e.status e.result [] ∧ u.parts = s.parts) ∧
        (im.shift = s.lny.shift → needsCheck ((s.allocsOf p).map (fun al => al.e) ++ im.allocs) im.needs = none →
          s.placeAll p im.allocs = none → Safety.turnedAway s (.progBind c h seed) c stResource) ∧
        ∀ s1, im.shift = s.lny.shift → needsCheck ((s.allocsOf p).map (fun al => al.e) ++ im.allocs) im.needs = none →
          (Safety.base s c).placeAll p im.allocs = some s1 →
          ((s1.bindImage p im seed.toNat).allAwake im.dieMask = true → ∃ u, exec (.progBind c h seed) s = .next u ∧
            Safety.answered u c stOk 0 [] ∧ (u.part p).bound = some im ∧ (u.part p).seed = seed.toNat ∧
            (u.part p).launched = false ∧ u.allocs = s1.allocs) ∧
          ((s1.bindImage p im seed.toNat).allAwake im.dieMask = false → ∃ u, exec (.progBind c h seed) s = .next u ∧
            (u.part p).bound = some im ∧ (u.part p).binding = some c ∧ u.hasMsg c.src = true)) ∧
    (∀ base, Safety.Taken s (.progLaunch c base) c →
      ((s.part p).bound = none → Safety.turnedAway s (.progLaunch c base) c stNotHeld) ∧
      ((s.part p).bound.isSome = true → (s.part p).launched = true ∨ (s.part p).binding.isSome = true →
        Safety.turnedAway s (.progLaunch c base) c stBusy) ∧
      ((s.part p).bound.isSome = true → (s.part p).launched = false → (s.part p).binding = none →
        (s.ahead base 100000 = false → Safety.turnedAway s (.progLaunch c base) c stTime) ∧
        (s.ahead base 100000 = true → ∃ u, exec (.progLaunch c base) s = .next u ∧ Safety.answered u c stOk 0 [] ∧
          (u.part p).launched = true ∧ ∀ t, t ∈ s.tilesOf p → t < s.tiles.length → (u.tile t).beatBase = base % 2 ^ 48 ∧
            (u.tile t).descIdx = 0 ∧ (u.tile t).table = (s.tile t).table ∧ (u.tile t).launched = !(s.tile t).table.isEmpty))) ∧
    (Safety.Taken s (.progAbort c) c → ∃ u, exec (.progAbort c) s = .next u ∧ Safety.answered u c stOk 0 [] ∧
      (u.part p).launched = false ∧ (p < s.geodes.length → (u.geode p).frozen = false) ∧
      ∀ t, t ∈ s.tilesOf p → t < s.tiles.length → (u.tile t).launched = false) ∧
    (Safety.Taken s (.progUnbind c) c →
      ((s.part p).bound = none → Safety.turnedAway s (.progUnbind c) c stNotHeld) ∧
      ((s.part p).bound.isSome = true → ∃ u, exec (.progUnbind c) s = .next u ∧ Safety.answered u c stOk 0 [] ∧
        (u.part p).bound = none ∧ (u.part p).launched = false ∧ u.allocs = s.allocs.filter (fun al => !(al.part == p && al.fromImage)) ∧
        ∀ t, t ∈ s.tilesOf p → t < s.tiles.length → (u.tile t).table = [] ∧ (u.tile t).slots = (s.tile t).slots)) ∧
    ∀ slot key, Safety.Taken s (.progKey c slot key) c →
      (4 ≤ slot → Safety.turnedAway s (.progKey c slot key) c stRange) ∧
      (slot < 4 → ∃ u, exec (.progKey c slot key) s = .next u ∧ Safety.answered u c stOk 0 [] ∧
        u.cap.progKeys = s.cap.progKeys.set slot key)

/-- The fabric and time families (Table 14-7; R149 to R151, R160, R288, R293, R294, R296, R297, R301, R311, R314). -/
def Obligations.FabricAndTimeCommands : Prop :=
  ∀ (s : State) (c : Call) (p : Nat), p = Call.part c →
    (∀ j, Safety.Taken s (.fabJoin c j) c →
      (joinRange j = false → Safety.turnedAway s (.fabJoin c j) c stRange) ∧
      (joinRange j = true → s.cap.fabLock = none ∨ s.cap.fabLock = some (nodeOf (j.x, j.y, j.z)) →
        s.joinClash p (j.dimX, j.dimY, j.dimZ) (j.x, j.y, j.z) = false → p < s.parts.length →
        ∃ u, exec (.fabJoin c j) s = .next u ∧ Safety.answered u c stOk 0 [] ∧
          (u.part p).join = some ⟨j.job, (j.dimX, j.dimY, j.dimZ), (j.x, j.y, j.z), j.timeoutNs, j.joinList⟩ ∧
          (∀ q, q ≠ p → u.part q = s.part q) ∧ u.tiles = s.tiles) ∧
      (joinRange j = true → s.cap.fabLock ≠ none → s.cap.fabLock ≠ some (nodeOf (j.x, j.y, j.z)) →
        Safety.turnedAway s (.fabJoin c j) c stPermission) ∧
      (joinRange j = true → s.cap.fabLock = none ∨ s.cap.fabLock = some (nodeOf (j.x, j.y, j.z)) →
        s.joinClash p (j.dimX, j.dimY, j.dimZ) (j.x, j.y, j.z) = true → Safety.turnedAway s (.fabJoin c j) c stBusy)) ∧
    (Safety.Taken s (.fabLeave c) c →
      ((s.part p).join = none → Safety.turnedAway s (.fabLeave c) c stNotHeld) ∧
      ((s.part p).join.isSome = true → ∃ u, exec (.fabLeave c) s = .next u ∧ Safety.answered u c stOk 0 [] ∧
        (u.part p).join = none ∧ u.fabric.windows = s.fabric.windows.filter (fun w => w.2.part != p))) ∧
    (∀ g, Safety.Taken s (.fabGroup c g) c → p < s.parts.length →
      (12 ≤ g.cvc → Safety.turnedAway s (.fabGroup c g) c stRange) ∧
      (g.cvc < 12 → groupBad s g = true → Safety.turnedAway s (.fabGroup c g) c stFormat) ∧
      (g.cvc < 12 → groupBad s g = false → ∃ u, exec (.fabGroup c g) s = .next u ∧ Safety.answered u c stOk 0 [] ∧
        ((u.part p).groups.find? fun e => e.1 == g.cvc) = some (g.cvc, g))) ∧
    (∀ w node, Safety.Taken s (.fabWindow c w node) c →
      (16 ≤ w → Safety.turnedAway s (.fabWindow c w node) c stRange) ∧
      (w < 16 → node = none → ∃ u, exec (.fabWindow c w node) s = .next u ∧ Safety.answered u c stOk 0 [] ∧
        (u.fabric.windows.find? fun e => e.1 == w) = none) ∧
      ∀ n, w < 16 → node = some n →
        ((s.part p).join = none → Safety.turnedAway s (.fabWindow c w node) c stNotHeld) ∧
        ∀ j, (s.part p).join = some j →
          (nodeValid s j.dims n = false → Safety.turnedAway s (.fabWindow c w node) c stRange) ∧
          (nodeValid s j.dims n = true → ∃ u, exec (.fabWindow c w node) s = .next u ∧ Safety.answered u c stOk 0 [] ∧
            (u.fabric.windows.find? fun e => e.1 == w) = some (w, ⟨n, j.job, p⟩))) ∧
    (∀ ns, Safety.Taken s (.fabParam c ns) c →
      (ns < 10000 ∨ 10000000 < ns → Safety.turnedAway s (.fabParam c ns) c stRange) ∧
      (10000 ≤ ns → ns ≤ 10000000 → ∃ u, exec (.fabParam c ns) s = .next u ∧ Safety.answered u c stOk 0 [] ∧
        u.fabric.throttleNs = ns)) ∧
    (Safety.Taken s (.fabQuery c) c → ∃ u, exec (.fabQuery c) s = .next u ∧
      Safety.answered u c stOk 0 ((s.fabric.ports.map Port.words).flatten) ∧ u.fabric.ports = s.fabric.ports ∧ Safety.keepsMemory s u c.src) ∧
    (∀ first es, Safety.Taken s (.fabRoute c first es) c →
      (32768 < first + es.length → Safety.turnedAway s (.fabRoute c first es) c stRange) ∧
      (first + es.length ≤ 32768 → (es.any fun e => e % 4 = 3 || 128 ≤ e) = true →
        Safety.turnedAway s (.fabRoute c first es) c stReserved) ∧
      (first + es.length ≤ 32768 → (es.any fun e => e % 4 = 3 || 128 ≤ e) = false → ∃ u, exec (.fabRoute c first es) s = .next u ∧
        Safety.answered u c stOk 0 [] ∧ (∀ k, k < es.length → u.routeEntry (first + k) = es.getD k 0) ∧
        ∀ n, n < first ∨ first + es.length ≤ n → u.routeEntry n = s.routeEntry n)) ∧
    (∀ n x, Safety.Taken s (.fabGateway c n x) c →
      (256 ≤ n → Safety.turnedAway s (.fabGateway c n x) c stRange) ∧
      (n < 256 → x = none → ∃ u, exec (.fabGateway c n x) s = .next u ∧ Safety.answered u c stOk 0 [] ∧ u.gateway n = none) ∧
      ∀ node span, n < 256 → x = some (node, span) →
        (32768 ≤ node ∨ 4 ≤ span → Safety.turnedAway s (.fabGateway c n x) c stRange) ∧
        (node < 32768 → span < 4 → ∃ u, exec (.fabGateway c n x) s = .next u ∧ Safety.answered u c stOk 0 [] ∧
          u.gateway n = some (node, span))) ∧
    (∀ port op, Safety.Taken s (.fabPort c port op) c →
      (16 ≤ port → Safety.turnedAway s (.fabPort c port op) c stRange) ∧
      (port < 16 → port < s.fabric.ports.length →
        (op = .retrain → (s.port port).st ≠ .up → Safety.turnedAway s (.fabPort c port op) c stBusy) ∧
        (op = .retrain → (s.port port).st = .up → ∃ u, exec (.fabPort c port op) s = .next u ∧ Safety.answered u c stOk 0 [] ∧
          (u.port port).st = .retraining ∧ (u.port port).lanes = 4) ∧
        (op = .disable → ∃ u, exec (.fabPort c port op) s = .next u ∧ Safety.answered u c stOk 0 [] ∧ (u.port port).st = .disabled) ∧
        (op = .enable → ∃ u, exec (.fabPort c port op) s = .next u ∧ Safety.answered u c stOk 0 [] ∧
          (u.port port).st = if (s.port port).st = .disabled then .training else (s.port port).st))) ∧
    (∀ src dom m, Safety.Taken s (.timeSource c src dom m) c →
      (4 ≤ src ∨ 128 ≤ dom → Safety.turnedAway s (.timeSource c src dom m) c stRange) ∧
      (src < 4 → dom < 128 → ∃ u, exec (.timeSource c src dom m) s = .next u ∧ Safety.answered u c stOk 0 [] ∧
        u.lny = { s.lny.setSrc src with domain := dom, master := m })) ∧
    (∀ x ofs, Safety.Taken s (.timeSet c x ofs) c →
      ((∃ o : Int, ofs = some o ∧ (o < -32768 ∨ 32767 < o)) → Safety.turnedAway s (.timeSet c x ofs) c stRange) ∧
      ((∀ o : Int, ofs = some o → -32768 ≤ o ∧ o ≤ 32767) → ∀ l : Lny,
        l = (match ofs with | some o => { s.lny with utcOfs := o } | none => s.lny) →
        (x = .keep → ∃ u, exec (.timeSet c x ofs) s = .next u ∧ Safety.answered u c stOk 0 [] ∧ u.lny = l) ∧
        (∀ v : BitVec 32, x = .adj v → ∃ u, exec (.timeSet c x ofs) s = .next u ∧ u.lny = l.adjust (toSigned 32 v.toNat) ∧
          Safety.answered u c (if (toSigned 32 v.toNat).natAbs ≤ 65535 then stOk else stRange) 0 []) ∧
        ∀ v : W64, x = .set v →
          (s.setOk v.toNat = true → ∃ u, exec (.timeSet c x ofs) s = .next u ∧ Safety.answered u c stOk 0 [] ∧
            u.lny.now = v.toNat ∧ u.lny.locked = true ∧ u.lny.utcOfs = l.utcOfs) ∧
          (s.setOk v.toNat = false → ∃ u, exec (.timeSet c x ofs) s = .next u ∧ u.lny = { l with setRefused := true } ∧
            Safety.answered u c (if s.anyBound then stBusy else stTime) 0 []))) ∧
    (∀ n, Safety.Taken s (.timeShift c n) c →
      (s.anyBound = true → Safety.turnedAway s (.timeShift c n) c stBusy) ∧
      (s.anyBound = false → shiftOk n = false → Safety.turnedAway s (.timeShift c n) c stRange) ∧
      (s.anyBound = false → shiftOk n = true → ∃ u, exec (.timeShift c n) s = .next u ∧ Safety.answered u c stOk 0 [] ∧
        u.lny.shift = n ∧ u.lny.now = s.lny.now)) ∧
    (Safety.Taken s (.timeStatus c) c → ∃ u, exec (.timeStatus c) s = .next u ∧ u.lny = s.lny ∧ Safety.keepsMemory s u c.src ∧
      Safety.answered u c stOk 0 [s.lny.status, s.lny.errEst, s.beatNow])

/-- The power and tether families (Table 14-7; R377, R378, R387, R389, R391, R393 to R395, R400, R406, R410), PWR_CEIL_OWNER_WRITE
and THM_CART_POLICY_WRITE. -/
def Obligations.PowerAndTetherCommands : Prop :=
  ∀ (s : State) (c : Call),
    (∀ w, Safety.Taken s (.pwrCeiling c w) c →
      (ceilOk w = false → Safety.turnedAway s (.pwrCeiling c w) c stRange) ∧
      (ceilOk w = true → w ≠ s.cap.ceil → 0 < s.cap.ceilLeft → ∃ u, exec (.pwrCeiling c w) s = .next u ∧
        Safety.answered u c stOk 0 [] ∧ u.cap.ceil = w ∧ u.cap.ceilLeft = s.cap.ceilLeft - 1) ∧
      (ceilOk w = true → w ≠ s.cap.ceil → s.cap.ceilLeft = 0 → ∃ u, exec (.pwrCeiling c w) s = .next u ∧
        Safety.answered u c stSlRefused 0 [] ∧ u.cap.ceil = s.cap.ceil) ∧
      (ceilOk w = true → w = s.cap.ceil → ∃ u, exec (.pwrCeiling c w) s = .next u ∧
        Safety.answered u c stOk 0 [] ∧ u.cap.ceil = s.cap.ceil ∧ u.cap.ceilLeft = s.cap.ceilLeft)) ∧
    (∀ (v : W64) w, w = bits v.toNat 0 16 →
      exec (.pwrCeilOwnerWrite false v) s = .next (s.post none 0x0003 0x0500 0 0 0x20010) ∧
      (ceilOk w = false → exec (.pwrCeilOwnerWrite true v) s = .next s) ∧
      (ceilOk w = true → s.mramIdle = false → exec (.pwrCeilOwnerWrite true v) s = .next (s.await (.pwrCeilOwnerWrite true v))) ∧
      (ceilOk w = true → s.mramIdle = true → w = s.cap.ceil → exec (.pwrCeilOwnerWrite true v) s = .next s) ∧
      (ceilOk w = true → s.mramIdle = true → w ≠ s.cap.ceil → s.cap.ceilLeft = 0 →
        exec (.pwrCeilOwnerWrite true v) s = .next (s.slRefuse none 0)) ∧
      (ceilOk w = true → s.mramIdle = true → w ≠ s.cap.ceil → 0 < s.cap.ceilLeft → ∃ u,
        exec (.pwrCeilOwnerWrite true v) s = .next u ∧ u.cap.ceil = w ∧ u.cap.ceilLeft = s.cap.ceilLeft - 1 ∧ u.tiles = s.tiles ∧
          Safety.sameMemory s u)) ∧
    (∀ root grace h, Safety.Taken s (.pwrCartPolicy c root grace h) c →
      (1 < root ∨ 2000 < grace → Safety.turnedAway s (.pwrCartPolicy c root grace h) c stRange) ∧
      (root ≤ 1 → grace ≤ 2000 → ¬(root = s.cap.cartRoot ∧ grace = s.cap.cartGrace ∧ h = s.cap.cartHash) →
        (0 < s.cap.cartLeft → ∃ u, exec (.pwrCartPolicy c root grace h) s = .next u ∧ Safety.answered u c stOk 0 [] ∧
          u.cap.cartRoot = root ∧ u.cap.cartGrace = grace ∧ u.cap.cartHash = h ∧ u.cap.cartLeft = s.cap.cartLeft - 1) ∧
        (s.cap.cartLeft = 0 → ∃ u, exec (.pwrCartPolicy c root grace h) s = .next u ∧ Safety.answered u c stSlRefused 0 [] ∧
          u.cap.cartRoot = s.cap.cartRoot ∧ u.cap.cartGrace = s.cap.cartGrace ∧ u.cap.cartHash = s.cap.cartHash)) ∧
      (root ≤ 1 → grace ≤ 2000 → root = s.cap.cartRoot ∧ grace = s.cap.cartGrace ∧ h = s.cap.cartHash → ∃ u,
        exec (.pwrCartPolicy c root grace h) s = .next u ∧ Safety.answered u c stOk 0 [] ∧ u.cap.cartLeft = s.cap.cartLeft)) ∧
    (∀ (v : W64) root grace same, root = bits v.toNat 0 1 → grace = bits v.toNat 16 11 →
      same = (root = s.cap.cartRoot ∧ grace = s.cap.cartGrace) →
      exec (.thmCartPolicyWrite false v) s = .next (s.post none 0x0003 0x0500 0 0 0x30068) ∧
      (2000 < grace → exec (.thmCartPolicyWrite true v) s = .next s) ∧
      (grace ≤ 2000 → s.mramIdle = false → exec (.thmCartPolicyWrite true v) s = .next (s.await (.thmCartPolicyWrite true v))) ∧
      (grace ≤ 2000 → s.mramIdle = true → same → exec (.thmCartPolicyWrite true v) s = .next s) ∧
      (grace ≤ 2000 → s.mramIdle = true → ¬same → s.cap.cartLeft = 0 →
        exec (.thmCartPolicyWrite true v) s = .next (s.slRefuse none 4)) ∧
      (grace ≤ 2000 → s.mramIdle = true → ¬same → 0 < s.cap.cartLeft → ∃ u, exec (.thmCartPolicyWrite true v) s = .next u ∧
        u.cap.cartRoot = root ∧ u.cap.cartGrace = grace ∧ u.cap.cartHash = s.cap.cartHash ∧
        u.cap.cartLeft = s.cap.cartLeft - 1 ∧ u.tiles = s.tiles ∧ Safety.sameMemory s u)) ∧
    (∀ p prio, Safety.Taken s (.pwrPriority c p prio) c →
      (4 ≤ p ∨ 4 ≤ prio → Safety.turnedAway s (.pwrPriority c p prio) c stRange) ∧
      (p < 4 → prio < 4 → p < s.power.parts.length → ∃ u, exec (.pwrPriority c p prio) s = .next u ∧ Safety.answered u c stOk 0 [] ∧
        u.prec p = (prio, (s.prec p).2) ∧ ∀ q, q ≠ p → u.prec q = s.prec q)) ∧
    (∀ req g p, Safety.Taken s (.pwrRequest c req g) c → p = Call.part c →
      (req < 50 ∨ 1200 < req ∨ 7 < g → Safety.turnedAway s (.pwrRequest c req g) c stRange) ∧
      (50 ≤ req → req ≤ 1200 → g ≤ 7 → p < s.power.parts.length → ∃ u, exec (.pwrRequest c req g) s = .next u ∧
        Safety.answered u c stOk 0 [] ∧ (u.prec p).2.1 = req ∧ (u.prec p).2.2.1 = g ∧
        (bit c.msg.cflags 0 = true → (u.power.throt.getD p (0, 0)).2 = (u.power.throt.getD p (0, 0)).1) ∧
        ∀ r, r < 32 → r < s.regions.length → bit (s.part p).mask (r / 8) = true → (u.region r).shareCap ≤ g)) ∧
    (∀ slot key, Safety.Taken s (.pwrTetherKey c slot key) c →
      (4 ≤ slot → Safety.turnedAway s (.pwrTetherKey c slot key) c stRange) ∧
      (slot < 4 → ∃ u, exec (.pwrTetherKey c slot key) s = .next u ∧ Safety.answered u c stOk 0 [] ∧
        u.cap.tetherKeys = s.cap.tetherKeys.set slot key)) ∧
    (∀ m, Safety.Taken s (.pwrDerate c m) c →
      (3000 < m → Safety.turnedAway s (.pwrDerate c m) c stRange) ∧
      (m ≤ 3000 → ∃ u, exec (.pwrDerate c m) s = .next u ∧ Safety.answered u c stOk 0 [] ∧ u.power.derateM = m)) ∧
    (∀ x, Safety.Taken s (.pwrTune c x) c →
      (x.cleatHoldMs = 0 ∨ 1000 < x.cleatHoldMs ∨ 2 ^ 16 ≤ x.guardW ∨ 256 ≤ x.tripLevel ∨ 256 ≤ x.releaseLevel ∨
        256 ≤ x.stretchPct → Safety.turnedAway s (.pwrTune c x) c stRange) ∧
      (1 ≤ x.cleatHoldMs → x.cleatHoldMs ≤ 1000 → x.guardW < 2 ^ 16 → x.tripLevel < 256 → x.releaseLevel < 256 → x.stretchPct < 256 →
        ∃ u, exec (.pwrTune c x) s = .next u ∧ Safety.answered u c stOk 0 [] ∧ u.power.rampEn = x.rampEn ∧ u.power.guard = x.guardW ∧
          u.power.cleatHoldMs = x.cleatHoldMs ∧ u.power.droopTrip = x.tripLevel ∧ u.power.droopRelease = x.releaseLevel ∧
          u.power.stretchPct = x.stretchPct ∧ u.power.tether = s.power.tether ∧ u.cap.ceil = s.cap.ceil)) ∧
    (∀ i from_ n got, i = Instr.pwrMeter c from_ n ∨ i = .meterFetch c from_ n → Safety.Taken s i c →
      got = (List.range n).map (fun k => s.power.meter.find? fun r => r.seq == from_ + k && r.sigs.isSome) →
      (n = 0 ∨ 16 < n → Safety.turnedAway s i c stRange) ∧
      (1 ≤ n → n ≤ 16 → got.any Option.isNone = true → Safety.turnedAway s i c stNotHeld) ∧
      (1 ≤ n → n ≤ 16 → got.any Option.isNone = false → ∃ u, exec i s = .next u ∧ u.power = s.power ∧
        Safety.answered u c stOk 0 (((got.filterMap id).map MeterRec.words).flatten))) ∧
    (∀ w at_ ramp, Safety.Taken s (.tetherCeiling c w at_ ramp) c →
      (ceilOk w = false → Safety.turnedAway s (.tetherCeiling c w at_ ramp) c stRange) ∧
      (ceilOk w = true → ∃ u, exec (.tetherCeiling c w at_ ramp) s = .next u ∧ Safety.answered u c stOk 0 [] ∧
        u.power.standing = some (w, at_) ∧ u.power.rampEn = ramp ∧ u.power.tether = u.tetherAt u.now)) ∧
    (∀ start ws, Safety.Taken s (.tetherSchedule c start ws) c →
      (ws = [] ∨ 64 < ws.length ∨ ws.all ceilOk = false → Safety.turnedAway s (.tetherSchedule c start ws) c stRange) ∧
      (ws ≠ [] → ws.length ≤ 64 → ws.all ceilOk = true → ∃ u, exec (.tetherSchedule c start ws) s = .next u ∧
        Safety.answered u c stOk 0 [] ∧ u.power.schedule = (start, ws) ∧ u.power.tether = u.tetherAt u.now)) ∧
    (Safety.Taken s (.tetherClear c) c → ∃ u, exec (.tetherClear c) s = .next u ∧ Safety.answered u c stOk 0 [] ∧
      u.power.standing = none ∧ u.power.schedule = (0, []) ∧ u.power.tether = 0) ∧
    (Safety.Taken s (.tetherStatus c) c → ∃ u, exec (.tetherStatus c) s = .next u ∧ u.power = s.power ∧
      Safety.answered u c stOk 0 [s.power.tether, s.pwrCap, s.pwrInput, s.power.meterSeq - 1])

/-- The counters family (Table 14-7; R274, R462 to R466, R472 to R478, R482, R484). -/
def Obligations.CounterAndDumpCommands : Prop :=
  ∀ (s : State) (c : Call) (p : Nat), p = Call.part c →
    (∀ n ds l s1, Safety.Taken s (.cntFaults c n) c → ds = s.diesOf p → (Safety.base s c).takeFaults ds (Nat.min n 127) = (l, s1) →
      (4064 < 8 * (l.map FaultRec.words).flatten.length + 16 * ds.length → ∃ u, exec (.cntFaults c n) s = .next u ∧
        Safety.answered u c stOk 0 (l.map FaultRec.words).flatten ∧ ∀ d, (u.die d).faultQ = (s1.die d).faultQ) ∧
      (8 * (l.map FaultRec.words).flatten.length + 16 * ds.length ≤ 4064 → ∃ u, exec (.cntFaults c n) s = .next u ∧
        Safety.answered u c stOk 0 ((l.map FaultRec.words).flatten ++
          (ds.map fun d => [(s.die d).scopeCnt, (s.die d).scopeLastWord]).flatten) ∧
        (∀ d, (u.die d).faultQ = (s1.die d).faultQ) ∧ ∀ d, d ∈ ds → (u.die d).scopeCnt = 0) ∧
      ∀ d, ds = [d] → d < s.dies.length → l = (s.die d).faultQ.take (Nat.min n 127) ∧
        (s1.die d).faultQ = (s.die d).faultQ.drop (Nat.min n 127)) ∧
    (∀ d m cfg alarm, Safety.Taken s (.cntStrataConfig c d m cfg alarm) c →
      (∀ st, monRole s c d m = some st → Safety.turnedAway s (.cntStrataConfig c d m cfg alarm) c st) ∧
      (monRole s c d m = none → ∀ st, cfgBad d m cfg.toNat = some st → Safety.turnedAway s (.cntStrataConfig c d m cfg alarm) c st) ∧
      (monRole s c d m = none → cfgBad d m cfg.toNat = none → (s.mon d m).shadow = true → s.dieBound d = true →
        Safety.turnedAway s (.cntStrataConfig c d m cfg alarm) c stBusy) ∧
      (monRole s c d m = none → cfgBad d m cfg.toNat = none → ((s.mon d m).shadow && s.dieBound d) = false →
        d = 4 ∨ d < s.dies.length → m < (s.monsOf d).length → ∃ u, exec (.cntStrataConfig c d m cfg alarm) s = .next u ∧ Safety.answered u c stOk 0 [] ∧
          u.mon d m = { Monitor.init with
            source := bits cfg.toNat 0 8, shift := bits cfg.toNat 8 5, layerFilt := bit cfg.toNat 13, opFilt := bit cfg.toNat 14
            layer := bits cfg.toNat 16 16, op := bits cfg.toNat 32 16, sel := bits cfg.toNat 48 10
            period := bits cfg.toNat 58 4, alarmAt := alarm, shadow := (s.mon d m).shadow
            nextAt := (s.now / 2 ^ (10 + bits cfg.toNat 58 4) + 1) * 2 ^ (10 + bits cfg.toNat 58 4) } ∧
          ∀ k, k ≠ m → u.mon d k = (Safety.base s c).mon d k)) ∧
    (∀ d ms, Safety.Taken s (.cntStrataRead c d ms) c →
      (8 < ms.length → Safety.turnedAway s (.cntStrataRead c d ms) c stFormat) ∧
      (ms.length ≤ 8 → ∀ st, (ms.findSome? fun m => monRole s c d m) = some st → Safety.turnedAway s (.cntStrataRead c d ms) c st) ∧
      (ms.length ≤ 8 → (ms.findSome? fun m => monRole s c d m) = none → ∃ u, exec (.cntStrataRead c d ms) s = .next u ∧
        Safety.answered u c stOk 0 ((ms.map fun m => ((Safety.base s c).mon d m).words).flatten) ∧
        u.dies = (Safety.base s c).dies)) ∧
    (∀ i d m, i = Instr.cntStrataClear c d m ∨ i = .cntStrataAck c d m → Safety.Taken s i c →
      (∀ st, monRole s c d m = some st → Safety.turnedAway s i c st) ∧
      (monRole s c d m = none → d = 4 ∨ d < s.dies.length → m < (s.monsOf d).length →
        (i = .cntStrataClear c d m → ∃ u, exec i s = .next u ∧ Safety.answered u c stOk 0 [] ∧ u.mon d m =
          { (Safety.base s c).mon d m with
            count := 0, sum := 0, max := 0, min := 0xFFFFFFFF, bins := List.replicate 32 0, sumSat := false, alarm := false
            dropped := 0 }) ∧
        (i = .cntStrataAck c d m → ∃ u, exec i s = .next u ∧ Safety.answered u c stOk 0 [] ∧
          u.mon d m = { (Safety.base s c).mon d m with alarm := false }))) ∧
    (∀ d, Safety.Taken s (.cntStrataEnergy c d) c →
      (d = none → c.msg.auth = 1 → ∃ u x, exec (.cntStrataEnergy c d) s = .next u ∧ Safety.answered u c stOk 0 [x] ∧
        u.dies = (Safety.base s c).dies) ∧
      (d = none → c.msg.auth ≠ 1 → Safety.turnedAway s (.cntStrataEnergy c d) c stPermission) ∧
      ∀ k, d = some k →
        (4 ≤ k → Safety.turnedAway s (.cntStrataEnergy c d) c stRange) ∧
        (k < 4 → c.msg.auth ≠ 1 → s.partOfDie k ≠ some p → Safety.turnedAway s (.cntStrataEnergy c d) c stPermission) ∧
        (k < 4 → c.msg.auth = 1 ∨ s.partOfDie k = some p → ∃ u, exec (.cntStrataEnergy c d) s = .next u ∧
          Safety.answered u c stOk 0 (ledgerWords (s.die k).energy.published) ∧ u.dies = (Safety.base s c).dies)) ∧
    (Safety.Taken s (.cntDumpTrigger c) c → p < s.geodes.length →
      ((s.geode p).frozen = false → ∃ u, exec (.cntDumpTrigger c) s = .next u ∧ Safety.answered u c stOk 0 [] ∧
        (u.geode p).trigs = (s.geode p).trigs ++ [⟨4, 0x0600, 0, 0, 0, 0, 0, 0⟩]) ∧
      ((s.geode p).frozen = true → ∃ u, exec (.cntDumpTrigger c) s = .next u ∧ Safety.answered u c stOk 0 [] ∧
        (u.geode p).hdr = (s.geode p).hdr.map fun h => { h with later := inc16 h.later })) ∧
    (∀ areas home, Safety.Taken s (.cntDumpMap c) c → areas = (s.diesOf p).map (fun d => dumpAlloc p d) →
      home = (match s.diesOf p with | d :: _ => dumpBase d | [] => 0) →
      ((s.geode p).mapped = true → ∃ u, exec (.cntDumpMap c) s = .next u ∧ Safety.answered u c stOk (BitVec.ofNat 64 home) [] ∧
        u.allocs = s.allocs) ∧
      ((s.geode p).mapped = false → (areas.any fun x => s.allocs.any fun al => entriesOverlap al.e x.e) = true →
        Safety.turnedAway s (.cntDumpMap c) c stResource) ∧
      ((s.geode p).mapped = false → (areas.any fun x => s.allocs.any fun al => entriesOverlap al.e x.e) = false →
        ∃ u, exec (.cntDumpMap c) s = .next u ∧ Safety.answered u c stOk (BitVec.ofNat 64 home) [] ∧ u.allocs = s.allocs ++ areas ∧
          (p < s.geodes.length → (u.geode p).mapped = true))) ∧
    (∀ keep, Safety.Taken s (.cntDumpKeep c keep) c → p < s.geodes.length → ∃ u, exec (.cntDumpKeep c keep) s = .next u ∧
      Safety.answered u c stOk 0 [] ∧ u.geode p = { s.geode p with keep := keep }) ∧
    (Safety.Taken s (.cntDumpFabTrig c) c → p < s.geodes.length → ∃ u, exec (.cntDumpFabTrig c) s = .next u ∧
      Safety.answered u c stOk 0 [] ∧ u.geode p = { s.geode p with fabTrig := false }) ∧
    (Safety.Taken s (.cntDumpStatus c) c → ∃ u, exec (.cntDumpStatus c) s = .next u ∧
      Safety.answered u c stOk (BitVec.ofNat 64 (s.geode p).word) [] ∧ u.geodes = s.geodes)

/-- STRATA_SAMPLE, STRATA_PERIOD_SAMPLE, ENERGY_CALIBRATION, GEODE_TRIGGER, GEODE_SETTLE and GEODE_WRITE_END (R463, R464, R470,
R472 to R475). -/
def Obligations.SamplesAndDumps : Prop :=
  (∀ (s : State) (e : SampleEvent) (k : SrcInfo) (m : Nat), e.d < 5 → e.d = 4 ∨ e.d < s.dies.length → srcInfo e.source = some k →
    m < (s.monsOf e.d).length →
    (k.sampled = true ∨ srcPosted e.source = true → exec (.strataSample e) s = .next s) ∧
    (k.sampled = false → srcPosted e.source = false → ∃ u, exec (.strataSample e) s = .next u ∧
      Safety.sameMemory s u ∧ ((s.mon e.d m).takes e.source e.layer e.op e.inst = false → u.mon e.d m = s.mon e.d m) ∧
      ((s.mon e.d m).takes e.source e.layer e.op e.inst = true →
        (8 ≤ e.burst → u.mon e.d m = { s.mon e.d m with dropped := inc16 (s.mon e.d m).dropped }) ∧
        (e.burst < 8 → (u.mon e.d m).count = (s.mon e.d m).count + 1 ∧
          (u.mon e.d m).sum = Nat.min ((s.mon e.d m).sum + (s.mon e.d m).scaled e.raw) (2 ^ 64 - 1) ∧
          (u.mon e.d m).min = Nat.min (s.mon e.d m).min ((s.mon e.d m).scaled e.raw) ∧
          (u.mon e.d m).max = Nat.max (s.mon e.d m).max ((s.mon e.d m).scaled e.raw))))) ∧
  (∀ (s : State) (d m : Nat) (k : SrcInfo), monExists d m = true → m < (s.monsOf d).length → srcInfo (s.mon d m).source = some k →
    (k.sampled = false ∨ s.now < (s.mon d m).nextAt → exec (.strataPeriodSample d m) s = .next s) ∧
    (k.sampled = true → (s.mon d m).nextAt ≤ s.now → ∃ u, exec (.strataPeriodSample d m) s = .next u ∧
      (u.mon d m).count = (s.mon d m).count + (((s.mon d m).insts k.insts).filterMap (s.sampled d (s.mon d m).source)).length ∧
      (u.mon d m).nextAt = (s.now / 2 ^ (10 + (s.mon d m).period) + 1) * 2 ^ (10 + (s.mon d m).period) ∧
      ∀ j, j ≠ m → u.mon d j = s.mon d j)) ∧
  (∀ (s : State) (d measured : Nat), d < 4 → s.now / SEC1 = (s.die d).energy.second →
    exec (.energyCalibration d measured) s = .next s) ∧
  (∀ (s : State) (d measured : Nat), d < 4 → d < s.dies.length → s.now / SEC1 ≠ (s.die d).energy.second →
    ((s.die d).energy.ledger.map fun e => (e.1, e.2.1)).Nodup → ∃ u, exec (.energyCalibration d measured) s = .next u ∧
      (u.die d).energy.raw = [] ∧ (u.die d).energy.second = s.now / SEC1 ∧ (u.die d).energy.calibrated = true ∧ (u.die d).energy.published = (u.die d).energy.ledger ∧
      ((u.die d).energy.ledger.map fun e => e.2.2).sum = ((s.die d).energy.ledger.map fun e => e.2.2).sum + (measured : Int) ∧
      Safety.sameMemory s u) ∧
  ∀ (s : State) (p : Nat), p < 4 → p < s.geodes.length →
    (∀ tr, bestTrig (s.geode p).trigs = some tr →
      ((s.geode p).frozen = true → exec (.geodeTrigger p tr.cause tr.tile) s = .next s) ∧
      ((s.geode p).frozen = false → ∃ u h, exec (.geodeTrigger p tr.cause tr.tile) s = .next u ∧ (u.geode p).frozen = true ∧
        (u.geode p).phase = .settling ∧ (u.geode p).trigs = [] ∧ (u.geode p).hdr = some h ∧ h.cause = tr.cause ∧
        h.trigTile = tr.tile ∧ h.layer = tr.layer ∧ h.op = tr.op ∧ h.tTrig = s.now ∧
        h.later = min ((s.geode p).trigs.length - 1) 65535 ∧ h.status = (if (s.geode p).keep then 2 else 0) ∧
        ((s.geode p).keep = false → (u.geode p).mapped = false ∧ ∀ d, dumpAlloc p d ∈ u.allocs → 4 ≤ d) ∧ u.tiles = s.tiles ∧ Safety.sameMemory s u)) ∧
    ∀ h, (s.geode p).hdr = some h →
      ((s.geode p).phase = .settling →
        (s.now < h.tTrig + 10000 → s.nothingFlies p = false → exec (.geodeSettle p) s = .next s) ∧
        (h.tTrig + 10000 ≤ s.now ∨ s.nothingFlies p = true → ∃ u, exec (.geodeSettle p) s = .next u ∧ (u.geode p).hdr = some { h with tSettled := s.now } ∧
          (u.geode p).phase = (if h.status = 2 then .done else .writing) ∧ (u.geode p).frozen = (s.geode p).frozen ∧
          Safety.sameMemory s u)) ∧
      ((s.geode p).phase = .writing →
        (s.now < h.tSettled + 20000000 → exec (.geodeWriteEnd p true) s = .next s) ∧
        (h.tSettled + 20000000 < s.now ∨ s.engReady p = false → exec (.geodeWriteEnd p false) s = .next s) ∧
        (s.now ≤ h.tSettled + 20000000 → s.engReady p = true → ∃ u h', exec (.geodeWriteEnd p false) s = .next u ∧ (u.geode p).phase = .done ∧ (u.geode p).hdr = some h' ∧
            h'.status = 0 ∧ h'.tWritten = s.now ∧ h'.sections = 677 * (s.diesOf p).length ∧ u.sram = s.sram ∧
            u.flash = s.flash ∧ u.parts = s.parts) ∧
        (h.tSettled + 20000000 ≤ s.now → ∃ u h', exec (.geodeWriteEnd p true) s = .next u ∧ (u.geode p).phase = .done ∧
          (u.geode p).hdr = some h' ∧ h'.status = 1 ∧ h'.tWritten = s.now ∧ u.sram = s.sram ∧ u.flash = s.flash ∧
          u.parts = s.parts))

/-- RESET_N_ASSERT, RESET_N_RELEASE, RELEASE_WAVE_STAGE, RELEASE_STAGE_TIMEOUT, LOADER_CHECK, CAPSTAN_RESTART, BLOCK_RESET_IDLE and the
reset family (R428, R440, R441, R451 to R458, R493, Tables 15-2 to 15-4). -/
def Obligations.ResetsAndRelease : Prop :=
  (∀ (s : State) (n : Nat),
    (n < 100 → exec (.resetNAssert n) s = .next s) ∧
    (s.power.standby = false ∨ (s.rst.low = true ∧ s.standby.cause ≠ 2) → exec (.resetNAssert n) s = .next s) ∧
    (100 ≤ n → s.power.standby = true → s.rst.low = false ∨ s.standby.cause = 2 →
      (s.mram.pulse = none → ∃ u, exec (.resetNAssert n) s = .next u ∧ u.rst = Rst.init ∧ u.standby.cause = 1 ∧
        u.standby.moduleResets = inc16 s.standby.moduleResets ∧ u.tiles = List.replicate 384 Tile.init ∧ u.allocs = [] ∧
        u.lny.now = s.lny.now ∧ u.hbm = s.hbm ∧ u.flash = s.flash ∧ u.cap.ownerKey = s.cap.ownerKey) ∧
      (s.mram.pulse.isSome = true → exec (.resetNAssert n) s =
        .next { s with mram := { s.mram with held := some (.module 1) } }))) ∧
  (∀ (s : State) (l : List Nat),
    (s.rst.low = false ∨ s.power.standby = false ∨ s.mram.held.isSome = true ∨ s.coolEnough = false →
      exec (.resetNRelease l) s = .next s) ∧
    (s.rst.low = true → s.power.standby = true → s.mram.held = none → s.coolEnough = true → ∃ u,
      exec (.resetNRelease l) s = .next u ∧ u.rst.low = false ∧ u.rst.row = 2 ∧ u.cap.bootCount = s.cap.bootCount + 1 ∧
        u.power.bricks = 255 ∧ (u.cap.run = .recovery ∨ u.cap.run = .booting ∧ u.cap.cdi1.isSome = true) ∧ Safety.sameMemory s u)) ∧
  (∀ (s : State) (d : Nat), d < 4 → s.rst.low = false →
    (s.canRamp = false → exec (.releaseWaveStage 4 d) s = .next s) ∧
    (s.canRamp = true → ∃ u, exec (.releaseWaveStage 4 d) s = .next u ∧ u.rst.row = 4 ∧ u.rst.rowAt = s.now ∧
      u.power.railsOn = true ∧ u.power.gear = 0) ∧
    (s.rst.row = 4 → ∃ u, exec (.releaseWaveStage 5 d) s = .next u ∧ u.rst.row = 5 ∧ u.rst.rowAt = s.now ∧ u.dies = s.dies) ∧
    (s.rst.row = 5 → s.now < s.rst.rowAt + 10000000 → exec (.releaseStageTimeout d) s = .next s) ∧
    (s.rst.row = 5 → s.dieSettled d = false → d < s.dies.length →
      (∃ u, exec (.releaseWaveStage 6 d) s = .next u ∧ (u.die d).released = 1 ∧
        u.rst.row = if [0, 1, 2, 3].all (fun k => k == d || s.dieSettled k) then 6 else 5) ∧
      (s.rst.rowAt + 10000000 ≤ s.now → ∃ u, exec (.releaseStageTimeout d) s = .next u ∧ (u.die d).fenced = true ∧
        ∀ k, k < 5 → 5 * d + k < s.stks.length → (u.stk (5 * d + k)).lost = true)) ∧
    (s.rst.row = 6 → (s.die (edgeDies d).1).released ≠ 0 → (s.die (edgeDies d).2).released ≠ 0 → s.rst.edges.contains d = false →
      ∃ u, exec (.releaseWaveStage 7 d) s = .next u ∧ u.rst.edges = d :: s.rst.edges ∧
        u.rst.row = if [0, 1, 2, 3].all (fun k => k == d || s.edgeSettled k) then 7 else 6) ∧
    (s.rst.row = 7 → ∃ u, exec (.releaseWaveStage 8 d) s = .next u ∧ u.rst.row = 8 ∧
      ∀ p, p < 16 → p < s.fabric.ports.length → (s.port p).st = .down → (u.port p).st = .training)) ∧
  (∀ s : State, s.cap.run = .booting → 8 ≤ s.rst.row → (s.stks.any fun k => k.training && !k.lost) = false →
    ∀ cdi, s.cap.cdi1 = some cdi →
      (∀ l, s.loader s.cap.slot s.cap.revEcdsa s.cap.revLms = some l → ∃ u, exec .loaderCheck s = .next u ∧ u.cap.run = .running ∧
        u.cap.coresReleased = true ∧ u.cap.measLoader = l.digest ∧ u.cap.cdi2 = some (Config.hmac384 cdi l.digest) ∧
        u.hbm = (s.carveWrite l.loadAddr (l.payload.take (s.cap.carve * 2 ^ 30 - l.loadAddr))).hbm ∧ u.sram = s.sram) ∧
      (s.loader s.cap.slot s.cap.revEcdsa s.cap.revLms = none → ∃ u, exec .loaderCheck s = .next u ∧ u.cap.run = .running ∧
        u.cap.coresReleased = false ∧ u.hbm = s.hbm)) ∧
  (∀ s : State, s.cap.run = .booting ∨ s.cap.run = .recovery → exec .capstanRestart s = .next s) ∧
  (∀ s : State, s.cap.run = .running ∨ s.cap.run = .restarting → ∃ u, exec .capstanRestart s = .next u ∧ u.cap.run = .restarting ∧
    u.cap.restarts = inc16 s.cap.restarts ∧ u.cap.sessions = List.replicate 8 none ∧ u.fabric.mgtGot = [] ∧
    u.awaiting = s.awaiting.filter survives ∧ u.cap.mbx = s.cap.mbx ∧ u.tiles = s.tiles ∧ Safety.sameMemory s u) ∧
  (∀ (s : State) (c : Call), Safety.Taken s (.rstCapstan c) c → ∃ u, exec (.rstCapstan c) s = .next u ∧ u.cap.run = .restarting ∧
    u.cap.restarts = inc16 s.cap.restarts ∧ u.cap.sessions = List.replicate 8 none ∧
    ∀ n, c.src = .mbx n → Safety.answered u c stOk 0 []) ∧
  (∀ (s : State) (c : Call), Safety.Taken s (.rstModule c) c → ∃ u, exec (.rstModule c) s = .next u ∧ u.rst = Rst.init ∧
    u.standby.cause = 2 ∧ u.standby.moduleResets = inc16 s.standby.moduleResets ∧ u.tiles = List.replicate 384 Tile.init ∧
    u.cap.mbx = List.replicate 64 Mailbox.init) ∧
  (∀ (s : State) (c : Call) (p : Nat), Safety.Taken s (.rstPartition c) c → p = Call.part c → p < s.parts.length →
    ∃ u, exec (.rstPartition c) s = .next u ∧ Safety.answered u c stOk 0 [] ∧ (u.part p).bound = none ∧ (u.part p).launched = false ∧
      (u.part p).mask = (s.part p).mask ∧ (p < s.geodes.length → (u.geode p).frozen = false) ∧
      (∀ al, al ∈ u.allocs → ¬(al.part = p ∧ al.fromImage = true)) ∧
      ∀ t a, t ∈ s.tilesOf p → a < 2 ^ 21 → u.sramRead t a 1 = [0] ∧ (u.tile t).slots = Tile.init.slots) ∧
  (∀ (s : State) (c : Call) (b : BlockKind) (i us : Nat), Safety.Taken s (.rstBlock c b i us) c →
    (blockCount b ≤ i ∨ 10000 < us → Safety.turnedAway s (.rstBlock c b i us) c stRange) ∧
    (∀ r, i < blockCount b → us ≤ 10000 → s.rst.blk = some r →
      (r.call ≠ none → r.call ≠ some c → Safety.turnedAway s (.rstBlock c b i us) c stBusy) ∧
      (r.call = none ∨ r.call = some c → ∃ u, exec (.rstBlock c b i us) s = .next u ∧ u.hasMsg c.src = true ∧ u.rst.blk = some r)) ∧
    (i < blockCount b → us ≤ 10000 → s.rst.blk = none →
      (s.blockAllowed b i = false → Safety.turnedAway s (.rstBlock c b i us) c stBusy) ∧
      (s.blockAllowed b i = true → ∃ u, exec (.rstBlock c b i us) s = .next u ∧ u.hasMsg c.src = true ∧ u.rst.blk =
        some ⟨b, i, s.now + 1000 * (if us = 0 then 50 else us), (Safety.base s c).outstanding b i, some c⟩))) ∧
  ∀ s : State, (s.rst.blk = none → ∀ timedOut, exec (.blockResetIdle timedOut) s = .next s) ∧
    ∀ b, s.rst.blk = some b →
      (s.blockIdle b = false → s.now < b.until_ → ∀ timedOut, exec (.blockResetIdle timedOut) s = .next s) ∧
      (∀ timedOut r, r = (if s.blockIdle b then 1 else ((s.leftOpen b).length + natOfBool (s.updOpen b)) % 2 ^ 16 * 2 ^ 16) →
        s.blockIdle b = true ∨ timedOut = true ∧ b.until_ ≤ s.now → ∃ u, exec (.blockResetIdle timedOut) s = .next u ∧
          u.rst.blk = none ∧
          (∀ c n, b.call = some c → c.src = .mbx n → n < s.cap.mbx.length → Safety.answered u c stOk (BitVec.ofNat 64 r) []) ∧
          (b.kind = .tile → b.idx < 384 → ∀ a, a < 2 ^ 21 → u.sramRead b.idx a 1 = [0]))

/-- MGT_FRAME, SESSION_EXPIRY, SMBUS_BLOCK_READ, SMBUS_ALERT_RESPONSE, STANDBY_VALID, STANDBY_LOSS, PLUG_LOOP_CLOSE, PLUG_LOOP_OPEN,
MRAM_PULSE_END and HBM_LINK_TRAINING (R247, R369, R370, R435, R436, R451, R497, R498). -/
def Obligations.PortsAndPins : Prop :=
  (∀ (s : State) (f : Frame),
    (s.classify f = .ptp → exec (.mgtFrame f) s = .next (s.modCap fun c => { c with mgtPtp := c.mgtPtp + 1 })) ∧
    (s.classify f = .dropped → exec (.mgtFrame f) s = .next (s.modCap fun c => { c with mgtDropped := c.mgtDropped + 1 })) ∧
    (s.classify f = .cores → exec (.mgtFrame f) s = .next (s.modCap fun c => { c with mgtOs := c.mgtOs + 1 })) ∧
    (s.classify f = .management → f.length ≤ 4096 → s.cap.run ≠ .booting →
      (∀ k, s.sessionOf f.srcAddr f.srcPort = some k → ∃ u x, exec (.mgtFrame f) s = .next u ∧ u.session k = some x ∧
        x.last = s.now ∧ x.handAt = some s.now ∧ x.addr = f.srcAddr ∧ x.port = f.srcPort) ∧
      (s.sessionOf f.srcAddr f.srcPort = none → f.isHello = false → exec (.mgtFrame f) s =
        .next (s.modCap fun c => { c with mgtRefused := some (f.srcAddr, f.srcPort, stVersion) })) ∧
      (s.sessionOf f.srcAddr f.srcPort = none → f.isHello = true →
        ((List.range 8).find? fun k => (s.session k).isNone) = none → exec (.mgtFrame f) s =
          .next (s.modCap fun c => { c with mgtRefused := some (f.srcAddr, f.srcPort, stBusy) })) ∧
      ∀ k, s.sessionOf f.srcAddr f.srcPort = none → f.isHello = true →
        ((List.range 8).find? fun k => (s.session k).isNone) = some k → s.cap.sessions.length = 8 →
        ∃ u, exec (.mgtFrame f) s = .next u ∧ u.session k = some ⟨f.srcAddr, f.srcPort, s.now, none, [], none, some s.now⟩) ∧
    (s.classify f = .management → 4096 < f.length ∨ s.cap.run = .booting → exec (.mgtFrame f) s = .next s)) ∧
  (∀ (s : State) (k : Nat) (x : Session), k < 8 → s.session k = some x →
    (s.now < x.last + 600000000000 → exec (.sessionExpiry k) s = .next s) ∧
    (x.last + 600000000000 ≤ s.now → ∃ u, exec (.sessionExpiry k) s = .next u ∧ u.session k = none ∧
      ∀ j, j ≠ k → u.session j = s.session j)) ∧
  (∀ s : State, s.power.standby = true →
    (∀ addr code ok, addr ≠ s.smbusAddr ∨ ok = false → ∃ u, exec (.smbusBlockRead addr code ok) s = .next u ∧ u.pins.smb = none) ∧
    (∃ u l, exec (.smbusBlockRead s.smbusAddr 2 true) s = .next u ∧ u.pins.smb = some l ∧ l.length = 24 ∧
      l.take 8 = natLe 8 s.pwrInput ∧ Safety.sameMemory s u) ∧
    (∃ u l, exec (.smbusBlockRead s.smbusAddr 1 true) s = .next u ∧ u.pins.smb = some l ∧ l.length = 32 ∧ l.take 12 = orderingCode) ∧
    (∀ code, 6 ≤ code → ∃ u, exec (.smbusBlockRead s.smbusAddr code true) s = .next u ∧ u.pins.smb = none) ∧
    (s.pins.alertLow = true → ∃ u, exec .smbusAlertResponse s = .next u ∧ u.pins.alertLow = false ∧
      u.pins.smb = some [BitVec.ofNat 8 s.smbusAddr] ∧ u.tiles = s.tiles)) ∧
  (∀ s : State,
    (s.pins.loopClosed = true → s.power.standby = false → exec .standbyValid s = .next (s.modPower fun w => { w with standby := true })) ∧
    (s.power.standby = true → 20000 ≤ s.power.feedA.mv ∨ 20000 ≤ s.power.feedB.mv → exec .standbyLoss s = .next s) ∧
    (s.power.standby = false ∨ s.power.feedA.mv < 20000 ∧ s.power.feedB.mv < 20000 → ∃ u, exec .standbyLoss s = .next u ∧ u.power.standby = false ∧ u.power.railsOn = false ∧ u.hbm = [] ∧ u.sram = [] ∧
      u.standby = Standby.init ∧ u.rst = Rst.init ∧ u.flash = s.flash ∧ u.cap.ownerKey = s.cap.ownerKey) ∧
    (s.pins.loopClosed = false → ∃ u, exec .plugLoopClose s = .next u ∧ u.pins.loopClosed = true ∧ u.power.hotSwap = true ∧
      u.power.standby = true ∧ u.power.feedA = FeedRec.init ∧ u.power.feedB = FeedRec.init ∧ u.tiles = s.tiles) ∧
    (s.pins.loopClosed = true → exec .plugLoopClose s = .next s) ∧
    (s.pins.loopClosed = false ∨ s.power.standby = true → exec .standbyValid s = .next s) ∧
    (∃ u, exec .plugLoopOpen s = .next u ∧ u.pins.loopClosed = false ∧ u.power.hotSwap = false ∧ u.power.standby = false ∧
      u.standby = Standby.init)) ∧
  (∀ s : State, s.mram.pulse = none → exec .mramPulseEnd s = .next s) ∧
  (∀ (s : State) (q : MramReq), s.mram.pulse = some q →
    (∀ cause, s.mram.held = some (.module cause) → ∃ u, exec .mramPulseEnd s = .next u ∧ u.mram = Mram.init ∧ u.rst = Rst.init ∧
      u.standby.cause = cause) ∧
    (s.mram.held = none → s.awaiting = [] → ∃ u, exec .mramPulseEnd s = .next u ∧ u.obs = (s.mramLand q).obs ∧ u.tiles = s.tiles ∧
      (s.mram.waiting = [] → u.mram.pulse = none) ∧
      (s.mram.waiting ≠ [] → ∃ r, u.mram.pulse = some r ∧ r ∈ s.mram.waiting ∧ u.mram.waiting = s.mram.waiting.erase r))) ∧
  ∀ (s : State) (k : Nat) (l : List Nat) (beyond : Bool), k < 20 → k < s.stks.length →
    ((s.stk k).training = false ∨ (s.die (k / 5)).released = 0 → exec (.hbmLinkTraining k l beyond) s = .next s) ∧
    ((s.stk k).training = true → (s.die (k / 5)).released ≠ 0 → s.awaiting = [] → ∃ u, exec (.hbmLinkTraining k l beyond) s = .next u ∧
      (u.stk k).training = false ∧ (u.stk k).lost = ((s.stk k).lost || beyond) ∧
      (u.stk k).repairs = (s.stk k).repairs ++ (l.filter fun x => !(s.stk k).repairs.contains x).dedup ∧
      (∀ j, j ≠ k → u.stk j = s.stk j) ∧ u.flash = s.flash)

/-- The byte stores' canonical form is kept by every command and by the tick. -/
def Obligations.ByteStoresStayCanonical : Prop :=
  ∀ s u : State, Safety.Memory.wf s = true → step s = .next u → Safety.Memory.wf u = true

/-- The canonical form at reset. -/
def Obligations.ByteStoresCanonicalAtReset : Prop :=
  Safety.Memory.wf State.reset = true ∧ State.reset.sram = [] ∧ State.reset.hbm = [] ∧ State.reset.flash = [] ∧ State.reset.pending = []

/-- Outcomes of exec, and the memory frames of the commands that store nothing and of the messages that store only their
response (R417, R420). -/
def Obligations.CommandsAnswer : Prop :=
  (∀ (i : Instr) (s : State), Safety.instOk i = true → ∃ u, exec i s = .next u) ∧
  (∀ (i : Instr) (s : State), Safety.instOk i = false → exec i s = .fault .reservedInstance) ∧
  (∀ (i : Instr) (s u : State), Safety.storesNothing i = true → exec i s = .next u → Safety.sameMemory s u) ∧
  ∀ (i : Instr) (s u : State) (c : Call), Safety.storesResponse i = true → callOf i = some c → exec i s = .next u →
    Safety.keepsMemory s u c.src
end

