-- ==== Sys2Proof/Laws/State.lean ====
section
/-! SUPPORT. What each named update of a part of State changes and what it leaves: one equation per field. -/
namespace Sys2Proof.Laws

open Sys2Proof.Machine

@[simp] theorem modTile_pending (s : State) (k : Nat) (f : Tile → Tile) : (s.modTile k f).pending = s.pending := rfl
@[simp] theorem modTile_lny (s : State) (k : Nat) (f : Tile → Tile) : (s.modTile k f).lny = s.lny := rfl
@[simp] theorem modTile_regions (s : State) (k : Nat) (f : Tile → Tile) : (s.modTile k f).regions = s.regions := rfl
@[simp] theorem modTile_power (s : State) (k : Nat) (f : Tile → Tile) : (s.modTile k f).power = s.power := rfl
@[simp] theorem modTile_thermal (s : State) (k : Nat) (f : Tile → Tile) : (s.modTile k f).thermal = s.thermal := rfl
@[simp] theorem modTile_tiles (s : State) (k : Nat) (f : Tile → Tile) : (s.modTile k f).tiles = modAt s.tiles k f := rfl
@[simp] theorem modTile_sram (s : State) (k : Nat) (f : Tile → Tile) : (s.modTile k f).sram = s.sram := rfl
@[simp] theorem modTile_sramBad (s : State) (k : Nat) (f : Tile → Tile) : (s.modTile k f).sramBad = s.sramBad := rfl
@[simp] theorem modTile_fly (s : State) (k : Nat) (f : Tile → Tile) : (s.modTile k f).fly = s.fly := rfl
@[simp] theorem modTile_tileReqs (s : State) (k : Nat) (f : Tile → Tile) : (s.modTile k f).tileReqs = s.tileReqs := rfl
@[simp] theorem modTile_hbm (s : State) (k : Nat) (f : Tile → Tile) : (s.modTile k f).hbm = s.hbm := rfl
@[simp] theorem modTile_poison (s : State) (k : Nat) (f : Tile → Tile) : (s.modTile k f).poison = s.poison := rfl
@[simp] theorem modTile_crcs (s : State) (k : Nat) (f : Tile → Tile) : (s.modTile k f).crcs = s.crcs := rfl
@[simp] theorem modTile_stks (s : State) (k : Nat) (f : Tile → Tile) : (s.modTile k f).stks = s.stks := rfl
@[simp] theorem modTile_dies (s : State) (k : Nat) (f : Tile → Tile) : (s.modTile k f).dies = s.dies := rfl
@[simp] theorem modTile_fabric (s : State) (k : Nat) (f : Tile → Tile) : (s.modTile k f).fabric = s.fabric := rfl
@[simp] theorem modTile_parts (s : State) (k : Nat) (f : Tile → Tile) : (s.modTile k f).parts = s.parts := rfl
@[simp] theorem modTile_allocs (s : State) (k : Nat) (f : Tile → Tile) : (s.modTile k f).allocs = s.allocs := rfl
@[simp] theorem modTile_cap (s : State) (k : Nat) (f : Tile → Tile) : (s.modTile k f).cap = s.cap := rfl
@[simp] theorem modTile_standby (s : State) (k : Nat) (f : Tile → Tile) : (s.modTile k f).standby = s.standby := rfl
@[simp] theorem modTile_errs (s : State) (k : Nat) (f : Tile → Tile) : (s.modTile k f).errs = s.errs := rfl
@[simp] theorem modTile_obs (s : State) (k : Nat) (f : Tile → Tile) : (s.modTile k f).obs = s.obs := rfl
@[simp] theorem modTile_flash (s : State) (k : Nat) (f : Tile → Tile) : (s.modTile k f).flash = s.flash := rfl
@[simp] theorem modTile_mram (s : State) (k : Nat) (f : Tile → Tile) : (s.modTile k f).mram = s.mram := rfl
@[simp] theorem modTile_awaiting (s : State) (k : Nat) (f : Tile → Tile) : (s.modTile k f).awaiting = s.awaiting := rfl
@[simp] theorem modTile_geodes (s : State) (k : Nat) (f : Tile → Tile) : (s.modTile k f).geodes = s.geodes := rfl
@[simp] theorem modTile_spineMons (s : State) (k : Nat) (f : Tile → Tile) : (s.modTile k f).spineMons = s.spineMons := rfl
@[simp] theorem modTile_rst (s : State) (k : Nat) (f : Tile → Tile) : (s.modTile k f).rst = s.rst := rfl
@[simp] theorem modTile_pins (s : State) (k : Nat) (f : Tile → Tile) : (s.modTile k f).pins = s.pins := rfl
@[simp] theorem modTile_irqs (s : State) (k : Nat) (f : Tile → Tile) : (s.modTile k f).irqs = s.irqs := rfl
@[simp] theorem modTile_coreAns (s : State) (k : Nat) (f : Tile → Tile) : (s.modTile k f).coreAns = s.coreAns := rfl
@[simp] theorem modTile_coreWait (s : State) (k : Nat) (f : Tile → Tile) : (s.modTile k f).coreWait = s.coreWait := rfl
@[simp] theorem modTile_coreRel (s : State) (k : Nat) (f : Tile → Tile) : (s.modTile k f).coreRel = s.coreRel := rfl
@[simp] theorem modTile_coreLoads (s : State) (k : Nat) (f : Tile → Tile) : (s.modTile k f).coreLoads = s.coreLoads := rfl
@[simp] theorem modTile_free (s : State) (k : Nat) (f : Tile → Tile) : (s.modTile k f).free = s.free := rfl

@[simp] theorem modDie_pending (s : State) (k : Nat) (f : Die → Die) : (s.modDie k f).pending = s.pending := rfl
@[simp] theorem modDie_lny (s : State) (k : Nat) (f : Die → Die) : (s.modDie k f).lny = s.lny := rfl
@[simp] theorem modDie_regions (s : State) (k : Nat) (f : Die → Die) : (s.modDie k f).regions = s.regions := rfl
@[simp] theorem modDie_power (s : State) (k : Nat) (f : Die → Die) : (s.modDie k f).power = s.power := rfl
@[simp] theorem modDie_thermal (s : State) (k : Nat) (f : Die → Die) : (s.modDie k f).thermal = s.thermal := rfl
@[simp] theorem modDie_tiles (s : State) (k : Nat) (f : Die → Die) : (s.modDie k f).tiles = s.tiles := rfl
@[simp] theorem modDie_sram (s : State) (k : Nat) (f : Die → Die) : (s.modDie k f).sram = s.sram := rfl
@[simp] theorem modDie_sramBad (s : State) (k : Nat) (f : Die → Die) : (s.modDie k f).sramBad = s.sramBad := rfl
@[simp] theorem modDie_fly (s : State) (k : Nat) (f : Die → Die) : (s.modDie k f).fly = s.fly := rfl
@[simp] theorem modDie_tileReqs (s : State) (k : Nat) (f : Die → Die) : (s.modDie k f).tileReqs = s.tileReqs := rfl
@[simp] theorem modDie_hbm (s : State) (k : Nat) (f : Die → Die) : (s.modDie k f).hbm = s.hbm := rfl
@[simp] theorem modDie_poison (s : State) (k : Nat) (f : Die → Die) : (s.modDie k f).poison = s.poison := rfl
@[simp] theorem modDie_crcs (s : State) (k : Nat) (f : Die → Die) : (s.modDie k f).crcs = s.crcs := rfl
@[simp] theorem modDie_stks (s : State) (k : Nat) (f : Die → Die) : (s.modDie k f).stks = s.stks := rfl
@[simp] theorem modDie_dies (s : State) (k : Nat) (f : Die → Die) : (s.modDie k f).dies = modAt s.dies k f := rfl
@[simp] theorem modDie_fabric (s : State) (k : Nat) (f : Die → Die) : (s.modDie k f).fabric = s.fabric := rfl
@[simp] theorem modDie_parts (s : State) (k : Nat) (f : Die → Die) : (s.modDie k f).parts = s.parts := rfl
@[simp] theorem modDie_allocs (s : State) (k : Nat) (f : Die → Die) : (s.modDie k f).allocs = s.allocs := rfl
@[simp] theorem modDie_cap (s : State) (k : Nat) (f : Die → Die) : (s.modDie k f).cap = s.cap := rfl
@[simp] theorem modDie_standby (s : State) (k : Nat) (f : Die → Die) : (s.modDie k f).standby = s.standby := rfl
@[simp] theorem modDie_errs (s : State) (k : Nat) (f : Die → Die) : (s.modDie k f).errs = s.errs := rfl
@[simp] theorem modDie_obs (s : State) (k : Nat) (f : Die → Die) : (s.modDie k f).obs = s.obs := rfl
@[simp] theorem modDie_flash (s : State) (k : Nat) (f : Die → Die) : (s.modDie k f).flash = s.flash := rfl
@[simp] theorem modDie_mram (s : State) (k : Nat) (f : Die → Die) : (s.modDie k f).mram = s.mram := rfl
@[simp] theorem modDie_awaiting (s : State) (k : Nat) (f : Die → Die) : (s.modDie k f).awaiting = s.awaiting := rfl
@[simp] theorem modDie_geodes (s : State) (k : Nat) (f : Die → Die) : (s.modDie k f).geodes = s.geodes := rfl
@[simp] theorem modDie_spineMons (s : State) (k : Nat) (f : Die → Die) : (s.modDie k f).spineMons = s.spineMons := rfl
@[simp] theorem modDie_rst (s : State) (k : Nat) (f : Die → Die) : (s.modDie k f).rst = s.rst := rfl
@[simp] theorem modDie_pins (s : State) (k : Nat) (f : Die → Die) : (s.modDie k f).pins = s.pins := rfl
@[simp] theorem modDie_irqs (s : State) (k : Nat) (f : Die → Die) : (s.modDie k f).irqs = s.irqs := rfl
@[simp] theorem modDie_coreAns (s : State) (k : Nat) (f : Die → Die) : (s.modDie k f).coreAns = s.coreAns := rfl
@[simp] theorem modDie_coreWait (s : State) (k : Nat) (f : Die → Die) : (s.modDie k f).coreWait = s.coreWait := rfl
@[simp] theorem modDie_coreRel (s : State) (k : Nat) (f : Die → Die) : (s.modDie k f).coreRel = s.coreRel := rfl
@[simp] theorem modDie_coreLoads (s : State) (k : Nat) (f : Die → Die) : (s.modDie k f).coreLoads = s.coreLoads := rfl
@[simp] theorem modDie_free (s : State) (k : Nat) (f : Die → Die) : (s.modDie k f).free = s.free := rfl

@[simp] theorem modRegion_pending (s : State) (k : Nat) (f : Region → Region) : (s.modRegion k f).pending = s.pending := rfl
@[simp] theorem modRegion_lny (s : State) (k : Nat) (f : Region → Region) : (s.modRegion k f).lny = s.lny := rfl
@[simp] theorem modRegion_regions (s : State) (k : Nat) (f : Region → Region) : (s.modRegion k f).regions = modAt s.regions k f := rfl
@[simp] theorem modRegion_power (s : State) (k : Nat) (f : Region → Region) : (s.modRegion k f).power = s.power := rfl
@[simp] theorem modRegion_thermal (s : State) (k : Nat) (f : Region → Region) : (s.modRegion k f).thermal = s.thermal := rfl
@[simp] theorem modRegion_tiles (s : State) (k : Nat) (f : Region → Region) : (s.modRegion k f).tiles = s.tiles := rfl
@[simp] theorem modRegion_sram (s : State) (k : Nat) (f : Region → Region) : (s.modRegion k f).sram = s.sram := rfl
@[simp] theorem modRegion_sramBad (s : State) (k : Nat) (f : Region → Region) : (s.modRegion k f).sramBad = s.sramBad := rfl
@[simp] theorem modRegion_fly (s : State) (k : Nat) (f : Region → Region) : (s.modRegion k f).fly = s.fly := rfl
@[simp] theorem modRegion_tileReqs (s : State) (k : Nat) (f : Region → Region) : (s.modRegion k f).tileReqs = s.tileReqs := rfl
@[simp] theorem modRegion_hbm (s : State) (k : Nat) (f : Region → Region) : (s.modRegion k f).hbm = s.hbm := rfl
@[simp] theorem modRegion_poison (s : State) (k : Nat) (f : Region → Region) : (s.modRegion k f).poison = s.poison := rfl
@[simp] theorem modRegion_crcs (s : State) (k : Nat) (f : Region → Region) : (s.modRegion k f).crcs = s.crcs := rfl
@[simp] theorem modRegion_stks (s : State) (k : Nat) (f : Region → Region) : (s.modRegion k f).stks = s.stks := rfl
@[simp] theorem modRegion_dies (s : State) (k : Nat) (f : Region → Region) : (s.modRegion k f).dies = s.dies := rfl
@[simp] theorem modRegion_fabric (s : State) (k : Nat) (f : Region → Region) : (s.modRegion k f).fabric = s.fabric := rfl
@[simp] theorem modRegion_parts (s : State) (k : Nat) (f : Region → Region) : (s.modRegion k f).parts = s.parts := rfl
@[simp] theorem modRegion_allocs (s : State) (k : Nat) (f : Region → Region) : (s.modRegion k f).allocs = s.allocs := rfl
@[simp] theorem modRegion_cap (s : State) (k : Nat) (f : Region → Region) : (s.modRegion k f).cap = s.cap := rfl
@[simp] theorem modRegion_standby (s : State) (k : Nat) (f : Region → Region) : (s.modRegion k f).standby = s.standby := rfl
@[simp] theorem modRegion_errs (s : State) (k : Nat) (f : Region → Region) : (s.modRegion k f).errs = s.errs := rfl
@[simp] theorem modRegion_obs (s : State) (k : Nat) (f : Region → Region) : (s.modRegion k f).obs = s.obs := rfl
@[simp] theorem modRegion_flash (s : State) (k : Nat) (f : Region → Region) : (s.modRegion k f).flash = s.flash := rfl
@[simp] theorem modRegion_mram (s : State) (k : Nat) (f : Region → Region) : (s.modRegion k f).mram = s.mram := rfl
@[simp] theorem modRegion_awaiting (s : State) (k : Nat) (f : Region → Region) : (s.modRegion k f).awaiting = s.awaiting := rfl
@[simp] theorem modRegion_geodes (s : State) (k : Nat) (f : Region → Region) : (s.modRegion k f).geodes = s.geodes := rfl
@[simp] theorem modRegion_spineMons (s : State) (k : Nat) (f : Region → Region) : (s.modRegion k f).spineMons = s.spineMons := rfl
@[simp] theorem modRegion_rst (s : State) (k : Nat) (f : Region → Region) : (s.modRegion k f).rst = s.rst := rfl
@[simp] theorem modRegion_pins (s : State) (k : Nat) (f : Region → Region) : (s.modRegion k f).pins = s.pins := rfl
@[simp] theorem modRegion_irqs (s : State) (k : Nat) (f : Region → Region) : (s.modRegion k f).irqs = s.irqs := rfl
@[simp] theorem modRegion_coreAns (s : State) (k : Nat) (f : Region → Region) : (s.modRegion k f).coreAns = s.coreAns := rfl
@[simp] theorem modRegion_coreWait (s : State) (k : Nat) (f : Region → Region) : (s.modRegion k f).coreWait = s.coreWait := rfl
@[simp] theorem modRegion_coreRel (s : State) (k : Nat) (f : Region → Region) : (s.modRegion k f).coreRel = s.coreRel := rfl
@[simp] theorem modRegion_coreLoads (s : State) (k : Nat) (f : Region → Region) : (s.modRegion k f).coreLoads = s.coreLoads := rfl
@[simp] theorem modRegion_free (s : State) (k : Nat) (f : Region → Region) : (s.modRegion k f).free = s.free := rfl

@[simp] theorem modPart_pending (s : State) (k : Nat) (f : Part → Part) : (s.modPart k f).pending = s.pending := rfl
@[simp] theorem modPart_lny (s : State) (k : Nat) (f : Part → Part) : (s.modPart k f).lny = s.lny := rfl
@[simp] theorem modPart_regions (s : State) (k : Nat) (f : Part → Part) : (s.modPart k f).regions = s.regions := rfl
@[simp] theorem modPart_power (s : State) (k : Nat) (f : Part → Part) : (s.modPart k f).power = s.power := rfl
@[simp] theorem modPart_thermal (s : State) (k : Nat) (f : Part → Part) : (s.modPart k f).thermal = s.thermal := rfl
@[simp] theorem modPart_tiles (s : State) (k : Nat) (f : Part → Part) : (s.modPart k f).tiles = s.tiles := rfl
@[simp] theorem modPart_sram (s : State) (k : Nat) (f : Part → Part) : (s.modPart k f).sram = s.sram := rfl
@[simp] theorem modPart_sramBad (s : State) (k : Nat) (f : Part → Part) : (s.modPart k f).sramBad = s.sramBad := rfl
@[simp] theorem modPart_fly (s : State) (k : Nat) (f : Part → Part) : (s.modPart k f).fly = s.fly := rfl
@[simp] theorem modPart_tileReqs (s : State) (k : Nat) (f : Part → Part) : (s.modPart k f).tileReqs = s.tileReqs := rfl
@[simp] theorem modPart_hbm (s : State) (k : Nat) (f : Part → Part) : (s.modPart k f).hbm = s.hbm := rfl
@[simp] theorem modPart_poison (s : State) (k : Nat) (f : Part → Part) : (s.modPart k f).poison = s.poison := rfl
@[simp] theorem modPart_crcs (s : State) (k : Nat) (f : Part → Part) : (s.modPart k f).crcs = s.crcs := rfl
@[simp] theorem modPart_stks (s : State) (k : Nat) (f : Part → Part) : (s.modPart k f).stks = s.stks := rfl
@[simp] theorem modPart_dies (s : State) (k : Nat) (f : Part → Part) : (s.modPart k f).dies = s.dies := rfl
@[simp] theorem modPart_fabric (s : State) (k : Nat) (f : Part → Part) : (s.modPart k f).fabric = s.fabric := rfl
@[simp] theorem modPart_parts (s : State) (k : Nat) (f : Part → Part) : (s.modPart k f).parts = modAt s.parts k f := rfl
@[simp] theorem modPart_allocs (s : State) (k : Nat) (f : Part → Part) : (s.modPart k f).allocs = s.allocs := rfl
@[simp] theorem modPart_cap (s : State) (k : Nat) (f : Part → Part) : (s.modPart k f).cap = s.cap := rfl
@[simp] theorem modPart_standby (s : State) (k : Nat) (f : Part → Part) : (s.modPart k f).standby = s.standby := rfl
@[simp] theorem modPart_errs (s : State) (k : Nat) (f : Part → Part) : (s.modPart k f).errs = s.errs := rfl
@[simp] theorem modPart_obs (s : State) (k : Nat) (f : Part → Part) : (s.modPart k f).obs = s.obs := rfl
@[simp] theorem modPart_flash (s : State) (k : Nat) (f : Part → Part) : (s.modPart k f).flash = s.flash := rfl
@[simp] theorem modPart_mram (s : State) (k : Nat) (f : Part → Part) : (s.modPart k f).mram = s.mram := rfl
@[simp] theorem modPart_awaiting (s : State) (k : Nat) (f : Part → Part) : (s.modPart k f).awaiting = s.awaiting := rfl
@[simp] theorem modPart_geodes (s : State) (k : Nat) (f : Part → Part) : (s.modPart k f).geodes = s.geodes := rfl
@[simp] theorem modPart_spineMons (s : State) (k : Nat) (f : Part → Part) : (s.modPart k f).spineMons = s.spineMons := rfl
@[simp] theorem modPart_rst (s : State) (k : Nat) (f : Part → Part) : (s.modPart k f).rst = s.rst := rfl
@[simp] theorem modPart_pins (s : State) (k : Nat) (f : Part → Part) : (s.modPart k f).pins = s.pins := rfl
@[simp] theorem modPart_irqs (s : State) (k : Nat) (f : Part → Part) : (s.modPart k f).irqs = s.irqs := rfl
@[simp] theorem modPart_coreAns (s : State) (k : Nat) (f : Part → Part) : (s.modPart k f).coreAns = s.coreAns := rfl
@[simp] theorem modPart_coreWait (s : State) (k : Nat) (f : Part → Part) : (s.modPart k f).coreWait = s.coreWait := rfl
@[simp] theorem modPart_coreRel (s : State) (k : Nat) (f : Part → Part) : (s.modPart k f).coreRel = s.coreRel := rfl
@[simp] theorem modPart_coreLoads (s : State) (k : Nat) (f : Part → Part) : (s.modPart k f).coreLoads = s.coreLoads := rfl
@[simp] theorem modPart_free (s : State) (k : Nat) (f : Part → Part) : (s.modPart k f).free = s.free := rfl

@[simp] theorem modStk_pending (s : State) (k : Nat) (f : Stack → Stack) : (s.modStk k f).pending = s.pending := rfl
@[simp] theorem modStk_lny (s : State) (k : Nat) (f : Stack → Stack) : (s.modStk k f).lny = s.lny := rfl
@[simp] theorem modStk_regions (s : State) (k : Nat) (f : Stack → Stack) : (s.modStk k f).regions = s.regions := rfl
@[simp] theorem modStk_power (s : State) (k : Nat) (f : Stack → Stack) : (s.modStk k f).power = s.power := rfl
@[simp] theorem modStk_thermal (s : State) (k : Nat) (f : Stack → Stack) : (s.modStk k f).thermal = s.thermal := rfl
@[simp] theorem modStk_tiles (s : State) (k : Nat) (f : Stack → Stack) : (s.modStk k f).tiles = s.tiles := rfl
@[simp] theorem modStk_sram (s : State) (k : Nat) (f : Stack → Stack) : (s.modStk k f).sram = s.sram := rfl
@[simp] theorem modStk_sramBad (s : State) (k : Nat) (f : Stack → Stack) : (s.modStk k f).sramBad = s.sramBad := rfl
@[simp] theorem modStk_fly (s : State) (k : Nat) (f : Stack → Stack) : (s.modStk k f).fly = s.fly := rfl
@[simp] theorem modStk_tileReqs (s : State) (k : Nat) (f : Stack → Stack) : (s.modStk k f).tileReqs = s.tileReqs := rfl
@[simp] theorem modStk_hbm (s : State) (k : Nat) (f : Stack → Stack) : (s.modStk k f).hbm = s.hbm := rfl
@[simp] theorem modStk_poison (s : State) (k : Nat) (f : Stack → Stack) : (s.modStk k f).poison = s.poison := rfl
@[simp] theorem modStk_crcs (s : State) (k : Nat) (f : Stack → Stack) : (s.modStk k f).crcs = s.crcs := rfl
@[simp] theorem modStk_stks (s : State) (k : Nat) (f : Stack → Stack) : (s.modStk k f).stks = modAt s.stks k f := rfl
@[simp] theorem modStk_dies (s : State) (k : Nat) (f : Stack → Stack) : (s.modStk k f).dies = s.dies := rfl
@[simp] theorem modStk_fabric (s : State) (k : Nat) (f : Stack → Stack) : (s.modStk k f).fabric = s.fabric := rfl
@[simp] theorem modStk_parts (s : State) (k : Nat) (f : Stack → Stack) : (s.modStk k f).parts = s.parts := rfl
@[simp] theorem modStk_allocs (s : State) (k : Nat) (f : Stack → Stack) : (s.modStk k f).allocs = s.allocs := rfl
@[simp] theorem modStk_cap (s : State) (k : Nat) (f : Stack → Stack) : (s.modStk k f).cap = s.cap := rfl
@[simp] theorem modStk_standby (s : State) (k : Nat) (f : Stack → Stack) : (s.modStk k f).standby = s.standby := rfl
@[simp] theorem modStk_errs (s : State) (k : Nat) (f : Stack → Stack) : (s.modStk k f).errs = s.errs := rfl
@[simp] theorem modStk_obs (s : State) (k : Nat) (f : Stack → Stack) : (s.modStk k f).obs = s.obs := rfl
@[simp] theorem modStk_flash (s : State) (k : Nat) (f : Stack → Stack) : (s.modStk k f).flash = s.flash := rfl
@[simp] theorem modStk_mram (s : State) (k : Nat) (f : Stack → Stack) : (s.modStk k f).mram = s.mram := rfl
@[simp] theorem modStk_awaiting (s : State) (k : Nat) (f : Stack → Stack) : (s.modStk k f).awaiting = s.awaiting := rfl
@[simp] theorem modStk_geodes (s : State) (k : Nat) (f : Stack → Stack) : (s.modStk k f).geodes = s.geodes := rfl
@[simp] theorem modStk_spineMons (s : State) (k : Nat) (f : Stack → Stack) : (s.modStk k f).spineMons = s.spineMons := rfl
@[simp] theorem modStk_rst (s : State) (k : Nat) (f : Stack → Stack) : (s.modStk k f).rst = s.rst := rfl
@[simp] theorem modStk_pins (s : State) (k : Nat) (f : Stack → Stack) : (s.modStk k f).pins = s.pins := rfl
@[simp] theorem modStk_irqs (s : State) (k : Nat) (f : Stack → Stack) : (s.modStk k f).irqs = s.irqs := rfl
@[simp] theorem modStk_coreAns (s : State) (k : Nat) (f : Stack → Stack) : (s.modStk k f).coreAns = s.coreAns := rfl
@[simp] theorem modStk_coreWait (s : State) (k : Nat) (f : Stack → Stack) : (s.modStk k f).coreWait = s.coreWait := rfl
@[simp] theorem modStk_coreRel (s : State) (k : Nat) (f : Stack → Stack) : (s.modStk k f).coreRel = s.coreRel := rfl
@[simp] theorem modStk_coreLoads (s : State) (k : Nat) (f : Stack → Stack) : (s.modStk k f).coreLoads = s.coreLoads := rfl
@[simp] theorem modStk_free (s : State) (k : Nat) (f : Stack → Stack) : (s.modStk k f).free = s.free := rfl

@[simp] theorem modPort_pending (s : State) (k : Nat) (f : Port → Port) : (s.modPort k f).pending = s.pending := rfl
@[simp] theorem modPort_lny (s : State) (k : Nat) (f : Port → Port) : (s.modPort k f).lny = s.lny := rfl
@[simp] theorem modPort_regions (s : State) (k : Nat) (f : Port → Port) : (s.modPort k f).regions = s.regions := rfl
@[simp] theorem modPort_power (s : State) (k : Nat) (f : Port → Port) : (s.modPort k f).power = s.power := rfl
@[simp] theorem modPort_thermal (s : State) (k : Nat) (f : Port → Port) : (s.modPort k f).thermal = s.thermal := rfl
@[simp] theorem modPort_tiles (s : State) (k : Nat) (f : Port → Port) : (s.modPort k f).tiles = s.tiles := rfl
@[simp] theorem modPort_sram (s : State) (k : Nat) (f : Port → Port) : (s.modPort k f).sram = s.sram := rfl
@[simp] theorem modPort_sramBad (s : State) (k : Nat) (f : Port → Port) : (s.modPort k f).sramBad = s.sramBad := rfl
@[simp] theorem modPort_fly (s : State) (k : Nat) (f : Port → Port) : (s.modPort k f).fly = s.fly := rfl
@[simp] theorem modPort_tileReqs (s : State) (k : Nat) (f : Port → Port) : (s.modPort k f).tileReqs = s.tileReqs := rfl
@[simp] theorem modPort_hbm (s : State) (k : Nat) (f : Port → Port) : (s.modPort k f).hbm = s.hbm := rfl
@[simp] theorem modPort_poison (s : State) (k : Nat) (f : Port → Port) : (s.modPort k f).poison = s.poison := rfl
@[simp] theorem modPort_crcs (s : State) (k : Nat) (f : Port → Port) : (s.modPort k f).crcs = s.crcs := rfl
@[simp] theorem modPort_stks (s : State) (k : Nat) (f : Port → Port) : (s.modPort k f).stks = s.stks := rfl
@[simp] theorem modPort_dies (s : State) (k : Nat) (f : Port → Port) : (s.modPort k f).dies = s.dies := rfl
@[simp] theorem modPort_fabric (s : State) (k : Nat) (f : Port → Port) : (s.modPort k f).fabric = { s.fabric with ports := modAt s.fabric.ports k f } := rfl
@[simp] theorem modPort_parts (s : State) (k : Nat) (f : Port → Port) : (s.modPort k f).parts = s.parts := rfl
@[simp] theorem modPort_allocs (s : State) (k : Nat) (f : Port → Port) : (s.modPort k f).allocs = s.allocs := rfl
@[simp] theorem modPort_cap (s : State) (k : Nat) (f : Port → Port) : (s.modPort k f).cap = s.cap := rfl
@[simp] theorem modPort_standby (s : State) (k : Nat) (f : Port → Port) : (s.modPort k f).standby = s.standby := rfl
@[simp] theorem modPort_errs (s : State) (k : Nat) (f : Port → Port) : (s.modPort k f).errs = s.errs := rfl
@[simp] theorem modPort_obs (s : State) (k : Nat) (f : Port → Port) : (s.modPort k f).obs = s.obs := rfl
@[simp] theorem modPort_flash (s : State) (k : Nat) (f : Port → Port) : (s.modPort k f).flash = s.flash := rfl
@[simp] theorem modPort_mram (s : State) (k : Nat) (f : Port → Port) : (s.modPort k f).mram = s.mram := rfl
@[simp] theorem modPort_awaiting (s : State) (k : Nat) (f : Port → Port) : (s.modPort k f).awaiting = s.awaiting := rfl
@[simp] theorem modPort_geodes (s : State) (k : Nat) (f : Port → Port) : (s.modPort k f).geodes = s.geodes := rfl
@[simp] theorem modPort_spineMons (s : State) (k : Nat) (f : Port → Port) : (s.modPort k f).spineMons = s.spineMons := rfl
@[simp] theorem modPort_rst (s : State) (k : Nat) (f : Port → Port) : (s.modPort k f).rst = s.rst := rfl
@[simp] theorem modPort_pins (s : State) (k : Nat) (f : Port → Port) : (s.modPort k f).pins = s.pins := rfl
@[simp] theorem modPort_irqs (s : State) (k : Nat) (f : Port → Port) : (s.modPort k f).irqs = s.irqs := rfl
@[simp] theorem modPort_coreAns (s : State) (k : Nat) (f : Port → Port) : (s.modPort k f).coreAns = s.coreAns := rfl
@[simp] theorem modPort_coreWait (s : State) (k : Nat) (f : Port → Port) : (s.modPort k f).coreWait = s.coreWait := rfl
@[simp] theorem modPort_coreRel (s : State) (k : Nat) (f : Port → Port) : (s.modPort k f).coreRel = s.coreRel := rfl
@[simp] theorem modPort_coreLoads (s : State) (k : Nat) (f : Port → Port) : (s.modPort k f).coreLoads = s.coreLoads := rfl
@[simp] theorem modPort_free (s : State) (k : Nat) (f : Port → Port) : (s.modPort k f).free = s.free := rfl

@[simp] theorem modGeode_pending (s : State) (k : Nat) (f : Geode → Geode) : (s.modGeode k f).pending = s.pending := rfl
@[simp] theorem modGeode_lny (s : State) (k : Nat) (f : Geode → Geode) : (s.modGeode k f).lny = s.lny := rfl
@[simp] theorem modGeode_regions (s : State) (k : Nat) (f : Geode → Geode) : (s.modGeode k f).regions = s.regions := rfl
@[simp] theorem modGeode_power (s : State) (k : Nat) (f : Geode → Geode) : (s.modGeode k f).power = s.power := rfl
@[simp] theorem modGeode_thermal (s : State) (k : Nat) (f : Geode → Geode) : (s.modGeode k f).thermal = s.thermal := rfl
@[simp] theorem modGeode_tiles (s : State) (k : Nat) (f : Geode → Geode) : (s.modGeode k f).tiles = s.tiles := rfl
@[simp] theorem modGeode_sram (s : State) (k : Nat) (f : Geode → Geode) : (s.modGeode k f).sram = s.sram := rfl
@[simp] theorem modGeode_sramBad (s : State) (k : Nat) (f : Geode → Geode) : (s.modGeode k f).sramBad = s.sramBad := rfl
@[simp] theorem modGeode_fly (s : State) (k : Nat) (f : Geode → Geode) : (s.modGeode k f).fly = s.fly := rfl
@[simp] theorem modGeode_tileReqs (s : State) (k : Nat) (f : Geode → Geode) : (s.modGeode k f).tileReqs = s.tileReqs := rfl
@[simp] theorem modGeode_hbm (s : State) (k : Nat) (f : Geode → Geode) : (s.modGeode k f).hbm = s.hbm := rfl
@[simp] theorem modGeode_poison (s : State) (k : Nat) (f : Geode → Geode) : (s.modGeode k f).poison = s.poison := rfl
@[simp] theorem modGeode_crcs (s : State) (k : Nat) (f : Geode → Geode) : (s.modGeode k f).crcs = s.crcs := rfl
@[simp] theorem modGeode_stks (s : State) (k : Nat) (f : Geode → Geode) : (s.modGeode k f).stks = s.stks := rfl
@[simp] theorem modGeode_dies (s : State) (k : Nat) (f : Geode → Geode) : (s.modGeode k f).dies = s.dies := rfl
@[simp] theorem modGeode_fabric (s : State) (k : Nat) (f : Geode → Geode) : (s.modGeode k f).fabric = s.fabric := rfl
@[simp] theorem modGeode_parts (s : State) (k : Nat) (f : Geode → Geode) : (s.modGeode k f).parts = s.parts := rfl
@[simp] theorem modGeode_allocs (s : State) (k : Nat) (f : Geode → Geode) : (s.modGeode k f).allocs = s.allocs := rfl
@[simp] theorem modGeode_cap (s : State) (k : Nat) (f : Geode → Geode) : (s.modGeode k f).cap = s.cap := rfl
@[simp] theorem modGeode_standby (s : State) (k : Nat) (f : Geode → Geode) : (s.modGeode k f).standby = s.standby := rfl
@[simp] theorem modGeode_errs (s : State) (k : Nat) (f : Geode → Geode) : (s.modGeode k f).errs = s.errs := rfl
@[simp] theorem modGeode_obs (s : State) (k : Nat) (f : Geode → Geode) : (s.modGeode k f).obs = s.obs := rfl
@[simp] theorem modGeode_flash (s : State) (k : Nat) (f : Geode → Geode) : (s.modGeode k f).flash = s.flash := rfl
@[simp] theorem modGeode_mram (s : State) (k : Nat) (f : Geode → Geode) : (s.modGeode k f).mram = s.mram := rfl
@[simp] theorem modGeode_awaiting (s : State) (k : Nat) (f : Geode → Geode) : (s.modGeode k f).awaiting = s.awaiting := rfl
@[simp] theorem modGeode_geodes (s : State) (k : Nat) (f : Geode → Geode) : (s.modGeode k f).geodes = modAt s.geodes k f := rfl
@[simp] theorem modGeode_spineMons (s : State) (k : Nat) (f : Geode → Geode) : (s.modGeode k f).spineMons = s.spineMons := rfl
@[simp] theorem modGeode_rst (s : State) (k : Nat) (f : Geode → Geode) : (s.modGeode k f).rst = s.rst := rfl
@[simp] theorem modGeode_pins (s : State) (k : Nat) (f : Geode → Geode) : (s.modGeode k f).pins = s.pins := rfl
@[simp] theorem modGeode_irqs (s : State) (k : Nat) (f : Geode → Geode) : (s.modGeode k f).irqs = s.irqs := rfl
@[simp] theorem modGeode_coreAns (s : State) (k : Nat) (f : Geode → Geode) : (s.modGeode k f).coreAns = s.coreAns := rfl
@[simp] theorem modGeode_coreWait (s : State) (k : Nat) (f : Geode → Geode) : (s.modGeode k f).coreWait = s.coreWait := rfl
@[simp] theorem modGeode_coreRel (s : State) (k : Nat) (f : Geode → Geode) : (s.modGeode k f).coreRel = s.coreRel := rfl
@[simp] theorem modGeode_coreLoads (s : State) (k : Nat) (f : Geode → Geode) : (s.modGeode k f).coreLoads = s.coreLoads := rfl
@[simp] theorem modGeode_free (s : State) (k : Nat) (f : Geode → Geode) : (s.modGeode k f).free = s.free := rfl

@[simp] theorem modPage_pending (s : State) (k : Nat) (f : ErrPage → ErrPage) : (s.modPage k f).pending = s.pending := rfl
@[simp] theorem modPage_lny (s : State) (k : Nat) (f : ErrPage → ErrPage) : (s.modPage k f).lny = s.lny := rfl
@[simp] theorem modPage_regions (s : State) (k : Nat) (f : ErrPage → ErrPage) : (s.modPage k f).regions = s.regions := rfl
@[simp] theorem modPage_power (s : State) (k : Nat) (f : ErrPage → ErrPage) : (s.modPage k f).power = s.power := rfl
@[simp] theorem modPage_thermal (s : State) (k : Nat) (f : ErrPage → ErrPage) : (s.modPage k f).thermal = s.thermal := rfl
@[simp] theorem modPage_tiles (s : State) (k : Nat) (f : ErrPage → ErrPage) : (s.modPage k f).tiles = s.tiles := rfl
@[simp] theorem modPage_sram (s : State) (k : Nat) (f : ErrPage → ErrPage) : (s.modPage k f).sram = s.sram := rfl
@[simp] theorem modPage_sramBad (s : State) (k : Nat) (f : ErrPage → ErrPage) : (s.modPage k f).sramBad = s.sramBad := rfl
@[simp] theorem modPage_fly (s : State) (k : Nat) (f : ErrPage → ErrPage) : (s.modPage k f).fly = s.fly := rfl
@[simp] theorem modPage_tileReqs (s : State) (k : Nat) (f : ErrPage → ErrPage) : (s.modPage k f).tileReqs = s.tileReqs := rfl
@[simp] theorem modPage_hbm (s : State) (k : Nat) (f : ErrPage → ErrPage) : (s.modPage k f).hbm = s.hbm := rfl
@[simp] theorem modPage_poison (s : State) (k : Nat) (f : ErrPage → ErrPage) : (s.modPage k f).poison = s.poison := rfl
@[simp] theorem modPage_crcs (s : State) (k : Nat) (f : ErrPage → ErrPage) : (s.modPage k f).crcs = s.crcs := rfl
@[simp] theorem modPage_stks (s : State) (k : Nat) (f : ErrPage → ErrPage) : (s.modPage k f).stks = s.stks := rfl
@[simp] theorem modPage_dies (s : State) (k : Nat) (f : ErrPage → ErrPage) : (s.modPage k f).dies = s.dies := rfl
@[simp] theorem modPage_fabric (s : State) (k : Nat) (f : ErrPage → ErrPage) : (s.modPage k f).fabric = s.fabric := rfl
@[simp] theorem modPage_parts (s : State) (k : Nat) (f : ErrPage → ErrPage) : (s.modPage k f).parts = s.parts := rfl
@[simp] theorem modPage_allocs (s : State) (k : Nat) (f : ErrPage → ErrPage) : (s.modPage k f).allocs = s.allocs := rfl
@[simp] theorem modPage_cap (s : State) (k : Nat) (f : ErrPage → ErrPage) : (s.modPage k f).cap = s.cap := rfl
@[simp] theorem modPage_standby (s : State) (k : Nat) (f : ErrPage → ErrPage) : (s.modPage k f).standby = s.standby := rfl
@[simp] theorem modPage_errs (s : State) (k : Nat) (f : ErrPage → ErrPage) : (s.modPage k f).errs = modAt s.errs k f := rfl
@[simp] theorem modPage_obs (s : State) (k : Nat) (f : ErrPage → ErrPage) : (s.modPage k f).obs = s.obs := rfl
@[simp] theorem modPage_flash (s : State) (k : Nat) (f : ErrPage → ErrPage) : (s.modPage k f).flash = s.flash := rfl
@[simp] theorem modPage_mram (s : State) (k : Nat) (f : ErrPage → ErrPage) : (s.modPage k f).mram = s.mram := rfl
@[simp] theorem modPage_awaiting (s : State) (k : Nat) (f : ErrPage → ErrPage) : (s.modPage k f).awaiting = s.awaiting := rfl
@[simp] theorem modPage_geodes (s : State) (k : Nat) (f : ErrPage → ErrPage) : (s.modPage k f).geodes = s.geodes := rfl
@[simp] theorem modPage_spineMons (s : State) (k : Nat) (f : ErrPage → ErrPage) : (s.modPage k f).spineMons = s.spineMons := rfl
@[simp] theorem modPage_rst (s : State) (k : Nat) (f : ErrPage → ErrPage) : (s.modPage k f).rst = s.rst := rfl
@[simp] theorem modPage_pins (s : State) (k : Nat) (f : ErrPage → ErrPage) : (s.modPage k f).pins = s.pins := rfl
@[simp] theorem modPage_irqs (s : State) (k : Nat) (f : ErrPage → ErrPage) : (s.modPage k f).irqs = s.irqs := rfl
@[simp] theorem modPage_coreAns (s : State) (k : Nat) (f : ErrPage → ErrPage) : (s.modPage k f).coreAns = s.coreAns := rfl
@[simp] theorem modPage_coreWait (s : State) (k : Nat) (f : ErrPage → ErrPage) : (s.modPage k f).coreWait = s.coreWait := rfl
@[simp] theorem modPage_coreRel (s : State) (k : Nat) (f : ErrPage → ErrPage) : (s.modPage k f).coreRel = s.coreRel := rfl
@[simp] theorem modPage_coreLoads (s : State) (k : Nat) (f : ErrPage → ErrPage) : (s.modPage k f).coreLoads = s.coreLoads := rfl
@[simp] theorem modPage_free (s : State) (k : Nat) (f : ErrPage → ErrPage) : (s.modPage k f).free = s.free := rfl

@[simp] theorem modCap_pending (s : State) (f : Capstan → Capstan) : (s.modCap f).pending = s.pending := rfl
@[simp] theorem modCap_lny (s : State) (f : Capstan → Capstan) : (s.modCap f).lny = s.lny := rfl
@[simp] theorem modCap_regions (s : State) (f : Capstan → Capstan) : (s.modCap f).regions = s.regions := rfl
@[simp] theorem modCap_power (s : State) (f : Capstan → Capstan) : (s.modCap f).power = s.power := rfl
@[simp] theorem modCap_thermal (s : State) (f : Capstan → Capstan) : (s.modCap f).thermal = s.thermal := rfl
@[simp] theorem modCap_tiles (s : State) (f : Capstan → Capstan) : (s.modCap f).tiles = s.tiles := rfl
@[simp] theorem modCap_sram (s : State) (f : Capstan → Capstan) : (s.modCap f).sram = s.sram := rfl
@[simp] theorem modCap_sramBad (s : State) (f : Capstan → Capstan) : (s.modCap f).sramBad = s.sramBad := rfl
@[simp] theorem modCap_fly (s : State) (f : Capstan → Capstan) : (s.modCap f).fly = s.fly := rfl
@[simp] theorem modCap_tileReqs (s : State) (f : Capstan → Capstan) : (s.modCap f).tileReqs = s.tileReqs := rfl
@[simp] theorem modCap_hbm (s : State) (f : Capstan → Capstan) : (s.modCap f).hbm = s.hbm := rfl
@[simp] theorem modCap_poison (s : State) (f : Capstan → Capstan) : (s.modCap f).poison = s.poison := rfl
@[simp] theorem modCap_crcs (s : State) (f : Capstan → Capstan) : (s.modCap f).crcs = s.crcs := rfl
@[simp] theorem modCap_stks (s : State) (f : Capstan → Capstan) : (s.modCap f).stks = s.stks := rfl
@[simp] theorem modCap_dies (s : State) (f : Capstan → Capstan) : (s.modCap f).dies = s.dies := rfl
@[simp] theorem modCap_fabric (s : State) (f : Capstan → Capstan) : (s.modCap f).fabric = s.fabric := rfl
@[simp] theorem modCap_parts (s : State) (f : Capstan → Capstan) : (s.modCap f).parts = s.parts := rfl
@[simp] theorem modCap_allocs (s : State) (f : Capstan → Capstan) : (s.modCap f).allocs = s.allocs := rfl
@[simp] theorem modCap_cap (s : State) (f : Capstan → Capstan) : (s.modCap f).cap = f s.cap := rfl
@[simp] theorem modCap_standby (s : State) (f : Capstan → Capstan) : (s.modCap f).standby = s.standby := rfl
@[simp] theorem modCap_errs (s : State) (f : Capstan → Capstan) : (s.modCap f).errs = s.errs := rfl
@[simp] theorem modCap_obs (s : State) (f : Capstan → Capstan) : (s.modCap f).obs = s.obs := rfl
@[simp] theorem modCap_flash (s : State) (f : Capstan → Capstan) : (s.modCap f).flash = s.flash := rfl
@[simp] theorem modCap_mram (s : State) (f : Capstan → Capstan) : (s.modCap f).mram = s.mram := rfl
@[simp] theorem modCap_awaiting (s : State) (f : Capstan → Capstan) : (s.modCap f).awaiting = s.awaiting := rfl
@[simp] theorem modCap_geodes (s : State) (f : Capstan → Capstan) : (s.modCap f).geodes = s.geodes := rfl
@[simp] theorem modCap_spineMons (s : State) (f : Capstan → Capstan) : (s.modCap f).spineMons = s.spineMons := rfl
@[simp] theorem modCap_rst (s : State) (f : Capstan → Capstan) : (s.modCap f).rst = s.rst := rfl
@[simp] theorem modCap_pins (s : State) (f : Capstan → Capstan) : (s.modCap f).pins = s.pins := rfl
@[simp] theorem modCap_irqs (s : State) (f : Capstan → Capstan) : (s.modCap f).irqs = s.irqs := rfl
@[simp] theorem modCap_coreAns (s : State) (f : Capstan → Capstan) : (s.modCap f).coreAns = s.coreAns := rfl
@[simp] theorem modCap_coreWait (s : State) (f : Capstan → Capstan) : (s.modCap f).coreWait = s.coreWait := rfl
@[simp] theorem modCap_coreRel (s : State) (f : Capstan → Capstan) : (s.modCap f).coreRel = s.coreRel := rfl
@[simp] theorem modCap_coreLoads (s : State) (f : Capstan → Capstan) : (s.modCap f).coreLoads = s.coreLoads := rfl
@[simp] theorem modCap_free (s : State) (f : Capstan → Capstan) : (s.modCap f).free = s.free := rfl

@[simp] theorem modMbx_pending (s : State) (k : Nat) (f : Mailbox → Mailbox) : (s.modMbx k f).pending = s.pending := rfl
@[simp] theorem modMbx_lny (s : State) (k : Nat) (f : Mailbox → Mailbox) : (s.modMbx k f).lny = s.lny := rfl
@[simp] theorem modMbx_regions (s : State) (k : Nat) (f : Mailbox → Mailbox) : (s.modMbx k f).regions = s.regions := rfl
@[simp] theorem modMbx_power (s : State) (k : Nat) (f : Mailbox → Mailbox) : (s.modMbx k f).power = s.power := rfl
@[simp] theorem modMbx_thermal (s : State) (k : Nat) (f : Mailbox → Mailbox) : (s.modMbx k f).thermal = s.thermal := rfl
@[simp] theorem modMbx_tiles (s : State) (k : Nat) (f : Mailbox → Mailbox) : (s.modMbx k f).tiles = s.tiles := rfl
@[simp] theorem modMbx_sram (s : State) (k : Nat) (f : Mailbox → Mailbox) : (s.modMbx k f).sram = s.sram := rfl
@[simp] theorem modMbx_sramBad (s : State) (k : Nat) (f : Mailbox → Mailbox) : (s.modMbx k f).sramBad = s.sramBad := rfl
@[simp] theorem modMbx_fly (s : State) (k : Nat) (f : Mailbox → Mailbox) : (s.modMbx k f).fly = s.fly := rfl
@[simp] theorem modMbx_tileReqs (s : State) (k : Nat) (f : Mailbox → Mailbox) : (s.modMbx k f).tileReqs = s.tileReqs := rfl
@[simp] theorem modMbx_hbm (s : State) (k : Nat) (f : Mailbox → Mailbox) : (s.modMbx k f).hbm = s.hbm := rfl
@[simp] theorem modMbx_poison (s : State) (k : Nat) (f : Mailbox → Mailbox) : (s.modMbx k f).poison = s.poison := rfl
@[simp] theorem modMbx_crcs (s : State) (k : Nat) (f : Mailbox → Mailbox) : (s.modMbx k f).crcs = s.crcs := rfl
@[simp] theorem modMbx_stks (s : State) (k : Nat) (f : Mailbox → Mailbox) : (s.modMbx k f).stks = s.stks := rfl
@[simp] theorem modMbx_dies (s : State) (k : Nat) (f : Mailbox → Mailbox) : (s.modMbx k f).dies = s.dies := rfl
@[simp] theorem modMbx_fabric (s : State) (k : Nat) (f : Mailbox → Mailbox) : (s.modMbx k f).fabric = s.fabric := rfl
@[simp] theorem modMbx_parts (s : State) (k : Nat) (f : Mailbox → Mailbox) : (s.modMbx k f).parts = s.parts := rfl
@[simp] theorem modMbx_allocs (s : State) (k : Nat) (f : Mailbox → Mailbox) : (s.modMbx k f).allocs = s.allocs := rfl
@[simp] theorem modMbx_cap (s : State) (k : Nat) (f : Mailbox → Mailbox) : (s.modMbx k f).cap = { s.cap with mbx := modAt s.cap.mbx k f } := rfl
@[simp] theorem modMbx_standby (s : State) (k : Nat) (f : Mailbox → Mailbox) : (s.modMbx k f).standby = s.standby := rfl
@[simp] theorem modMbx_errs (s : State) (k : Nat) (f : Mailbox → Mailbox) : (s.modMbx k f).errs = s.errs := rfl
@[simp] theorem modMbx_obs (s : State) (k : Nat) (f : Mailbox → Mailbox) : (s.modMbx k f).obs = s.obs := rfl
@[simp] theorem modMbx_flash (s : State) (k : Nat) (f : Mailbox → Mailbox) : (s.modMbx k f).flash = s.flash := rfl
@[simp] theorem modMbx_mram (s : State) (k : Nat) (f : Mailbox → Mailbox) : (s.modMbx k f).mram = s.mram := rfl
@[simp] theorem modMbx_awaiting (s : State) (k : Nat) (f : Mailbox → Mailbox) : (s.modMbx k f).awaiting = s.awaiting := rfl
@[simp] theorem modMbx_geodes (s : State) (k : Nat) (f : Mailbox → Mailbox) : (s.modMbx k f).geodes = s.geodes := rfl
@[simp] theorem modMbx_spineMons (s : State) (k : Nat) (f : Mailbox → Mailbox) : (s.modMbx k f).spineMons = s.spineMons := rfl
@[simp] theorem modMbx_rst (s : State) (k : Nat) (f : Mailbox → Mailbox) : (s.modMbx k f).rst = s.rst := rfl
@[simp] theorem modMbx_pins (s : State) (k : Nat) (f : Mailbox → Mailbox) : (s.modMbx k f).pins = s.pins := rfl
@[simp] theorem modMbx_irqs (s : State) (k : Nat) (f : Mailbox → Mailbox) : (s.modMbx k f).irqs = s.irqs := rfl
@[simp] theorem modMbx_coreAns (s : State) (k : Nat) (f : Mailbox → Mailbox) : (s.modMbx k f).coreAns = s.coreAns := rfl
@[simp] theorem modMbx_coreWait (s : State) (k : Nat) (f : Mailbox → Mailbox) : (s.modMbx k f).coreWait = s.coreWait := rfl
@[simp] theorem modMbx_coreRel (s : State) (k : Nat) (f : Mailbox → Mailbox) : (s.modMbx k f).coreRel = s.coreRel := rfl
@[simp] theorem modMbx_coreLoads (s : State) (k : Nat) (f : Mailbox → Mailbox) : (s.modMbx k f).coreLoads = s.coreLoads := rfl
@[simp] theorem modMbx_free (s : State) (k : Nat) (f : Mailbox → Mailbox) : (s.modMbx k f).free = s.free := rfl

@[simp] theorem modLny_pending (s : State) (f : Lny → Lny) : (s.modLny f).pending = s.pending := rfl
@[simp] theorem modLny_lny (s : State) (f : Lny → Lny) : (s.modLny f).lny = f s.lny := rfl
@[simp] theorem modLny_regions (s : State) (f : Lny → Lny) : (s.modLny f).regions = s.regions := rfl
@[simp] theorem modLny_power (s : State) (f : Lny → Lny) : (s.modLny f).power = s.power := rfl
@[simp] theorem modLny_thermal (s : State) (f : Lny → Lny) : (s.modLny f).thermal = s.thermal := rfl
@[simp] theorem modLny_tiles (s : State) (f : Lny → Lny) : (s.modLny f).tiles = s.tiles := rfl
@[simp] theorem modLny_sram (s : State) (f : Lny → Lny) : (s.modLny f).sram = s.sram := rfl
@[simp] theorem modLny_sramBad (s : State) (f : Lny → Lny) : (s.modLny f).sramBad = s.sramBad := rfl
@[simp] theorem modLny_fly (s : State) (f : Lny → Lny) : (s.modLny f).fly = s.fly := rfl
@[simp] theorem modLny_tileReqs (s : State) (f : Lny → Lny) : (s.modLny f).tileReqs = s.tileReqs := rfl
@[simp] theorem modLny_hbm (s : State) (f : Lny → Lny) : (s.modLny f).hbm = s.hbm := rfl
@[simp] theorem modLny_poison (s : State) (f : Lny → Lny) : (s.modLny f).poison = s.poison := rfl
@[simp] theorem modLny_crcs (s : State) (f : Lny → Lny) : (s.modLny f).crcs = s.crcs := rfl
@[simp] theorem modLny_stks (s : State) (f : Lny → Lny) : (s.modLny f).stks = s.stks := rfl
@[simp] theorem modLny_dies (s : State) (f : Lny → Lny) : (s.modLny f).dies = s.dies := rfl
@[simp] theorem modLny_fabric (s : State) (f : Lny → Lny) : (s.modLny f).fabric = s.fabric := rfl
@[simp] theorem modLny_parts (s : State) (f : Lny → Lny) : (s.modLny f).parts = s.parts := rfl
@[simp] theorem modLny_allocs (s : State) (f : Lny → Lny) : (s.modLny f).allocs = s.allocs := rfl
@[simp] theorem modLny_cap (s : State) (f : Lny → Lny) : (s.modLny f).cap = s.cap := rfl
@[simp] theorem modLny_standby (s : State) (f : Lny → Lny) : (s.modLny f).standby = s.standby := rfl
@[simp] theorem modLny_errs (s : State) (f : Lny → Lny) : (s.modLny f).errs = s.errs := rfl
@[simp] theorem modLny_obs (s : State) (f : Lny → Lny) : (s.modLny f).obs = s.obs := rfl
@[simp] theorem modLny_flash (s : State) (f : Lny → Lny) : (s.modLny f).flash = s.flash := rfl
@[simp] theorem modLny_mram (s : State) (f : Lny → Lny) : (s.modLny f).mram = s.mram := rfl
@[simp] theorem modLny_awaiting (s : State) (f : Lny → Lny) : (s.modLny f).awaiting = s.awaiting := rfl
@[simp] theorem modLny_geodes (s : State) (f : Lny → Lny) : (s.modLny f).geodes = s.geodes := rfl
@[simp] theorem modLny_spineMons (s : State) (f : Lny → Lny) : (s.modLny f).spineMons = s.spineMons := rfl
@[simp] theorem modLny_rst (s : State) (f : Lny → Lny) : (s.modLny f).rst = s.rst := rfl
@[simp] theorem modLny_pins (s : State) (f : Lny → Lny) : (s.modLny f).pins = s.pins := rfl
@[simp] theorem modLny_irqs (s : State) (f : Lny → Lny) : (s.modLny f).irqs = s.irqs := rfl
@[simp] theorem modLny_coreAns (s : State) (f : Lny → Lny) : (s.modLny f).coreAns = s.coreAns := rfl
@[simp] theorem modLny_coreWait (s : State) (f : Lny → Lny) : (s.modLny f).coreWait = s.coreWait := rfl
@[simp] theorem modLny_coreRel (s : State) (f : Lny → Lny) : (s.modLny f).coreRel = s.coreRel := rfl
@[simp] theorem modLny_coreLoads (s : State) (f : Lny → Lny) : (s.modLny f).coreLoads = s.coreLoads := rfl
@[simp] theorem modLny_free (s : State) (f : Lny → Lny) : (s.modLny f).free = s.free := rfl

@[simp] theorem modPower_pending (s : State) (f : Power → Power) : (s.modPower f).pending = s.pending := rfl
@[simp] theorem modPower_lny (s : State) (f : Power → Power) : (s.modPower f).lny = s.lny := rfl
@[simp] theorem modPower_regions (s : State) (f : Power → Power) : (s.modPower f).regions = s.regions := rfl
@[simp] theorem modPower_power (s : State) (f : Power → Power) : (s.modPower f).power = f s.power := rfl
@[simp] theorem modPower_thermal (s : State) (f : Power → Power) : (s.modPower f).thermal = s.thermal := rfl
@[simp] theorem modPower_tiles (s : State) (f : Power → Power) : (s.modPower f).tiles = s.tiles := rfl
@[simp] theorem modPower_sram (s : State) (f : Power → Power) : (s.modPower f).sram = s.sram := rfl
@[simp] theorem modPower_sramBad (s : State) (f : Power → Power) : (s.modPower f).sramBad = s.sramBad := rfl
@[simp] theorem modPower_fly (s : State) (f : Power → Power) : (s.modPower f).fly = s.fly := rfl
@[simp] theorem modPower_tileReqs (s : State) (f : Power → Power) : (s.modPower f).tileReqs = s.tileReqs := rfl
@[simp] theorem modPower_hbm (s : State) (f : Power → Power) : (s.modPower f).hbm = s.hbm := rfl
@[simp] theorem modPower_poison (s : State) (f : Power → Power) : (s.modPower f).poison = s.poison := rfl
@[simp] theorem modPower_crcs (s : State) (f : Power → Power) : (s.modPower f).crcs = s.crcs := rfl
@[simp] theorem modPower_stks (s : State) (f : Power → Power) : (s.modPower f).stks = s.stks := rfl
@[simp] theorem modPower_dies (s : State) (f : Power → Power) : (s.modPower f).dies = s.dies := rfl
@[simp] theorem modPower_fabric (s : State) (f : Power → Power) : (s.modPower f).fabric = s.fabric := rfl
@[simp] theorem modPower_parts (s : State) (f : Power → Power) : (s.modPower f).parts = s.parts := rfl
@[simp] theorem modPower_allocs (s : State) (f : Power → Power) : (s.modPower f).allocs = s.allocs := rfl
@[simp] theorem modPower_cap (s : State) (f : Power → Power) : (s.modPower f).cap = s.cap := rfl
@[simp] theorem modPower_standby (s : State) (f : Power → Power) : (s.modPower f).standby = s.standby := rfl
@[simp] theorem modPower_errs (s : State) (f : Power → Power) : (s.modPower f).errs = s.errs := rfl
@[simp] theorem modPower_obs (s : State) (f : Power → Power) : (s.modPower f).obs = s.obs := rfl
@[simp] theorem modPower_flash (s : State) (f : Power → Power) : (s.modPower f).flash = s.flash := rfl
@[simp] theorem modPower_mram (s : State) (f : Power → Power) : (s.modPower f).mram = s.mram := rfl
@[simp] theorem modPower_awaiting (s : State) (f : Power → Power) : (s.modPower f).awaiting = s.awaiting := rfl
@[simp] theorem modPower_geodes (s : State) (f : Power → Power) : (s.modPower f).geodes = s.geodes := rfl
@[simp] theorem modPower_spineMons (s : State) (f : Power → Power) : (s.modPower f).spineMons = s.spineMons := rfl
@[simp] theorem modPower_rst (s : State) (f : Power → Power) : (s.modPower f).rst = s.rst := rfl
@[simp] theorem modPower_pins (s : State) (f : Power → Power) : (s.modPower f).pins = s.pins := rfl
@[simp] theorem modPower_irqs (s : State) (f : Power → Power) : (s.modPower f).irqs = s.irqs := rfl
@[simp] theorem modPower_coreAns (s : State) (f : Power → Power) : (s.modPower f).coreAns = s.coreAns := rfl
@[simp] theorem modPower_coreWait (s : State) (f : Power → Power) : (s.modPower f).coreWait = s.coreWait := rfl
@[simp] theorem modPower_coreRel (s : State) (f : Power → Power) : (s.modPower f).coreRel = s.coreRel := rfl
@[simp] theorem modPower_coreLoads (s : State) (f : Power → Power) : (s.modPower f).coreLoads = s.coreLoads := rfl
@[simp] theorem modPower_free (s : State) (f : Power → Power) : (s.modPower f).free = s.free := rfl

@[simp] theorem modThermal_pending (s : State) (f : Thermal → Thermal) : (s.modThermal f).pending = s.pending := rfl
@[simp] theorem modThermal_lny (s : State) (f : Thermal → Thermal) : (s.modThermal f).lny = s.lny := rfl
@[simp] theorem modThermal_regions (s : State) (f : Thermal → Thermal) : (s.modThermal f).regions = s.regions := rfl
@[simp] theorem modThermal_power (s : State) (f : Thermal → Thermal) : (s.modThermal f).power = s.power := rfl
@[simp] theorem modThermal_thermal (s : State) (f : Thermal → Thermal) : (s.modThermal f).thermal = f s.thermal := rfl
@[simp] theorem modThermal_tiles (s : State) (f : Thermal → Thermal) : (s.modThermal f).tiles = s.tiles := rfl
@[simp] theorem modThermal_sram (s : State) (f : Thermal → Thermal) : (s.modThermal f).sram = s.sram := rfl
@[simp] theorem modThermal_sramBad (s : State) (f : Thermal → Thermal) : (s.modThermal f).sramBad = s.sramBad := rfl
@[simp] theorem modThermal_fly (s : State) (f : Thermal → Thermal) : (s.modThermal f).fly = s.fly := rfl
@[simp] theorem modThermal_tileReqs (s : State) (f : Thermal → Thermal) : (s.modThermal f).tileReqs = s.tileReqs := rfl
@[simp] theorem modThermal_hbm (s : State) (f : Thermal → Thermal) : (s.modThermal f).hbm = s.hbm := rfl
@[simp] theorem modThermal_poison (s : State) (f : Thermal → Thermal) : (s.modThermal f).poison = s.poison := rfl
@[simp] theorem modThermal_crcs (s : State) (f : Thermal → Thermal) : (s.modThermal f).crcs = s.crcs := rfl
@[simp] theorem modThermal_stks (s : State) (f : Thermal → Thermal) : (s.modThermal f).stks = s.stks := rfl
@[simp] theorem modThermal_dies (s : State) (f : Thermal → Thermal) : (s.modThermal f).dies = s.dies := rfl
@[simp] theorem modThermal_fabric (s : State) (f : Thermal → Thermal) : (s.modThermal f).fabric = s.fabric := rfl
@[simp] theorem modThermal_parts (s : State) (f : Thermal → Thermal) : (s.modThermal f).parts = s.parts := rfl
@[simp] theorem modThermal_allocs (s : State) (f : Thermal → Thermal) : (s.modThermal f).allocs = s.allocs := rfl
@[simp] theorem modThermal_cap (s : State) (f : Thermal → Thermal) : (s.modThermal f).cap = s.cap := rfl
@[simp] theorem modThermal_standby (s : State) (f : Thermal → Thermal) : (s.modThermal f).standby = s.standby := rfl
@[simp] theorem modThermal_errs (s : State) (f : Thermal → Thermal) : (s.modThermal f).errs = s.errs := rfl
@[simp] theorem modThermal_obs (s : State) (f : Thermal → Thermal) : (s.modThermal f).obs = s.obs := rfl
@[simp] theorem modThermal_flash (s : State) (f : Thermal → Thermal) : (s.modThermal f).flash = s.flash := rfl
@[simp] theorem modThermal_mram (s : State) (f : Thermal → Thermal) : (s.modThermal f).mram = s.mram := rfl
@[simp] theorem modThermal_awaiting (s : State) (f : Thermal → Thermal) : (s.modThermal f).awaiting = s.awaiting := rfl
@[simp] theorem modThermal_geodes (s : State) (f : Thermal → Thermal) : (s.modThermal f).geodes = s.geodes := rfl
@[simp] theorem modThermal_spineMons (s : State) (f : Thermal → Thermal) : (s.modThermal f).spineMons = s.spineMons := rfl
@[simp] theorem modThermal_rst (s : State) (f : Thermal → Thermal) : (s.modThermal f).rst = s.rst := rfl
@[simp] theorem modThermal_pins (s : State) (f : Thermal → Thermal) : (s.modThermal f).pins = s.pins := rfl
@[simp] theorem modThermal_irqs (s : State) (f : Thermal → Thermal) : (s.modThermal f).irqs = s.irqs := rfl
@[simp] theorem modThermal_coreAns (s : State) (f : Thermal → Thermal) : (s.modThermal f).coreAns = s.coreAns := rfl
@[simp] theorem modThermal_coreWait (s : State) (f : Thermal → Thermal) : (s.modThermal f).coreWait = s.coreWait := rfl
@[simp] theorem modThermal_coreRel (s : State) (f : Thermal → Thermal) : (s.modThermal f).coreRel = s.coreRel := rfl
@[simp] theorem modThermal_coreLoads (s : State) (f : Thermal → Thermal) : (s.modThermal f).coreLoads = s.coreLoads := rfl
@[simp] theorem modThermal_free (s : State) (f : Thermal → Thermal) : (s.modThermal f).free = s.free := rfl

@[simp] theorem modFab_pending (s : State) (f : Fabric → Fabric) : (s.modFab f).pending = s.pending := rfl
@[simp] theorem modFab_lny (s : State) (f : Fabric → Fabric) : (s.modFab f).lny = s.lny := rfl
@[simp] theorem modFab_regions (s : State) (f : Fabric → Fabric) : (s.modFab f).regions = s.regions := rfl
@[simp] theorem modFab_power (s : State) (f : Fabric → Fabric) : (s.modFab f).power = s.power := rfl
@[simp] theorem modFab_thermal (s : State) (f : Fabric → Fabric) : (s.modFab f).thermal = s.thermal := rfl
@[simp] theorem modFab_tiles (s : State) (f : Fabric → Fabric) : (s.modFab f).tiles = s.tiles := rfl
@[simp] theorem modFab_sram (s : State) (f : Fabric → Fabric) : (s.modFab f).sram = s.sram := rfl
@[simp] theorem modFab_sramBad (s : State) (f : Fabric → Fabric) : (s.modFab f).sramBad = s.sramBad := rfl
@[simp] theorem modFab_fly (s : State) (f : Fabric → Fabric) : (s.modFab f).fly = s.fly := rfl
@[simp] theorem modFab_tileReqs (s : State) (f : Fabric → Fabric) : (s.modFab f).tileReqs = s.tileReqs := rfl
@[simp] theorem modFab_hbm (s : State) (f : Fabric → Fabric) : (s.modFab f).hbm = s.hbm := rfl
@[simp] theorem modFab_poison (s : State) (f : Fabric → Fabric) : (s.modFab f).poison = s.poison := rfl
@[simp] theorem modFab_crcs (s : State) (f : Fabric → Fabric) : (s.modFab f).crcs = s.crcs := rfl
@[simp] theorem modFab_stks (s : State) (f : Fabric → Fabric) : (s.modFab f).stks = s.stks := rfl
@[simp] theorem modFab_dies (s : State) (f : Fabric → Fabric) : (s.modFab f).dies = s.dies := rfl
@[simp] theorem modFab_fabric (s : State) (f : Fabric → Fabric) : (s.modFab f).fabric = f s.fabric := rfl
@[simp] theorem modFab_parts (s : State) (f : Fabric → Fabric) : (s.modFab f).parts = s.parts := rfl
@[simp] theorem modFab_allocs (s : State) (f : Fabric → Fabric) : (s.modFab f).allocs = s.allocs := rfl
@[simp] theorem modFab_cap (s : State) (f : Fabric → Fabric) : (s.modFab f).cap = s.cap := rfl
@[simp] theorem modFab_standby (s : State) (f : Fabric → Fabric) : (s.modFab f).standby = s.standby := rfl
@[simp] theorem modFab_errs (s : State) (f : Fabric → Fabric) : (s.modFab f).errs = s.errs := rfl
@[simp] theorem modFab_obs (s : State) (f : Fabric → Fabric) : (s.modFab f).obs = s.obs := rfl
@[simp] theorem modFab_flash (s : State) (f : Fabric → Fabric) : (s.modFab f).flash = s.flash := rfl
@[simp] theorem modFab_mram (s : State) (f : Fabric → Fabric) : (s.modFab f).mram = s.mram := rfl
@[simp] theorem modFab_awaiting (s : State) (f : Fabric → Fabric) : (s.modFab f).awaiting = s.awaiting := rfl
@[simp] theorem modFab_geodes (s : State) (f : Fabric → Fabric) : (s.modFab f).geodes = s.geodes := rfl
@[simp] theorem modFab_spineMons (s : State) (f : Fabric → Fabric) : (s.modFab f).spineMons = s.spineMons := rfl
@[simp] theorem modFab_rst (s : State) (f : Fabric → Fabric) : (s.modFab f).rst = s.rst := rfl
@[simp] theorem modFab_pins (s : State) (f : Fabric → Fabric) : (s.modFab f).pins = s.pins := rfl
@[simp] theorem modFab_irqs (s : State) (f : Fabric → Fabric) : (s.modFab f).irqs = s.irqs := rfl
@[simp] theorem modFab_coreAns (s : State) (f : Fabric → Fabric) : (s.modFab f).coreAns = s.coreAns := rfl
@[simp] theorem modFab_coreWait (s : State) (f : Fabric → Fabric) : (s.modFab f).coreWait = s.coreWait := rfl
@[simp] theorem modFab_coreRel (s : State) (f : Fabric → Fabric) : (s.modFab f).coreRel = s.coreRel := rfl
@[simp] theorem modFab_coreLoads (s : State) (f : Fabric → Fabric) : (s.modFab f).coreLoads = s.coreLoads := rfl
@[simp] theorem modFab_free (s : State) (f : Fabric → Fabric) : (s.modFab f).free = s.free := rfl

@[simp] theorem modReef_pending (s : State) (k : Nat) (f : Reef → Reef) : (s.modReef k f).pending = s.pending := rfl
@[simp] theorem modReef_lny (s : State) (k : Nat) (f : Reef → Reef) : (s.modReef k f).lny = s.lny := rfl
@[simp] theorem modReef_regions (s : State) (k : Nat) (f : Reef → Reef) : (s.modReef k f).regions = s.regions := rfl
@[simp] theorem modReef_power (s : State) (k : Nat) (f : Reef → Reef) : (s.modReef k f).power = s.power := rfl
@[simp] theorem modReef_thermal (s : State) (k : Nat) (f : Reef → Reef) : (s.modReef k f).thermal = s.thermal := rfl
@[simp] theorem modReef_tiles (s : State) (k : Nat) (f : Reef → Reef) : (s.modReef k f).tiles = s.tiles := rfl
@[simp] theorem modReef_sram (s : State) (k : Nat) (f : Reef → Reef) : (s.modReef k f).sram = s.sram := rfl
@[simp] theorem modReef_sramBad (s : State) (k : Nat) (f : Reef → Reef) : (s.modReef k f).sramBad = s.sramBad := rfl
@[simp] theorem modReef_fly (s : State) (k : Nat) (f : Reef → Reef) : (s.modReef k f).fly = s.fly := rfl
@[simp] theorem modReef_tileReqs (s : State) (k : Nat) (f : Reef → Reef) : (s.modReef k f).tileReqs = s.tileReqs := rfl
@[simp] theorem modReef_hbm (s : State) (k : Nat) (f : Reef → Reef) : (s.modReef k f).hbm = s.hbm := rfl
@[simp] theorem modReef_poison (s : State) (k : Nat) (f : Reef → Reef) : (s.modReef k f).poison = s.poison := rfl
@[simp] theorem modReef_crcs (s : State) (k : Nat) (f : Reef → Reef) : (s.modReef k f).crcs = s.crcs := rfl
@[simp] theorem modReef_stks (s : State) (k : Nat) (f : Reef → Reef) : (s.modReef k f).stks = s.stks := rfl
@[simp] theorem modReef_dies (s : State) (k : Nat) (f : Reef → Reef) : (s.modReef k f).dies = modAt s.dies k fun x => { x with reef := f x.reef } := rfl
@[simp] theorem modReef_fabric (s : State) (k : Nat) (f : Reef → Reef) : (s.modReef k f).fabric = s.fabric := rfl
@[simp] theorem modReef_parts (s : State) (k : Nat) (f : Reef → Reef) : (s.modReef k f).parts = s.parts := rfl
@[simp] theorem modReef_allocs (s : State) (k : Nat) (f : Reef → Reef) : (s.modReef k f).allocs = s.allocs := rfl
@[simp] theorem modReef_cap (s : State) (k : Nat) (f : Reef → Reef) : (s.modReef k f).cap = s.cap := rfl
@[simp] theorem modReef_standby (s : State) (k : Nat) (f : Reef → Reef) : (s.modReef k f).standby = s.standby := rfl
@[simp] theorem modReef_errs (s : State) (k : Nat) (f : Reef → Reef) : (s.modReef k f).errs = s.errs := rfl
@[simp] theorem modReef_obs (s : State) (k : Nat) (f : Reef → Reef) : (s.modReef k f).obs = s.obs := rfl
@[simp] theorem modReef_flash (s : State) (k : Nat) (f : Reef → Reef) : (s.modReef k f).flash = s.flash := rfl
@[simp] theorem modReef_mram (s : State) (k : Nat) (f : Reef → Reef) : (s.modReef k f).mram = s.mram := rfl
@[simp] theorem modReef_awaiting (s : State) (k : Nat) (f : Reef → Reef) : (s.modReef k f).awaiting = s.awaiting := rfl
@[simp] theorem modReef_geodes (s : State) (k : Nat) (f : Reef → Reef) : (s.modReef k f).geodes = s.geodes := rfl
@[simp] theorem modReef_spineMons (s : State) (k : Nat) (f : Reef → Reef) : (s.modReef k f).spineMons = s.spineMons := rfl
@[simp] theorem modReef_rst (s : State) (k : Nat) (f : Reef → Reef) : (s.modReef k f).rst = s.rst := rfl
@[simp] theorem modReef_pins (s : State) (k : Nat) (f : Reef → Reef) : (s.modReef k f).pins = s.pins := rfl
@[simp] theorem modReef_irqs (s : State) (k : Nat) (f : Reef → Reef) : (s.modReef k f).irqs = s.irqs := rfl
@[simp] theorem modReef_coreAns (s : State) (k : Nat) (f : Reef → Reef) : (s.modReef k f).coreAns = s.coreAns := rfl
@[simp] theorem modReef_coreWait (s : State) (k : Nat) (f : Reef → Reef) : (s.modReef k f).coreWait = s.coreWait := rfl
@[simp] theorem modReef_coreRel (s : State) (k : Nat) (f : Reef → Reef) : (s.modReef k f).coreRel = s.coreRel := rfl
@[simp] theorem modReef_coreLoads (s : State) (k : Nat) (f : Reef → Reef) : (s.modReef k f).coreLoads = s.coreLoads := rfl
@[simp] theorem modReef_free (s : State) (k : Nat) (f : Reef → Reef) : (s.modReef k f).free = s.free := rfl

@[simp] theorem modUpd_pending (s : State) (k : Nat) (f : Upd → Upd) : (s.modUpd k f).pending = s.pending := rfl
@[simp] theorem modUpd_lny (s : State) (k : Nat) (f : Upd → Upd) : (s.modUpd k f).lny = s.lny := rfl
@[simp] theorem modUpd_regions (s : State) (k : Nat) (f : Upd → Upd) : (s.modUpd k f).regions = s.regions := rfl
@[simp] theorem modUpd_power (s : State) (k : Nat) (f : Upd → Upd) : (s.modUpd k f).power = s.power := rfl
@[simp] theorem modUpd_thermal (s : State) (k : Nat) (f : Upd → Upd) : (s.modUpd k f).thermal = s.thermal := rfl
@[simp] theorem modUpd_tiles (s : State) (k : Nat) (f : Upd → Upd) : (s.modUpd k f).tiles = s.tiles := rfl
@[simp] theorem modUpd_sram (s : State) (k : Nat) (f : Upd → Upd) : (s.modUpd k f).sram = s.sram := rfl
@[simp] theorem modUpd_sramBad (s : State) (k : Nat) (f : Upd → Upd) : (s.modUpd k f).sramBad = s.sramBad := rfl
@[simp] theorem modUpd_fly (s : State) (k : Nat) (f : Upd → Upd) : (s.modUpd k f).fly = s.fly := rfl
@[simp] theorem modUpd_tileReqs (s : State) (k : Nat) (f : Upd → Upd) : (s.modUpd k f).tileReqs = s.tileReqs := rfl
@[simp] theorem modUpd_hbm (s : State) (k : Nat) (f : Upd → Upd) : (s.modUpd k f).hbm = s.hbm := rfl
@[simp] theorem modUpd_poison (s : State) (k : Nat) (f : Upd → Upd) : (s.modUpd k f).poison = s.poison := rfl
@[simp] theorem modUpd_crcs (s : State) (k : Nat) (f : Upd → Upd) : (s.modUpd k f).crcs = s.crcs := rfl
@[simp] theorem modUpd_stks (s : State) (k : Nat) (f : Upd → Upd) : (s.modUpd k f).stks = s.stks := rfl
@[simp] theorem modUpd_dies (s : State) (k : Nat) (f : Upd → Upd) : (s.modUpd k f).dies = modAt s.dies k fun x => { x with upd := f x.upd } := rfl
@[simp] theorem modUpd_fabric (s : State) (k : Nat) (f : Upd → Upd) : (s.modUpd k f).fabric = s.fabric := rfl
@[simp] theorem modUpd_parts (s : State) (k : Nat) (f : Upd → Upd) : (s.modUpd k f).parts = s.parts := rfl
@[simp] theorem modUpd_allocs (s : State) (k : Nat) (f : Upd → Upd) : (s.modUpd k f).allocs = s.allocs := rfl
@[simp] theorem modUpd_cap (s : State) (k : Nat) (f : Upd → Upd) : (s.modUpd k f).cap = s.cap := rfl
@[simp] theorem modUpd_standby (s : State) (k : Nat) (f : Upd → Upd) : (s.modUpd k f).standby = s.standby := rfl
@[simp] theorem modUpd_errs (s : State) (k : Nat) (f : Upd → Upd) : (s.modUpd k f).errs = s.errs := rfl
@[simp] theorem modUpd_obs (s : State) (k : Nat) (f : Upd → Upd) : (s.modUpd k f).obs = s.obs := rfl
@[simp] theorem modUpd_flash (s : State) (k : Nat) (f : Upd → Upd) : (s.modUpd k f).flash = s.flash := rfl
@[simp] theorem modUpd_mram (s : State) (k : Nat) (f : Upd → Upd) : (s.modUpd k f).mram = s.mram := rfl
@[simp] theorem modUpd_awaiting (s : State) (k : Nat) (f : Upd → Upd) : (s.modUpd k f).awaiting = s.awaiting := rfl
@[simp] theorem modUpd_geodes (s : State) (k : Nat) (f : Upd → Upd) : (s.modUpd k f).geodes = s.geodes := rfl
@[simp] theorem modUpd_spineMons (s : State) (k : Nat) (f : Upd → Upd) : (s.modUpd k f).spineMons = s.spineMons := rfl
@[simp] theorem modUpd_rst (s : State) (k : Nat) (f : Upd → Upd) : (s.modUpd k f).rst = s.rst := rfl
@[simp] theorem modUpd_pins (s : State) (k : Nat) (f : Upd → Upd) : (s.modUpd k f).pins = s.pins := rfl
@[simp] theorem modUpd_irqs (s : State) (k : Nat) (f : Upd → Upd) : (s.modUpd k f).irqs = s.irqs := rfl
@[simp] theorem modUpd_coreAns (s : State) (k : Nat) (f : Upd → Upd) : (s.modUpd k f).coreAns = s.coreAns := rfl
@[simp] theorem modUpd_coreWait (s : State) (k : Nat) (f : Upd → Upd) : (s.modUpd k f).coreWait = s.coreWait := rfl
@[simp] theorem modUpd_coreRel (s : State) (k : Nat) (f : Upd → Upd) : (s.modUpd k f).coreRel = s.coreRel := rfl
@[simp] theorem modUpd_coreLoads (s : State) (k : Nat) (f : Upd → Upd) : (s.modUpd k f).coreLoads = s.coreLoads := rfl
@[simp] theorem modUpd_free (s : State) (k : Nat) (f : Upd → Upd) : (s.modUpd k f).free = s.free := rfl

end Sys2Proof.Laws
end

