-- ==== Sys2Proof/Laws/Memory.lean ====
section
/-! SUPPORT. The byte stores: every operation keeps their canonical form, a read after a write gives what was written, and
a write leaves every other byte alone. -/
namespace Sys2Proof.Laws

open Sys2Proof.Machine

/-! Cells. -/

theorem cellsWf_mono {lo hi : Nat} (h : lo ≤ hi) : ∀ {l : List Host.Cell}, cellsWf hi l = true → cellsWf lo l = true
  | [], _ => rfl
  | (k, v) :: r, hw => by
    simp only [cellsWf, Bool.and_eq_true, decide_eq_true_eq] at hw ⊢
    exact ⟨⟨Nat.le_trans h hw.1.1, hw.1.2⟩, hw.2⟩

/-- Nothing is listed below the bound of the canonical form. -/
theorem cellGet_below {a : Nat} : ∀ {l : List Host.Cell} {lo : Nat}, cellsWf lo l = true → a < lo → cellGet l a = 0
  | [], _, _, _ => rfl
  | (k, v) :: r, lo, hw, ha => by
    simp only [cellsWf, Bool.and_eq_true, decide_eq_true_eq] at hw
    simp only [cellGet, if_pos (Nat.lt_of_lt_of_le ha hw.1.1)]

/-- The form of a list with a cell in front. -/
theorem cellsWf_cons {lo k : Nat} {v : Byte} {r : List Host.Cell} :
    cellsWf lo ((k, v) :: r) = true ↔ lo ≤ k ∧ v ≠ 0 ∧ cellsWf (k + 1) r = true := by
  simp only [cellsWf, Bool.and_eq_true, decide_eq_true_eq, bne_iff_ne, ne_eq, and_assoc]

theorem cellsWf_cellSet {a : Nat} {b : Byte} : ∀ {l : List Host.Cell} {lo : Nat}, cellsWf lo l = true → lo ≤ a →
    cellsWf lo (cellSet l a b) = true
  | [], lo, _, ha => by
    unfold cellSet
    split
    · rfl
    · rename_i hb
      exact cellsWf_cons.mpr ⟨ha, hb, rfl⟩
  | (k, v) :: r, lo, hw, ha => by
    obtain ⟨h1, h2, h3⟩ := cellsWf_cons.mp hw
    unfold cellSet
    split
    · rename_i hlt
      split
      · exact hw
      · rename_i hb
        exact cellsWf_cons.mpr ⟨ha, hb, cellsWf_cons.mpr ⟨hlt, h2, h3⟩⟩
    · split
      · rename_i heq
        split
        · exact cellsWf_mono (by omega) h3
        · rename_i hb
          exact cellsWf_cons.mpr ⟨ha, hb, heq ▸ h3⟩
      · rename_i hge hne
        exact cellsWf_cons.mpr ⟨h1, h2, cellsWf_cellSet h3 (by omega)⟩

theorem cellGet_cellSet_self {a : Nat} {b : Byte} : ∀ {l : List Host.Cell} {lo : Nat}, cellsWf lo l = true →
    cellGet (cellSet l a b) a = b
  | [], _, _ => by
    unfold cellSet
    split
    · rename_i hb
      exact hb.symm
    · simp [cellGet]
  | (k, v) :: r, lo, hw => by
    simp only [cellsWf, Bool.and_eq_true, decide_eq_true_eq] at hw
    unfold cellSet
    split
    · rename_i hlt
      split
      · rename_i hb
        simp [cellGet, hlt, hb]
      · simp [cellGet]
    · split
      · rename_i heq
        split
        · rename_i hb
          rw [cellGet_below hw.2 (by omega), hb]
        · simp [cellGet]
      · rename_i hge hne
        simp only [cellGet, if_neg hge, if_neg hne]
        exact cellGet_cellSet_self hw.2

theorem cellGet_cellSet_ne {a c : Nat} {b : Byte} (h : c ≠ a) : ∀ {l : List Host.Cell} {lo : Nat}, cellsWf lo l = true →
    cellGet (cellSet l a b) c = cellGet l c
  | [], _, _ => by
    unfold cellSet
    split
    · rfl
    · simp [cellGet, h]
  | (k, v) :: r, lo, hw => by
    simp only [cellsWf, Bool.and_eq_true, decide_eq_true_eq] at hw
    unfold cellSet
    split
    · rename_i hlt
      split
      · rfl
      · by_cases hc : c < a
        · simp only [cellGet, if_pos hc, if_pos (Nat.lt_trans hc hlt)]
        · simp only [cellGet, if_neg hc, if_neg h]
    · split
      · rename_i heq
        split
        · by_cases hc : c < k
          · simp only [cellGet, if_pos hc]
            exact cellGet_below hw.2 (by omega)
          · simp only [cellGet, if_neg hc, if_neg (by omega : ¬c = k)]
        · by_cases hc : c < k
          · simp only [cellGet, if_pos hc, if_pos (by omega : c < a)]
          · simp only [cellGet, if_neg hc, if_neg (by omega : ¬c < a), if_neg h, if_neg (by omega : ¬c = k)]
      · simp only [cellGet]
        rw [cellGet_cellSet_ne h hw.2]

/-! Runs of cells. -/

theorem cellsWf_cellsWrite : ∀ {bs : List Byte} {l : List Host.Cell} {a : Nat}, cellsWf 0 l = true →
    cellsWf 0 (cellsWrite l a bs) = true
  | [], _, _, h => h
  | _ :: bs, _, _, h => cellsWf_cellsWrite (bs := bs) (cellsWf_cellSet h (Nat.zero_le _))

theorem cellsWf_cellsMask : ∀ {bs : List Byte} {l : List Host.Cell} {a m : Nat}, cellsWf 0 l = true →
    cellsWf 0 (cellsMask l a m bs) = true
  | [], _, _, _, h => h
  | _ :: bs, _, _, m, h => by
    unfold cellsMask
    split
    · exact cellsWf_cellsMask (bs := bs) (cellsWf_cellSet h (Nat.zero_le _))
    · exact cellsWf_cellsMask (bs := bs) h

theorem cellsWf_cellsClear {lo hi : Nat} : ∀ {l : List Host.Cell} {b : Nat}, cellsWf b l = true →
    cellsWf b (cellsClear l lo hi) = true
  | [], _, _ => rfl
  | (k, v) :: r, b, hw => by
    simp only [cellsWf, Bool.and_eq_true, decide_eq_true_eq] at hw
    unfold cellsClear
    rw [List.filter_cons]
    split
    · simp only [cellsWf, Bool.and_eq_true, decide_eq_true_eq]
      exact ⟨hw.1, cellsWf_cellsClear hw.2⟩
    · exact cellsWf_mono (by omega) (cellsWf_cellsClear (lo := lo) (hi := hi) hw.2)

/-- A write leaves every byte outside it alone. -/
theorem cellGet_cellsWrite_outside : ∀ {bs : List Byte} {l : List Host.Cell} {a c : Nat}, cellsWf 0 l = true →
    c < a ∨ a + bs.length ≤ c → cellGet (cellsWrite l a bs) c = cellGet l c
  | [], _, _, _, _, _ => rfl
  | b :: bs, l, a, c, h, hc => by
    simp only [List.length_cons] at hc
    unfold cellsWrite
    rw [cellGet_cellsWrite_outside (cellsWf_cellSet h (Nat.zero_le _)) (by omega), cellGet_cellSet_ne (by omega) h]

/-- A byte that a write stores reads as the byte written. -/
theorem cellGet_cellsWrite_inside : ∀ {bs : List Byte} {l : List Host.Cell} {a i : Nat}, cellsWf 0 l = true → i < bs.length →
    cellGet (cellsWrite l a bs) (a + i) = bs.getD i 0
  | [], _, _, _, _, hi => absurd hi (Nat.not_lt_zero _)
  | b :: bs, l, a, 0, h, _ => by
    unfold cellsWrite
    rw [cellGet_cellsWrite_outside (cellsWf_cellSet h (Nat.zero_le _)) (by omega), Nat.add_zero, cellGet_cellSet_self h]
    rfl
  | b :: bs, l, a, i + 1, h, hi => by
    unfold cellsWrite
    have e : a + (i + 1) = a + 1 + i := by omega
    rw [e, cellGet_cellsWrite_inside (cellsWf_cellSet h (Nat.zero_le _)) (by simpa using hi)]
    rfl

theorem cellsRead_length : ∀ (n : Nat) (l : List Host.Cell) (a : Nat), (cellsRead l a n).length = n
  | 0, _, _ => rfl
  | n + 1, l, a => by simp [cellsRead, cellsRead_length n l (a + 1)]

theorem cellsRead_congr {l m : List Host.Cell} : ∀ {n a : Nat}, (∀ i, i < n → cellGet l (a + i) = cellGet m (a + i)) →
    cellsRead l a n = cellsRead m a n
  | 0, _, _ => rfl
  | n + 1, a, h => by
    have h0 : cellGet l a = cellGet m a := h 0 (by omega)
    have h1 : cellsRead l (a + 1) n = cellsRead m (a + 1) n := cellsRead_congr fun i hi => by
      have hi' := h (i + 1) (by omega)
      rwa [show a + (i + 1) = a + 1 + i by omega] at hi'
    unfold cellsRead
    rw [h0, h1]

/-- A read after a write to the same place gives what was written. -/
theorem cellsRead_cellsWrite_self : ∀ {bs : List Byte} {l : List Host.Cell} {a : Nat}, cellsWf 0 l = true →
    cellsRead (cellsWrite l a bs) a bs.length = bs
  | [], _, _, _ => rfl
  | b :: bs, l, a, h => by
    have h1 : cellsWf 0 (cellSet l a b) = true := cellsWf_cellSet h (Nat.zero_le _)
    simp only [cellsWrite, List.length_cons, cellsRead]
    rw [cellsRead_cellsWrite_self h1, cellGet_cellsWrite_outside h1 (by omega), cellGet_cellSet_self h]

/-- A read that a write does not reach gives what it gave before. -/
theorem cellsRead_cellsWrite_outside {bs : List Byte} {l : List Host.Cell} {a c n : Nat} (h : cellsWf 0 l = true)
    (hc : c + n ≤ a ∨ a + bs.length ≤ c) : cellsRead (cellsWrite l a bs) c n = cellsRead l c n :=
  cellsRead_congr fun i hi => cellGet_cellsWrite_outside h (by omega)

/-- A masked write changes the bytes its mask names, and no other. -/
theorem cellGet_cellsMask : ∀ {bs : List Byte} {l : List Host.Cell} {a m c : Nat}, cellsWf 0 l = true →
    cellGet (cellsMask l a m bs) c =
      if a ≤ c ∧ c < a + bs.length ∧ m / 2 ^ (c - a) % 2 = 1 then bs.getD (c - a) 0 else cellGet l c
  | [], l, a, m, c, _ => by
    rw [if_neg (by simp only [List.length_nil]; omega)]
    rfl
  | b :: bs, l, a, m, c, h => by
    have h1 : cellsWf 0 (if m % 2 = 1 then cellSet l a b else l) = true := by
      split
      · exact cellsWf_cellSet h (Nat.zero_le _)
      · exact h
    unfold cellsMask
    rw [cellGet_cellsMask h1]
    simp only [List.length_cons]
    by_cases hca : c = a
    · subst hca
      rw [if_neg (by omega)]
      by_cases hm : m % 2 = 1
      · rw [if_pos hm, cellGet_cellSet_self h, if_pos (by simp; omega)]
        simp
      · rw [if_neg hm, if_neg (by simp; omega)]
    · have hl : cellGet (if m % 2 = 1 then cellSet l a b else l) c = cellGet l c := by
        split
        · exact cellGet_cellSet_ne hca h
        · rfl
      rw [hl]
      by_cases hlt : a < c
      · have e : c - a = c - (a + 1) + 1 := by omega
        have ed : m / 2 ^ (c - a) = m / 2 / 2 ^ (c - (a + 1)) := by
          rw [e, Nat.pow_succ, Nat.mul_comm, Nat.div_div_eq_div_mul]
        rw [ed, e]
        simp only [List.getD_cons_succ]
        by_cases hq : a + 1 ≤ c ∧ c < a + 1 + bs.length ∧ m / 2 / 2 ^ (c - (a + 1)) % 2 = 1
        · rw [if_pos hq, if_pos ⟨by omega, by omega, hq.2.2⟩]
        · rw [if_neg hq, if_neg (fun hp => hq ⟨by omega, by omega, hp.2.2⟩)]
      · rw [if_neg (by omega), if_neg (by omega)]

/-- Clearing a range leaves every byte outside it alone, and zeroes those inside. -/
theorem cellGet_cellsClear {lo hi c : Nat} : ∀ {l : List Host.Cell} {b : Nat}, cellsWf b l = true →
    cellGet (cellsClear l lo hi) c = if lo ≤ c ∧ c < hi then 0 else cellGet l c
  | [], _, _ => by simp [cellsClear, cellGet]
  | (k, v) :: r, b, hw => by
    have ih := cellGet_cellsClear (lo := lo) (hi := hi) (c := c) (by
      simp only [cellsWf, Bool.and_eq_true] at hw; exact hw.2 : cellsWf (k + 1) r = true)
    simp only [cellsWf, Bool.and_eq_true, decide_eq_true_eq] at hw
    have hr := cellsWf_cellsClear (lo := lo) (hi := hi) hw.2
    unfold cellsClear at ih hr ⊢
    rw [List.filter_cons]
    by_cases hk : (decide (k < lo) || decide (hi ≤ k)) = true
    · rw [if_pos hk]
      simp only [Bool.or_eq_true, decide_eq_true_eq] at hk
      simp only [cellGet]
      rw [ih]
      by_cases hc : lo ≤ c ∧ c < hi
      · rw [if_pos hc, if_pos hc]
        by_cases h1 : c < k
        · rw [if_pos h1]
        · rw [if_neg h1, if_neg (by omega)]
      · rw [if_neg hc, if_neg hc]
    · rw [if_neg hk]
      simp only [Bool.or_eq_true, decide_eq_true_eq] at hk
      rw [ih]
      by_cases hc : lo ≤ c ∧ c < hi
      · rw [if_pos hc, if_pos hc]
      · rw [if_neg hc, if_neg hc]
        simp only [cellGet]
        by_cases h1 : c < k
        · rw [if_pos h1, cellGet_below hw.2 (by omega)]
        · rw [if_neg h1, if_neg (by omega)]

/-! Tile SRAM, HBM, the Amber RAM. -/

theorem wf_parts {s : State} : Safety.Memory.wf s = true ↔
    cellsWf 0 s.sram = true ∧ cellsWf 0 s.hbm = true ∧ cellsWf 0 s.flash = true ∧ cellsWf 0 s.standby.amber = true := by
  simp only [Safety.Memory.wf, Bool.and_eq_true, and_assoc]

/-- A state with the byte stores of a canonical one is canonical. -/
theorem wf_of_same {s v : State} (h : Safety.Memory.wf s = true) (h1 : v.sram = s.sram) (h2 : v.hbm = s.hbm)
    (h3 : v.flash = s.flash) (h4 : v.standby.amber = s.standby.amber) : Safety.Memory.wf v = true := by
  rw [wf_parts] at h ⊢
  rw [h1, h2, h3, h4]
  exact h

theorem wf_sramWrite {s : State} {t a : Nat} {bs : List Byte} (h : Safety.Memory.wf s = true) :
    Safety.Memory.wf (s.sramWrite t a bs) = true := by
  rw [wf_parts] at h ⊢
  exact ⟨cellsWf_cellsWrite h.1, h.2⟩

theorem wf_sramMask {s : State} {t a m : Nat} {bs : List Byte} (h : Safety.Memory.wf s = true) :
    Safety.Memory.wf (s.sramMask t a m bs) = true := by
  rw [wf_parts] at h ⊢
  exact ⟨cellsWf_cellsMask h.1, h.2⟩

theorem wf_sramZero {s : State} {t : Nat} (h : Safety.Memory.wf s = true) : Safety.Memory.wf (s.sramZero t) = true := by
  rw [wf_parts] at h ⊢
  exact ⟨cellsWf_cellsClear h.1, h.2⟩

theorem wf_evict {s : State} {d key : Nat} (h : Safety.Memory.wf s = true) : Safety.Memory.wf (s.evict d key) = true := by
  unfold State.evict
  split
  · dsimp only
    split
    · exact h
    · split
      · exact h
      · exact wf_of_same h rfl rfl rfl rfl
  · cases s.cached d key with
    | none => exact h
    | some l =>
      dsimp only
      split
      · exact h
      · split
        · rw [wf_parts] at h ⊢
          exact ⟨h.1, cellsWf_cellsWrite h.2.1, h.2.2⟩
        · exact wf_of_same h rfl rfl rfl rfl

/-- Putting a line into the cache keeps the form, also where a victim is written back. -/
theorem wf_allocate {s v : State} {d : Nat} {l : CacheLine} (h : Safety.Memory.wf s = true) (hv : s.allocate d l = some v) :
    Safety.Memory.wf v = true := by
  unfold State.allocate at hv
  split at hv
  · cases hv
    exact wf_of_same h rfl rfl rfl rfl
  · rw [Option.map_eq_some_iff] at hv
    obtain ⟨w, hw, rfl⟩ := hv
    refine wf_of_same ?_ rfl rfl rfl rfl
    unfold State.makeRoom at hw
    dsimp only at hw
    split at hw
    · cases hw; exact h
    · split at hw
      · cases hw; exact h
      · split at hw
        · cases hw
          exact wf_evict (wf_of_same h rfl rfl rfl rfl)
        · cases hw

theorem wf_putLine {s : State} {d key off : Nat} {data : List Byte} {al : Bool} {tag : Option (Nat × Nat)}
    (h : Safety.Memory.wf s = true) : Safety.Memory.wf (s.putLine d key off data al tag) = true := by
  have hh : Safety.Memory.wf { s with hbm := cellsWrite s.hbm (key * 64) data, poison := s.poison.filter fun k => k != key } = true := by
    rw [wf_parts] at h ⊢
    exact ⟨h.1, cellsWf_cellsWrite h.2.1, h.2.2⟩
  unfold State.putLine
  dsimp only
  split
  · cases ha : s.allocate d ⟨key, off, data, true, false, tag⟩ with
    | none => exact hh
    | some v => exact wf_allocate h ha
  · exact hh

/-- A read of tile SRAM after a write to the same place. -/
theorem sramRead_sramWrite {s : State} {t a : Nat} {bs : List Byte} (h : Safety.Memory.wf s = true)
    : (s.sramWrite t a bs).sramRead t a bs.length = bs := by
  rw [wf_parts] at h
  exact cellsRead_cellsWrite_self h.1

theorem sramRead_sramWrite_outside {s : State} {t a b n : Nat} {bs : List Byte} (h : Safety.Memory.wf s = true)
    (ha : a + bs.length ≤ 2 ^ 21) (hb : b + n ≤ 2 ^ 21) (hn : b + n ≤ a ∨ a + bs.length ≤ b) (h0 : 0 < n) (hl : bs ≠ []) :
    (s.sramWrite t a bs).sramRead t b n = s.sramRead t b n := by
  rw [wf_parts] at h
  have hlen : 0 < bs.length := List.length_pos_of_ne_nil hl
  unfold State.sramRead State.sramWrite
  apply cellsRead_cellsWrite_outside h.1
  unfold sramKey
  rw [Nat.mod_eq_of_lt (by omega : a < 2 ^ 21), Nat.mod_eq_of_lt (by omega : b < 2 ^ 21)]
  omega

/-- A write of one tile's SRAM leaves every other tile's alone. -/
theorem sramRead_sramWrite_tile {s : State} {t u a b n : Nat} {bs : List Byte} (h : Safety.Memory.wf s = true)
    (ha : a % 2 ^ 21 + bs.length ≤ 2 ^ 21) (hb : b % 2 ^ 21 + n ≤ 2 ^ 21) (htu : t ≠ u) :
    (s.sramWrite t a bs).sramRead u b n = s.sramRead u b n := by
  rw [wf_parts] at h
  unfold State.sramRead State.sramWrite
  apply cellsRead_cellsWrite_outside h.1
  unfold sramKey
  rcases Nat.lt_or_gt_of_ne htu with hlt | hgt
  · right
    omega
  · left
    omega

theorem sramRead_sramZero {s : State} {t a : Nat} (h : Safety.Memory.wf s = true) :
    (s.sramZero t).sramRead t a 1 = [0] := by
  rw [wf_parts] at h
  simp only [State.sramRead, State.sramZero, cellsRead]
  rw [cellGet_cellsClear h.1, if_pos]
  unfold sramKey
  omega

end Sys2Proof.Laws
end

