-- ==== Sys2Proof/Laws/Bytes.lean ====
section
/-! SUPPORT. The shared operations that store no byte: events, records, interrupts, free values, updates of a part, answers
of the Capstan and packets. -/
namespace Sys2Proof.Laws

open Sys2Proof.Machine Sys2Proof.Safety

/-- v lists the cells that s lists in every byte store. -/
structure SameBytes (s v : State) : Prop where
  sram : v.sram = s.sram
  hbm : v.hbm = s.hbm
  flash : v.flash = s.flash
  amber : v.standby.amber = s.standby.amber

theorem SameBytes.refl (s : State) : SameBytes s s := ⟨rfl, rfl, rfl, rfl⟩
theorem SameBytes.trans {s v w : State} (h : SameBytes s v) (k : SameBytes v w) : SameBytes s w :=
  ⟨k.sram.trans h.sram, k.hbm.trans h.hbm, k.flash.trans h.flash, k.amber.trans h.amber⟩

/-- Equal stores read the same. -/
theorem SameBytes.sameMemory {s v : State} (h : SameBytes s v) : sameMemory s v := by
  refine ⟨fun t a n => ?_, fun a => ?_, fun a => ?_, fun a => ?_⟩
  · unfold State.sramRead
    rw [h.sram]
  · rw [h.hbm]
  · rw [h.flash]
  · rw [h.amber]

theorem SameBytes.wf {s v : State} (h : SameBytes s v) (hw : Safety.Memory.wf s = true) : Safety.Memory.wf v = true :=
  wf_of_same hw h.sram h.hbm h.flash h.amber

/-- A fold of operations that store nothing stores nothing. -/
theorem SameBytes.foldl {α : Type} {f : State → α → State} (h : ∀ s x, SameBytes s (f s x)) :
    ∀ (l : List α) (s : State), SameBytes s (l.foldl f s)
  | [], s => .refl s
  | x :: l, s => (h s x).trans (SameBytes.foldl h l (f s x))

theorem bytes_modTile (s : State) (t : Nat) (f : Tile → Tile) : SameBytes s (s.modTile t f) := ⟨rfl, rfl, rfl, rfl⟩
theorem bytes_modDie (s : State) (d : Nat) (f : Die → Die) : SameBytes s (s.modDie d f) := ⟨rfl, rfl, rfl, rfl⟩
theorem bytes_modRegion (s : State) (r : Nat) (f : Region → Region) : SameBytes s (s.modRegion r f) := ⟨rfl, rfl, rfl, rfl⟩
theorem bytes_modPart (s : State) (p : Nat) (f : Part → Part) : SameBytes s (s.modPart p f) := ⟨rfl, rfl, rfl, rfl⟩
theorem bytes_modStk (s : State) (k : Nat) (f : Stack → Stack) : SameBytes s (s.modStk k f) := ⟨rfl, rfl, rfl, rfl⟩
theorem bytes_modPort (s : State) (p : Nat) (f : Port → Port) : SameBytes s (s.modPort p f) := ⟨rfl, rfl, rfl, rfl⟩
theorem bytes_modGeode (s : State) (p : Nat) (f : Geode → Geode) : SameBytes s (s.modGeode p f) := ⟨rfl, rfl, rfl, rfl⟩
theorem bytes_modPage (s : State) (k : Nat) (f : ErrPage → ErrPage) : SameBytes s (s.modPage k f) := ⟨rfl, rfl, rfl, rfl⟩
theorem bytes_modCap (s : State) (f : Capstan → Capstan) : SameBytes s (s.modCap f) := ⟨rfl, rfl, rfl, rfl⟩
theorem bytes_modMbx (s : State) (n : Nat) (f : Mailbox → Mailbox) : SameBytes s (s.modMbx n f) := ⟨rfl, rfl, rfl, rfl⟩
theorem bytes_modLny (s : State) (f : Lny → Lny) : SameBytes s (s.modLny f) := ⟨rfl, rfl, rfl, rfl⟩
theorem bytes_modPower (s : State) (f : Power → Power) : SameBytes s (s.modPower f) := ⟨rfl, rfl, rfl, rfl⟩
theorem bytes_modThermal (s : State) (f : Thermal → Thermal) : SameBytes s (s.modThermal f) := ⟨rfl, rfl, rfl, rfl⟩
theorem bytes_modFab (s : State) (f : Fabric → Fabric) : SameBytes s (s.modFab f) := ⟨rfl, rfl, rfl, rfl⟩
theorem bytes_modReef (s : State) (d : Nat) (f : Reef → Reef) : SameBytes s (s.modReef d f) := ⟨rfl, rfl, rfl, rfl⟩
theorem bytes_modUpd (s : State) (d : Nat) (f : Upd → Upd) : SameBytes s (s.modUpd d f) := ⟨rfl, rfl, rfl, rfl⟩
theorem bytes_drawFree (s : State) : SameBytes s s.drawFree.2 := ⟨rfl, rfl, rfl, rfl⟩
theorem bytes_raiseIrq (s : State) (n : Nat) : SameBytes s (s.raiseIrq n) := ⟨rfl, rfl, rfl, rfl⟩

/-- Posting an event writes an event page and the interrupts alone (R480, R481). -/
theorem bytes_postPage (s : State) (k : Nat) (r : EvRec) : SameBytes s (s.postPage k r) := by
  unfold State.postPage
  dsimp only
  split <;> exact ⟨rfl, rfl, rfl, rfl⟩

theorem bytes_post (s : State) (p : Option Nat) (e src layer op detail : Nat) : SameBytes s (s.post p e src layer op detail) := by
  unfold State.post
  cases p <;> exact bytes_postPage _ _ _

theorem bytes_postAll (s : State) (e src detail : Nat) : SameBytes s (s.postAll e src detail) := by
  unfold State.postAll
  refine (bytes_post s none e src 0 0 detail).trans (SameBytes.foldl (fun v p => ?_) _ _)
  split
  · exact bytes_post _ _ _ _ _ _ _
  · exact .refl _

theorem bytes_mramWrite (s : State) (q : MramReq) : SameBytes s (s.mramWrite q) := ⟨rfl, rfl, rfl, rfl⟩
/-- A record of the Obsidian log waits for the MRAM port (R460, R451). -/
theorem bytes_log (s : State) (rtype part : Nat) (payload : List Nat) : SameBytes s (s.log rtype part payload) :=
  ⟨rfl, rfl, rfl, rfl⟩

/-! Packets. -/

theorem bytes_returnCredits (s : State) (port vc cls n : Nat) : SameBytes s (s.returnCredits port vc cls n) := by
  unfold State.returnCredits
  split
  · exact bytes_modPort _ _ _
  · exact .refl _

theorem bytes_takePkt (s : State) (k : Nat) (x : InPkt) : SameBytes s (s.takePkt k x) :=
  (bytes_modFab s _).trans (bytes_returnCredits _ _ _ _ _)

/-- Taking a packet takes it from the inbox. -/
theorem takePkt_inbox (s : State) (k : Nat) (x : InPkt) : taken s (s.takePkt k x) k := by
  unfold taken State.takePkt State.returnCredits
  split <;> rfl

theorem bytes_inject (s : State) (p : Packet) : SameBytes s (s.inject p) := by
  unfold State.inject
  split
  · exact ⟨rfl, rfl, rfl, rfl⟩
  · split
    · exact bytes_modFab _ _
    · unfold State.queuePkt
      cases s.outPort p 16 <;> exact ⟨rfl, rfl, rfl, rfl⟩

theorem bytes_answerPkt (s : State) (q : Packet) (ptype status reason : Nat) (data : List Byte) :
    SameBytes s (s.answerPkt q ptype status reason data) := bytes_inject _ _
theorem bytes_refusePkt (s : State) (q : Packet) (reason : Nat) : SameBytes s (s.refusePkt q reason) := bytes_inject _ _

/-- A packet that arrived for this node is acted on (R302). -/
theorem onPacket_arrived {s : State} {k t : Nat} {x : InPkt} {f : InPkt → State → State} (h : Arrived s k x t) :
    onPacket s k (fun q => q.ptype == t) f = f x s := by
  unfold onPacket
  simp [h.at_, h.type, h.here]

/-- A port that is UP is one of the module's. -/
theorem portUp_lt {s : State} {p : Nat} (h : s.portUp p = true) : p < s.fabric.ports.length := by
  by_contra hge
  have hp : s.port p = Port.init := by
    unfold State.port
    rw [List.getD_eq_default]
    omega
  unfold State.portUp at h
  rw [hp] at h
  exact absurd h (by decide)

theorem member_up {s : State} {dir route off p : Nat} (h : s.member dir route off = some p) : s.portUp p = true := by
  unfold State.member at h
  dsimp only at h
  split at h
  · cases h; assumption
  · split at h
    · cases h; assumption
    · cases h

/-- The next hop of a live path is a port that is UP (R295, R313). -/
theorem outPort_up {s : State} {p : Packet} {inp port cls : Nat} (h : s.outPort p inp = some (port, cls)) : s.portUp port = true := by
  have span : ∀ k : Nat, (if s.portUp (12 + k % 4) = true then some (12 + k % 4, 0) else none) = some (port, cls) → s.portUp port = true := by
    intro k hk
    split at hk
    · cases hk; assumption
    · cases hk
  unfold State.outPort at h
  dsimp only at h
  split at h
  · exact span _ h
  · split at h
    · cases hm : s.member _ p.route p.offset with
      | none => rw [hm] at h; cases h
      | some q =>
        rw [hm] at h
        simp only [Option.map_some, Option.some.injEq, Prod.mk.injEq] at h
        exact h.1 ▸ member_up hm
    · split at h
      · split at h
        · exact span _ h
        · cases h
      · cases h

/-- Where a live path leads on, an injected packet is last in the output queue of its next hop (R300); one to this node is in its
inbox. -/
theorem queued_inject (s : State) (p : Packet) : queued s (s.inject p) p := by
  intro hu hn
  have hn' : s.nodeId.isNone = false := by
    cases h : s.nodeId
    · rw [h] at hn; cases hn
    · rfl
  unfold State.inject
  simp only [hn', hu, Bool.or_self, Bool.false_eq_true, ↓reduceIte]
  refine ⟨fun h => ?_, fun port cls h ho => ?_⟩
  · rw [if_pos h]
    simp [State.modFab]
  · have hlt := portUp_lt (outPort_up ho)
    rw [if_neg h]
    unfold State.queuePkt
    rw [ho]
    simp [State.port, State.modPort, modAt, List.getD_eq_getElem?_getD, List.getElem?_eq_getElem hlt]

/-! Answers of the Capstan. -/

theorem cellsWf_foldl {f : List Host.Cell → Nat → List Host.Cell} (h : ∀ m k, cellsWf 0 m = true → cellsWf 0 (f m k) = true) :
    ∀ (l : List Nat) (m : List Host.Cell), cellsWf 0 m = true → cellsWf 0 (l.foldl f m) = true
  | [], _, hm => hm
  | k :: l, m, hm => cellsWf_foldl h l (f m k) (h m k hm)

theorem wf_carveWrite {s : State} {o : Nat} {l : List Byte} (h : Safety.Memory.wf s = true) :
    Safety.Memory.wf (s.carveWrite o l) = true := by
  rw [wf_parts] at h ⊢
  exact ⟨h.1, cellsWf_foldl (fun _ _ hm => cellsWf_cellsWrite hm) _ _ h.2.1, h.2.2⟩

/-- Two bytes of one 256-byte granule of the carve-out lie side by side in its pseudo-channel (R244). -/
theorem carve_next (s : State) {o j : Nat} (ho : o % 256 = 0) (hj : j < 256) :
    physKey (place s.carveAlloc (o + j)) = physKey (place s.carveAlloc o) + j := by
  have h1 : (o + j) / 256 = o / 256 := by omega
  have h2 : (o + j) % 256 = j := by omega
  have h3 : o % 256 = 0 := ho
  simp only [place, State.carveAlloc, physKey, Nat.sub_zero, h1, h2, h3, OfNat.ofNat_ne_zero, OfNat.ofNat_ne_one, ↓reduceIte]
  omega

theorem mbxBuf_mod (s : State) (n : Nat) : s.mbxBuf n % 256 = 0 := by
  unfold State.mbxBuf State.mbxBufBase
  omega

/-- The response of a message reaches no byte outside its mailbox's buffer (R417, R420). -/
theorem carveWrite_outside {s : State} {n a : Nat} {l : List Byte} (h : Safety.Memory.wf s = true) (hl : l.length ≤ 4096)
    (ha : ¬inBuffer s (.mbx n) a) : cellGet (s.carveWrite (s.mbxBuf n) l).hbm a = cellGet s.hbm a := by
  have hw := (wf_parts.mp h).2.1
  unfold State.carveWrite
  dsimp only
  have key : ∀ (ks : List Nat) (m : List Host.Cell), (∀ k ∈ ks, k < 16) → cellsWf 0 m = true →
      cellGet (ks.foldl (fun m k => cellsWrite m (physKey (place s.carveAlloc (s.mbxBuf n + 256 * k)))
        ((l.drop (256 * k)).take 256)) m) a = cellGet m a := by
    intro ks
    induction ks with
    | nil => intros; rfl
    | cons k ks ih =>
      intro m hk hm
      rw [List.foldl_cons, ih _ (fun q hq => hk q (List.mem_cons_of_mem _ hq)) (cellsWf_cellsWrite hm)]
      refine cellGet_cellsWrite_outside hm ?_
      by_contra hc
      have hlen : ((l.drop (256 * k)).take 256).length ≤ 256 := by simp
      have hk16 := hk k List.mem_cons_self
      have hb := mbxBuf_mod s n
      have hn := carve_next s (o := s.mbxBuf n + 256 * k) (j := a - physKey (place s.carveAlloc (s.mbxBuf n + 256 * k)))
        (by omega) (by omega)
      exact ha ⟨n, 256 * k + (a - physKey (place s.carveAlloc (s.mbxBuf n + 256 * k))), rfl, by omega, by
        rw [← Nat.add_assoc, hn]; omega⟩
  refine key _ _ (fun k hk => ?_) hw
  have := List.mem_range.mp hk
  omega

/-- Completing a message stores its response in the mailbox's buffer, and no other byte (R420). -/
theorem keeps_complete (s : State) (src : Src) (r : Reply) : keepsMemory s (s.complete src r) src := by
  cases src with
  | mbx n =>
    have hh : (s.complete (.mbx n) r).hbm = (s.carveWrite (s.mbxBuf n) (r.bytes.take 4096)).hbm := by
      unfold State.complete; dsimp only; split <;> rfl
    have hs : (s.complete (.mbx n) r).sram = s.sram := by unfold State.complete; dsimp only; split <;> rfl
    have hf : (s.complete (.mbx n) r).flash = s.flash := by unfold State.complete; dsimp only; split <;> rfl
    have ha : (s.complete (.mbx n) r).standby = s.standby := by unfold State.complete; dsimp only; split <;> rfl
    refine ⟨fun t a m => ?_, fun hw a hb => ?_, fun a => ?_, fun a => ?_⟩
    · unfold State.sramRead; rw [hs]
    · rw [hh, carveWrite_outside hw (by simp) hb]
    · rw [hf]
    · rw [ha]
  | session k => exact ⟨fun _ _ _ => rfl, fun _ _ _ => rfl, fun _ => rfl, fun _ => rfl⟩
  | fabric node => exact ⟨fun _ _ _ => rfl, fun _ _ _ => rfl, fun _ => rfl, fun _ => rfl⟩

theorem wf_complete {s : State} (src : Src) (r : Reply) (h : Safety.Memory.wf s = true) :
    Safety.Memory.wf (s.complete src r) = true := by
  cases src with
  | mbx n =>
    have := wf_carveWrite (o := s.mbxBuf n) (l := r.bytes.take 4096) h
    unfold State.complete
    dsimp only
    split <;> exact wf_of_same this rfl rfl rfl rfl
  | session k => exact wf_of_same h rfl rfl rfl rfl
  | fabric node => exact wf_of_same h rfl rfl rfl rfl

end Sys2Proof.Laws
end

