-- ==== Sys2Proof/Laws/Cache.lean ====
section
/-! SUPPORT. The shared cache: what evicting and allocating a line leave, and that no line's contents change with them. -/
namespace Sys2Proof.Laws

open Sys2Proof.Machine Sys2Proof.Safety

theorem cached_modDie (s : State) (d e k : Nat) (f : Die → Die) (h : ∀ x, (f x).cache = x.cache) :
    (s.modDie d f).cached e k = s.cached e k := by
  unfold State.cached State.die State.modDie modAt
  simp only [List.getD_eq_getElem?_getD, List.getElem?_modify]
  by_cases hde : d = e
  · subst hde
    cases s.dies[d]? <;> simp [h]
  · simp [hde]

/-- v has the lines of s on die d. -/
def SameLines (s v : State) (d : Nat) : Prop := ∀ k, v.lineRead d k = s.lineRead d k

theorem lines_modDie (s : State) (d e : Nat) (f : Die → Die) (h : ∀ x, (f x).cache = x.cache) :
    SameLines s (s.modDie d f) e := fun k => by
  unfold State.lineRead
  rw [cached_modDie s d e k f h]
  rfl

theorem coherent_modDie {s : State} {d e : Nat} {f : Die → Die} (h : ∀ x, (f x).cache = x.cache)
    (hc : Cache.coherent s e) : Cache.coherent (s.modDie d f) e := fun k l hl => by
  rw [cached_modDie s d e k f h] at hl
  exact hc k l hl

theorem die_modDie {s : State} {d : Nat} (f : Die → Die) (h : d < s.dies.length) : (s.modDie d f).die d = f (s.die d) := by
  simp [State.die, State.modDie, modAt, List.getD_eq_getElem?_getD, List.getElem?_eq_getElem h]

theorem find_filter_ne (c : List CacheLine) (key k : Nat) :
    (c.filter fun l => l.key != key).find? (fun l => l.key == k) = if k = key then none else c.find? fun l => l.key == k := by
  induction c with
  | nil => simp
  | cons x c ih =>
    rw [List.filter_cons]
    by_cases hx : x.key = key
    · simp only [hx, bne_self_eq_false, Bool.false_eq_true, ↓reduceIte, ih]
      by_cases hk : k = key
      · simp [hk]
      · have : ¬key = k := fun e => hk e.symm
        simp [hk, hx, this]
    · have hb : (x.key != key) = true := by simp [hx]
      simp only [hb, ↓reduceIte]
      by_cases hk : k = key
      · have : ¬x.key = k := fun e => hx (e.trans hk)
        simp only [List.find?_cons, beq_eq_false_iff_ne.mpr this, ih]
      · by_cases hxk : x.key = k
        · simp [hxk, hk]
        · simp only [List.find?_cons, beq_eq_false_iff_ne.mpr hxk, ih]

/-- Evicting a data line leaves it uncached when it can be written back, and the others as they were. -/
theorem cached_drop {s : State} {d key k : Nat} (h : d < s.dies.length) :
    (s.modDie d fun x => { x with cache := x.cache.filter fun l => l.key != key }).cached d k =
      if k = key then none else s.cached d k := by
  unfold State.cached
  rw [die_modDie _ h]
  exact find_filter_ne _ _ _

/-- A state that differs in one line, uncached now with its bytes in HBM, has the same lines. -/
theorem lines_of_drop {s v : State} {d key : Nat} {l : CacheLine} (hc : Cache.coherent s d) (hl : s.cached d key = some l)
    (hcd : ∀ k, v.cached d k = if k = key then none else s.cached d k) (hself : cellsRead v.hbm (key * 64) 64 = l.data)
    (hout : ∀ k, k ≠ key → cellsRead v.hbm (k * 64) 64 = cellsRead s.hbm (k * 64) 64) :
    SameLines s v d ∧ Cache.coherent v d := by
  refine ⟨fun k => ?_, fun k x hx => ?_⟩
  · unfold State.lineRead
    rw [hcd]
    by_cases hkk : k = key
    · subst hkk
      simp only [↓reduceIte, hl, hself]
    · simp only [hkk, ↓reduceIte]
      cases s.cached d k with
      | some y => rfl
      | none => exact hout k hkk
  · rw [hcd] at hx
    by_cases hkk : k = key
    · simp [hkk] at hx
    · simp only [hkk, ↓reduceIte] at hx
      exact ⟨(hc k x hx).1, fun hxd => ((hc k x hx).2 hxd).trans (hout k hkk).symm⟩

/-- What evicting a data line leaves: the line uncached, the other lines as they were, its bytes in HBM. -/
theorem evict_line {s : State} {d key : Nat} {l : CacheLine} (hk : key < 2 ^ 40) (hd : d < s.dies.length)
    (hw : Safety.Memory.wf s = true) (hc : Cache.coherent s d) (hl : s.cached d key = some l) (hr : l.dirty = true → s.keyReady key = true) :
    (∀ k, (s.evict d key).cached d k = if k = key then none else s.cached d k) ∧ SameLines s (s.evict d key) d ∧
      Cache.coherent (s.evict d key) d ∧ cellsRead (s.evict d key).hbm (key * 64) 64 = l.data ∧
      (s.evict d key).sram = s.sram ∧ (s.evict d key).dies.length = s.dies.length := by
  have hlen := (hc key l hl).1
  have hw' := (wf_parts.mp hw).2.1
  have hn : ¬(2 ^ 40 ≤ key) := by omega
  have hdies : ∀ f, (modAt s.dies d f).length = s.dies.length := fun f => by simp [modAt]
  cases hdirty : l.dirty with
  | false =>
    have he : s.evict d key = s.modDie d fun x => { x with cache := x.cache.filter fun l => l.key != key } := by
      unfold State.evict
      rw [if_neg hn, hl]
      simp [hdirty]
    have hcd : ∀ k, (s.evict d key).cached d k = if k = key then none else s.cached d k := fun k => by
      rw [he]
      exact cached_drop hd
    have hb : (s.evict d key).hbm = s.hbm := by rw [he]; rfl
    have hs : cellsRead (s.evict d key).hbm (key * 64) 64 = l.data := by
      rw [hb]
      exact ((hc key l hl).2 hdirty).symm
    obtain ⟨h1, h2⟩ := lines_of_drop hc hl hcd hs fun k _ => by rw [hb]
    exact ⟨hcd, h1, h2, hs, by rw [he]; rfl, by rw [he]; exact hdies _⟩
  | true =>
    have he : s.evict d key = { s.modDie d fun x => { x with cache := x.cache.filter fun l => l.key != key } with
        hbm := cellsWrite s.hbm (key * 64) l.data
        poison := if l.poisoned then key :: s.poison.filter (fun k => k != key) else s.poison.filter fun k => k != key } := by
      unfold State.evict
      rw [if_neg hn, hl]
      simp only [hdirty, hr hdirty, Bool.not_true, Bool.and_false, Bool.false_eq_true, ↓reduceIte]
      rfl
    have hcd : ∀ k, (s.evict d key).cached d k = if k = key then none else s.cached d k := fun k => by
      rw [he]
      exact cached_drop hd
    have hb : (s.evict d key).hbm = cellsWrite s.hbm (key * 64) l.data := by rw [he]
    have hs : cellsRead (s.evict d key).hbm (key * 64) 64 = l.data := by
      rw [hb]
      have := cellsRead_cellsWrite_self (bs := l.data) (a := key * 64) hw'
      rwa [hlen] at this
    obtain ⟨h1, h2⟩ := lines_of_drop hc hl hcd hs fun k hne => by
      rw [hb]
      exact cellsRead_cellsWrite_outside hw' (by rw [hlen]; omega)
    exact ⟨hcd, h1, h2, hs, by rw [he]; rfl, by rw [he]; exact hdies _⟩

theorem lines_of_cached {s v : State} {d : Nat} (hc : Cache.coherent s d) (hcd : ∀ k, v.cached d k = s.cached d k)
    (hb : v.hbm = s.hbm) : SameLines s v d ∧ Cache.coherent v d ∧ ∀ k, s.cached d k = none → v.cached d k = none := by
  refine ⟨fun k => ?_, fun k l hl => ?_, fun k hn => (hcd k).trans hn⟩
  · unfold State.lineRead
    rw [hcd, hb]
  · rw [hcd] at hl
    rw [hb]
    exact hc k l hl

/-- No eviction changes a line's contents, or caches anything. -/
theorem evict_lines {s : State} {d key : Nat} (hd : d < s.dies.length) (hw : Safety.Memory.wf s = true) (hc : Cache.coherent s d) :
    SameLines s (s.evict d key) d ∧ Cache.coherent (s.evict d key) d ∧
      (∀ k, s.cached d k = none → (s.evict d key).cached d k = none) ∧ (s.evict d key).dies.length = s.dies.length := by
  have hsame : ∀ v : State, v = s → SameLines s v d ∧ Cache.coherent v d ∧
      (∀ k, s.cached d k = none → v.cached d k = none) ∧ v.dies.length = s.dies.length := fun v h => by
    subst h
    exact ⟨fun _ => rfl, hc, fun _ h => h, rfl⟩
  by_cases hk : key < 2 ^ 40
  · cases hl : s.cached d key with
    | none =>
      apply hsame
      unfold State.evict
      rw [if_neg (by omega), hl]
    | some l =>
      by_cases hr : l.dirty = true → s.keyReady key = true
      · obtain ⟨h1, h2, h3, _, _, h6⟩ := evict_line hk hd hw hc hl hr
        refine ⟨h2, h3, fun k hn => ?_, h6⟩
        rw [h1]
        split
        · rfl
        · exact hn
      · apply hsame
        unfold State.evict
        rw [if_neg (by omega), hl]
        simp only [Classical.not_imp, Bool.not_eq_true] at hr
        simp [hr.1, hr.2]
  · unfold State.evict
    rw [if_pos (by omega)]
    dsimp only
    split
    · exact hsame _ rfl
    · split
      · exact hsame _ rfl
      · obtain ⟨h1, h2, h3⟩ := lines_of_cached (v := { (s.modDie d fun x =>
          { x with sideTab := x.sideTab.filter fun y => y.1 != key - 2 ^ 40 }) with crcs := setCrc s.crcs (key - 2 ^ 40) _ }) hc
          (fun k => cached_modDie _ _ _ _ _ fun _ => rfl) rfl
        exact ⟨h1, h2, h3, by simp [State.modDie, modAt]⟩

/-- Making room changes no line's contents, and caches nothing that was not. -/
theorem makeRoom_lines {s v : State} {d off : Nat} (hd : d < s.dies.length) (hw : Safety.Memory.wf s = true)
    (hc : Cache.coherent s d) (hv : s.makeRoom d off = some v) :
    SameLines s v d ∧ Cache.coherent v d ∧ (∀ k, s.cached d k = none → v.cached d k = none) ∧ v.dies.length = s.dies.length := by
  unfold State.makeRoom at hv
  dsimp only at hv
  split at hv
  · cases hv; exact ⟨fun _ => rfl, hc, fun _ h => h, rfl⟩
  · split at hv
    · cases hv; exact ⟨fun _ => rfl, hc, fun _ h => h, rfl⟩
    · split at hv
      · cases hv
        exact evict_lines (s := { s with free := s.free + 1 }) hd (wf_of_same hw rfl rfl rfl rfl) hc
      · cases hv

theorem cached_setCache {s : State} {d : Nat} {l : CacheLine} (h : d < s.dies.length) (k : Nat) :
    (s.setCache d l).cached d k = if k = l.key then some l else s.cached d k := by
  unfold State.setCache State.cached
  rw [die_modDie _ h]
  simp only [putCache, List.find?_cons, find_filter_ne]
  by_cases hk : k = l.key
  · simp [hk]
  · simp only [beq_eq_false_iff_ne.mpr fun e : l.key = k => hk e.symm, if_neg hk]

/-- A line allocated reads as its data, and every other line as before. -/
theorem allocate_lines {s v : State} {d : Nat} {l : CacheLine} (hd : d < s.dies.length) (hw : Safety.Memory.wf s = true)
    (hc : Cache.coherent s d) (hv : s.allocate d l = some v) :
    v.lineRead d l.key = l.data ∧ ∀ k, k ≠ l.key → v.lineRead d k = s.lineRead d k := by
  have key : ∀ w : State, SameLines s w d → w.dies.length = s.dies.length → v = w.setCache d l →
      v.lineRead d l.key = l.data ∧ ∀ k, k ≠ l.key → v.lineRead d k = s.lineRead d k := fun w hs hl hvw => by
    subst hvw
    have hcs := fun k => cached_setCache (s := w) (d := d) (l := l) (by omega) k
    refine ⟨?_, fun k hk => ?_⟩
    · unfold State.lineRead
      rw [hcs]
      simp
    · rw [← hs k]
      unfold State.lineRead
      rw [hcs, if_neg hk]
      rfl
  unfold State.allocate at hv
  split at hv
  · cases hv
    exact key s (fun _ => rfl) rfl rfl
  · rw [Option.map_eq_some_iff] at hv
    obtain ⟨w, hmr, rfl⟩ := hv
    obtain ⟨h1, _, _, h4⟩ := makeRoom_lines hd hw hc hmr
    exact key w h1 h4 rfl

/-- A line stored at its home reads as its data, and every other line as before (R239). -/
theorem putLine_lines {s : State} {d key off : Nat} {data : List Byte} {al : Bool} {tag : Option (Nat × Nat)}
    (hd : d < s.dies.length) (hw : Safety.Memory.wf s = true) (hc : Cache.coherent s d) (hl : data.length = 64) :
    (s.putLine d key off data al tag).lineRead d key = data ∧
      ∀ k, k ≠ key → (s.putLine d key off data al tag).lineRead d k = s.lineRead d k := by
  have hw' := (wf_parts.mp hw).2.1
  have hin : (s.cached d key).isSome = false →
      State.lineRead { s with hbm := cellsWrite s.hbm (key * 64) data, poison := s.poison.filter fun k => k != key } d key = data ∧
      ∀ k, k ≠ key →
        State.lineRead { s with hbm := cellsWrite s.hbm (key * 64) data, poison := s.poison.filter fun k => k != key } d k =
          s.lineRead d k := fun hn => by
    have hcd : ∀ k, State.cached { s with hbm := cellsWrite s.hbm (key * 64) data, poison := s.poison.filter fun k => k != key } d k =
      s.cached d k := fun _ => rfl
    refine ⟨?_, fun k hk => ?_⟩
    · unfold State.lineRead
      rw [hcd, Option.isSome_eq_false_iff.mp hn |> Option.isNone_iff_eq_none.mp]
      have := cellsRead_cellsWrite_self (bs := data) (a := key * 64) hw'
      rwa [hl] at this
    · unfold State.lineRead
      rw [hcd]
      cases s.cached d k with
      | some y => rfl
      | none => exact cellsRead_cellsWrite_outside hw' (by rw [hl]; omega)
  unfold State.putLine
  dsimp only
  cases hcc : (s.cached d key).isSome with
  | true =>
    have ha : s.allocate d ⟨key, off, data, true, false, tag⟩ = some (s.setCache d ⟨key, off, data, true, false, tag⟩) := by
      unfold State.allocate
      simp [hcc]
    simp only [Bool.or_true, ↓reduceIte, ha, Option.getD_some]
    exact allocate_lines hd hw hc ha
  | false =>
    split
    · cases ha : s.allocate d ⟨key, off, data, true, false, tag⟩ with
      | none => exact hin hcc
      | some v => exact allocate_lines hd hw hc ha
    · exact hin hcc

end Sys2Proof.Laws
end

