-- ==== Sys2Proof/Laws/Strata.lean ====
section
/-! SUPPORT. What a Strata sample can do: monitors, the alarm event and its interrupt, and nothing else. -/
namespace Sys2Proof.Laws

open Sys2Proof.Machine

/-- v is s but for monitors, event pages and pending interrupts. -/
def Sampled (s v : State) : Prop := ∃ d m e q, v = { s with dies := d, spineMons := m, errs := e, irqs := q }

theorem Sampled.refl (s : State) : Sampled s s := ⟨_, _, _, _, rfl⟩

theorem Sampled.trans {s v w : State} (h : Sampled s v) (k : Sampled v w) : Sampled s w := by
  obtain ⟨d, m, e, q, rfl⟩ := h
  obtain ⟨d', m', e', q', rfl⟩ := k
  exact ⟨_, _, _, _, rfl⟩

theorem Sampled.foldl {α : Type} {f : State → α → State} (h : ∀ s x, Sampled s (f s x)) :
    ∀ (l : List α) (s : State), Sampled s (l.foldl f s)
  | [], s => .refl s
  | x :: l, s => (h s x).trans (Sampled.foldl h l (f s x))

theorem sampled_modMon (s : State) (d m : Nat) (f : Monitor → Monitor) : Sampled s (s.modMon d m f) := by
  unfold State.modMon
  split <;> exact ⟨_, _, _, _, rfl⟩

theorem sampled_post (s : State) (p : Option Nat) (e src layer op detail : Nat) : Sampled s (s.post p e src layer op detail) := by
  unfold State.post
  cases p <;>
  · unfold State.postPage
    dsimp only
    split <;> exact ⟨_, _, _, _, rfl⟩

theorem sampled_sample (s : State) (d m raw : Nat) (force : Bool) : Sampled s (s.sample d m raw force) := by
  unfold State.sample
  dsimp only
  split
  · exact (sampled_modMon _ _ _ _).trans (sampled_post _ _ _ _ _ _ _)
  · exact sampled_modMon _ _ _ _

theorem sampled_sampleEvent (s : State) (e : SampleEvent) : Sampled s (s.sampleEvent e) := by
  unfold State.sampleEvent
  split
  · exact .refl s
  · refine Sampled.foldl (fun v m => ?_) _ _
    split
    · split
      · exact sampled_modMon _ _ _ _
      · exact sampled_sample _ _ _ _ _
    · exact .refl v

theorem sampled_emit (s : State) (d source raw layer op a b inst : Nat) : Sampled s (s.emit d source raw layer op a b inst) :=
  sampled_sampleEvent s _

/-- An event of a source of the module changes monitors, event pages and interrupts alone (R463, R465, R466). -/
theorem sampled_emitAll (s : State) (source raw layer op inst : Nat) : Sampled s (s.emitAll source raw layer op inst) :=
  Sampled.foldl (fun v d => sampled_emit v d source raw layer op 0 0 inst) _ _

end Sys2Proof.Laws
end

