-- ==== Sys2Proof/Laws/Mailbox.lean ====
section
/-! SUPPORT. What the Capstan does with a message: it is left alone, answered before its body, or run. -/
namespace Sys2Proof.Laws

open Sys2Proof.Machine Sys2Proof.Safety

/-- Starting a message takes its turn, marks it started and posts its wait (R421); no part of State but the Capstan, the
fabric's held messages, monitors, event pages and interrupts changes. -/
theorem startMsg_frame (s : State) (src : Src) : ∃ cap f d m e q, s.startMsg src =
    { s with cap := cap, fabric := { s.fabric with mgtGot := f }, dies := d, spineMons := m, errs := e, irqs := q } := by
  unfold State.startMsg
  cases s.handAt src with
  | none => exact ⟨_, _, _, _, _, _, rfl⟩
  | some t =>
    obtain ⟨d, m, e, q, h⟩ := sampled_emitAll ((s.clearHand src).modCap fun c => c.taken src) srcMgtWait (s.now - t) 0 0 0
    dsimp only
    rw [h]
    cases src <;> exact ⟨_, _, _, _, _, _, rfl⟩

/-- The Capstan's run state is the same once a message has started. -/
theorem startMsg_run (s : State) (src : Src) : (s.startMsg src).cap.run = s.cap.run := by
  unfold State.startMsg
  cases s.handAt src with
  | none => rfl
  | some t =>
    obtain ⟨d, m, e, q, h⟩ := sampled_emitAll ((s.clearHand src).modCap fun c => c.taken src) srcMgtWait (s.now - t) 0 0 0
    dsimp only
    rw [h]
    cases src <;> rfl

/-- An accepted message runs its body, and its response follows at once unless the body says that it comes later. -/
theorem capstanRun_accepts {s : State} {c : Call} {x : CmdInfo} {self : Instr} {body : State → Answer} (h : Accepts s c x) :
    capstanRun self c x body s =
      if (body (base s c)).later then (body (base s c)).s else done c x (body (base s c)) := by
  obtain ⟨hrun, hmsg, hturn, hhead, hfresh, hrole, hmem, hfrozen, hport, htr⟩ := h
  have hr := (startMsg_run s c.src).trans hrun
  have hm : (x.mem && !(s.startMsg c.src).engReady (Call.part c)) = false := by
    cases hx : x.mem
    · rfl
    · have := hmem hx
      unfold started at this
      simp [this]
  unfold started at hhead hfresh hrole hfrozen hport
  unfold capstanRun
  simp only [hrun, hmsg, hturn, Bool.not_true, Bool.or_self, Bool.false_eq_true, ↓reduceIte, reduceCtorEq, hhead, hfresh]
  unfold capstanRun.go
  simp only [hr, reduceCtorEq, decide_false, Bool.false_and, Bool.false_eq_true, ↓reduceIte, hrole, hm]
  by_cases ha : c.msg.auth = 0
  · have hb : base s c = s.startMsg c.src := by
      unfold base started
      cases c.msg.trailer <;> simp [ha]
    rw [if_pos ha, hb]
    simp only [hfrozen, Bool.false_eq_true, ↓reduceIte, hport, Bool.not_true, Bool.and_false]
    rfl
  · obtain ⟨t, ht, hres, hok⟩ := htr.resolve_left ha
    unfold started at hok
    have hb : base s c = (s.startMsg c.src).acceptSeq c.msg.auth t.key t.seq := by
      unfold base started
      simp only [ht, ha, ↓reduceIte]
    rw [if_neg ha, hb]
    simp only [ht, hres, ne_eq, not_true_eq_false, ↓reduceIte, hok, Bool.not_true, Bool.false_eq_true, hport, hfrozen]
    rfl

/-- The Capstan takes no message while it boots, where none is there, or out of turn. -/
theorem capstanRun_absent {s : State} {c : Call} {x : CmdInfo} {self : Instr} {body : State → Answer}
    (h : s.cap.run = .booting ∨ s.hasMsg c.src = false ∨ s.mayStart c.src = false) : capstanRun self c x body s = s := by
  unfold capstanRun
  rcases h with h | h | h <;> simp [h]

/-- A message whose header is wrong is answered, and nothing else is done (R422, R425). -/
theorem capstanRun_head {s : State} {c : Call} {x : CmdInfo} {self : Instr} {body : State → Answer} {st : Nat}
    (hrun : s.cap.run = .running) (hmsg : s.hasMsg c.src = true) (hturn : s.mayStart c.src = true)
    (h : headCheck (started s c) c x = some st) :
    capstanRun self c x body s = (started s c).reply c x.code ((started s c).answer st) := by
  unfold started at h ⊢
  unfold capstanRun
  simp only [hrun, hmsg, hturn, Bool.not_true, Bool.or_self, Bool.false_eq_true, ↓reduceIte, reduceCtorEq, h]

/-- A message that its role may not send is answered, and nothing else is done (R429). -/
theorem capstanRun_role {s : State} {c : Call} {x : CmdInfo} {self : Instr} {body : State → Answer} {st : Nat}
    (hrun : s.cap.run = .running) (hmsg : s.hasMsg c.src = true) (hturn : s.mayStart c.src = true)
    (hhead : headCheck (started s c) c x = none)
    (hfresh : (((started s c).txns c.src).find? fun e => e.txn == c.msg.txn) = none)
    (h : roleCheck (started s c) c x = some st) :
    capstanRun self c x body s = (started s c).reply c x.code ((started s c).answer st) := by
  have hr := (startMsg_run s c.src).trans hrun
  unfold started at hhead hfresh h ⊢
  unfold capstanRun
  simp only [hrun, hmsg, hturn, Bool.not_true, Bool.or_self, Bool.false_eq_true, ↓reduceIte, reduceCtorEq, hhead, hfresh]
  unfold capstanRun.go
  simp only [hr, reduceCtorEq, decide_false, Bool.false_and, Bool.false_eq_true, ↓reduceIte, h]

/-- What completing a message in a mailbox leaves (R420). -/
theorem complete_mbx {s : State} {n : Nat} {r : Reply} (h : n < s.cap.mbx.length) :
    ((s.complete (.mbx n) r).mbx n).reply = some r ∧ ((s.complete (.mbx n) r).mbx n).owner = false ∧
      ((s.complete (.mbx n) r).mbx n).done = true ∧ ((s.complete (.mbx n) r).mbx n).status = r.status ∧
      ((s.complete (.mbx n) r).mbx n).seqDone = (s.mbx n).seq ∧ ((s.complete (.mbx n) r).mbx n).valid = true ∧
      ((s.complete (.mbx n) r).mbx n).table = (s.mbx n).table := by
  have key : (s.complete (.mbx n) r).mbx n =
      { s.mbx n with reply := some r, status := r.status, seqDone := (s.mbx n).seq, valid := true, owner := false, done := true } := by
    unfold State.complete
    dsimp only
    split <;>
      simp [State.mbx, State.modMbx, State.modCap, State.raiseIrq, State.carveWrite, modAt, List.getD_eq_getElem?_getD,
        List.getElem?_eq_getElem h]
  rw [key]
  exact ⟨rfl, rfl, rfl, rfl, rfl, rfl, rfl⟩

end Sys2Proof.Laws
end

