-- ==== Sys2Proof/Laws/Tile.lean ====
section
/-! SUPPORT. One lemma per shared operation of the tiles: reading a tile back, issuing an instruction, and the engines of
a tile with nothing waiting. -/
namespace Sys2Proof.Laws

open Sys2Proof.Machine Sys2Proof.Safety

theorem modAt_id {α : Type} (l : List α) (k : Nat) (f : α → α) (h : ∀ x, l[k]? = some x → f x = x) : modAt l k f = l := by
  unfold modAt
  apply List.ext_getElem?
  intro i
  rw [List.getElem?_modify]
  by_cases hik : k = i
  · subst hik
    cases hx : l[k]? with
    | none => simp
    | some x => simp [h x hx]
  · simp [hik]

theorem modAt_modAt {α : Type} (l : List α) (k : Nat) (f g : α → α) :
    modAt (modAt l k f) k g = modAt l k (g ∘ f) := by
  unfold modAt
  apply List.ext_getElem?
  intro i
  simp only [List.getElem?_modify]
  by_cases hik : k = i
  · simp [hik, Function.comp_def]
  · simp [hik]

/-- The issuing tile exists: an absent tile has no strand. -/
theorem tile_lt {s : State} {t k : Nat} {sl : Slot} (h : (s.tile t).issuing = some (k, sl)) : t < s.tiles.length := by
  by_contra hge
  have : s.tile t = Tile.init := by
    unfold State.tile
    rw [List.getD_eq_default]
    omega
  rw [this] at h
  have hi : Tile.init.issuing = none := by decide
  rw [hi] at h
  cases h

theorem tile_modTile {s : State} {t : Nat} (f : Tile → Tile) (h : t < s.tiles.length) :
    (s.modTile t f).tile t = f (s.tile t) := by
  simp [State.tile, modAt, List.getD_eq_getElem?_getD, List.getElem?_eq_getElem h]

theorem tile_modTile_ne {s : State} {t u : Nat} (f : Tile → Tile) (h : t ≠ u) : (s.modTile t f).tile u = s.tile u := by
  simp [State.tile, modAt, List.getD_eq_getElem?_getD, h]

theorem modTile_modTile (s : State) (t : Nat) (f g : Tile → Tile) :
    (s.modTile t f).modTile t g = s.modTile t (g ∘ f) := by
  simp [State.modTile, modAt_modAt]

theorem modTile_length (s : State) (t : Nat) (f : Tile → Tile) : (s.modTile t f).tiles.length = s.tiles.length := by
  simp [State.modTile, modAt]

/-- What becomes of an instruction that issue holds, finds a breach in, or lets be done. -/
def issuedAs (s : State) (t k : Nat) (i : Info) : Issue → State
  | .hold => s
  | .breach c d => s.fault t i true 1 c d
  | .done s1 => s1.modTile t fun y => issued y k
  | .jump ip s1 => s1.modTile t fun y => jumped y k ip

/-- What issuing the next instruction of a strand does, from what the instruction answers: an acquire holds those that read tile
SRAM and porter operations, a release those of the porter (R270, R272). -/
theorem issue_issues {s : State} {t k : Nat} {sl : Slot} (h : Issues s t k sl) {sram por : Bool}
    (hf : (sl.acqOps.any (s.tile t).opOpen && (sram || por) || por && !(sl.rels.all fun r => s.released r.1 t sl.inst r.2)) = false)
    (act : Nat → Slot → Info → Issue) :
    s.issue t sram por act = issuedAs s t k (infoAt s t k sl) (act k sl (infoAt s t k sl)) := by
  unfold State.issue infoAt
  simp only [h.live, Bool.not_true, Bool.false_eq_true, ↓reduceIte, h.issuing, h.parity, hf]
  cases act k sl ((s.tile t).mkInfo k sl) <;> rfl

/-- An instruction of the sequencer alone, or of an engine that reads no tile SRAM, is held by no acquire or release. -/
theorem issue_free {s : State} {t k : Nat} {sl : Slot} (h : Issues s t k sl) (act : Nat → Slot → Info → Issue) :
    s.issue t false false act = issuedAs s t k (infoAt s t k sl) (act k sl (infoAt s t k sl)) :=
  issue_issues h (by simp) act

theorem Ready.issues {s : State} {t k : Nat} {sl : Slot} (h : Ready s t k sl) : Issues s t k sl :=
  ⟨h.inst, h.live, h.issuing, h.parity⟩

/-- What issuing an instruction of a ready strand does, from what the instruction answers. -/
theorem issue_ready {s : State} {t k : Nat} {sl : Slot} (h : Ready s t k sl) (sram por : Bool)
    (act : Nat → Slot → Info → Issue) :
    s.issue t sram por act = issuedAs s t k (infoAt s t k sl) (act k sl (infoAt s t k sl)) :=
  issue_issues (Ready.issues h) (by simp [h.acq, h.rel]) act

theorem modTile_id {s : State} {t : Nat} (f : Tile → Tile) (h : f (s.tile t) = s.tile t) : s.modTile t f = s := by
  unfold State.modTile
  rw [modAt_id]
  intro x hx
  have hx' : s.tile t = x := by simp [State.tile, List.getD_eq_getElem?_getD, hx]
  rw [hx'] at h
  exact h

theorem modTile_congr {s : State} {t : Nat} {f g : Tile → Tile} (h : f (s.tile t) = g (s.tile t)) :
    s.modTile t f = s.modTile t g := by
  unfold State.modTile modAt
  congr 1
  apply List.ext_getElem?
  intro i
  simp only [List.getElem?_modify]
  by_cases hik : t = i
  · subst hik
    cases hx : s.tiles[t]? with
    | none => rfl
    | some x =>
      have hx' : s.tile t = x := by simp [State.tile, List.getD_eq_getElem?_getD, hx]
      rw [hx'] at h
      simp [h]
  · simp [hik]

theorem freeReads_quiet {s : State} {t : Nat} (h : (s.tile t).ops = []) : s.freeReads t = s := by
  unfold State.freeReads
  apply modTile_id
  generalize s.tile t = x at h
  cases x
  cases h
  simp

/-- The engines of a tile with nothing waiting begin nothing. -/
theorem pump_quiet {s : State} {t : Nat} (h : Quiet (s.tile t)) : s.pump t = s := by
  have hb : s.beginOne t = none := by
    simp [State.beginOne, State.arrBegin, State.vxeBegin, State.porBegin, State.sigBegin, h.arrQ, h.vxeQ, h.porQ, h.sigQ]
  unfold State.pump
  split
  · simp only [State.beginAll, hb]
    unfold State.porSend
    simp [h.ops, freeReads_quiet h.ops]
  · rfl

/-- Where one thing begins and nothing is left after it, that is all the engines do. -/
theorem pump_one {s s1 : State} {t : Nat} (hl : s.live t = true) (hh : s.held .tile t = false)
    (hb : s.beginOne t = some s1) (h : Quiet (s1.tile t)) : s.pump t = s1 := by
  have hn : s1.beginOne t = none := by
    simp [State.beginOne, State.arrBegin, State.vxeBegin, State.porBegin, State.sigBegin, h.arrQ, h.vxeQ, h.porQ, h.sigQ]
  unfold State.pump
  simp only [hl, hh, Bool.not_false, Bool.and_self, ↓reduceIte, State.beginAll, hb, hn]
  unfold State.porSend
  simp [h.ops, freeReads_quiet h.ops]

end Sys2Proof.Laws
end

