-- ==== Sys2Proof/Tests/Slice0.lean ====
section
/-! SUPPORT. Tests: each ill-formed command is refused by the check of its form, and for each clause of a statement with
hypotheses a named state that meets them, with what the command does there; values are worked out from the rules cited. -/
namespace Sys2Proof.Tests
set_option Elab.async false

open Sys2Proof.Machine

/-! Small states. -/

/-- Whether a command goes on, to a state with a property. -/
def ok (o : Out) (f : State → Bool) : Bool :=
  match o with
  | .next u => f u
  | .fault _ => false
  | .refused _ => false

def desc0 : Desc := ⟨1, 255, 1, 7, 9, 0, 0, 0, 0, 0, 0, 0, 1, 1, 2, 0, 0, false⟩
/-- A strand that issues, with the first 64 KiB of the tile SRAM declared for reads and writes. -/
def slot0 : Slot := ⟨desc0, 1, false, .issuing, 0, 0, 0, 0, 0, [], 0, [⟨0, 1024, true, true⟩], [], [], [], false⟩

/-- The module in service: regions awake, REFCLK running, the Capstan running. -/
def base : State :=
  { State.reset with
    regions := List.replicate 32 { Region.init with awake := true, released := true }
    lny := { Lny.init with refclk := true }
    cap := { Capstan.init with run := .running } }

/-- base with a tile 0 of one's own. -/
def withTile (f : Tile → Tile) : State := { base with tiles := f Tile.init :: List.replicate 383 Tile.init }
/-- base with a strand in slot 0 of tile 0. -/
def withSlot (sl : Slot) : State := withTile fun x => { x with slots := [some sl, none, none, none] }
def up : State := withSlot slot0
def slotAt (u : State) : Slot := ((u.tile 0).slots.getD 0 none).getD slot0

theorem ready_up : Safety.Ready up 0 0 slot0 :=
  ⟨by decide, by decide, by decide, by decide, by decide, by decide, ⟨by decide, by decide, by decide, by decide, by decide⟩,
    by decide, by decide⟩

/-! The queue and time. -/

theorem test_step_front : ok (step { up with pending := [.sli 0 3 5, .nop 0] })
    (fun u => u.pending == [.nop 0] && (u.tile 0).regs.getD 3 0 == 5) = true := by decide
theorem test_tick : State.reset.pending = [] ∧ base.lny.refclk = true ∧ base.lny.skip = false ∧ base.lny.frac < 2 ^ 40 ∧
    ok (step base) (fun u => u.lny.now == base.lny.now + 1 && u.pending == []) = true := by decide
theorem test_no_tick : ok (step { base with lny := { base.lny with refclk := false } })
    (fun u => u.lny == { base.lny with refclk := false } && u.regions == base.regions) = true := by decide

/-! Sequencer. -/

theorem test_nop : ok (exec (.nop 0) up) (fun u => (slotAt u).ip == 1 && (u.tile 0).nextId == 1) = true := by decide
theorem test_fence : (up.tile 0).arr.mmas = [] ∧ ok (exec (.fence 0 15) up) (fun u => (slotAt u).ip == 1) = true := by decide
/-- R193, R202: a WAIT consumes N of a counter that holds N or more, and holds on fewer. -/
theorem test_wait : ok (exec (.wait 0 2 3) (up.modTile 0 fun x => { x with tokens := x.tokens.set 2 3 }))
    (fun u => (u.tile 0).tokens.getD 2 9 == 0 && (slotAt u).ip == 1) = true := by decide
theorem test_wait_holds : (up.tile 0).tokens.getD 2 0 < 1 ∧ ok (exec (.wait 0 2 1) up) (fun u => (slotAt u).ip == 0) = true := by
  decide
theorem test_end : ok (exec (.endStrand 0) up) (fun u => (slotAt u).phase == .retiring) = true := by decide
/-- R204: the body of LOOP TRIPS runs TRIPS times in all, so a second trip jumps back with TRIPS - 2 left. -/
theorem test_loop_once : ok (exec (.loop 0 1 1) (withSlot { slot0 with ip := 4 })) (fun u => (slotAt u).ip == 5 && (slotAt u).loops == []) = true := by
  decide
theorem test_loop_first : ok (exec (.loop 0 3 2) (withSlot { slot0 with ip := 4 }))
    (fun u => (slotAt u).ip == 2 && (slotAt u).loops == [(4, 1)]) = true := by decide
theorem test_loop_again : ok (exec (.loop 0 3 2) (withSlot { slot0 with ip := 4, loops := [(4, 1)] }))
    (fun u => (slotAt u).ip == 2 && (slotAt u).loops == [(4, 0)]) = true := by decide
theorem test_loop_last : ok (exec (.loop 0 3 2) (withSlot { slot0 with ip := 4, loops := [(4, 0)] }))
    (fun u => (slotAt u).ip == 5 && (slotAt u).loops == []) = true := by decide
theorem test_sli : ok (exec (.sli 0 15 7) up) (fun u => (u.tile 0).regs.getD 15 0 == 7) = true := by decide
/-- R205: SADD sign-extends IMM and adds modulo 2^64. -/
theorem test_sadd : ok (exec (.sadd 0 1 1 0xFFFFFFFF) up) (fun u => (u.tile 0).regs.getD 1 0 == 0xFFFFFFFFFFFFFFFF) = true := by decide
/-- Table 07-6: selector 3 is STRAND_ID, 7 the gear; 8 and above are reserved and breach the contract. -/
theorem test_sstat : ok (exec (.sstat 0 1 3) up) (fun u => (u.tile 0).regs.getD 1 0 == 1) = true ∧
    ok (exec (.sstat 0 1 7) up) (fun u => (u.tile 0).regs.getD 1 9 == 0) = true := by decide
theorem test_sstat_reserved : ok (exec (.sstat 0 1 8) up) (fun u => (u.die 0).faultQ.length == 1 && (u.tile 0).regs.getD 1 9 == 0) = true := by
  decide
theorem test_orders : ok (exec (.orel 0 5) up) (fun u => (slotAt u).ip == 1) = true ∧
    ok (exec (.oacq 0 0) up) (fun u => (slotAt u).ip == 1) = true ∧ ok (exec (.ofull 0 5) up) (fun u => (slotAt u).ip == 1) = true := by decide
theorem test_orders_reserved : ok (exec (.ofull 0 6) up) (fun u => (u.die 0).faultQ.length == 1) = true := by decide
theorem test_signal : up.held .tile 0 = false ∧ up.partOfTile 1 = up.partOfTile 0 ∧ ok (exec (.signal 0 4 false 1 255) up)
    (fun u => u.fly == [⟨0, 1, 4, 255⟩] && (slotAt u).ip == 1) = true := by decide
theorem test_signal_arrives : ok (exec (.signalArrival 0) { up with fly := [⟨0, 1, 4, 255⟩] })
    (fun u => u.fly == [] && (u.tile 1).tokens.getD 4 0 == 255) = true := by decide
/-- R193: a counter that would pass 65,535 stays there, and the tile faults with code 0x04. -/
theorem test_signal_overflows : ok (exec (.signalArrival 0) ({ up with fly := [⟨0, 0, 4, 2⟩] }.modTile 0 fun x =>
    { x with tokens := x.tokens.set 4 65534 })) (fun u => (u.tile 0).tokens.getD 4 0 == 65535 && (u.die 0).faultQ.length == 1) = true := by
  decide

/-! The array. Instructions are read from words of Tables 03-9, 05-1 and 08-4. -/

/-- The state after a command. -/
def after (i : Instr) (s : State) : State :=
  match exec i s with
  | .next u => u
  | .fault _ => s
  | .refused _ => s

/-- MMA of one step, BF16 by BF16, set 1 (Table 03-9: FMT_A, FMT_B, S, SET, B_BASE). -/
def mma1 : MmaF := mmaOf (1 * 2 ^ 8 + 1 * 2 ^ 12 + 1 * 2 ^ 32 + 1 * 2 ^ 44 + 8 * 2 ^ 80)
def info0 : Info := ⟨0, 0, 0, 1, 7, 9, 255, 0, 0, 1⟩
def one : List Byte := [0, 0, 0x80, 0x3F]
def times (n : Nat) (l : List Byte) : List Byte := (List.replicate n l).flatten
/-- A scale set of ones (Table 03-3). -/
def setBytes : List Byte := times 2 one ++ List.replicate 56 0 ++ times 32 one ++ List.replicate 64 0
def upSet : State := up.sramWrite 0 1024 setBytes

theorem test_mma : mmaBad mma1 = false ∧ (mma1.sig && mma1.cont) = false ∧ (up.tile 0).spansBreach slot0 (mmaSpans mma1 0) = none ∧
    mma1.accIn = false ∧
    (((up.tile 0).arr.f ++ (up.tile 0).arr.g).any fun p => (up.tile 0).arr.nextSlice ≤ p) = true ∧
    ok (exec (.mma 0 mma1) up) (fun u => (u.tile 0).arr.mmas.length == 1 && (slotAt u).ip == 1 && (u.tile 0).track.length == 2) = true := by
  decide +kernel
theorem test_mma_acc : (up.tile 0).arr.openBlk = false ∧ up.sramBadIn 0 (1008 * 64) 1024 = none ∧
    ok (exec (.mma 0 { mma1 with accIn := true, cBase := 1008 }) up)
      (fun u => (u.tile 0).arr.mmas.length == 1 && (u.tile 0).track.length == 3) = true := by decide +kernel
theorem test_mscl : (upSet.tile 0).arr.setBusy 15 = false ∧ setOk (upSet.sramRead 0 1024 256) = true ∧
    ok (exec (.mscl 0 15 16) upSet) (fun u => (u.tile 0).arr.sets.getD 15 ⟨0, 0, [], []⟩ == ScaleSet.ones) = true := by decide +kernel
/-- MFLAG with CLR reads the flags and clears them (R71). -/
theorem test_mflag : ok (exec (.mflag 0 2 true) (up.modTile 0 fun x => { x with arr := { x.arr with mflags := 5 } }))
    (fun u => (u.tile 0).regs.getD 2 0 == 5 && (u.tile 0).arr.mflags == 0) = true := by decide +kernel

/-- The array with the block of mma1 begun. -/
def begun : State := after (.mma 0 mma1) up
theorem test_feeder : (begun.tile 0).arrQ = [] ∧ ((begun.tile 0).arr.nextFeed false 0).isSome = true ∧
    (begun.tile 0).arr.linkRoom false 0 = true ∧ feedBc false mma1 = false ∧ (begun.die 0).energy.calibrated = false ∧
    ok (exec (.feederDeliver 0 false 0 none) begun) (fun u => (u.tile 0).arr.f.getD 0 0 == 1 && (u.tile 0).arr.g.getD 0 0 == 0) = true := by
  decide +kernel
theorem test_feeder_last : ok (exec (.feederDeliver 0 true 15 none) begun) (fun u => (u.tile 0).arr.g.getD 15 0 == 1) = true := by
  decide +kernel
/-- A splice MMA reads its rows from the splice buffer (R98, R99). -/
def spliced : State := after (.mma 0 { mma1 with splice := true }) up
theorem test_feeder_splice : ((spliced.tile 0).arr.nextFeed false 15).isSome = true ∧ (spliced.tile 0).arr.linkRoom false 15 = true ∧
    ok (exec (.feederDeliver 0 false 15 none) spliced)
      (fun u => (u.tile 0).arr.linkA.getD 15 [] == [⟨List.replicate 32 0, []⟩]) = true := by decide +kernel
def fed : State := after (.feederDeliver 0 true 15 none) (after (.feederDeliver 0 false 15 none) begun)
/-- The product of zeros is zero (R64). -/
theorem test_dpu : ((fed.tile 0).arr.mmaAt ((fed.tile 0).arr.c.getD 255 0)).isSome = true ∧
    ok (exec (.dpuAccumulate 0 15 15 none) fed)
      (fun u => (u.tile 0).arr.c.getD 255 0 == 1 && (u.tile 0).arr.c.getD 254 0 == 0 && (u.tile 0).arr.mflags == 0) = true := by decide +kernel
theorem test_scale_set_load : ok (exec (.scaleSetLoad 0) ((withTile fun x => { x with arrQ := [⟨info0, .mscl 1 16 true⟩] }).sramWrite 0 1024 setBytes))
    (fun u => (u.tile 0).arrQ == [] && (u.tile 0).arr.sets.getD 1 ⟨0, 0, [], []⟩ == ScaleSet.ones) = true := by decide +kernel
/-- The array with every slice of the block accumulated. -/
def summed : State := begun.modTile 0 fun x => { x with
  arr := { x.arr with f := List.replicate 16 1, g := List.replicate 16 1, c := List.replicate 256 1 } }
theorem test_drain : ((summed.tile 0).arr.blocks.find? fun x => x.n == 0).isSome = true ∧
    ok (exec (.columnDrain 0 15) summed) (fun u => (u.tile 0).arr.drained.getD 15 0 == 1 && (u.tile 0).arr.drained.getD 0 0 == 0 &&
      (u.tile 0).arr.blocks.all fun b => b.alloc) = true := by decide +kernel
/-- The same with every column drained. -/
def drainedBlk (dest : Bool) : State := summed.modTile 0 fun x => { x with
  arr := { x.arr with drained := List.replicate 16 1, blocks := x.arr.blocks.map fun b => { b with dest := dest, alloc := true } } }
theorem test_handoff : ((drainedBlk false).tile 0).arr.ready false ≠ none ∧ ok (exec (.queueHandoff 0) (drainedBlk false))
    (fun u => (u.tile 0).arr.queue.length == 1 && (u.tile 0).arr.blocks == []) = true := by decide +kernel
theorem test_panel_write : ((drainedBlk true).tile 0).arr.ready true ≠ none ∧ ok (exec (.splicePanelWrite 0) (drainedBlk true))
    (fun u => (u.tile 0).arr.queue == [] && (u.tile 0).arr.blocks == []) = true := by decide +kernel
theorem test_entry_free : ok (exec (.queueEntryFree 0) (withTile fun x => { x with
    arr := { x.arr with queue := [⟨0, info0, [], true, some 3, true⟩] } })) (fun u => (u.tile 0).arr.queue == []) = true := by decide +kernel

/-! The vector engine. -/

def vf : VecF := vecOf 0
/-- Every vector instruction but VSET, each with operands its row of Table 05-3 allows. -/
def vecs : List (Instr × VKind × VecF) :=
  let go := fun (mk : VecF → Instr) (k : VKind) (f : VecF) => (mk f, k, f)
  [go (.vld 0 · none) .vld vf, go (.vst 0 ·) .vst vf, go (.vpop 0 ·) .vpop vf, go (.valu 0 ·) .valu vf,
    go (.vfnOp 0 ·) .vfn { vf with sub := 2 }, go (.vred 0 ·) .vred vf, go (.vsmx 0 ·) .vsmx vf, go (.vperm 0 ·) .vperm vf,
    go (.vshuf 0 ·) .vshuf vf, go (.vpack 0 ·) .vpack { vf with fmt := 1 }, go (.vunpk 0 ·) .vunpk { vf with fmt2 := 1 },
    go (.vqk4 0 ·) .vqk4 { vf with fmt := 5 }, go (.vmxiImport 0 · .e4m3) (.vmxiImport .e4m3) { vf with fmt2 := 3, fmt := 3 },
    go (.vmxiScan 0 ·) .vmxiScan vf, go (.vrng 0 ·) .vrng vf, go (.vmask 0 ·) .vmask vf, go (.vlossAdd 0 ·) .vlossAdd vf,
    go (.vlossDump 0 ·) .vlossDump vf, go (.vtree 0 ·) .vtree vf, go (.vscmp 0 ·) .vscmp vf, go (.vamax 0 ·) .vamax vf,
    go (.vflag 0 ·) .vflag vf, go (.vsetSeqtab 0 ·) .vsetSeqtab { vf with sub := 2 }]
/-- up with an entry in the finished-tile queue, and a sequence table of one entry in SRAM. -/
def upV : State := (up.modTile 0 fun x => { x with arr := { x.arr with
  queue := [⟨0, { info0 with id := 5 }, List.replicate 256 0x3F800000, true, none, false⟩] } }).sramWrite 0 0 [1]

theorem ready_upV : Safety.Ready upV 0 0 slot0 :=
  ⟨by decide, by decide, by decide, by decide, by decide, by decide, ⟨by decide, by decide, by decide, by decide, by decide⟩,
    by decide, by decide⟩

def isRes : VOut → Bool
  | .res _ => true
  | .breach _ _ => false

/-- The conditions of a vector instruction's issue and beginning on upV. -/
def vMeets (e : Instr × VKind × VecF) : Bool :=
  let q : VItem := ⟨Safety.infoAt upV 0 0 slot0, e.2.1, e.2.2, vAddr e.2.1 e.2.2 0⟩
  let sp := vSpans e.2.1 e.2.2 q.addr
  vWellFormed q && ((upV.tile 0).spansBreach slot0 sp).isNone && ((upV.tile 0).recompHit sp).isNone &&
    (upV.tile 0).arr.headEntry.isSome && sp.all (fun x => (upV.sramBadIn 0 x.at_ x.len).isNone) && isRes (vCompute (upV.vEnv 0 q) q)

theorem test_vector_conditions : upV.held .tile 0 = false ∧ vecs.all vMeets = true := by decide +kernel
theorem test_vector_begins : vecs.all (fun e => ok (exec e.1 upV) fun u =>
    (u.tile 0).vxe.inflight.length == 1 && (slotAt u).ip == 1 && (u.tile 0).vxe.regs == (upV.tile 0).vxe.regs) = true := by decide +kernel
/-- R135: VSET STEP takes XA modulo 2^32; R134: VETO_MASK keeps its forced bits. -/
theorem test_vset_step : ok (exec (.vsetStep 0 { vf with xa := 1 }) (up.modTile 0 fun x => { x with regs := x.regs.set 1 0x100000005 }))
    (fun u => (u.tile 0).vxe.step == 5) = true := by decide
theorem test_vset_veto : ok (exec (.vsetVetoMask 0 { vf with sub := 1 }) up) (fun u => (u.tile 0).vxe.veto == 0x1C0043) = true := by decide

def res0 : VRes := ⟨info0, [(31, 5)], [(15, 6)], [], 2, some (15, 7), [], none, some 15⟩
/-- R118: registers, scalar, flags, amax and token are written together. -/
theorem test_result : (∀ e ∈ (withTile fun x => { x with vxe := { x.vxe with inflight := [res0] } }).sram, e.1 = 0) ∧
    ok (exec (.vxeResultWrite 0 0) (withTile fun x => { x with vxe := { x.vxe with inflight := [res0] } }))
      (fun u => (u.tile 0).vxe.regs.getD 31 0 == 5 && (u.tile 0).regs.getD 15 0 == 6 && (u.tile 0).vxe.tileFlags == 2 &&
        (u.tile 0).vxe.amax.getD 15 0 == 7 && (u.tile 0).tokens.getD 15 0 == 1 && (u.tile 0).vxe.inflight == []) = true := by decide +kernel
/-- A store writes its bytes and no other. -/
theorem test_result_store : ok (exec (.vxeResultWrite 0 0) (withTile fun x => { x with
    vxe := { x.vxe with inflight := [{ res0 with sram := [(2 ^ 21 - 2, [8, 9])], sig := none }] } }))
    (fun u => u.sramRead 0 (2 ^ 21 - 2) 2 == [8, 9] && u.sramRead 0 (2 ^ 21 - 3) 1 == [0] && u.sramRead 1 0 1 == [0]) = true := by decide +kernel

/-- An environment of the engine: register n holds n ones, words 1.0 in R1, 2.0 in R2. -/
def env0 : VEnv := (upV.vEnv 0 ⟨info0, .valu, vf, 0⟩)
def lanes (v : Nat) : VReg := vOfLanes 32 (List.replicate 64 v)
def envOf (f : Nat → VReg) : VEnv := { env0 with reg := f }
def firstReg (o : VOut) : Nat × VReg :=
  match o with
  | .res r => r.regs.headD (99, 0)
  | .breach _ _ => (98, 0)
/-- 1.0 + 2.0 = 3.0 in every lane (R119). -/
theorem test_valu_add : firstReg (vCompute (envOf fun n => if n = 1 then lanes 0x3F800000 else lanes 0x40000000)
    ⟨info0, .valu, { vf with vd := 4, va := 1, vb := 2 }, 0⟩) = (4, lanes 0x40400000) := by decide +kernel
/-- The head entry's layer and op go to XA (R133). -/
theorem test_vpop : (match vCompute { env0 with entry := some ⟨0, info0, List.replicate 256 5, true, none, false⟩ } ⟨info0, .vpop, vf, 0⟩ with
    | .res r => r.scal == [(0, 7 + 9 * 65536)] && r.regs.map Prod.fst == [0, 1, 2, 3]
    | .breach _ _ => false) = true := by decide +kernel
theorem test_vld_vst : firstReg (vCompute { env0 with ram := fun _ n => List.replicate n 1 } ⟨info0, .vld, vf, 64⟩) =
      (0, vOfLanes 8 (List.replicate 256 1)) ∧
    (match vCompute (envOf fun _ => 7) ⟨info0, .vst, vf, 64⟩ with
      | .res r => r.sram == [(64, 7 :: List.replicate 255 0)]
      | .breach _ _ => false) = true := by decide +kernel
theorem test_vamax_vflag : (match vCompute { env0 with amax := [3] } ⟨info0, .vamax, vf, 0⟩ with
      | .res r => r.scal == [(0, 3)]
      | .breach _ _ => false) = true ∧
    (match vCompute { env0 with tileFl := 4, strandFl := 2 } ⟨info0, .vflag, { vf with sub := 1 }, 0⟩ with
      | .res r => r.scal == [(0, 4)]
      | .breach _ _ => false) = true := by decide +kernel
/-- R125: index bit 6 selects the second source in FP32, bit 7 in 16-bit formats. -/
theorem test_vperm : firstReg (vCompute (envOf fun n => if n = 2 then lanes 64 else if n = 3 then lanes 9 else lanes 5)
      ⟨info0, .vperm, { vf with va := 1, vb := 2, vc := 3 }, 0⟩) = (0, lanes 9) ∧
    firstReg (vCompute (envOf fun n => if n = 2 then 127 else if n = 3 then lanes 9 else vOfLanes 16 (List.range 128))
      ⟨info0, .vperm, { vf with va := 1, vb := 2, vc := 3, fmt := 1 }, 0⟩) = (0, 127) := by decide +kernel
/-- R142: a causal mask keeps k ≤ q; WINDOW needs an IMM. -/
theorem test_vmask : (match vCompute (envOf fun _ => lanes 5) ⟨info0, .vmask, { vf with sub := 1 }, 0⟩ with
      | .res r => (vLanes ((r.regs.map Prod.snd).getD 0 0) 32).take 3 == [5, 0xFF800000, 0xFF800000] &&
          (vLanes ((r.regs.map Prod.snd).getD 3 0) 32).drop 48 == List.replicate 16 5
      | .breach _ _ => false) = true ∧ vFmtOk .vmask { vf with sub := 4 } = false := by decide +kernel

/-! The porter and the strands. -/

/-- 4 KiB of stack 0 at offset 0x1000 (Table 08-2). -/
def alloc0 (mode : Nat) : Alloc := ⟨⟨0x1000, 0x1000, mode, 0, false, false, false, 0, 3⟩, 0x10000, 0, false⟩
def upMap : State := { up with allocs := [alloc0 0] }

/-- One line from offset 0x1000 to SRAM line 1 (Table 08-4: LBASE, LEN, ADDR). -/
def pf : PorF := porOf (1 * 2 ^ 8 + 1 * 2 ^ 23 + 0x1000 * 2 ^ 64)
def pors : List (Instr × PKind × PorF) :=
  [(.prd 0 pf, .prd, pf), (.pwr 0 pf, .pwr, pf), (.pland 0 pf, .pland, pf), (.pgath 0 { pf with xre := true }, .pgath, { pf with xre := true }),
    (.pscat 0 { pf with xre := true }, .pscat, { pf with xre := true }), (.pamo 0 { pf with sub := 14 }, .pamo, { pf with sub := 14 })]
theorem test_porter_conditions : pors.all (fun e => !porBad e.2.1 e.2.2 &&
    ((up.tile 0).spansBreach slot0 (porSpans e.2.1 e.2.2 (porIdx e.2.1 0))).isNone) = true := by decide
/-- An idle porter begins at once (R234). -/
theorem test_porter_issue : pors.all (fun e => ok (exec e.1 upMap) fun u =>
    (u.tile 0).porQ == [] && (u.tile 0).ops.length == 1 && (slotAt u).ip == 1) = true := by decide +kernel
def rf : ReefPutF := reefOf (1 * 2 ^ 8 + 1 * 2 ^ 23)
/-- The tile's die holds no bucket and no group: both breach the contract (R323). -/
theorem test_reef_issue : ((up.tile 0).spansBreach slot0 [⟨rf.lbase * 64, 64 * rf.len, false⟩]) = none ∧
    ok (exec (.reefPut 0 rf) up) (fun u => (u.die 0).faultQ.length == 1) = true ∧
    ok (exec (.reefClose 0 11 0 false) up) (fun u => (u.die 0).faultQ.length == 1) = true := by decide +kernel

def por0 (kind : PKind) (scope : Nat) : PorOp := PorOp.new info0 kind { pf with scope := scope } 0 0
def withPor (kind : PKind) (scope : Nat) : State := withTile fun x => { x with porQ := [por0 kind scope] }
theorem test_porter_begins : ((withPor .prd 0).tile 0).blocked 0 (porSpans .prd pf 0) = false ∧ (por0 .prd 0).isRelease = false ∧
    porBreach (withPor .prd 0) 0 { por0 .prd 0 with begun := true } = none ∧ ((withPor .prd 0).tile 0).recompHit (porSpans .prd pf 0) = none ∧
    ((withPor .prd 0).porBegin 0).isSome = true := by decide
/-- R269: a release write waits for RELEASE_BEGIN, which waits for the earlier writes of the strand. -/
theorem test_release_begins : (por0 .pwr 5).isRelease = true ∧ (withPor .pwr 5).porBegin 0 = none ∧
    (withPor .pwr 5).released 5 0 1 0 = true ∧
    ok (exec (.releaseBegin 0 0) (withPor .pwr 5)) (fun u => (u.tile 0).ops.length == 1) = true := by decide +kernel
def withOld : State := withTile fun x => { x with
  porQ := [{ por0 .pwr 5 with info := { info0 with id := 3 } }], ops := [{ por0 .pwr 0 with begun := true }] }
theorem test_release_waits : withOld.released 5 0 1 3 = false ∧
    ok (exec (.releaseBegin 0 3) withOld) (fun u => u == withOld) = true := by decide +kernel

def line7 : List Byte := List.replicate 64 7
/-- R234: the data of a PRD land in tile SRAM when its last request completes. -/
theorem test_answer_lands : ok (exec (.porterRequestComplete 0 0 0 .stored) (withTile fun x => { x with
    ops := [{ por0 .prd 0 with begun := true, next := 1, resps := [⟨0, .ok, line7, none⟩] }] }))
    (fun u => u.sramRead 0 64 64 == line7 && u.sramRead 0 63 1 == [0] && u.sramRead 0 128 1 == [0] && (u.tile 0).ops == []) = true := by
  decide +kernel
def frozen0 (s : State) : State := { s with geodes := { Geode.init with frozen := true, phase := .writing } :: List.replicate 3 Geode.init }
theorem test_answer_held : (frozen0 up).takesReturns 0 = false ∧
    ok (exec (.porterRequestComplete 0 0 0 .stored) (frozen0 up)) (fun u => u == frozen0 up) = true := by decide +kernel

def launchable (d : Desc) : State := withTile fun x => { x with table := [d], launched := true, tokens := x.tokens.set 15 1 }
theorem test_launch : ((launchable desc0).tile 0).nextDesc = some desc0 ∧ freeSlot ((launchable desc0).tile 0).slots = some 0 ∧
    ok (exec (.strandLaunch 0) (launchable desc0)) (fun u => (slotAt u).phase == .issuing && (slotAt u).late == 0) = true := by decide
/-- R189: a token launch consumes one of each counter of WAIT_MASK. -/
theorem test_launch_tokens : ok (exec (.strandLaunch 0) (launchable { desc0 with lmode := 2, waitMask := 0x8000 }))
    (fun u => (u.tile 0).tokens.getD 15 9 == 0 && (slotAt u).desc.lmode == 2) = true := by decide
theorem test_complete : ((withSlot { slot0 with phase := .retiring }).tile 0).quiet 1 0 = true ∧
    ok (exec (.strandComplete 0 0) (withSlot { slot0 with phase := .retiring })) (fun u => (u.tile 0).slots.all Option.isNone) = true := by
  decide
theorem test_reexecution : ok (exec (.reexecution 0 3) (withTile fun x => { x with
    slots := [none, none, none, some { slot0 with phase := .reissue, ip := 9, flags := 3 }] }))
    (fun u => ((u.tile 0).slots.getD 3 none).any fun z => z.ip == 0 && z.tries == 1 && z.flags == 0 && z.phase == .issuing) = true := by decide
/-- R191: the limit is passed when more than WDOG_BEATS beats have gone since its start. -/
def atBeat (b : Nat) : State :=
  { withSlot { slot0 with desc := { desc0 with wdog := 5 } } with regions := List.replicate 32 { Region.init with awake := true, beat := b } }
theorem test_watchdog : limitPassed ((atBeat 6).localBeat 0) 0 5 = true ∧
    ok (exec (.strandWatchdog 0 0) (atBeat 6)) (fun u => (slotAt u).barked && (u.die 0).faultQ.length == 1) = true := by decide
theorem test_watchdog_early : limitPassed ((atBeat 5).localBeat 0) 0 5 = false ∧
    ok (exec (.strandWatchdog 0 0) (atBeat 5)) (fun u => u == atBeat 5) = true := by decide +kernel

/-! Memory. -/

def hreq (k : HomeKind) (cls : Nat) : HomeReq := ⟨.tile 0 0 0, 0x1040, k, cls, false, 0, false, 0, 0, 0, 0, [], 0⟩
def atHome (q : HomeReq) : State := { base with
  allocs := [alloc0 0], stks := List.replicate 20 { Stack.init with training := false }
  dies := { Die.init with slices := List.replicate 16 ⟨[], 0, [0, 0, 0, 0]⟩ } ::
    List.replicate 3 Die.init }.modDie 0 fun x => { x with slices := x.slices.set 15 ⟨[q], 0, [0, 0, 0, 0]⟩ }
theorem test_slice_serves : (atHome (hreq .readLine 4)).reqReady (hreq .readLine 4) = true ∧
    ((atHome (hreq .readLine 4)).allocOfReq (hreq .readLine 4)).isSome = true ∧
    ok (exec (.homeSliceOperation 0 15 false) (atHome (hreq .readLine 4)))
      (fun u => ((u.die 0).slices.getD 15 ⟨[], 0, []⟩).waiting == []) = true := by decide +kernel
theorem test_slice_unmapped : ({ atHome (hreq .readLine 1) with allocs := [] }).allocOfReq (hreq .readLine 1) = none ∧
    ok (exec (.homeSliceOperation 0 15 false) { atHome (hreq .readLine 1) with allocs := [] })
      (fun u => ((u.die 0).slices.getD 15 ⟨[], 0, []⟩).waiting == []) = true := by decide +kernel
/-- R259: a full line write is read back whole; an item write changes its 32 bytes; an atomic adds. -/
def homeS : State := atHome (hreq .readLine 1)
def homeKey : Nat := physKey (place (alloc0 0) 0x1040) / 64
def lineAfter (k : HomeKind) : List Byte := (homeS.homeApply (alloc0 0) (hreq k 1) false).s.lineRead 0 homeKey
theorem test_home_conditions : (place (alloc0 0) 0x1040).1 / 5 = 0 ∧ (homeS.stk (place (alloc0 0) 0x1040).1).lost = false ∧
    homeS.linePoison 0 homeKey = false ∧ (homeS.lineRead 0 homeKey).length = 64 := by decide +kernel
theorem test_home_read : (homeS.homeApply (alloc0 0) (hreq .readLine 1) false).data = List.replicate 64 0 := by decide +kernel
theorem test_home_write : lineAfter (.writeLine (2 ^ 64 - 1) line7) = line7 := by decide +kernel
theorem test_home_item : lineAfter (.writeItem (List.replicate 32 9)) = List.replicate 32 9 ++ List.replicate 32 0 := by decide +kernel
theorem test_home_atomic : lineAfter (.atomic 0 true [5, 0, 0, 0]) = 5 :: List.replicate 63 0 := by decide +kernel
def cached0 (dirty : Bool) : State := homeS.modDie 0 fun x => { x with cache := [⟨3, 0, if dirty then line7 else List.replicate 64 0, dirty, false, none⟩] }
theorem test_evict : (cached0 true).cached 0 3 = some ⟨3, 0, line7, true, false, none⟩ ∧
    ok (exec (.cacheEvict 0 3) (cached0 true)) (fun u => u.cached 0 3 == none && cellsRead u.hbm 192 64 == line7) = true := by decide +kernel
theorem test_evict_clean : ok (exec (.cacheEvict 0 3) (cached0 false)) (fun u => u.cached 0 3 == none && u.hbm == []) = true := by
  decide +kernel
theorem test_scrub : (∀ al ∈ homeS.allocs, al.e.crc = false) ∧ ok (exec (.scrubBlock 3 0x1000) homeS) (fun u => u == homeS) = true := by
  decide +kernel

/-- A line request to tile 0's SRAM at 0x40 (R197, R256), from another porter. -/
def tileReq (k : HomeKind) : HomeReq := ⟨.tile 1 0 0, sramWin + 0x40, k, 4, false, 0, false, 0, 0, 0, 0, [], 0⟩
def withTileReq (k : HomeKind) : State := { base with tileReqs := [(0, tileReq k)] }
theorem test_tile_write : Safety.Memory.wf (withTileReq (.writeLine (2 ^ 64 - 1) line7)) = true ∧ base.held .tile 0 = false ∧
    (base.region 0).fenced = false ∧ aOfOff (sramWin + 0x40) = 0x40 ∧ line7.length = 64 ∧
    ok (exec (.tileSramLineRequest 0 none) (withTileReq (.writeLine (2 ^ 64 - 1) line7)))
      (fun u => u.sramRead 0 0x40 64 == line7 && u.sramRead 0 0x3F 1 == [0] && u.sramRead 0 0x80 1 == [0] && u.tileReqs == []) = true := by
  decide +kernel
theorem test_tile_read : (withTileReq .readLine).sramBadIn 0 0x40 64 = none ∧
    ok (exec (.tileSramLineRequest 0 none) (withTileReq .readLine)) (fun u => u.tileReqs == [] && u.sram == []) = true := by decide +kernel
/-- A flag line for tile 12's SRAM at its last line (R237, R262). -/
def flag0 : FlagLine := ⟨.tile 0 0 0, sramWin + 12 * 2 ^ 21 + 2 ^ 21 - 64, line7, 15, 3, false, 0, 0, 0, 0, 0, 0, 0, none⟩
def withFlag : State := base.modDie 0 fun d => { d with flags := [flag0] }
theorem test_flag : withFlag.flagReady flag0 = true ∧ withFlag.flagPlaceReady flag0 = true ∧ isTileSram flag0.off = true ∧
    tileOfOff flag0.off = 12 ∧ aOfOff flag0.off = 2 ^ 21 - 64 ∧ (withFlag.region 1).fenced = false ∧
    ok (exec (.flagLand 0 0) withFlag)
      (fun u => u.sramRead 12 (2 ^ 21 - 64) 64 == line7 && (u.tile 12).tokens.getD 15 0 == 3 && (u.die 0).flags == []) = true := by
  decide +kernel

/-! Lanyard's and the Hitch's registers. -/

theorem test_not_owned : ok (exec (.lnyTrimWrite false 1) base) (fun u => u.lny == base.lny && u.errs != base.errs) = true ∧
    ok (exec (.controlRegisterWrite false 0x10010 8 1) base) (fun u => u.lny == base.lny && u.errs != base.errs) = true := by decide +kernel
theorem test_timer_write : ok (exec (.controlRegisterWrite false 0x100B8 8 77) base)
    (fun u => u.lny.tmr == [0, 0, 0, 0, 0, 0, 0, 77] && bit u.lny.tmrArmed 7) = true := by decide +kernel
theorem test_trim : ok (exec (.lnyTrimWrite true 0x7FFFFFFF) base) (fun u => u.lny.trim == 2 ^ 28) = true ∧
    ok (exec (.lnyTrimWrite true 0xFFFFFFFF) base) (fun u => u.lny.trim == -1) = true := by decide +kernel
theorem test_adj : ok (exec (.lnyAdjWrite true 0xFFFF0001) base) (fun u => u.lny.adjRemain == -65535) = true ∧
    ok (exec (.lnyAdjWrite true 0xFFFF0000) base) (fun u => u.lny.adjRemain == 0 && u.lny.adjRefused) = true := by decide +kernel
def lockedAt (n : Nat) : State := { base with lny := { base.lny with now := n, locked := true } }
def image0 : Image := ⟨1, 0, 10, 1, 0, 0, [], [], [], [], [], [], [], []⟩
/-- base with a program bound to partition 0. -/
def bound : State := base.modPart 0 fun p => { p with bound := some image0, images := [image0] }
theorem test_set : base.anyBound = false ∧ bound.anyBound = true ∧
    ok (exec (.lnySetWrite true 100) (lockedAt 100)) (fun u => u.lny.now == 100 && u.lny.locked) = true ∧
    ok (exec (.lnySetWrite true 99) (lockedAt 100)) (fun u => u.lny.now == 100 && u.lny.setRefused) = true := by decide +kernel
theorem test_shift : ok (exec (.hchCtrlWrite true 20) base) (fun u => u.lny.shift == 20) = true ∧
    ok (exec (.hchCtrlWrite true 20) bound) (fun u => u.lny == bound.lny && u.errs != bound.errs) = true := by decide +kernel
theorem test_narrow : ok (exec (.controlRegisterWrite true 0x10018 4 1) base) (fun u => u.lny.trim == 0 && u.errs != base.errs) = true ∧
    ok (exec (.controlRegisterWrite true 0x70000 8 1) base) (fun u => u.errs != base.errs) = true := by decide +kernel

/-! The error status block, mailboxes and reads. -/

def ev0 : EvRec := ⟨3, 0, 0x0500, 9, 0, 0, 0⟩
/-- A ring with n records from index 0. -/
def ring (n : Nat) : State := { base with errs := base.errs.set 4 { ErrPage.init with head := n, irqEn := true } }
theorem test_ring : ((ring 31).page 4).full = false ∧ ((ring 32).page 4).full = true ∧ ((ring 31).page 4).recs.length = 32 ∧
    (((ring 31).postPage 4 ev0).page 4).recs.getD 31 EvRec.zero = ev0 ∧ ((ring 31).postPage 4 ev0).irqs = [40] ∧
    (((ring 32).postPage 4 ev0).page 4).dropped = 1 ∧ (((ring 32).postPage 4 ev0).page 4).head = 32 := by decide +kernel
theorem test_tail : ok (exec (.errTailWrite 4 32) (ring 32)) (fun u => (u.page 4).tail == 32) = true ∧
    ok (exec (.errTailWrite 4 33) (ring 32)) (fun u => (u.page 4).tail == 0) = true := by decide +kernel
def given (n : Nat) : State := base.modMbx n fun m => { m with owner := true }
theorem test_handover : ok (exec (.mbxHandover 63 0x70001) base) (fun u => (u.mbx 63).owner && (u.mbx 63).seq == 7 && !(u.mbx 62).owner) = true ∧
    ok (exec (.mbxHandover 63 0x70001) (given 63)) (fun u => (u.mbx 63).seq == 0 && u.errs != base.errs) = true := by decide +kernel
/-- R480: a full read of the drop count clears it; a half read does not. -/
def dropped5 : State := { base with errs := base.errs.set 2 { ErrPage.init with overflow := true, dropped := 5, faultDrop := 6 } }
theorem test_status_read : ok (exec (.errStatusRead 2 .full) dropped5) (fun u => (u.page 2).dropped == 0) = true ∧
    ok (exec (.errStatusRead 2 .upper) dropped5) (fun u => (u.page 2).dropped == 5) = true := by decide +kernel
theorem test_faultq_read : ok (exec (.errFaultqRead 2 .full) dropped5) (fun u => (u.page 2).faultDrop == 0) = true ∧
    ok (exec (.errFaultqRead 0 .full) dropped5) (fun u => u.coreAns == some ⟨0, false⟩ && u.errs == dropped5.errs) = true := by decide +kernel
def counted9 : State := base.modDie 3 fun d => { d with scopeCnt := 9 }
theorem test_scope_read : ok (exec (.errScopeCntRead 3 .full) counted9) (fun u => (u.die 3).scopeCnt == 0) = true ∧
    ok (exec (.errScopeCntRead 3 .lower) counted9) (fun u => (u.die 3).scopeCnt == 9) = true := by decide +kernel
theorem test_inrush_read : ok (exec (.pwrInrushRead .full) (base.modPower fun w => { w with deferrals := 8 }))
    (fun u => u.power.deferrals == 0) = true := by decide +kernel
theorem test_strata_read : monExists 4 63 = true ∧ monExists 4 64 = false ∧
    ok (exec (.strStatRead 4 63 .lower) base) (fun u => u.spineMons == base.spineMons) = true := by decide +kernel
theorem test_amber_read : base.standby.amberBad = [] ∧
    ok (exec (.amberRamRead 0xFFF8 .full false) { base with standby := { base.standby with amber := [(0xFFF9, 1)] } })
      (fun u => u.coreAns.isSome && u.free == 1) = true := by decide +kernel

/-! Time. -/

def atNow (n : Nat) : State := { base with lny := { base.lny with now := n } }
theorem test_pulse : (atNow 2048).beatNow = 2 ∧ (atNow 2048).lny.beat = 0 ∧
    ok (exec .hitchPulse (atNow 2048)) (fun u => u.lny.beat == 2 && (u.region 31).beat == 2) = true := by decide +kernel
theorem test_hitch_delays : ok (exec (.hitchCalibration (List.range 32)) base) (fun u => (u.region 31).delay == 31) = true := by decide +kernel
def slewing (n : Int) : State := { base with lny := { base.lny with now := 50, adjRemain := n, slewCycles := 4096 } }
theorem test_slew : ok (exec .lnySlewStep (slewing 2)) (fun u => u.lny.now == 51 && u.lny.adjRemain == 1) = true ∧
    ok (exec .lnySlewStep (slewing (-2))) (fun u => u.lny.skip && u.lny.now == 50 && u.lny.adjRemain == -1) = true := by decide +kernel
def timed (n : Nat) : State := { base with lny := { base.lny with now := n, tmr := base.lny.tmr.set 7 5, tmrEn := 128, tmrArmed := 128 } }
theorem test_timer : ok (exec (.timerFire 7) (timed 5)) (fun u => u.lny.tmrFired == 128 && u.irqs == [55] && u.lny.tmrArmed == 0) = true ∧
    ok (exec (.timerFire 7) (timed 4)) (fun u => u == timed 4) = true := by decide +kernel
theorem test_refclk : ok (exec .refclkStop base) (fun u => !u.lny.refclk) = true ∧
    ok (exec .refclkRestart { base with lny := { base.lny with refclk := false } }) (fun u => u.lny.refclk && u.lny.holdover) = true := by
  decide +kernel

def srcIs (n : Nat) : State := { base with lny := { base.lny with src := n, domain := 3, holdover := true, now := 2 ^ 30 } }
/-- A Sync of sequence 8 and a Delay_Req of sequence 9 have passed. -/
def exch : State := (srcIs 1).modLny fun l => { l with ptpSync := some (8, some 1, 2), ptpDelay := some (9, 3) }
theorem test_ptp_stamp : ok (exec (.ptpMessage (.sync 3 1 7 false)) exch) (fun u => u.lny.ptpWait.length == 1 && u.lny.holdover) = true := by
  decide +kernel
theorem test_ptp_delivered : exch.lny.src = 1 ∧ exch.lny.domain = 3 ∧ exch.lny.ptpSync = some (8, some 1, 2) ∧
    exch.lny.ptpDelay = some (9, 3) := by decide +kernel
theorem test_ptp_other_domain : exch.ptpTake (.delayResp 2 9 4) 0 = exch ∧ (srcIs 2).ptpTake (.sync 3 8 1 true) 0 = srcIs 2 := by decide +kernel
def ppsAt (t : Nat) : State := { srcIs 3 with lny := { (srcIs 3).lny with ppsSeen := true, ppsTs := t } }
theorem test_pps : (ppsAt (2 ^ 30 - 500000000)).lny.ppsTs + 500000000 ≤ (ppsAt (2 ^ 30 - 500000000)).lny.now := by decide
theorem test_pps_early : ok (exec .ppsEdge (ppsAt (2 ^ 30 - 499999999))) (fun u => u.lny.ppsIgnored == 1 && u.lny.ppsTs != 2 ^ 30) = true := by
  decide +kernel
/-- R158: the third interval without a correction ends; the first millisecond of holdover adds HOLD_RATE. -/
def lostAt (n : Nat) : State := (srcIs 1).modLny fun l => { l with holdover := false, sinceGood := n }
def heldFor_ (n : Nat) : State := (srcIs 1).modLny fun l => { l with sinceHold := n }
theorem test_holdover : (lostAt 3000000000).lny.lost = true ∧ ok (exec .holdoverEntry (lostAt 3000000000)) (fun u => u.lny.holdover) = true ∧
    ok (exec .holdoverTick (heldFor_ 1000000)) (fun u => u.lny.errEst == 25 && !u.lny.timeFault) = true := by decide +kernel
theorem test_no_holdover : (lostAt 2999999999).lny.lost = false ∧ ok (exec .holdoverEntry (lostAt 2999999999)) (fun u => !u.lny.holdover) = true ∧
    ok (exec .holdoverTick (heldFor_ 999999)) (fun u => u.lny.errEst == 0) = true := by decide +kernel
/-- R152: of a pulse and a timer that wait in one cycle the pulse is delivered, and nothing after it. -/
def bothWait : State := { base with lny := { base.lny with now := 2048, tmr := base.lny.tmr.set 7 5, tmrEn := 128, tmrArmed := 128 } }
theorem test_delivery : bothWait.lny.mayDeliver 1 = true ∧ bothWait.lny.mayDeliver 3 = false ∧
    ok (exec .hitchPulse bothWait) (fun u => u.lny.dlv && !u.lny.mayDeliver 3) = true ∧
    (bothWait.lny.dlvWait.length = 4 ∧ ∀ c, c < 4 → bothWait.lny.dlvWait.getD c 0 < 29) := by decide +kernel
theorem test_time_transfer_off : (srcIs 1).lny.src ≠ 2 ∧ ok (exec .timeTransferStart (srcIs 1)) (fun u => u == srcIs 1) = true := by
  decide +kernel
/-- The module at node n of a 2 × 1 × 1 job, with every port UP (R290, R294). -/
def joined (n : Nat) (s : State) : State :=
  { s.modPart 0 fun p => { p with join := some ⟨5, (2, 1, 1), (n, 0, 0), 2000000, [9]⟩ } with
    fabric := { s.fabric with ports := List.replicate 16 { Port.init with st := .up } } }
theorem parity_lt (x : Nat) : parity x < 2 := by
  simp only [parity, List.range_succ, List.range_zero, List.nil_append, List.cons_append, List.foldl_cons, List.foldl_nil]
  omega
/-- Every direction has a member that is UP. -/
theorem joined_member (n dir m off : Nat) (hn : n < 2) (hd : dir < 2) : ((joined n base).member dir m off).isSome = true := by
  have h : ∀ n, n < 2 → ∀ d, d < 2 → ∀ r, r < 2 → (joined n base).portUp (2 * d + r) = true := by decide +kernel
  simp [State.member, h n hn dir hd _ (parity_lt _)]
/-- Whichever node the time master is, a module of another x coordinate has a port toward it (R156). -/
theorem test_time_port : ∃ n p, (joined n base).timePort = some p := by
  have h : ∀ m : Nat, ∃ n p, (match nextHop (2, 1, 1) (nodeOf (n, 0, 0)) m 0 with
      | some (dir, _) => (joined n base).member dir m 0
      | none => none) = some p := by
    intro m
    have key : ∀ n, n < 2 → n ≠ coord m 0 → ∃ p, (match nextHop (2, 1, 1) (nodeOf (n, 0, 0)) m 0 with
        | some (dir, _) => (joined n base).member dir m 0
        | none => none) = some p := by
      intro n hn hne
      have hc : coord (nodeOf (n, 0, 0)) 0 = n := by
        have : ∀ n, n < 2 → coord (nodeOf (n, 0, 0)) 0 = n := by decide
        exact this n hn
      simp only [nextHop, hopGo, hc, if_neg hne]
      split <;> exact Option.isSome_iff_exists.mp (joined_member n _ m 0 hn (by simp))
    by_cases hm : coord m 0 = 0
    · exact ⟨1, key 1 (by omega) (by omega)⟩
    · exact ⟨0, key 0 (by omega) (fun h => hm h.symm)⟩
  obtain ⟨n, p, hp⟩ := h Config.timeMaster
  exact ⟨n, p, hp⟩
theorem test_time_rsp : (joined 0 (srcIs 2)).portUp 3 = true ∧ (srcIs 2).lny.src = 2 ∧ (srcIs 2).lny.master = false ∧
    (srcIs 2).fabric.lastTimeReq + 2 ^ 20 ≤ (srcIs 2).lny.now := by decide +kernel
/-- R177: a strand launched by beat 1 raises the estimate of that beat. -/
def hinting : State := { (withTile fun x => { x with launched := true, table := [{ desc0 with lmode := 1, launchBeat := 1, eclass := 7 }] }) with
  lny := { base.lny with hintEn := true, hintThr := 0 } }
theorem test_hint : hinting.lny.now + 500 ≤ 1 * 2 ^ hinting.lny.shift ∧ hinting.lny.hints = [] ∧
    0 < hinting.estimate 1 - hinting.estimate (1 + 2 ^ 48 - 1) ∧
    ok (exec (.hintPulse 1) hinting) (fun u => u.pins.lastHint == some (0, 100) && u.lny.hints == [(1, true)]) = true := by decide +kernel

/-! Gears, power and heat. -/

/-- The module in service in power terms: out of reset, its rails on. -/
def running : State := { base with rst := { Rst.init with low := false, row := 8 } }
def change (up : Bool) : GearChange := ⟨none, if up then 7 else 0, up, 100, false, false, false, false, false⟩
/-- running with a change of gear for beat 100 at time 102,400 less a lead. -/
def changing (lead : Nat) (c : GearChange) : State :=
  { running with lny := { base.lny with now := 102400 - lead }, power := { base.power with cur := some c } }
theorem test_ramp_sram : (changing 60000 (change true)).pwrRuns = true ∧ 100 * 2 ^ 10 ≤ (changing 60000 (change true)).now + 60000 ∧
    ok (exec (.gearRampAction .sramHbmif) (changing 60000 (change true)))
      (fun u => u.power.vSram.map Volt.goal == [800, 800, 800, 800] && u.power.vSram.all (fun v => v.start == 42400) && u.power.cur == some { change true with sramDone := true }) = true := by decide +kernel
theorem test_ramp_logic : ok (exec (.gearRampAction .logic) (changing 40000 { change true with sramDone := true }))
    (fun u => (u.region 31).vLogic.goal == 750 && (u.region 31).vLogic.start == 62400 && u.power.cur == some { change true with sramDone := true, logicDone := true }) = true := by decide +kernel
theorem test_preload : ok (exec (.gearRampAction .preload) (changing 4000 (change false)))
    (fun u => u.power.cur == some { change false with preloaded := true }) = true := by decide +kernel
def ramped : GearChange := { change true with sramDone := true, logicDone := true }
theorem test_power_good : ok (exec (.powerGoodCheck []) (changing 8000 ramped)) (fun u => u.power.cur == some { ramped with checked := true }) = true ∧
    ok (exec (.powerGoodCheck [31]) (changing 8000 ramped)) (fun u => u.power.cur == none && u.power.aborts == 1) = true := by decide +kernel
def passed (c : GearChange) : State :=
  { changing 0 c with lny := { base.lny with now := 104400, beat := 101 } }
theorem test_switch : beatPast 101 100 = true ∧ ok (exec .gearSwitch (passed { change false with preloaded := true }))
    (fun u => u.power.gear == 0 && u.power.cur == some { change false with preloaded := true, switched := true }) = true := by decide +kernel
def fastPins (c : GearChange) : State := (passed c).modDie 3 fun d => { d with pinRate := 64 }
theorem test_hbm_rate : ((fastPins { change false with switched := true }).die 3).pinRate ≠
      (fastPins { change false with switched := true }).rateAfter (change false) 3 ∧
    ok (exec (.hbmRateChange 3) (fastPins { change false with switched := true }))
      (fun u => (u.die 3).pinRate == 32 && (u.stk 19).training && (u.stk 0).training == (base.stk 0).training) = true := by decide +kernel
theorem test_change_ends : ok (exec .gearChangeComplete (passed { change true with switched := true })) (fun u => u.power.cur == none) = true := by
  decide +kernel

theorem test_cleat : ok (exec (.cleatAssert 0) running) (fun u => u.power.cleat && u.power.cleatSources == 32 && u.power.cleatCount == 1 &&
      (u.region 0).gear == 0) = true ∧
    ok (exec (.cleatAssert 4) { running with power := { base.power with cleat := true, cleatSources := 1 } })
      (fun u => u.power.cleatSources == 5 && u.power.cleatCount == 0) = true := by decide +kernel
theorem test_cleat_release : ok (exec .cleatRelease { running with power := { base.power with cleat := true } })
    (fun u => !u.power.cleat && u.power.cleatRelAt == some 0) = true ∧
    ok (exec .cleatRelease { running with power := { base.power with cleat := true, tripped := true } }) (fun u => u.power.cleat) = true := by
  decide +kernel
def relAt (n : Nat) : State := { running with lny := { base.lny with now := n }, power := { base.power with cleatRelAt := some 0 } }
theorem test_cleat_hold : ok (exec .cleatHoldExpiry (relAt 9999999)) (fun u => u.power.cleatRelAt == some 0) = true ∧
    ok (exec .cleatHoldExpiry (relAt 10000000)) (fun u => u.power.cleatRelAt == none) = true := by decide +kernel
theorem test_droop : ok (exec (.droopTrip 31 23) running) (fun u => (u.region 31).stretched && (u.region 31).tripped == [23] &&
    (u.region 30) == (running.region 30)) = true := by decide +kernel
theorem test_droop_release : ok (exec (.droopRelease 31) (running.modRegion 31 fun x => { x with tripped := [23], stretched := true, preStretch := 1 }))
    (fun u => (u.region 31).tripped == [] && (u.region 31).stretched) = true := by decide +kernel

def feed (x : FeedRec) : State := { running with lny := { base.lny with now := 2000000000 }, power := { base.power with feedA := x } }
theorem test_sag : heldFor (some 1999000000) 2000000000 1000000 = true ∧
    ok (exec (.feedSag .a) (feed { FeedRec.init with below36 := some 1999000000 })) (fun u => (u.feedRec .a).st == .sagging && u.pins.alertLow) = true ∧
    ok (exec (.feedSag .a) (feed { FeedRec.init with below36 := some 1999000001 })) (fun u => (u.feedRec .a).st == .normal) = true := by decide +kernel
theorem test_sag_end : ok (exec (.feedSagEnd .a) (feed { FeedRec.init with st := .sagging, above37 := some 1900000000 }))
    (fun u => (u.feedRec .a).st == .normal) = true := by decide +kernel
theorem test_overvoltage : ok (exec (.feedOvervoltage .a) (feed { FeedRec.init with above45 := some 1899999999 }))
    (fun u => (u.feedRec .a).st == .lost && (u.feedRec .a).opened && u.power.railsOn) = true := by decide +kernel
theorem test_feed_loss : ok (exec (.feedLoss .a) (feed { FeedRec.init with mv := 31999 })) (fun u => (u.feedRec .a).st == .lost && u.power.railsOn) = true ∧
    ok (exec (.feedReadmit .a) (feed { FeedRec.init with st := .lost, opened := true, inRange := some 1000000000 }))
      (fun u => (u.feedRec .a).st == .normal && !(u.feedRec .a).opened) = true := by decide +kernel
/-- 40 V at 10 A on each feed are 800.0 W. -/
theorem test_sample : ok (exec (.feedSample 40000 1000 40000 1000) running) (fun u => (u.power.hist.map fun h => h.p) == [8000]) = true ∧
    State.reset.pwrRuns = false ∧ ok (exec (.feedSample 40000 1000 1 2) State.reset) (fun u => (u.feedRec .b).mv == 1) = true := by decide +kernel
theorem test_brick : bitCount (15 + 16 - 2 ^ 4) 8 = 4 ∧ ok (exec (.brickFail 4) { running with power := { base.power with bricks := 31 } })
    (fun u => u.power.bricks == 15 && !u.power.tripped) = true := by decide +kernel
def phased (n : Nat) : State := running.modRegion 31 fun x => { x with phases := n }
theorem test_phase : ok (exec (.phaseFail 31 5) (phased 1)) (fun u => (u.region 31).fenced && !(u.region 31).awake) = true ∧
    ok (exec (.phaseFail 31 5) (phased 0)) (fun u => !(u.region 31).fenced && (u.region 31).phases == 32) = true := by decide +kernel
theorem test_link_regulator : ok (exec (.railRegulatorFail .vddLink 1) running) (fun u => u.power.linkRegs == 1 && !u.power.tripped) = true := by
  decide +kernel
theorem test_rail_fail : running.regions.length = 32 ∧ running.stks.length = 20 ∧ ok (exec (.railRegulatorFail .hbmStack 3) running)
    (fun u => (u.region 24).fenced && (u.region 31).fenced && !(u.region 23).fenced && (u.stk 19).lost && !(u.stk 14).lost) = true := by decide +kernel

def asleep : State := { running with regions := List.replicate 32 Region.init, power := { base.power with wakeQ := [31] } }
theorem test_inrush : (∀ k, k < 8 → (asleep.region (24 + k)).waking = false) ∧
    ok (exec (.inrushGrant 31 680) asleep) (fun u => (u.region 31).waking && u.power.wakingRegion == some 31) = true ∧
    ok (exec (.inrushGrant 31 681) asleep) (fun u => u.power.deferrals == 1 && !(u.region 31).waking) = true := by decide +kernel
theorem test_awake : ok (exec (.gateRampDone 31) { asleep.modRegion 31 (fun x => { x with waking := true }) with
    lny := { base.lny with now := 128000 } }) (fun u => (u.region 31).awake && u.power.wakeQ == []) = true := by decide +kernel
theorem test_no_raise : running.rst.row ≠ 0 ∧ ok (exec (.raiseCheck 0 0) { running with power := { base.power with gear := 7 } })
    (fun u => u.power.gear == 7 && u.power.cur == none) = true := by decide +kernel
theorem test_wear : ok (exec (.wearUpdate 61) running) (fun u => u.power.wear == 60) = true ∧
    ok (exec (.stretchCheck 31 21) (running.modRegion 31 fun x => { x with gear := 3 })) (fun u => (u.region 31).stretchCap == 2) = true := by
  decide +kernel
theorem test_shares : ok (exec (.shareBudget 100 [0, 0, 0, 0]) running) (fun u => u.power.parts == running.power.parts) = true ∧
    ok (exec (.ballastAdjust 9) running) (fun u => u.power.ballast == 0) = true := by decide +kernel
def tethered : State := { running with power := { base.power with standing := some (900, 0) } }
theorem test_tether : tethered.tetherAt tethered.now = 900 ∧ ok (exec .tetherCeilingChange tethered) (fun u => u.power.tether == 900) = true := by
  decide +kernel
def minutes : State := { running with lny := { base.lny with now := 60000000000 }, power := { base.power with
  minute := { MinuteAcc.init with any := true, pMin := 5, pMax := 6 }, meterSeq := 4 } }
theorem test_meter : minutes.utcMinute 0 < minutes.utcMinute minutes.now ∧ ok (exec .meterRecord minutes)
    (fun u => (u.power.meter.map fun r => (r.seq, r.pMin, r.pMax)) == [(4, 5, 6)] && u.power.meterSeq == 5) = true := by decide +kernel

theorem test_spine : ok (exec (.dieSensorRead 4 (List.replicate 16 (some 94))) running) (fun u => u.thermal.spine == List.replicate 16 (some 94)) = true ∧
    running.thermal.spineCoolAt = running.now := by decide +kernel
theorem test_inlet : ok (exec (.inletRead 45) running) (fun u => u.thermal.inlet == 45 && !u.power.tripped) = true := by decide +kernel
theorem test_hbm_temp : (∀ j, j < 20 → (running.stk j).celsius < 95) ∧ ok (exec (.hbmTempRead 19 (some 86)) running)
    (fun u => (u.stk 19).temp == some 86 && (u.stk 19).refreshHalved) = true := by decide +kernel
theorem test_blower : ok (exec (.blowerUpdate 50 9000) { running with power := { base.power with tripped := true } })
    (fun u => u.thermal.fanCmd == 100 && u.thermal.fanMeas == 50) = true := by decide +kernel
def cart (n : Nat) (st : CartSt) : State := { running with
  lny := { base.lny with now := n }, thermal := { base.thermal with present := true, cart := st, fanSlowAt := some 0, cartLife := 250 }
  cap := { base.cap with cartRoot := 1, cartHash := 7 } }
theorem test_blower_fail : ok (exec .blowerFail (cart 5000000000 .identified)) (fun u => u.thermal.cart == .failed) = true := by decide +kernel
theorem test_cart_foreign : ok (exec (.cartChallenge ⟨true, 8, 1, 2, 3, 4⟩) (cart 1 .identified)) (fun u => u.thermal.cart == .unidentified) = true := by
  decide +kernel
theorem test_cart_presence : ok (exec (.cartPresenceChange false) (cart 1 .identified)) (fun u => u.thermal.cart == .absent) = true ∧
    ok (exec (.cartLifeTick 20) (cart 1 .identified)) (fun u => u.thermal.cartLife == 275) = true ∧
    ok (exec .cartLifeWrite (cart 1 .identified)) (fun u => u.thermal.cartStored == 2) = true := by decide +kernel

/-! The fabric: node 0 of a 2 × 1 × 1 job. -/

def portIs (x : Port) : State := { base with fabric := { base.fabric with ports := base.fabric.ports.set 3 x } }
def down3 (st : PortSt) : Port := { Port.init with st := st }
theorem test_training : ok (exec (.pmdTrainingDone 3 [0, 2]) (portIs (down3 .training)))
      (fun u => (u.port 3).st == .hello && (u.port 3).lanes == 2 && (u.port 3).working == [0, 2] && (u.port 3).wire.length == 1) = true ∧
    ok (exec (.pmdTrainingDone 3 [0]) (portIs (down3 .training))) (fun u => (u.port 3).st == .training) = true := by decide +kernel
/-- A CTRL flit that arrived sound. -/
def ctl : CtrlIn := ⟨true, 0⟩
def hello0 (major node port : Nat) : HelloBody := ⟨major, 0, node, port, 4, false⟩
def helloOn (st : PortSt) : State :=
  let s := joined 0 base
  { s with fabric := { s.fabric with ports := s.fabric.ports.set 3 (down3 st) |>.set 15 (down3 st) } }
theorem test_link_hello : ok (exec (.linkHello 15 ctl (hello0 1 40000 1)) (helloOn .hello)) (fun u => (u.port 15).st == .up && (u.port 15).peerNode == 40000) = true ∧
    (helloOn .hello).nodeId = some 0 ∧
    ok (exec (.linkHello 3 ctl (hello0 1 9 9)) (helloOn .hello)) (fun u => (u.port 3).st == .miswired) = true := by decide +kernel
theorem test_link_version : ok (exec (.linkHello 3 ctl (hello0 0 1 2)) (helloOn .hello)) (fun u => (u.port 3).st == .versionFail) = true := by decide +kernel
theorem test_hello_timeout : ok (exec (.helloTimeout 3) { portIs (down3 .hello) with lny := { base.lny with now := 10000000 } })
      (fun u => (u.port 3).st == .down) = true ∧
    ok (exec (.helloTimeout 3) { portIs (down3 .hello) with lny := { base.lny with now := 9999999 } }) (fun u => (u.port 3).st == .hello) = true := by
  decide +kernel
theorem test_restart : ok (exec (.portRestart 3) { portIs (down3 .down) with lny := { base.lny with now := 1000000000 } })
      (fun u => (u.port 3).st == .training) = true ∧
    ok (exec (.portRestart 3) { portIs (down3 .down) with lny := { base.lny with now := 999999999 } }) (fun u => (u.port 3).st == .down) = true := by
  decide +kernel
theorem test_ctrl_repeat : ok (exec (.ctrlRepeat 3) (portIs { down3 .hello with ctrl := some (1, [9]) }))
    (fun u => ((u.port 3).wire.map fun f => (f.ftype, f.body)) == [(2, [1, 0, 0, 0, 9])]) = true := by decide +kernel
theorem test_lane_fail : ok (exec (.laneFail 3 1 17) (portIs (down3 .up)))
      (fun u => (u.port 3).st == .retraining && (u.port 3).lanes == 3 && (u.port 3).working == [0, 2, 3] && (u.port 3).fecUncorr == 17) = true ∧
    ok (exec (.laneFail 3 1 16) (portIs (down3 .up))) (fun u => (u.port 3).st == .up && (u.port 3).fecUncorr == 16) = true ∧
    ok (exec (.laneFail 3 1 0) (portIs { down3 .up with working := [1, 2], lanes := 2 })) (fun u => (u.port 3).st == .down) = true := by decide +kernel
theorem test_retrain : ok (exec (.retrain 3 ctl 4 0) (portIs { down3 .up with working := [0, 1, 2], lanes := 3 }))
    (fun u => (u.port 3).st == .retraining && (u.port 3).lanes == 3 && (u.port 3).wire.length == 1) = true := by decide +kernel
def flit1 : TxFlit := zeroFlit 0 [1]
theorem test_retrain_done : ok (exec (.retrainDone 3) (portIs { down3 .retraining with replay := [flit1] }))
    (fun u => (u.port 3).st == .up && ((u.port 3).wire.map fun f => f.body) == [[1]] && (u.port 3).replay == [flit1] && (u.port 3).replays == 1) = true := by
  decide +kernel
theorem test_retrain_timeout : ok (exec (.retrainTimeout 3) { portIs { down3 .retraining with replay := [flit1] } with lny := { base.lny with now := 10000000 } })
      (fun u => (u.port 3).st == .down && (u.port 3).replay == []) = true ∧
    ok (exec (.retrainTimeout 3) { portIs (down3 .retraining) with lny := { base.lny with now := 9999999 } })
      (fun u => (u.port 3).st == .retraining) = true := by decide +kernel

/-- A flit with its CRC-32C (R281). -/
def sealed (hdr payload : Nat) : Flit :=
  let x : Flit := ⟨hdr, payload, 0, false, []⟩
  { x with crc := crc32c (Flit.bytes252 x) }
/-- A READ of offset 0x1000 by node 1, as the first packet of a DATA flit (Tables 10-1, 10-11). -/
def readPkt : Packet := ⟨ptRead, 0, 0, 0, 0, 0, 1, 0x1000, 1, 0, 5, 77, 0, 0, 0, []⟩
def dataFlit1 (seq : Nat) : Flit := sealed (seq + 2 ^ 56) (leNat readPkt.bytes)
def upPort : State := portIs (down3 .up)
theorem test_flit_conditions : flitGood (dataFlit1 0) = true ∧ flitReserved (dataFlit1 0) = false ∧ bits (dataFlit1 0).hdr 26 3 = 0 ∧
    bit (dataFlit1 0).hdr 25 = false ∧ bits (dataFlit1 0).hdr 0 12 = ((upPort.port 3).rxSeq + 1) % 4096 ∧
    bit (dataFlit1 0).hdr 56 = true ∧ (∀ n, n < 15 → 1 ≤ n → bit (dataFlit1 0).hdr (56 + n) = false) := by decide +kernel
theorem test_flit_taken : ok (exec (.dataFlit 3 (dataFlit1 0)) upPort)
      (fun u => u.fabric.inbox == [⟨readPkt, 3, 0⟩] && (u.port 3).rxSeq == 0) = true ∧
    ok (exec (.dataFlit 3 (dataFlit1 1)) upPort) (fun u => u.fabric.inbox == [] && (u.port 3).rxSeq == 4095) = true := by decide +kernel
/-- R283: a bad flit is answered by a NAK and counted. -/
theorem test_flit_bad : ok (exec (.dataFlit 3 { dataFlit1 0 with bad := true }) upPort)
    (fun u => u.fabric.inbox == [] && (u.port 3).crcErrors == 1 && ((u.port 3).wire.map fun f => f.nak) == [true]) = true := by decide +kernel
theorem test_idle : flitGood (sealed (2 ^ 26) 0) = true ∧ ok (exec (.idleFlit 3 (sealed (2 ^ 26) 0)) upPort)
    (fun u => (u.port 3).rxSeq == 4095 && u.fabric.inbox == []) = true := by decide +kernel
theorem test_ack : ok (exec (.ackSend 3) upPort) (fun u => ((u.port 3).wire.map fun f => (f.ftype, f.ackv, f.ackseq)) == [(1, true, 4095)]) = true ∧
    ok (exec (.timeReq 3 ctl 7) upPort) (fun u => (u.port 3).wire.length == 1) = true := by decide +kernel

/-- Partition 0 at node 0, with a program bound, a packet received on port 0, and 4 KiB of HBM. -/
def net (q : Packet) : State :=
  let s := joined 0 bound
  { s with fabric := { s.fabric with inbox := [⟨q, 0, 0⟩] }, allocs := [alloc0 0], stks := List.replicate 20 Stack.init }
def isIn (q : Packet) (t : Nat) : Bool :=
  (net q).pktAt 0 == some ⟨q, 0, 0⟩ && q.ptype == t && (net q).nodeId == some q.dest
def outs (u : State) : List Packet := ((List.range 16).map fun p => ((u.port p).out.map fun o => o.pkt)).flatten
def sentTypes (u : State) : List (Nat × List Byte) := (outs u).map fun p => (p.ptype, p.data)
theorem test_forward : (net { readPkt with dest := 1, route := 1 }).outPort { readPkt with dest := 1, route := 1 } 0 = some (0, 0) ∧
    ok (exec (.packetForward 0) (net { readPkt with dest := 1, route := 1 })) (fun u => u.fabric.inbox == [] && (outs u).length == 1) = true := by
  decide +kernel
theorem test_forward_none : (net { readPkt with dest := 7, route := 0 }).outPort { readPkt with dest := 7, route := 0 } 0 = none ∧
    ok (exec (.packetForward 0) (net { readPkt with dest := 7, route := 0 })) (fun u => sentTypes u == [(ptRefuse, [])]) = true ∧
    ok (exec (.packetForward 0) (net { readPkt with dest := 7, route := 0, ptype := ptReadRsp })) (fun u => u.fabric.discarded == 1 && outs u == []) = true := by
  decide +kernel
def sending : State := upPort.modPort 3 fun x => { x with out := [⟨readPkt, false, 0⟩] }
theorem test_send : (sending.port 3).choose = some ⟨readPkt, false, 0⟩ ∧ sending.cap.fabReplies = [] ∧ ok (exec (.packetSend 3) sending)
    (fun u => (u.port 3).out == [] && ((u.port 3).wire.map fun f => (f.ftype, f.fseq, f.start)) == [(0, 0, 1)] &&
      ((u.port 3).replay.map fun f => f.fseq) == [0] && (u.port 3).txSeq == 1) = true := by decide +kernel

def toSram (t arg : Nat) (data : List Byte) : Packet := { readPkt with ptype := t, offset := sramWin + 0x40, arg := arg, data := data }
def toHbm (t arg : Nat) (data : List Byte) : Packet := { readPkt with ptype := t, arg := arg, data := data }
theorem test_admit : (net readPkt).admitReq readPkt = .inr 0 ∧ (net readPkt).reachable 0 0x1000 = true ∧
    (net (toSram ptRead 0 [])).admitReq (toSram ptRead 0 []) = .inr 0 ∧ (net (toSram ptRead 0 [])).reachable 0 (sramWin + 0x40) = true ∧
    ((net readPkt).allocAt 0 0x1000).isSome = true ∧ isTileSram 0x1000 = false ∧ isIn readPkt ptRead = true := by decide +kernel
theorem test_refused : (net { readPkt with job := 6 }).admitReq { readPkt with job := 6 } = .inl rsNoJob ∧
    ok (exec (.readReq 0) (net { readPkt with job := 6 })) (fun u => sentTypes u == [(ptRefuse, [])] && u.fabric.inbox == []) = true := by decide +kernel
theorem test_sram_requests : ok (exec (.readReq 0) (net (toSram ptRead 0 []))) (fun u => sentTypes u == [(ptReadRsp, List.replicate 64 0)]) = true ∧
    ok (exec (.writeReq 0) (net (toSram ptWrite 2 line7))) (fun u => sentTypes u == [(ptWriteAck, [])] && u.sramRead 0 0x40 3 == [0, 7, 0]) = true := by
  decide +kernel
theorem test_hbm_requests : ok (exec (.readReq 0) (net readPkt)) (fun u => sentTypes u == [(ptReadRsp, List.replicate 64 0)]) = true ∧
    ok (exec (.readItemReq 0) (net (toHbm ptReadItem 0 []))) (fun u => sentTypes u == [(ptItemRsp, List.replicate 32 0)]) = true ∧
    ok (exec (.writeReq 0) (net (toHbm ptWrite (2 ^ 64 - 1) line7))) (fun u => sentTypes u == [(ptWriteAck, [])]) = true ∧
    ok (exec (.writeItemReq 0) (net (toHbm ptWriteItem 0 (List.replicate 32 9)))) (fun u => sentTypes u == [(ptWriteAck, [])]) = true ∧
    ok (exec (.atomicReq 0) (net (toHbm ptAtomic 0 line7))) (fun u => sentTypes u == [(ptAtomicRsp, [])]) = true := by decide +kernel

theorem test_land : ok (exec (.landReq 0) (net (toSram ptLand 0x3F line7)))
      (fun u => sentTypes u == [(ptLandAck, [])] && u.sramRead 0 0x40 64 == line7 && (u.tile 0).tokens.getD 15 0 == 3) = true ∧
    ok (exec (.landReq 0) (net (toSram ptLand 0x13F line7)))
      (fun u => sentTypes u == [(ptLandHeld, [])] && u.sram == [] && (u.die 0).flags.length == 1) = true := by decide +kernel
/-- A held flag of node 1 with TXN 77, and the packet that decides on it. -/
def heldNet (t : Nat) : State := (net (toSram t 0 [])).modDie 0 fun d => { d with flags := [(toSram ptLand 0x13F line7).flagLine 0 0 true none] }
theorem test_land_go : ((heldNet ptLandGo).heldFlag 1 77).isSome = true ∧ ((net readPkt).heldFlag 1 77) = none ∧
    ok (exec (.landGo 0) (heldNet ptLandGo)) (fun u => u.sramRead 0 0x40 64 == line7 && (u.die 0).flags == [] && (u.tile 0).tokens.getD 15 0 == 3) = true ∧
    ok (exec (.landCancel 0) (heldNet ptLandCancel)) (fun u => u.sram == [] && (u.die 0).flags == []) = true ∧
    ok (exec (.landGo 0) (net (toSram ptLandGo 0 []))) (fun u => u.fabric.discarded == 1) = true := by decide +kernel
theorem test_flag_expiry : ok (exec (.flagExpiry 0 0) { heldNet ptRead with lny := { base.lny with now := 8000000 } })
      (fun u => (u.die 0).flags == [] && u.sram == []) = true ∧
    ok (exec (.flagExpiry 0 0) { heldNet ptRead with lny := { base.lny with now := 7999999 } }) (fun u => (u.die 0).flags.length == 1) = true := by
  decide +kernel
theorem test_flag_grant : ok (exec (.flagBufferGrant 0) (base.modDie 0 fun d => { d with flagWait := [flag0] }))
    (fun u => (u.die 0).flags == [flag0] && (u.die 0).flagWait == []) = true := by decide +kernel

/-- An own request of the cores to node 1, and the packet that answers it. -/
def own (ptype : Nat) : FabReq := ⟨77, .core, 0, 0, 1, 0x40, ptype, 0, 0, false, false, none⟩
def answered (ptype t arg : Nat) (data : List Byte) : State :=
  let s := net { readPkt with ptype := t, arg := arg, data := data }
  { s with fabric := { s.fabric with reqs := [own ptype] } }
theorem test_answers : ((answered ptRead ptReadRsp 0 line7).reqOf 77) = some (own ptRead) ∧
    [(Instr.readRsp 0, ptRead, ptReadRsp), (.itemRsp 0, ptReadItem, ptItemRsp), (.writeAck 0, ptWrite, ptWriteAck),
      (.writeAck 0, ptWriteItem, ptWriteAck), (.atomicRsp 0, ptAtomic, ptAtomicRsp), (.landAck 0, ptLand, ptLandAck),
      (.refuse 0, ptWrite, ptRefuse)].all (fun e => ok (exec e.1 (answered e.2.1 e.2.2 0 line7)) fun u =>
        u.fabric.reqs == [] && u.fabric.inbox == [] && u.coreAns.isSome) = true := by decide +kernel
theorem test_held_answer : ok (exec (.landHeld 0) (answered ptLand ptLandHeld 0 []))
    (fun u => (u.fabric.reqs.map fun q => (q.held, q.going)) == [(true, true)]) = true := by decide +kernel
theorem test_unasked : [(Instr.readRsp 0, ptReadRsp), (.landAck 0, ptLandAck), (.landHeld 0, ptLandHeld), (.refuse 0, ptRefuse)].all (fun e =>
    ok (exec e.1 (net { readPkt with ptype := e.2 })) fun u => u.fabric.discarded == 1 && u.fabric.inbox == []) = true := by decide +kernel
theorem test_timeout : ok (exec (.fabTimeout 77) { answered ptRead ptRead 0 [] with lny := { base.lny with now := 2000000 } })
      (fun u => u.fabric.reqs == [] && u.coreAns.isSome) = true ∧
    ok (exec (.fabTimeout 77) { answered ptRead ptRead 0 [] with lny := { base.lny with now := 1999999 } }) (fun u => u.fabric.reqs == [own ptRead]) = true := by
  decide +kernel

def windowed : State :=
  let s := joined 0 bound
  { s with fabric := { s.fabric with windows := [(15, ⟨1, 5, 0⟩)] } }
theorem test_window : ok (exec (.fabricWindowAccess (.fabric 15) 0x48 (.store false 255 9)) windowed)
      (fun u => (u.fabric.reqs.map fun q => (q.txn, q.node, q.ptype, q.off)) == [(0, 1, ptWrite, 0x48)] && (outs u).length == 1) = true ∧
    ok (exec (.fabricWindowAccess (.fabric 14) 0x48 (.load false)) windowed) (fun u => u.coreAns == some ⟨BitVec.ofNat 64 (2 ^ 64 - 1), true⟩) = true := by
  decide +kernel
def mgt (t src : Nat) : Packet := { readPkt with ptype := t, src := src }
theorem test_messages : ok (exec (.mgtMsg 0) (net (mgt ptMgtMsg 9))) (fun u => u.fabric.mgtGot == [(mgt ptMgtMsg 9, some 0)]) = true ∧
    ok (exec (.mgtMsg 0) (net (mgt ptMgtMsg 1))) (fun u => u.fabric.mgtGot == [] && sentTypes u == [(ptRefuse, [])]) = true ∧
    ok (exec (.mgtRsp 0) (net (mgt ptMgtRsp 9))) (fun u => u.fabric.inbox == []) = true := by decide +kernel
/-- R301: a request injected on VC_REQ that waits longer than THROTTLE_NS for credits holds the tile's partition. -/
def stuck (n : Nat) : State :=
  { joined 0 base with lny := { base.lny with now := n }, fabric := { (joined 0 base).fabric with
      reqs := [⟨77, .tile 383 0 0, 0, 0, 1, 0x1000, ptRead, 0, 0, false, false, none⟩]
      ports := base.fabric.ports.set 3 { down3 .up with
        credits := fullCredits.map fun _ => 0, out := [⟨{ readPkt with txn := 77, dest := 1 }, false, 0⟩] } } }
theorem test_throttle : base.partOfTile 383 = some 0 ∧ (stuck 100001).fabStuck 383 = true ∧ (stuck 100000).fabStuck 383 = false ∧
    ok (exec (.fabThrottle 383) (stuck 100001)) (fun u => bit (u.power.throt.getD 0 (0, 0)).2 18) = true ∧
    ok (exec (.fabThrottle 383) { base with lny := { base.lny with now := 1000000 }, power := { base.power with
      fabThrotAt := [some 0, none, none, none], throt := [(2 ^ 18, 2 ^ 18), (0, 0), (0, 0), (0, 0)] } })
      (fun u => u.power.throt.getD 0 (0, 0) == (0, 2 ^ 18)) = true := by decide +kernel

/-! The Reef and the update engine. -/

/-- A state with the first n tiles alone: enough where no tile takes part, and quicker to run. -/
def few (n : Nat) (s : State) : State := { s with tiles := s.tiles.take n }

def grp (ranks : List Nat) : GroupSt := ⟨0, 0, ranks, 9, some 4, none, none, false, 0, false, [], Veto.none, 0, none⟩
/-- Eight elements, staged at 0x1000, with its output at 0x1800; KIND 1: FP32 values (Table 11-2). -/
def bkt (kind : Nat) : Bucket := ⟨0, kind, 0, 8, 0x1000, 0x1800, 0, 0, 0, false, 0, 0, none, 0, false, false⟩
/-- A Reef packet of step 4, group 0 and bucket 0, from node src (Table 11-7). -/
def reefIn (rk src count cs : Nat) (payload : List Byte) : Packet :=
  let h : RHead := ⟨rk, Veto.none, false, 0, 4, 0, 0, none, cs, 9, count⟩
  { readPkt with ptype := ptReef, vc := 4, src := src, data := h.bytes ++ padSlots payload }
def reefNet (y : GroupSt) (kind : Nat) (q : Packet) : State :=
  (few 1 (net q)).modReef 0 fun _ => { Reef.init with retry := 1, groups := [y], buckets := [bkt kind] }

theorem reef_in (y : GroupSt) (kind rk : Nat) (q : Packet) (hb : (reefNet y kind q).pktAt 0 = some ⟨q, 0, 0⟩ ∧ q.ptype = ptReef ∧
      (reefNet y kind q).nodeId = some q.dest ∧ bits (leAt q.data 0 8) 0 4 = rk ∧ (reefNet y kind q).partOfJob q.job = some 0 ∧
      (if rk = 2 ∨ rk = 3 then ((reefNet y kind q).groupDies 0 (q.vc - 4)).head?
        else ((reefNet y kind q).diesOf 0).find? fun d => (((reefNet y kind q).reef d).bucket (q.vc - 4) (RHead.ofBytes q.data).bucket).isSome) = some 0 ∧
      ((reefNet y kind q).reef 0).group (q.vc - 4) = some y ∧ rheadReserved q.data = false ∧ (RHead.ofBytes q.data).gsig = y.sign) :
    Safety.ReefIn (reefNet y kind q) 0 rk ⟨q, 0, 0⟩ 0 0 y :=
  ⟨⟨hb.1, hb.2.1, hb.2.2.1⟩, hb.2.2.2.1, hb.2.2.2.2.1, hb.2.2.2.2.2.1, hb.2.2.2.2.2.2.1, hb.2.2.2.2.2.2.2.1, hb.2.2.2.2.2.2.2.2,
    rfl, rfl⟩

/-- Two values 1 and 2 in I40, whose checksum is given right or wrong (R328, R329). -/
def pair12 : List Byte := i40Bytes [1, 2]
/-- The child of rank 1 in a group of four, whose rank 1 this node is. -/
def up4 : Packet := reefIn 0 3 2 (csum [1, 2]) pair12
theorem test_contrib_in : Safety.ReefIn (reefNet (grp [1, 0, 2, 3]) 0 up4) 0 0 ⟨up4, 0, 0⟩ 0 0 (grp [1, 0, 2, 3]) :=
  reef_in _ _ _ _ (by decide +kernel)
theorem test_contrib_goes_up : (grp [1, 0, 2, 3]).accepts 4 = true ∧ treeKids 4 1 0 = [3] ∧ (bkt 0).chunkAt 4 0 0 = (0, 2) ∧
    ((reefNet (grp [1, 0, 2, 3]) 0 up4).memRead 0 (reefAgent 0) 0x1000 10).there = true ∧
    ok (exec (.contrib 0) (reefNet (grp [1, 0, 2, 3]) 0 up4)) (fun u => (outs u).map (fun p => (p.dest, p.vc, (p.data.drop 32).take 10)) == [(1, 4, pair12)] &&
      ((u.reef 0).marks.map fun m => m.fate) == [.sent]) = true := by decide +kernel
/-- In a group of three, rank 0 waits for two children. -/
def up3 : Packet := reefIn 0 1 2 (csum [1, 2]) pair12
theorem test_contrib_waits : ok (exec (.contrib 0) (reefNet (grp [0, 1, 2]) 0 up3)) (fun u => outs u == [] && (u.reef 0).contribs.length == 1) = true := by
  decide +kernel
/-- At the root a wrong checksum asks for the chunk again (R330). -/
def upRoot (cs : Nat) : Packet := reefIn 0 1 4 cs (i40Bytes [1, 2, 0, 0])
theorem test_contrib_root : csum [1, 2, 0, 0] ≠ 7 ∧
    ok (exec (.contrib 0) (reefNet (grp [0, 1]) 0 (upRoot 7))) (fun u => (u.reef 0).contribs == [] && ((u.reef 0).marks.map fun m => m.retries) == [1] &&
      (outs u).map (fun p => bits (leAt p.data 0 8) 0 4) == [1]) = true ∧
    ok (exec (.contrib 0) (reefNet (grp [0, 1]) 0 (upRoot (csum [1, 2, 0, 0])))) (fun u => ((u.reef 0).marks.map fun m => m.fate) == [.verified]) = true := by
  decide +kernel
theorem test_resend : Safety.ReefIn (reefNet (grp [1, 0, 2, 3]) 0 (reefIn 1 1 1 0 [])) 0 1 ⟨reefIn 1 1 1 0 [], 0, 0⟩ 0 0 (grp [1, 0, 2, 3]) ∧
    ok (exec (.resend 0) (reefNet (grp [1, 0, 2, 3]) 0 (reefIn 1 1 1 0 []))) (fun u => u.fabric.inbox == [] && (u.reef 0).marks == []) = true :=
  ⟨reef_in _ _ _ _ (by decide +kernel), by decide +kernel⟩
def pend (y : GroupSt) (kind : Nat) (q : Packet) (puts : Nat) : State :=
  (reefNet y kind q).modReef 0 fun r => { r with buckets := r.buckets.map fun b => { b with puts := puts } }
theorem test_f32_up : ok (exec (.f32Up 0) (pend (grp [0, 1]) 1 (reefIn 4 1 8 0 (times 8 one)) 1))
    (fun u => ((u.reef 0).f32.map fun f => (f.child, f.vals)) == [(1, List.replicate 8 0x3F800000)]) = true := by decide +kernel
theorem test_f32_down : treeKids 2 1 0 = [] ∧ ok (exec (.f32Down 0) (reefNet (grp [1, 0]) 1 (reefIn 5 1 8 0 (times 8 one))))
    (fun u => ((u.reef 0).buckets.map fun b => b.outDone) == [true]) = true := by decide +kernel

def report0 : Report := ⟨4, Veto.none, false, 0, 1, 50, 0, [(0, none)]⟩
theorem test_report : ok (exec (.report 0) (reefNet (grp [0, 1]) 0 (reefIn 2 1 1 0 (report0.payload false [0]))))
    (fun u => (((u.reef 0).groups.map fun g => g.children.map fun c => c.1)) == [[1]]) = true := by decide +kernel
def waiting (ranks : List Nat) : GroupSt := { grp ranks with closedAt := some 1, reportLeft := true }
theorem test_decision : ok (exec (.decision 0) (reefNet (waiting [1, 0]) 0 (reefIn 3 1 1 0 (report0.payload false [0]))))
    (fun u => ((u.reef 0).groups.map fun g => (g.step, g.decided, g.reportLeft)) == [(none, some 4, false)]) = true ∧
    ok (exec (.decision 0) (reefNet (grp [1, 0]) 0 (reefIn 3 1 1 0 (report0.payload false [0])))) (fun u => u.fabric.discarded == 1) = true := by
  decide +kernel
/-- A group of two without buckets whose REEF_CLOSE waits at tile 0. -/
def closing : State :=
  let s := few 1 (joined 0 bound)
  (s.modReef 0 fun _ => { Reef.init with groups := [{ grp [1, 0] with closedAt := some 1, closeOp := some (0, 0) }], decTimeoutMs := 1 }).modTile 0
    fun x => { x with ops := [{ PorOp.new info0 (.reefClose 0) (reefF 0 0 0 false) 0 0 with begun := true }] }
theorem test_report_send : closing.bucketsDone 0 (grp [1, 0]) 4 = true ∧ closing.groupDies 0 0 = [0] ∧
    ok (exec (.reportSend 0 0) closing) (fun u => ((u.reef 0).groups.map fun g => g.reportLeft) == [true] && (u.tile 0).ops == [] &&
      (outs u).map (fun p => (p.dest, bits (leAt p.data 0 8) 0 4)) == [(1, 2)]) = true := by decide +kernel
def late (n : Nat) : State :=
  { closing.modReef 0 (fun r => { r with groups := [waiting [1, 0]] }) with lny := { base.lny with now := n } }
theorem test_decision_timeout : ok (exec (.decisionTimeout 0 0) (late 1000000)) (fun u => ((u.die 0).faultQ.map fun f => (f.cls, f.code, f.tile, f.detail)) ==
      [(6, 1, 0x0410, 4 * 2 ^ 32)] && ((u.reef 0).groups.map fun g => g.timedOut) == [true]) = true ∧
    ok (exec (.decisionTimeout 0 0) (late 999999)) (fun u => (u.die 0).faultQ == []) = true := by decide +kernel

/-- An update section without descriptors: state line at 0x1000, commit records at 0x1040 and 0x1080. -/
def upd0 : UpdSec := ⟨1, false, 0, false, 0, 0, 0x3F800000, 0, 0, 0x1000, 0x1040, 0, 0, 0, 0, false, 0, [], [⟨0, 1000, 0, 0⟩], []⟩
def updating (vetoed : Bool) : State := (few 1 (net readPkt)).modUpd 0 fun u => { u with sec := some upd0, todo := some (4, vetoed) }
theorem test_commit : (updating true).updLive 0 0 = true ∧ (updating true).partOfDie 0 = some 0 ∧ ((updating true).die 0).upd.sec = some upd0 ∧
    ((updating true).die 0).upd.todo = some (4, true) ∧ ((updating true).updWord 0 0 4 upd0.stateLine 8).2 = 0 := by decide +kernel
theorem test_commit_idle : ok (exec (.commitPass 0) (few 1 base)) (fun u => decide (u = few 1 base)) = true := by decide +kernel
def preDec : State := ((few 1 (net readPkt)).modUpd 0 fun u => { u with sec := some { upd0 with group := 0 } }).modReef 0 fun _ =>
  { Reef.init with groups := [{ grp [0, 1] with closedAt := some 1 }] }
theorem test_pre_decision : preDec.shardsSettled 0 (grp [0, 1]) 4 = true ∧
    ok (exec (.preDecisionPass 0) preDec) (fun u => (u.die 0).upd.preDone == some 4) = true := by decide +kernel

/-! The Capstan. -/

/-- A request in mailbox 0 without and with the owner's trailer (Tables 14-4, 14-5). -/
def msg0 : Msg := ⟨1, 0, false, 0, 0, 0, 0, 0, 42, 0, none, 99⟩
def call0 : Call := ⟨.mbx 0, msg0⟩
def call1 : Call := ⟨.mbx 0, { msg0 with auth := 1, trailer := some ⟨1, 0, 0, 0, 2, 3⟩ }⟩
def call2 : Call := ⟨.mbx 0, { msg0 with auth := 2, trailer := some ⟨1, 0, 0, 0, 2, 3⟩ }⟩
/-- A state with a message of agreed version 1.0 in mailbox 0, an owner key and a tether key (both 1). -/
def posted (s : State) : State :=
  { s.modMbx 0 fun m => { m with owner := true, ver := some (1, 0), irqEn := true, handAt := some 0 } with
    cap := { (s.modMbx 0 fun m => { m with owner := true, ver := some (1, 0), irqEn := true, handAt := some 0 }).cap with
      ownerKey := some 1, tetherKeys := [some 1, none, none, none] } }

/-- The conditions of Safety.Accepts but the trailer's. -/
def headOk (s : State) (c : Call) (x : CmdInfo) : Bool :=
  let v := Safety.started s c
  s.cap.run == .running && s.hasMsg c.src && s.mayStart c.src && (headCheck v c x).isNone &&
    ((v.txns c.src).find? fun e => e.txn == c.msg.txn).isNone && (roleCheck v c x).isNone && v.engReady (Call.part c) &&
    !(x.prog && (v.geode (Call.part c)).frozen) && v.mramIdle

theorem accepts_of (s : State) (c : Call) (x : CmdInfo) (h : headOk s c x = true)
    (ht : c.msg.auth = 0 ∨ ∃ t, c.msg.trailer = some t ∧ t.reserved = 0 ∧ trailerOk (Safety.started s c) c t = true) : Safety.Accepts s c x := by
  simp only [headOk, Bool.and_eq_true, beq_iff_eq, Option.isNone_iff_eq_none, Bool.not_eq_true'] at h
  obtain ⟨⟨⟨⟨⟨⟨⟨⟨h1, h2⟩, h3⟩, h4⟩, h5⟩, h6⟩, h7⟩, h8⟩, h9⟩ := h
  exact ⟨h1, h2, h3, h4, h5, h6, fun _ => h7, h8, h9, ht⟩

def takenB (s : State) (i : Instr) (c : Call) : Bool :=
  match Safety.cmdOf i with
  | some (d, x) => d == c && headOk s c x
  | none => false

theorem taken_of (s : State) (i : Instr) (c : Call) (h : takenB s i c = true)
    (ht : c.msg.auth = 0 ∨ ∃ t, c.msg.trailer = some t ∧ t.reserved = 0 ∧ trailerOk (Safety.started s c) c t = true) : Safety.Taken s i c := by
  unfold takenB at h
  split at h
  · rename_i d x hx
    simp only [Bool.and_eq_true, beq_iff_eq] at h
    exact ⟨x, h.1 ▸ hx, accepts_of s c x h.2 ht⟩
  · cases h

def join0 : JoinReq := ⟨5, 2, 1, 1, 0, 0, 0, 2000000, [9]⟩
def entry0 : AllocEntry := ⟨0x2000, 0x1000, 0, 0, false, false, false, 0, 4⟩
/-- The commands a job's agent sends through its mailbox, and those of every role. -/
def jobCmds : List Instr :=
  [.hello call0 1 0, .sysQuery call0, .memMap call0 entry0, .memUnmap call0 3, .memFill call0 0x1000 64 (.pattern 7), .memChecksum call0 0x1000 1,
    .memHold call0, .memRelease call0, .progLoad call0 0x1000 64 none 0, .progBind call0 1 5, .progLaunch call0 100, .progAbort call0,
    .progUnbind call0, .fabJoin call0 join0, .fabLeave call0, .fabGroup call0 ⟨0, [0, 1]⟩, .fabWindow call0 0 (some 1), .fabParam call0 10000,
    .fabQuery call0, .pwrRequest call0 100 3, .timeShift call0 12, .timeStatus call0, .secAttest call0 5, .secCerts call0 0,
    .cntFaults call0 5, .cntStrataConfig call0 0 0 0 9, .cntStrataRead call0 0 [0], .cntStrataClear call0 0 0, .cntStrataAck call0 0 0,
    .cntStrataEnergy call0 (some 0), .cntDumpTrigger call0, .cntDumpMap call0, .cntDumpKeep call0 true, .cntDumpFabTrig call0,
    .cntDumpStatus call0, .rstPartition call0]
def inMail : State := posted (net readPkt)
theorem test_job_commands : ∀ i ∈ jobCmds, Safety.Taken inMail i call0 := fun i hi =>
  taken_of _ _ _ (by revert i; decide +kernel) (.inl rfl)
/-- The commands of the owner, and those of a tether agent. -/
def ownerCmds : List Instr :=
  [.sysPartition call1 [15, 0, 0, 0], .sysCarveout call1 16, .sysNet call1 1 2 3, .memScrub call1 168, .progKey call1 3 none,
    .fabRoute call1 32767 [0], .fabGateway call1 255 none, .fabPort call1 15 .disable, .pwrCeiling call1 600, .pwrPriority call1 3 3,
    .pwrTetherKey call1 3 none, .pwrDerate call1 3000, .pwrCartPolicy call1 1 2000 7, .pwrTune call1 ⟨true, 50, 1, 40, 20, 20⟩, .pwrMeter call1 0 1,
    .timeSource call1 3 127 true, .timeSet call1 (.set 100) none, .timeSet call1 .keep (some 37), .secOwnerClaim call1 4, .secOwnerRelease call1,
    .secRevoke call1 false 7, .secDebugDisable call1, .secDebugOpen call1, .secFabricLock call1 true 3, .secFwWrite call1 0 [1], .secFwActivate call1,
    .secFwCommit call1, .rstBlock call1 .tile 0 0, .rstCapstan call1, .rstModule call1]
def tetherCmds : List Instr :=
  [.tetherCeiling call2 600 0 true, .tetherSchedule call2 0 [600], .tetherClear call2, .tetherStatus call2, .meterFetch call2 0 1]
/-- A trailer in order whose key is 1, if ECDSA accepts it. -/
theorem trailer_ok (s : State) (c : Call) (t : Trailer) (h : s.trailerKey c.msg.auth t.key = some 1 ∧ seqOf s.cap.keySeqs 1 = none ∧
    t.sendTime ≤ s.now + SEC10 ∧ s.now ≤ t.sendTime + SEC10) (e : Config.ecdsaVerify 1 t.digest t.signature = true) : trailerOk s c t = true := by
  simp [trailerOk, h.1, h.2.1, h.2.2.1, h.2.2.2, e]
/-- Whatever ECDSA is, if it accepts a signature the owner's commands are taken (R424). -/
theorem test_owner_commands (h : Config.ecdsaVerify 1 2 3 = true) : ∀ i ∈ ownerCmds, Safety.Taken inMail i call1 := fun i hi =>
  taken_of _ _ _ (by revert i; decide +kernel) (.inr ⟨_, rfl, rfl, trailer_ok _ _ _ (by decide +kernel) h⟩)
theorem test_tether_commands (h : Config.ecdsaVerify 1 2 3 = true) : ∀ i ∈ tetherCmds, Safety.Taken inMail i call2 := fun i hi =>
  taken_of _ _ _ (by revert i; decide +kernel) (.inr ⟨_, rfl, rfl, trailer_ok _ _ _ (by decide +kernel) h⟩)

/-- The status that a command leaves in mailbox 0. -/
def status0 (u : State) : Option (Nat × Nat) := (u.mbx 0).reply.map fun r => (r.status, r.result.toNat)
theorem test_message_done : ok (exec (.memHold call0) inMail) (fun u => status0 u == some (stOk, 0) && !(u.mbx 0).owner && (u.mbx 0).done &&
    u.irqs == [32] && ((u.mbx 0).table.map fun e => e.txn) == [42]) = true := by decide +kernel
theorem test_message_version : ok (exec (.memHold { call0 with msg := { msg0 with verMajor := 2 } }) inMail) (fun u => status0 u == some (stVersion, 0)) = true := by
  decide +kernel
/-- R426: a repeat of a change is answered from its entry, another request under its TXN by TXN_CONFLICT. -/
def repeated : State := inMail.modMbx 0 fun m => { m with table := [⟨42, 99, 0x0105, stRange, 5⟩] }
theorem test_repeat : ok (exec (.memHold call0) repeated) (fun u => status0 u == some (stRange, 5) && !(u.die 0).upd.repair) = true ∧
    ok (exec (.memHold { call0 with msg := { msg0 with hash := 98 } }) repeated) (fun u => status0 u == some (stTxn, 0)) = true := by decide +kernel
theorem test_booting : ok (exec (.memHold call0) { inMail with cap := { inMail.cap with run := .booting } }) (fun u => status0 u == none) = true := by
  decide +kernel
theorem test_role : ok (exec (.memScrub call0 5) inMail) (fun u => status0 u == some (stPermission, 0)) = true := by decide +kernel

theorem test_map : inMail.placeAlloc 0 entry0 ≠ none ∧ entryBad entry0 = none ∧
    ok (exec (.memMap call0 entry0) inMail) (fun u => u.allocs.length == 2 && (status0 u).map Prod.fst == some stOk) = true ∧
    ok (exec (.memMap call0 { entry0 with mode := 3 }) inMail) (fun u => u.allocs.length == 1) = true := by decide +kernel
theorem test_unmap : ok (exec (.memUnmap call0 3) inMail) (fun u => status0 u == some (stBusy, 0)) = true ∧
    ok (exec (.memUnmap call0 3) (inMail.modPart 0 fun p => { p with bound := none })) (fun u => u.allocs == []) = true ∧
    ok (exec (.memUnmap call0 4) (inMail.modPart 0 fun p => { p with bound := none })) (fun u => status0 u == some (stNotHeld, 0)) = true := by decide +kernel
theorem test_fill : inMail.runIn 0 0x1000 64 = true ∧ ok (exec (.memFill call0 0x1000 64 (.pattern 7)) inMail)
    (fun u => status0 u == some (stOk, 0) && (u.memRead 0 (reefAgent 0) 0x1000 9).data == [7, 0, 0, 0, 0, 0, 0, 0, 7]) = true := by decide +kernel
theorem test_hold : ok (exec (.memHold call0) inMail) (fun u => (u.die 3).upd.repair) = true ∧
    ok (exec (.memRelease call0) (inMail.modUpd 3 fun x => { x with repair := true })) (fun u => !(u.die 3).upd.repair) = true := by decide +kernel
theorem test_bind : ok (exec (.progBind call0 1 5) inMail) (fun u => status0 u == some (stBusy, 0)) = true ∧
    ok (exec (.progBind call0 1 5) (inMail.modPart 0 fun p => { p with bound := none }))
      (fun u => status0 u == some (stOk, 0) && (u.part 0).bound == some image0 && (u.part 0).seed == 5) = true := by decide +kernel
theorem test_launch_program : inMail.ahead 98 100000 = true ∧ inMail.ahead 97 100000 = false ∧
    ok (exec (.progLaunch call0 98) inMail) (fun u => status0 u == some (stOk, 0) && (u.tile 0).beatBase == 98) = true ∧
    ok (exec (.progLaunch call0 97) inMail) (fun u => status0 u == some (stTime, 0)) = true := by decide +kernel
theorem test_unbind : (inMail.part 0).bound = some image0 ∧
    ok (exec (.progUnbind call0) (inMail.modPart 0 fun p => { p with bound := none })) (fun u => status0 u == some (stNotHeld, 0)) = true := by
  decide +kernel
theorem test_window_set : nodeValid inMail (2, 1, 1) 1 = true ∧ nodeValid inMail (2, 1, 1) 2 = false ∧
    ok (exec (.fabWindow call0 0 (some 1)) inMail) (fun u => u.fabric.windows == [(0, ⟨1, 5, 0⟩)]) = true ∧
    ok (exec (.fabParam call0 9999) inMail) (fun u => status0 u == some (stRange, 0)) = true := by decide +kernel
theorem test_join : joinRange join0 = true ∧ inMail.joinClash 0 (2, 1, 1) (0, 0, 0) = false ∧ groupBad inMail ⟨0, [0, 1]⟩ = false ∧
    ok (exec (.fabLeave call0) inMail) (fun u => (u.part 0).join == none) = true := by decide +kernel
theorem test_dump_command : ok (exec (.cntDumpTrigger call0) inMail) (fun u => ((u.geode 0).trigs.map fun t => t.cause) == [4]) = true ∧
    ok (exec (.cntDumpMap call0) inMail) (fun u => (u.geode 0).mapped && u.allocs.length == 5) = true := by decide +kernel
theorem test_monitor_command : monRole inMail call0 0 0 = none ∧ cfgBad 0 0 0 = none ∧
    ok (exec (.cntStrataConfig call0 0 0 0 9) inMail) (fun u => (u.mon 0 0).alarmAt == 9) = true := by decide +kernel
theorem test_owner_conditions : ceilOk 600 = true ∧ ceilOk 1201 = false ∧ inMail.revokeBusy 128 0 = true ∧ inMail.setOk 100 = false ∧
    shiftOk 20 = true ∧ shiftOk 21 = false ∧ inMail.blockAllowed .strata 0 = true ∧ blockCount .tile = 384 := by decide +kernel

/-! Monitors, dumps, resets and pins. -/

/-- Monitor 5 of die 0 on a tile source, any instance (Tables 16-1, 16-3). -/
def mon0 (src : Nat) : Monitor := { Monitor.init with source := src }
def monitored (m : Monitor) : State := base.modDie 0 fun d => { d with mons := [Monitor.init, Monitor.init, Monitor.init, Monitor.init, Monitor.init, m] }
def sample (src raw burst : Nat) : SampleEvent := ⟨0, src, raw, 7, 9, 2, 3, 0, burst⟩
theorem test_samples : ((monitored (mon0 0x20)).mon 0 5).takes 0x20 7 9 0 = true ∧ (srcInfo 0x20).map (fun k => k.sampled) = some false ∧
    ok (exec (.strataSample (sample 0x20 6 7)) (monitored (mon0 0x20)))
      (fun u => (u.mon 0 5).count == 1 && (u.mon 0 5).sum == 6 && (u.mon 0 5).min == 6 && (u.mon 0 5).max == 6 && (u.mon 0 4) == Monitor.init) = true ∧
    ok (exec (.strataSample (sample 0x20 6 8)) (monitored (mon0 0x20))) (fun u => (u.mon 0 5).count == 0 && (u.mon 0 5).dropped == 1) = true ∧
    ok (exec (.strataSample (sample 0x20 6 0)) (monitored { mon0 0x20 with layerFilt := true, layer := 8 })) (fun u => (u.mon 0 5).count == 0) = true ∧
    srcPosted 0x20 = false ∧ ok (exec (.strataSample (sample 1 6 7)) (monitored (mon0 1))) (fun u => (u.mon 0 5).count == 0) = true := by
  decide +kernel
theorem test_period_sample : (srcInfo 0x10).map (fun k => k.sampled) = some true ∧
    ok (exec (.strataPeriodSample 0 5) { monitored { mon0 0x10 with nextAt := 1024 } with lny := { base.lny with now := 1024 } })
      (fun u => (u.mon 0 5).count == 8 && (u.mon 0 5).nextAt == 2048) = true ∧
    ok (exec (.strataPeriodSample 0 5) { monitored { mon0 0x10 with nextAt := 1024 } with lny := { base.lny with now := 1023 } })
      (fun u => (u.mon 0 5).count == 0) = true := by decide +kernel
def charged (n : Nat) : State := { base.modDie 0 fun d => { d with energy := { d.energy with raw := [(1, 1, 30 * 600 ^ 2), (2, 2, 40 * 600 ^ 2)] } } with
  lny := { base.lny with now := n } }
/-- Raw estimates of 30 and 40 µJ and 90 µJ measured: the difference goes to the third pair (R470). -/
theorem test_calibration : ok (exec (.energyCalibration 0 90) (charged 1000000000))
    (fun u => (u.die 0).energy.ledger == [(1, 1, 30), (2, 2, 40), (0xFFFE, 0xFFFE, 20)] && (u.die 0).energy.raw == [] && (u.die 0).energy.calibrated) = true ∧
    ok (exec (.energyCalibration 0 90) (charged 999999999)) (fun u => !(u.die 0).energy.calibrated) = true := by
  decide +kernel
def trig0 : Trig := ⟨4, 0x0600, 3, 1, 7, 9, 0, 0⟩
def dump (g : Geode) (n : Nat) : State := { few 1 base with geodes := g :: List.replicate 3 Geode.init, lny := { base.lny with now := n } }
theorem test_trigger : bestTrig [trig0] = some trig0 ∧ ok (exec (.geodeTrigger 0 4 0x0600) (dump { Geode.init with trigs := [trig0] } 50))
    (fun u => (u.geode 0).frozen && (u.geode 0).phase == .settling && ((u.geode 0).hdr.map fun h => (h.cause, h.tTrig, h.later)) == some (4, 50, 0)) = true := by
  decide +kernel
def hdr0 (status : Nat) : DumpHdr := ⟨4, status, 0x0600, 0, 50, 60, 0, 3, 1, 7, 9, 0, 0, 0, 15⟩
def dumping (ph : DumpPhase) (n : Nat) : State := dump { Geode.init with frozen := true, phase := ph, hdr := some (hdr0 0) } n
theorem test_settle : ok (exec (.geodeSettle 0) (dumping .settling 10050)) (fun u => (u.geode 0).phase == .writing && ((u.geode 0).hdr.map fun h => h.tSettled) == some 10050) = true ∧
    ((dumping .settling 0).modTile 0 fun x => { x with ops := [{ por0 .prd 0 with flying := [0] }] }).nothingFlies 0 = false := by decide +kernel
theorem test_write_end : (hdr0 0).tSettled + 20000000 ≤ (dumping .writing 20000060).now ∧
    ok (exec (.geodeWriteEnd 0 true) (dumping .writing 20000059)) (fun u => (u.geode 0).phase == .writing) = true := by decide +kernel

theorem test_reset_n : running.power.standby = true ∧ running.rst.low = false ∧ running.mram.pulse = none ∧
    ok (exec (.resetNAssert 100) running) (fun u => u.rst == Rst.init && u.standby.cause == 1 && u.standby.moduleResets == 1) = true ∧
    ok (exec (.resetNAssert 99) running) (fun u => u.rst == running.rst) = true := by decide +kernel
def pulsing : State := { running with mram := { Mram.init with pulse := some ⟨.obsidian, none⟩ } }
theorem test_reset_held : ok (exec (.resetNAssert 100) pulsing) (fun u => u.mram.held == some (.module 1) && u.rst == running.rst) = true := by decide +kernel
theorem test_reset_release : State.reset.rst.low = true ∧ State.reset.coolEnough = true ∧ State.reset.mram.held = none ∧
    ok (exec (.resetNRelease []) State.reset) (fun u => !u.rst.low && u.rst.row == 2 && u.cap.bootCount == 1 && u.cap.run == .recovery) = true := by
  decide +kernel
def row (n : Nat) : State := { base with rst := { Rst.init with low := false, row := n } }
theorem test_rows : (row 2).canRamp = true ∧ ok (exec (.releaseWaveStage 4 0) (row 2)) (fun u => u.rst.row == 4 && u.power.railsOn) = true ∧
    ok (exec (.releaseWaveStage 5 0) (row 4)) (fun u => u.rst.row == 5) = true := by decide +kernel
def acked (n : Nat) (l : List Nat) : State := { row n with dies := (List.range 4).map fun d => { Die.init with released := natOfBool (l.contains d) } }
theorem test_row6 : ok (exec (.releaseWaveStage 6 3) (acked 5 [0, 1, 2])) (fun u => u.rst.row == 6 && (u.die 3).released == 1) = true ∧
    ok (exec (.releaseWaveStage 6 3) (acked 5 [0, 1])) (fun u => u.rst.row == 5) = true := by decide +kernel
theorem test_stage_timeout : ok (exec (.releaseStageTimeout 3) { acked 5 [0, 1, 2] with lny := { base.lny with now := 10000000 } }) (fun u => (u.die 3).fenced && (u.stk 15).lost && (u.stk 19).lost && !(u.stk 14).lost) = true ∧
    ok (exec (.releaseStageTimeout 3) (acked 5 [0, 1, 2])) (fun u => !(u.die 3).fenced) = true := by
  decide +kernel
theorem test_row7 : ok (exec (.releaseWaveStage 7 3) (acked 6 [0, 1, 2, 3])) (fun u => u.rst.edges == [3] && u.rst.row == 6) = true ∧
    ok (exec (.releaseWaveStage 7 3) { acked 6 [0, 1, 2, 3] with rst := { Rst.init with low := false, row := 6, edges := [0, 1, 2] } }) (fun u => u.rst.row == 7) = true := by
  decide +kernel
theorem test_row8 : ok (exec (.releaseWaveStage 8 0) (row 7)) (fun u => u.rst.row == 8 && (u.port 15).st == .training) = true := by decide +kernel
def booting0 : State := { row 8 with stks := List.replicate 20 Stack.init, cap := { base.cap with run := .booting, cdi1 := some 5 } }
theorem test_loader : booting0.loader booting0.cap.slot 0 0 = none ∧ (booting0.stks.any fun k => k.training && !k.lost) = false ∧
    ok (exec .loaderCheck booting0) (fun u => u.cap.run == .running && !u.cap.coresReleased) = true := by decide +kernel
theorem test_capstan_restart : ok (exec .capstanRestart base) (fun u => u.cap.run == .restarting && u.cap.restarts == 1 && u.cap.mbx == base.cap.mbx) = true := by
  decide +kernel
def blk0 (k : BlockKind) : BlkReset := ⟨k, 3, 50000, [], some call1⟩
def resetting (k : BlockKind) (n : Nat) (by_ : List Host.Cell) : State :=
  { few 4 (posted base) with rst := { Rst.init with low := false, row := 8, blk := some (blk0 k) }, lny := { base.lny with now := n }, sram := by_ }
theorem test_block_reset : (resetting .tile 0 []).blockIdle (blk0 .tile) = true ∧
    ok (exec (.blockResetIdle false) (resetting .tile 0 [(3 * 2 ^ 21 + 5, 1)])) (fun u => u.rst.blk == none && u.sramRead 3 5 1 == [0] &&
      status0 u == some (stOk, 1)) = true := by decide +kernel
theorem test_no_block_reset : ok (exec (.blockResetIdle true) base) (fun u => u == base) = true := by decide +kernel

def frame0 (port : Nat) (hello : Bool) : Frame := ⟨1, 0x0800, true, 0xA0000001, port, 7, 8, 100, 0, hello⟩
def hosted (l : List (Option Session)) : State := { base with cap := { base.cap with mac := 1, ipv4 := 0xA0000001, sessions := l ++ List.replicate (8 - l.length) none } }
theorem test_frames : (hosted []).classify (frame0 320 false) = .ptp ∧ (hosted []).classify (frame0 30817 true) = .management ∧
    (hosted []).classify (frame0 5 false) = .dropped ∧ (hosted []).classify { frame0 5 false with dstMac := 2 } = .cores ∧
    ok (exec (.mgtFrame (frame0 5 false)) (hosted [])) (fun u => u.cap.mgtDropped == 1) = true := by decide +kernel
def session0 (t : Nat) : Session := ⟨7, 8, t, none, [], none, some 0⟩
theorem test_sessions : ok (exec (.mgtFrame (frame0 30817 true)) (hosted [])) (fun u => u.session 0 == some (session0 0)) = true ∧
    (hosted [some (session0 9)]).sessionOf 7 8 = some 0 ∧
    ok (exec (.mgtFrame (frame0 30817 false)) (hosted [some (session0 9)])) (fun u => u.session 0 == some (session0 0)) = true := by decide +kernel
theorem test_session_expiry : ok (exec (.sessionExpiry 0) { hosted [some (session0 0)] with lny := { base.lny with now := 600000000000 } })
      (fun u => u.session 0 == none) = true ∧
    ok (exec (.sessionExpiry 0) { hosted [some (session0 0)] with lny := { base.lny with now := 599999999999 } }) (fun u => u.session 0 == some (session0 0)) = true := by
  decide +kernel
theorem test_smbus : base.smbusAddr = 0x5B ∧ ok (exec (.smbusBlockRead 0x5B 2 true) base) (fun u => u.pins.smb.map List.length == some 24) = true ∧
    ok (exec (.smbusBlockRead 0x5A 2 true) base) (fun u => u.pins.smb == none) = true ∧
    ok (exec .smbusAlertResponse { base with pins := { base.pins with alertLow := true } }) (fun u => u.pins.smb == some [0x5B] && !u.pins.alertLow) = true := by
  decide +kernel
theorem test_standby : ok (exec .standbyValid { base with power := { base.power with standby := false } }) (fun u => u.power.standby) = true ∧
    ok (exec .standbyLoss { base with hbm := [(5, 1)], sram := [(6, 1)], flash := [(7, 1)] })
      (fun u => u.hbm == [] && u.sram == [] && u.flash == [(7, 1)] && !u.power.railsOn && u.rst == Rst.init) = true := by decide +kernel
theorem test_loop_wire : ok (exec .plugLoopClose { base with pins := { base.pins with loopClosed := false } }) (fun u => u.pins.loopClosed && u.power.hotSwap) = true ∧
    ok (exec .plugLoopOpen base) (fun u => !u.pins.loopClosed && !u.power.hotSwap) = true := by decide +kernel
theorem test_pulse_end : pulsing.awaiting = [] ∧ ok (exec .mramPulseEnd pulsing) (fun u => u.mram.pulse == none) = true ∧
    ok (exec .mramPulseEnd { pulsing with mram := { pulsing.mram with held := some (.module 1) } }) (fun u => u.rst == Rst.init && u.standby.cause == 1) = true := by
  decide +kernel
def trainingStacks : State := { acked 8 [0, 1, 2, 3] with stks := List.replicate 20 { Stack.init with training := true }, parts := [] }
theorem test_link_training : ok (exec (.hbmLinkTraining 19 [3] false) trainingStacks) (fun u => !(u.stk 19).training && (u.stk 19).repairs == [3] && (u.stk 18).training) = true ∧
    ok (exec (.hbmLinkTraining 19 [3] true) trainingStacks) (fun u => (u.stk 19).lost) = true := by decide +kernel

theorem test_reset_memory : Safety.Memory.wf State.reset = true := by decide +kernel
theorem test_memory_wf : Safety.Memory.wf upSet = true ∧ Safety.Memory.wf { base with sram := [(3, 0)] } = false ∧
    Safety.Memory.wf { base with hbm := [(3, 1), (3, 2)] } = false := by decide +kernel
theorem test_reserved : exec (.nop 384) base = .fault .reservedInstance ∧ exec (.droopTrip 31 24) base = .fault .reservedInstance := ⟨rfl, rfl⟩

/-! Well-formed commands: for each check of Instr.wf a command that it refuses, beside ones it takes. -/

def mma0 : MmaF := mmaOf 0
def por1 : PorF := porOf 0
def reef1 : ReefPutF := reefOf 0
theorem test_mma_ranges : Instr.wf (.mma 383 mma0) = true ∧ [Instr.mma 384 mma0, .mma 0 { mma0 with fmtA := 16 }, .mma 0 { mma0 with fmtB := 16 },
    .mma 0 { mma0 with lm1 := 8 }, .mma 0 { mma0 with bcSrc := 4 }, .mma 0 { mma0 with s := 4096 }, .mma 0 { mma0 with set := 16 },
    .mma 0 { mma0 with sigTok := 16 }, .mma 0 { mma0 with aBase := 32768 }, .mma 0 { mma0 with bBase := 32768 },
    .mma 0 { mma0 with cBase := 32768 }].all (fun i => !i.wf) = true := by decide
theorem test_vec_ranges : Instr.wf (.valu 383 vf) = true ∧ [Instr.valu 384 vf, .valu 0 { vf with vd := 32 }, .vst 0 { vf with va := 32 },
    .vred 0 { vf with vb := 32 }, .vsmx 0 { vf with vc := 32 }, .vpack 0 { vf with fmt := 16 }, .vunpk 0 { vf with fmt2 := 16 },
    .vtree 0 { vf with rm := 4 }, .vamax 0 { vf with amx := 16 }, .vflag 0 { vf with sub := 16 }, .vrng 0 { vf with sigTok := 16 },
    .vmask 0 { vf with imm := 2 ^ 32 }, .vld 0 { vf with base := 32768 } none, .vperm 0 { vf with xa := 16 }, .vshuf 0 { vf with xb := 16 },
    .vscmp 0 { vf with aux := 256 }].all (fun i => !i.wf) = true := by decide
theorem test_porter_ranges : Instr.wf (.prd 383 por1) = true ∧ [Instr.prd 384 por1, .prd 0 { por1 with lbase := 32768 }, .pwr 0 { por1 with len := 65536 },
    .pland 0 { por1 with sigTok := 16 }, .pgath 0 { por1 with xr := 16 }, .pscat 0 { por1 with scope := 8 }, .pamo 0 { por1 with via := 4 },
    .prd 0 { por1 with sub := 16 }, .pland 0 { por1 with tcnt := 16 }, .pwr 0 { por1 with addr := 2 ^ 64 }].all (fun i => !i.wf) = true := by decide
theorem test_reef_ranges : Instr.wf (.reefPut 383 reef1) = true ∧ [Instr.reefPut 384 reef1, .reefPut 0 { reef1 with lbase := 32768 }, .reefPut 0 { reef1 with len := 65536 },
    .reefPut 0 { reef1 with sigTok := 16 }, .reefPut 0 { reef1 with xr := 16 }, .reefPut 0 { reef1 with bucket := 512 },
    .reefPut 0 { reef1 with group := 16 }, .reefPut 0 { reef1 with elemOfs := 2 ^ 32 }, .reefClose 0 16 0 false, .reefClose 0 0 16 false].all (fun i => !i.wf) = true := by
  decide
theorem test_sequencer_ranges : [Instr.wait 383 15 65535, .signal 0 15 true 65535 255, .loop 0 (2 ^ 32 - 1) 65535, .sstat 0 15 15, .fence 0 15, .orel 0 7].all Instr.wf = true ∧
    [Instr.nop 384, .wait 0 16 1, .wait 0 0 65536, .signal 0 16 true 0 1, .signal 0 0 true 65536 1, .signal 0 0 true 0 256, .loop 0 (2 ^ 32) 1,
      .loop 0 1 65536, .sli 0 16 0, .sadd 0 16 0 0, .sadd 0 0 16 0, .fence 0 16, .sstat 0 16 0, .sstat 0 0 16, .orel 0 8, .oacq 0 8, .ofull 0 8,
      .mscl 0 16 0, .mscl 0 0 32768, .mflag 0 16 true].all (fun i => !i.wf) = true := by decide
theorem test_instance_ranges : [Instr.feederDeliver 0 true 16 none, .dpuAccumulate 0 16 0 none, .dpuAccumulate 0 0 16 none, .columnDrain 0 16, .strandComplete 0 4,
    .controlRegisterWrite true 2 8 0, .controlRegisterWrite true (2 ^ 21) 8 0, .controlRegisterWrite true 0 2 0, .mbxHandover 64 0, .errTailWrite 5 0,
    .errScopeCntRead 4 .full, .strStatRead 0 256 .full, .strStatRead 4 64 .full, .hitchCalibration [], .timerFire 8, .powerGoodCheck [32], .hbmRateChange 4,
    .hbmLinkTraining 20 [] false, .cleatAssert 64, .droopTrip 31 24, .droopTrip 32 0, .homeSliceOperation 0 16 false, .hbmTempRead 20 none].all (fun i => !i.wf) = true := by
  decide
theorem test_more_ranges : [Instr.dataFlit 16 ⟨0, 0, 0, false, []⟩, .dataFlit 0 ⟨2 ^ 96, 0, 0, false, []⟩, .idleFlit 0 ⟨0, 2 ^ 1920, 0, false, []⟩, .dataFlit 0 ⟨0, 0, 2 ^ 32, false, []⟩,
    .linkHello 0 ctl (hello0 256 0 0), .linkHello 0 ctl (hello0 0 65536 0), .linkHello 0 ctl (hello0 0 0 256),
    .linkHello 0 ctl { hello0 0 0 0 with lanes := 256 }, .dataFlit 0 ⟨0, 0, 0, false, [4]⟩, .timeReq 0 ctl (2 ^ 64), .timeRsp 0 ctl 0 (2 ^ 64) 0, .retrain 0 ctl 256 0, .retrain 0 ctl 0 256, .laneFail 0 4 0,
    .reportSend 0 12, .brickFail 8, .phaseFail 0 6, .railRegulatorFail .vddLink 2, .railRegulatorFail .hbmStack 4, .shareBudget 0 [],
    .dieSensorRead 0 (List.replicate 16 none), .dieSensorRead 5 [], .sessionExpiry 8].all (fun i => !i.wf) = true := by decide +kernel
theorem test_message_ranges : Instr.wf (.sysQuery call0) = true ∧ [Instr.sysQuery ⟨.mbx 64, msg0⟩, .sysQuery ⟨.session 8, msg0⟩, .sysQuery ⟨.fabric 65536, msg0⟩,
    .sysQuery ⟨.mbx 0, { msg0 with verMajor := 256 }⟩, .sysQuery ⟨.mbx 0, { msg0 with verMinor := 256 }⟩, .sysQuery ⟨.mbx 0, { msg0 with auth := 4 }⟩,
    .sysQuery ⟨.mbx 0, { msg0 with cflags := 256 }⟩, .sysQuery ⟨.mbx 0, { msg0 with status := 65536 }⟩, .sysQuery ⟨.mbx 0, { msg0 with length := 2 ^ 32 }⟩,
    .sysQuery ⟨.mbx 0, { msg0 with txn := 2 ^ 64 }⟩, .sysQuery ⟨.mbx 0, { msg0 with partition := 256 }⟩, .hello call0 256 0, .hello call0 0 256,
    .sysPartition call1 [256], .progBind call0 (2 ^ 32) 0, .progLaunch call0 (2 ^ 48), .progKey call1 256 none, .fabWindow call0 256 none,
    .fabPort call1 256 .retrain, .pwrPriority call1 256 0, .pwrTetherKey call1 256 none, .secRevoke call1 true 256, .cntStrataConfig call0 256 0 0 0,
    .cntStrataRead call0 0 [256]].all (fun i => !i.wf) = true := by decide
theorem test_event_ranges : [Instr.releaseWaveStage 3 0, .releaseWaveStage 9 0, .releaseWaveStage 4 4, .strataSample (sample 256 0 0), .strataSample ⟨5, 1, 0, 0, 0, 0, 0, 0, 0⟩,
    .strataSample ⟨0, 1, 0, 65536, 0, 0, 0, 0, 0⟩, .strataSample ⟨0, 1, 0, 0, 65536, 0, 0, 0, 0⟩, .geodeTrigger 4 1 0, .geodeTrigger 0 0 0, .geodeTrigger 0 5 0,
    .smbusBlockRead 128 0 true, .smbusBlockRead 0 256 true, .tileSramLineRequest 384 none, .fabricWindowAccess (.fabric 16) 0 (.load false),
    .fabricWindowAccess .device (2 ^ 40) (.load false), .fabricWindowAccess .control (2 ^ 26) (.load false), .amberRamRead 65536 .full false, .amberRamRead 4 .full false].all (fun i => !i.wf) = true := by decide

/-! Further clauses: the conditions of each hold together in a state, at a boundary where they have one. -/

theorem quiet_up : Safety.Quiet (up.tile 0) := ⟨by decide, by decide, by decide, by decide, by decide⟩
theorem issues_up : Safety.Issues up 0 0 slot0 := ⟨by decide, by decide, by decide, by decide⟩
/-- A tile with an MMA of the strand open: FENCE bit 0 holds, and a second END of a loop body keeps its limit. -/
theorem test_fence_holds : (begun.tile 0).openArr 1 (begun.tile 0).nextId = true ∧
    ok (exec (.fence 0 1) begun) (fun u => (slotAt u).ip == (slotAt begun).ip) = true ∧
    ok (exec (.fence 0 14) begun) (fun u => (slotAt u).ip == (slotAt begun).ip + 1) = true := by decide +kernel
theorem test_end_again : ok (exec (.endStrand 0) (withSlot { slot0 with ended := true }))
    (fun u => (slotAt u).phase == .retiring && (u.tile 0).considered == (up.tile 0).considered) = true := by decide
/-- A scalar register that an MFLAG of the tile will write holds SLI, and one that is read holds SADD (R181). -/
def scalarOpen : State := up.modTile 0 fun x => { x with arrQ := [⟨info0, .mflag 2 false⟩], nextId := 1 }
theorem test_scalar_holds : (scalarOpen.tile 0).scaFree 2 = false ∧ (scalarOpen.tile 0).scaFree 3 = true ∧
    (scalarOpen.tile 0).scaWritten (scalarOpen.tile 0).nextId 2 = true ∧
    ok (exec (.sadd 0 3 2 1) { scalarOpen with geodes := scalarOpen.geodes }) (fun u => (u.tile 0).regs.getD 3 9 == 0) = true := by decide +kernel
theorem test_signal_bounds : ok (exec (.signal 0 4 false 384 1) up) (fun u => (u.die 0).faultQ.map (fun f => f.code) == [1]) = true ∧
    ({ up with parts := up.parts.set 0 { up.part 0 with mask := 1 } }).partOfTile 96 ≠
      ({ up with parts := up.parts.set 0 { up.part 0 with mask := 1 } }).partOfTile 0 ∧
    ok (exec (.signal 0 4 false 96 1) { up with parts := up.parts.set 0 { up.part 0 with mask := 1 } })
      (fun u => (u.die 0).faultQ.map (fun f => f.code) == [0x26]) = true := by decide +kernel
/-- R165: eight signals between two regions fill their queue. -/
def eight : State := { up with fly := List.replicate 8 ⟨0, 12, 4, 1⟩ }
theorem test_signal_queue : eight.fliesFull 0 12 = true ∧ ({ eight with fly := eight.fly.drop 1 }).fliesFull 0 12 = false ∧
    ok (exec (.signalArrival 0) eight) (fun u => (u.tile 12).tokens.getD 4 0 == 1 && u.fly.length == 7) = true := by decide +kernel
theorem test_matrix_issue : (up.tile 0).arrQ.length < 4 ∧ slot0.acqOps.any (up.tile 0).opOpen = false ∧
    (up.tile 0).trackFits (mmaSpans mma1 0) = true ∧ (up.tile 0).spansBreach slot0 [⟨16 * 64, 256, false⟩] = none ∧
    (up.tile 0).trackFits [⟨16 * 64, 256, false⟩] = true ∧ (up.tile 0).scaFree 2 = true := by decide +kernel

/-- A bad word in the slice's bytes faults (R232); a broadcast's partner that stands elsewhere faults (R77). -/
def badSlice : State := { begun with sramBad := (List.range 8192).map fun k => 8 * k }
theorem test_feeder_bad : (match (badSlice.tile 0).arr.nextFeed true 0 with
    | some (m, rel) => (badSlice.sliceBad 0 true 0 m.f rel).isSome
    | none => false) = true := by decide +kernel
def mmaB (src : Nat) : MmaF := { mma1 with bcB := true, bcSrc := src }
def pair (src1 : Nat) : State :=
  let x : Tile := { Tile.init with slots := [some slot0, none, none, none] }
  after (.mma 1 (mmaB src1)) (after (.mma 0 (mmaB 0)) { base with tiles := x :: x :: List.replicate 382 Tile.init })
theorem test_broadcast : (match ((pair 0).tile 0).arr.nextFeed true 0 with
    | some (m, rel) => feedBc true m.f && ((pair 0).bcGroup 0 true 0 m.f rel).contains 0 && !(pair 0).bcClash 0 true 0 m.f &&
        ((pair 0).bcGroup 0 true 0 m.f rel).all (fun u => ((pair 0).tile u).arr.linkRoom true 0 && (pair 0).live u)
    | none => false) = true ∧
    (match ((pair 1).tile 0).arr.nextFeed true 0 with
    | some (m, _) => (pair 1).bcClash 0 true 0 m.f
    | none => false) = true := by decide +kernel
theorem test_dpu_waits : (match (begun.tile 0).arr.mmaAt 0 with
    | some m => !(begun.tile 0).arr.mayStep 0 0 m
    | none => false) = true ∧
    ok (exec (.dpuAccumulate 0 0 0 none) begun) (fun u => (u.tile 0).arr.c == (begun.tile 0).arr.c) = true := by decide +kernel
def loading (f : Arr → Arr) : State := (withTile fun x => { x with arrQ := [⟨info0, .mscl 1 16 true⟩], arr := f x.arr })
theorem test_set_load_refused : ((loading id).tile 0).arr.setBusy 1 = false ∧ setOk ((loading id).sramRead 0 1024 256) = false ∧
    ok (exec (.scaleSetLoad 0) (loading id)) (fun u => (u.die 0).faultQ.map (fun f => f.code) == [0x0A]) = true ∧
    ((begun.modTile 0 fun x => { x with arrQ := [⟨info0, .mscl 1 16 true⟩] }).tile 0).arr.setBusy 1 = true := by decide +kernel
theorem test_free_none : ok (exec (.queueEntryFree 0) (withTile fun x => { x with
    arr := { x.arr with queue := [⟨0, info0, [], true, some 3, false⟩] } })) (fun u => (u.tile 0).arr.queue.length == 1) = true := by decide +kernel
theorem test_vector_issue : (upV.tile 0).vxeQ.length < 4 ∧ vecs.all (fun e =>
      (upV.tile 0).trackFits (vSpans e.2.1 e.2.2 (vAddr e.2.1 e.2.2 0))) = true ∧ (upV.tile 0).scaWritten (upV.tile 0).nextId 0 = false ∧
    (up.tile 0).track.length ≤ 16 := by decide +kernel

/-! Porter, strands and homes. -/

def fullPor : State := up.modTile 0 fun x => { x with porQ := List.replicate 4 (por0 .prd 0), ops := List.replicate 4 { por0 .prd 0 with begun := true } }
theorem test_porter_holds : 4 ≤ (fullPor.tile 0).porQ.length ∧ porBad .prd { pf with via := 2 } = true ∧
    ok (exec (.prd 0 { pf with via := 2 }) up) (fun u => (u.die 0).faultQ.length == 1) = true ∧
    ({ pf with xre := true, xr := 2 }.xre && (scalarOpen.tile 0).scaWritten (scalarOpen.tile 0).nextId 2) = true ∧
    (up.tile 0).trackFits [⟨rf.lbase * 64, 64 * rf.len, false⟩] = true := by decide +kernel
theorem test_begin_conditions : (∀ o ∈ ((withPor .prd 0).tile 0).porQ.head?, o.info.id ≠ 0 ∨ o.isRelease = false) ∧
    (por0 .prd 0).isItem = false ∧ (withPor .prd 0).live 0 = true := by decide +kernel
theorem test_answer_conditions : up.takesReturns 0 = true ∧ ((up.tile 0).ops.find? fun o => o.info.id == 7) = none ∧
    ({ por0 .prd 0 with resps := [⟨0, .ok, line7, none⟩] }.resps.find? fun x : Resp => x.req == 1) = none ∧
    ({ por0 .prd 0 with resps := [⟨0, .ok, line7, none⟩] }.ends.findSome? ReqEnd.cause) = none := by decide
/-- A fenced region's launch fails (R373); a strand whose beat lies ahead does not launch; a token at 65,535 is not below it. -/
def fencedL : State := { launchable desc0 with regions := List.replicate 32 { Region.init with awake := true, fenced := true } }
theorem test_launch_fenced : fencedL.tileFrozen 0 = false ∧
    ok (exec (.strandLaunch 0) fencedL) (fun u => (u.die 0).faultQ.map (fun f => (f.cls, f.code)) == [(3, 1)]) = true ∧
    ((launchable { desc0 with lmode := 1, launchBeat := 9 }).tile 0).mayLaunch { desc0 with lmode := 1, launchBeat := 9 } 0 = false := by
  decide +kernel
theorem test_complete_conditions : ((withSlot { slot0 with phase := .retiring }).tile 0).workDone 0 = true ∧
    ((withSlot { slot0 with phase := .retiring }).tile 0).tokens.length = 16 ∧
    ((withTile fun x => { x with slots := [none, none, none, some { slot0 with phase := .reissue }] }).tile 0).issuing = none := by decide +kernel
/-- R191: the descriptor that waits to launch has its limit too; a frozen partition's limits stand still (R474). -/
def waitsAt (b : Nat) : State :=
  { (withTile fun x => { x with table := [{ desc0 with wdog := 5, lmode := 2, waitMask := 1 }], launched := true, considered := some 0 }) with
    regions := List.replicate 32 { Region.init with awake := true, beat := b } }
theorem test_watchdog_waiting : ((waitsAt 6).partOfTile 0).any (waitsAt 6).timersStopped = false ∧
    limitPassed ((waitsAt 6).localBeat 0) (((waitsAt 6).tile 0).limitStart { desc0 with wdog := 5, lmode := 2, waitMask := 1 }) 5 = true ∧
    ok (exec (.strandWatchdog 0 0) (waitsAt 6)) (fun u => (u.die 0).faultQ.map (fun f => (f.cls, f.code)) == [(5, 1)]) = true ∧
    ((frozen0 up).partOfTile 0).any (frozen0 up).timersStopped = true := by decide +kernel
theorem test_slice_idle : ((base.die 0).slices.getD 0 ⟨[], 0, [0, 0, 0, 0]⟩).waiting.all (fun q => !base.reqReady q) = true := by decide +kernel
/-- A cache that holds one clean line of memory as it is, and no other (R239). -/
theorem coherent_one : Safety.Cache.coherent (cached0 false) 0 := by
  intro k l h
  have hl : l = ⟨3, 0, List.replicate 64 0, false, false, none⟩ := by
    have m := List.mem_of_find?_eq_some h
    have c : ((cached0 false).die 0).cache = [⟨3, 0, List.replicate 64 0, false, false, none⟩] := by decide +kernel
    rw [c] at m
    simpa using m
  have hk : 3 = k := by
    have p := List.find?_some h
    rw [hl] at p
    simpa using p
  subst hl hk
  exact ⟨by decide, fun _ => by decide +kernel⟩

/-! Time, gears and power. -/

/-- An exchange on port 3 with t1 = 4 (R309); an estimate that falls, and one that stays (R177). -/
def exchOn3 : State := { joined 0 (srcIs 2) with fabric := { (joined 0 (srcIs 2)).fabric with timeReqAt := some (3, 4) } }
theorem test_time_exchange : exchOn3.fabric.timeReqAt = some (3, 4) ∧ exchOn3.portUp 3 = true ∧ exchOn3.lny.src = 2 ∧
    ok (exec (.timeRsp 3 ctl 5 5 6) exchOn3) (fun u => u == exchOn3) = true := by decide +kernel
def hintDown : State := hinting.modTile 0 fun x => { x with
  slots := [some { slot0 with desc := { desc0 with lmode := 1, eclass := 7 } }, none, none, none]
  table := [{ desc0 with lmode := 1, eclass := 7 }, { desc0 with strandId := 2, lmode := 1, launchBeat := 1, eclass := 0 }]
  descIdx := 1 }
theorem test_hint_falls : 0 < hintDown.estimate (1 + 2 ^ 48 - 1) - hintDown.estimate 1 ∧
    ok (exec (.hintPulse 1) hintDown) (fun u => u.pins.lastHint == some (0, 300)) = true ∧
    hinting.estimate 5 ≤ hinting.estimate (5 + 2 ^ 48 - 1) ∧ hinting.estimate (5 + 2 ^ 48 - 1) ≤ hinting.estimate 5 := by decide +kernel

/-- A change down whose gear has switched (Table 06-4). -/
def downTo : GearChange := { change false with preloaded := true, switched := true }
def cold (s : State) : State := { s with stks := List.replicate 20 { Stack.init with training := false } }
theorem test_ramps_down : (passed downTo).pwrRuns = true ∧ 100 * 2 ^ 10 + 2000 ≤ (passed downTo).now ∧
    ok (exec (.gearRampAction .logic) (passed downTo)) (fun u => u.power.cur == some { downTo with logicDone := true }) = true ∧
    (passed { downTo with logicDone := true }).logicSteady = true ∧
    (∀ d, d < 4 → (cold (passed { downTo with logicDone := true })).rateSettled { downTo with logicDone := true } d = true) ∧
    ok (exec (.gearRampAction .sramHbmif) (cold <| passed { downTo with logicDone := true }))
      (fun u => u.power.cur == some { downTo with logicDone := true, sramDone := true }) = true := by decide +kernel
def upReady : GearChange := { ramped with checked := true, preloaded := true }
def upAt : State := [0, 1, 2, 3].foldl (fun s d => s.modDie d fun x => { x with pinRate := 64 }) (passed upReady)
theorem test_switch_up : upAt.logicSteady = true ∧ (∀ d, d < 4 → (upAt.die d).pinRate = upAt.rateAfter upReady d) ∧
    ok (exec .gearSwitch upAt) (fun u => u.power.gear == 7 && (u.region 31).gear == 7) = true ∧
    100 * 2 ^ 10 ≤ (changing 38000 ramped).now + 38000 ∧ ((changing 38000 ramped).die 0).pinRate ≠ (changing 38000 ramped).rateAfter ramped 0 := by
  decide +kernel
theorem test_change_ends_down : (passed { downTo with logicDone := true, sramDone := true }).sramSteady = true ∧
    ok (exec .gearChangeComplete (cold <| passed { downTo with logicDone := true, sramDone := true })) (fun u => u.power.cur == none && u.power.gear == running.power.gear) = true := by
  decide +kernel
theorem test_rate_alone : (running.modDie 3 fun d => { d with pinRate := 64 }).power.cur = none ∧
    ok (exec (.hbmRateChange 3) (running.modDie 3 fun d => { d with pinRate := 64 })) (fun u => (u.die 3).pinRate == 32) = true := by decide +kernel
theorem test_droop_none : ok (exec (.droopTrip 31 0) (running.modRegion 31 fun x => { x with fenced := true })) (fun u => !(u.region 31).stretched) = true ∧
    ok (exec (.droopRelease 31) (running.modRegion 31 fun x => { x with tripped := [23], stretchLeft := 1 })) (fun u => (u.region 31).tripped == [23]) = true := by
  decide +kernel

/-- The second feed lost takes the rails down (R368); a fourth brick trips (R371); so does the last link regulator (R376). -/
theorem test_both_lost : ok (exec (.feedLoss .a) ((feed { FeedRec.init with mv := 31999 }).modPower fun w => { w with feedB := { FeedRec.init with st := .lost } }))
    (fun u => (u.feedRec .a).st == .lost && !u.power.railsOn) = true := by decide +kernel
theorem test_trips : ok (exec (.brickFail 4) { running with power := { base.power with bricks := 23 } })
      (fun u => u.power.bricks == 7 && u.power.tripped) = true ∧
    ok (exec (.railRegulatorFail .vddLink 1) { running with power := { base.power with linkRegs := 2 } }) (fun u => u.power.tripped) = true := by
  decide +kernel
theorem test_sample_due : running.due .sample 0 1000 = true ∧
    ({ running with power := { base.power with ran := [((.sample, 0), 0)] } }).due .sample 0 1000 = false ∧
    ({ running with power := { base.power with ran := [((.sample, 0), 0)] }, lny := { base.lny with now := 1000 } }).due .sample 0 1000 = true := by decide
def deferred : State := { asleep with power := { asleep.power with ran := [((.defer, 31), 5)] } }
theorem test_deferred : deferred.lastRun .defer 31 = some 5 ∧ beatOf deferred.lny.shift 5 = deferred.lny.beat ∧
    ok (exec (.inrushGrant 31 681) deferred) (fun u => u.power.deferrals == 0) = true := by decide +kernel
/-- running with every cap at 1,200 W. -/
def able : State := { running with cap := { running.cap with ceil := 1200 }, thermal := { running.thermal with cart := .identified }, power := { running.power with bricks := 255 } }
/-- R388: with every condition met the module asks for the next gear. -/
theorem test_raise : able.power.gear + 1 ≤ able.sourceCeil ∧ able.power.cur = none ∧ able.power.queue = [] ∧
    (∀ r ∈ able.regions, r.waking = false) ∧ able.power.burstLowAt = none ∧ able.power.otherLowAt = none ∧ able.power.ramp = none ∧
    drawAt able.power.p20 0 able.power.gear (able.power.gear + 1) + 10 * able.power.guard ≤ 10 * able.capC ∧
    ok (exec (.raiseCheck 0 1000000) able) (fun u => (u.power.cur.map fun c => (c.next, c.up)) == some (1, true)) = true ∧
    ok (exec (.raiseCheck 0 1000001) able) (fun u => u.power.cur == none) = true := by decide +kernel
theorem test_stretch_calm : ok (exec (.stretchCheck 31 4) ({ running with lny := { base.lny with now := 1000000000 } }.modRegion 31 fun x => { x with stretchCap := 2 }))
    (fun u => (u.region 31).stretchCap == 3) = true ∧ 4 * 4 < running.power.stretchPct := by decide +kernel
/-- R392: a single bound partition gets the smaller of its request and what is left. -/
def oneBound : State := { (able.modPart 0 fun p => { p with bound := some image0 }) with
  power := { able.power with parts := (3, 900, 0, 0) :: base.power.parts.drop 1 } }
theorem test_share_one : (∀ q, q < 4 → ((oneBound.part q).bound.isSome = true ↔ q = 0)) ∧ (oneBound.prec 0).1 = 3 ∧ (oneBound.prec 0).2.1 = 900 ∧
    oneBound.due .share 0 100000000 = true ∧ oneBound.capC = 1200 := by decide +kernel
def ballasted : State := { running with power := { base.power with ramp := some (0, 5000), ballastPart := some 0, ballast := 7 } }
theorem test_ballast : (ballasted.geode 0).frozen = false ∧ ok (exec (.ballastAdjust 4000) ballasted) (fun u => u.power.ballast == 1000) = true ∧
    ok (exec (.ballastAdjust 5000) ballasted) (fun u => u.power.ballast == 0 && u.power.ramp == none) = true := by decide +kernel
def metered : State := after .meterRecord { minutes with cap := { minutes.cap with cdi1 := some 5 } }
theorem test_meter_sign : (metered.power.meter.find? fun r => r.sigs.isNone).isSome = true ∧ metered.mramIdle = true ∧ metered.cap.hss < 2 ^ 30 ∧
    metered.cap.cdi1.isSome = true := by decide +kernel
def ranAt0 (k : Task) (i : Nat) : State := { running with power := { base.power with ran := [((k, i), 0)] } }
theorem test_not_due : [(Instr.raiseCheck 0 0, Task.raise, 10000000), (.wearUpdate 0, .wear, 60000000000), (.shareBudget 0 [], .share, 100000000),
    (.ballastAdjust 0, .ballast, 1000000), (.inletRead 0, .inlet, 1000000000), (.hbmTempRead 0 none, .hbm, 100000),
    (.dieSensorRead 0 (List.replicate 64 none), .sensors, 100000), (.blowerUpdate 1 1, .blower, 100000000)].all (fun e =>
      !(ranAt0 e.2.1 0).due e.2.1 0 e.2.2 && ok (exec e.1 (ranAt0 e.2.1 0)) fun u => u == ranAt0 e.2.1 0) = true := by decide +kernel

theorem test_sensors : ok (exec (.dieSensorRead 3 (List.replicate 64 (some 50))) running) (fun u => (u.region 31).temps == List.replicate 8 (some 50)) = true := by
  decide +kernel
/-- R404: the third reading in a row at the limit trips. -/
def hot : State := { running with thermal := { base.thermal with spineTrip := List.replicate 15 0 ++ [2], inletTrip := 2 } }
theorem test_temperature_trips : ok (exec (.dieSensorRead 4 (List.replicate 15 (some 0) ++ [some 110])) hot) (fun u => u.power.tripped) = true ∧
    ok (exec (.inletRead 46) hot) (fun u => u.power.tripped) = true ∧
    ok (exec (.hbmTempRead 19 (some 105)) (running.modStk 19 fun x => { x with trips := 2 })) (fun u => u.power.tripped) = true := by decide +kernel
theorem test_fan : running.hottestDie = some 0 ∧ ok (exec (.blowerUpdate 1 1) running) (fun u => u.thermal.fanCmd == max (fanFor 0 60 30) (fanFor running.thermal.inlet 25 10)) = true ∧
    ({ running with regions := [] }).hottestDie = none := by decide +kernel

/-! The cartridge, ports and packets. -/

theorem test_cart_challenge : (cart 1 .identified).mayChallenge = true ∧ (cart 86400000000000 .failed).mayChallenge = true ∧
    ({ cart 5 .identified with thermal := { (cart 5 .identified).thermal with challengeDue := false } }).mayChallenge = false ∧
    ok (exec (.cartChallenge ⟨true, 7, 1, 2, 3, 4⟩) (cart 86400000000000 .failed)) (fun u => u.thermal.cart == .failed) = true ∧
    (cart 1 .identified).due .lifeTick 0 60000000000 = true ∧ (cart 1 .identified).due .lifeWrite 0 3600000000000 = true := by decide +kernel
/-- Whatever ECDSA is, a label it accepts identifies the cartridge (R408). -/
theorem test_cart_known (h : Config.ecdsaVerify 3 (Config.labelDigest 3 [Config.challenge 0, 1, 2]) 4 = true) :
    (cart 1 .identified).thermal.challenges = 0 ∧ (⟨true, 7, 1, 2, 3, 4⟩ : CartReply).rootHash = (cart 1 .identified).cap.cartHash ∧
    (cart 1 .identified).cap.cartRoot ≠ 0 ∧ (⟨true, 7, 1, 2, 3, 4⟩ : CartReply).answered = true ∧
    Config.ecdsaVerify (⟨true, 7, 1, 2, 3, 4⟩ : CartReply).key (Config.labelDigest 3
      [Config.challenge 0, (⟨true, 7, 1, 2, 3, 4⟩ : CartReply).cartId, (⟨true, 7, 1, 2, 3, 4⟩ : CartReply).life])
      (⟨true, 7, 1, 2, 3, 4⟩ : CartReply).signature = true := ⟨by decide, by decide, by decide, by decide, h⟩

theorem test_ctrl_ignored : ok (exec (.retrain 3 ctl 4 0) (portIs (down3 .down))) (fun u => u == portIs (down3 .down)) = true ∧
    ok (exec (.retrain 3 ⟨false, 0⟩ 4 0) upPort) (fun u => (u.port 3).crcErrors == 1 && (u.port 3).st == .up) = true ∧
    ok (exec (.retrain 3 ⟨true, 1⟩ 4 0) upPort) (fun u => (u.port 3).protoErrors == 1 && (u.port 3).st == .up) = true ∧
    ok (exec (.retrain 3 ctl 1 0) upPort) (fun u => (u.port 3).protoErrors == 1) = true := by decide +kernel
/-- Both sides at 2 lanes hold on, with 1 they are down; reason 2 takes all four (R287, R288). -/
theorem test_retrain_lanes : ok (exec (.retrain 3 ctl 4 0) (portIs { down3 .up with working := [0], lanes := 1 })) (fun u => (u.port 3).st == .down) = true ∧
    ok (exec (.retrain 3 ctl 4 2) (portIs { down3 .up with working := [0, 1], lanes := 2 })) (fun u => (u.port 3).lanes == 4) = true ∧
    ok (exec (.retrain 3 ctl 2 0) (portIs { down3 .retraining with ctrl := some (4, [3, 0]), lanes := 3 })) (fun u => (u.port 3).lanes == 2) = true ∧
    ok (exec (.retrainDone 3) (portIs (down3 .up))) (fun u => u == upPort) = true := by decide +kernel
def helloDone : State :=
  let s := joined 0 base
  { s with fabric := { s.fabric with ports := s.fabric.ports.set 3 { down3 .retraining with helloGot := true, peerNode := 9, peerPort := 9 } } }
theorem test_retrain_wrong : helloDone.expectPeer 0 3 ≠ (9, 9) ∧ helloDone.nodeId = some 0 ∧
    ok (exec (.retrainDone 3) helloDone) (fun u => (u.port 3).st == .miswired) = true ∧ base.nodeId = none := by decide +kernel
/-- R283: a NAK replays what is not acknowledged, the eighth in a row retrains (R288). -/
def nakFlit : Flit := sealed (2 ^ 24 + 2 ^ 25 + 2 ^ 26 + 4095 * 2 ^ 12) 0
theorem test_nak : flitGood nakFlit = true ∧ flitReserved nakFlit = false ∧ bit nakFlit.hdr 24 = true ∧ bit nakFlit.hdr 25 = true ∧
    bits nakFlit.hdr 26 3 = 1 ∧ bits nakFlit.hdr 12 12 = 4095 ∧
    ok (exec (.idleFlit 3 nakFlit) (portIs { down3 .up with replay := [flit1] })) (fun u => (u.port 3).replayRun == 1 && (u.port 3).wire.length == 1) = true ∧
    ok (exec (.idleFlit 3 nakFlit) (portIs { down3 .up with replay := [flit1], replayRun := 7 })) (fun u => (u.port 3).st == .retraining && (u.port 3).lanes == 3) = true := by
  decide +kernel
theorem test_send_full : ok (exec (.packetSend 3) (sending.modPort 3 fun x => { x with replay := List.replicate 512 flit1 })) (fun u => (u.port 3).out.length == 1) = true ∧
    (upPort.port 3).choose = none := by decide +kernel
theorem test_requests_held : (net readPkt).reachable 0 0x1000 = true ∧
    ((net readPkt).modStk 0 fun k => { k with training := true }).reachable 0 0x1000 = false ∧
    ok (exec (.readReq 0) ((net readPkt).modStk 0 fun k => { k with training := true })) (fun u => u.fabric.inbox.length == 1) = true ∧
    ok (exec (.readReq 0) { net (toSram ptRead 0 []) with sramBad := [0x40] }) (fun u => sentTypes u == [(ptRefuse, [])]) = true := by decide +kernel
theorem test_land_hbm : isTileSram 0x1000 = false ∧ bit (toHbm ptLand 0x3F line7).arg 8 = false ∧
    ok (exec (.landReq 0) (net (toHbm ptLand 0x3F line7))) (fun u => sentTypes u == [(ptLandAck, [])]) = true ∧
    ok (exec (.landReq 0) ((net (toSram ptLand 0x13F line7)).modDie 0 fun d => { d with flags := List.replicate 1024 flag0 }))
      (fun u => (u.die 0).flagWait.length == 1 && sentTypes u == []) = true := by decide +kernel
theorem test_go_waits : (match (heldNet ptLandGo).heldFlag 1 77 with
    | some (_, fl) => (heldNet ptLandGo).flagPlaceReady fl && isTileSram fl.off && decide (fl.tcnt ≠ 0) && fl.waits
    | none => false) = true ∧ (heldNet ptRead).timersStopped 0 = false := by decide +kernel
/-- R314: an answer that came by the expiry counts, one that came later does not. -/
theorem test_late_answer : (net readPkt).expiry (own ptRead) = 2000000 ∧
    (let s := answered ptRead ptReadRsp 0 line7
     ok (exec (.readRsp 0) { s with fabric := { s.fabric with inbox := s.fabric.inbox.map fun x => { x with at_ := 2000001 } } })
      (fun u => u.fabric.reqs == [] && u.fabric.discarded == 1)) = true ∧
    (answered ptRead ptReadRsp 0 line7).answerHere (own ptRead) = true ∧ (answered ptRead ptRead 0 []).answerHere (own ptRead) = false := by decide +kernel
theorem test_land_bad : bits 1 0 8 ≠ 0 ∧ (own ptLand).bad.getD (6, 4, (own ptLand).off) = (6, 4, 0x40) ∧
    ok (exec (.landAck 0) (answered ptLand ptLandAck 1 [])) (fun u => u.fabric.reqs == []) = true ∧ openBefore (own ptLand) [own ptLand] = false := by decide +kernel

/-! The cores' accesses (R225, R277, R293). -/

theorem test_device : ((net readPkt).allocs.find? fun al => al.has 0x1048).isSome = true ∧ (net readPkt).stackReady (alloc0 0) 0x1048 = true ∧
    ok (exec (.fabricWindowAccess .device 0x1048 (.load false)) (net readPkt)) (fun u => u.coreAns == some ⟨0, false⟩) = true ∧
    ok (exec (.fabricWindowAccess .device 0x5000 (.load false)) (net readPkt)) (fun u => u.coreAns == some ⟨BitVec.ofNat 64 (2 ^ 64 - 1), true⟩) = true ∧
    ok (exec (.fabricWindowAccess .device 0x1048 (.load false)) ((net readPkt).modStk 0 fun k => { k with training := true }))
      (fun u => u.coreWait == [(.device, 0x1048, .load false)]) = true := by decide +kernel
def waitingC : State := { base with coreWait := [(.device, 0, .lrsc)] }
theorem test_core_queue : ok (exec (.fabricWindowAccess .device 0 .lrsc) waitingC) (fun u => u.coreWait.length == 2) = true ∧
    coreReq 0 false .lrsc = none ∧ windowed.coreWait = [] ∧ some 1 ≠ windowed.nodeId ∧ windowed.unreachable 1 = false := by decide +kernel
/-- FENCE waits for the cores' remote stores; one of ow,ow makes the next store the release (R277). -/
def stored : State :=
  match execFabricWindowAccess (.fabric 15) 0x48 (.store false 255 9) windowed with
  | .next u => u
  | .fault _ => base
  | .refused _ => base
theorem test_core_fence : ok (exec (.fabricWindowAccess (.fabric 15) 0 (.fence 4 0)) stored) (fun u => u.coreWait.length == 1) = true ∧
    ok (exec (.fabricWindowAccess .device 0 (.fence 5 5)) base) (fun u => u.coreRel) = true ∧
    base.coreFence 5 5 ≠ none ∧ stored.coreFence 4 0 = none := by decide +kernel
theorem test_core_control : (atNow 77).regRead 0x10000 = (77, 0) ∧
    ok (exec (.fabricWindowAccess .control 0x10018 (.store false 15 1)) base) (fun u => u.errs != base.errs && u.lny == base.lny) = true ∧
    ok (exec (.fabricWindowAccess .control 0x10018 .lrsc) base) (fun u => u.coreAns == some ⟨BitVec.ofNat 64 (2 ^ 64 - 1), true⟩) = true := by decide +kernel
/-- R308: a node of the join list has 16 messages, the 17th is refused. -/
theorem test_message_quota : (let s := net (mgt ptMgtMsg 9)
    ok (exec (.mgtMsg 0) { s with fabric := { s.fabric with mgtGot := List.replicate 16 (mgt ptMgtMsg 9, some 0) } })
      (fun u => u.fabric.mgtGot.length == 16 && sentTypes u == [(ptRefuse, [])])) = true := by decide +kernel

/-! The Reef, the update engine and messages turned away. -/

/-- Another step than the group's is not taken; a leaf's RESEND is answered anew (R330). -/
theorem test_reef_other_step : ({ grp [1, 0, 2, 3] with step := some 3 }).accepts 4 = false ∧
    ok (exec (.contrib 0) (reefNet { grp [1, 0, 2, 3] with step := some 3 } 0 up4)) (fun u => u.fabric.inbox.length == 1) = true := by decide +kernel
def leafResend : State := reefNet (grp [1, 2, 3, 0]) 0 (reefIn 1 2 1 0 [])
theorem test_resend_leaf : treeKids 4 3 0 = [] ∧ leafResend.engReady 0 = true ∧ ok (exec (.resend 0) leafResend)
    (fun u => (outs u).map (fun p => (p.dest, bits (leAt p.data 0 8) 0 4)) == [(2, 0)]) = true := by decide +kernel
/-- A chunk that fails after RETRY attempts is failed, and counted (R330). -/
def lastTry : State := (reefNet (grp [0, 1]) 0 (upRoot 7)).modReef 0 fun r => { r with marks := [⟨4, 0, 0, 0, 0, .sent, 1⟩] }
theorem test_reef_fails : (lastTry.reef 0).mark 4 0 0 0 0 = some ⟨4, 0, 0, 0, 0, .sent, 1⟩ ∧ (lastTry.die 0).upd.todo = none ∧
    ok (exec (.contrib 0) lastTry) (fun u => ((u.reef 0).marks.map fun m => (m.fate, m.retries)) == [(.failed, 1)] && (u.reef 0).csumFails == 1) = true := by
  decide +kernel
theorem test_f32_goes_up : treeKids 4 1 0 = [3] ∧
    ok (exec (.f32Up 0) (pend (grp [1, 0, 2, 3]) 1 (reefIn 4 3 8 0 (times 8 one)) 0)) (fun u =>
      ((u.reef 0).buckets.map fun b => b.f32Sent) == [true] && (outs u).map (fun p => (p.dest, bits (leAt p.data 0 8) 0 4)) == [(1, 4)]) = true ∧
    ok (exec (.f32Down 0) (reefNet { grp [1, 0] with step := some 5 } 1 (reefIn 5 1 8 0 (times 8 one)))) (fun u => u.fabric.discarded == 1) = true := by
  decide +kernel
theorem test_report_stays : ok (exec (.reportSend 0 0) { closing with parts := closing.parts }) (fun u => (outs u).length == 1) = true ∧
    ({ grp [1, 0] with step := none }).step = none ∧ ok (exec (.decisionTimeout 0 0) closing) (fun u => (u.die 0).faultQ == []) = true := by decide +kernel
theorem test_pre_done : ok (exec (.preDecisionPass 0) (preDec.modUpd 0 fun u => { u with preDone := some 4 }))
    (fun u => decide (u = preDec.modUpd 0 fun u => { u with preDone := some 4 })) = true ∧ preDec.updLive 0 0 = true ∧ upd0.normEn = false ∧ upd0.lossEn = false := by
  decide +kernel

/-- inMail with nothing bound. -/
def unbound : State := inMail.modPart 0 fun p => { p with bound := none }
/-- Commands a job's agent is refused, each with the status of its rule (Table 14-7). -/
def refusedJob : List (Instr × Nat) :=
  [(.memMap call0 { entry0 with mode := 3 }, stReserved), (.memFill call0 0x9000 64 (.pattern 7), stRange), (.memChecksum call0 0x1001 1, stRange),
    (.progLoad call0 0x1000 64 none 4, stRange), (.progLoad call0 0x9000 64 none 0, stRange), (.fabJoin call0 { join0 with dimX := 0 }, stRange),
    (.fabGroup call0 ⟨12, [0, 1]⟩, stRange), (.fabWindow call0 16 none, stRange), (.fabWindow call0 0 (some 2), stRange), (.fabParam call0 10000001, stRange),
    (.pwrRequest call0 49 3, stRange), (.pwrRequest call0 100 8, stRange), (.timeShift call0 12, stBusy), (.cntStrataConfig call0 0 256 0 0, stRange),
    (.cntStrataRead call0 0 (List.replicate 9 0), stFormat), (.cntStrataClear call0 4 0, stPermission), (.cntStrataEnergy call0 none, stPermission),
    (.cntStrataEnergy call0 (some 4), stRange)]
theorem test_refused_job : (∀ e ∈ refusedJob, Safety.Taken inMail e.1 call0) ∧ refusedJob.all (fun e => ok (exec e.1 inMail) fun u => (status0 u).map Prod.fst == some e.2) = true :=
  ⟨fun e he => taken_of _ _ _ (by revert e; decide +kernel) (.inl rfl), by decide +kernel⟩
/-- What needs a binding, an image, a join or the state of the request (Table 14-7). -/
theorem test_refused_unbound : [(Instr.progBind call0 2 0, stNotHeld), (.progLaunch call0 98, stNotHeld), (.timeShift call0 7, stRange), (.timeShift call0 20, stOk)].all
      (fun e => ok (exec e.1 unbound) fun u => (status0 u).map Prod.fst == some e.2) = true ∧
    ok (exec (.fabLeave call0) (inMail.modPart 0 fun p => { p with join := none })) (fun u => status0 u == some (stNotHeld, 0)) = true ∧
    ok (exec (.cntDumpMap call0) (inMail.modGeode 0 fun g => { g with mapped := true })) (fun u => (status0 u).map Prod.fst == some stOk && u.allocs.length == 1) = true := by
  decide +kernel
/-- The turn goes round: a mailbox whose turn it is not, and the ninth command in progress (R421), wait. -/
def twoWait : State := inMail.modMbx 1 fun m => { m with owner := true, ver := some (1, 0), handAt := some 0 }
theorem test_turn : twoWait.mayStart (.mbx 0) = true ∧ twoWait.mayStart (.mbx 1) = false ∧ inMail.hasMsg (.mbx 1) = false ∧
    ok (exec (.memHold { call0 with src := .mbx 1 }) twoWait) (fun u => decide (u = twoWait)) = true := by decide +kernel
/-- While a stack trains, a command on memory waits; while MRAM is written, one that commits does (R171, R441). -/
theorem test_message_waits : ok (exec (.memFill call0 0x1000 64 (.pattern 7)) (inMail.modStk 0 fun k => { k with training := true }))
      (fun u => u.awaiting.length == 1 && status0 u == none) = true ∧
    ({ inMail with mram := { Mram.init with pulse := some ⟨.obsidian, none⟩ } }).mramIdle = false := by decide +kernel
theorem test_trailer_missing : ok (exec (.memScrub { call1 with msg := { call1.msg with trailer := none } } 5) inMail) (fun u => status0 u == some (stAuth, 0)) = true ∧
    ok (exec (.memScrub { call1 with msg := { call1.msg with trailer := some ⟨1, 0, 0, 1, 2, 3⟩ } } 5) inMail) (fun u => status0 u == some (stReserved, 0)) = true := by
  decide +kernel
theorem test_bind_conditions : needsCheck ((unbound.allocsOf 0).map (fun al => al.e) ++ image0.allocs) image0.needs = none ∧ image0.shift = unbound.lny.shift ∧
    (Safety.base unbound call0).placeAll 0 image0.allocs ≠ none ∧ ({ image0 with shift := 9 }).shift ≠ unbound.lny.shift ∧
    inMail.ahead 98 100000 = true ∧ (inMail.part 0).launched = false ∧ (inMail.part 0).binding = none := by decide +kernel
/-- Owner's writes: a smaller ceiling, none left, a pulse in flight (R378, R441). -/
theorem test_ceiling_write : ok (exec (.pwrCeilOwnerWrite true 600) base) (fun u => u.cap.ceil == 600) = true ∧ base.mramIdle = true ∧ 0 < base.cap.ceilLeft ∧
    ok (exec (.pwrCeilOwnerWrite true 600) { base with cap := { base.cap with ceilLeft := 0 } }) (fun u => u.cap.ceil == base.cap.ceil) = true ∧
    ok (exec (.pwrCeilOwnerWrite true 600) { base with mram := { Mram.init with pulse := some ⟨.obsidian, none⟩ } }) (fun u => u.awaiting.length == 1) = true ∧
    ok (exec (.thmCartPolicyWrite true 0x7D00001) base) (fun u => u.cap.cartRoot == 1 && u.cap.cartGrace == 2000) = true ∧
    ok (exec (.thmCartPolicyWrite true 0x7D10001) base) (fun u => u == base) = true := by decide +kernel

/-! Monitors, dumps and resets. -/

def faults2 : State := inMail.modDie 0 fun d => { d with faultQ := List.replicate 2 ((((after (.sstat 0 1 8) up).die 0).faultQ).headD ⟨0, 0, 0, 0, 0, 0, 0, 0, 0, 0, 0⟩) }
theorem test_faults_read : ok (exec (.cntFaults call0 1) faults2) (fun u => (u.die 0).faultQ.length == 1 && (status0 u).map Prod.fst == some stOk) = true ∧
    (faults2.diesOf 0).length = 4 := by decide +kernel
theorem test_strata_conditions : monRole inMail call0 0 255 = some stPermission ∧ monRole inMail call0 0 223 = none ∧ (inMail.monsOf 0).length = 256 ∧
    cfgBad 0 0 0xFF ≠ none ∧ ((inMail.mon 0 0).shadow && inMail.dieBound 0) = false ∧ inMail.partOfDie 3 = some 0 := by decide +kernel
theorem test_energy_second : (base.die 0).energy.second = base.now / SEC1 ∧ ((charged 1000000000).die 0).energy.ledger = [] := by decide +kernel
theorem test_dump_conditions : bestTrig [] = none ∧ ok (exec (.geodeTrigger 0 4 0x0600) ((dump { Geode.init with trigs := [trig0], frozen := true } 50)))
      (fun u => (u.geode 0).trigs.length == 1) = true ∧
    ok (exec (.geodeSettle 0) (dumping .settling 60)) (fun u => (u.geode 0).phase == .writing) = true ∧
    (dumping .settling 60).nothingFlies 0 = true ∧ (dumping .writing 0).engReady 0 = true ∧
    ok (exec (.geodeWriteEnd 0 false) (dumping .writing 20000061)) (fun u => (u.geode 0).phase == .writing) = true := by decide +kernel
theorem test_block_rows : (resetting .tile 0 []).blockIdle (blk0 .tile) = true ∧
    ok (exec (.blockResetIdle false) ((resetting .tile 49999 []).modTile 3 fun x => { x with arrQ := [⟨info0, .mflag 0 false⟩] }))
      (fun u => u.rst.blk.isSome || (u.sram == [])) = true ∧ blockCount .tile = 384 ∧
    inMail.rst.blk = none ∧ inMail.blockAllowed .tile 0 = false := by decide +kernel
theorem test_session_refusals : ok (exec (.mgtFrame (frame0 30817 false)) (hosted [])) (fun u => u.cap.mgtRefused == some (7, 8, stVersion)) = true ∧
    ok (exec (.mgtFrame (frame0 30817 true)) (hosted (List.replicate 8 (some { session0 0 with port := 9 })))) (fun u => u.cap.mgtRefused == some (7, 8, stBusy)) = true ∧
    ok (exec (.mgtFrame { frame0 30817 true with length := 4097 }) (hosted [])) (fun u => u.cap.mgtRefused == none) = true := by decide +kernel
theorem test_standby_kept : ok (exec .standbyLoss { base with power := { base.power with standby := true, feedA := { FeedRec.init with mv := 20000 } } })
    (fun u => u.power.standby) = true := by decide +kernel
theorem test_pulse_next : ok (exec .mramPulseEnd { pulsing with mram := { pulsing.mram with waiting := [⟨.obsidian, none⟩] } })
      (fun u => u.mram.pulse.isSome && u.mram.waiting == []) = true ∧ running.mram.pulse = none := by decide +kernel


end Sys2Proof.Tests
end

section
/-! PROOFS. The lanes and blocks of the vector registers (R116, R117), and what VPERM and VMASK write (R125, R142). -/
namespace Sys2Proof.Proofs.Vector

open Sys2Proof Sys2Proof.Machine

/-! Lists and conditions. -/

theorem getD_map_of_lt {α β : Type} (g : α → β) {l : List α} {k : Nat} (a : α) (b : β) (hk : k < l.length) :
    (l.map g).getD k b = g (l.getD k a) := by
  simp [List.getD_eq_getElem?_getD, hk]

/-- Element j of part k of parts of one length n laid end to end. -/
theorem getD_flatten_of_length {α : Type} {n j : Nat} (d : α) (hj : j < n) :
    ∀ (L : List (List α)) (k : Nat), (∀ l ∈ L, l.length = n) → L.flatten.getD (n * k + j) d = (L.getD k []).getD j d
  | [], _, _ => by simp
  | l :: L, 0, h => by
    have hl : j < l.length := h l List.mem_cons_self ▸ hj
    simp [List.getD_eq_getElem?_getD, List.getElem?_append_left hl]
  | l :: L, k + 1, h => by
    have hl : l.length = n := h l List.mem_cons_self
    have hpos : n * (k + 1) + j = l.length + (n * k + j) := by rw [hl, Nat.mul_succ]; omega
    have ih := getD_flatten_of_length d hj L k fun m hm => h m (List.mem_cons_of_mem l hm)
    rw [List.flatten_cons, hpos, List.getD_append_right _ _ _ _ (Nat.le_add_right _ _), Nat.add_sub_cancel_left, ih,
      List.getD_cons_succ]

theorem not_or_eq_true_iff (b c : Bool) : (!b || c) = true ↔ (b = true → c = true) := by
  cases b <;> simp

/-! Lanes of a register (R116). -/

theorem elemBits_lt (n w k : Nat) : elemBits n w k < 2 ^ w := Nat.mod_lt _ (Nat.two_pow_pos w)

/-- Packed elements read back, each cut to its width. -/
theorem elemBits_packBits (w : Nat) (l : List Nat) (k : Nat) : elemBits (packBits w l) w k = l.getD k 0 % 2 ^ w := by
  induction l generalizing k with
  | nil => simp [elemBits, bits, packBits]
  | cons x xs ih =>
    cases k with
    | zero => simp [elemBits, bits, packBits]
    | succ k =>
      have hx : x % 2 ^ w < 2 ^ w := Nat.mod_lt _ (Nat.two_pow_pos w)
      have htail : (x % 2 ^ w + 2 ^ w * packBits w xs) >>> w = packBits w xs := by
        rw [Nat.shiftRight_eq_div_pow, Nat.add_mul_div_left _ _ (Nat.two_pow_pos w), Nat.div_eq_of_lt hx, Nat.zero_add]
      rw [List.getD_cons_succ, ← ih k]
      simp only [elemBits, bits, packBits]
      rw [Nat.mul_succ, Nat.add_comm (w * k) w, Nat.shiftRight_add, htail]

/-- An element that lies below bit m does not see the bits that a word of m bits drops. -/
theorem elemBits_ofNat {n w k m : Nat} (h : w * k + w ≤ m) : elemBits (BitVec.ofNat m n).toNat w k = elemBits n w k := by
  refine Nat.eq_of_testBit_eq fun i => ?_
  simp only [elemBits, bits, BitVec.toNat_ofNat, Nat.testBit_mod_two_pow, Nat.testBit_shiftRight]
  by_cases hi : i < w
  · have : w * k + i < m := by omega
    simp [this]
  · simp [hi]

@[simp] theorem vLanes_length (v : VReg) (w : Nat) : (vLanes v w).length = 2048 / w := by simp [vLanes]

theorem vLanes_getD (v : VReg) {w k : Nat} (hk : k < 2048 / w) : (vLanes v w).getD k 0 = elemBits v.toNat w k := by
  simp [vLanes, List.getD_eq_getElem?_getD, hk]

theorem vLanes_getD_lt (v : VReg) (w k : Nat) : (vLanes v w).getD k 0 < 2 ^ w := by
  by_cases hk : k < 2048 / w
  · rw [vLanes_getD v hk]
    exact elemBits_lt _ _ _
  · rw [List.getD_eq_default _ _ (by simpa using hk)]
    exact Nat.two_pow_pos w

/-- The lanes of a packed register are the values packed, each cut to the lane's width. -/
theorem vLanes_vOfLanes {w k : Nat} (l : List Nat) (hk : k < 2048 / w) :
    (vLanes (vOfLanes w l) w).getD k 0 = l.getD k 0 % 2 ^ w := by
  have hbit : w * k + w ≤ 2048 :=
    calc w * k + w = w * (k + 1) := rfl
      _ ≤ w * (2048 / w) := Nat.mul_le_mul_left w hk
      _ ≤ 2048 := Nat.mul_div_le 2048 w
  rw [vLanes_getD _ hk, vOfLanes, elemBits_ofNat hbit, elemBits_packBits]

/-! Blocks of four registers (R117). -/

theorem blockOf_length (reg : Nat → VReg) (b : Nat) : (blockOf reg b).length = 256 := by
  simp [blockOf, List.length_flatten, List.map_map, Function.comp_def]

theorem blockOf_getD (reg : Nat → VReg) (b : Nat) {k j : Nat} (hk : k < 4) (hj : j < 64) :
    (blockOf reg b).getD (64 * k + j) 0 = (vLanes (reg (b + k)) 32).getD j 0 := by
  have hlen : ∀ l ∈ (List.range 4).map (fun k => vLanes (reg (b + k)) 32), l.length = 64 := by
    simp
  rw [blockOf, getD_flatten_of_length 0 hj _ _ hlen]
  simp [List.getD_eq_getElem?_getD, hk]

theorem blockRegs_names (b : Nat) (l : List Nat) : (blockRegs b l).map Prod.fst = [b, b + 1, b + 2, b + 3] := rfl

/-- Lane j of register k of a block is the block's element 64 k + j. -/
theorem blockRegs_lane (b : Nat) (l : List Nat) {k j : Nat} (hk : k < 4) (hj : j < 64) :
    (vLanes (((blockRegs b l).map Prod.snd).getD k 0) 32).getD j 0 = l.getD (64 * k + j) 0 % 2 ^ 32 := by
  have hreg : ((blockRegs b l).map Prod.snd).getD k 0 = vOfLanes 32 ((l.drop (64 * k)).take 64) := by
    simp [blockRegs, List.getD_eq_getElem?_getD, hk]
  rw [hreg, vLanes_vOfLanes _ hj]
  simp [List.getD_eq_getElem?_getD, hj]

/-! VPERM (R125). -/

/-- The formats of VPERM with their lane widths. -/
theorem perm_width {fmt n w : Nat} (h : fmt = 0 ∧ n = 6 ∧ w = 32 ∨ (fmt = 1 ∨ fmt = 2) ∧ n = 7 ∧ w = 16) :
    (fpOf fmt).width = w ∧ fmtBits fmt = w ∧ 2048 / w = 2 ^ n ∧ n < 8 := by
  obtain ⟨rfl, rfl, rfl⟩ | ⟨rfl | rfl, rfl, rfl⟩ := h <;> decide

theorem orAll_zero {α : Type} (l : List α) : orAll (l.map fun _ => 0) = 0 := by
  unfold orAll
  induction l with
  | nil => rfl
  | cons a l ih => rw [List.map_cons, List.foldl_cons, Nat.or_zero, ih]

/-- Bit n of an index and the lane it names are those of its low 8 bits. -/
theorem index_low_bits (i : Nat) {n : Nat} (hn : n < 8) :
    (i / 2 ^ n % 2 = 1 ↔ bit (i % 256) n = true) ∧ i % 2 ^ n = i % 256 % 2 ^ n := by
  constructor
  · have hlow : (i % 2 ^ 8).testBit n = i.testBit n := by rw [Nat.testBit_mod_two_pow, decide_eq_true hn, Bool.true_and]
    rw [bit, show 256 = 2 ^ 8 from rfl, hlow, Nat.testBit_eq_decide_div_mod_eq, decide_eq_true_iff]
  · rw [show 256 = 2 ^ 8 from rfl, Nat.mod_mod_of_dvd _ (pow_dvd_pow 2 hn.le)]

theorem vPerm_flags (env : VEnv) (x : VItem) : (vPerm env x).flags = 0 := by
  simp only [vPerm, laneRes, List.map_map, Function.comp_def, orAll_zero]

/-- The lane that index i picks among 2^n lanes of width w. -/
def permLane (env : VEnv) (f : VecF) (n w i : Nat) : Nat :=
  (vLanes (env.reg (if bit i n then f.vc else f.va)) w).getD (i % 2 ^ n) 0

/-- VPERM packs one picked lane for each lane of VB. -/
theorem vPerm_regs (env : VEnv) (x : VItem) {n w : Nat}
    (h : x.f.fmt = 0 ∧ n = 6 ∧ w = 32 ∨ (x.f.fmt = 1 ∨ x.f.fmt = 2) ∧ n = 7 ∧ w = 16) :
    (vPerm env x).regs =
      [(x.f.vd, vOfLanes w ((vLanes (env.reg x.f.vb) w).map fun i => permLane env x.f n w (i % 256)))] := by
  obtain ⟨hwidth, hbits, hlanes, hn⟩ := perm_width h
  simp only [vPerm, laneRes, hwidth, hbits, hlanes, List.map_map, Function.comp_def]
  congr 4
  funext i
  obtain ⟨hbit, hmod⟩ := index_low_bits i hn
  simp only [permLane, ← hbit, ← hmod]
  split <;> rfl

/-- Settles O12: a picked lane fits the lane it is packed into, and the choice reads the low 8 bits of the index alone. -/
theorem permuteByIndex : Obligations.PermuteByIndex := by
  intro env x n w hkind hfmt
  obtain ⟨-, -, hlanes, -⟩ := perm_width hfmt
  refine ⟨vPerm env x, _, by simp only [vCompute, hkind], vPerm_flags env x, vPerm_regs env x hfmt, rfl, rfl, ?_⟩
  rintro l i hl rfl
  have hl : l < 2048 / w := hlanes ▸ hl
  have hpicked : ∀ k, permLane env x.f n w k < 2 ^ w := fun k => vLanes_getD_lt _ _ _
  rw [vLanes_vOfLanes _ hl, getD_map_of_lt _ 0 0 (by simpa using hl), Nat.mod_eq_of_lt (hpicked _), permLane]

/-! VMASK (R142). -/

/-- The conditions that SUB selects, for query position q and key position k. -/
def maskKeeps (f : VecF) (tab : List (Nat × Nat)) (q k : Nat) : Bool :=
  (!bit f.sub 0 || k ≤ q) &&
  (!bit f.sub 1 || (tagOf tab q == tagOf tab k && tagOf tab q != 0xFF)) &&
  (!bit f.sub 2 || (q : Int) - k < f.imm)

theorem maskKeeps_iff (f : VecF) (tab : List (Nat × Nat)) (q k : Nat) : maskKeeps f tab q k = true ↔
    (bit f.sub 0 = true → k ≤ q) ∧ (bit f.sub 1 = true → tagOf tab q = tagOf tab k ∧ tagOf tab q ≠ 0xFF) ∧
      (bit f.sub 2 = true → (q : Int) - k < f.imm) := by
  simp only [maskKeeps, Bool.and_eq_true, not_or_eq_true_iff, decide_eq_true_iff, beq_iff_eq, bne_iff_ne, and_assoc]

/-- Element e of the masked block. -/
def maskElem (env : VEnv) (x : VItem) (v e : Nat) : Nat :=
  if maskKeeps x.f env.seqtab ((env.sca x.f.xa).toNat + e / 16) ((env.sca x.f.xb).toNat + e % 16) then v else 0xFF800000

theorem vMask_regs (env : VEnv) (x : VItem) : (vMask env x).regs =
    blockRegs x.f.vd (List.zipWith (maskElem env x) (blockOf env.reg x.f.vd) (List.range 256)) := rfl

theorem maskElem_lt (env : VEnv) (x : VItem) {v : Nat} (e : Nat) (hv : v < 2 ^ 32) : maskElem env x v e < 2 ^ 32 := by
  unfold maskElem
  split
  · exact hv
  · decide

/-- Lane j of register k of VMASK's record is that lane of the block at VD, masked. -/
theorem vMask_lane (env : VEnv) (x : VItem) {k j : Nat} (hk : k < 4) (hj : j < 64) :
    (vLanes (((vMask env x).regs.map Prod.snd).getD k 0) 32).getD j 0 =
      maskElem env x ((vLanes (env.reg (x.f.vd + k)) 32).getD j 0) (64 * k + j) := by
  have he : 64 * k + j < 256 := by omega
  have helem : (List.zipWith (maskElem env x) (blockOf env.reg x.f.vd) (List.range 256)).getD (64 * k + j) 0 =
      maskElem env x ((blockOf env.reg x.f.vd).getD (64 * k + j) 0) (64 * k + j) := by
    simp [List.getD_eq_getElem?_getD, blockOf_length, he]
  rw [vMask_regs, blockRegs_lane _ _ hk hj, helem, blockOf_getD _ _ hk hj,
    Nat.mod_eq_of_lt (maskElem_lt env x _ (vLanes_getD_lt _ _ _))]

/-- VMASK's row and column of an element of the block. -/
theorem maskElem_row_col (env : VEnv) (x : VItem) (v row : Nat) {col : Nat} (hc : col < 16) :
    maskElem env x v (64 * (row / 4) + (row % 4 * 16 + col)) =
      if maskKeeps x.f env.seqtab ((env.sca x.f.xa).toNat + row) ((env.sca x.f.xb).toNat + col) then v else 0xFF800000 := by
  have hrow : (64 * (row / 4) + (row % 4 * 16 + col)) / 16 = row := by omega
  have hcol : (64 * (row / 4) + (row % 4 * 16 + col)) % 16 = col := by omega
  rw [maskElem, hrow, hcol]

/-- Table 05-3: WINDOW with IMM 0 is no encoding of VMASK. -/
theorem vFmtOk_vmask_window_zero {f : VecF} (hwindow : bit f.sub 2 = true) (himm : f.imm = 0) : vFmtOk .vmask f = false := by
  simp [vFmtOk, hwindow, himm]

/-- Settles O13: the record is the block at VD, masked element by element, and no element outgrows its lane. -/
theorem maskKeepsElements : Obligations.MaskKeepsElements := by
  refine ⟨fun env x hkind => ?_, fun f => vFmtOk_vmask_window_zero⟩
  refine ⟨vMask env x, by simp only [vCompute, hkind], rfl, rfl, rfl, ?_, ?_⟩
  · rw [vMask_regs, blockRegs_names]
  · rintro row col q k hrow hcol rfl rfl
    rw [vMask_lane env x (by omega) (by omega), maskElem_row_col env x _ row hcol]
    simp only [maskKeeps_iff]

end Sys2Proof.Proofs.Vector
end

section
/-! PROOFS. Lanyard's count and fraction in one cycle, and the clamp of TRIM (R149). -/
namespace Sys2Proof.Proofs.Lanyard

open Sys2Proof Sys2Proof.Machine

/-! One cycle. -/

@[simp] theorem tick_trim (l : Lny) : l.tick.trim = l.trim := rfl

theorem tick_frac (l : Lny) : (l.tick.frac : Int) = (l.frac + l.trim) % 2 ^ 40 :=
  Int.toNat_of_nonneg (Int.emod_nonneg _ (by decide))

theorem tick_frac_lt (l : Lny) : l.tick.frac < 2 ^ 40 := by
  have hfrac := tick_frac l
  have hmod : ((l.frac : Int) + l.trim) % 2 ^ 40 < 2 ^ 40 := Int.emod_lt_of_pos _ (by decide)
  omega

theorem tick_now_of_skip_false {l : Lny} (hskip : l.skip = false) :
    l.tick.now = l.now + if (2 : Int) ^ 40 ≤ l.frac + l.trim then 2 else if (l.frac : Int) + l.trim < 0 then 0 else 1 := by
  simp [Lny.tick, hskip]

/-- While TRIM is at most one nanosecond a cycle, the count advances by 1 ns and the floor of the new fraction in nanoseconds:
a borrow, nothing, or a carry. -/
theorem tick_now_eq_floor {l : Lny} (hskip : l.skip = false) (hfrac : l.frac < 2 ^ 40) (hlo : -(2 ^ 40) ≤ l.trim)
    (hhi : l.trim ≤ 2 ^ 40) : (l.tick.now : Int) = l.now + 1 + (l.frac + l.trim) / 2 ^ 40 := by
  rw [tick_now_of_skip_false hskip]
  split_ifs with hcarry hborrow
  · have hfloor : ((l.frac : Int) + l.trim) / 2 ^ 40 = 1 := by omega
    omega
  · have hfloor : ((l.frac : Int) + l.trim) / 2 ^ 40 = -1 := by omega
    omega
  · have hfloor : ((l.frac : Int) + l.trim) / 2 ^ 40 = 0 := by omega
    omega

/-- R149: the cycle is exact, since floor and remainder of the new fraction make it up again. -/
theorem tick_total {l : Lny} (hskip : l.skip = false) (hfrac : l.frac < 2 ^ 40) (hlo : -(2 ^ 40) ≤ l.trim)
    (hhi : l.trim ≤ 2 ^ 40) :
    (l.tick.now : Int) * 2 ^ 40 + l.tick.frac = (l.now : Int) * 2 ^ 40 + l.frac + (2 ^ 40 + l.trim) := by
  have hsplit : ((l.frac : Int) + l.trim) / 2 ^ 40 * 2 ^ 40 + (l.frac + l.trim) % 2 ^ 40 = l.frac + l.trim :=
    Int.ediv_mul_add_emod _ _
  rw [tick_now_eq_floor hskip hfrac hlo hhi, tick_frac]
  linarith

/-! The clamp of TRIM. -/

theorem le_clampTrim (v : Int) : -(2 ^ 28) ≤ clampTrim v := le_max_left _ _

theorem clampTrim_le (v : Int) : clampTrim v ≤ 2 ^ 28 := max_le (by decide) (min_le_left _ _)

theorem clampTrim_of_mem {v : Int} (hlo : -(2 ^ 28) ≤ v) (hhi : v ≤ 2 ^ 28) : clampTrim v = v := by
  rw [clampTrim, min_eq_right hhi, max_eq_right hlo]

theorem exec_lnyTrimWrite_capstan (v : W64) (s : State) : exec (.lnyTrimWrite true v) s =
    .next (s.modLny fun l => { l with trim := clampTrim (toSigned 32 (v.toNat % 2 ^ 32)) }) := rfl

/-! LNY_STATUS. -/

theorem status_set_frac (l : Lny) (f : Nat) : Lny.status { l with frac := f } = l.status := rfl

/-- Settles O31: a cycle splits the new fraction into floor and remainder, and TRIM is what the clamp leaves. -/
theorem lanyardFraction : Obligations.LanyardFraction := by
  refine ⟨fun l hskip hfrac hlo hhi => ?_, fun s v => ?_, status_set_frac⟩
  · exact ⟨tick_total hskip hfrac (by omega) (by omega), tick_frac_lt l, tick_trim l⟩
  · exact ⟨_, exec_lnyTrimWrite_capstan v s, le_clampTrim _, clampTrim_le _, clampTrim_of_mem⟩

end Sys2Proof.Proofs.Lanyard
end

section
/-! PROOFS. The cells that the four byte stores list, and the operations that leave them as they are. -/
namespace Sys2Proof.Proofs.Stores

open Sys2Proof Sys2Proof.Machine Sys2Proof.Laws

/-- The cells that the four byte stores list. -/
def stores (s : State) : List Host.Cell × List Host.Cell × List Host.Cell × List Host.Cell :=
  (s.sram, s.hbm, s.flash, s.standby.amber)

theorem stores_eq_iff {s v : State} : stores v = stores s ↔ SameBytes s v := by
  constructor
  · intro h
    simp only [stores, Prod.mk.injEq] at h
    exact ⟨h.1, h.2.1, h.2.2.1, h.2.2.2⟩
  · intro h
    simp only [stores, h.sram, h.hbm, h.flash, h.amber]

theorem stores_of_same {s v : State} (h : SameBytes s v) : stores v = stores s := stores_eq_iff.mpr h

/-- An update of the other parts of a state lists what the state lists. -/
@[simp] theorem stores_mk (s : State) (pending lny regions power thermal tiles sramBad fly tileReqs poison crcs stks dies fabric
    parts
    allocs cap errs obs mram awaiting geodes spineMons rst pins irqs coreAns coreWait coreRel coreLoads free) :
    stores ⟨pending, lny, regions, power, thermal, tiles, s.sram, sramBad, fly, tileReqs, s.hbm, poison, crcs, stks, dies, fabric,
      parts, allocs, cap, s.standby, errs, obs, s.flash, mram, awaiting, geodes, spineMons, rst, pins, irqs, coreAns, coreWait,
    coreRel,
      coreLoads, free⟩ = stores s := (rfl)

@[simp] theorem stores_mk_standby (s : State) (amberBad bkp cause afterTrip moduleResets capRestarts pending lny regions power
    thermal
    tiles sramBad fly tileReqs poison crcs stks dies fabric parts allocs cap errs obs mram awaiting geodes spineMons rst pins irqs
    coreAns coreWait coreRel coreLoads free) :
    stores ⟨pending, lny, regions, power, thermal, tiles, s.sram, sramBad, fly, tileReqs, s.hbm, poison, crcs, stks, dies, fabric,
      parts, allocs, cap, ⟨s.standby.amber, amberBad, bkp, cause, afterTrip, moduleResets, capRestarts⟩, errs, obs, s.flash, mram,
      awaiting, geodes, spineMons, rst, pins, irqs, coreAns, coreWait, coreRel, coreLoads, free⟩ = stores s := (rfl)

@[simp] theorem stores_ite (c : Prop) [Decidable c] (s v : State) :
    stores (if c then s else v) = if c then stores s else stores v :=
  apply_ite stores c s v

/-- A fold of operations that leave the stores alone. -/
@[simp] theorem stores_foldl {α : Type} {f : State → α → State} (h : ∀ s x, stores (f s x) = stores s) :
    ∀ (l : List α) (s : State), stores (l.foldl f s) = stores s
  | [], _ => rfl
  | x :: l, s => (stores_foldl h l (f s x)).trans (h s x)

@[simp] theorem stores_getD {o : Option State} {s : State} (h : ∀ v, o = some v → stores v = stores s) :
    stores (o.getD s) = stores s := by
  cases o with
  | none => rfl
  | some v => exact h v rfl

theorem onInst_next {ok : Bool} {s u : State} {f : State → State} : onInst ok s f = .next u ↔ ok = true ∧ f s = u := by
  cases ok <;> simp [onInst]

@[simp] theorem stores_modTile (s : State) (t : Nat) (f : Tile → Tile) : stores (s.modTile t f) = stores s :=
  stores_of_same (bytes_modTile s t f)

@[simp] theorem stores_freeReads (s : State) (t : Nat) : stores (s.freeReads t) = stores s := by
  simp [State.freeReads]

@[simp] theorem stores_modPage (s : State) (k : Nat) (f : ErrPage → ErrPage) : stores (s.modPage k f) = stores s :=
  stores_of_same (bytes_modPage s k f)

@[simp] theorem stores_modDie (s : State) (d : Nat) (f : Die → Die) : stores (s.modDie d f) = stores s :=
  stores_of_same (bytes_modDie s d f)

@[simp] theorem stores_raiseIrq (s : State) (n : Nat) : stores (s.raiseIrq n) = stores s := stores_of_same (bytes_raiseIrq s n)

@[simp] theorem stores_postPage (s : State) (k : Nat) (r : EvRec) : stores (s.postPage k r) = stores s :=
  stores_of_same (bytes_postPage s k r)

@[simp] theorem stores_post (s : State) (p : Option Nat) (e src layer op detail : Nat) :
    stores (s.post p e src layer op detail) = stores s :=
  stores_of_same (bytes_post s p e src layer op detail)

@[simp] theorem stores_mramWrite (s : State) (q : MramReq) : stores (s.mramWrite q) = stores s :=
  stores_of_same (bytes_mramWrite s q)

@[simp] theorem stores_log (s : State) (rtype part : Nat) (payload : List Nat) : stores (s.log rtype part payload) = stores s :=
  stores_of_same (bytes_log s rtype part payload)

@[simp] theorem stores_postFault (s : State) (d source : Nat) (r : FaultRec) (step : Nat) :
    stores (s.postFault d source r step) = stores s := by
  unfold State.postFault
  dsimp only
  (repeat' split) <;> simp

@[simp] theorem stores_modReef (s : State) (d : Nat) (f : Reef → Reef) : stores (s.modReef d f) = stores s :=
  stores_of_same (bytes_modReef s d f)

@[simp] theorem stores_setVeto (s : State) (d step : Nat) (v : Veto) (source layer op : Nat) :
    stores (s.setVeto d step v source layer op) = stores s := by
  simp [State.setVeto]

@[simp] theorem stores_modGeode (s : State) (p : Nat) (f : Geode → Geode) : stores (s.modGeode p f) = stores s :=
  stores_of_same (bytes_modGeode s p f)

@[simp] theorem stores_trigger (s : State) (p : Option Nat) (tr : Trig) : stores (s.trigger p tr) = stores s := by
  unfold State.trigger
  split <;> simp

@[simp] theorem stores_fault (s : State) (t : Nat) (i : Info) (ipValid : Bool) (cls code detail : Nat) :
    stores (s.fault t i ipValid cls code detail) = stores s := by
  unfold State.fault
  dsimp only
  (repeat' split) <;> simp

@[simp] theorem stores_postParity (s : State) (t a reader layer op : Nat) :
    stores (s.postParity t a reader layer op) = stores s := by
  simp [State.postParity]

@[simp] theorem stores_takeSet (s : State) (t : Nat) (i : Info) (set src : Nat) (bs : List Byte) :
    stores (s.takeSet t i set src bs) = stores s := by
  simp [State.takeSet]

@[simp] theorem stores_loadSet (s : State) (t : Nat) (i : Info) (set src : Nat) : stores (s.loadSet t i set src) = stores s := by
  unfold State.loadSet
  split <;> simp

theorem stores_arrBegin (s : State) (t : Nat) : ∀ v, State.arrBegin s t = some v → stores v = stores s := by
  unfold State.arrBegin
  dsimp only
  (repeat' split) <;> simp

@[simp] theorem stores_charge (s : State) (d gear layer op kind n : Nat) : stores (s.charge d gear layer op kind n) = stores s := by
  simp [State.charge]

theorem stores_vxeBegin (s : State) (t : Nat) : ∀ v, State.vxeBegin s t = some v → stores v = stores s := by
  unfold State.vxeBegin
  dsimp only
  (repeat' split) <;> simp

@[simp] theorem stores_modGroup (s : State) (d g : Nat) (f : GroupSt → GroupSt) : stores (s.modGroup d g f) = stores s := by
  simp [State.modGroup]

@[simp] theorem stores_setCache (s : State) (d : Nat) (l : CacheLine) : stores (s.setCache d l) = stores s := by
  simp [State.setCache]

@[simp] theorem stores_lineParity (s : State) (d key off : Nat) (p : Option Nat) :
    stores (s.lineParity d key off p) = stores s := by
  unfold State.lineParity
  split <;> simp

@[simp] theorem stores_keepCrc (s : State) (al : Alloc) (off : Nat) (whole : Bool) (old new : List Byte) :
    stores (s.keepCrc al off whole old new) = stores s := by
  unfold State.keepCrc
  split
  · rfl
  · exact stores_modDie _ _ _

@[simp] theorem stores_modMon (s : State) (d m : Nat) (f : Monitor → Monitor) : stores (s.modMon d m f) = stores s := by
  simp [State.modMon]

@[simp] theorem stores_dropSample (s : State) (d m : Nat) : stores (s.dropSample d m) = stores s := by
  simp [State.dropSample]

@[simp] theorem stores_sample (s : State) (d m raw : Nat) (force : Bool) : stores (s.sample d m raw force) = stores s := by
  simp [State.sample]

@[simp] theorem stores_sampleEvent (s : State) (e : SampleEvent) : stores (s.sampleEvent e) = stores s := by
  simp [State.sampleEvent]

@[simp] theorem stores_emit (s : State) (d source raw layer op strandId seqTag inst : Nat) :
    stores (s.emit d source raw layer op strandId seqTag inst) = stores s := by
  simp [State.emit]

theorem stores_granted {s v : State} {d k : Nat} {ok : HomeReq → Bool} {q : HomeReq} (h : s.granted d k ok = some (q, v)) :
    stores v = stores s := by
  unfold State.granted at h
  dsimp only at h
  split at h
  · cases h
  · obtain ⟨r, -, hr⟩ := Option.map_eq_some_iff.mp h
    cases hr
    simp

@[simp] theorem stores_modOp (s : State) (t id : Nat) (f : PorOp → PorOp) : stores (s.modOp t id f) = stores s := by
  simp [State.modOp]

@[simp] theorem stores_answerTile (s : State) (t op : Nat) (x : Resp) : stores (s.answerTile t op x) = stores s := by
  simp [State.answerTile]

@[simp] theorem stores_answer_ (s : State) (who : Who) (fin : ReqEnd) (data : List Byte) (crc : Option Nat) :
    stores (s.answer_ who fin data crc) = stores s := by
  unfold State.answer_
  split <;> simp

@[simp] theorem stores_toHome (s : State) (d : Nat) (q : HomeReq) : stores (s.toHome d q) = stores s := by
  simp [State.toHome]

@[simp] theorem stores_reefFault (s : State) (d step : Nat) (why : Nat × Nat × Nat) :
    stores (s.reefFault d step why) = stores s := by
  simp [State.reefFault]

@[simp] theorem stores_modBucket (s : State) (d g b : Nat) (f : Bucket → Bucket) : stores (s.modBucket d g b f) = stores s := by
  simp [State.modBucket]

@[simp] theorem stores_drawFree (s : State) : stores s.drawFree.2 = stores s := stores_of_same (bytes_drawFree s)

@[simp] theorem stores_reefFlags (s : State) (d fl : Nat) : stores (s.reefFlags d fl) = stores s := by
  simp [State.reefFlags]

@[simp] theorem stores_addToken (s : State) (t k n : Nat) : stores (s.addToken t k n) = stores s := by
  simp [State.addToken]

@[simp] theorem stores_shardDone (s : State) (d : Nat) (x : GroupSt) (b : Bucket) (step : Nat) :
    stores (s.shardDone d x b step) = stores s := by
  simp [State.shardDone]

@[simp] theorem stores_sealBlock (s : State) (p b : Nat) : stores (s.sealBlock p b) = stores s := by
  unfold State.sealBlock
  split
  · rfl
  · split
    · rfl
    · exact stores_modDie _ _ _

@[simp] theorem stores_sealOut (s : State) (d p step : Nat) (x : GroupSt) (b : Bucket) (c : Nat) :
    stores (s.sealOut d p step x b c) = stores s := by
  simp [State.sealOut]

@[simp] theorem stores_modFab (s : State) (f : Fabric → Fabric) : stores (s.modFab f) = stores s :=
  stores_of_same (bytes_modFab s f)

@[simp] theorem stores_countDiscard (s : State) : stores (s.countDiscard) = stores s := by
  simp [State.countDiscard]

@[simp] theorem stores_modPort (s : State) (p : Nat) (f : Port → Port) : stores (s.modPort p f) = stores s :=
  stores_of_same (bytes_modPort s p f)

theorem stores_queuePkt {s v : State} {p : Packet} {inp at_ : Nat} (h : s.queuePkt p inp at_ = some v) : stores v = stores s := by
  unfold State.queuePkt at h
  split at h <;> cases h
  simp

@[simp] theorem stores_inject (s : State) (p : Packet) : stores (s.inject p) = stores s := stores_of_same (bytes_inject s p)

@[simp] theorem stores_sendReef (s : State) (p : Nat) (x : GroupSt) (rank : Nat) (a5 : RHead) (payload : List Byte) :
    stores (s.sendReef p x rank a5 payload) = stores s := by
  simp [State.sendReef]

@[simp] theorem stores_sendResend (s : State) (p : Nat) (x : GroupSt) (step b sh c : Nat) :
    stores (s.sendResend p x step b sh c) = stores s := by
  simp [State.sendResend]

@[simp] theorem stores_raiseFlags (s : State) (t : Nat) (i : Info) (fl : Nat) : stores (s.raiseFlags t i fl) = stores s := by
  simp [State.raiseFlags]

theorem stores_reefCloseBegin (s : State) (t : Nat) (o : PorOp) (g : Nat) : ∀ v, State.reefCloseBegin s t o g
    = some v → stores v = stores s := by
  unfold State.reefCloseBegin
  dsimp only
  (repeat' split) <;> simp

@[simp] theorem stores_porStart (s : State) (t : Nat) (o : PorOp) : stores (s.porStart t o) = stores s := by
  unfold State.porStart
  dsimp only
  (repeat' split) <;> simp

theorem stores_sigBegin (s : State) (t : Nat) : ∀ v, State.sigBegin s t = some v → stores v = stores s := by
  unfold State.sigBegin
  dsimp only
  split <;> simp

/-- Issuing leaves the stores alone where what the instruction answers does. -/
theorem stores_issue {s : State} {t : Nat} {sram por : Bool} {act : Nat → Slot → Info → Issue}
    (h : ∀ k sl i v, act k sl i = .done v ∨ (∃ ip, act k sl i = .jump ip v) → stores v = stores s) :
    stores (s.issue t sram por act) = stores s := by
  unfold State.issue
  dsimp only
  repeat' split
  all_goals simp
  · next heq => exact h _ _ _ _ (.inl heq)
  · next heq => exact h _ _ _ _ (.inr ⟨_, heq⟩)

@[simp] theorem stores_setReg (s : State) (t r : Nat) (v : W64) : stores (s.setReg t r v) = stores s := by
  simp [State.setReg]

@[simp] theorem stores_issueReg (s : State) (t xd : Nat) (f : Slot → Option W64) : stores (s.issueReg t xd f) = stores s := by
  refine stores_issue fun k sl i v h => ?_
  split at h
  · simp at h
  · split at h <;> simp at h
    rw [← h, stores_setReg]

@[simp] theorem stores_freePanels (s : State) (t : Nat) : stores (s.freePanels t) = stores s := by
  simp [State.freePanels]

@[simp] theorem stores_putSlice (s : State) (t : Nat) (isB : Bool) (idx : Nat) (sl : Slice) :
    stores (s.putSlice t isB idx sl) = stores s := by
  simp [State.putSlice]

@[simp] theorem stores_feedFaults (s : State) (bad : Nat) (us : List Nat) (infos : List Info) :
    stores (s.feedFaults bad us infos) = stores s := by
  simp [State.feedFaults]

@[simp] theorem stores_feedFrom (s : State) (t src : Nat) (isB : Bool) (idx : Nat) (m : MmaRec) (rel : Nat) (us : List Nat) :
    stores (s.feedFrom t src isB idx m rel us) = stores s := by
  unfold State.feedFrom
  split <;> simp

@[simp] theorem stores_sramUpset (s : State) (t a : Nat) : stores (s.sramUpset t a) = stores s := by
  simp [State.sramUpset]

@[simp] theorem stores_upsetIn (s : State) (t : Nat) (u : Option Nat) : stores (upsetIn s t u) = stores s := by
  unfold upsetIn
  split <;> simp

@[simp] theorem stores_raiseMflags (s : State) (t : Nat) (i : Info) (m dpu : Nat) :
    stores (s.raiseMflags t i m dpu) = stores s := by
  simp [State.raiseMflags]

@[simp] theorem stores_drain (s : State) (t j : Nat) : stores (s.drain t j) = stores s := by
  unfold State.drain
  dsimp only
  split <;> simp

@[simp] theorem stores_sigToken (s : State) (t : Nat) (sig : Option Nat) : stores (s.sigToken t sig) = stores s := by
  unfold State.sigToken
  split <;> simp

@[simp] theorem stores_shadowFeed (s : State) (d m layer op imm : Nat) (us : List Nat) :
    stores (s.shadowFeed d m layer op imm us) = stores s := by
  simp [State.shadowFeed]

@[simp] theorem stores_tellFlag (s : State) (fl : FlagLine) (ptype status reason : Nat) :
    stores (s.tellFlag fl ptype status reason) = stores s := by
  unfold State.tellFlag
  split <;> simp

@[simp] theorem stores_returnCredits (s : State) (port vc cls n : Nat) : stores (s.returnCredits port vc cls n) = stores s :=
  stores_of_same (bytes_returnCredits s port vc cls n)

@[simp] theorem stores_flagGrant (s : State) (d : Nat) : stores (s.flagGrant d) = stores s := by
  unfold State.flagGrant
  dsimp only
  (repeat' split) <;> simp

@[simp] theorem stores_flagFill (s : State) (d : Nat) : stores (s.flagFill d) = stores s := by
  simp [State.flagFill]

@[simp] theorem stores_dropFlags (s : State) (t op : Nat) (fin : ReqEnd) : stores (s.dropFlags t op fin) = stores s := by
  simp [State.dropFlags]

@[simp] theorem stores_credit (s : State) (t : Nat) (item give : Bool) : stores (s.credit t item give) = stores s := by
  simp [State.credit]

@[simp] theorem stores_postLat (s : State) (t : Nat) (o : PorOp) (req : Nat) : stores (s.postLat t o req) = stores s := by
  unfold State.postLat
  split <;> simp

@[simp] theorem stores_finishOp (s : State) (t : Nat) (o : PorOp) : stores (s.finishOp t o) = stores s := by
  unfold State.finishOp
  dsimp only
  split <;> simp

@[simp] theorem stores_chargeClass (s : State) (d gear layer op eclass steps : Nat) :
    stores (s.chargeClass d gear layer op eclass steps) = stores s := by
  simp [State.chargeClass]

@[simp] theorem stores_modPower (s : State) (f : Power → Power) : stores (s.modPower f) = stores s :=
  stores_of_same (bytes_modPower s f)

@[simp] theorem stores_planned (s : State) : stores (s.planned) = stores s := by
  simp [State.planned]

@[simp] theorem stores_plannedStop (s : State) (p : Nat) : stores (s.plannedStop p) = stores s := by
  simp [State.plannedStop]

@[simp] theorem stores_modPart (s : State) (p : Nat) (f : Part → Part) : stores (s.modPart p f) = stores s :=
  stores_of_same (bytes_modPart s p f)

@[simp] theorem stores_endPass (s : State) (p : Option Nat) : stores (s.endPass p) = stores s := by
  unfold State.endPass
  split <;> simp

@[simp] theorem stores_postNarrow (s : State) (off : Nat) : stores (s.postNarrow off) = stores s := by
  simp [State.postNarrow]

@[simp] theorem stores_postReserved (s : State) (off : Nat) : stores (s.postReserved off) = stores s := by
  simp [State.postReserved]

@[simp] theorem stores_modCap (s : State) (f : Capstan → Capstan) : stores (s.modCap f) = stores s :=
  stores_of_same (bytes_modCap s f)

@[simp] theorem stores_modMbx (s : State) (n : Nat) (f : Mailbox → Mailbox) : stores (s.modMbx n f) = stores s :=
  stores_of_same (bytes_modMbx s n f)

@[simp] theorem stores_handover (s : State) (byCapstan : Bool) (n : Nat) (v : W64) :
    stores (s.handover byCapstan n v) = stores s := by
  simp [State.handover]

@[simp] theorem stores_mbxWrite (s : State) (byCapstan : Bool) (off : Nat) (v : W64) :
    stores (s.mbxWrite byCapstan off v) = stores s := by
  simp [State.mbxWrite]

@[simp] theorem stores_modLny (s : State) (f : Lny → Lny) : stores (s.modLny f) = stores s := stores_of_same (bytes_modLny s f)

@[simp] theorem stores_capstanOnly {byCapstan : Bool} {off : Nat} {s : State} {f : State → State}
    (h : ∀ v, stores (f v) = stores v) : stores (capstanOnly byCapstan off s f) = stores s := by
  simp [capstanOnly, h]

@[simp] theorem stores_startFrom (s : State) : ∀ l : List GearChange, stores (s.startFrom l) = stores s
  | [] => rfl
  | c :: r => by
    simp only [State.startFrom, stores_ite, stores_startFrom s r, stores_modPower, ite_self]

@[simp] theorem stores_cancelChange (s : State) : stores (s.cancelChange) = stores s := by
  simp [State.cancelChange]

@[simp] theorem stores_lnyMoved (s : State) : stores (s.lnyMoved) = stores s := by
  unfold State.lnyMoved
  split <;> simp

@[simp] theorem stores_lnySet (s : State) (v : Nat) : stores (s.lnySet v) = stores s := by
  simp [State.lnySet]

@[simp] theorem stores_setShift (s : State) (n : Nat) : stores (s.setShift n) = stores s := by
  simp [State.setShift]

@[simp] theorem stores_hchWrite (s : State) (v : Nat) : stores (s.hchWrite v) = stores s := by
  simp [State.hchWrite]

@[simp] theorem stores_lnyWrite (s : State) (byCapstan : Bool) (o : Nat) (v : W64) :
    stores (s.lnyWrite byCapstan o v) = stores s := by
  simp [State.lnyWrite]

@[simp] theorem stores_await (s : State) (i : Instr) : stores (s.await i) = stores s := by
  simp [State.await]

@[simp] theorem stores_slRefuse (s : State) (src : Option Src) (item : Nat) : stores (s.slRefuse src item) = stores s := by
  simp [State.slRefuse]

@[simp] theorem stores_rethrottle (s : State) : stores (s.rethrottle) = stores s := by
  simp [State.rethrottle]

@[simp] theorem stores_slateChange (s : State) (item : Nat) (f : Capstan → Capstan) : stores (s.slateChange item f) = stores s := by
  simp [State.slateChange]

@[simp] theorem stores_setCeil (s : State) (src : Option Src) (watts : Nat) : stores (s.setCeil src watts).1 = stores s := by
  unfold State.setCeil
  split <;> simp

@[simp] theorem stores_ceilWrite (s : State) (byCapstan : Bool) (v : W64) : stores (s.ceilWrite byCapstan v) = stores s := by
  simp [State.ceilWrite]

@[simp] theorem stores_modRegion (s : State) (r : Nat) (f : Region → Region) : stores (s.modRegion r f) = stores s :=
  stores_of_same (bytes_modRegion s r f)

@[simp] theorem stores_requestChange (s : State) (region : Option Nat) (next : Nat) :
    stores (s.requestChange region next) = stores s := by
  unfold State.requestChange
  dsimp only
  (repeat' split) <;> simp

@[simp] theorem stores_retarget (s : State) (r : Nat) : stores (s.retarget r) = stores s := by
  simp [State.retarget]

@[simp] theorem stores_retargetPart (s : State) (p : Nat) : stores (s.retargetPart p) = stores s := by
  simp [State.retargetPart]

@[simp] theorem stores_setShare (s : State) (p cap : Nat) : stores (s.setShare p cap) = stores s := by
  simp [State.setShare]

@[simp] theorem stores_partWrite (s : State) (p v : Nat) : stores (s.partWrite p v) = stores s := by
  simp [State.partWrite]

@[simp] theorem stores_throtWrite (s : State) (p v : Nat) : stores (s.throtWrite p v) = stores s := by
  simp [State.throtWrite]

@[simp] theorem stores_pwrWrite (s : State) (byCapstan : Bool) (o : Nat) (v : W64) :
    stores (s.pwrWrite byCapstan o v) = stores s := by
  simp [State.pwrWrite]

@[simp] theorem stores_setCart (s : State) (src : Option Src) (root grace hash : Nat) :
    stores (s.setCart src root grace hash).1 = stores s := by
  unfold State.setCart
  dsimp only
  split <;> simp

@[simp] theorem stores_cartWrite (s : State) (byCapstan : Bool) (v : W64) : stores (s.cartWrite byCapstan v) = stores s := by
  simp [State.cartWrite]

@[simp] theorem stores_thmWrite (s : State) (byCapstan : Bool) (o : Nat) (v : W64) :
    stores (s.thmWrite byCapstan o v) = stores s := by
  simp [State.thmWrite]

@[simp] theorem stores_errWrite (s : State) (o : Nat) (v : W64) : stores (s.errWrite o v) = stores s := by
  simp [State.errWrite]

@[simp] theorem stores_strWrite (s : State) (byCapstan : Bool) (o : Nat) (v : W64) :
    stores (s.strWrite byCapstan o v) = stores s := by
  unfold State.strWrite
  split <;> simp

@[simp] theorem stores_readReserved (s : State) : stores (s.readReserved) = stores s := by
  simp [State.readReserved]

@[simp] theorem stores_withReserved (s : State) (v res : Nat) : stores (s.withReserved v res).2 = stores s := by
  simp [State.withReserved]

theorem stores_answerRead {s : State} {w : ReadWidth} {v res : Nat} {clear : State → State}
    (h : ∀ x, stores (clear x) = stores x) : stores (s.answerRead w v res clear) = stores s := by
  unfold State.answerRead
  cases w <;> simp [h]

@[simp] theorem stores_hitch (s : State) (b : Nat) : stores (s.hitch b) = stores s := by
  simp [State.hitch]

@[simp] theorem stores_postAll (s : State) (e src detail : Nat) : stores (s.postAll e src detail) = stores s :=
  stores_of_same (bytes_postAll s e src detail)

@[simp] theorem stores_errCheck (s : State) : stores (s.errCheck) = stores s := by
  simp [State.errCheck]

@[simp] theorem stores_correct (s : State) (trim : Option Int) (adj : Int) : stores (s.correct trim adj) = stores s := by
  simp [State.correct]

theorem stores_onChange {s : State} {f : GearChange → State} (h : ∀ c, stores (f c) = stores s) :
    stores (onChange s f) = stores s := by
  unfold onChange
  split
  · split
    · exact h _
    · rfl
  · rfl

@[simp] theorem stores_setChange (s : State) (f : GearChange → GearChange) : stores (s.setChange f) = stores s := by
  simp [State.setChange]

@[simp] theorem stores_rampLogic (s : State) (c : GearChange) : stores (s.rampLogic c) = stores s := by
  simp [State.rampLogic]

@[simp] theorem stores_rampAction (s : State) (a : RampAction) : stores (s.rampAction a) = stores s :=
  stores_onChange fun c => by cases a <;> simp

@[simp] theorem stores_modStk (s : State) (k : Nat) (f : Stack → Stack) : stores (s.modStk k f) = stores s :=
  stores_of_same (bytes_modStk s k f)

@[simp] theorem stores_setRate (s : State) (d rate : Nat) : stores (s.setRate d rate) = stores s := by
  simp [State.setRate]

@[simp] theorem stores_rateChange (s : State) (d : Nat) : stores (s.rateChange d) = stores s := by
  unfold State.rateChange
  split
  · simp
  · exact stores_onChange fun c => by simp

@[simp] theorem stores_linkTrain (s : State) (k : Nat) (failing : List Nat) (beyond : Bool) :
    stores (s.linkTrain k failing beyond) = stores s := by
  simp [State.linkTrain]

@[simp] theorem stores_modUpd (s : State) (d : Nat) (f : Upd → Upd) : stores (s.modUpd d f) = stores s :=
  stores_of_same (bytes_modUpd s d f)

theorem stores_coreFence {s v : State} {pred succ : Nat} (h : s.coreFence pred succ = some v) : stores v = stores s := by
  unfold State.coreFence at h
  dsimp only at h
  split at h <;> cases h
  split <;> simp

@[simp] theorem stores_coreFault (s : State) : stores (s.coreFault) = stores s := by
  simp [State.coreFault]

@[simp] theorem stores_coreData (s : State) (off : Nat) (ok : Bool) (data : List Byte) :
    stores (s.coreData off ok data) = stores s := by
  simp [State.coreData]

theorem stores_coreRemote {s v : State} {win : Window} {ofs : Nat} {op : CoreOp} (h : s.coreRemote win ofs op = some v) :
    stores v = stores s := by
  revert h
  unfold State.coreRemote
  dsimp only
  repeat' split
  all_goals rintro h
  all_goals cases h
  · simp
  · simp
  · simp
  · next h => simp [stores_queuePkt h]

theorem stores_outState {s : State} {o : Out} (h : ∀ u, o = .next u → stores u = stores s) : stores (outState o s) = stores s := by
  cases o with
  | next u => exact h u rfl
  | fault | refused => rfl

@[simp] theorem stores_emitAll (s : State) (source raw layer op inst : Nat) :
    stores (s.emitAll source raw layer op inst) = stores s := by
  simp [State.emitAll]

@[simp] theorem stores_modSession (s : State) (k : Nat) (f : Session → Session) : stores (s.modSession k f) = stores s := by
  simp [State.modSession]

@[simp] theorem stores_clearHand (s : State) (a2 : Src) : stores (s.clearHand a2) = stores s := by
  unfold State.clearHand
  split <;> simp

@[simp] theorem stores_startMsg (s : State) (src : Src) : stores (s.startMsg src) = stores s := by
  unfold State.startMsg
  split <;> simp

@[simp] theorem stores_answer (s : State) (status : Nat) : stores (s.answer status).s = stores s := by
  simp [State.answer]

@[simp] theorem stores_putTxn (s : State) (e : TxnEnt) (a3 : Src) : stores (s.putTxn e a3) = stores s := by
  unfold State.putTxn
  split <;> simp

@[simp] theorem stores_wait (self : Instr) (s : State) : stores (capstanRun.wait self s) = stores s := by
  simp [capstanRun.wait]

@[simp] theorem stores_acceptSeq (s : State) (auth key seq : Nat) : stores (s.acceptSeq auth key seq) = stores s := by
  unfold State.acceptSeq
  split <;> simp

@[simp] theorem stores_setVer (s : State) (v : Option (Nat × Nat)) (a3 : Src) : stores (s.setVer v a3) = stores s := by
  unfold State.setVer
  split <;> simp

@[simp] theorem stores_ok (s : State) : stores (s.ok).s = stores s := by
  simp [State.ok]

@[simp] theorem stores_gateFree (s : State) : stores (s.gateFree) = stores s := by
  simp [State.gateFree]

@[simp] theorem stores_addAlloc (s : State) (al : Alloc) : stores (s.addAlloc al) = stores s := by
  simp [State.addAlloc]

@[simp] theorem stores_noteRepair (s : State) (p dst len : Nat) : stores (s.noteRepair p dst len) = stores s := by
  refine stores_foldl (fun v d => ?_) _ _
  split <;> simp

@[simp] theorem stores_setRepair (s : State) (p : Nat) (on : Bool) : stores (s.setRepair p on) = stores s := by
  simp [State.setRepair]

theorem stores_placeAll {p : Nat} : ∀ {l : List AllocEntry} {s v : State}, s.placeAll p l = some v → stores v = stores s
  | [], s, v, h => by cases h; rfl
  | e :: r, s, v, h => by
    unfold State.placeAll at h
    split at h
    · cases h
    · exact (stores_placeAll h).trans (by simp)

@[simp] theorem stores_bindDie (s : State) (im : Image) (d : Nat) : stores (s.bindDie im d) = stores s := by
  simp [State.bindDie]

@[simp] theorem stores_bindRef (s : State) (r : ShadowRef) : stores (s.bindRef r) = stores s := by
  simp [State.bindRef]

@[simp] theorem stores_wakeDies (s : State) (mask : Nat) : stores (s.wakeDies mask) = stores s := by
  simp [State.wakeDies]

@[simp] theorem stores_abortTile (s : State) (t : Nat) : stores (s.abortTile t) = stores s := by
  unfold State.abortTile
  rw [stores_modTile]
  refine stores_foldl (fun v k => ?_) _ _
  dsimp only
  split <;> simp

@[simp] theorem stores_abortPart (s : State) (p : Nat) : stores (s.abortPart p) = stores s := by
  simp [State.abortPart]

@[simp] theorem stores_unbind (s : State) (p : Nat) : stores (s.unbind p) = stores s := by
  simp [State.unbind]

@[simp] theorem stores_portMove (s : State) (p : Nat) (f : Port → Port) : stores (s.portMove p f) = stores s := by
  simp [State.portMove]

@[simp] theorem stores_answerPkt (s : State) (q : Packet) (ptype status reason : Nat) (data : List Byte) :
    stores (s.answerPkt q ptype status reason data) = stores s :=
  stores_of_same (bytes_answerPkt s q ptype status reason data)

@[simp] theorem stores_refusePkt (s : State) (q : Packet) (reason : Nat) : stores (s.refusePkt q reason) = stores s :=
  stores_of_same (bytes_refusePkt s q reason)

@[simp] theorem stores_discardPkt (s : State) (p : Packet) : stores (s.discardPkt p) = stores s := by
  simp [State.discardPkt]

@[simp] theorem stores_moveOut (s : State) (p : Nat) : stores (s.moveOut p) = stores s := by
  unfold State.moveOut
  split <;> simp

@[simp] theorem stores_judgePeer (s : State) (p : Nat) : stores (s.judgePeer p) = stores s := by
  unfold State.judgePeer
  dsimp only
  (repeat' split) <;> simp

@[simp] theorem stores_sendHello (s : State) (p : Nat) : stores (s.sendHello p) = stores s := by
  simp [State.sendHello]

@[simp] theorem stores_rejudge (s : State) : stores (s.rejudge) = stores s := by
  simp [State.rejudge]

@[simp] theorem stores_setPart (c : Call) (s : State) (f : Part → Part) : stores (Call.setPart c s f) = stores s := by
  simp [Call.setPart]

@[simp] theorem stores_portDown (s : State) (p : Nat) (st : PortSt) : stores (s.portDown p st) = stores s := by
  simp [State.portDown]

@[simp] theorem stores_startRetrain (s : State) (p lanes reason : Nat) : stores (s.startRetrain p lanes reason) = stores s := by
  simp [State.startRetrain]

@[simp] theorem stores_clearSticky (s : State) (p : Nat) : stores (s.clearSticky p) = stores s := by
  simp [State.clearSticky]

@[simp] theorem stores_meterAnswer (s : State) (fromSeq count : Nat) : stores (s.meterAnswer fromSeq count).s = stores s := by
  unfold State.meterAnswer
  dsimp only
  (repeat' split) <;> simp

@[simp] theorem stores_applyTether (s : State) : stores (s.applyTether) = stores s := by
  simp [State.applyTether]

@[simp] theorem stores_hssNext (s : State) (digest : Nat) : stores (s.hssNext digest).2 = stores s := by
  simp [State.hssNext]

theorem stores_takeFault {s v : State} {ds : List Nat} {r : FaultRec} (h : s.takeFault ds = some (r, v)) : stores v = stores s := by
  unfold State.takeFault at h
  dsimp only at h
  split at h <;> cases h
  simp

@[simp] theorem stores_takeFaults (ds : List Nat) : ∀ (n : Nat) (s : State), stores (s.takeFaults ds n).2 = stores s
  | 0, _ => rfl
  | n + 1, s => by
    unfold State.takeFaults
    split
    · rfl
    · next h => exact (stores_takeFaults ds n _).trans (stores_takeFault h)

@[simp] theorem stores_dropRequests (s : State) (p : Nat) : stores (s.dropRequests p) = stores s := by
  simp [State.dropRequests]

@[simp] theorem stores_dumpSummary (s : State) (p : Nat) (a3 : DumpHdr) : stores (s.dumpSummary p a3) = stores s := by
  simp [State.dumpSummary]

@[simp] theorem stores_endDump (s : State) (p : Nat) : stores (s.endDump p) = stores s := by
  unfold State.endDump
  split
  · rfl
  · split <;> simp

@[simp] theorem stores_unmapDump (s : State) (p : Nat) : stores (s.unmapDump p) = stores s := by
  simp [State.unmapDump]

@[simp] theorem stores_stopBallast (s : State) : stores (s.stopBallast) = stores s := by
  simp [State.stopBallast]

@[simp] theorem stores_gearSwitch (s : State) : stores s.gearSwitch = stores s :=
  stores_onChange fun c => by simp

@[simp] theorem stores_changeDone (s : State) : stores s.changeDone = stores s :=
  stores_onChange fun c => by simp

@[simp] theorem stores_cleatAssert (s : State) (sources : Nat) : stores (s.cleatAssert sources) = stores s := by
  simp [State.cleatAssert]

@[simp] theorem stores_paced {s : State} {k : Task} {i period : Nat} {f : State → State} (h : ∀ v, stores (f v) = stores v) :
    stores (s.paced k i period f) = stores s := by
  simp [State.paced, h]

@[simp] theorem stores_logInvalid (s : State) (what k : Nat) : stores (s.logInvalid what k) = stores s := by
  simp [State.logInvalid]

@[simp] theorem stores_followCeil (s : State) : stores (s.followCeil) = stores s := by
  simp [State.followCeil]

@[simp] theorem stores_hbmCeiling (s : State) : stores (s.hbmCeiling) = stores s := by
  simp [State.hbmCeiling]

@[simp] theorem stores_ackDue (s : State) (p : Nat) : stores (s.ackDue p) = stores s := by
  simp [State.ackDue]

@[simp] theorem stores_nak (s : State) (p : Nat) : stores (s.nak p) = stores s := by
  simp [State.nak]

@[simp] theorem stores_crcError (s : State) (p : Nat) : stores (s.crcError p) = stores s := by
  simp [State.crcError]

@[simp] theorem stores_laneErrors (s : State) (p lane n : Nat) : stores (s.laneErrors p lane n) = stores s := by
  simp [State.laneErrors]

@[simp] theorem stores_flitErrors (s : State) (p : Nat) (x : Flit) : stores (s.flitErrors p x) = stores s := by
  simp [State.flitErrors]

@[simp] theorem stores_protoError (s : State) (p : Nat) : stores (s.protoError p) = stores s := by
  simp [State.protoError]

@[simp] theorem stores_ctrlFlit (s : State) (p : Nat) (x : Flit) : stores (s.ctrlFlit p x) = stores s := by
  simp [State.ctrlFlit]

@[simp] theorem stores_resendOn (s : State) (p : Nat) : stores (s.resendOn p) = stores s := by
  simp [State.resendOn]

@[simp] theorem stores_takeAck (s : State) (p hdr : Nat) : stores (s.takeAck p hdr) = stores s := by
  simp [State.takeAck]

@[simp] theorem stores_rspLong (s : State) (l : List (Bool × List Byte)) : stores (s.rspLong l).2 = stores s := by
  unfold State.rspLong
  split <;> simp

@[simp] theorem stores_packetIn (s : State) (p : Nat) (slots : List (List Byte)) : stores (s.packetIn p slots) = stores s := by
  simp [State.packetIn]

@[simp] theorem stores_slotsGo (p : Nat) : ∀ (l : List (Bool × List Byte)) (s : State), stores (slotsGo s p l) = stores s
  | [], _ => rfl
  | (start, x) :: r, s => by
    unfold slotsGo
    dsimp only
    split
    · exact stores_slotsGo p r s
    · simp only [stores_ite, stores_slotsGo p r, stores_packetIn, stores_modPort, ite_self, apply_ite Prod.snd, stores_rspLong]

@[simp] theorem stores_dataIn (s : State) (p : Nat) (x : Flit) : stores (s.dataIn p x) = stores s := by
  simp [State.dataIn]

@[simp] theorem stores_idleIn (s : State) (p : Nat) (x : Flit) : stores (s.idleIn p x) = stores s := by
  simp [State.idleIn]

@[simp] theorem stores_onCtrl {s : State} {p : Nat} {c : CtrlIn} {f : State → State} (h : ∀ v, stores (f v) = stores v) :
    stores (s.onCtrl p c f) = stores s := by
  simp [State.onCtrl, h]

@[simp] theorem stores_helloIn (s : State) (p : Nat) (a3 : HelloBody) : stores (s.helloIn p a3) = stores s := by
  simp [State.helloIn]

@[simp] theorem stores_retrainIn (s : State) (p lanes reason : Nat) : stores (s.retrainIn p lanes reason) = stores s := by
  simp [State.retrainIn]

@[simp] theorem stores_takePkt (s : State) (k : Nat) (x : InPkt) : stores (s.takePkt k x) = stores s :=
  stores_of_same (bytes_takePkt s k x)

@[simp] theorem stores_forward (s : State) (k : Nat) : stores (s.forward k) = stores s := by
  unfold State.forward
  split
  · rfl
  · split
    · rfl
    · split
      · next h => simp [stores_queuePkt h]
      · simp

@[simp] theorem stores_flushReplies (s : State) : stores (s.flushReplies) = stores s := by
  simp [State.flushReplies]

@[simp] theorem stores_emitReq (s : State) (q : FabReq) (source raw : Nat) : stores (s.emitReq q source raw) = stores s := by
  unfold State.emitReq
  split
  · split <;> simp
  · rfl
  · rfl
  · rfl

@[simp] theorem stores_sentOut (s : State) (p : Nat) (o : OutPkt) : stores (s.sentOut p o) = stores s := by
  unfold State.sentOut
  split
  · simp
  · split <;> simp

@[simp] theorem stores_sendPacket (s : State) (p : Nat) : stores (s.sendPacket p) = stores s := by
  unfold State.sendPacket
  dsimp only
  (repeat' split) <;> simp

theorem stores_onPacket {s : State} {k : Nat} {ok : Packet → Bool} {f : InPkt → State → State}
    (h : ∀ x, stores (f x s) = stores s) : stores (onPacket s k ok f) = stores s := by
  unfold onPacket
  split
  · split
    · exact h _
    · rfl
  · rfl

@[simp] theorem stores_modReq (s : State) (txn : Nat) (g : FabReq → FabReq) : stores (s.modReq txn g) = stores s := by
  simp [State.modReq]

@[simp] theorem stores_settleLands (s : State) : stores (s.settleLands) = stores s := by
  simp [State.settleLands]

@[simp] theorem stores_dropReq (s : State) (txn : Nat) : stores (s.dropReq txn) = stores s := by
  simp [State.dropReq]

@[simp] theorem stores_noteBad (s : State) (t inst : Nat) (write : Bool) (node : Nat) (why : Nat × Nat × Nat) :
    stores (s.noteBad t inst write node why) = stores s := by
  simp [State.noteBad]

@[simp] theorem stores_markFailed (s : State) (q : FabReq) (fin : ReqEnd) : stores (s.markFailed q fin) = stores s := by
  unfold State.markFailed
  dsimp only
  (repeat' split) <;> simp

@[simp] theorem stores_coreAnswer (s : State) (q : FabReq) (fin : ReqEnd) (data : List Byte) :
    stores (s.coreAnswer q fin data) = stores s := by
  simp [State.coreAnswer]

@[simp] theorem stores_dropFlag (s : State) (d : Nat) (fl : FlagLine) : stores (s.dropFlag d fl) = stores s := by
  simp [State.dropFlag]

@[simp] theorem stores_mgtIn (s : State) (k : Nat) (x : InPkt) : stores (s.mgtIn k x) = stores s := by
  simp [State.mgtIn]

@[simp] theorem stores_fabWait (s : State) (t : Nat) : stores (s.fabWait t) = stores s := by
  unfold State.fabWait
  split
  · rfl
  · split
    · simp
    · split <;> simp

@[simp] theorem stores_decisionOut (s : State) (d g : Nat) : stores (s.decisionOut d g) = stores s := by
  unfold State.decisionOut
  dsimp only
  (repeat' split) <;> simp

@[simp] theorem stores_engFault (s : State) (d step layer op : Nat) (why : Nat × Nat × Nat) :
    stores (s.engFault d step layer op why) = stores s := by
  simp [State.engFault]

@[simp] theorem stores_updFlags (s : State) (d fl : Nat) : stores (s.updFlags d fl) = stores s := by
  simp [State.updFlags]

@[simp] theorem stores_modFeed (s : State) (f : Feed) (g : FeedRec → FeedRec) : stores (s.modFeed f g) = stores s := by
  unfold State.modFeed
  split <;> simp

@[simp] theorem stores_minuteTake (s : State) (p : Nat) : stores (s.minuteTake p) = stores s := by
  simp [State.minuteTake]

@[simp] theorem stores_burstLower (s : State) : stores (s.burstLower) = stores s := by
  simp [State.burstLower]

@[simp] theorem stores_feedSample (s : State) (va ia vb ib : Nat) : stores (s.feedSample va ia vb ib) = stores s := by
  simp [State.feedSample]

@[simp] theorem stores_feedMove (s : State) (f : Feed) (st : FeedSt) : stores (s.feedMove f st) = stores s := by
  simp [State.feedMove]

@[simp] theorem stores_mramLand (s : State) (q : MramReq) : stores (s.mramLand q) = stores s := by
  unfold State.mramLand
  split <;> simp

@[simp] theorem stores_endPreStretch (s : State) (r : Nat) : stores (s.endPreStretch r) = stores s := by
  simp [State.endPreStretch]

@[simp] theorem stores_loseTile (s : State) (t : Nat) : stores (s.loseTile t) = stores s := by
  refine stores_foldl (fun v k => ?_) _ _
  split <;> simp

@[simp] theorem stores_fenceRegion (s : State) (r : Nat) : stores (s.fenceRegion r) = stores s := by
  simp [State.fenceRegion]

@[simp] theorem stores_fenceDie (s : State) (d : Nat) : stores (s.fenceDie d) = stores s := by
  simp [State.fenceDie]

@[simp] theorem stores_loseStack (s : State) (k : Nat) : stores (s.loseStack k) = stores s := by
  simp [State.loseStack]

@[simp] theorem stores_raiseThrot (s : State) (p n : Nat) : stores (s.raiseThrot p n) = stores s := by
  simp [State.raiseThrot]

@[simp] theorem stores_raiseCheck (s : State) (logicPower spreadEst : Nat) :
    stores (s.raiseCheck logicPower spreadEst) = stores s := by
  simp [State.raiseCheck]

@[simp] theorem stores_shareBudget (s : State) (pBase : Nat) (draws : List Nat) :
    stores (s.shareBudget pBase draws) = stores s := by
  simp [State.shareBudget]

@[simp] theorem stores_chargeBallast (s : State) (p watts10 : Nat) : stores (s.chargeBallast p watts10) = stores s := by
  simp [State.chargeBallast]

@[simp] theorem stores_meterRecord (s : State) : stores (s.meterRecord) = stores s := by
  simp [State.meterRecord]

@[simp] theorem stores_meterSign (s : State) : stores (s.meterSign) = stores s := by
  unfold State.meterSign
  split <;> simp

@[simp] theorem stores_logLost (s : State) (base : Nat) (old new : List (Option Int)) :
    stores (s.logLost base old new) = stores s := by
  simp [State.logLost]

@[simp] theorem stores_regionSensors (s : State) (r : Nat) (l : List (Option Int)) : stores (s.regionSensors r l) = stores s := by
  simp [State.regionSensors]

@[simp] theorem stores_modThermal (s : State) (f : Thermal → Thermal) : stores (s.modThermal f) = stores s :=
  stores_of_same (bytes_modThermal s f)

@[simp] theorem stores_noteHot (s : State) (d : Nat) (l : List (Option Int)) : stores (s.noteHot d l) = stores s := by
  unfold State.noteHot
  split <;> simp

@[simp] theorem stores_noteTemps (s : State) (d : Nat) (temps : List (Option Int)) : stores (s.noteTemps d temps) = stores s := by
  simp [State.noteTemps]

@[simp] theorem stores_setCartState (s : State) (st : CartSt) : stores (s.setCartState st) = stores s := by
  simp [State.setCartState]

@[simp] theorem stores_cartFlags (s : State) : stores (s.cartFlags) = stores s := by
  simp [State.cartFlags]

@[simp] theorem stores_challenge (s : State) (c : CartReply) : stores (s.challenge c) = stores s := by
  simp [State.challenge]

@[simp] theorem stores_datagram (s : State) (f : Frame) : stores (s.datagram f) = stores s := by
  unfold State.datagram
  dsimp only
  (repeat' split) <;> simp

@[simp] theorem stores_freeCredits (s : State) (t : Nat) : stores (s.freeCredits t) = stores s := by
  simp [State.freeCredits]

@[simp] theorem stores_abortOp (s : State) (w : Who) : stores (s.abortOp w) = stores s := by
  simp [State.abortOp]

@[simp] theorem stores_retestPhases (s : State) (bad : List Nat) : stores (s.retestPhases bad) = stores s := by
  simp [State.retestPhases]

@[simp] theorem stores_garnet (s : State) : stores s.garnet = stores s := by
  unfold State.garnet
  dsimp only
  split <;> simp

@[simp] theorem stores_rowDone (s : State) (row : Nat) : stores (s.rowDone row) = stores s := by
  simp [State.rowDone]

@[simp] theorem stores_railsUp (s : State) : stores (s.railsUp) = stores s := by
  simp [State.railsUp]

@[simp] theorem stores_row6 (s : State) : stores (s.row6) = stores s := by
  simp [State.row6]

@[simp] theorem stores_row7 (s : State) : stores (s.row7) = stores s := by
  simp [State.row7]

@[simp] theorem stores_waveStage (s : State) (row d : Nat) : stores (s.waveStage row d) = stores s := by
  simp [State.waveStage]

@[simp] theorem stores_stageTimeout (s : State) (d : Nat) : stores (s.stageTimeout d) = stores s := by
  simp [State.stageTimeout]

@[simp] theorem stores_calibrate (s : State) (d measured : Nat) : stores (s.calibrate d measured) = stores s := by
  simp [State.calibrate]

@[simp] theorem stores_freeze (s : State) (p : Nat) (tr : Trig) : stores (s.freeze p tr) = stores s := by
  simp [State.freeze]

@[simp] theorem stores_settle (s : State) (p : Nat) (a3 : DumpHdr) : stores (s.settle p a3) = stores s := by
  simp [State.settle]

@[simp] theorem stores_drawBytes (s : State) (n : Nat) : stores (s.drawBytes n).2 = stores s := by
  simp [State.drawBytes]

@[simp] theorem stores_setSmb (s : State) (l : Option (List Byte)) : stores (s.setSmb l) = stores s := by
  simp [State.setSmb]

@[simp] theorem stores_regBytes : ∀ (l : List (Nat × Nat)) (s : State), stores (s.regBytes l).2 = stores s
  | [], _ => rfl
  | x :: r, s => (stores_regBytes r _).trans (stores_withReserved s x.1 x.2)

theorem stores_smbusData {s v : State} {code : Nat} {l : List Byte} (h : s.smbusData code = some (l, v)) : stores v = stores s := by
  revert h
  unfold State.smbusData
  dsimp only
  repeat' split
  all_goals rintro h
  all_goals cases h
  all_goals simp

@[simp] theorem stores_afterRead (s : State) (off : Nat) : stores (s.afterRead off) = stores s := by
  unfold State.afterRead
  dsimp only
  (repeat' split) <;> simp

@[simp] theorem stores_ctrlRead (s : State) (off : Nat) : stores (s.ctrlRead off) = stores s :=
  stores_answerRead fun v => stores_afterRead v off

@[simp] theorem stores_ptpTake (s : State) (x : PtpMsg) (stamp : Nat) : stores (s.ptpTake x stamp) = stores s := by
  unfold State.ptpTake
  dsimp only
  (repeat' split) <;> simp

@[simp] theorem stores_ptpDeliver (s : State) : stores (s.ptpDeliver) = stores s := by
  unfold State.ptpDeliver
  split <;> simp

@[simp] theorem stores_tick (s : State) : stores (tick s) = stores s := by
  simp [tick]

@[simp] theorem stores_withFetchWord (s : State) (nbits w : Nat) : stores (s.withFetchWord nbits w) = stores s := by
  unfold State.withFetchWord
  split <;> simp

@[simp] theorem stores_arriveFlag (s : State) (d : Nat) (fl : FlagLine) : stores (s.arriveFlag d fl) = stores s := by
  simp [State.arriveFlag]

@[simp] theorem stores_endReq (s : State) (t : Nat) (o : PorOp) (r : Nat) (fin : ReqEnd) :
    stores (s.endReq t o r fin) = stores s := by
  simp [State.endReq]

@[simp] theorem stores_fly_ (s : State) (t : Nat) (o : PorOp) (r : Nat) : stores (s.fly_ t o r) = stores s := by
  simp [State.fly_]

theorem stores_sendLocal {s v : State} {t p : Nat} {o : PorOp} {r : Nat}
    (h : s.sendLocal t p o r = .done v) : stores v = stores s := by
  revert h
  unfold State.sendLocal
  dsimp only
  (repeat' split) <;> rintro h <;> cases h <;> simp

theorem stores_sendRemote {s v : State} {t p n : Nat} {o : PorOp} {r : Nat} (h : s.sendRemote t p n o r = .done v) :
    stores v = stores s := by
  revert h
  unfold State.sendRemote
  dsimp only
  split
  · rintro ⟨⟩
  split
  · rintro ⟨⟩
    simp
  split
  · rintro ⟨⟩
  split
  · rintro ⟨⟩
  split
  · rintro ⟨⟩
    simp
  · next h =>
    rintro ⟨⟩
    simp [stores_queuePkt h]

/-- Sending a request leaves the stores alone: a word with bad parity is posted, and ends the operation later. -/
theorem stores_sendReq {s v : State} {t : Nat} {o : PorOp} (h : s.sendReq t o = .done v) : stores v = stores s := by
  have hsent : ∀ {w : State}, (match o.node with
      | none => s.sendLocal t ((s.partOfTile t).getD 0) o o.next
      | some n => s.sendRemote t ((s.partOfTile t).getD 0) n o o.next) = .done w → stores w = stores s := by
    intro w h
    split at h
    · exact stores_sendLocal h
    · exact stores_sendRemote h
  revert h
  unfold State.sendReq
  dsimp only
  generalize (if o.isItem = true then _ else _) = credits
  split
  · rintro ⟨⟩
  split
  · rintro ⟨⟩
  split
  · next w hout =>
    have hs := hsent hout
    split <;> rintro ⟨⟩ <;> simpa using hs
  · exact hsent

@[simp] theorem stores_porSend : ∀ (n : Nat) (s : State) (t : Nat), stores (State.porSend n s t) = stores s
  | 0, _, _ => rfl
  | n + 1, s, t => by
    unfold State.porSend
    split
    · simp
    · split
      · simp
      · simp
      · next h => exact (stores_porSend n _ t).trans (stores_sendReq h)

end Sys2Proof.Proofs.Stores
end

section
/-! PROOFS. The canonical form of the byte stores, kept by every operation that stores. -/
namespace Sys2Proof.Proofs.Stores

open Sys2Proof Sys2Proof.Machine Sys2Proof.Laws

/-- Memory in canonical form: addresses strictly rising, no listed byte equal to what an unlisted one reads. -/
def Canon (m : List Host.Cell × List Host.Cell × List Host.Cell × List Host.Cell) : Prop :=
  cellsWf 0 m.1 = true ∧ cellsWf 0 m.2.1 = true ∧ cellsWf 0 m.2.2.1 = true ∧ cellsWf 0 m.2.2.2 = true

theorem canon_stores_iff {s : State} : Canon (stores s) ↔ Safety.Memory.wf s = true := wf_parts.symm

@[simp] theorem canon_ite (c : Prop) [Decidable c] (a b : List Host.Cell × List Host.Cell × List Host.Cell × List Host.Cell) :
    Canon (if c then a else b) ↔ if c then Canon a else Canon b := by
  split <;> rfl

theorem canon_cond {c : Prop} [Decidable c] {s v : State} (hs : Canon (stores s)) (hv : Canon (stores v)) :
    Canon (stores (if c then s else v)) := by
  split <;> assumption

theorem canon_foldl {α : Type} {f : State → α → State} (h : ∀ s x, Canon (stores s) → Canon (stores (f s x))) :
    ∀ {l : List α} {s : State}, Canon (stores s) → Canon (stores (l.foldl f s))
  | [], _, hs => hs
  | x :: _, s, hs => canon_foldl (s := f s x) h (h s x hs)

@[simp] theorem canon_sramWrite {s : State} {t a : Nat} {bs : List Byte} (h : Canon (stores s)) :
    Canon (stores (s.sramWrite t a bs)) := canon_stores_iff.mpr (wf_sramWrite (canon_stores_iff.mp h))

@[simp] theorem canon_sramMask {s : State} {t a m : Nat} {bs : List Byte} (h : Canon (stores s)) :
    Canon (stores (s.sramMask t a m bs)) := canon_stores_iff.mpr (wf_sramMask (canon_stores_iff.mp h))

@[simp] theorem canon_sramZero {s : State} {t : Nat} (h : Canon (stores s)) :
    Canon (stores (s.sramZero t)) := canon_stores_iff.mpr (wf_sramZero (canon_stores_iff.mp h))

@[simp] theorem canon_evict {s : State} {d key : Nat} (h : Canon (stores s)) : Canon (stores (s.evict d key)) :=
  canon_stores_iff.mpr (wf_evict (canon_stores_iff.mp h))

theorem canon_allocate {s v : State} {d : Nat} {l : CacheLine} (h : Canon (stores s)) (hv : s.allocate d l = some v) :
    Canon (stores v) := canon_stores_iff.mpr (wf_allocate (canon_stores_iff.mp h) hv)

@[simp] theorem canon_putLine {s : State} {d key off : Nat} {data : List Byte} {al : Bool} {tag : Option (Nat × Nat)}
    (h : Canon (stores s)) : Canon (stores (s.putLine d key off data al tag)) :=
  canon_stores_iff.mpr (wf_putLine (canon_stores_iff.mp h))

@[simp] theorem canon_carveWrite {s : State} {o : Nat} {l : List Byte} (h : Canon (stores s)) :
    Canon (stores (s.carveWrite o l)) := canon_stores_iff.mpr (wf_carveWrite (canon_stores_iff.mp h))

@[simp] theorem canon_complete {s : State} (src : Src) (r : Reply) (h : Canon (stores s)) :
    Canon (stores (s.complete src r)) := canon_stores_iff.mpr (wf_complete src r (canon_stores_iff.mp h))

theorem canon_onPacket {s : State} {k : Nat} {ok : Packet → Bool} {f : InPkt → State → State} (h : Canon (stores s))
    (hf : ∀ x, Canon (stores (f x s))) : Canon (stores (onPacket s k ok f)) := by
  unfold onPacket
  split
  · split
    · exact hf _
    · exact h
  · exact h

/-- Acting on a Reef packet keeps the form where what is done with it once it is taken does. -/
theorem canon_onReef {s : State} {k rk : Nat} {f : Nat → Nat → GroupSt → RHead → Packet → State → Option State} (h :
    Canon (stores s))
    (hf : ∀ d p x hd q v w, Canon (stores v) → f d p x hd q v = some w → Canon (stores w)) : Canon (stores (s.onReef k rk f)) := by
  refine canon_onPacket h fun inp => ?_
  refine canon_cond (canon_cond (by simpa using h) (by simpa using h)) ?_
  dsimp only
  split
  · simpa using h
  generalize (if rk = 2 ∨ rk = 3 then _ else _ : Option Nat) = lead
  split
  · simpa using h
  refine canon_cond h ?_
  split
  · simpa using h
  refine canon_cond (by simpa using h) ?_
  split
  · next hw => exact hf _ _ _ _ _ _ _ (by simpa using h) hw
  · exact h

theorem cellsWf_filter {p : Host.Cell → Bool} : ∀ {l : List Host.Cell} {b : Nat}, cellsWf b l = true → cellsWf b (l.filter p) = true
  | [], _, _ => rfl
  | (k, v) :: r, b, hw => by
    obtain ⟨hk, hv, hr⟩ := cellsWf_cons.mp hw
    rw [List.filter_cons]
    split
    · exact cellsWf_cons.mpr ⟨hk, hv, cellsWf_filter hr⟩
    · exact cellsWf_mono (by omega) (cellsWf_filter hr)

theorem canon_makeRoom {s v : State} {d off : Nat} (h : Canon (stores s)) (hv : s.makeRoom d off = some v) : Canon (stores v) := by
  unfold State.makeRoom at hv
  dsimp only at hv
  split at hv
  · cases hv; exact h
  split at hv
  · cases hv; exact h
  split at hv <;> cases hv
  exact canon_evict h

@[simp] theorem canon_homeApply {s : State} {al : Alloc} {q : HomeReq} {parity : Bool} (h : Canon (stores s)) :
    Canon (stores (s.homeApply al q parity).s) := by
  have fill : ∀ {v : State} {d : Nat} {l : CacheLine}, Canon (stores v) → Canon (stores ((v.allocate d l).getD v)) := by
    intro v d l hv
    cases ho : v.allocate d l with
    | none => exact hv
    | some w => exact canon_allocate hv ho
  unfold State.homeApply
  dsimp only
  split
  · exact h
  · split <;> (repeat' split) <;> simp [h, fill]

@[simp] theorem canon_serveReq {s : State} {q : HomeReq} {parity : Bool} (hs :
    Canon (stores s)) : Canon (stores (s.serveReq q parity)) := by
  unfold State.serveReq
  split <;> simp [*]

@[simp] theorem canon_untilGrant : ∀ {n : Nat} {s : State} {d k : Nat} {q : HomeReq}, Canon (stores s) →
    Canon (stores (State.untilGrant n s d k q))
  | 0, _, _, _, _, h => h
  | n + 1, s, d, k, q, h => by
    unfold State.untilGrant
    split
    · exact h
    · next r v hv =>
      have hc : Canon (stores v) := stores_granted hv ▸ h
      split
      · exact hc
      · exact canon_untilGrant (canon_serveReq hc)

@[simp] theorem canon_homeDo {s : State} {al : Alloc} {q : HomeReq} (hs : Canon (stores s)) : Canon (stores (s.homeDo al q).s) := by
  simp [State.homeDo, *]

@[simp] theorem canon_memWrite {s : State} {p agent off : Nat} {data : List Byte} (h : Canon (stores s)) :
    Canon (stores (s.memWrite p agent off data).1) := by
  refine List.foldlRecOn (motive := fun x : State × Bool => Canon (stores x.1)) _ _ h fun x hx l _ => ?_
  dsimp only
  split
  · exact hx
  · exact canon_homeDo hx

@[simp] theorem canon_reefWrite {s : State} {d p : Nat} {step off : Nat} {data : List Byte} (hs :
    Canon (stores s)) : Canon (stores (s.reefWrite d p step off data).1) := by
  simp [State.reefWrite, *]

@[simp] theorem canon_readLines {s : State} {p agent : Nat} {ls : List Nat} (h : Canon (stores s)) :
    Canon (stores (s.readLines p agent ls).s) := by
  refine List.foldlRecOn (motive := fun x : EngRead => Canon (stores x.s)) _ _ h fun x hx l _ => ?_
  dsimp only
  split
  · exact hx
  · exact canon_homeDo hx

@[simp] theorem canon_verifyRead {s : State} {p agent b : Nat} {al : Alloc} {bytes : List Byte} (hs :
    Canon (stores s)) : Canon (stores (s.verifyRead p agent b al bytes).1) := by
  unfold State.verifyRead
  dsimp only
  (repeat' split) <;> simp [*]

@[simp] theorem canon_plainRead {s : State} {p agent : Nat} {off n : Nat} (hs :
    Canon (stores s)) : Canon (stores (s.plainRead p agent off n).s) := by
  simp [State.plainRead, *]

@[simp] theorem canon_memRead {s : State} {p agent off n : Nat} (h : Canon (stores s)) :
    Canon (stores (s.memRead p agent off n).s) := by
  refine List.foldlRecOn (motive := fun x : EngRead => Canon (stores x.s)) _ _ (canon_plainRead h) fun x hx b _ => ?_
  dsimp only
  split
  · exact hx
  · split
    · exact hx
    · exact canon_verifyRead hx

@[simp] theorem canon_reefRead {s : State} {d p : Nat} {step off n : Nat} (hs :
    Canon (stores s)) : Canon (stores (s.reefRead d p step off n).s) := by
  unfold State.reefRead
  dsimp only
  (repeat' split) <;> simp [*]

@[simp] theorem canon_reefAdd {s : State} {d p step : Nat} {b : Bucket} {e : Nat} {vals : List Nat} (h : Canon (stores s)) :
    Canon (stores (s.reefAdd d p step b e vals)) := by
  have hstage : Canon (stores (if b.taken = 0 then (s.reefWrite d p step b.stage (List.replicate (5 * b.elems) 0)).1 else s)) := by
    split <;> simp [h]
  unfold State.reefAdd
  dsimp only
  generalize (if b.taken = 0 then _ else s) = v at hstage ⊢
  split <;> simp [hstage]

@[simp] theorem canon_localPart {s : State} {d p step : Nat} {b : Bucket} {at_ n : Nat} (h : Canon (stores s)) :
    Canon (stores (s.localPart d p step b at_ n).1.s) := by
  unfold State.localPart
  dsimp only
  split <;> simp [h]

@[simp] theorem canon_chunkRoot {s : State} {d p step : Nat} {x : GroupSt} {b : Bucket} {sh c tries : Nat} {sum : List Int} {cs :
    Nat} (hs : Canon (stores s)) : Canon (stores (s.chunkRoot d p step x b sh c tries sum cs)) := by
  unfold State.chunkRoot
  dsimp only
  (repeat' split) <;> simp [*]

@[simp] theorem canon_chunkGo {s : State} {d p step g bkt sh c : Nat} (h : Canon (stores s)) :
    Canon (stores (s.chunkGo d p step g bkt sh c)) := by
  unfold State.chunkGo
  split
  · next x b _ _ =>
    have ha := canon_localPart (d := d) (p :=
    p) (step := step) (b := b) (at_ := (b.chunkAt x.n sh c).1) (n := (b.chunkAt x.n sh c).2) h
    refine canon_cond h ?_
    dsimp only
    generalize s.localPart d p step b (b.chunkAt x.n sh c).1 (b.chunkAt x.n sh c).2 = r at ha ⊢
    obtain ⟨a, own⟩ := r
    have hemit : ∀ n, stores (if (treeKids x.n (s.rankIn x) sh).isEmpty || ((s.reef d).mark step g bkt sh c).isSome then a.s
        else a.s.emit d srcChildWait n 0 0 0 0 0) = stores a.s := by simp
    refine canon_cond (canon_cond (canon_chunkRoot ?_) ?_) ?_ <;> simpa [hemit] using ha
  · exact h

@[simp] theorem canon_bucketGo {s : State} {d p step g bkt : Nat} (h :
    Canon (stores s)) : Canon (stores (s.bucketGo d p step g bkt)) := by
  unfold State.bucketGo
  split
  · exact canon_foldl (fun _ _ hs => canon_foldl (fun _ _ hs => canon_chunkGo hs) hs) h
  · exact h

@[simp] theorem canon_f32Out {s : State} {d p : Nat} {x : GroupSt} {b : Bucket} {step : Nat} {v : List Nat} (hs :
    Canon (stores s)) : Canon (stores (s.f32Out d p x b step v)) := by
  simp [State.f32Out, *]

@[simp] theorem canon_f32Go {s : State} {d p step g bkt : Nat} (h :
    Canon (stores s)) : Canon (stores (s.f32Go d p step g bkt)) := by
  unfold State.f32Go
  split
  · next x b _ _ =>
    have ha := canon_reefRead (d := d) (p := p) (step := step) (off := b.stage) (n := 4 * b.elems) h
    refine canon_cond h ?_
    generalize s.reefRead d p step b.stage (4 * b.elems) = a at ha ⊢
    dsimp only
    refine canon_cond ?_ ?_ <;> simp [ha, apply_ite Prod.snd]
  · exact h

@[simp] theorem canon_handOff {s : State} {d p step : Nat} {b : Bucket} {e : Nat} {vals : List Nat} (hs :
    Canon (stores s)) : Canon (stores (s.handOff d p step b e vals)) := by
  simp [State.handOff, *]

theorem canon_reefPutBegin {s : State} {t : Nat} {o : PorOp} {bkt g : Nat} (hs :
    Canon (stores s)) {v : State} (hv : State.reefPutBegin s t o bkt g = some v) : Canon (stores v) := by
  revert hv

  unfold State.reefPutBegin
  dsimp only
  repeat' split
  all_goals rintro h
  all_goals cases h
  all_goals simp [hs]

theorem canon_porBegin {s v : State} {t : Nat} (h : Canon (stores s)) (hv : s.porBegin t = some v) : Canon (stores v) := by
  unfold State.porBegin at hv
  dsimp only at hv
  split at hv
  · cases hv
  split at hv
  · cases hv
  split at hv
  · exact canon_reefPutBegin h hv
  · exact stores_reefCloseBegin _ _ _ _ v hv ▸ h
  all_goals
    split at hv <;> cases hv
    simpa using h

theorem canon_beginOne {s v : State} {t : Nat} (h : Canon (stores s)) (hv : s.beginOne t = some v) : Canon (stores v) := by
  unfold State.beginOne at hv
  split at hv
  · next hb => cases hv; exact stores_arrBegin _ _ _ hb ▸ h
  split at hv
  · next hb => cases hv; exact stores_vxeBegin _ _ _ hb ▸ h
  split at hv
  · next hb => cases hv; exact canon_porBegin h hb
  · exact stores_sigBegin _ _ _ hv ▸ h

@[simp] theorem canon_beginAll : ∀ {n : Nat} {s : State} {t : Nat}, Canon (stores s) → Canon (stores (State.beginAll n s t))
  | 0, _, _, h => h
  | n + 1, s, t, h => by
    unfold State.beginAll
    split
    · next hb => exact canon_beginAll (canon_beginOne h hb)
    · exact h

@[simp] theorem canon_pump {s : State} {t : Nat} (hs : Canon (stores s)) : Canon (stores (s.pump t)) := by
  simp [State.pump, *]

@[simp] theorem canon_pumpRegion {s : State} {r : Nat} {full : Bool} (h :
    Canon (stores s)) : Canon (stores (s.pumpRegion r full)) := by
  unfold State.pumpRegion
  split
  · exact canon_foldl (fun _ _ hs => canon_pump hs) h
  · exact h

@[simp] theorem canon_order {s : State} {t scope : Nat} {rel acq : Bool} (h :
    Canon (stores s)) : Canon (stores (s.order t scope rel acq)) := by
  unfold State.order
  refine canon_pump ?_
  rw [stores_issue fun k sl i v hi => ?_]
  · exact h
  · split at hi <;> simp at hi
    rw [← hi, stores_modTile]

@[simp] theorem canon_feed {s : State} {t : Nat} {isB : Bool} {idx : Nat} (h :
    Canon (stores s)) : Canon (stores (s.feed t isB idx)) := by
  unfold State.feed
  dsimp only
  split
  · exact h
  split
  · exact h
  split
  · split <;> simp [h]
  split
  · split
    · simp [h]
    split
    · exact h
    · exact canon_foldl (fun _ _ hs => canon_pump hs) (by simp [h])
  · simp [h]

@[simp] theorem canon_dpu {s : State} {t i j : Nat} {u : Option DpuUpset} (hs :
    Canon (stores s)) : Canon (stores (s.dpu t i j u)) := by
  unfold State.dpu
  dsimp only
  (repeat' split) <;> simp [*]

@[simp] theorem canon_vIssue {s : State} {t : Nat} {kind : VKind} {f : VecF} {atIssue : Tile → Tile} (h : Canon (stores s)) :
    Canon (stores (s.vIssue t kind f atIssue)) := by
  unfold State.vIssue
  refine canon_pump ?_
  rw [stores_issue fun k sl i v hi => ?_]
  · exact h
  · dsimp only at hi
    (repeat' split at hi) <;> simp at hi
    rw [← hi, stores_modTile]

@[simp] theorem canon_vApply {s : State} {t : Nat} {r : VRes} (h : Canon (stores s)) : Canon (stores (s.vApply t r)) := by
  have hwrite := canon_foldl (f := fun s e => s.sramWrite t e.1 e.2) (fun _ _ hs => canon_sramWrite hs) (l := r.sram)
    (s := s.modTile t fun x => (x.vWrite r).release r.info.id) (by simpa using h)
  unfold State.vApply
  dsimp only
  split <;> simpa using hwrite

@[simp] theorem canon_porIssue {s : State} {t : Nat} {kind : PKind} {f : PorF} (h : Canon (stores s)) :
    Canon (stores (s.porIssue t kind f)) := by
  unfold State.porIssue
  refine canon_pump ?_
  rw [stores_issue fun k sl i v hi => ?_]
  · exact h
  · dsimp only at hi
    (repeat' split at hi) <;> simp at hi
    all_goals rw [← hi, stores_modTile]

@[simp] theorem canon_deliver {s : State} {t : Nat} {o : PorOp} {r : Nat} {data : List Byte} (hs :
    Canon (stores s)) : Canon (stores (s.deliver t o r data)) := by
  simp [State.deliver, *]

theorem canon_verifyBlock {s v : State} {t : Nat} {o : PorOp} {r sent : Nat} {crc : CrcOutcome} (h : Canon (stores s))
    (hv : s.verifyBlock t o r sent crc = some v) : Canon (stores v) := by
  revert hv
  unfold State.verifyBlock
  dsimp only
  split
  · rintro ⟨⟩; exact h
  split
  · rintro ⟨⟩; exact h
  generalize (crc32c _) = x
  split
  · rintro ⟨⟩; exact h
  split
  · rintro ⟨⟩
  split <;> rintro ⟨⟩
  · rw [stores_post]
    exact canon_foldl (fun _ _ hs => canon_deliver hs) h
  · simpa using h

theorem canon_takeAnswer {s v : State} {t op req : Nat} {crc : CrcOutcome} (h : Canon (stores s))
    (hv : s.takeAnswer t op req crc = some v) : Canon (stores v) := by
  unfold State.takeAnswer at hv
  dsimp only at hv
  split at hv
  · cases hv; exact h
  split at hv
  · cases hv; exact h
  split at hv
  · cases hv; simpa using h
  obtain ⟨w, hw, rfl⟩ := Option.map_eq_some_iff.mp hv
  have hwc : Canon (stores w) := by
    clear hv
    split at hw
    · split at hw
      · refine canon_verifyBlock (canon_cond (canon_deliver (canon_cond ?_ ?_)) (canon_cond ?_ ?_)) hw <;> simpa using h
      · cases hw
        refine canon_cond (canon_deliver (canon_cond ?_ ?_)) (canon_cond ?_ ?_) <;> simpa using h
    · cases hw
      refine canon_cond (canon_deliver (canon_cond ?_ ?_)) (canon_cond ?_ ?_) <;> simpa using h
  split
  · exact canon_cond (by simpa using hwc) hwc
  · exact hwc

@[simp] theorem canon_requestComplete {s : State} {t op req : Nat} {crc : CrcOutcome} (h : Canon (stores s)) :
    Canon (stores (s.requestComplete t op req crc)) := by
  unfold State.requestComplete
  dsimp only
  split
  · exact h
  generalize (match (s.tile t).ops.find? fun o => o.info.id == op with
    | some o => _
    | none => none) = failed
  split
  · next hv =>
    refine canon_pump (canon_takeAnswer ?_ hv)
    split <;> simp [h]
  · exact h

@[simp] theorem canon_reefIssue {s : State} {t : Nat} {kind : PKind} {f : PorF} {hold : Bool} {elem : Nat} (h : Canon (stores s)) :
    Canon (stores (s.reefIssue t kind f hold elem)) := by
  unfold State.reefIssue
  refine canon_pump ?_
  rw [stores_issue fun k sl i v hi => ?_]
  · exact h
  · dsimp only at hi
    (repeat' split at hi) <;> simp at hi
    rw [← hi, stores_modTile]

@[simp] theorem canon_strandDone {s : State} {t slot : Nat} {sl : Slot} (hs :
    Canon (stores s)) : Canon (stores (s.strandDone t slot sl)) := by
  simp [State.strandDone, *]

@[simp] theorem canon_amberWrite {s : State} {byCapstan : Bool} {o : Nat} {v : W64} (h : Canon (stores s)) :
    Canon (stores (s.amberWrite byCapstan o v)) := by
  unfold State.amberWrite
  split
  · simpa using h
  split
  · simpa using h
  · exact ⟨h.1, h.2.1, h.2.2.1, cellsWf_cellsWrite h.2.2.2⟩

@[simp] theorem canon_bkpWrite {s : State} {byCapstan : Bool} {o : Nat} {v : W64} (hs :
    Canon (stores s)) : Canon (stores (s.bkpWrite byCapstan o v)) := by
  simp [State.bkpWrite, *]

@[simp] theorem canon_regWrite {s : State} {byCapstan : Bool} {off width : Nat} {v : W64} (hs :
    Canon (stores s)) : Canon (stores (s.regWrite byCapstan off width v)) := by
  simp [State.regWrite, *]

@[simp] theorem canon_pumpPart {s : State} {p : Nat} (h : Canon (stores s)) : Canon (stores (s.pumpPart p)) :=
  canon_foldl (fun _ _ hs => canon_pump hs) h

@[simp] theorem canon_actOn {s : State} {d p : Nat} {r : Report} {g : Nat} (hs :
    Canon (stores s)) : Canon (stores (s.actOn d p r g)) := by
  unfold State.actOn
  dsimp only
  (repeat' split) <;> simp [*]

@[simp] theorem canon_decide_ {s : State} {p g : Nat} {x : GroupSt} {r : Report} (h : Canon (stores s)) :
    Canon (stores (s.decide_ p g x r)) :=
  canon_foldl (fun _ _ hs => canon_actOn hs) (by simpa using h)

@[simp] theorem canon_reportGo {s : State} {p g : Nat} (h : Canon (stores s)) : Canon (stores (s.reportGo p g)) := by
  unfold State.reportGo
  dsimp only
  split
  · exact h
  split
  · exact h
  split
  · exact h
  refine canon_cond h (canon_cond (canon_decide_ ?_) ?_)
  · refine canon_foldl (fun v c hv => ?_) (by simpa using h)
    split <;> simpa using hv
  · rw [stores_sendReef]
    refine canon_foldl (fun v c hv => ?_) (by simpa using h)
    split <;> simpa using hv

@[simp] theorem canon_wake {s : State} {p : Nat} (h : Canon (stores s)) : Canon (stores (s.wake p)) := by
  refine canon_pumpPart (canon_foldl (fun _ _ hs => canon_reportGo hs) (canon_foldl (fun v d hv => canon_foldl (fun w b hw => ?_)
    hv) h))
  split
  · split <;> simp [hw]
  · exact hw

theorem canon_coreLocal {s : State} {al : Option Alloc} {off : Nat} {op : CoreOp} (hs :
    Canon (stores s)) {v : State} (hv : State.coreLocal s al off op = some v) : Canon (stores v) := by
  revert hv

  unfold State.coreLocal
  dsimp only
  repeat' split
  all_goals rintro h
  all_goals cases h
  all_goals simp [hs]

theorem canon_coreTry {s v : State} {w : CoreWin} {ofs : Nat} {op : CoreOp} (h : Canon (stores s))
    (hv : s.coreTry w ofs op = some v) : Canon (stores v) := by
  unfold State.coreTry at hv
  split at hv
  · exact stores_coreFence hv ▸ h
  · exact canon_coreLocal h hv
  · split at hv
    · cases hv; simpa using h
    split at hv
    · exact canon_coreLocal h hv
    · exact stores_coreRemote hv ▸ h
  · cases hv; exact h

@[simp] theorem canon_coreGo {s : State} (h : Canon (stores s)) : Canon (stores s.coreGo) := by
  refine canon_foldl (fun v _ hv => ?_) h
  split
  · exact hv
  split
  · next ho => exact canon_coreTry (by simpa using hv) ho
  · exact hv

@[simp] theorem canon_reply {s : State} {c : Call} {code : Nat} {a : Answer} (h : Canon (stores a.s)) :
    Canon (stores (s.reply c code a)) := canon_complete _ _ h

theorem canon_go {self : Instr} {c : Call} {x : CmdInfo} {body : State → Answer} {s : State} (h : Canon (stores s))
    (hb : ∀ v, Canon (stores v) → Canon (stores (body v).s)) : Canon (stores (capstanRun.go self c x body s)) := by
  have hfin : ∀ {a : Answer}, Canon (stores a.s) → Canon (stores (if a.later then a.s else
      (a.s.putTxn ⟨c.msg.txn, c.msg.hash, x.code, a.status, a.result⟩ c.src).reply c x.code
        { a with s := a.s.putTxn ⟨c.msg.txn, c.msg.hash, x.code, a.status, a.result⟩ c.src })) :=
    fun ha => canon_cond ha (canon_reply (by simpa using ha))
  have hwait : Canon (stores (capstanRun.wait self s)) := by simpa using h
  unfold capstanRun.go
  dsimp only
  split
  · exact canon_reply h
  refine canon_cond hwait (canon_cond (canon_cond (canon_reply h) (canon_cond hwait (hfin (hb _ h)))) ?_)
  split
  · exact canon_reply h
  · refine canon_cond (canon_reply h) (canon_cond (canon_reply h) (canon_cond hwait (canon_cond ?_ ?_)))
    · exact canon_reply (by simpa using h)
    · exact hfin (hb _ (by simpa using h))

theorem canon_capstanRun {self : Instr} {c : Call} {x : CmdInfo} {body : State → Answer} {s : State} (h : Canon (stores s))
    (hb : ∀ v, Canon (stores v) → Canon (stores (body v).s)) : Canon (stores (capstanRun self c x body s)) := by
  have hstart : Canon (stores ((if s.cap.run = .restarting then s.modCap fun k => { k with run :=
    .running } else s).startMsg c.src)) := by
    simpa using h
  unfold capstanRun
  refine canon_cond h ?_
  generalize State.startMsg _ c.src = v at hstart ⊢
  dsimp only
  split
  · exact canon_reply hstart
  split
  · exact canon_cond (canon_reply hstart) (canon_cond (canon_reply hstart) (canon_go hstart hb))
  · exact canon_go hstart hb

@[simp] theorem canon_fillBytes {s : State} {p len : Nat} {a4 : FillSrc} (hs :
    Canon (stores s)) : Canon (stores (s.fillBytes p len a4).1) := by
  unfold State.fillBytes
  split <;> simp [*]

@[simp] theorem canon_countOf {s : State} {p : Nat} (hs : Canon (stores s)) : Canon (stores (s.countOf p).1) := by
  unfold State.countOf
  split <;> simp [*]

@[simp] theorem canon_checksums {s : State} {p base n : Nat} (hs : Canon (stores s)) : Canon (stores (s.checksums p base n).1) := by
  simp [State.checksums, *]

@[simp] theorem canon_bindTile {s : State} {im : Image} {t : Nat} (h : Canon (stores s)) : Canon (stores (s.bindTile im t)) := by
  unfold State.bindTile
  dsimp only
  split
  · exact canon_foldl (fun _ _ hs => canon_sramWrite hs) (by simpa using h)
  · simpa using h

@[simp] theorem canon_bindImage {s : State} {p : Nat} {im : Image} {seed : Nat} (h : Canon (stores s)) :
    Canon (stores (s.bindImage p im seed)) := by
  simp [State.bindImage, canon_foldl (fun _ _ hs => canon_bindTile hs) h]

@[simp] theorem canon_dropBind {s : State} {p : Nat} (hs : Canon (stores s)) : Canon (stores (s.dropBind p)) := by
  unfold State.dropBind
  split <;> simp [*]

@[simp] theorem canon_partReset {s : State} {p : Nat} (h : Canon (stores s)) : Canon (stores (s.partReset p)) := by
  have hzero := canon_foldl (f := fun (s : State) t => (s.modTile t Tile.cleared).sramZero t)
    (fun v t hv => canon_sramZero (s := v.modTile t Tile.cleared) (t := t) (by simpa using hv))
    (l := (((s.endDump p).dropBind p).dropRequests p).tilesOf p) (s := ((s.endDump p).dropBind p).dropRequests p) (by simp [h])
  unfold State.partReset
  refine canon_cond ?_ ?_ <;> simpa using hzero

@[simp] theorem canon_capRestart {s : State} (hs : Canon (stores s)) : Canon (stores (s.capRestart)) := by
  simp [State.capRestart, *]

@[simp] theorem canon_clearTiles {s : State} (h : Canon (stores s)) : Canon (stores s.clearTiles) := ⟨rfl, h.2⟩

@[simp] theorem canon_clearModule {s : State} {cause : Nat} (h : Canon (stores s)) : Canon (stores (s.clearModule cause)) :=
  ⟨rfl, h.2.1, h.2.2.1, cellsWf_cellsClear h.2.2.2⟩

@[simp] theorem canon_moduleReset {s : State} {cause : Nat} (hs : Canon (stores s)) : Canon (stores (s.moduleReset cause)) := by
  simp [State.moduleReset, *]

@[simp] theorem canon_sliceOp {s : State} {d k : Nat} {parity : Bool} (h :
    Canon (stores s)) : Canon (stores (s.sliceOp d k parity)) := by
  unfold State.sliceOp
  split
  · exact h
  · next hg => exact canon_serveReq (stores_granted hg ▸ h)

@[simp] theorem canon_readBlock {s : State} {al : Alloc} {block : Nat} (h : Canon (stores s)) :
    Canon (stores (s.readBlock al block).1) :=
  List.foldlRecOn (motive := fun x : State × List Byte => Canon (stores x.1)) _ _ h fun _ hx _ _ => canon_homeDo hx

@[simp] theorem canon_scrub {s : State} {d block : Nat} (h : Canon (stores s)) : Canon (stores (s.scrub d block)) := by
  refine canon_foldl (fun v al hv => ?_) h
  dsimp only
  split
  · split <;> simp [hv]
  · exact hv

@[simp] theorem canon_losePower{s : State} (h : Canon (stores s)) : Canon (stores s.losePower) := by
  have hdown : Canon (stores ((List.range 16).foldl (fun s p => s.portDown p .down) s)) := by
    rw [stores_foldl (fun v p => stores_portDown v p _)]; exact h
  unfold State.losePower
  generalize (List.range 16).foldl (fun s p => s.portDown p .down) s = v at hdown
  exact ⟨rfl, rfl, hdown.2.2⟩

@[simp] theorem canon_hardTrip {s : State} {source what : Nat} (hs :
    Canon (stores s)) : Canon (stores (s.hardTrip source what)) := by
  simp [State.hardTrip, *]

@[simp] theorem canon_hbmTemp {s : State} {k : Nat} {temp : Option Int} (hs :
    Canon (stores s)) : Canon (stores (s.hbmTemp k temp)) := by
  simp [State.hbmTemp, *]

@[simp] theorem canon_releaseBegin {s : State} {t op : Nat} (hs : Canon (stores s)) : Canon (stores (s.releaseBegin t op)) := by
  unfold State.releaseBegin
  dsimp only
  (repeat' split) <;> simp [*]

@[simp] theorem canon_landFlag {s : State} {fl : FlagLine} (hs : Canon (stores s)) : Canon (stores (s.landFlag fl).s) := by
  unfold State.landFlag
  dsimp only
  (repeat' split) <;> simp [*]

@[simp] theorem canon_flagStep {s : State} {d k : Nat} (hs : Canon (stores s)) : Canon (stores (s.flagStep d k)) := by
  unfold State.flagStep
  split <;> simp [*]

@[simp] theorem canon_apply {s : State} {p : Nat} {q : Packet} (hs : Canon (stores s)) : Canon (stores (s.apply p q).1) := by
  unfold State.apply
  dsimp only
  (repeat' split) <;> simp [*]

@[simp] theorem canon_serve {s : State} {k : Nat} {x : InPkt} (hs : Canon (stores s)) : Canon (stores (s.serve k x)) := by
  unfold State.serve
  dsimp only
  (repeat' split) <;> simp [*]

theorem canon_onReq {ptype k : Nat} {s u : State} (h : Canon (stores s)) (hu : onReq ptype k s = .next u) : Canon (stores u) := by
  cases hu
  exact canon_onPacket h fun x => canon_serve h

@[simp] theorem canon_landRemote {s : State} {fl : FlagLine} (hs : Canon (stores s)) : Canon (stores (s.landRemote fl)) := by
  simp [State.landRemote, *]

@[simp] theorem canon_land {s : State} {k : Nat} {x : InPkt} (hs : Canon (stores s)) : Canon (stores (s.land k x)) := by
  unfold State.land
  dsimp only
  (repeat' split) <;> simp [*]

@[simp] theorem canon_endFab {s : State} {q : FabReq} {fin : ReqEnd} {data : List Byte} (hs :
    Canon (stores s)) : Canon (stores (s.endFab q fin data)) := by
  unfold State.endFab
  dsimp only
  (repeat' split) <;> simp [*]

@[simp] theorem canon_lateOr {s : State} {q : FabReq} {x : InPkt} {f : State → State} (hs :
    Canon (stores s)) (h4 : ∀ y1, Canon (stores y1) → Canon (stores (f y1))) : Canon (stores (s.lateOr q x f)) := by
  simp [State.lateOr, *]

@[simp] theorem canon_answerIn {s : State} {k : Nat} {x : InPkt} {want : Nat → Bool} (h : Canon (stores s)) :
    Canon (stores (s.answerIn k x want)) := by
  unfold State.answerIn
  dsimp only
  split
  · simpa using h
  split
  · simpa using h
  · exact canon_lateOr (by simpa using h) fun v hv => canon_endFab hv

theorem canon_onRsp {ptype : Nat} {want : Nat → Bool} {k : Nat} {s u : State} (h :
    Canon (stores s)) (hu : onRsp ptype want k s = .next u) :
    Canon (stores u) := by
  cases hu
  exact canon_onPacket h fun x => canon_answerIn h

@[simp] theorem canon_pumpWaiting {s : State} (h : Canon (stores s)) : Canon (stores s.pumpWaiting) := by
  refine canon_foldl (fun v t hv => ?_) h
  dsimp only
  split
  · exact hv
  · exact canon_pump hv

@[simp] theorem canon_gotContrib {s : State} {k : Nat} (h : Canon (stores s)) : Canon (stores (s.gotContrib k)) := by
  refine canon_onReef h fun d p x hd q v w hv hw => ?_
  split at hw <;> cases hw
  exact canon_chunkGo (by simpa using hv)

@[simp] theorem canon_gotResend {s : State} {k : Nat} (h : Canon (stores s)) : Canon (stores (s.gotResend k)) := by
  refine canon_onReef h fun d p x hd q v w hv hw => ?_
  cases hw
  exact canon_chunkGo (by simpa using hv)

@[simp] theorem canon_gotReport {s : State} {k : Nat} (h : Canon (stores s)) : Canon (stores (s.gotReport k)) := by
  refine canon_onReef h fun d p x hd q v w hv hw => ?_
  split at hw <;> cases hw
  exact canon_reportGo (by simpa using hv)

@[simp] theorem canon_gotDecision {s : State} {k : Nat} (h : Canon (stores s)) : Canon (stores (s.gotDecision k)) := by
  refine canon_onReef h fun d p x hd q v w hv hw => ?_
  dsimp only at hw
  split at hw
  · cases hw; simpa using hv
  split at hw <;> cases hw
  exact canon_decide_ hv

@[simp] theorem canon_gotF32Up {s : State} {k : Nat} (h : Canon (stores s)) : Canon (stores (s.gotF32Up k)) := by
  refine canon_onReef h fun d p x hd q v w hv hw => ?_
  split at hw <;> cases hw
  exact canon_f32Go (by simpa using hv)

@[simp] theorem canon_gotF32Down {s : State} {k : Nat} (h : Canon (stores s)) : Canon (stores (s.gotF32Down k)) := by
  refine canon_onReef h fun d p x hd q v w hv hw => ?_
  split at hw
  · split at hw
    · cases hw; simpa using hv
    split at hw <;> cases hw
    exact canon_f32Out hv
  · cases hw; simpa using hv

@[simp] theorem canon_updRead {s : State} {d p : Nat} {off n : Nat} (hs :
    Canon (stores s)) : Canon (stores (s.updRead d p off n).s) := by
  simp [State.updRead, *]

@[simp] theorem canon_preReads {s : State} {d p step n : Nat} {l : List (Nat × Nat × Nat)} (h : Canon (stores s)) :
    Canon (stores (s.preReads d p step n l).1) := by
  refine List.foldlRecOn (motive := fun x : State × List (List Byte) × Bool => Canon (stores x.1)) _ _ h fun x hx e _ => ?_
  have ha : Canon (stores (if n = 4096 then x.1.updRead d p e.2.2 n else x.1.memRead p (updAgent d) e.2.2 n).s) := by
    split <;> simp [hx]
  dsimp only
  generalize (if n = 4096 then _ else _ : EngRead) = a at ha ⊢
  split <;> simpa using ha

@[simp] theorem canon_give {s : State} {d p step : Nat} {u : UpdSec} {bkt : Nat} {vals : List Nat} {bad : Bool} (hs :
    Canon (stores s)) : Canon (stores (s.give d p step u bkt vals bad)) := by
  unfold State.give
  split <;> simp [*]

@[simp] theorem canon_preLoss {s : State} {d p step : Nat} {u : UpdSec} (hs :
    Canon (stores s)) : Canon (stores (s.preLoss d p step u)) := by
  simp [State.preLoss, *]

@[simp] theorem canon_preNorm {s : State} {d p step : Nat} {u : UpdSec} (hs :
    Canon (stores s)) : Canon (stores (s.preNorm d p step u)) := by
  simp [State.preNorm, *]

@[simp] theorem canon_prePass {s : State} {d : Nat} (h : Canon (stores s)) : Canon (stores (s.prePass d)) := by
  unfold State.prePass
  split
  · split
    · split
      · exact canon_cond h (canon_preLoss (canon_preNorm (by simpa using h)))
      · exact h
    · exact h
  · exact h

@[simp] theorem canon_updWord {s : State} {dd p : Nat} {step off n : Nat} (hs :
    Canon (stores s)) : Canon (stores (s.updWord dd p step off n).1) := by
  unfold State.updWord
  dsimp only
  (repeat' split) <;> simp [*]

@[simp] theorem canon_updWrite {s : State} {d p : Nat} {step layer : Nat} {op off : Nat} {data : List Byte} (hs :
    Canon (stores s)) : Canon (stores (s.updWrite d p step layer op off data)) := by
  simp [State.updWrite, *]

@[simp] theorem canon_vetoRecord {s : State} {dd p : Nat} {step count : Nat} {u : UpdSec} (hs :
    Canon (stores s)) : Canon (stores (s.vetoRecord dd p step count u)) := by
  simp [State.vetoRecord, *]

@[simp] theorem canon_norms {s : State} {dd p step : Nat} {u : UpdSec} (h : Canon (stores s)) :
    Canon (stores (s.norms dd p step u).1) := by
  refine List.foldlRecOn (motive := fun x : State × List Nat => Canon (stores x.1)) _ _ h fun x hx d _ => ?_
  dsimp only
  split
  · exact canon_updWord hx
  · exact hx

@[simp] theorem canon_updReads {s : State} {d p : Nat} {l : List (Nat × Nat)} (h : Canon (stores s)) :
    Canon (stores (s.updReads d p l).1) :=
  List.foldlRecOn (motive := fun x : State × List (List Byte) × Option (Nat × Nat × Nat) => Canon (stores x.1)) _ _ h
    fun _ hx _ _ => canon_updRead hx

@[simp] theorem canon_factPass {s : State} {dd p : Nat} {u : UpdSec} {sc : UScal} {d : UDesc} (h : Canon (stores s)) :
    Canon (stores (s.factPass dd p u sc d).1) := by
  unfold State.factPass
  split
  · exact canon_updReads h
  · exact h

@[simp] theorem canon_updWrites {s : State} {d p step layer op : Nat} {l : List (Nat × List Byte)} (h : Canon (stores s)) :
    Canon (stores (s.updWrites d p step layer op l)) :=
  canon_foldl (fun _ _ hv => canon_updWrite hv) h

@[simp] theorem canon_updBlock {s : State} {dd p step : Nat} {u : UpdSec} {sc : UScal} {n : Nat} {d : UDesc} {f : Option Factors}
    {k : Nat} {bs : List (List Byte)} (hs : Canon (stores s)) : Canon (stores (s.updBlock dd p step u sc n d f k bs)) := by
  simp [State.updBlock, *]

@[simp] theorem canon_updOne {dd p step : Nat} {u : UpdSec} {sc : UScal} {n idx : Nat} {d : UDesc} {f : Option Factors} {a :
    PassAcc}
    {k : Nat} (h : Canon (stores a.s)) : Canon (stores (updOne dd p step u sc n idx d f a k).s) := by
  have hr := canon_updReads (d := dd) (p := p) (l := d.pieces k) h
  unfold updOne
  generalize a.s.updReads dd p (d.pieces k) = r at hr ⊢
  obtain ⟨v, bs, _ | why⟩ := r
  · exact canon_updBlock hr
  · exact canon_cond (by simpa using hr) (by simpa using hr)

theorem canon_foldl_fst {α β : Type} {f : State × β → α → State × β} (h : ∀ x a, Canon (stores x.1) → Canon (stores (f x a).1)) :
    ∀ {l : List α} {x : State × β}, Canon (stores x.1) → Canon (stores (l.foldl f x).1)
  | [], _, hx => hx
  | a :: _, x, hx => canon_foldl_fst (x := f x a) h (h x a hx)

/-- One round of a fold that reads: a bad read is a fault, a skipped one gives nothing. -/
theorem canon_readRound {β : Type} {c : Prop} [Decidable c] {x : State × β} {g g2 : β} {r : EngRead} {dd step layer op : Nat}
    (hx : Canon (stores x.1)) (hr : Canon (stores r.s)) :
    Canon (stores (if c then (x.1, g) else
      (match r.bad with | some why => r.s.engFault dd step layer op why | none => r.s, g2)).1) := by
  split
  · exact hx
  · dsimp only
    split
    · rw [stores_engFault]; exact hr
    · exact hr

@[simp] theorem canon_masters {s : State} {dd p step : Nat} {d : UDesc} {skip : List Nat} (h : Canon (stores s)) :
    Canon (stores (s.masters dd p step d skip).1) := by
  unfold State.masters
  refine canon_foldl_fst (fun x k hx => ?_) h
  exact canon_readRound hx (canon_updRead hx)

@[simp] theorem canon_putParts {dd p step : Nat} {d : UDesc} {skip : List Nat} : ∀ {l : List CopyPart} {off : Nat} {s : State},
    Canon (stores s) → Canon (stores (putParts dd p step d skip off s l))
  | [], _, _, h => h
  | x :: _, off, s, h => canon_putParts (s := (s.updFlags dd x.flags).updWrites dd p step d.layer d.op (x.writes skip off))
    (canon_updWrites (by simpa using h))

@[simp] theorem canon_regen {s : State} {dd p step count : Nat} {d : UDesc} {skip : List Nat} (h : Canon (stores s)) :
    Canon (stores (s.regen dd p step count d skip)) := by
  have hm := canon_masters (dd := dd) (p := p) (step := step) (d := d) (skip := skip) h
  refine canon_cond h (canon_putParts (canon_updWrite ?_))
  rw [stores_updFlags]
  exact hm

@[simp] theorem canon_residual {s : State} {dd p step : Nat} {d : UDesc} {skip : List Nat} (hs :
    Canon (stores s)) : Canon (stores (s.residual dd p step d skip)) := by
  simp [State.residual, *]

@[simp] theorem canon_stepDesc {dd p step : Nat} {u : UpdSec} {sc : UScal} {count : Nat} {a : PassAcc} {x : Nat × UDesc}
    (h : Canon (stores a.s)) : Canon (stores (stepDesc dd p step u sc count a x).s) := by
  obtain ⟨idx, d⟩ := x
  have hf := canon_factPass (dd := dd) (p := p) (u := u) (sc := sc) (d := d) h
  unfold stepDesc
  dsimp only
  generalize a.s.factPass dd p u sc d = r at hf ⊢
  obtain ⟨s0, f, good⟩ := r
  have hb : Canon (stores ((List.range (d.e / 1024)).foldl (updOne dd p step u sc (count + 1) idx d f) ⟨s0, a.failed⟩).s) :=
    List.foldlRecOn (motive := fun x : PassAcc => Canon (stores x.s)) _ _ hf fun _ hx _ _ => canon_updOne hx
  dsimp only
  generalize (List.range (d.e / 1024)).foldl (updOne dd p step u sc (count + 1) idx d f) ⟨s0, a.failed⟩ = b at hb ⊢
  cases f with
  | none => exact canon_cond (canon_residual (canon_regen hb)) (canon_regen hb)
  | some x =>
    have hv := canon_cond (c := good = true) (canon_updWrite (d := dd) (p := p) (step := step) (layer := d.layer) (op := d.op)
      (off := d.vOff) (data := bytes32 (x.r ++ x.c)) hb) hb
    exact canon_cond (canon_residual (canon_regen hv)) (canon_regen hv)

@[simp] theorem canon_auditOne {s : State} {dd p step count : Nat} {u : UpdSec} {x : Nat × UDesc} (h : Canon (stores s)) :
    Canon (stores (s.auditOne dd p step count u x)) := by
  unfold State.auditOne
  dsimp only
  refine canon_updWrite ?_
  exact canon_foldl_fst (fun y e hy => canon_readRound hy (canon_updRead hy)) h

@[simp] theorem canon_commit {s : State} {dd p step count : Nat} {u : UpdSec} (h : Canon (stores s)) :
    Canon (stores (s.commit dd p step count u)) := by
  unfold State.commit
  dsimp only
  refine canon_updWrite ?_
  rw [stores_drawFree]
  refine canon_updWrite ?_
  have hdescs : ∀ (sc : UScal) (l : List (Nat × UDesc)),
      Canon (stores (l.foldl (stepDesc dd p step u sc count) ⟨(s.norms dd p step u).1, []⟩).s) := fun sc l =>
    List.foldlRecOn (motive := fun x : PassAcc => Canon (stores x.s)) _ _ (canon_norms h) fun _ hx _ _ => canon_stepDesc hx
  exact canon_cond (canon_foldl (fun _ _ hv => canon_auditOne hv) (hdescs _ _)) (hdescs _ _)

@[simp] theorem canon_afterPass {s : State} {d p g : Nat} (h : Canon (stores s)) : Canon (stores (s.afterPass d p g)) := by
  unfold State.afterPass
  split
  · exact canon_foldl (fun _ _ hv => canon_cond (canon_bucketGo hv) hv) h
  · exact h

@[simp] theorem canon_regenRepaired {s : State} {dd p step count : Nat} {u : UpdSec} (h : Canon (stores s)) :
    Canon (stores (s.regenRepaired dd p step count u)) := by
  refine canon_cond h ?_
  rw [stores_modUpd]
  refine canon_foldl (fun v i hv => ?_) h
  split
  · exact canon_regen hv
  · exact hv

@[simp] theorem canon_doneSig {s : State} {dd p : Nat} {step count : Nat} {u : UpdSec} (hs :
    Canon (stores s)) : Canon (stores (s.doneSig dd p step count u)) := by
  simp [State.doneSig, *]

@[simp] theorem canon_commitPass {s : State} {d : Nat} (h : Canon (stores s)) : Canon (stores (s.commitPass d)) := by
  unfold State.commitPass
  split
  · refine canon_cond h (canon_afterPass (canon_doneSig (canon_cond ?_ ?_)))
    · exact canon_vetoRecord (canon_updWord h)
    · exact canon_commit (canon_updWord h)
  · exact h

@[simp] theorem canon_feedLost {s : State} {f : Feed} (hs : Canon (stores s)) : Canon (stores (s.feedLost f)) := by
  simp [State.feedLost, *]

@[simp] theorem canon_clearAll {s : State} (h : Canon (stores s)) : Canon (stores s.clearAll) := by
  cases hp : s.mram.pulse with
  | none =>
    simp only [State.clearAll, hp]
    exact ⟨rfl, rfl, h.2.2.1, rfl⟩
  | some q =>
    have hq : Canon (stores (s.mramLand q)) := by rw [stores_mramLand]; exact h
    simp only [State.clearAll, hp]
    exact ⟨rfl, rfl, hq.2.2.1, rfl⟩

@[simp] theorem canon_finishBind {s : State} {p : Nat} (hs : Canon (stores s)) : Canon (stores (s.finishBind p)) := by
  unfold State.finishBind
  dsimp only
  (repeat' split) <;> simp [*]

@[simp] theorem canon_dieSensors {s : State} {d : Nat} {temps : List (Option Int)} (hs :
    Canon (stores s)) : Canon (stores (s.dieSensors d temps)) := by
  simp [State.dieSensors, *]

@[simp] theorem canon_afterRetrain {s : State} {k : Nat} (h : Canon (stores s)) : Canon (stores (s.afterRetrain k)) :=
  canon_cond h ⟨h.1, cellsWf_filter h.2.1, h.2.2⟩

@[simp] theorem canon_resetBlock {s : State} {k : BlockKind} {idx : Nat} (h : Canon (stores s)) :
    Canon (stores (s.resetBlock k idx)) := by
  unfold State.resetBlock
  split
  · exact canon_sramZero (by rw [stores_modTile, stores_freeCredits]; exact h)
  · rw [stores_modReef]; exact h
  · rw [stores_modUpd]; exact h
  · rw [stores_modStk]; exact canon_afterRetrain h
  · exact canon_cond h (by rw [stores_portMove]; exact h)
  · rw [stores_modDie]; exact h

@[simp] theorem canon_endBlock {s : State} {b : BlkReset} {idle : Bool} (h :
    Canon (stores s)) : Canon (stores (s.endBlock b idle)) := by
  unfold State.endBlock
  dsimp only
  have hreset : ∀ v, Canon (stores v) → Canon (stores (((s.leftOpen b).foldl State.abortOp v).resetBlock b.kind b.idx)) :=
    fun v hv => canon_resetBlock ((stores_foldl stores_abortOp (s.leftOpen b) _).symm ▸ hv)
  split
  · refine canon_reply ?_
    simp only [stores_putTxn, stores_log]
    refine hreset _ ?_
    split <;> simpa using h
  · simp only [stores_log]
    refine hreset _ ?_
    split <;> simpa using h

@[simp] theorem canon_copyLoader {s : State} {l : Comp} (h :
    Canon (stores s)) : Canon (stores (s.copyLoader l)) := canon_carveWrite h

@[simp] theorem canon_doLoader {s : State} (h : Canon (stores s)) : Canon (stores (doLoader s)) := by
  unfold doLoader
  refine canon_cond h ?_
  split
  · exact h
  split <;> simp [h]

@[simp] theorem canon_dumpWrite {s : State} {p off : Nat} {data : List Byte} (h : Canon (stores s)) :
    Canon (stores (s.dumpWrite p off data)) :=
  canon_foldl (fun _ _ hv => canon_cond hv (canon_homeDo hv)) h

@[simp] theorem canon_writePieces {p : Nat} : ∀ {l : List Piece} {s : State} {off : Nat}, Canon (stores s) →
    Canon (stores (s.writePieces p off l))
  | [], _, _, h => h
  | .bytes d :: _, s, off, h => canon_writePieces (s := s.dumpWrite p off d) (canon_dumpWrite h)
  | .open_ n :: _, s, _, h => canon_writePieces (s :=
    (s.drawBytes n).2.dumpWrite p _ _) (canon_dumpWrite (by rw [stores_drawBytes]; exact h))

@[simp] theorem canon_writeSection {s : State} {p : Nat} {x : Placed} (hs :
    Canon (stores s)) : Canon (stores (s.writeSection p x)) := by
  simp [State.writeSection, *]

@[simp] theorem canon_writeDump {s : State} {p : Nat} {h : DumpHdr} {truncated : Bool} (hs : Canon (stores s)) :
    Canon (stores (s.writeDump p h truncated)) := by
  have hsecs : ∀ l : List Placed, Canon (stores (l.foldl (fun s x => s.writeSection p x) s.drawFree.2)) := fun l =>
    canon_foldl (fun _ _ hv => canon_writeSection hv) (by simpa using hs)
  simp [State.writeDump, hsecs]

@[simp] theorem canon_tileReq {s : State} {t : Nat} {upset : Option Nat} (hs :
    Canon (stores s)) : Canon (stores (s.tileReq t upset)) := by
  unfold State.tileReq
  dsimp only
  (repeat' split) <;> simp [*]

@[simp] theorem canon_ctrlAccess {s : State} {off : Nat} {op : CoreOp} (hs :
    Canon (stores s)) : Canon (stores (s.ctrlAccess off op)) := by
  unfold State.ctrlAccess
  split <;> simp [*]

@[simp] theorem canon_coreAccess {s : State} {w : CoreWin} {ofs : Nat} {op : CoreOp} (h : Canon (stores s)) :
    Canon (stores (s.coreAccess w ofs op)) := by
  have getD : ∀ {o : Option State}, (∀ v, o = some v → Canon (stores v)) →
      Canon (stores (o.getD { s with coreWait := s.coreWait ++ [(w, ofs, op)] })) := by
    intro o ho
    cases o with
    | none => simpa using h
    | some v => exact ho v rfl
  unfold State.coreAccess
  dsimp only
  split
  · exact canon_cond (getD fun v hv => stores_coreFence hv ▸ h) (by simpa using h)
  · exact canon_ctrlAccess h
  · exact canon_cond (getD fun v hv => canon_coreTry h hv) (by simpa using h)

end Sys2Proof.Proofs.Stores
end

section
/-! PROOFS. The carve-out's size, which places the mailboxes' buffers, and the operations of the mailbox commands that leave it as it is. -/
namespace Sys2Proof.Proofs.Stores

open Sys2Proof Sys2Proof.Machine Sys2Proof.Laws

/-- The carve-out's size in force, which places the mailboxes' buffers. -/
def carveOf (s : State) : Nat := s.cap.carve

@[simp] theorem carveOf_mk (s : State) (pending lny regions power thermal tiles sram sramBad fly tileReqs hbm poison crcs stks
    dies fabric parts
    allocs standby errs obs flash mram awaiting geodes spineMons rst pins irqs coreAns coreWait coreRel coreLoads free) :
    carveOf ⟨pending, lny, regions, power, thermal, tiles, sram, sramBad, fly, tileReqs, hbm, poison, crcs, stks, dies, fabric,
      parts, allocs, s.cap, standby, errs, obs, flash, mram, awaiting, geodes, spineMons, rst, pins, irqs, coreAns, coreWait,
    coreRel,
      coreLoads, free⟩ = carveOf s := (rfl)

@[simp] theorem carveOf_ite (c : Prop) [Decidable c] (s v : State) :
    carveOf (if c then s else v) = if c then carveOf s else carveOf v :=
  apply_ite carveOf c s v

@[simp] theorem carveOf_foldl {α : Type} {f : State → α → State} (h : ∀ s a, carveOf (f s a) = carveOf s) (l : List α) (s : State) :
    carveOf (l.foldl f s) = carveOf s := List.foldlRecOn (motive :=
    fun v => carveOf v = carveOf s) l f rfl fun v hv a _ => (h v a).trans hv

@[simp] theorem carveOf_getD {o : Option State} {s : State} (h : ∀ v, o = some v → carveOf v = carveOf s) :
    carveOf (o.getD s) = carveOf s := by
  cases o with
  | none => rfl
  | some v => exact h v rfl

theorem carveOf_modCap {s : State} {f : Capstan → Capstan} (h : (f s.cap).carve = s.cap.carve) :
    carveOf (s.modCap f) = carveOf s := h

@[simp] theorem carveOf_modDie (s : State) (d : Nat) (f : Die → Die) : carveOf (s.modDie d f) = carveOf s := by
  simp [State.modDie]

@[simp] theorem carveOf_modMon (s : State) (d m : Nat) (f : Monitor → Monitor) : carveOf (s.modMon d m f) = carveOf s := by
  simp [State.modMon]

@[simp] theorem carveOf_dropSample (s : State) (d m : Nat) : carveOf (s.dropSample d m) = carveOf s := by
  simp [State.dropSample]

@[simp] theorem carveOf_modPage (s : State) (k : Nat) (f : ErrPage → ErrPage) : carveOf (s.modPage k f) = carveOf s := by
  simp [State.modPage]

@[simp] theorem carveOf_raiseIrq (s : State) (src : Nat) : carveOf (s.raiseIrq src) = carveOf s := by
  simp [State.raiseIrq]

@[simp] theorem carveOf_postPage (s : State) (k : Nat) (r : EvRec) : carveOf (s.postPage k r) = carveOf s := by
  simp [State.postPage]

@[simp] theorem carveOf_post (s : State) (part : Option Nat) (event source : Nat) (layer op detail : Nat) :
    carveOf (s.post part event source layer op detail) = carveOf s := by
  unfold State.post
  split <;> simp [*]

@[simp] theorem carveOf_sample (s : State) (d m raw : Nat) (force : Bool) : carveOf (s.sample d m raw force) = carveOf s := by
  simp [State.sample]

@[simp] theorem carveOf_sampleEvent (s : State) (e : SampleEvent) : carveOf (s.sampleEvent e) = carveOf s := by
  simp [State.sampleEvent]

@[simp] theorem carveOf_emit (s : State) (d source : Nat) (raw layer : Nat) (op strandId : Nat) (seqTag inst : Nat) :
    carveOf (s.emit d source raw layer op strandId seqTag inst) = carveOf s := by
  simp [State.emit]

@[simp] theorem carveOf_emitAll (s : State) (source raw : Nat) (layer op inst : Nat) :
    carveOf (s.emitAll source raw layer op inst) = carveOf s := by
  simp [State.emitAll]

@[simp] theorem carveOf_modMbx (s : State) (n : Nat) (f : Mailbox → Mailbox) : carveOf (s.modMbx n f) = carveOf s := by
  unfold State.modMbx
  exact (rfl)

@[simp] theorem carveOf_modSession (s : State) (k : Nat) (f : Session → Session) : carveOf (s.modSession k f) = carveOf s := by
  unfold State.modSession
  exact (rfl)

@[simp] theorem carveOf_modFab (s : State) (f : Fabric → Fabric) : carveOf (s.modFab f) = carveOf s := by
  simp [State.modFab]

@[simp] theorem carveOf_clearHand (s : State) (a2 : Src) : carveOf (s.clearHand a2) = carveOf s := by
  unfold State.clearHand
  split <;> simp [*]

@[simp] theorem carveOf_startMsg (s : State) (src : Src) : carveOf (s.startMsg src) = carveOf s := by
  unfold State.startMsg
  split
  · rw [carveOf_emitAll, carveOf_modCap (by cases src <;> rfl), carveOf_clearHand]
  · rfl

@[simp] theorem carveOf_answer (s : State) (status : Nat) : carveOf (s.answer status).s = carveOf s := by
  simp [State.answer]

@[simp] theorem carveOf_putTxn (s : State) (e : TxnEnt) (a3 : Src) : carveOf (s.putTxn e a3) = carveOf s := by
  unfold State.putTxn
  split <;> simp [*]

@[simp] theorem carveOf_wait (self : Instr) (s : State) : carveOf (capstanRun.wait self s) = carveOf s := by
  simp [capstanRun.wait]

@[simp] theorem carveOf_capRestart (s : State) : carveOf s.capRestart = carveOf s := (rfl)

@[simp] theorem carveOf_acceptSeq (s : State) (auth key seq : Nat) : carveOf (s.acceptSeq auth key seq) = carveOf s := by
  unfold State.acceptSeq
  split <;> rfl

@[simp] theorem carveOf_setVer (s : State) (v : Option (Nat × Nat)) (a3 : Src) : carveOf (s.setVer v a3) = carveOf s := by
  unfold State.setVer
  split <;> simp [*]

@[simp] theorem carveOf_ok (s : State) : carveOf (s.ok).s = carveOf s := by
  simp [State.ok]

@[simp] theorem carveOf_modRegion (s : State) (r : Nat) (f : Region → Region) : carveOf (s.modRegion r f) = carveOf s := by
  simp [State.modRegion]

@[simp] theorem carveOf_gateFree (s : State) : carveOf (s.gateFree) = carveOf s := by
  simp [State.gateFree]

@[simp] theorem carveOf_addAlloc (s : State) (al : Alloc) : carveOf (s.addAlloc al) = carveOf s := by
  simp [State.addAlloc]

@[simp] theorem carveOf_modUpd (s : State) (d : Nat) (f : Upd → Upd) : carveOf (s.modUpd d f) = carveOf s := by
  simp [State.modUpd]

@[simp] theorem carveOf_setRepair (s : State) (p : Nat) (on : Bool) : carveOf (s.setRepair p on) = carveOf s := by
  simp [State.setRepair]

@[simp] theorem carveOf_modTile (s : State) (t : Nat) (f : Tile → Tile) : carveOf (s.modTile t f) = carveOf s := by
  simp [State.modTile]

@[simp] theorem carveOf_modPower (s : State) (f : Power → Power) : carveOf (s.modPower f) = carveOf s := by
  simp [State.modPower]

@[simp] theorem carveOf_planned (s : State) : carveOf (s.planned) = carveOf s := by
  simp [State.planned]

@[simp] theorem carveOf_modPart (s : State) (p : Nat) (f : Machine.Part → Machine.Part) : carveOf (s.modPart p f) = carveOf s := by
  simp [State.modPart]

@[simp] theorem carveOf_modGeode (s : State) (p : Nat) (f : Geode → Geode) : carveOf (s.modGeode p f) = carveOf s := by
  simp [State.modGeode]

@[simp] theorem carveOf_mramWrite (s : State) (q : MramReq) : carveOf (s.mramWrite q) = carveOf s := by
  simp [State.mramWrite]

@[simp] theorem carveOf_log (s : State) (rtype part : Nat) (payload : List Nat) :
    carveOf (s.log rtype part payload) = carveOf s := by
  simp [State.log]

@[simp] theorem carveOf_postFault (s : State) (d source : Nat) (r : FaultRec) (step : Nat) :
    carveOf (s.postFault d source r step) = carveOf s := by
  unfold State.postFault
  dsimp only
  (repeat' split) <;> simp [*]

@[simp] theorem carveOf_modReef (s : State) (d : Nat) (f : Reef → Reef) : carveOf (s.modReef d f) = carveOf s := by
  simp [State.modReef]

@[simp] theorem carveOf_setVeto (s : State) (d step : Nat) (v : Veto) (source layer op : Nat) :
    carveOf (s.setVeto d step v source layer op) = carveOf s := by
  simp [State.setVeto]

@[simp] theorem carveOf_trigger (s : State) (p : Option Nat) (tr : Trig) : carveOf (s.trigger p tr) = carveOf s := by
  unfold State.trigger
  split <;> simp [*]

@[simp] theorem carveOf_fault (s : State) (t : Nat) (i : Machine.Info) (ipValid : Bool) (cls code detail : Nat) :
    carveOf (s.fault t i ipValid cls code detail) = carveOf s := by
  unfold State.fault
  dsimp only
  (repeat' split) <;> simp [*]

@[simp] theorem carveOf_abortTile (s : State) (t : Nat) : carveOf (s.abortTile t) = carveOf s := by
  unfold State.abortTile
  rw [carveOf_modTile]
  refine carveOf_foldl (fun v k => ?_) _ _
  dsimp only
  split <;> simp

@[simp] theorem carveOf_abortPart (s : State) (p : Nat) : carveOf (s.abortPart p) = carveOf s := by
  simp [State.abortPart]

@[simp] theorem carveOf_plannedStop (s : State) (p : Nat) : carveOf (s.plannedStop p) = carveOf s := by
  simp [State.plannedStop]

@[simp] theorem carveOf_unbind (s : State) (p : Nat) : carveOf (s.unbind p) = carveOf s := by
  simp [State.unbind]

@[simp] theorem carveOf_modPort (s : State) (p : Nat) (f : Port → Port) : carveOf (s.modPort p f) = carveOf s := by
  simp [State.modPort]

@[simp] theorem carveOf_postAll (s : State) (event source detail : Nat) : carveOf (s.postAll event source detail) = carveOf s := by
  simp [State.postAll]

@[simp] theorem carveOf_portMove (s : State) (p : Nat) (f : Port → Port) : carveOf (s.portMove p f) = carveOf s := by
  simp [State.portMove]

@[simp] theorem carveOf_countDiscard (s : State) : carveOf (s.countDiscard) = carveOf s := by
  simp [State.countDiscard]

theorem carveOf_queuePkt {s v : State} {p : Packet} {inp at_ : Nat}
    (h : s.queuePkt p inp at_ = some v) : carveOf v = carveOf s := by
  unfold State.queuePkt at h
  split at h <;> cases h
  simp

@[simp] theorem carveOf_inject (s : State) (p : Packet) : carveOf (s.inject p) = carveOf s := by
  have hq : ∀ v, s.queuePkt p 16 s.now = some v → carveOf v = carveOf s := fun v h => carveOf_queuePkt h
  unfold State.inject
  rw [carveOf_ite, carveOf_ite, carveOf_getD (by simpa using hq)]
  simp

@[simp] theorem carveOf_answerPkt (s : State) (q : Packet) (ptype status reason : Nat) (data : List Byte) :
    carveOf (s.answerPkt q ptype status reason data) = carveOf s := by
  simp [State.answerPkt]

@[simp] theorem carveOf_refusePkt (s : State) (q : Packet) (reason : Nat) : carveOf (s.refusePkt q reason) = carveOf s := by
  simp [State.refusePkt]

@[simp] theorem carveOf_discardPkt (s : State) (p : Packet) : carveOf (s.discardPkt p) = carveOf s := by
  simp [State.discardPkt]

@[simp] theorem carveOf_moveOut (s : State) (p : Nat) : carveOf (s.moveOut p) = carveOf s := by
  unfold State.moveOut
  split <;> simp [*]

@[simp] theorem carveOf_judgePeer (s : State) (p : Nat) : carveOf (s.judgePeer p) = carveOf s := by
  unfold State.judgePeer
  dsimp only
  (repeat' split) <;> simp [*]

@[simp] theorem carveOf_sendHello (s : State) (p : Nat) : carveOf (s.sendHello p) = carveOf s := by
  simp [State.sendHello]

@[simp] theorem carveOf_rejudge (s : State) : carveOf (s.rejudge) = carveOf s := by
  simp [State.rejudge]

@[simp] theorem carveOf_portDown (s : State) (p : Nat) (st : PortSt) : carveOf (s.portDown p st) = carveOf s := by
  simp [State.portDown]

@[simp] theorem carveOf_startRetrain (s : State) (p lanes reason : Nat) : carveOf (s.startRetrain p lanes reason) = carveOf s := by
  simp [State.startRetrain]

@[simp] theorem carveOf_slRefuse (s : State) (src : Option Src) (item : Nat) : carveOf (s.slRefuse src item) = carveOf s := by
  simp [State.slRefuse]

@[simp] theorem carveOf_rethrottle (s : State) : carveOf (s.rethrottle) = carveOf s := by
  simp [State.rethrottle]

@[simp] theorem carveOf_slateChange (s : State) (item : Nat) {f : Capstan → Capstan} (h : ∀ c, (f c).carve = c.carve) :
    carveOf (s.slateChange item f) = carveOf s := by
  unfold State.slateChange
  dsimp only
  rw [carveOf_log, carveOf_modCap (by exact h _)]

@[simp] theorem carveOf_setCeil (s : State) (src : Option Src) (watts : Nat) : carveOf (s.setCeil src watts).1 = carveOf s := by
  unfold State.setCeil
  split <;> simp [*]

@[simp] theorem carveOf_startFrom (s : State) : ∀ l : List GearChange, carveOf (s.startFrom l) = carveOf s
  | [] => rfl
  | c :: r => by
    simp only [State.startFrom, carveOf_ite, carveOf_startFrom s r, carveOf_modPower, ite_self]

@[simp] theorem carveOf_requestChange (s : State) (region : Option Nat) (next : Nat) :
    carveOf (s.requestChange region next) = carveOf s := by
  unfold State.requestChange
  dsimp only
  (repeat' split) <;> simp [*]

@[simp] theorem carveOf_retarget (s : State) (r : Nat) : carveOf (s.retarget r) = carveOf s := by
  simp [State.retarget]

@[simp] theorem carveOf_retargetPart (s : State) (p : Nat) : carveOf (s.retargetPart p) = carveOf s := by
  simp [State.retargetPart]

@[simp] theorem carveOf_setShare (s : State) (p cap : Nat) : carveOf (s.setShare p cap) = carveOf s := by
  simp [State.setShare]

@[simp] theorem carveOf_clearSticky (s : State) (p : Nat) : carveOf (s.clearSticky p) = carveOf s := by
  simp [State.clearSticky]

@[simp] theorem carveOf_setCart (s : State) (src : Option Src) (root grace hash : Nat) :
    carveOf (s.setCart src root grace hash).1 = carveOf s := by
  unfold State.setCart
  dsimp only
  (repeat' split) <;> simp [*]

@[simp] theorem carveOf_meterAnswer (s : State) (fromSeq count : Nat) : carveOf (s.meterAnswer fromSeq count).s = carveOf s := by
  unfold State.meterAnswer
  dsimp only
  (repeat' split) <;> simp [*]

@[simp] theorem carveOf_applyTether (s : State) : carveOf (s.applyTether) = carveOf s := by
  simp [State.applyTether]

@[simp] theorem carveOf_modLny (s : State) (f : Lny → Lny) : carveOf (s.modLny f) = carveOf s := by
  simp [State.modLny]

@[simp] theorem carveOf_cancelChange (s : State) : carveOf (s.cancelChange) = carveOf s := by
  simp [State.cancelChange]

@[simp] theorem carveOf_lnyMoved (s : State) : carveOf (s.lnyMoved) = carveOf s := by
  unfold State.lnyMoved
  split <;> simp [*]

@[simp] theorem carveOf_lnySet (s : State) (v : Nat) : carveOf (s.lnySet v) = carveOf s := by
  simp [State.lnySet]

@[simp] theorem carveOf_setShift (s : State) (n : Nat) : carveOf (s.setShift n) = carveOf s := by
  simp [State.setShift]

@[simp] theorem carveOf_hssNext (s : State) (digest : Nat) : carveOf (s.hssNext digest).2 = carveOf s := (rfl)

theorem carveOf_takeFault {s v : State} {ds : List Nat} {r : FaultRec}
    (h : s.takeFault ds = some (r, v)) : carveOf v = carveOf s := by
  unfold State.takeFault at h
  dsimp only at h
  split at h <;> cases h
  simp

@[simp] theorem carveOf_takeFaults (ds : List Nat) : ∀ (n : Nat) (s : State), carveOf (s.takeFaults ds n).2 = carveOf s
  | 0, _ => rfl
  | n + 1, s => by
    unfold State.takeFaults
    split
    · rfl
    · next h => exact (carveOf_takeFaults ds n _).trans (carveOf_takeFault h)

@[simp] theorem carveOf_drawFree (s : State) : carveOf (s.drawFree).2 = carveOf s := by
  simp [State.drawFree]

end Sys2Proof.Proofs.Stores
end

section
/-! PROOFS. The messages: what each stores is its response. -/
namespace Sys2Proof.Proofs.Stores

open Sys2Proof Sys2Proof.Machine Sys2Proof.Laws Sys2Proof.Safety

/-- Bytes and buffers stand in v as in s. -/
def Kept (s v : State) : Prop := stores v = stores s ∧ carveOf v = carveOf s

/-- A message's outcome: nothing stored, or its response alone. -/
def Responds (c : Call) (s u : State) : Prop := Kept s u ∨ ∃ v r, u = v.complete c.src r ∧ Kept s v

theorem canon_responds {c : Call} {s u : State} (hs : Canon (stores s)) (h : Responds c s u) : Canon (stores u) := by
  rcases h with ⟨h, -⟩ | ⟨v, r, rfl, h, -⟩
  · rwa [h]
  · exact canon_complete _ _ (by rwa [h])

theorem inBuffer_congr {s v : State} {src : Src} {a : Nat} (h : carveOf v = carveOf s) : inBuffer v src a ↔ inBuffer s src a := by
  have hcap : v.cap.carve = s.cap.carve := h
  unfold inBuffer State.mbxBuf State.mbxBufBase State.carveAlloc
  rw [hcap]

theorem keepsMemory_responds {c : Call} {s u : State} (h : Responds c s u) : keepsMemory s u c.src := by
  rcases h with ⟨h, -⟩ | ⟨v, r, rfl, h, hc⟩
  · obtain ⟨h1, h2, h3, h4⟩ := (stores_eq_iff.mp h).sameMemory
    exact ⟨h1, fun _ a _ => h2 a, h3, h4⟩
  · obtain ⟨h1, h2, h3, h4⟩ := keeps_complete v c.src r
    obtain ⟨g1, g2, g3, g4⟩ := (stores_eq_iff.mp h).sameMemory
    refine ⟨fun t a n => (h1 t a n).trans (g1 t a n), fun hw a hb => ?_, fun a => (h3 a).trans (g3 a), fun a => (h4 a).trans (g4 a)⟩
    refine (h2 (canon_stores_iff.mp (h ▸ canon_stores_iff.mpr hw)) a ?_).trans (g2 a)
    rwa [inBuffer_congr hc]

theorem kept_trans {s v w : State} (h : Kept s v) (h2 : Kept v w) : Kept s w := ⟨h2.1.trans h.1, h2.2.trans h.2⟩

theorem responds_reply {c : Call} {s x : State} {code : Nat} {a : Answer} (h : Kept s a.s) : Responds c s (x.reply c code a) :=
  .inr ⟨a.s, _, rfl, h⟩

theorem responds_cond {c : Call} {s a b : State} {p : Prop} [Decidable p] (ha : Responds c s a) (hb : Responds c s b) :
    Responds c s (if p then a else b) := by
  split <;> assumption

theorem responds_go {self : Instr} {c : Call} {x : CmdInfo} {body : State → Answer} {s v : State} (h : Kept s v)
    (hb : ∀ v, Kept v (body v).s) : Responds c s (capstanRun.go self c x body v) := by
  have hwait : Responds c s (capstanRun.wait self v) := .inl (kept_trans h ⟨by simp, by simp⟩)
  have hno : ∀ {w : State} {st}, Kept v w → Responds c s (w.reply c x.code (w.answer st)) :=
    fun hw => responds_reply (kept_trans h hw)
  have hfin : ∀ {w : State}, Kept v w → ∀ {b}, Responds c s (if b = true then (body w).s else
      ((body w).s.putTxn ⟨c.msg.txn, c.msg.hash, x.code, (body w).status, (body w).result⟩ c.src).reply c x.code
        { body w with s := (body w).s.putTxn ⟨c.msg.txn, c.msg.hash, x.code, (body w).status, (body w).result⟩ c.src }) :=
    fun {w} hw b => by
    have hk := kept_trans h (kept_trans hw (hb w))
    exact responds_cond (.inl hk) (responds_reply (kept_trans hk ⟨by simp, by simp⟩))
  unfold capstanRun.go
  dsimp only
  split
  · exact hno ⟨rfl, rfl⟩
  refine responds_cond hwait ?_
  refine responds_cond (responds_cond (hno ⟨rfl, rfl⟩) (responds_cond hwait (hfin ⟨rfl, rfl⟩))) ?_
  split
  · exact hno ⟨rfl, rfl⟩
  have ha : ∀ (a k q : Nat), Kept v (v.acceptSeq a k q) := fun a k q => ⟨by simp, by simp⟩
  exact responds_cond (hno ⟨rfl, rfl⟩) (responds_cond (hno ⟨rfl, rfl⟩) (responds_cond hwait (responds_cond (hno (ha _ _ _)) (hfin
    (ha _ _ _)))))

theorem responds_run {self : Instr} {c : Call} {x : CmdInfo} {body : State → Answer} {s : State} (hb : ∀ v, Kept v (body v).s) :
    Responds c s (capstanRun self c x body s) := by
  have hstart : Kept s ((if s.cap.run = .restarting then s.modCap fun k => { k with run := .running } else s).startMsg c.src) := by
    refine ⟨by simp, ?_⟩
    rw [carveOf_startMsg]
    split <;> rfl
  unfold capstanRun
  refine responds_cond (.inl ⟨rfl, rfl⟩) ?_
  generalize State.startMsg _ c.src = v at hstart ⊢
  dsimp only
  split
  · exact responds_reply hstart
  split
  · exact responds_cond (responds_reply hstart) (responds_cond (responds_reply hstart) (responds_go hstart hb))
  · exact responds_go hstart hb

@[simp] theorem stores_capRestart (s : State) : stores s.capRestart = stores s := (rfl)

@[simp] theorem carveOf_setPart (c : Call) (s : State) (f : Part → Part) : carveOf (Call.setPart c s f) = carveOf s := (rfl)

theorem responds_hello (c major minor s) : ∃ u, execHello c major minor s = .next u ∧ Responds c s u := by
  refine ⟨_, rfl, responds_run fun v => ⟨?_, ?_⟩⟩
  · split <;> simp
  · split <;> simp

theorem responds_sysQuery (c s) : ∃ u, execSysQuery c s = .next u ∧ Responds c s u := by
  refine ⟨_, rfl, responds_run fun v => ⟨?_, ?_⟩⟩
  · simp
  · simp

theorem responds_sysPartition (c masks s) : ∃ u, execSysPartition c masks s = .next u ∧ Responds c s u := by
  refine ⟨_, rfl, responds_run fun v => ⟨?_, ?_⟩⟩
  · (repeat' split) <;> simp
  · (repeat' split) <;> simp

theorem responds_sysCarveout (c gib s) : ∃ u, execSysCarveout c gib s = .next u ∧ Responds c s u := by
  refine ⟨_, rfl, responds_run fun v => ⟨?_, ?_⟩⟩
  · split <;> simp
  · split <;> simp [carveOf_modCap]

theorem responds_sysNet (c mac ipv4 ipv6 s) : ∃ u, execSysNet c mac ipv4 ipv6 s = .next u ∧ Responds c s u := by
  refine ⟨_, rfl, responds_run fun v => ⟨?_, ?_⟩⟩
  · simp
  · simp [carveOf_modCap]

theorem responds_memMap (c a s) : ∃ u, execMemMap c a s = .next u ∧ Responds c s u := by
  refine ⟨_, rfl, responds_run fun v => ⟨?_, ?_⟩⟩
  · dsimp only
    (repeat' split) <;> simp
  · dsimp only
    (repeat' split) <;> simp

theorem responds_memUnmap (c allocId s) : ∃ u, execMemUnmap c allocId s = .next u ∧ Responds c s u := by
  refine ⟨_, rfl, responds_run fun v => ⟨?_, ?_⟩⟩
  · dsimp only
    (repeat' split) <;> simp
  · dsimp only
    (repeat' split) <;> simp

theorem responds_memHold (c s) : ∃ u, execMemHold c s = .next u ∧ Responds c s u := by
  refine ⟨_, rfl, responds_run fun v => ⟨?_, ?_⟩⟩
  · simp
  · simp

theorem responds_memRelease (c s) : ∃ u, execMemRelease c s = .next u ∧ Responds c s u := by
  refine ⟨_, rfl, responds_run fun v => ⟨?_, ?_⟩⟩
  · simp
  · simp

theorem responds_memScrub (c hours s) : ∃ u, execMemScrub c hours s = .next u ∧ Responds c s u := by
  refine ⟨_, rfl, responds_run fun v => ⟨?_, ?_⟩⟩
  · split <;> simp
  · split <;> simp [carveOf_modCap]

theorem responds_progLaunch (c beatBase s) : ∃ u, execProgLaunch c beatBase s = .next u ∧ Responds c s u := by
  refine ⟨_, rfl, responds_run fun v => ⟨?_, ?_⟩⟩
  · dsimp only
    (repeat' split) <;> simp
  · dsimp only
    (repeat' split) <;> simp

theorem responds_progAbort (c s) : ∃ u, execProgAbort c s = .next u ∧ Responds c s u := by
  refine ⟨_, rfl, responds_run fun v => ⟨?_, ?_⟩⟩
  · simp
  · simp

theorem responds_progUnbind (c s) : ∃ u, execProgUnbind c s = .next u ∧ Responds c s u := by
  refine ⟨_, rfl, responds_run fun v => ⟨?_, ?_⟩⟩
  · dsimp only
    (repeat' split) <;> simp
  · dsimp only
    (repeat' split) <;> simp

theorem responds_progKey (c slot key s) : ∃ u, execProgKey c slot key s = .next u ∧ Responds c s u := by
  refine ⟨_, rfl, responds_run fun v => ⟨?_, ?_⟩⟩
  · split <;> simp
  · split <;> simp [carveOf_modCap]

theorem responds_fabJoin (c j s) : ∃ u, execFabJoin c j s = .next u ∧ Responds c s u := by
  refine ⟨_, rfl, responds_run fun v => ⟨?_, ?_⟩⟩
  · dsimp only
    (repeat' split) <;> simp
  · dsimp only
    (repeat' split) <;> simp

theorem responds_fabLeave (c s) : ∃ u, execFabLeave c s = .next u ∧ Responds c s u := by
  refine ⟨_, rfl, responds_run fun v => ⟨?_, ?_⟩⟩
  · dsimp only
    (repeat' split) <;> simp
  · dsimp only
    (repeat' split) <;> simp

theorem responds_fabGroup (c g s) : ∃ u, execFabGroup c g s = .next u ∧ Responds c s u := by
  refine ⟨_, rfl, responds_run fun v => ⟨?_, ?_⟩⟩
  · (repeat' split) <;> simp
  · (repeat' split) <;> simp

theorem responds_fabWindow (c w node s) : ∃ u, execFabWindow c w node s = .next u ∧ Responds c s u := by
  refine ⟨_, rfl, responds_run fun v => ⟨?_, ?_⟩⟩
  · (repeat' split) <;> simp
  · (repeat' split) <;> simp

theorem responds_fabParam (c throttleNs s) : ∃ u, execFabParam c throttleNs s = .next u ∧ Responds c s u := by
  refine ⟨_, rfl, responds_run fun v => ⟨?_, ?_⟩⟩
  · split <;> simp
  · split <;> simp

theorem responds_fabQuery (c s) : ∃ u, execFabQuery c s = .next u ∧ Responds c s u := by
  refine ⟨_, rfl, responds_run fun v => ⟨?_, ?_⟩⟩
  · simp
  · simp

theorem responds_fabRoute (c first entries s) : ∃ u, execFabRoute c first entries s = .next u ∧ Responds c s u := by
  refine ⟨_, rfl, responds_run fun v => ⟨?_, ?_⟩⟩
  · (repeat' split) <;> simp
  · (repeat' split) <;> simp

theorem responds_fabGateway (c n at_ s) : ∃ u, execFabGateway c n at_ s = .next u ∧ Responds c s u := by
  refine ⟨_, rfl, responds_run fun v => ⟨?_, ?_⟩⟩
  · (repeat' split) <;> simp
  · (repeat' split) <;> simp

theorem responds_fabPort (c port op s) : ∃ u, execFabPort c port op s = .next u ∧ Responds c s u := by
  refine ⟨_, rfl, responds_run fun v => ⟨?_, ?_⟩⟩
  · (repeat' split) <;> simp
  · (repeat' split) <;> simp

theorem responds_pwrCeiling (c watts s) : ∃ u, execPwrCeiling c watts s = .next u ∧ Responds c s u := by
  refine ⟨_, rfl, responds_run fun v => ⟨?_, ?_⟩⟩
  · split <;> simp
  · split <;> simp

theorem responds_pwrPriority (c p prio s) : ∃ u, execPwrPriority c p prio s = .next u ∧ Responds c s u := by
  refine ⟨_, rfl, responds_run fun v => ⟨?_, ?_⟩⟩
  · split <;> simp
  · split <;> simp

theorem responds_pwrRequest (c req gmax s) : ∃ u, execPwrRequest c req gmax s = .next u ∧ Responds c s u := by
  refine ⟨_, rfl, responds_run fun v => ⟨?_, ?_⟩⟩
  · split <;> simp
  · split <;> simp

theorem responds_pwrTetherKey (c slot key s) : ∃ u, execPwrTetherKey c slot key s = .next u ∧ Responds c s u := by
  refine ⟨_, rfl, responds_run fun v => ⟨?_, ?_⟩⟩
  · split <;> simp
  · split <;> simp [carveOf_modCap]

theorem responds_pwrDerate (c metres s) : ∃ u, execPwrDerate c metres s = .next u ∧ Responds c s u := by
  refine ⟨_, rfl, responds_run fun v => ⟨?_, ?_⟩⟩
  · split <;> simp
  · split <;> simp

theorem responds_pwrCartPolicy (c root grace rootHash s) :
    ∃ u, execPwrCartPolicy c root grace rootHash s = .next u ∧ Responds c s u := by
  refine ⟨_, rfl, responds_run fun v => ⟨?_, ?_⟩⟩
  · split <;> simp
  · split <;> simp

theorem responds_pwrTune (c x s) : ∃ u, execPwrTune c x s = .next u ∧ Responds c s u := by
  refine ⟨_, rfl, responds_run fun v => ⟨?_, ?_⟩⟩
  · split <;> simp
  · split <;> simp

theorem responds_pwrMeter (c fromSeq count s) : ∃ u, execPwrMeter c fromSeq count s = .next u ∧ Responds c s u := by
  refine ⟨_, rfl, responds_run fun v => ⟨?_, ?_⟩⟩
  · simp
  · simp

theorem responds_tetherCeiling (c watts at_ rampEn s) : ∃ u, execTetherCeiling c watts at_ rampEn s = .next u ∧ Responds c s u := by
  refine ⟨_, rfl, responds_run fun v => ⟨?_, ?_⟩⟩
  · split <;> simp
  · split <;> simp

theorem responds_tetherSchedule (c start watts s) : ∃ u, execTetherSchedule c start watts s = .next u ∧ Responds c s u := by
  refine ⟨_, rfl, responds_run fun v => ⟨?_, ?_⟩⟩
  · split <;> simp
  · split <;> simp

theorem responds_tetherClear (c s) : ∃ u, execTetherClear c s = .next u ∧ Responds c s u := by
  refine ⟨_, rfl, responds_run fun v => ⟨?_, ?_⟩⟩
  · simp
  · simp

theorem responds_tetherStatus (c s) : ∃ u, execTetherStatus c s = .next u ∧ Responds c s u := by
  refine ⟨_, rfl, responds_run fun v => ⟨?_, ?_⟩⟩
  · simp
  · simp

theorem responds_meterFetch (c fromSeq count s) : ∃ u, execMeterFetch c fromSeq count s = .next u ∧ Responds c s u := by
  refine ⟨_, rfl, responds_run fun v => ⟨?_, ?_⟩⟩
  · simp
  · simp

theorem responds_timeSource (c src domain master s) : ∃ u, execTimeSource c src domain master s = .next u ∧ Responds c s u := by
  refine ⟨_, rfl, responds_run fun v => ⟨?_, ?_⟩⟩
  · split <;> simp
  · split <;> simp

theorem responds_timeSet (c x utcOfs s) : ∃ u, execTimeSet c x utcOfs s = .next u ∧ Responds c s u := by
  refine ⟨_, rfl, responds_run fun v => ⟨?_, ?_⟩⟩
  · dsimp only
    (repeat' split) <;> simp
  · dsimp only
    (repeat' split) <;> simp

theorem responds_timeShift (c shift s) : ∃ u, execTimeShift c shift s = .next u ∧ Responds c s u := by
  refine ⟨_, rfl, responds_run fun v => ⟨?_, ?_⟩⟩
  · (repeat' split) <;> simp
  · (repeat' split) <;> simp

theorem responds_timeStatus (c s) : ∃ u, execTimeStatus c s = .next u ∧ Responds c s u := by
  refine ⟨_, rfl, responds_run fun v => ⟨?_, ?_⟩⟩
  · simp
  · simp

theorem responds_secOwnerClaim (c key s) : ∃ u, execSecOwnerClaim c key s = .next u ∧ Responds c s u := by
  refine ⟨_, rfl, responds_run fun v => ⟨?_, ?_⟩⟩
  · simp
  · simp [carveOf_modCap]

theorem responds_secOwnerRelease (c s) : ∃ u, execSecOwnerRelease c s = .next u ∧ Responds c s u := by
  refine ⟨_, rfl, responds_run fun v => ⟨?_, ?_⟩⟩
  · simp
  · simp [carveOf_modCap]

theorem responds_secAttest (c nonce s) : ∃ u, execSecAttest c nonce s = .next u ∧ Responds c s u := by
  refine ⟨_, rfl, responds_run fun v => ⟨?_, ?_⟩⟩
  · split <;> simp
  · split <;> simp

theorem responds_secCerts (c piece s) : ∃ u, execSecCerts c piece s = .next u ∧ Responds c s u := by
  refine ⟨_, rfl, responds_run fun v => ⟨?_, ?_⟩⟩
  · simp
  · simp

theorem responds_secRevoke (c lms slot s) : ∃ u, execSecRevoke c lms slot s = .next u ∧ Responds c s u := by
  refine ⟨_, rfl, responds_run fun v => ⟨?_, ?_⟩⟩
  · dsimp only
    (repeat' split) <;> simp
  · dsimp only
    (repeat' split) <;> simp

theorem responds_secDebugDisable (c s) : ∃ u, execSecDebugDisable c s = .next u ∧ Responds c s u := by
  refine ⟨_, rfl, responds_run fun v => ⟨?_, ?_⟩⟩
  · split <;> simp
  · split <;> simp

theorem responds_secDebugOpen (c s) : ∃ u, execSecDebugOpen c s = .next u ∧ Responds c s u := by
  refine ⟨_, rfl, responds_run fun v => ⟨?_, ?_⟩⟩
  · split <;> simp
  · split <;> simp [carveOf_modCap]

theorem responds_secFabricLock (c lock node s) : ∃ u, execSecFabricLock c lock node s = .next u ∧ Responds c s u := by
  refine ⟨_, rfl, responds_run fun v => ⟨?_, ?_⟩⟩
  · dsimp only
    (repeat' split) <;> simp
  · dsimp only
    (repeat' split) <;> simp

theorem responds_secFwActivate (c s) : ∃ u, execSecFwActivate c s = .next u ∧ Responds c s u := by
  refine ⟨_, rfl, responds_run fun v => ⟨?_, ?_⟩⟩
  · dsimp only
    (repeat' split) <;> simp
  · dsimp only
    (repeat' split) <;> simp [carveOf_modCap]

theorem responds_secFwCommit (c s) : ∃ u, execSecFwCommit c s = .next u ∧ Responds c s u := by
  refine ⟨_, rfl, responds_run fun v => ⟨?_, ?_⟩⟩
  · simp
  · simp [carveOf_modCap]

theorem responds_cntFaults (c max s) : ∃ u, execCntFaults c max s = .next u ∧ Responds c s u := by
  refine ⟨_, rfl, responds_run fun v => ⟨?_, ?_⟩⟩
  · dsimp only
    (repeat' split) <;> simp
  · dsimp only
    (repeat' split) <;> simp

theorem responds_cntStrataConfig (c d m cfg alarm s) : ∃ u, execCntStrataConfig c d m cfg alarm s = .next u ∧ Responds c s u := by
  refine ⟨_, rfl, responds_run fun v => ⟨?_, ?_⟩⟩
  · (repeat' split) <;> simp
  · (repeat' split) <;> simp

theorem responds_cntStrataRead (c d ms s) : ∃ u, execCntStrataRead c d ms s = .next u ∧ Responds c s u := by
  refine ⟨_, rfl, responds_run fun v => ⟨?_, ?_⟩⟩
  · (repeat' split) <;> simp
  · (repeat' split) <;> simp

theorem responds_cntStrataClear (c d m s) : ∃ u, execCntStrataClear c d m s = .next u ∧ Responds c s u := by
  refine ⟨_, rfl, responds_run fun v => ⟨?_, ?_⟩⟩
  · split <;> simp
  · split <;> simp

theorem responds_cntStrataAck (c d m s) : ∃ u, execCntStrataAck c d m s = .next u ∧ Responds c s u := by
  refine ⟨_, rfl, responds_run fun v => ⟨?_, ?_⟩⟩
  · split <;> simp
  · split <;> simp

theorem responds_cntStrataEnergy (c d s) : ∃ u, execCntStrataEnergy c d s = .next u ∧ Responds c s u := by
  refine ⟨_, rfl, responds_run fun v => ⟨?_, ?_⟩⟩
  · dsimp only
    (repeat' split) <;> simp
  · dsimp only
    (repeat' split) <;> simp

theorem responds_cntDumpTrigger (c s) : ∃ u, execCntDumpTrigger c s = .next u ∧ Responds c s u := by
  refine ⟨_, rfl, responds_run fun v => ⟨?_, ?_⟩⟩
  · simp
  · simp

theorem responds_cntDumpMap (c s) : ∃ u, execCntDumpMap c s = .next u ∧ Responds c s u := by
  refine ⟨_, rfl, responds_run fun v => ⟨?_, ?_⟩⟩
  · dsimp only
    (repeat' split) <;> simp
  · dsimp only
    (repeat' split) <;> simp

theorem responds_cntDumpKeep (c keep s) : ∃ u, execCntDumpKeep c keep s = .next u ∧ Responds c s u := by
  refine ⟨_, rfl, responds_run fun v => ⟨?_, ?_⟩⟩
  · simp
  · simp

theorem responds_cntDumpFabTrig (c s) : ∃ u, execCntDumpFabTrig c s = .next u ∧ Responds c s u := by
  refine ⟨_, rfl, responds_run fun v => ⟨?_, ?_⟩⟩
  · simp
  · simp

theorem responds_cntDumpStatus (c s) : ∃ u, execCntDumpStatus c s = .next u ∧ Responds c s u := by
  refine ⟨_, rfl, responds_run fun v => ⟨?_, ?_⟩⟩
  · simp
  · simp

theorem responds_rstBlock (c b idx timeoutUs s) : ∃ u, execRstBlock c b idx timeoutUs s = .next u ∧ Responds c s u := by
  refine ⟨_, rfl, responds_run fun v => ⟨?_, ?_⟩⟩
  · (repeat' split) <;> simp
  · (repeat' split) <;> simp

theorem responds_rstCapstan (c s) : ∃ u, execRstCapstan c s = .next u ∧ Responds c s u := by
  refine ⟨_, rfl, responds_run fun v => ⟨?_, ?_⟩⟩
  · simp
  · simp

end Sys2Proof.Proofs.Stores
end

section
/-! PROOFS. The commands other than messages: those that store nothing, and the canonical form after the others. -/
namespace Sys2Proof.Proofs.Stores

open Sys2Proof Sys2Proof.Machine Sys2Proof.Laws Sys2Proof.Safety

theorem next_inj {v u : State} (h : (.next v : Out) = .next u) : v = u := by
  injection h

@[simp] theorem canon_paced {s : State} {k : Task} {i period : Nat} {f : State → State} (hs : Canon (stores s))
    (hf : ∀ v, Canon (stores v) → Canon (stores (f v))) : Canon (stores (s.paced k i period f)) :=
  canon_cond (hf _ (by simpa using hs)) hs

theorem stores_cond {c : Prop} [Decidable c] {s a b : State} (ha : stores a = stores s) (hb : stores b = stores s) :
    stores (if c then a else b) = stores s := by
  split <;> assumption

/-- What an instruction's attempt leaves in the stores, should it be issued. -/
def IssueKeeps (s : State) : Issue → Prop
  | .done v => stores v = stores s
  | .jump _ v => stores v = stores s
  | .hold => True
  | .breach _ _ => True

theorem canon_issuePump {s : State} {t : Nat} {sram por : Bool} {act : Nat → Slot → Info → Issue} (hs : Canon (stores s))
    (h : ∀ k sl i, IssueKeeps s (act k sl i)) : Canon (stores ((s.issue t sram por act).pump t)) := by
  refine canon_pump ?_
  rw [stores_issue fun k sl i v hv => ?_]
  · exact hs
  · have hk := h k sl i
    rcases hv with hv | ⟨ip, hv⟩ <;> rw [hv] at hk <;> exact hk

theorem canon_execNop {t s u} (hs : Canon (stores s)) (h : execNop t s = .next u) : Canon (stores u) := by
  obtain ⟨-, rfl⟩ := onInst_next.mp h
  exact canon_issuePump hs fun _ _ _ => rfl

theorem canon_execEndStrand {t s u} (hs : Canon (stores s)) (h : execEndStrand t s = .next u) : Canon (stores u) := by
  obtain ⟨-, rfl⟩ := onInst_next.mp h
  refine canon_issuePump hs fun _ _ _ => ?_
  simp [IssueKeeps]

theorem canon_execWait {t tok n s u} (hs : Canon (stores s)) (h : execWait t tok n s = .next u) : Canon (stores u) := by
  obtain ⟨-, rfl⟩ := onInst_next.mp h
  refine canon_issuePump hs fun _ _ _ => ?_
  dsimp only; (repeat' split) <;> simp [IssueKeeps]

theorem canon_execSignal {t tok after tile cnt s u} (hs :
    Canon (stores s)) (h : execSignal t tok after tile cnt s = .next u) : Canon (stores u) := by
  obtain ⟨-, rfl⟩ := onInst_next.mp h
  refine canon_issuePump hs fun _ _ _ => ?_
  dsimp only; (repeat' split) <;> simp [IssueKeeps]

theorem canon_execSignalArrival {k s u} (hs : Canon (stores s)) (h : execSignalArrival k s = .next u) : Canon (stores u) := by
  cases h
  split <;> simp [hs]

theorem canon_execLoop {t a b s u} (hs : Canon (stores s)) (h : execLoop t a b s = .next u) : Canon (stores u) := by
  obtain ⟨-, rfl⟩ := onInst_next.mp h
  refine canon_issuePump hs fun _ _ _ => ?_
  dsimp only; (repeat' split) <;> simp [IssueKeeps]

theorem canon_execSli {t xd imm s u} (hs : Canon (stores s)) (h : execSli t xd imm s = .next u) : Canon (stores u) := by
  obtain ⟨-, rfl⟩ := onInst_next.mp h
  simp [hs]

theorem canon_execSadd {t xd xa imm s u} (hs : Canon (stores s)) (h : execSadd t xd xa imm s = .next u) : Canon (stores u) := by
  obtain ⟨-, rfl⟩ := onInst_next.mp h
  simp [hs]

theorem canon_execFence {t a s u} (hs : Canon (stores s)) (h : execFence t a s = .next u) : Canon (stores u) := by
  obtain ⟨-, rfl⟩ := onInst_next.mp h
  refine canon_issuePump hs fun _ _ _ => ?_
  dsimp only; (repeat' split) <;> simp [IssueKeeps]

theorem canon_execSstat {t xd sel s u} (hs : Canon (stores s)) (h : execSstat t xd sel s = .next u) : Canon (stores u) := by
  obtain ⟨-, rfl⟩ := onInst_next.mp h
  simp [hs]

theorem canon_execOrel {t scope s u} (hs : Canon (stores s)) (h : execOrel t scope s = .next u) : Canon (stores u) := by
  obtain ⟨-, rfl⟩ := onInst_next.mp h
  simp [hs]

theorem canon_execOacq {t scope s u} (hs : Canon (stores s)) (h : execOacq t scope s = .next u) : Canon (stores u) := by
  obtain ⟨-, rfl⟩ := onInst_next.mp h
  simp [hs]

theorem canon_execOfull {t scope s u} (hs : Canon (stores s)) (h : execOfull t scope s = .next u) : Canon (stores u) := by
  obtain ⟨-, rfl⟩ := onInst_next.mp h
  simp [hs]

theorem canon_execMma {t a s u} (hs : Canon (stores s)) (h : execMma t a s = .next u) : Canon (stores u) := by
  obtain ⟨-, rfl⟩ := onInst_next.mp h
  refine canon_issuePump hs fun _ _ _ => ?_
  dsimp only; (repeat' split) <;> simp [IssueKeeps]

theorem canon_execMscl {t a b s u} (hs : Canon (stores s)) (h : execMscl t a b s = .next u) : Canon (stores u) := by
  obtain ⟨-, rfl⟩ := onInst_next.mp h
  refine canon_issuePump hs fun _ _ _ => ?_
  dsimp only; (repeat' split) <;> simp [IssueKeeps]

theorem canon_execScaleSetLoad {t s u} (hs : Canon (stores s)) (h : execScaleSetLoad t s = .next u) : Canon (stores u) := by
  obtain ⟨-, rfl⟩ := onInst_next.mp h
  split <;> simp [hs]

theorem canon_execMflag {t a b s u} (hs : Canon (stores s)) (h : execMflag t a b s = .next u) : Canon (stores u) := by
  obtain ⟨-, rfl⟩ := onInst_next.mp h
  refine canon_issuePump hs fun _ _ _ => ?_
  dsimp only; (repeat' split) <;> simp [IssueKeeps]

theorem canon_execFeederDeliver {t isB idx upset s u} (hs :
    Canon (stores s)) (h : execFeederDeliver t isB idx upset s = .next u) : Canon (stores u) := by
  obtain ⟨-, rfl⟩ := onInst_next.mp h
  simp [hs]

theorem canon_execDpuAccumulate {t n j upset s u} (hs :
    Canon (stores s)) (h : execDpuAccumulate t n j upset s = .next u) : Canon (stores u) := by
  obtain ⟨-, rfl⟩ := onInst_next.mp h
  simp [hs]

theorem canon_execColumnDrain {t j s u} (hs : Canon (stores s)) (h : execColumnDrain t j s = .next u) : Canon (stores u) := by
  obtain ⟨-, rfl⟩ := onInst_next.mp h
  simp [hs]

theorem canon_execQueueHandoff {t s u} (hs : Canon (stores s)) (h : execQueueHandoff t s = .next u) : Canon (stores u) := by
  obtain ⟨-, rfl⟩ := onInst_next.mp h
  dsimp only
  (repeat' split) <;> simp [hs]

theorem canon_execSplicePanelWrite {t s u} (hs : Canon (stores s)) (h : execSplicePanelWrite t s = .next u) : Canon (stores u) := by
  obtain ⟨-, rfl⟩ := onInst_next.mp h
  dsimp only
  (repeat' split) <;> simp [hs]

theorem canon_execVld {t f upset s u} (hs : Canon (stores s)) (h : execVld t f upset s = .next u) : Canon (stores u) := by
  obtain ⟨-, rfl⟩ := onInst_next.mp h
  simp [hs]

theorem canon_execVst {t f s u} (hs : Canon (stores s)) (h : execVst t f s = .next u) : Canon (stores u) := by
  obtain ⟨-, rfl⟩ := onInst_next.mp h
  simp [hs]

theorem canon_execVpop {t f s u} (hs : Canon (stores s)) (h : execVpop t f s = .next u) : Canon (stores u) := by
  obtain ⟨-, rfl⟩ := onInst_next.mp h
  simp [hs]

theorem canon_execQueueEntryFree {t s u} (hs : Canon (stores s)) (h : execQueueEntryFree t s = .next u) : Canon (stores u) := by
  obtain ⟨-, rfl⟩ := onInst_next.mp h
  simp [hs]

theorem canon_execValu {t f s u} (hs : Canon (stores s)) (h : execValu t f s = .next u) : Canon (stores u) := by
  obtain ⟨-, rfl⟩ := onInst_next.mp h
  simp [hs]

theorem canon_execVfnOp {t f s u} (hs : Canon (stores s)) (h : execVfnOp t f s = .next u) : Canon (stores u) := by
  obtain ⟨-, rfl⟩ := onInst_next.mp h
  simp [hs]

theorem canon_execVred {t f s u} (hs : Canon (stores s)) (h : execVred t f s = .next u) : Canon (stores u) := by
  obtain ⟨-, rfl⟩ := onInst_next.mp h
  simp [hs]

theorem canon_execVsmx {t f s u} (hs : Canon (stores s)) (h : execVsmx t f s = .next u) : Canon (stores u) := by
  obtain ⟨-, rfl⟩ := onInst_next.mp h
  simp [hs]

theorem canon_execVperm {t f s u} (hs : Canon (stores s)) (h : execVperm t f s = .next u) : Canon (stores u) := by
  obtain ⟨-, rfl⟩ := onInst_next.mp h
  simp [hs]

theorem canon_execVshuf {t f s u} (hs : Canon (stores s)) (h : execVshuf t f s = .next u) : Canon (stores u) := by
  obtain ⟨-, rfl⟩ := onInst_next.mp h
  simp [hs]

theorem canon_execVpack {t f s u} (hs : Canon (stores s)) (h : execVpack t f s = .next u) : Canon (stores u) := by
  obtain ⟨-, rfl⟩ := onInst_next.mp h
  simp [hs]

theorem canon_execVunpk {t f s u} (hs : Canon (stores s)) (h : execVunpk t f s = .next u) : Canon (stores u) := by
  obtain ⟨-, rfl⟩ := onInst_next.mp h
  simp [hs]

theorem canon_execVqk4 {t f s u} (hs : Canon (stores s)) (h : execVqk4 t f s = .next u) : Canon (stores u) := by
  obtain ⟨-, rfl⟩ := onInst_next.mp h
  simp [hs]

theorem canon_execVmxiImport {t f el s u} (hs : Canon (stores s)) (h : execVmxiImport t f el s = .next u) : Canon (stores u) := by
  obtain ⟨-, rfl⟩ := onInst_next.mp h
  simp [hs]

theorem canon_execVmxiScan {t f s u} (hs : Canon (stores s)) (h : execVmxiScan t f s = .next u) : Canon (stores u) := by
  obtain ⟨-, rfl⟩ := onInst_next.mp h
  simp [hs]

theorem canon_execVrng {t f s u} (hs : Canon (stores s)) (h : execVrng t f s = .next u) : Canon (stores u) := by
  obtain ⟨-, rfl⟩ := onInst_next.mp h
  simp [hs]

theorem canon_execVmask {t f s u} (hs : Canon (stores s)) (h : execVmask t f s = .next u) : Canon (stores u) := by
  obtain ⟨-, rfl⟩ := onInst_next.mp h
  simp [hs]

theorem canon_execVlossAdd {t f s u} (hs : Canon (stores s)) (h : execVlossAdd t f s = .next u) : Canon (stores u) := by
  obtain ⟨-, rfl⟩ := onInst_next.mp h
  simp [hs]

theorem canon_execVlossDump {t f s u} (hs : Canon (stores s)) (h : execVlossDump t f s = .next u) : Canon (stores u) := by
  obtain ⟨-, rfl⟩ := onInst_next.mp h
  simp [hs]

theorem canon_execVtree {t f s u} (hs : Canon (stores s)) (h : execVtree t f s = .next u) : Canon (stores u) := by
  obtain ⟨-, rfl⟩ := onInst_next.mp h
  simp [hs]

theorem canon_execVscmp {t f s u} (hs : Canon (stores s)) (h : execVscmp t f s = .next u) : Canon (stores u) := by
  obtain ⟨-, rfl⟩ := onInst_next.mp h
  simp [hs]

theorem canon_execVamax {t f s u} (hs : Canon (stores s)) (h : execVamax t f s = .next u) : Canon (stores u) := by
  obtain ⟨-, rfl⟩ := onInst_next.mp h
  simp [hs]

theorem canon_execVflag {t f s u} (hs : Canon (stores s)) (h : execVflag t f s = .next u) : Canon (stores u) := by
  obtain ⟨-, rfl⟩ := onInst_next.mp h
  simp [hs]

theorem canon_execVsetStep {t f s u} (hs : Canon (stores s)) (h : execVsetStep t f s = .next u) : Canon (stores u) := by
  obtain ⟨-, rfl⟩ := onInst_next.mp h
  simp [hs]

theorem canon_execVsetVetoMask {t f s u} (hs : Canon (stores s)) (h : execVsetVetoMask t f s = .next u) : Canon (stores u) := by
  obtain ⟨-, rfl⟩ := onInst_next.mp h
  simp [hs]

theorem canon_execVsetSeqtab {t f s u} (hs : Canon (stores s)) (h : execVsetSeqtab t f s = .next u) : Canon (stores u) := by
  obtain ⟨-, rfl⟩ := onInst_next.mp h
  simp [hs]

theorem canon_execVxeResultWrite {t k s u} (hs : Canon (stores s)) (h : execVxeResultWrite t k s = .next u) : Canon (stores u) := by
  obtain ⟨-, rfl⟩ := onInst_next.mp h
  split <;> simp [hs]

theorem canon_execPrd {t f s u} (hs : Canon (stores s)) (h : execPrd t f s = .next u) : Canon (stores u) := by
  obtain ⟨-, rfl⟩ := onInst_next.mp h
  simp [hs]

theorem canon_execPwr {t f s u} (hs : Canon (stores s)) (h : execPwr t f s = .next u) : Canon (stores u) := by
  obtain ⟨-, rfl⟩ := onInst_next.mp h
  simp [hs]

theorem canon_execPland {t f s u} (hs : Canon (stores s)) (h : execPland t f s = .next u) : Canon (stores u) := by
  obtain ⟨-, rfl⟩ := onInst_next.mp h
  simp [hs]

theorem canon_execPgath {t f s u} (hs : Canon (stores s)) (h : execPgath t f s = .next u) : Canon (stores u) := by
  obtain ⟨-, rfl⟩ := onInst_next.mp h
  simp [hs]

theorem canon_execPscat {t f s u} (hs : Canon (stores s)) (h : execPscat t f s = .next u) : Canon (stores u) := by
  obtain ⟨-, rfl⟩ := onInst_next.mp h
  simp [hs]

theorem canon_execPamo {t f s u} (hs : Canon (stores s)) (h : execPamo t f s = .next u) : Canon (stores u) := by
  obtain ⟨-, rfl⟩ := onInst_next.mp h
  simp [hs]

theorem canon_execPorterRequestComplete {t op req crc s u} (hs :
    Canon (stores s)) (h : execPorterRequestComplete t op req crc s = .next u) : Canon (stores u) := by
  obtain ⟨-, rfl⟩ := onInst_next.mp h
  simp [hs]

theorem canon_execReefPut {t f s u} (hs : Canon (stores s)) (h : execReefPut t f s = .next u) : Canon (stores u) := by
  obtain ⟨-, rfl⟩ := onInst_next.mp h
  simp [hs]

theorem canon_execReefClose {t group sigTok sig s u} (hs :
    Canon (stores s)) (h : execReefClose t group sigTok sig s = .next u) : Canon (stores u) := by
  obtain ⟨-, rfl⟩ := onInst_next.mp h
  simp [hs]

theorem stores_execStrandLaunch {t s u} (h : execStrandLaunch t s = .next u) : stores u = stores s := by
  obtain ⟨-, rfl⟩ := onInst_next.mp h
  dsimp only
  (repeat' split) <;> simp

theorem canon_execStrandComplete {t slot s u} (hs :
    Canon (stores s)) (h : execStrandComplete t slot s = .next u) : Canon (stores u) := by
  obtain ⟨-, rfl⟩ := onInst_next.mp h
  dsimp only
  (repeat' split) <;> simp [hs]

theorem stores_execReexecution {t slot s u} (h : execReexecution t slot s = .next u) : stores u = stores s := by
  obtain ⟨-, rfl⟩ := onInst_next.mp h
  dsimp only
  (repeat' split) <;> simp

theorem stores_execStrandWatchdog {t slot s u} (h : execStrandWatchdog t slot s = .next u) : stores u = stores s := by
  obtain ⟨-, rfl⟩ := onInst_next.mp h
  dsimp only
  (repeat' split) <;> simp

theorem canon_execControlRegisterWrite {byCapstan off width v s u} (hs :
    Canon (stores s)) (h : execControlRegisterWrite byCapstan off width v s = .next u) : Canon (stores u) := by
  cases h
  simp [hs]

theorem stores_execLnyAdjWrite {byCapstan v s u} (h : execLnyAdjWrite byCapstan v s = .next u) : stores u = stores s := by
  cases h
  simp

theorem stores_execLnySetWrite {byCapstan v s u} (h : execLnySetWrite byCapstan v s = .next u) : stores u = stores s := by
  cases h
  simp

theorem stores_execLnyTrimWrite {byCapstan v s u} (h : execLnyTrimWrite byCapstan v s = .next u) : stores u = stores s := by
  cases h
  simp

theorem stores_execHchCtrlWrite {byCapstan v s u} (h : execHchCtrlWrite byCapstan v s = .next u) : stores u = stores s := by
  cases h
  simp

theorem stores_execMbxHandover {n v s u} (h : execMbxHandover n v s = .next u) : stores u = stores s := by
  cases h
  simp

theorem stores_execErrTailWrite {sc v s u} (h : execErrTailWrite sc v s = .next u) : stores u = stores s := by
  cases h
  simp

theorem stores_execErrStatusRead {sc w s u} (h : execErrStatusRead sc w s = .next u) : stores u = stores s := by
  cases h
  rw [stores_ite, stores_readReserved, stores_answerRead fun v => stores_modPage _ _ _, ite_self]

theorem stores_execErrFaultqRead {sc w s u} (h : execErrFaultqRead sc w s = .next u) : stores u = stores s := by
  cases h
  rw [stores_ite, stores_readReserved, stores_answerRead fun v => stores_modPage _ _ _, ite_self]

theorem stores_execErrScopeCntRead {d w s u} (h : execErrScopeCntRead d w s = .next u) : stores u = stores s := by
  cases h
  rw [stores_ite, stores_readReserved, stores_answerRead fun v => stores_modDie _ _ _, ite_self]

theorem stores_execPwrInrushRead {w s u} (h : execPwrInrushRead w s = .next u) : stores u = stores s := by
  cases h
  exact stores_answerRead fun v => stores_modPower _ _

theorem stores_execStrStatRead {d m w s u} (h : execStrStatRead d m w s = .next u) : stores u = stores s := by
  cases h
  rw [stores_ite, stores_readReserved, stores_answerRead fun v => stores_modMon _ _ _ _, ite_self]

theorem stores_execPwrCeilOwnerWrite {byCapstan v s u}
    (h : execPwrCeilOwnerWrite byCapstan v s = .next u) : stores u = stores s := by
  cases h
  simp

theorem stores_execThmCartPolicyWrite {byCapstan v s u}
    (h : execThmCartPolicyWrite byCapstan v s = .next u) : stores u = stores s := by
  cases h
  simp

theorem stores_execHitchPulse { s u} (h : execHitchPulse s = .next u) : stores u = stores s := by
  cases h
  simp

theorem stores_execHitchCalibration {delays s u} (h : execHitchCalibration delays s = .next u) : stores u = stores s := by
  cases h
  simp

theorem stores_execLnySlewStep { s u} (h : execLnySlewStep s = .next u) : stores u = stores s := by
  cases h
  simp

theorem stores_execTimerFire {n s u} (h : execTimerFire n s = .next u) : stores u = stores s := by
  obtain ⟨-, rfl⟩ := onInst_next.mp h
  simp

theorem stores_execPtpMessage {x s u} (h : execPtpMessage x s = .next u) : stores u = stores s := by
  cases h
  simp

theorem stores_execPpsEdge { s u} (h : execPpsEdge s = .next u) : stores u = stores s := by
  cases h
  simp

theorem stores_execTimeTransferStart { s u} (h : execTimeTransferStart s = .next u) : stores u = stores s := by
  cases h
  (repeat' split) <;> simp

theorem stores_execHoldoverEntry { s u} (h : execHoldoverEntry s = .next u) : stores u = stores s := by
  cases h
  simp

theorem stores_execHoldoverTick { s u} (h : execHoldoverTick s = .next u) : stores u = stores s := by
  cases h
  simp

theorem stores_execHintPulse {beat s u} (h : execHintPulse beat s = .next u) : stores u = stores s := by
  cases h
  exact stores_cond rfl rfl

theorem stores_execGearRampAction {a s u} (h : execGearRampAction a s = .next u) : stores u = stores s := by
  cases h
  simp

theorem stores_execPowerGoodCheck {l s u} (h : execPowerGoodCheck l s = .next u) : stores u = stores s := by
  obtain ⟨-, rfl⟩ := onInst_next.mp h
  refine stores_onChange fun c => ?_
  split
  · rfl
  · split <;> simp

theorem stores_execHbmRateChange {d s u} (h : execHbmRateChange d s = .next u) : stores u = stores s := by
  obtain ⟨-, rfl⟩ := onInst_next.mp h
  simp

theorem stores_execGearSwitch { s u} (h : execGearSwitch s = .next u) : stores u = stores s := by
  cases h
  simp

theorem stores_execGearChangeComplete { s u} (h : execGearChangeComplete s = .next u) : stores u = stores s := by
  cases h
  simp

theorem stores_execCleatAssert {sources s u} (h : execCleatAssert sources s = .next u) : stores u = stores s := by
  cases h
  simp

theorem stores_execCleatRelease { s u} (h : execCleatRelease s = .next u) : stores u = stores s := by
  cases h
  simp

theorem stores_execCleatHoldExpiry { s u} (h : execCleatHoldExpiry s = .next u) : stores u = stores s := by
  cases h
  split <;> simp

theorem stores_execDroopTrip {r det s u} (h : execDroopTrip r det s = .next u) : stores u = stores s := by
  obtain ⟨-, rfl⟩ := onInst_next.mp h
  simp

theorem stores_execDroopRelease {r s u} (h : execDroopRelease r s = .next u) : stores u = stores s := by
  obtain ⟨-, rfl⟩ := onInst_next.mp h
  simp

theorem canon_execHomeSliceOperation {d slice parity s u} (hs :
    Canon (stores s)) (h : execHomeSliceOperation d slice parity s = .next u) : Canon (stores u) := by
  obtain ⟨-, rfl⟩ := onInst_next.mp h
  simp [hs]

theorem canon_execCacheEvict {d line s u} (hs : Canon (stores s)) (h : execCacheEvict d line s = .next u) : Canon (stores u) := by
  obtain ⟨-, rfl⟩ := onInst_next.mp h
  simp [hs]

theorem canon_execScrubBlock {d block s u} (hs : Canon (stores s)) (h : execScrubBlock d block s = .next u) : Canon (stores u) := by
  obtain ⟨-, rfl⟩ := onInst_next.mp h
  simp [hs]

theorem canon_execHbmTempRead {k temp s u} (hs : Canon (stores s)) (h : execHbmTempRead k temp s = .next u) : Canon (stores u) := by
  obtain ⟨-, rfl⟩ := onInst_next.mp h
  exact canon_cond (canon_paced hs fun v hv => canon_hbmTemp hv) hs

theorem canon_execReleaseBegin {t op s u} (hs : Canon (stores s)) (h : execReleaseBegin t op s = .next u) : Canon (stores u) := by
  obtain ⟨-, rfl⟩ := onInst_next.mp h
  simp [hs]

theorem canon_execFlagLand {d k s u} (hs : Canon (stores s)) (h : execFlagLand d k s = .next u) : Canon (stores u) := by
  obtain ⟨-, rfl⟩ := onInst_next.mp h
  simp [hs]

theorem stores_execFlagBufferGrant {d s u} (h : execFlagBufferGrant d s = .next u) : stores u = stores s := by
  obtain ⟨-, rfl⟩ := onInst_next.mp h
  simp

theorem stores_execDataFlit {port x s u} (h : execDataFlit port x s = .next u) : stores u = stores s := by
  obtain ⟨-, rfl⟩ := onInst_next.mp h
  simp

theorem stores_execIdleFlit {port x s u} (h : execIdleFlit port x s = .next u) : stores u = stores s := by
  obtain ⟨-, rfl⟩ := onInst_next.mp h
  simp

theorem stores_execAckSend {port s u} (h : execAckSend port s = .next u) : stores u = stores s := by
  obtain ⟨-, rfl⟩ := onInst_next.mp h
  simp

theorem stores_execLinkHello {port c h s u} (h : execLinkHello port c h s = .next u) : stores u = stores s := by
  obtain ⟨-, rfl⟩ := onInst_next.mp h
  simp

theorem stores_execTimeReq {port c t1 s u} (h : execTimeReq port c t1 s = .next u) : stores u = stores s := by
  obtain ⟨-, rfl⟩ := onInst_next.mp h
  simp

theorem stores_execTimeRsp {port c t1 t2 t3 s u} (h : execTimeRsp port c t1 t2 t3 s = .next u) : stores u = stores s := by
  obtain ⟨-, rfl⟩ := onInst_next.mp h
  simp

theorem stores_execRetrain {port c lanes reason s u} (h : execRetrain port c lanes reason s = .next u) : stores u = stores s := by
  obtain ⟨-, rfl⟩ := onInst_next.mp h
  simp

theorem stores_execCtrlRepeat {port s u} (h : execCtrlRepeat port s = .next u) : stores u = stores s := by
  obtain ⟨-, rfl⟩ := onInst_next.mp h
  dsimp only
  (repeat' split) <;> simp

theorem stores_execPmdTrainingDone {port lanes s u} (h : execPmdTrainingDone port lanes s = .next u) : stores u = stores s := by
  obtain ⟨-, rfl⟩ := onInst_next.mp h
  simp

theorem stores_execHelloTimeout {port s u} (h : execHelloTimeout port s = .next u) : stores u = stores s := by
  obtain ⟨-, rfl⟩ := onInst_next.mp h
  simp

theorem stores_execPortRestart {port s u} (h : execPortRestart port s = .next u) : stores u = stores s := by
  obtain ⟨-, rfl⟩ := onInst_next.mp h
  simp

theorem stores_execLaneFail {port lane uncorrectable s u}
    (h : execLaneFail port lane uncorrectable s = .next u) : stores u = stores s := by
  obtain ⟨-, rfl⟩ := onInst_next.mp h
  simp

theorem stores_execRetrainDone {port s u} (h : execRetrainDone port s = .next u) : stores u = stores s := by
  obtain ⟨-, rfl⟩ := onInst_next.mp h
  simp

theorem stores_execRetrainTimeout {port s u} (h : execRetrainTimeout port s = .next u) : stores u = stores s := by
  obtain ⟨-, rfl⟩ := onInst_next.mp h
  simp

theorem stores_execPacketForward {k s u} (h : execPacketForward k s = .next u) : stores u = stores s := by
  cases h
  simp

theorem stores_execPacketSend {port s u} (h : execPacketSend port s = .next u) : stores u = stores s := by
  obtain ⟨-, rfl⟩ := onInst_next.mp h
  simp

theorem canon_execReadReq {k s u} (hs : Canon (stores s)) (h : execReadReq k s = .next u) : Canon (stores u) := by
  cases h
  exact canon_onPacket hs fun _ => canon_serve hs

theorem canon_execReadItemReq {k s u} (hs : Canon (stores s)) (h : execReadItemReq k s = .next u) : Canon (stores u) := by
  cases h
  exact canon_onPacket hs fun _ => canon_serve hs

theorem canon_execWriteReq {k s u} (hs : Canon (stores s)) (h : execWriteReq k s = .next u) : Canon (stores u) := by
  cases h
  exact canon_onPacket hs fun _ => canon_serve hs

theorem canon_execWriteItemReq {k s u} (hs : Canon (stores s)) (h : execWriteItemReq k s = .next u) : Canon (stores u) := by
  cases h
  exact canon_onPacket hs fun _ => canon_serve hs

theorem canon_execAtomicReq {k s u} (hs : Canon (stores s)) (h : execAtomicReq k s = .next u) : Canon (stores u) := by
  cases h
  exact canon_onPacket hs fun _ => canon_serve hs

theorem canon_execLandReq {k s u} (hs : Canon (stores s)) (h : execLandReq k s = .next u) : Canon (stores u) := by
  cases h
  exact canon_onPacket hs fun _ => canon_land hs

theorem canon_execReadRsp {k s u} (hs : Canon (stores s)) (h : execReadRsp k s = .next u) : Canon (stores u) := by
  cases h
  exact canon_onPacket hs fun _ => canon_answerIn hs

theorem canon_execItemRsp {k s u} (hs : Canon (stores s)) (h : execItemRsp k s = .next u) : Canon (stores u) := by
  cases h
  exact canon_onPacket hs fun _ => canon_answerIn hs

theorem canon_execWriteAck {k s u} (hs : Canon (stores s)) (h : execWriteAck k s = .next u) : Canon (stores u) := by
  cases h
  exact canon_onPacket hs fun _ => canon_answerIn hs

theorem canon_execAtomicRsp {k s u} (hs : Canon (stores s)) (h : execAtomicRsp k s = .next u) : Canon (stores u) := by
  cases h
  exact canon_onPacket hs fun _ => canon_answerIn hs

theorem canon_execLandAck {k s u} (hs : Canon (stores s)) (h : execLandAck k s = .next u) : Canon (stores u) := by
  cases h
  refine canon_onPacket hs fun x => ?_
  dsimp only
  split
  · simpa using hs
  next q hq =>
    refine canon_cond (by simpa using hs) (canon_lateOr (by simpa using hs) fun v hv => canon_cond (canon_endFab hv) ?_)
    split <;> exact canon_endFab hv

theorem stores_execLandHeld {k s u} (h : execLandHeld k s = .next u) : stores u = stores s := by
  cases h
  refine stores_onPacket fun x => ?_
  dsimp only
  split
  · split <;> simp
  · simp

theorem canon_execLandGo {k s u} (hs : Canon (stores s)) (h : execLandGo k s = .next u) : Canon (stores u) := by
  cases h
  refine canon_onPacket hs fun x => ?_
  dsimp only
  split
  · exact canon_cond (canon_landRemote (by simpa using hs)) hs
  · simpa using hs

theorem stores_execLandCancel {k s u} (h : execLandCancel k s = .next u) : stores u = stores s := by
  cases h
  refine stores_onPacket fun x => ?_
  dsimp only
  split <;> simp

theorem canon_execRefuse {k s u} (hs : Canon (stores s)) (h : execRefuse k s = .next u) : Canon (stores u) := by
  cases h
  refine canon_onPacket hs fun x => ?_
  dsimp only
  split
  · simpa using hs
  · exact canon_lateOr (by simpa using hs) fun v hv => canon_endFab hv

theorem stores_execMgtMsg {k s u} (h : execMgtMsg k s = .next u) : stores u = stores s := by
  cases h
  exact stores_onPacket fun x => stores_mgtIn _ _ _

theorem stores_execMgtRsp {k s u} (h : execMgtRsp k s = .next u) : stores u = stores s := by
  cases h
  exact stores_onPacket fun x => stores_takePkt _ _ _

theorem canon_execFabTimeout {txn s u} (hs : Canon (stores s)) (h : execFabTimeout txn s = .next u) : Canon (stores u) := by
  cases h
  split <;> simp [hs]

theorem stores_execFlagExpiry {d k s u} (h : execFlagExpiry d k s = .next u) : stores u = stores s := by
  obtain ⟨-, rfl⟩ := onInst_next.mp h
  split <;> simp

theorem stores_execFabThrottle {t s u} (h : execFabThrottle t s = .next u) : stores u = stores s := by
  obtain ⟨-, rfl⟩ := onInst_next.mp h
  simp

theorem canon_execContrib {k s u} (hs : Canon (stores s)) (h : execContrib k s = .next u) : Canon (stores u) := by
  rw [← next_inj h]
  exact canon_pumpWaiting (canon_gotContrib hs)

theorem canon_execResend {k s u} (hs : Canon (stores s)) (h : execResend k s = .next u) : Canon (stores u) := by
  rw [← next_inj h]
  exact canon_pumpWaiting (canon_gotResend hs)

theorem canon_execReportSend {d g s u} (hs : Canon (stores s)) (h : execReportSend d g s = .next u) : Canon (stores u) := by
  obtain ⟨-, rfl⟩ := onInst_next.mp h
  split <;> simp [hs]

theorem canon_execReport {k s u} (hs : Canon (stores s)) (h : execReport k s = .next u) : Canon (stores u) := by
  rw [← next_inj h]
  exact canon_pumpWaiting (canon_gotReport hs)

theorem canon_execDecision {k s u} (hs : Canon (stores s)) (h : execDecision k s = .next u) : Canon (stores u) := by
  rw [← next_inj h]
  exact canon_pumpWaiting (canon_gotDecision hs)

theorem canon_execDecisionTimeout {d g s u} (hs :
    Canon (stores s)) (h : execDecisionTimeout d g s = .next u) : Canon (stores u) := by
  obtain ⟨-, rfl⟩ := onInst_next.mp h
  simp [hs]

theorem canon_execF32Up {k s u} (hs : Canon (stores s)) (h : execF32Up k s = .next u) : Canon (stores u) := by
  rw [← next_inj h]
  exact canon_pumpWaiting (canon_gotF32Up hs)

theorem canon_execF32Down {k s u} (hs : Canon (stores s)) (h : execF32Down k s = .next u) : Canon (stores u) := by
  rw [← next_inj h]
  exact canon_pumpWaiting (canon_gotF32Down hs)

theorem canon_execPreDecisionPass {d s u} (hs : Canon (stores s)) (h : execPreDecisionPass d s = .next u) : Canon (stores u) := by
  obtain ⟨-, rfl⟩ := onInst_next.mp h
  simp [hs]

theorem canon_execCommitPass {d s u} (hs : Canon (stores s)) (h : execCommitPass d s = .next u) : Canon (stores u) := by
  obtain ⟨-, rfl⟩ := onInst_next.mp h
  simp [hs]

theorem stores_execFeedSample {va ia vb ib s u} (h : execFeedSample va ia vb ib s = .next u) : stores u = stores s := by
  cases h
  simp

theorem stores_execFeedSag {f s u} (h : execFeedSag f s = .next u) : stores u = stores s := by
  cases h
  simp

theorem stores_execFeedSagEnd {f s u} (h : execFeedSagEnd f s = .next u) : stores u = stores s := by
  cases h
  simp

theorem canon_execFeedOvervoltage {f s u} (hs : Canon (stores s)) (h : execFeedOvervoltage f s = .next u) : Canon (stores u) := by
  cases h
  simp [hs]

theorem canon_execFeedLoss {f s u} (hs : Canon (stores s)) (h : execFeedLoss f s = .next u) : Canon (stores u) := by
  cases h
  simp [hs]

theorem stores_execFeedReadmit {f s u} (h : execFeedReadmit f s = .next u) : stores u = stores s := by
  cases h
  simp

theorem canon_execStandbyLoss { s u} (hs : Canon (stores s)) (h : execStandbyLoss s = .next u) : Canon (stores u) := by
  cases h
  simp [hs]

theorem stores_execPlugLoopClose { s u} (h : execPlugLoopClose s = .next u) : stores u = stores s := by
  cases h
  simp

theorem canon_execPlugLoopOpen { s u} (hs : Canon (stores s)) (h : execPlugLoopOpen s = .next u) : Canon (stores u) := by
  cases h
  simp [hs]

theorem canon_execBrickFail {b s u} (hs : Canon (stores s)) (h : execBrickFail b s = .next u) : Canon (stores u) := by
  obtain ⟨-, rfl⟩ := onInst_next.mp h
  simp [hs]

theorem stores_execPhaseFail {r n s u} (h : execPhaseFail r n s = .next u) : stores u = stores s := by
  obtain ⟨-, rfl⟩ := onInst_next.mp h
  simp

theorem canon_execRailRegulatorFail {rail n s u} (hs :
    Canon (stores s)) (h : execRailRegulatorFail rail n s = .next u) : Canon (stores u) := by
  obtain ⟨-, rfl⟩ := onInst_next.mp h
  split <;> simp [hs]

theorem stores_execInrushGrant {r neighbourPeak s u} (h : execInrushGrant r neighbourPeak s = .next u) : stores u = stores s := by
  obtain ⟨-, rfl⟩ := onInst_next.mp h
  (repeat' split) <;> simp

theorem canon_execGateRampDone {r s u} (hs : Canon (stores s)) (h : execGateRampDone r s = .next u) : Canon (stores u) := by
  obtain ⟨-, rfl⟩ := onInst_next.mp h
  refine canon_cond hs ?_
  rw [stores_rethrottle]
  refine canon_foldl (fun v p hv => canon_finishBind hv) ?_
  simpa using hs

theorem stores_execRaiseCheck {logicPower spreadEst s u}
    (h : execRaiseCheck logicPower spreadEst s = .next u) : stores u = stores s := by
  cases h
  simp

theorem stores_execWearUpdate {seconds s u} (h : execWearUpdate seconds s = .next u) : stores u = stores s := by
  cases h
  simp

theorem stores_execStretchCheck {r permille s u} (h : execStretchCheck r permille s = .next u) : stores u = stores s := by
  obtain ⟨-, rfl⟩ := onInst_next.mp h
  simp

theorem stores_execShareBudget {pBase draws s u} (h : execShareBudget pBase draws s = .next u) : stores u = stores s := by
  cases h
  simp

theorem stores_execBallastAdjust {d s u} (h : execBallastAdjust d s = .next u) : stores u = stores s := by
  cases h
  refine stores_paced fun v => ?_
  split
  · split
    · simp
    · dsimp only
      split <;> simp
  · simp

theorem stores_execTetherCeilingChange { s u} (h : execTetherCeilingChange s = .next u) : stores u = stores s := by
  cases h
  simp

theorem stores_execMeterRecord { s u} (h : execMeterRecord s = .next u) : stores u = stores s := by
  cases h
  simp

theorem stores_execMeterSign { s u} (h : execMeterSign s = .next u) : stores u = stores s := by
  cases h
  simp

theorem canon_execDieSensorRead {d temps s u} (hs :
    Canon (stores s)) (h : execDieSensorRead d temps s = .next u) : Canon (stores u) := by
  obtain ⟨-, rfl⟩ := onInst_next.mp h
  refine canon_cond hs (canon_cond (canon_paced hs fun v hv => canon_dieSensors hv) (canon_cond ?_ hs))
  rwa [stores_noteTemps]

theorem canon_execInletRead {temp s u} (hs : Canon (stores s)) (h : execInletRead temp s = .next u) : Canon (stores u) := by
  cases h
  refine canon_cond hs (canon_paced hs fun v hv => canon_cond (canon_hardTrip ?_) ?_) <;> simpa using hv

theorem stores_execBlowerUpdate {measured rpm s u} (h : execBlowerUpdate measured rpm s = .next u) : stores u = stores s := by
  cases h
  simp

theorem stores_execBlowerFail { s u} (h : execBlowerFail s = .next u) : stores u = stores s := by
  cases h
  simp

theorem stores_execCartChallenge {c s u} (h : execCartChallenge c s = .next u) : stores u = stores s := by
  cases h
  simp

theorem stores_execCartPresenceChange {present s u} (h : execCartPresenceChange present s = .next u) : stores u = stores s := by
  cases h
  simp

theorem stores_execCartLifeTick {meanSpeed s u} (h : execCartLifeTick meanSpeed s = .next u) : stores u = stores s := by
  cases h
  simp

theorem stores_execCartLifeWrite { s u} (h : execCartLifeWrite s = .next u) : stores u = stores s := by
  cases h
  simp

theorem stores_execMgtFrame {fr s u} (h : execMgtFrame fr s = .next u) : stores u = stores s := by
  cases h
  split <;> simp

theorem stores_execSessionExpiry {k s u} (h : execSessionExpiry k s = .next u) : stores u = stores s := by
  obtain ⟨-, rfl⟩ := onInst_next.mp h
  split <;> simp

theorem stores_execCapstanRestart { s u} (h : execCapstanRestart s = .next u) : stores u = stores s := by
  cases h
  split <;> simp

theorem canon_execBlockResetIdle {timedOut s u} (hs :
    Canon (stores s)) (h : execBlockResetIdle timedOut s = .next u) : Canon (stores u) := by
  cases h
  split <;> simp [hs]

theorem canon_execResetNAssert {pulseNs s u} (hs :
    Canon (stores s)) (h : execResetNAssert pulseNs s = .next u) : Canon (stores u) := by
  cases h
  simp [hs]

theorem stores_execResetNRelease {retest s u} (h : execResetNRelease retest s = .next u) : stores u = stores s := by
  cases h
  simp

theorem canon_execLoaderCheck { s u} (hs : Canon (stores s)) (h : execLoaderCheck s = .next u) : Canon (stores u) := by
  cases h
  simp [hs]

theorem stores_execReleaseWaveStage {row d s u} (h : execReleaseWaveStage row d s = .next u) : stores u = stores s := by
  obtain ⟨-, rfl⟩ := onInst_next.mp h
  simp

theorem stores_execReleaseStageTimeout {d s u} (h : execReleaseStageTimeout d s = .next u) : stores u = stores s := by
  obtain ⟨-, rfl⟩ := onInst_next.mp h
  simp

theorem stores_execRefclkStop { s u} (h : execRefclkStop s = .next u) : stores u = stores s := by
  cases h
  simp

theorem stores_execStrataSample {x s u} (h : execStrataSample x s = .next u) : stores u = stores s := by
  obtain ⟨-, rfl⟩ := onInst_next.mp h
  split <;> simp

theorem stores_execStrataPeriodSample {d m s u} (h : execStrataPeriodSample d m s = .next u) : stores u = stores s := by
  obtain ⟨-, rfl⟩ := onInst_next.mp h
  dsimp only
  (repeat' split) <;> simp

theorem stores_execEnergyCalibration {d measured s u} (h : execEnergyCalibration d measured s = .next u) : stores u = stores s := by
  obtain ⟨-, rfl⟩ := onInst_next.mp h
  simp

theorem stores_execGeodeTrigger {p cause tile s u} (h : execGeodeTrigger p cause tile s = .next u) : stores u = stores s := by
  obtain ⟨-, rfl⟩ := onInst_next.mp h
  split <;> simp

theorem stores_execGeodeSettle {p s u} (h : execGeodeSettle p s = .next u) : stores u = stores s := by
  obtain ⟨-, rfl⟩ := onInst_next.mp h
  dsimp only
  (repeat' split) <;> simp

theorem canon_execGeodeWriteEnd {p truncated s u} (hs :
    Canon (stores s)) (h : execGeodeWriteEnd p truncated s = .next u) : Canon (stores u) := by
  obtain ⟨-, rfl⟩ := onInst_next.mp h
  dsimp only
  (repeat' split) <;> simp [hs]

theorem stores_execSmbusBlockRead {a code ok s u} (h : execSmbusBlockRead a code ok s = .next u) : stores u = stores s := by
  cases h
  split
  · simp
  · split
    · next hd => rw [stores_setSmb, stores_smbusData hd]
    · simp

theorem stores_execSmbusAlertResponse { s u} (h : execSmbusAlertResponse s = .next u) : stores u = stores s := by
  cases h
  simp

theorem stores_execRefclkRestart { s u} (h : execRefclkRestart s = .next u) : stores u = stores s := by
  cases h
  simp

theorem stores_execStandbyValid { s u} (h : execStandbyValid s = .next u) : stores u = stores s := by
  cases h
  simp

theorem canon_execTileSramLineRequest {t upset s u} (hs :
    Canon (stores s)) (h : execTileSramLineRequest t upset s = .next u) : Canon (stores u) := by
  obtain ⟨-, rfl⟩ := onInst_next.mp h
  simp [hs]

theorem canon_execFabricWindowAccess {w ofs op s u} (hs :
    Canon (stores s)) (h : execFabricWindowAccess w ofs op s = .next u) : Canon (stores u) := by
  obtain ⟨-, rfl⟩ := onInst_next.mp h
  simp [hs]

theorem stores_execAmberRamRead {ofs w p s u} (h : execAmberRamRead ofs w p s = .next u) : stores u = stores s := by
  cases h
  split
  · simp
  · dsimp only
    rw [stores_answerRead fun v => rfl]
    split <;> simp

end Sys2Proof.Proofs.Stores
end

section
/-! PROOFS. Every command: O1, O58, O59 and O60. -/
namespace Sys2Proof.Proofs.Stores

open Sys2Proof Sys2Proof.Machine Sys2Proof.Laws Sys2Proof.Safety

theorem canon_run {self : Instr} {c : Call} {x : CmdInfo} {body : State → Answer} {s u : State} (hs : Canon (stores s))
    (h : (.next (capstanRun self c x body s) : Out) = .next u) (hb : ∀ v, Canon (stores v) → Canon (stores (body v).s)) :
    Canon (stores u) :=
  next_inj h ▸ canon_capstanRun hs hb

theorem canon_answerCond {p : Prop} [Decidable p] {a b : Answer} (ha : Canon (stores a.s)) (hb : Canon (stores b.s)) :
    Canon (stores (if p then a else b).s) := by
  split <;> assumption

theorem canon_execMemFill {c dst len src s u} (hs :
    Canon (stores s)) (h : execMemFill c dst len src s = .next u) : Canon (stores u) := by
  refine canon_run hs h fun v hv => ?_
  have hf := canon_fillBytes (p := Call.part c) (len := len) (a4 := src) hv
  refine canon_answerCond hv ?_
  split
  · next heq => rw [heq] at hf; exact hf
  next data heq =>
    rw [heq] at hf
    have hw := canon_memWrite (p := Call.part c) (agent := capAgent) (off := dst) (data := data) hf
    generalize State.memWrite _ (Call.part c) capAgent dst data = w at hw ⊢
    refine canon_answerCond hw (canon_answerCond ?_ hw)
    simpa using canon_countOf (s := w.1) (p := Call.part c) hw

theorem canon_execMemChecksum {c base blocks s u} (hs :
    Canon (stores s)) (h : execMemChecksum c base blocks s = .next u) : Canon (stores u) := by
  refine canon_run hs h fun v hv => ?_
  exact canon_answerCond hv (canon_checksums (p := Call.part c) (base := base) (n := blocks) hv)

theorem canon_execProgLoad {c ofs size sign key s u} (hs :
    Canon (stores s)) (h : execProgLoad c ofs size sign key s = .next u) : Canon (stores u) := by
  refine canon_run hs h fun v hv => ?_
  have hr := canon_plainRead (p := Call.part c) (agent := capAgent) (off := ofs) (n := size) hv
  dsimp only
  (repeat' split) <;> simpa using by assumption

theorem canon_execProgBind {c a b s u} (hs : Canon (stores s)) (h : execProgBind c a b s = .next u) : Canon (stores u) := by
  refine canon_run hs h fun v hv => ?_
  dsimp only
  split
  · simpa using hv
  split
  · simpa using hv
  next im _ =>
  split
  · simpa using hv
  split
  · simpa using hv
  split
  · simpa using hv
  next hp =>
    have hb := canon_bindImage (p := Call.part c) (im := im) (seed := b.toNat) ((stores_placeAll hp).symm ▸ hv)
    split <;> simpa using hb

theorem canon_execSecFwWrite {c ofs data s u} (hs :
    Canon (stores s)) (h : execSecFwWrite c ofs data s = .next u) : Canon (stores u) := by
  refine canon_run hs h fun v hv => ?_
  split
  · simpa using hv
  split
  · simpa using hv
  · exact ⟨hv.1, hv.2.1, cellsWf_cellsWrite hv.2.2.1, hv.2.2.2⟩

theorem canon_execRstPartition {c s u} (hs : Canon (stores s)) (h : execRstPartition c s = .next u) : Canon (stores u) :=
  canon_run hs h fun _ hv => canon_partReset hv

theorem canon_execRstModule {c s u} (hs : Canon (stores s)) (h : execRstModule c s = .next u) : Canon (stores u) :=
  canon_run hs h fun _ hv => canon_moduleReset hv

/-- A message that stores its response alone answers with it, or waits. -/
theorem responds_exec {i : Instr} {c : Call} (s : State) (hi : storesResponse i = true) (hc : callOf i = some c) :
    ∃ u, exec i s = .next u ∧ Responds c s u := by
  cases i
  case hello c major minor => cases hc; exact responds_hello _ _ _ _
  case sysQuery c => cases hc; exact responds_sysQuery _ _
  case sysPartition c masks => cases hc; exact responds_sysPartition _ _ _
  case sysCarveout c gib => cases hc; exact responds_sysCarveout _ _ _
  case sysNet c mac ipv4 ipv6 => cases hc; exact responds_sysNet _ _ _ _ _
  case memMap c a => cases hc; exact responds_memMap _ _ _
  case memUnmap c allocId => cases hc; exact responds_memUnmap _ _ _
  case memHold c => cases hc; exact responds_memHold _ _
  case memRelease c => cases hc; exact responds_memRelease _ _
  case memScrub c hours => cases hc; exact responds_memScrub _ _ _
  case progLaunch c beatBase => cases hc; exact responds_progLaunch _ _ _
  case progAbort c => cases hc; exact responds_progAbort _ _
  case progUnbind c => cases hc; exact responds_progUnbind _ _
  case progKey c slot key => cases hc; exact responds_progKey _ _ _ _
  case fabJoin c j => cases hc; exact responds_fabJoin _ _ _
  case fabLeave c => cases hc; exact responds_fabLeave _ _
  case fabGroup c g => cases hc; exact responds_fabGroup _ _ _
  case fabWindow c w node => cases hc; exact responds_fabWindow _ _ _ _
  case fabParam c throttleNs => cases hc; exact responds_fabParam _ _ _
  case fabQuery c => cases hc; exact responds_fabQuery _ _
  case fabRoute c first entries => cases hc; exact responds_fabRoute _ _ _ _
  case fabGateway c n at_ => cases hc; exact responds_fabGateway _ _ _ _
  case fabPort c port op => cases hc; exact responds_fabPort _ _ _ _
  case pwrCeiling c watts => cases hc; exact responds_pwrCeiling _ _ _
  case pwrPriority c p prio => cases hc; exact responds_pwrPriority _ _ _ _
  case pwrRequest c req gmax => cases hc; exact responds_pwrRequest _ _ _ _
  case pwrTetherKey c slot key => cases hc; exact responds_pwrTetherKey _ _ _ _
  case pwrDerate c metres => cases hc; exact responds_pwrDerate _ _ _
  case pwrCartPolicy c root grace rootHash => cases hc; exact responds_pwrCartPolicy _ _ _ _ _
  case pwrTune c x => cases hc; exact responds_pwrTune _ _ _
  case pwrMeter c fromSeq count => cases hc; exact responds_pwrMeter _ _ _ _
  case tetherCeiling c watts at_ rampEn => cases hc; exact responds_tetherCeiling _ _ _ _ _
  case tetherSchedule c start watts => cases hc; exact responds_tetherSchedule _ _ _ _
  case tetherClear c => cases hc; exact responds_tetherClear _ _
  case tetherStatus c => cases hc; exact responds_tetherStatus _ _
  case meterFetch c fromSeq count => cases hc; exact responds_meterFetch _ _ _ _
  case timeSource c src domain master => cases hc; exact responds_timeSource _ _ _ _ _
  case timeSet c x utcOfs => cases hc; exact responds_timeSet _ _ _ _
  case timeShift c shift => cases hc; exact responds_timeShift _ _ _
  case timeStatus c => cases hc; exact responds_timeStatus _ _
  case secOwnerClaim c key => cases hc; exact responds_secOwnerClaim _ _ _
  case secOwnerRelease c => cases hc; exact responds_secOwnerRelease _ _
  case secAttest c nonce => cases hc; exact responds_secAttest _ _ _
  case secCerts c piece => cases hc; exact responds_secCerts _ _ _
  case secRevoke c lms slot => cases hc; exact responds_secRevoke _ _ _ _
  case secDebugDisable c => cases hc; exact responds_secDebugDisable _ _
  case secDebugOpen c => cases hc; exact responds_secDebugOpen _ _
  case secFabricLock c lock node => cases hc; exact responds_secFabricLock _ _ _ _
  case secFwActivate c => cases hc; exact responds_secFwActivate _ _
  case secFwCommit c => cases hc; exact responds_secFwCommit _ _
  case cntFaults c max => cases hc; exact responds_cntFaults _ _ _
  case cntStrataConfig c d m cfg alarm => cases hc; exact responds_cntStrataConfig _ _ _ _ _ _
  case cntStrataRead c d ms => cases hc; exact responds_cntStrataRead _ _ _ _
  case cntStrataClear c d m => cases hc; exact responds_cntStrataClear _ _ _ _
  case cntStrataAck c d m => cases hc; exact responds_cntStrataAck _ _ _ _
  case cntStrataEnergy c d => cases hc; exact responds_cntStrataEnergy _ _ _
  case cntDumpTrigger c => cases hc; exact responds_cntDumpTrigger _ _
  case cntDumpMap c => cases hc; exact responds_cntDumpMap _ _
  case cntDumpKeep c keep => cases hc; exact responds_cntDumpKeep _ _ _
  case cntDumpFabTrig c => cases hc; exact responds_cntDumpFabTrig _ _
  case cntDumpStatus c => cases hc; exact responds_cntDumpStatus _ _
  case rstBlock c b idx timeoutUs => cases hc; exact responds_rstBlock _ _ _ _ _
  case rstCapstan c => cases hc; exact responds_rstCapstan _ _
  all_goals exact absurd hi Bool.false_ne_true

theorem canon_exec_message {i : Instr} {s u : State} (hs :
    Canon (stores s)) (hi : (callOf i).isSome = true) (h : exec i s = .next u) :
    Canon (stores u) := by
  by_cases hr : storesResponse i = true
  · obtain ⟨c, hc⟩ := Option.isSome_iff_exists.mp hi
    obtain ⟨v, hv, hresp⟩ := responds_exec s hr hc
    rw [h] at hv
    exact canon_responds hs (next_inj hv ▸ hresp)
  · have hk : ((callOf i).isSome && !storesResponse i) = true := by simp [hi, hr]
    cases i
    case memFill c dst len src => exact canon_execMemFill hs h
    case memChecksum c base blocks => exact canon_execMemChecksum hs h
    case progLoad c ofs size sign key => exact canon_execProgLoad hs h
    case progBind c handle seed => exact canon_execProgBind hs h
    case secFwWrite c ofs data => exact canon_execSecFwWrite hs h
    case rstPartition c => exact canon_execRstPartition hs h
    case rstModule c => exact canon_execRstModule hs h
    all_goals exact absurd hk Bool.false_ne_true

/-- A command that waited for the MRAM port runs as it would from the queue. -/
theorem resume_cases (i : Instr) (s : State) : resume i s = s ∨
    (((callOf i).isSome = true ∨ (∃ b v, i = .pwrCeilOwnerWrite b v) ∨ ∃ b v, i = .thmCartPolicyWrite b v) ∧ resume i s =
    outState (exec i s) s) := by
  unfold resume
  split
  case h_71 => exact .inr ⟨.inr (.inl ⟨_, _, rfl⟩), rfl⟩
  case h_72 => exact .inr ⟨.inr (.inr ⟨_, _, rfl⟩), rfl⟩
  case h_73 => exact .inl rfl
  all_goals exact .inr ⟨.inl rfl, rfl⟩

theorem canon_outState {o : Out} {s : State} (hs : Canon (stores s)) (ho : ∀ u, o = .next u → Canon (stores u)) :
    Canon (stores (outState o s)) := by
  cases o with
  | next u => exact ho u rfl
  | fault f => exact hs
  | refused r => exact hs

theorem canon_resume {i : Instr} {s : State} (hs : Canon (stores s)) : Canon (stores (resume i s)) := by
  rcases resume_cases i s with h | ⟨hi, h⟩
  · rwa [h]
  rw [h]
  refine canon_outState hs fun u hu => ?_
  rcases hi with hi | ⟨b, v, rfl⟩ | ⟨b, v, rfl⟩
  · exact canon_exec_message hs hi hu
  · rw [stores_execPwrCeilOwnerWrite hu]; exact hs
  · rw [stores_execThmCartPolicyWrite hu]; exact hs

theorem canon_resumeAll : ∀ {n : Nat} {s : State}, Canon (stores s) → Canon (stores (resumeAll n s))
  | 0, _, hs => hs
  | n + 1, s, hs => by
    unfold resumeAll
    split
    · exact hs
    · exact canon_cond (canon_resumeAll (canon_resume (by simpa using hs))) hs

theorem canon_execHbmLinkTraining {k failing beyond s u} (hs :
    Canon (stores s)) (h : execHbmLinkTraining k failing beyond s = .next u) :
    Canon (stores u) := by
  obtain ⟨-, rfl⟩ := onInst_next.mp h
  refine canon_cond (by rwa [stores_linkTrain]) (canon_coreGo (canon_resumeAll (canon_foldl (fun v p hv => canon_cond (canon_wake
    hv) hv) ?_)))
  rwa [stores_linkTrain]

theorem canon_pulseEnd {s : State} (hs : Canon (stores s)) : Canon (stores s.pulseEnd) := by
  unfold State.pulseEnd
  split
  · exact hs
  dsimp only
  split
  · exact canon_clearModule (by simpa using hs)
  · have hstart : ∀ v : State, Canon (stores v) →
        Canon (stores (if v.mram.pulse.isSome then v else { v with mram := v.mram.start })) := fun v hv => canon_cond hv hv
    refine hstart _ (canon_resumeAll (canon_cond ?_ ?_)) <;> simpa using hs

theorem canon_execMramPulseEnd {s u} (hs : Canon (stores s)) (h : execMramPulseEnd s = .next u) : Canon (stores u) :=
  next_inj h ▸ canon_pulseEnd hs

/-- A command of Safety.storesNothing lists what was listed. -/
theorem stores_exec {i : Instr} {s u : State} (hi : storesNothing i = true) (h : exec i s = .next u) : stores u = stores s := by
  cases i
  case strandLaunch t => exact stores_execStrandLaunch h
  case reexecution t slot => exact stores_execReexecution h
  case strandWatchdog t slot => exact stores_execStrandWatchdog h
  case lnyAdjWrite byCapstan v => exact stores_execLnyAdjWrite h
  case lnySetWrite byCapstan v => exact stores_execLnySetWrite h
  case lnyTrimWrite byCapstan v => exact stores_execLnyTrimWrite h
  case hchCtrlWrite byCapstan v => exact stores_execHchCtrlWrite h
  case mbxHandover n v => exact stores_execMbxHandover h
  case errTailWrite sc v => exact stores_execErrTailWrite h
  case errStatusRead sc w => exact stores_execErrStatusRead h
  case errFaultqRead sc w => exact stores_execErrFaultqRead h
  case errScopeCntRead d w => exact stores_execErrScopeCntRead h
  case pwrInrushRead w => exact stores_execPwrInrushRead h
  case strStatRead d m w => exact stores_execStrStatRead h
  case pwrCeilOwnerWrite byCapstan v => exact stores_execPwrCeilOwnerWrite h
  case thmCartPolicyWrite byCapstan v => exact stores_execThmCartPolicyWrite h
  case hitchPulse  => exact stores_execHitchPulse h
  case hitchCalibration delays => exact stores_execHitchCalibration h
  case lnySlewStep  => exact stores_execLnySlewStep h
  case timerFire n => exact stores_execTimerFire h
  case ptpMessage x => exact stores_execPtpMessage h
  case ppsEdge  => exact stores_execPpsEdge h
  case timeTransferStart  => exact stores_execTimeTransferStart h
  case holdoverEntry  => exact stores_execHoldoverEntry h
  case holdoverTick  => exact stores_execHoldoverTick h
  case hintPulse beat => exact stores_execHintPulse h
  case gearRampAction a => exact stores_execGearRampAction h
  case powerGoodCheck failing => exact stores_execPowerGoodCheck h
  case hbmRateChange d => exact stores_execHbmRateChange h
  case gearSwitch  => exact stores_execGearSwitch h
  case gearChangeComplete  => exact stores_execGearChangeComplete h
  case cleatAssert sources => exact stores_execCleatAssert h
  case cleatRelease  => exact stores_execCleatRelease h
  case cleatHoldExpiry  => exact stores_execCleatHoldExpiry h
  case droopTrip r det => exact stores_execDroopTrip h
  case droopRelease r => exact stores_execDroopRelease h
  case flagBufferGrant d => exact stores_execFlagBufferGrant h
  case dataFlit port x => exact stores_execDataFlit h
  case idleFlit port x => exact stores_execIdleFlit h
  case ackSend port => exact stores_execAckSend h
  case linkHello port c h => exact stores_execLinkHello h
  case timeReq port c t1 => exact stores_execTimeReq h
  case timeRsp port c t1 t2 t3 => exact stores_execTimeRsp h
  case retrain port c lanes reason => exact stores_execRetrain h
  case ctrlRepeat port => exact stores_execCtrlRepeat h
  case pmdTrainingDone port lanes => exact stores_execPmdTrainingDone h
  case helloTimeout port => exact stores_execHelloTimeout h
  case portRestart port => exact stores_execPortRestart h
  case laneFail port lane uncorrectable => exact stores_execLaneFail h
  case retrainDone port => exact stores_execRetrainDone h
  case retrainTimeout port => exact stores_execRetrainTimeout h
  case packetForward k => exact stores_execPacketForward h
  case packetSend port => exact stores_execPacketSend h
  case landHeld k => exact stores_execLandHeld h
  case landCancel k => exact stores_execLandCancel h
  case mgtMsg k => exact stores_execMgtMsg h
  case mgtRsp k => exact stores_execMgtRsp h
  case flagExpiry d k => exact stores_execFlagExpiry h
  case fabThrottle t => exact stores_execFabThrottle h
  case feedSample va ia vb ib => exact stores_execFeedSample h
  case feedSag f => exact stores_execFeedSag h
  case feedSagEnd f => exact stores_execFeedSagEnd h
  case feedReadmit f => exact stores_execFeedReadmit h
  case plugLoopClose  => exact stores_execPlugLoopClose h
  case phaseFail r n => exact stores_execPhaseFail h
  case inrushGrant r neighbourPeak => exact stores_execInrushGrant h
  case raiseCheck logicPower spreadEst => exact stores_execRaiseCheck h
  case wearUpdate seconds => exact stores_execWearUpdate h
  case stretchCheck r permille => exact stores_execStretchCheck h
  case shareBudget pBase draws => exact stores_execShareBudget h
  case ballastAdjust drawWithout => exact stores_execBallastAdjust h
  case tetherCeilingChange  => exact stores_execTetherCeilingChange h
  case meterRecord  => exact stores_execMeterRecord h
  case meterSign  => exact stores_execMeterSign h
  case blowerUpdate measured rpm => exact stores_execBlowerUpdate h
  case blowerFail  => exact stores_execBlowerFail h
  case cartChallenge c => exact stores_execCartChallenge h
  case cartPresenceChange present => exact stores_execCartPresenceChange h
  case cartLifeTick meanSpeed => exact stores_execCartLifeTick h
  case cartLifeWrite  => exact stores_execCartLifeWrite h
  case mgtFrame fr => exact stores_execMgtFrame h
  case sessionExpiry k => exact stores_execSessionExpiry h
  case capstanRestart  => exact stores_execCapstanRestart h
  case resetNRelease retest => exact stores_execResetNRelease h
  case releaseWaveStage row d => exact stores_execReleaseWaveStage h
  case releaseStageTimeout d => exact stores_execReleaseStageTimeout h
  case refclkStop  => exact stores_execRefclkStop h
  case strataSample x => exact stores_execStrataSample h
  case strataPeriodSample d m => exact stores_execStrataPeriodSample h
  case energyCalibration d measured => exact stores_execEnergyCalibration h
  case geodeTrigger p cause tile => exact stores_execGeodeTrigger h
  case geodeSettle p => exact stores_execGeodeSettle h
  case smbusBlockRead addr code pecOk => exact stores_execSmbusBlockRead h
  case smbusAlertResponse  => exact stores_execSmbusAlertResponse h
  case refclkRestart  => exact stores_execRefclkRestart h
  case standbyValid  => exact stores_execStandbyValid h
  case amberRamRead ofs w parity => exact stores_execAmberRamRead h
  all_goals exact absurd hi Bool.false_ne_true

theorem canon_exec {i : Instr} {s u : State} (hs : Canon (stores s)) (h : exec i s = .next u) : Canon (stores u) := by
  by_cases hm : (callOf i).isSome = true
  · exact canon_exec_message hs hm h
  by_cases hn : storesNothing i = true
  · rw [stores_exec hn h]; exact hs
  have hk : ((callOf i).isSome || storesNothing i) = false := by simp [hm, hn]
  cases i
  case nop t => exact canon_execNop hs h
  case endStrand t => exact canon_execEndStrand hs h
  case wait t tok n => exact canon_execWait hs h
  case signal t tok after tile cnt => exact canon_execSignal hs h
  case signalArrival k => exact canon_execSignalArrival hs h
  case loop t trips back => exact canon_execLoop hs h
  case sli t xd imm => exact canon_execSli hs h
  case sadd t xd xa imm => exact canon_execSadd hs h
  case fence t mask => exact canon_execFence hs h
  case sstat t xd sel => exact canon_execSstat hs h
  case orel t scope => exact canon_execOrel hs h
  case oacq t scope => exact canon_execOacq hs h
  case ofull t scope => exact canon_execOfull hs h
  case mma t f => exact canon_execMma hs h
  case mscl t set src => exact canon_execMscl hs h
  case scaleSetLoad t => exact canon_execScaleSetLoad hs h
  case mflag t dst clr => exact canon_execMflag hs h
  case feederDeliver t isB idx upset => exact canon_execFeederDeliver hs h
  case dpuAccumulate t n j upset => exact canon_execDpuAccumulate hs h
  case columnDrain t j => exact canon_execColumnDrain hs h
  case queueHandoff t => exact canon_execQueueHandoff hs h
  case splicePanelWrite t => exact canon_execSplicePanelWrite hs h
  case vld t f upset => exact canon_execVld hs h
  case vst t f => exact canon_execVst hs h
  case vpop t f => exact canon_execVpop hs h
  case queueEntryFree t => exact canon_execQueueEntryFree hs h
  case valu t f => exact canon_execValu hs h
  case vfnOp t f => exact canon_execVfnOp hs h
  case vred t f => exact canon_execVred hs h
  case vsmx t f => exact canon_execVsmx hs h
  case vperm t f => exact canon_execVperm hs h
  case vshuf t f => exact canon_execVshuf hs h
  case vpack t f => exact canon_execVpack hs h
  case vunpk t f => exact canon_execVunpk hs h
  case vqk4 t f => exact canon_execVqk4 hs h
  case vmxiImport t f el => exact canon_execVmxiImport hs h
  case vmxiScan t f => exact canon_execVmxiScan hs h
  case vrng t f => exact canon_execVrng hs h
  case vmask t f => exact canon_execVmask hs h
  case vlossAdd t f => exact canon_execVlossAdd hs h
  case vlossDump t f => exact canon_execVlossDump hs h
  case vtree t f => exact canon_execVtree hs h
  case vscmp t f => exact canon_execVscmp hs h
  case vamax t f => exact canon_execVamax hs h
  case vflag t f => exact canon_execVflag hs h
  case vsetStep t f => exact canon_execVsetStep hs h
  case vsetVetoMask t f => exact canon_execVsetVetoMask hs h
  case vsetSeqtab t f => exact canon_execVsetSeqtab hs h
  case vxeResultWrite t k => exact canon_execVxeResultWrite hs h
  case prd t f => exact canon_execPrd hs h
  case pwr t f => exact canon_execPwr hs h
  case pland t f => exact canon_execPland hs h
  case pgath t f => exact canon_execPgath hs h
  case pscat t f => exact canon_execPscat hs h
  case pamo t f => exact canon_execPamo hs h
  case porterRequestComplete t op req crc => exact canon_execPorterRequestComplete hs h
  case reefPut t f => exact canon_execReefPut hs h
  case reefClose t group sigTok sig => exact canon_execReefClose hs h
  case strandComplete t slot => exact canon_execStrandComplete hs h
  case controlRegisterWrite byCapstan off width v => exact canon_execControlRegisterWrite hs h
  case hbmLinkTraining stack failing beyondSpare => exact canon_execHbmLinkTraining hs h
  case homeSliceOperation d slice parity => exact canon_execHomeSliceOperation hs h
  case cacheEvict d line => exact canon_execCacheEvict hs h
  case scrubBlock d block => exact canon_execScrubBlock hs h
  case hbmTempRead stack temp => exact canon_execHbmTempRead hs h
  case releaseBegin t op => exact canon_execReleaseBegin hs h
  case flagLand d k => exact canon_execFlagLand hs h
  case readReq k => exact canon_execReadReq hs h
  case readItemReq k => exact canon_execReadItemReq hs h
  case writeReq k => exact canon_execWriteReq hs h
  case writeItemReq k => exact canon_execWriteItemReq hs h
  case atomicReq k => exact canon_execAtomicReq hs h
  case landReq k => exact canon_execLandReq hs h
  case readRsp k => exact canon_execReadRsp hs h
  case itemRsp k => exact canon_execItemRsp hs h
  case writeAck k => exact canon_execWriteAck hs h
  case atomicRsp k => exact canon_execAtomicRsp hs h
  case landAck k => exact canon_execLandAck hs h
  case landGo k => exact canon_execLandGo hs h
  case refuse k => exact canon_execRefuse hs h
  case fabTimeout txn => exact canon_execFabTimeout hs h
  case contrib k => exact canon_execContrib hs h
  case resend k => exact canon_execResend hs h
  case reportSend d g => exact canon_execReportSend hs h
  case report k => exact canon_execReport hs h
  case decision k => exact canon_execDecision hs h
  case decisionTimeout d g => exact canon_execDecisionTimeout hs h
  case f32Up k => exact canon_execF32Up hs h
  case f32Down k => exact canon_execF32Down hs h
  case preDecisionPass d => exact canon_execPreDecisionPass hs h
  case commitPass d => exact canon_execCommitPass hs h
  case feedOvervoltage f => exact canon_execFeedOvervoltage hs h
  case feedLoss f => exact canon_execFeedLoss hs h
  case standbyLoss  => exact canon_execStandbyLoss hs h
  case plugLoopOpen  => exact canon_execPlugLoopOpen hs h
  case brickFail b => exact canon_execBrickFail hs h
  case railRegulatorFail rail n => exact canon_execRailRegulatorFail hs h
  case gateRampDone r => exact canon_execGateRampDone hs h
  case dieSensorRead d temps => exact canon_execDieSensorRead hs h
  case inletRead temp => exact canon_execInletRead hs h
  case blockResetIdle timedOut => exact canon_execBlockResetIdle hs h
  case resetNAssert pulseNs => exact canon_execResetNAssert hs h
  case loaderCheck  => exact canon_execLoaderCheck hs h
  case geodeWriteEnd p truncated => exact canon_execGeodeWriteEnd hs h
  case mramPulseEnd  => exact canon_execMramPulseEnd hs h
  case tileSramLineRequest t upset => exact canon_execTileSramLineRequest hs h
  case fabricWindowAccess w ofs op => exact canon_execFabricWindowAccess hs h
  all_goals exact absurd hk.symm Bool.false_ne_true

theorem next_onInst {s u : State} : ∃ f, (.next u : Out) = onInst true s f := ⟨fun _ => u, rfl⟩

theorem onInst_congr {ok ok' : Bool} {s : State} {f : State → State} (h : ok = ok') : ∃ g, onInst ok s f = onInst ok' s g :=
  ⟨f, h ▸ rfl⟩

/-- A command acts where what it names exists. -/
theorem exec_onInst (i : Instr) (s : State) : ∃ f, exec i s = onInst (instOk i) s f := by
  cases i <;> dsimp only [exec]
  case nop | endStrand | wait | signal | loop | sli | sadd | fence | sstat | orel | oacq | ofull | mma | mscl | scaleSetLoad |
    mflag | queueHandoff | splicePanelWrite | vld | vst | vpop | queueEntryFree | valu | vfnOp | vred | vsmx | vperm | vshuf |
    vpack | vunpk | vqk4 | vmxiImport | vmxiScan | vrng | vmask | vlossAdd | vlossDump | vtree | vscmp | vamax | vflag |
    vsetStep | vsetVetoMask | vsetSeqtab | vxeResultWrite | prd | pwr | pland | pgath | pscat | pamo | porterRequestComplete |
    reefPut | reefClose | strandLaunch | strandWatchdog | timerFire | powerGoodCheck | hbmRateChange | hbmLinkTraining |
    droopRelease | cacheEvict | scrubBlock | hbmTempRead | releaseBegin | flagLand | flagBufferGrant | dataFlit | idleFlit |
    ackSend | linkHello | timeReq | timeRsp | retrain | ctrlRepeat | pmdTrainingDone | helloTimeout | portRestart |
    retrainDone | retrainTimeout | packetSend | flagExpiry | fabThrottle | preDecisionPass | commitPass | brickFail |
    inrushGrant | gateRampDone | stretchCheck | dieSensorRead | sessionExpiry | releaseStageTimeout | strataSample |
    strataPeriodSample | energyCalibration | geodeTrigger | geodeSettle | geodeWriteEnd | tileSramLineRequest |
    fabricWindowAccess =>
    exact onInst_congr rfl
  case feederDeliver | dpuAccumulate | columnDrain | strandComplete | reexecution | droopTrip | homeSliceOperation | laneFail |
    reportSend | decisionTimeout | phaseFail | releaseWaveStage =>
    exact onInst_congr (by simp [instOk, Bool.and_assoc])
  case railRegulatorFail rail n => cases rail <;> exact onInst_congr rfl
  all_goals exact next_onInst

/-- Settles O58: a step is its front command's execution, or a tick, and each keeps the form. -/
theorem byteStoresStayCanonical : Obligations.ByteStoresStayCanonical := by
  intro s u hs h
  rw [← canon_stores_iff] at hs ⊢
  unfold step at h
  split at h
  · exact canon_exec (by rwa [stores_mk]) h
  · rw [← next_inj h, stores_tick]
    exact hs

/-- Settles O59. -/
theorem byteStoresCanonicalAtReset : Obligations.ByteStoresCanonicalAtReset := ⟨rfl, rfl, rfl, rfl, rfl⟩

/-- Settles O1. -/
theorem stepRunsFront : Obligations.StepRunsFront := by
  intro c s rest h
  unfold step
  rw [h]

/-- Settles O60. -/
theorem commandsAnswer : Obligations.CommandsAnswer := by
  refine ⟨fun i s hi => ?_, fun i s hi => ?_, fun i s u hi h => ?_, fun i s u c hi hc h => ?_⟩
  · obtain ⟨f, hf⟩ := exec_onInst i s
    exact ⟨f s, by rw [hf, hi]; rfl⟩
  · obtain ⟨f, hf⟩ := exec_onInst i s
    rw [hf, hi]; rfl
  · exact (stores_eq_iff.mp (stores_exec hi h)).sameMemory
  · obtain ⟨v, hv, hresp⟩ := responds_exec s hi hc
    obtain rfl := next_inj (h.symm.trans hv)
    exact keepsMemory_responds hresp

end Sys2Proof.Proofs.Stores
end

section
/-! PROOFS. Instructions of the sequencer: O2. -/
namespace Sys2Proof.Proofs.Sequencer

open Sys2Proof Sys2Proof.Machine Sys2Proof.Laws Sys2Proof.Safety

theorem issued_modTile (s : State) (t k : Nat) (f : Tile → Tile) :
    (s.modTile t f).modTile t (fun x => issued x k) = s.modTile t fun x => issued (f x) k :=
  modTile_modTile s t f _

section
variable {s : State} {t k : Nat} {sl : Slot} (h : Issues s t k sl) {act : State → Nat → Slot → Info → Issue}
include h

theorem onInst_issues (f : State → State) : onInst (t < 384) s f = .next (f s) := by
  simp [onInst, h.inst]

/-! What becomes of an instruction that no acquire and no release holds, by what it answers, and then the engines. -/

theorem issue_pump {r : Issue} (ha : act s k sl (infoAt s t k sl) = r) :
    onInst (t < 384) s (fun s => (s.issue t false false (act s)).pump t) = .next ((issuedAs s t k (infoAt s t k sl) r).pump t) := by
  rw [onInst_issues h, issue_free h, ha]

theorem issue_pump_done {f : Tile → Tile} (ha : act s k sl (infoAt s t k sl) = .done (s.modTile t f)) :
    onInst (t < 384) s (fun s => (s.issue t false false (act s)).pump t) = .next ((s.modTile t fun x => issued (f x) k).pump t) := by
  rw [issue_pump h ha, issuedAs, issued_modTile]

theorem issue_pump_jump {f : Tile → Tile} {ip : Nat} (ha : act s k sl (infoAt s t k sl) = .jump ip (s.modTile t f)) :
    onInst (t < 384) s (fun s => (s.issue t false false (act s)).pump t) = .next ((s.modTile t fun x => jumped (f x) k ip).pump t) := by
  rw [issue_pump h ha]
  exact congrArg (fun v => Host.Outcome.next (State.pump v t)) (modTile_modTile s t f _)

/-! NOP, FENCE, WAIT, END and LOOP. -/

theorem execNop_issues : execNop t s = .next ((s.modTile t fun x => issued x k).pump t) :=
  issue_pump h (r := .done s) rfl

theorem execFence_issues (mask : Nat) (hold : Bool)
    (hh : hold = (bit mask 0 && (s.tile t).openArr sl.inst (s.tile t).nextId ||
        bit mask 1 && (s.tile t).openVxe sl.inst (s.tile t).nextId || bit mask 2 && (s.tile t).openPor sl.inst (s.tile t).nextId ||
        bit mask 3 && (s.tile t).openSig sl.inst (s.tile t).nextId)) :
    execFence t mask s = .next ((issuedAs s t k (infoAt s t k sl) (if hold then .hold else .done s)).pump t) := by
  subst hh
  exact issue_pump h rfl

theorem execWait_enough (tok n : Nat) (hn : n ≤ (s.tile t).tokens.getD tok 0) :
    execWait t tok n s = .next ((s.modTile t fun x =>
      issued { x with tokens := x.tokens.set tok (x.tokens.getD tok 0 - n) } k).pump t) := by
  refine (issue_pump_done h (if_neg (Nat.not_lt.mpr hn))).trans ?_
  rw [modTile_congr (g := fun x => issued { x with tokens := x.tokens.set tok (x.tokens.getD tok 0 - n) } k) rfl]

theorem execWait_holds (tok n : Nat) (hn : (s.tile t).tokens.getD tok 0 < n) : execWait t tok n s = .next (s.pump t) :=
  issue_pump h (r := .hold) (if_pos hn)

theorem execEndStrand_issues : execEndStrand t s =
    .next ((s.modTile t fun x => issued (x.endStrand k (s.localBeat t) sl.ended) k).pump t) :=
  issue_pump_done h rfl

theorem execLoop_jumps {trips back : Nat} {l : List (Nat × Nat)} (hl : loopStep sl.ip trips sl.loops = (l, true)) :
    execLoop t trips back s = .next ((s.modTile t fun x =>
      jumped (x.modSlot k fun z => { z with loops := l }) k (sl.ip - back)).pump t) :=
  issue_pump_jump h (by dsimp only; rw [hl]; rfl)

theorem execLoop_passes {trips back : Nat} {l : List (Nat × Nat)} (hl : loopStep sl.ip trips sl.loops = (l, false)) :
    execLoop t trips back s = .next ((s.modTile t fun x =>
      issued (x.modSlot k fun z => { z with loops := l }) k).pump t) :=
  issue_pump_done h (by dsimp only; rw [hl]; rfl)
end

/-- A LOOP met for the first time remembers the trips still to run. -/
theorem loopStep_first {ip trips : Nat} {l : List (Nat × Nat)} (h : l.head?.map Prod.fst ≠ some ip) :
    loopStep ip trips l = if trips ≤ 1 then (l, false) else ((ip, trips - 2) :: l, true) := by
  cases l with
  | nil => rfl
  | cons e r =>
    have hne : e.1 ≠ ip := fun he => h (congrArg some he)
    exact if_neg hne

theorem loopStep_again {ip trips left : Nat} {outer : List (Nat × Nat)} :
    loopStep ip trips ((ip, left) :: outer) = if left = 0 then (outer, false) else ((ip, left - 1) :: outer, true) :=
  if_pos rfl

/-- Settles O2. -/
theorem sequencerCompletes : Obligations.SequencerCompletes := by
  refine ⟨fun s t => pump_quiet, fun s t k sl h => ⟨execNop_issues h, fun mask hold hh => ⟨?_, ?_⟩, execWait_enough h,
    execWait_holds h, fun he => ?_, fun he => ?_, fun trips back ht hl => ?_, fun trips back ht hl => ?_,
    fun trips back left outer hl => ?_, fun trips back outer hl => ?_⟩⟩
  · rintro rfl
    exact execFence_issues h mask false hh
  · rintro rfl
    exact execFence_issues h mask true hh
  · exact (execEndStrand_issues h).trans (by rw [he]; rfl)
  · exact (execEndStrand_issues h).trans (by rw [he]; rfl)
  · exact execLoop_passes h (by rw [loopStep_first hl, if_pos ht])
  · exact execLoop_jumps h (by rw [loopStep_first hl, if_neg (by omega)])
  · exact execLoop_jumps h (by rw [hl, loopStep_again, if_neg (by omega), Nat.add_sub_cancel])
  · exact execLoop_passes h (by rw [hl, loopStep_again, if_pos rfl])

end Sys2Proof.Proofs.Sequencer
end

section
/-! PROOFS. Instructions that write a scalar register, and the ordering instructions: O3 and O4. -/
namespace Sys2Proof.Proofs.Scalar

open Sys2Proof Sys2Proof.Machine Sys2Proof.Laws Sys2Proof.Safety Sys2Proof.Proofs.Sequencer

section
variable {s : State} {t k : Nat} {sl : Slot} (h : Issues s t k sl) {xd : Nat} {f : Slot → Option W64}
include h

/-! An instruction that writes a scalar register. -/

theorem issueReg_writes {v : W64} (hf : (s.tile t).scaFree xd = true) (hv : f sl = some v) :
    s.issueReg t xd f = s.modTile t fun x => issued { x with regs := x.regs.set xd v } k := by
  rw [State.issueReg, issue_free h]
  simp only [hf, hv, Bool.not_true, Bool.false_eq_true, ↓reduceIte]
  exact issued_modTile s t k _

theorem issueReg_breaches (hf : (s.tile t).scaFree xd = true) (hv : f sl = none) :
    s.issueReg t xd f = s.fault t (infoAt s t k sl) true 1 0x01 sl.ip := by
  rw [State.issueReg, issue_free h]
  simp only [hf, hv, Bool.not_true, Bool.false_eq_true, ↓reduceIte]
  rfl

theorem issueReg_holds (hf : (s.tile t).scaFree xd = false) : s.issueReg t xd f = s := by
  rw [State.issueReg, issue_free h]
  simp only [hf, Bool.not_false, ↓reduceIte]
  rfl

theorem execSli_issues {imm : W64} : execSli t xd imm s = .next ((s.issueReg t xd fun _ => some imm).pump t) := onInst_issues h _

theorem execSstat_issues {sel : Nat} : execSstat t xd sel s = .next ((s.issueReg t xd fun sl => sstatVal s t sel sl).pump t) :=
  onInst_issues h _

/-- SADD is such an instruction when no earlier one still has to write XA. -/
theorem execSadd_free {xa : Nat} {imm : BitVec 32} (hx : (s.tile t).scaWritten (s.tile t).nextId xa = false) :
    execSadd t xd xa imm s = .next ((s.issueReg t xd fun _ => some ((s.tile t).reg xa + imm.signExtend 64)).pump t) := by
  refine (onInst_issues h _).trans ?_
  rw [hx]
  rfl

theorem execSadd_holds {xa : Nat} {imm : BitVec 32} (hx : (s.tile t).scaWritten (s.tile t).nextId xa = true) :
    execSadd t xd xa imm s = .next (s.pump t) := by
  refine (onInst_issues h _).trans ?_
  rw [hx]
  rfl

/-! OREL, OACQ and OFULL. -/

theorem order_sets {scope : Nat} (hs : scope < 6) (rel acq : Bool) : s.order t scope rel acq =
    (s.modTile t fun x => issued (x.modSlot k fun z =>
      { z with
        rels := z.rels ++ if rel then [(scope, (s.tile t).nextId)] else []
        acqOps := z.acqOps ++ if acq then (s.tile t).acqSet sl.inst else [] }) k).pump t := by
  rw [State.order, issue_free h, if_neg (by omega)]
  exact congrArg (State.pump · t) (issued_modTile s t k _)

theorem execOrel_issues {scope : Nat} : execOrel t scope s = .next (s.order t scope true false) := onInst_issues h _

theorem execOacq_issues {scope : Nat} : execOacq t scope s = .next (s.order t scope false true) := onInst_issues h _

theorem execOfull_issues {scope : Nat} : execOfull t scope s = .next (s.order t scope true true) := onInst_issues h _

theorem order_breaches {scope : Nat} (hs : 6 ≤ scope) (rel acq : Bool) :
    s.order t scope rel acq = (s.fault t (infoAt s t k sl) true 1 0x01 sl.ip).pump t := by
  rw [State.order, issue_free h, if_pos hs]
  rfl
end

theorem sstatVal_reserved {s : State} {t sel : Nat} {sl : Slot} (h : 8 ≤ sel) : sstatVal s t sel sl = none := by
  obtain ⟨n, rfl⟩ := Nat.exists_eq_add_of_le' h
  rfl

/-- Settles O3. -/
theorem scalarWritesComplete : Obligations.ScalarWritesComplete := by
  intro s t k sl xd h
  refine ⟨fun hf => ⟨fun imm => ?_, fun xa imm hx => ?_, fun sel v hv => ?_, fun sel hs => ?_⟩, fun hf imm sel => ⟨?_, ?_⟩,
    fun xa imm hx => ?_⟩
  · exact (execSli_issues h).trans (by rw [issueReg_writes h hf rfl])
  · refine (execSadd_free h hx).trans ?_
    rw [issueReg_writes h hf rfl,
      modTile_congr (g := fun x => issued { x with regs := x.regs.set xd (x.reg xa + imm.signExtend 64) } k) rfl]
  · refine (execSstat_issues h).trans ?_
    rw [issueReg_writes h hf (v := BitVec.ofNat 64 v)]
    simp only [List.mem_cons, Prod.mk.injEq, List.not_mem_nil, or_false] at hv
    rcases hv with ⟨rfl, rfl⟩ | ⟨rfl, rfl⟩ | ⟨rfl, rfl⟩ | ⟨rfl, rfl⟩ | ⟨rfl, rfl⟩ | ⟨rfl, rfl⟩ | ⟨rfl, rfl⟩ | ⟨rfl, rfl⟩ <;> rfl
  · exact (execSstat_issues h).trans (by rw [issueReg_breaches h hf (sstatVal_reserved hs)])
  · exact (execSli_issues h).trans (by rw [issueReg_holds h hf])
  · exact (execSstat_issues h).trans (by rw [issueReg_holds h hf])
  · cases hw : (s.tile t).scaWritten (s.tile t).nextId xa with
    | true => exact execSadd_holds h hw
    | false =>
      have hf : (s.tile t).scaFree xd = false := by simpa [hw] using hx
      exact (execSadd_free h hw).trans (by rw [issueReg_holds h hf])

/-- Settles O4. -/
theorem orderingCompletes : Obligations.OrderingCompletes := by
  intro s t k sl scope h
  refine ⟨fun hs => ⟨?_, ?_, ?_⟩, fun i hi hs => ?_⟩
  · exact (execOrel_issues h).trans (congrArg _ (order_sets h hs true false))
  · exact (execOacq_issues h).trans (congrArg _ (order_sets h hs false true))
  · exact (execOfull_issues h).trans (congrArg _ (order_sets h hs true true))
  · rcases hi with rfl | rfl | rfl
    · exact (execOrel_issues h).trans (congrArg _ (order_breaches h hs true false))
    · exact (execOacq_issues h).trans (congrArg _ (order_breaches h hs false true))
    · exact (execOfull_issues h).trans (congrArg _ (order_breaches h hs true true))

end Sys2Proof.Proofs.Scalar
end

section
/-! PROOFS. Signals: O5. -/
namespace Sys2Proof.Proofs.Signals

open Sys2Proof Sys2Proof.Machine Sys2Proof.Laws Sys2Proof.Safety Sys2Proof.Proofs.Sequencer

/-! A tile's service does not depend on its queues. -/

theorem live_modTile (s : State) (t u : Nat) (f : Tile → Tile) : (s.modTile u f).live t = s.live t := rfl

theorem held_modTile (s : State) (u : Nat) (f : Tile → Tile) (b : BlockKind) (k : Nat) : (s.modTile u f).held b k = s.held b k := rfl

section
variable {s : State} {t k : Nat} {sl : Slot} (h : Issues s t k sl) {tok tile cnt u : Nat} {after : Bool}
  (hu : u = if tile = 0xFFFF then t else tile)
include h hu

theorem execSignal_issues {r : Issue} (hr : (if 4 ≤ (s.tile t).sigQ.length then Issue.hold
    else if 384 ≤ u then .breach 0x01 tile
    else if s.partOfTile u ≠ s.partOfTile t then .breach 0x26 tile
    else .done (s.modTile t fun x => { x with sigQ := x.sigQ ++ [⟨infoAt s t k sl, tok, after, u, cnt⟩] })) = r) :
    execSignal t tok after tile cnt s = .next ((issuedAs s t k (infoAt s t k sl) r).pump t) := by
  subst hu
  exact issue_pump h hr

theorem execSignal_queues (hq : (s.tile t).sigQ.length < 4) (hlt : u < 384) (hp : s.partOfTile u = s.partOfTile t) :
    execSignal t tok after tile cnt s = .next ((s.modTile t fun x =>
      issued { x with sigQ := x.sigQ ++ [⟨infoAt s t k sl, tok, after, u, cnt⟩] } k).pump t) := by
  rw [execSignal_issues h hu rfl, if_neg (by omega), if_neg (by omega), if_neg (by simp [hp]), issuedAs, issued_modTile]

theorem execSignal_reserved (hq : (s.tile t).sigQ.length < 4) (hge : 384 ≤ u) :
    execSignal t tok after tile cnt s = .next ((s.fault t (infoAt s t k sl) true 1 0x01 tile).pump t) := by
  rw [execSignal_issues h hu rfl, if_neg (by omega), if_pos hge, issuedAs]

theorem execSignal_otherPart (hq : (s.tile t).sigQ.length < 4) (hlt : u < 384) (hp : s.partOfTile u ≠ s.partOfTile t) :
    execSignal t tok after tile cnt s = .next ((s.fault t (infoAt s t k sl) true 1 0x26 tile).pump t) := by
  rw [execSignal_issues h hu rfl, if_neg (by omega), if_neg (by omega), if_pos hp, issuedAs]
end

/-- Nothing else of the tile can begin, so the signal unit does. -/
theorem beginOne_signal {s : State} {t : Nat} (ha : (s.tile t).arrQ = []) (hv : (s.tile t).vxeQ = []) (hp : (s.tile t).porQ = []) :
    s.beginOne t = s.sigBegin t := by
  simp [State.beginOne, State.arrBegin, State.vxeBegin, State.porBegin, ha, hv, hp]

/-- A signal that waits for nothing earlier leaves at once. -/
theorem sigBegin_leaves {s : State} {t : Nat} {q : SigItem} (hq : (s.tile t).sigQ = [q])
    (hquiet : (s.tile t).quiet q.info.inst q.info.id = true) (hf : s.fliesFull t q.tile = false) :
    s.sigBegin t = some { s.modTile t fun x => { x with sigQ := [] } with fly := s.fly ++ [⟨t, q.tile, q.tok, q.cnt⟩] } := by
  simp [State.sigBegin, hq, hquiet, hf]

/-- What the signal unit of an otherwise idle tile leaves of a signal just queued. -/
theorem pump_signal {s : State} {t k : Nat} {sl : Slot} (h : Ready s t k sl) (hh : s.held .tile t = false) {q : SigItem}
    (hid : q.info.id = (s.tile t).nextId) (hm : (s.tile t).arr.mmas = []) (hf : s.fliesFull t q.tile = false) :
    (s.modTile t fun x => issued { x with sigQ := x.sigQ ++ [q] } k).pump t =
      { s.modTile t fun x => issued x k with fly := s.fly ++ [⟨t, q.tile, q.tok, q.cnt⟩] } := by
  have ht := tile_lt h.issuing
  obtain ⟨hr, hv, hp, hsq, ho⟩ := h.quiet
  have hv0 : (s.modTile t fun x => issued { x with sigQ := x.sigQ ++ [q] } k).tile t =
      issued { s.tile t with sigQ := [q] } k := by
    rw [tile_modTile _ ht, hsq]
    rfl
  generalize hv1 : (s.modTile t fun x => issued { x with sigQ := x.sigQ ++ [q] } k) = v at hv0
  have hb : v.beginOne t = some { v.modTile t fun x => { x with sigQ := [] } with fly := v.fly ++ [⟨t, q.tile, q.tok, q.cnt⟩] } := by
    rw [beginOne_signal (by rw [hv0]; exact hr) (by rw [hv0]; exact hv) (by rw [hv0]; exact hp)]
    refine sigBegin_leaves (by rw [hv0]; rfl) ?_ (by subst hv1; exact hf)
    rw [hv0]
    simp [Tile.quiet, Tile.openArr, Tile.openVxe, Tile.openPor, Tile.openSig, issued, Tile.modSlot, hr, hv, hp, ho, hm, h.inflight,
      Info.before, hid]
  have hq : Quiet ((v.modTile t fun x => { x with sigQ := [] }).tile t) := by
    rw [tile_modTile _ (by subst hv1; rwa [modTile_length]), hv0]
    exact ⟨hr, hv, hp, rfl, ho⟩
  rw [pump_one (by subst hv1; exact h.live) (by subst hv1; exact hh) hb hq]
  subst hv1
  rw [modTile_modTile, modTile_congr (g := fun x => issued x k)]
  · rfl
  · simp only [Function.comp_def, issued, Tile.modSlot, hsq]

/-- The first signal under way reaches its tile. -/
theorem execSignalArrival_first {s : State} {f : Fly} {rest : List Fly} (hf : s.fly = f :: rest) :
    execSignalArrival 0 s = .next ((({ s with fly := rest }.addToken f.tile f.tok f.cnt).pump f.tile).pumpRegion (regionOfTile f.src)
      (s.fliesFull f.src f.tile)) := by
  simp [execSignalArrival, hf]

theorem addToken_within {s : State} {t k n : Nat} (h : (s.tile t).tokens.getD k 0 + n ≤ 65535) :
    s.addToken t k n = s.modTile t fun x => { x with tokens := x.tokens.set k (x.tokens.getD k 0 + n) } := by
  rw [State.addToken, if_pos h]
  exact modTile_congr (by rw [Nat.min_eq_left h])

theorem addToken_over {s : State} {t k n : Nat} (h : 65535 < (s.tile t).tokens.getD k 0 + n) :
    s.addToken t k n = (s.modTile t fun x => { x with tokens := x.tokens.set k 65535 }).fault t (s.noStrand t) false 1 0x04 k := by
  rw [State.addToken, if_neg (by omega), Nat.min_eq_right (by omega)]

/-- Settles O5. -/
theorem signalsTravel : Obligations.SignalsTravel := by
  refine ⟨fun s t k sl tok tile cnt u after h hu hq => ⟨execSignal_queues h hu hq, execSignal_reserved h hu hq,
    execSignal_otherPart h hu hq⟩, fun s t k sl tok tile cnt u after h hh hu hlt hp hf hm => ?_,
    fun s f rest hf _ hn hfull => ?_, fun s f rest hf hfull => ?_, fun s t k n ht hk hn => ?_⟩
  · refine (execSignal_queues (Ready.issues h) hu (by simp [h.quiet.sigQ]) hlt hp).trans ?_
    rw [pump_signal h hh rfl hm hf]
  · refine (execSignalArrival_first hf).trans ?_
    rw [addToken_within (s := { s with fly := rest }) hn, hfull]
    rfl
  · refine (execSignalArrival_first hf).trans ?_
    rw [hfull]
    rfl
  · refine ⟨_, addToken_over hn, ?_, fun j hj => ?_⟩
    · rw [tile_modTile _ ht]
      simp [hk]
    · rw [tile_modTile _ ht]
      simp [List.getElem?_set_ne hj.symm]

end Sys2Proof.Proofs.Signals
end

section
/-! PROOFS. The issue of MMA, MSCL and MFLAG, and their begin on an idle array: O6. -/
namespace Sys2Proof.Proofs.Matrix

open Sys2Proof Sys2Proof.Machine Sys2Proof.Laws Sys2Proof.Safety Sys2Proof.Proofs.Sequencer

/-! Issue and begin of an instruction of an engine. -/

/-- An instruction that its strand's acquires and releases let through, and then the engines. -/
theorem issue_pump_held {s : State} {t k : Nat} {sl : Slot} (h : Issues s t k sl) {sram por : Bool}
    {act : State → Nat → Slot → Info → Issue} {f : Tile → Tile}
    (hf : (sl.acqOps.any (s.tile t).opOpen && (sram || por) || por && !(sl.rels.all fun r => s.released r.1 t sl.inst r.2)) = false)
    (ha : act s k sl (infoAt s t k sl) = .done (s.modTile t f)) :
    onInst (t < 384) s (fun s => (s.issue t sram por (act s)).pump t) = .next ((s.modTile t fun x => issued (f x) k).pump t) := by
  rw [onInst_issues h, issue_issues h hf, ha, issuedAs, issued_modTile]

/-- Where one thing begins that changes the tile alone, and nothing is left after it. -/
theorem pump_begins {s : State} {t : Nat} {g b : Tile → Tile} (ht : t < s.tiles.length) (hl : s.live t = true)
    (hh : s.held .tile t = false) (hb : (s.modTile t g).beginOne t = some ((s.modTile t g).modTile t b))
    (hq : Quiet (b (g (s.tile t)))) : (s.modTile t g).pump t = s.modTile t fun x => b (g x) := by
  have hqv : Quiet (((s.modTile t g).modTile t b).tile t) := by
    rwa [modTile_modTile, tile_modTile _ ht]
  rw [pump_one (s := s.modTile t g) hl hh hb hqv, modTile_modTile]
  rfl

theorem beginOne_arr {s v : State} {t : Nat} (h : s.arrBegin t = some v) : s.beginOne t = some v := by
  simp [State.beginOne, h]

/-- The ranges just tracked for an instruction hold up nothing of its own. -/
theorem blocked_register {x : Tile} {i : Info} {spans : List Span} (h : x.track = []) : (x.register i spans).blocked i.id spans =
    false := by
  simp [Tile.blocked, Tile.register, h]

theorem release_register {x : Tile} {i : Info} {spans : List Span} (h : x.track = []) : ((x.register i spans).release i.id).track = [] := by
  simp [Tile.release, Tile.register, h]

/-! The head of the array's queue. -/

theorem arrBegin_mma {s : State} {t : Nat} {i : Info} {f : MmaF} {panel : Nat} {rest : List ArrItem}
    (hq : (s.tile t).arrQ = ⟨i, .mma f panel⟩ :: rest)
    (hb : (s.tile t).blocked i.id (mmaSpans f (t % 4)) = false)
    (hn : (((s.tile t).arr.f ++ (s.tile t).arr.g).any fun p => (s.tile t).arr.nextSlice ≤ p) = true)
    (hc : f.accIn = true → (s.tile t).arr.openBlk = false ∧ s.sramBadIn t (f.cBase * 64) 1024 = none) :
    s.arrBegin t = some (s.modTile t fun x => { x with
      arrQ := rest
      arr := x.arr.beginMma i f panel (if f.accIn then words32 (s.sramRead t (f.cBase * 64) 1024) 256 else []) }) := by
  unfold State.arrBegin
  simp only [hq, hb, hn]
  cases ha : f.accIn with
  | false =>
    simp only [Bool.false_eq_true, ↓reduceIte, Bool.not_true, Bool.false_and]
    rw [modTile_modTile]
    exact congrArg some (modTile_congr rfl)
  | true =>
    obtain ⟨ho, hs⟩ := hc ha
    simp only [ho, hs, Bool.false_eq_true, ↓reduceIte, Bool.not_true, Bool.and_false]
    rw [modTile_modTile]
    exact congrArg some (modTile_congr rfl)

theorem arrBegin_mscl {s : State} {t : Nat} {i : Info} {set src : Nat} {rest : List ArrItem}
    (hq : (s.tile t).arrQ = ⟨i, .mscl set src false⟩ :: rest) (hb : (s.tile t).blocked i.id [⟨src * 64, 256, false⟩] = false)
    (hset : (s.tile t).arr.setBusy set = false) (hp : s.sramBadIn t (src * 64) 256 = none)
    (hok : setOk (s.sramRead t (src * 64) 256) = true) :
    s.arrBegin t = some (s.modTile t fun x => { ({ x with arrQ := rest }).release i.id with
      arr := { x.arr with sets := x.arr.sets.set set (readSet (s.sramRead t (src * 64) 256)) } }) := by
  unfold State.arrBegin
  simp only [hq, hb, hset, Bool.or_self, Bool.false_eq_true, ↓reduceIte, State.loadSet, hp, State.takeSet, hok]
  rw [modTile_modTile]
  have hd : (s.tile t).arrQ.drop 1 = rest := by rw [hq]; rfl
  exact congrArg some (modTile_congr (by simp only [Function.comp_apply, hd]; rfl))

theorem arrBegin_mflag {s : State} {t : Nat} {i : Info} {dst : Nat} {clr : Bool} {rest : List ArrItem}
    (hq : (s.tile t).arrQ = ⟨i, .mflag dst clr⟩ :: rest)
    (hm : ((s.tile t).arr.mmas.any fun m => (s.tile t).arr.minC < m.stop) = false) :
    s.arrBegin t = some (s.modTile t fun x => { x with
      arrQ := rest
      regs := x.regs.set dst (BitVec.ofNat 64 x.arr.mflags)
      arr := { x.arr with mflags := if clr then 0 else x.arr.mflags } }) := by
  unfold State.arrBegin
  simp only [hq, hm, Bool.false_eq_true, ↓reduceIte]
  exact congrArg some (modTile_congr rfl)

/-! Issue. -/

theorem execMma_issues {s : State} {t k : Nat} {sl : Slot} (h : Issues s t k sl) {f : MmaF} (hq : (s.tile t).arrQ.length < 4)
    (ha : sl.acqOps.any (s.tile t).opOpen = false) (hbad : mmaBad f = false) (hsig : (f.sig && f.cont) = false)
    (hsp : (s.tile t).spansBreach sl (mmaSpans f (t % 4)) = none) (hfit : (s.tile t).trackFits (mmaSpans f (t % 4)) = true) :
    execMma t f s = .next ((s.modTile t fun x => issued
      { x.register (infoAt s t k sl) (mmaSpans f (t % 4)) with
        arrQ := x.arrQ ++ [⟨infoAt s t k sl, .mma f x.arr.spliceW⟩]
        arr := { x.arr with spliceW := if f.dest then (x.arr.spliceW + 1) % 128 else x.arr.spliceW } } k).pump t) := by
  refine issue_pump_held h (by simp [ha]) ?_
  simp only [hbad, hsig, hsp, hfit, Bool.false_eq_true, Bool.not_true, ↓reduceIte]
  rw [if_neg (by omega)]
  refine congrArg Issue.done (modTile_congr ?_)
  cases f.dest <;> rfl

theorem execMscl_issues {s : State} {t k : Nat} {sl : Slot} (h : Issues s t k sl) {set src : Nat} (hq : (s.tile t).arrQ.length < 4)
    (ha : sl.acqOps.any (s.tile t).opOpen = false) (hset : set ≠ 0)
    (hsp : (s.tile t).spansBreach sl [⟨src * 64, 256, false⟩] = none) (hfit : (s.tile t).trackFits [⟨src * 64, 256, false⟩] = true) :
    execMscl t set src s = .next ((s.modTile t fun x => issued
      { x.register (infoAt s t k sl) [⟨src * 64, 256, false⟩] with
        arrQ := x.arrQ ++ [⟨infoAt s t k sl, .mscl set src false⟩] } k).pump t) := by
  refine issue_pump_held h (by simp [ha]) ?_
  simp only [hsp, hfit, hset, Bool.false_eq_true, Bool.not_true, ↓reduceIte]
  rw [if_neg (by omega)]
  rfl

theorem execMflag_issues {s : State} {t k : Nat} {sl : Slot} (h : Issues s t k sl) {dst : Nat} {clr : Bool}
    (hq : (s.tile t).arrQ.length < 4) (hf : (s.tile t).scaFree dst = true) :
    execMflag t dst clr s = .next ((s.modTile t fun x => issued
      { x with arrQ := x.arrQ ++ [⟨infoAt s t k sl, .mflag dst clr⟩] } k).pump t) :=
  issue_pump_done h (by simp [hf]; omega)

theorem mmaSpans_length (f : MmaF) (own : Nat) : (mmaSpans f own).length ≤ 3 := by
  have hnone : ∀ {c : Prop} [Decidable c] {x : Span}, (if c then [] else [x]).length ≤ 1 := fun {c _ x} => by split <;> simp
  have hsome : ∀ {c : Prop} [Decidable c] {x : Span}, (if c then [x] else []).length ≤ 1 := fun {c _ x} => by split <;> simp
  unfold mmaSpans
  rw [List.length_append, List.length_append]
  exact Nat.add_le_add (Nat.add_le_add hnone hnone) hsome

/-! On a tile whose engines are idle. -/

section
variable {s : State} {t k : Nat} {sl : Slot} (h : Ready s t k sl)
include h

theorem trackFits_ready {spans : List Span} (hn : spans.length ≤ 16) : (s.tile t).trackFits spans = true := by
  simp [Tile.trackFits, h.track, hn]

theorem scaFree_ready (r : Nat) : (s.tile t).scaFree r = true := by
  simp [Tile.scaFree, Tile.scaWritten, Tile.scaToRead, h.quiet.arrQ, h.quiet.vxeQ, h.inflight]

theorem execMma_begins (hh : s.held .tile t = false) {f : MmaF} (hbad : mmaBad f = false) (hsig : (f.sig && f.cont) = false)
    (hsp : (s.tile t).spansBreach sl (mmaSpans f (t % 4)) = none)
    (hc : f.accIn = true → (s.tile t).arr.openBlk = false ∧ s.sramBadIn t (f.cBase * 64) 1024 = none)
    (hn : (((s.tile t).arr.f ++ (s.tile t).arr.g).any fun p => (s.tile t).arr.nextSlice ≤ p) = true) :
    execMma t f s = .next (s.modTile t fun x => issued
      { x.register (infoAt s t k sl) (mmaSpans f (t % 4)) with
        arr := Arr.beginMma { x.arr with spliceW := if f.dest then (x.arr.spliceW + 1) % 128 else x.arr.spliceW }
          (infoAt s t k sl) f x.arr.spliceW
          (if f.accIn then words32 (s.sramRead t (f.cBase * 64) 1024) 256 else []) } k) := by
  have ht := tile_lt h.issuing
  obtain ⟨hr, hv, hp, hsq, ho⟩ := h.quiet
  rw [execMma_issues (Ready.issues h) (by simp [hr]) (by simp [h.acq]) hbad hsig hsp
    (trackFits_ready h (Nat.le_trans (mmaSpans_length f _) (by decide)))]
  rw [pump_begins ht h.live hh (beginOne_arr (arrBegin_mma (i := infoAt s t k sl) (f := f) (panel := (s.tile t).arr.spliceW)
      (rest := []) ?_ ?_ ?_ ?_))]
  · refine congrArg _ (modTile_congr ?_)
    simp only [issued, Tile.modSlot, Tile.register, hr]
    rfl
  · exact ⟨rfl, hv, hp, hsq, ho⟩
  · rw [tile_modTile _ ht, hr]
    rfl
  · rw [tile_modTile _ ht]
    exact blocked_register h.track
  · rw [tile_modTile _ ht]
    exact hn
  · rw [tile_modTile _ ht]
    exact hc

theorem execMscl_begins (hh : s.held .tile t = false) {set src : Nat} (hset : set ≠ 0)
    (hsp : (s.tile t).spansBreach sl [⟨src * 64, 256, false⟩] = none) (hb : (s.tile t).arr.setBusy set = false)
    (hp' : s.sramBadIn t (src * 64) 256 = none) (hok : setOk (s.sramRead t (src * 64) 256) = true) :
    execMscl t set src s = .next (s.modTile t fun x => issued
      { x with arr := { x.arr with sets := x.arr.sets.set set (readSet (s.sramRead t (src * 64) 256)) } } k) := by
  have ht := tile_lt h.issuing
  obtain ⟨hr, hv, hp, hsq, ho⟩ := h.quiet
  rw [execMscl_issues (Ready.issues h) (by simp [hr]) (by simp [h.acq]) hset hsp (trackFits_ready h (by simp))]
  rw [pump_begins ht h.live hh (beginOne_arr (arrBegin_mscl (i := infoAt s t k sl) (set := set) (rest := []) ?_ ?_ ?_ hp' hok))]
  · refine congrArg _ (modTile_congr ?_)
    simp [issued, Tile.modSlot, Tile.register, Tile.release, hr, h.track, State.sramRead]
  · exact ⟨rfl, hv, hp, hsq, ho⟩
  · rw [tile_modTile _ ht, hr]
    rfl
  · rw [tile_modTile _ ht]
    exact blocked_register h.track
  · rw [tile_modTile _ ht]
    exact hb

theorem execMflag_begins (hh : s.held .tile t = false) {dst : Nat} {clr : Bool}
    (hm : ((s.tile t).arr.mmas.any fun m => (s.tile t).arr.minC < m.stop) = false) :
    execMflag t dst clr s = .next (s.modTile t fun x => issued
      { x with
        regs := x.regs.set dst (BitVec.ofNat 64 x.arr.mflags)
        arr := { x.arr with mflags := if clr then 0 else x.arr.mflags } } k) := by
  have ht := tile_lt h.issuing
  obtain ⟨hr, hv, hp, hsq, ho⟩ := h.quiet
  rw [execMflag_issues (Ready.issues h) (by simp [hr]) (scaFree_ready h dst)]
  rw [pump_begins ht h.live hh (beginOne_arr (arrBegin_mflag (i := infoAt s t k sl) (dst := dst) (clr := clr) (rest := []) ?_ ?_))]
  · refine congrArg _ (modTile_congr ?_)
    simp only [issued, Tile.modSlot, hr]
  · exact ⟨rfl, hv, hp, hsq, ho⟩
  · rw [tile_modTile _ ht, hr]
    rfl
  · rw [tile_modTile _ ht]
    exact hm
end

/-- Settles O6. -/
theorem matrixIssueCompletes : Obligations.MatrixIssueCompletes := by
  refine ⟨fun s t k sl i h hi hq => ?_, fun s t k sl h hh => ⟨fun f hbad hsig hsp hc hn => ?_, fun set src hset hsp hb hp hok => ?_,
    fun dst clr hm => ?_⟩⟩
  · subst hi
    exact ⟨fun f ha hbad hsig hsp hfit => execMma_issues h hq ha hbad hsig hsp hfit,
      fun set src ha hset hsp hfit => execMscl_issues h hq ha hset hsp hfit, fun dst clr hf => execMflag_issues h hq hf⟩
  · exact execMma_begins h hh hbad hsig hsp hc hn
  · exact execMscl_begins h hh hset hsp hb hp hok
  · exact execMflag_begins h hh hm

end Sys2Proof.Proofs.Matrix
end

section
/-! PROOFS. The issue of vector instructions, and their begin on an idle engine: O8 and O9. -/
namespace Sys2Proof.Proofs.VectorIssue

open Sys2Proof Sys2Proof.Machine Sys2Proof.Laws Sys2Proof.Safety Sys2Proof.Proofs.Sequencer Sys2Proof.Proofs.Matrix

/-! The slot of the issuing strand. -/

theorem findIssuing_modify {g : Slot → Slot} (hg : ∀ z, (g z).phase = z.phase) : ∀ {l : List (Option Slot)} {n k : Nat} {sl : Slot},
    findIssuing n l = some (k, sl) → n ≤ k ∧ findIssuing n (modAt l (k - n) fun o => o.map g) = some (k, g sl)
  | [], n, k, sl, h => by cases h
  | none :: r, n, k, sl, h => by
    obtain ⟨hle, hr⟩ := findIssuing_modify hg (l := r) (n := n + 1) h
    refine ⟨by omega, ?_⟩
    rw [show k - n = (k - (n + 1)) + 1 by omega]
    exact hr
  | some z :: r, n, k, sl, h => by
    unfold findIssuing at h
    split at h
    · next hz =>
      cases h
      refine ⟨Nat.le_refl _, ?_⟩
      rw [Nat.sub_self]
      exact if_pos ((hg z).trans hz)
    · next hz =>
      obtain ⟨hle, hr⟩ := findIssuing_modify hg (l := r) (n := n + 1) h
      refine ⟨by omega, ?_⟩
      rw [show k - n = (k - (n + 1)) + 1 by omega]
      exact (if_neg hz).trans hr

theorem issuing_modSlot {x : Tile} {k : Nat} {sl : Slot} {g : Slot → Slot} (h : x.issuing = some (k, sl))
    (hg : ∀ z, (g z).phase = z.phase) : (x.modSlot k g).issuing = some (k, g sl) :=
  (findIssuing_modify hg h).2

theorem issuing_issued {x : Tile} {k : Nat} {sl : Slot} (h : x.issuing = some (k, sl)) :
    (issued x k).issuing = some (k, { sl with ip := sl.ip + 1 }) :=
  issuing_modSlot h fun _ => rfl

theorem holds_issued (x : Tile) (k : Nat) (i : Info) :
    (issued x k).holds i = (x.holds i).map fun z => if k = i.slot then { z with ip := z.ip + 1 } else z := by
  simp only [Tile.holds, issued, Tile.modSlot, modAt, List.getD_eq_getElem?_getD, List.getElem?_modify]
  cases hs : x.slots[i.slot]? with
  | none => rfl
  | some o =>
    cases o with
    | none => by_cases hk : k = i.slot <;> simp [hk]
    | some z =>
      by_cases hk : k = i.slot <;> by_cases hi : z.inst = i.inst <;> simp [hk, hi]

theorem recompHit_issued (x : Tile) (k : Nat) (spans : List Span) : (issued x k).recompHit spans = x.recompHit spans := by
  have hany : ∀ (p : Option Slot → Bool), (∀ z n, p (some { z with ip := n }) = p (some z)) → (issued x k).slots.any p = x.slots.any p := by
    intro p hp
    simp only [issued, Tile.modSlot, modAt]
    induction x.slots generalizing k with
    | nil => simp
    | cons o r ih =>
      cases k with
      | zero => cases o <;> simp [hp]
      | succ k => simp [ih]
  unfold Tile.recompHit
  congr 1
  funext sp
  rw [hany _ fun _ _ => rfl]

/-! Issue. -/

/-- The tile once the vector instruction q is tracked and queued; g is what it changes at its issue. -/
def vQueued (g : Tile → Tile) (q : VItem) (spans : List Span) (k : Nat) (x : Tile) : Tile :=
  issued { g (x.register q.info spans) with vxeQ := (g (x.register q.info spans)).vxeQ ++ [q] } k


theorem vIssue_issues {s : State} {t k : Nat} {sl : Slot} (h : Issues s t k sl) {kind : VKind} {f : VecF} {q : VItem} {g : Tile → Tile}
    (hqi : q = ⟨infoAt s t k sl, kind, f, vAddr kind f ((s.tile t).reg f.xa)⟩)
    (ha : (sl.acqOps.any (s.tile t).opOpen && (vSpans kind f 0).any fun sp => !sp.wr) = false) (hq : (s.tile t).vxeQ.length < 4)
    (hw : vWellFormed q = true) (hx : ((vByXa kind || kind == .vset) && (s.tile t).scaWritten (s.tile t).nextId f.xa) = false)
    (hsp : (s.tile t).spansBreach sl (vSpans kind f q.addr) = none) (hfit : (s.tile t).trackFits (vSpans kind f q.addr) = true) :
    s.vIssue t kind f g = (s.modTile t (vQueued g q (vSpans kind f q.addr) k)).pump t := by
  subst hqi
  unfold State.vIssue
  rw [issue_issues h (by simpa using ha)]
  simp only [hw, hsp, hfit, Bool.false_eq_true, Bool.not_true, ↓reduceIte]
  rw [if_neg (by omega), if_neg (by rw [show (infoAt s t k sl).id = (s.tile t).nextId from rfl, hx]; decide), issuedAs, issued_modTile]
  rfl

/-! Begin. -/

/-- The tile once the instruction at the head of its vector queue has begun, with r to write. -/
def begun (ram : Nat → Nat → List Byte) (q : VItem) (r : VRes) (x : Tile) : Tile :=
  let y := ({ x with vxeQ := [] } : Tile).vTake q ram
  { y with vxe := { y.vxe with inflight := y.vxe.inflight ++ [r] } }

theorem charge_tiles (s : State) (d gear layer op kind n : Nat) : (s.charge d gear layer op kind n).tiles = s.tiles := by
  unfold State.charge
  split <;> rfl

theorem charge_sram (s : State) (d gear layer op kind n : Nat) : (s.charge d gear layer op kind n).sram = s.sram := by
  unfold State.charge
  split <;> rfl

theorem vxeBegin_begins {s : State} {t : Nat} {q : VItem} {r : VRes} (hq : (s.tile t).vxeQ = [q]) (hheld : (s.tile t).vHeld q = false)
    (hb : (s.tile t).blocked q.info.id (vSpans q.kind q.f q.addr) = false)
    (hpop : q.kind = .vpop → (s.tile t).arr.headEntry.isSome = true) (hrec : (s.tile t).recompHit (vSpans q.kind q.f q.addr) = none)
    (hres : vCompute (s.vEnv t q) q = .res r) (hbad : ∀ sp ∈ vSpans q.kind q.f q.addr, s.sramBadIn t sp.at_ sp.len = none) :
    ∃ u, s.vxeBegin t = some u ∧ u.tiles = (s.modTile t (begun (fun a n => s.sramRead t a n) q r)).tiles ∧ u.sram = s.sram := by
  have hp : (q.kind = .vpop && (s.tile t).arr.headEntry.isNone) = false := by
    by_cases hk : q.kind = .vpop
    · simpa [hk] using hpop hk
    · simp [hk]
  have hfind : ((vSpans q.kind q.f q.addr).filter fun sp => !sp.wr).findSome? (fun sp => s.sramBadIn t sp.at_ sp.len) = none := by
    rw [List.findSome?_eq_none_iff]
    exact fun sp hsp => hbad sp (List.mem_of_mem_filter hsp)
  unfold State.vxeBegin
  simp only [hq, hheld, hb, hp, hrec, hres, hfind, Bool.or_self, Bool.false_eq_true, ↓reduceIte]
  refine ⟨_, rfl, ?_, ?_⟩
  · rw [modTile_tiles, charge_tiles, charge_tiles]
    exact modAt_modAt _ _ _ _
  · rw [modTile_sram, charge_sram, charge_sram]
    rfl

theorem vEnv_queued {s : State} {t k : Nat} {q p : VItem} {spans : List Span} (ht : t < s.tiles.length) :
    (s.modTile t (vQueued id p spans k)).vEnv t q = s.vEnv t q := by
  unfold State.vEnv
  dsimp only
  rw [tile_modTile _ ht, vQueued, holds_issued]
  congr 1
  have hh : ({ Tile.register (s.tile t) p.info spans with vxeQ := (s.tile t).vxeQ ++ [p] } : Tile).holds q.info =
      (s.tile t).holds q.info := rfl
  simp only [id, Tile.register] at hh ⊢
  rw [hh]
  cases (s.tile t).holds q.info with
  | none => rfl
  | some z => by_cases hk : k = q.info.slot <;> simp [hk]

/-- What beginning an instruction takes from its tile leaves the rest. -/
theorem vTake_keeps (x : Tile) (q : VItem) (ram : Nat → Nat → List Byte) :
    (x.vTake q ram).vxe.regs = x.vxe.regs ∧ (x.vTake q ram).vxe.inflight = x.vxe.inflight ∧ (x.vTake q ram).regs = x.regs ∧
      (x.vTake q ram).vxeQ = x.vxeQ ∧ (x.vTake q ram).arrQ = x.arrQ ∧ (x.vTake q ram).porQ = x.porQ ∧
      (x.vTake q ram).sigQ = x.sigQ ∧ (x.vTake q ram).ops = x.ops ∧ (x.vTake q ram).nextId = x.nextId := by
  unfold Tile.vTake
  split
  · exact ⟨rfl, rfl, rfl, rfl, rfl, rfl, rfl, rfl, rfl⟩
  · split <;> exact ⟨rfl, rfl, rfl, rfl, rfl, rfl, rfl, rfl, rfl⟩
  · split
    · split
      · exact ⟨rfl, rfl, rfl, rfl, rfl, rfl, rfl, rfl, rfl⟩
      · split <;> exact ⟨rfl, rfl, rfl, rfl, rfl, rfl, rfl, rfl, rfl⟩
    · exact ⟨rfl, rfl, rfl, rfl, rfl, rfl, rfl, rfl, rfl⟩
  · split <;> exact ⟨rfl, rfl, rfl, rfl, rfl, rfl, rfl, rfl, rfl⟩
  · exact ⟨rfl, rfl, rfl, rfl, rfl, rfl, rfl, rfl, rfl⟩

theorem vTake_issuing {x : Tile} {q : VItem} {ram : Nat → Nat → List Byte} {sl : Slot} (h : x.issuing = some (q.info.slot, sl)) :
    ∃ z, (x.vTake q ram).issuing = some (q.info.slot, z) ∧ z.ip = sl.ip := by
  unfold Tile.vTake
  split
  · exact ⟨sl, h, rfl⟩
  · split <;> exact ⟨sl, h, rfl⟩
  · split
    · split
      · exact ⟨sl, h, rfl⟩
      · split
        · exact ⟨_, issuing_modSlot h fun _ => rfl, rfl⟩
        · exact ⟨sl, h, rfl⟩
    · exact ⟨sl, h, rfl⟩
  · split <;> exact ⟨sl, h, rfl⟩
  · exact ⟨sl, h, rfl⟩

/-- What an instruction changes at its issue, if that is the state of the vector engine alone. -/
structure AtIssue (g : Tile → Tile) : Prop where
  arr : ∀ x, (g x).arr = x.arr
  slots : ∀ x, (g x).slots = x.slots
  track : ∀ x, (g x).track = x.track
  arrQ : ∀ x, (g x).arrQ = x.arrQ
  vxeQ : ∀ x, (g x).vxeQ = x.vxeQ
  porQ : ∀ x, (g x).porQ = x.porQ
  sigQ : ∀ x, (g x).sigQ = x.sigQ
  ops : ∀ x, (g x).ops = x.ops
  inflight : ∀ x, (g x).vxe.inflight = x.vxe.inflight

theorem vHeld_queued {x : Tile} {q : VItem} {g : Tile → Tile} {spans : List Span} {k : Nat} (hg : AtIssue g) (hx : Quiet x)
    (hi : x.vxe.inflight = []) : (vQueued g q spans k x).vHeld q = false := by
  have hin : (vQueued g q spans k x).vxe.inflight = [] := (hg.inflight _).trans hi
  have harr : (vQueued g q spans k x).arrQ = [] := (hg.arrQ _).trans hx.arrQ
  have hvq : (vQueued g q spans k x).vxeQ = [q] := by
    show (g (x.register q.info spans)).vxeQ ++ [q] = [q]
    rw [hg.vxeQ, show (x.register q.info spans).vxeQ = [] from hx.vxeQ]
    rfl
  unfold Tile.vHeld Tile.scaWritten
  rw [hin, harr, hvq]
  simp
  cases q.kind <;> rfl

/-- A vector instruction on a tile whose engines are idle: it begins at once. -/
theorem vIssue_begins {s : State} {t k : Nat} {sl : Slot} (h : Ready s t k sl) (hh : s.held .tile t = false) {kind : VKind} {f : VecF}
    {q : VItem} {g : Tile → Tile} (hg : AtIssue g) (hqi : q = ⟨infoAt s t k sl, kind, f, vAddr kind f ((s.tile t).reg f.xa)⟩)
    (hw : vWellFormed q = true) (hsp : (s.tile t).spansBreach sl (vSpans kind f q.addr) = none)
    (hlen : (vSpans kind f q.addr).length ≤ 16) (hrec : (s.tile t).recompHit (vSpans kind f q.addr) = none)
    (hpop : kind = .vpop → (s.tile t).arr.headEntry.isSome = true) (hbad : ∀ sp ∈ vSpans kind f q.addr, s.sramBadIn t sp.at_ sp.len = none)
    {r : VRes} (hres : vCompute ((s.modTile t (vQueued g q (vSpans kind f q.addr) k)).vEnv t q) q = .res r) :
    ∃ u, s.vIssue t kind f g = u ∧ u.sram = s.sram ∧
      u.tile t = begun (fun a n => s.sramRead t a n) q r (vQueued g q (vSpans kind f q.addr) k (s.tile t)) := by
  have ht := tile_lt h.issuing
  have hkind : q.kind = kind := by rw [hqi]
  have hf : q.f = f := by rw [hqi]
  obtain ⟨hr, hv, hp, hsq, ho⟩ := h.quiet
  rw [vIssue_issues (Ready.issues h) hqi (by simp [h.acq]) (by simp [hv]) hw
    (by simp [Tile.scaWritten, hr, hv, h.inflight]) hsp (trackFits_ready h hlen)]
  generalize hvd : s.modTile t (vQueued g q (vSpans kind f q.addr) k) = v at hres ⊢
  have hvt : v.tile t = vQueued g q (vSpans kind f q.addr) k (s.tile t) := by rw [← hvd, tile_modTile _ ht]
  have hqd : (v.tile t).vxeQ = [q] := by
    rw [hvt]
    show (g ((s.tile t).register q.info _)).vxeQ ++ [q] = [q]
    rw [hg.vxeQ, show ((s.tile t).register q.info (vSpans kind f q.addr)).vxeQ = [] from hv]
    rfl
  have harr : (v.tile t).arr = (s.tile t).arr := by rw [hvt]; exact hg.arr _
  have hblk : (v.tile t).blocked q.info.id (vSpans q.kind q.f q.addr) = false := by
    rw [hvt, hkind, hf]
    have htr : (vQueued g q (vSpans kind f q.addr) k (s.tile t)).track =
        ((s.tile t).register q.info (vSpans kind f q.addr)).track := hg.track _
    unfold Tile.blocked
    rw [htr]
    exact blocked_register h.track
  have hrecv : (v.tile t).recompHit (vSpans q.kind q.f q.addr) = none := by
    rw [hvt, hkind, hf, vQueued, recompHit_issued]
    unfold Tile.recompHit at hrec ⊢
    simp only [hg.slots]
    exact hrec
  obtain ⟨u, hu, hut, hus⟩ := vxeBegin_begins (s := v) (t := t) (q := q) (r := r) hqd
      (by rw [hvt]; exact vHeld_queued hg h.quiet h.inflight) hblk
    (by rw [harr, hkind]; exact hpop) hrecv hres (by rw [hkind, hf, ← hvd]; exact hbad)
  have hutile : u.tile t = begun (fun a n => s.sramRead t a n) q r (v.tile t) := by
    have : u.tile t = (v.modTile t (begun (fun a n => v.sramRead t a n) q r)).tile t := by unfold State.tile; rw [hut]
    rw [this, tile_modTile _ (by rw [← hvd, modTile_length]; exact ht), ← hvd]
    rfl
  have hbegin : v.beginOne t = some u := by
    have ha : v.arrBegin t = none := by
      have harrQ : (v.tile t).arrQ = [] := by rw [hvt]; exact (hg.arrQ _).trans hr
      simp [State.arrBegin, harrQ]
    simp [State.beginOne, ha, hu]
  obtain ⟨-, -, -, kq, ka, kp, ks, ko, -⟩ := vTake_keeps { v.tile t with vxeQ := [] } q (fun a n => s.sramRead t a n)
  have hquiet : Quiet (u.tile t) := by
    rw [hutile]
    exact ⟨ka.trans (by rw [hvt]; exact (hg.arrQ _).trans hr), kq, kp.trans (by rw [hvt]; exact (hg.porQ _).trans hp),
      ks.trans (by rw [hvt]; exact (hg.sigQ _).trans hsq), ko.trans (by rw [hvt]; exact (hg.ops _).trans ho)⟩
  refine ⟨u, pump_one (by rw [← hvd]; exact h.live) (by rw [← hvd]; exact hh) hbegin hquiet, ?_, ?_⟩
  · rw [hus, ← hvd]
    rfl
  · rw [hutile, hvt]

theorem atIssue_id : AtIssue id :=
  ⟨fun _ => rfl, fun _ => rfl, fun _ => rfl, fun _ => rfl, fun _ => rfl, fun _ => rfl, fun _ => rfl, fun _ => rfl, fun _ => rfl⟩

theorem atIssue_setStep (f : VecF) : AtIssue (Tile.setStep f) :=
  ⟨fun _ => rfl, fun _ => rfl, fun _ => rfl, fun _ => rfl, fun _ => rfl, fun _ => rfl, fun _ => rfl, fun _ => rfl, fun _ => rfl⟩

theorem atIssue_setVetoMask (f : VecF) : AtIssue (Tile.setVetoMask f) :=
  ⟨fun _ => rfl, fun _ => rfl, fun _ => rfl, fun _ => rfl, fun _ => rfl, fun _ => rfl, fun _ => rfl, fun _ => rfl, fun _ => rfl⟩

theorem vSpans_length (kind : VKind) (f : VecF) (a : Nat) : (vSpans kind f a).length ≤ 1 := by
  unfold vSpans
  split
  case h_3 => split <;> simp
  all_goals simp

theorem begun_issuing {ram : Nat → Nat → List Byte} {q : VItem} {r : VRes} {x : Tile} {sl : Slot}
    (h : x.issuing = some (q.info.slot, sl)) : ∃ z, (begun ram q r x).issuing = some (q.info.slot, z) ∧ z.ip = sl.ip :=
  vTake_issuing (x := { x with vxeQ := [] }) h

/-- Each vector instruction but VSET STEP and VETO_MASK changes nothing at its issue. -/
theorem exec_vector {s : State} {t : Nat} {f : VecF} {el : MxElem} {i : Instr} {kind : VKind} (ht : t < 384)
    (h : (i, kind) ∈ [(Instr.vld t f none, VKind.vld), (.vst t f, .vst), (.vpop t f, .vpop), (.valu t f, .valu), (.vfnOp t f, .vfn),
      (.vred t f, .vred), (.vsmx t f, .vsmx), (.vperm t f, .vperm), (.vshuf t f, .vshuf), (.vpack t f, .vpack),
      (.vunpk t f, .vunpk), (.vqk4 t f, .vqk4), (.vmxiImport t f el, .vmxiImport el), (.vmxiScan t f, .vmxiScan),
      (.vrng t f, .vrng), (.vmask t f, .vmask), (.vlossAdd t f, .vlossAdd), (.vlossDump t f, .vlossDump), (.vtree t f, .vtree),
      (.vscmp t f, .vscmp), (.vamax t f, .vamax), (.vflag t f, .vflag), (.vsetSeqtab t f, .vsetSeqtab)]) :
    exec i s = .next (s.vIssue t kind f id) ∧ kind ≠ .vset := by
  suffices hex : exec i s = onInst (t < 384) s (fun s => s.vIssue t kind f id) ∧ kind ≠ .vset from
    ⟨hex.1.trans (if_pos (decide_eq_true ht)), hex.2⟩
  simp only [List.mem_cons, List.not_mem_nil, or_false, Prod.mk.injEq] at h
  rcases h with ⟨rfl, rfl⟩ | ⟨rfl, rfl⟩ | ⟨rfl, rfl⟩ | ⟨rfl, rfl⟩ | ⟨rfl, rfl⟩ | ⟨rfl, rfl⟩ | ⟨rfl, rfl⟩ | ⟨rfl, rfl⟩ | ⟨rfl, rfl⟩ |
    ⟨rfl, rfl⟩ | ⟨rfl, rfl⟩ | ⟨rfl, rfl⟩ | ⟨rfl, rfl⟩ | ⟨rfl, rfl⟩ | ⟨rfl, rfl⟩ | ⟨rfl, rfl⟩ | ⟨rfl, rfl⟩ | ⟨rfl, rfl⟩ | ⟨rfl, rfl⟩ |
    ⟨rfl, rfl⟩ | ⟨rfl, rfl⟩ | ⟨rfl, rfl⟩ | ⟨rfl, rfl⟩ <;> exact ⟨rfl, nofun⟩

/-- Settles O8. -/
theorem vectorBegins : Obligations.VectorBegins := by
  refine ⟨fun s t a f => rfl, fun s t k sl f el i kind q hik hq hw hsp => ⟨fun h ha hlen hx hfit => ?_,
    fun h hh hrec hpop hbad r hres => ?_⟩⟩
  · obtain ⟨he, hk⟩ := exec_vector (s := s) h.inst hik
    rw [he, vIssue_issues h hq ha hlen hw ?_ hsp hfit]
    · rfl
    · cases kind <;> simp_all [vByXa]
  · obtain ⟨he, hk⟩ := exec_vector (s := s) h.inst hik
    have ht := tile_lt h.issuing
    have hspans := vSpans_length kind f q.addr
    obtain ⟨u, hu, hus, hut⟩ := vIssue_begins h hh atIssue_id hq hw hsp (by omega) hrec hpop hbad (r := r)
        (by rw [vEnv_queued ht]; exact hres)
    have hslot : q.info.slot = k := by rw [hq]; rfl
    obtain ⟨kr, ki, kg, kv, -, -, -, -, kn⟩ := vTake_keeps { vQueued id q (vSpans kind f q.addr) k (s.tile t) with vxeQ := [] } q
      (fun a n => s.sramRead t a n)
    have hiss : (vQueued id q (vSpans kind f q.addr) k (s.tile t)).issuing = some (q.info.slot, { sl with ip := sl.ip + 1 }) := by
      rw [hslot]
      exact issuing_issued h.issuing
    obtain ⟨z, hz, hzip⟩ := begun_issuing (ram := fun a n => s.sramRead t a n) (r := r) hiss
    refine ⟨u, by rw [he, hu], ?_, ?_, ?_, hus, ?_, z, ?_, hzip, ?_⟩
    · rw [hut]
      exact congrArg (· ++ [r]) (ki.trans h.inflight)
    · rw [hut]
      exact kr
    · rw [hut]
      exact kg
    · rw [hut]
      exact kv
    · rw [hut, hz, hslot]
    · rw [hut]
      exact kn

/-! VSET STEP and VSET VETO_MASK. -/

section
variable {s : State} {t k : Nat} {sl : Slot} {f : VecF} (h0 : f.fmt = 0) (h2 : f.fmt2 = 0) (ha : f.amxe = false)
include h0 h2 ha

theorem vset_wellFormed (i : Info) (a : Nat) : vWellFormed ⟨i, .vset, f, a⟩ = true := by
  simp [vWellFormed, vFmtOk, vAmxOk, vBlockOk, vReads, vWrites, h0, h2, ha]

theorem vset_issues (h : Issues s t k sl) (hq : (s.tile t).vxeQ.length < 4)
    (hx : (s.tile t).scaWritten (s.tile t).nextId f.xa = false) (hn : (s.tile t).track.length ≤ 16) {g : Tile → Tile} :
    s.vIssue t .vset f g = (s.modTile t (vQueued g ⟨infoAt s t k sl, .vset, f, f.base * 64⟩ [] k)).pump t :=
  vIssue_issues h rfl (by simp [vSpans]) hq (vset_wellFormed h0 h2 ha _ _) (by simp [hx]) (by rfl)
      (by simpa [Tile.trackFits, vSpans] using hn)

theorem vset_begins (h : Ready s t k sl) (hh : s.held .tile t = false) {g : Tile → Tile} (hg : AtIssue g) :
    ∃ u, s.vIssue t .vset f g = u ∧ u.tile t = begun (fun a n => s.sramRead t a n) ⟨infoAt s t k sl, .vset, f, f.base * 64⟩
      (emptyRes ⟨infoAt s t k sl, .vset, f, f.base * 64⟩) (vQueued g ⟨infoAt s t k sl, .vset, f, f.base * 64⟩ [] k (s.tile t)) := by
  obtain ⟨u, hu, -, hut⟩ := vIssue_begins h hh (kind := .vset) (f := f) (q := ⟨infoAt s t k sl, .vset, f, f.base * 64⟩) hg rfl
    (vset_wellFormed h0 h2 ha _ _) rfl (by simp [vSpans]) rfl nofun (by simp [vSpans]) rfl
  exact ⟨u, hu, hut⟩
end

theorem register_nil (x : Tile) (i : Info) : x.register i [] = x := by
  simp [Tile.register]

theorem execVset_runs {s : State} {t : Nat} {f : VecF} (h : t < 384) :
    execVsetStep t f s = .next (s.vIssue t .vset f (Tile.setStep f)) ∧
      execVsetVetoMask t f s = .next (s.vIssue t .vset f (Tile.setVetoMask f)) :=
  ⟨if_pos (decide_eq_true h), if_pos (decide_eq_true h)⟩

/-- Settles O9. -/
theorem vsetTakesAtIssue : Obligations.VsetTakesAtIssue := by
  refine ⟨fun s t k sl f h h0 h2 ha hq hx hn q hqi => ?_, fun s t k sl f h hh h0 h2 ha => ?_⟩
  · obtain ⟨hs, hv⟩ := execVset_runs (s := s) (f := f) h.inst
    subst hqi
    refine ⟨hs.trans ?_, hv.trans ?_⟩ <;> rw [vset_issues h0 h2 ha h hq hx hn]
    · exact congrArg (fun v => Host.Outcome.next (State.pump v t)) (modTile_congr (by simp only [vQueued, register_nil]; rfl))
    · exact congrArg (fun v => Host.Outcome.next (State.pump v t)) (modTile_congr (by simp only [vQueued, register_nil]; rfl))
  · obtain ⟨hs, hv⟩ := execVset_runs (s := s) (f := f) h.inst
    obtain ⟨u, hu, hut⟩ := vset_begins h0 h2 ha h hh (atIssue_setStep f)
    obtain ⟨w, hw, hwt⟩ := vset_begins h0 h2 ha h hh (atIssue_setVetoMask f)
    have hin := h.inflight
    refine ⟨⟨u, hs.trans (congrArg _ hu), ?_, ?_, ?_, ?_, emptyRes ⟨infoAt s t k sl, .vset, f, f.base * 64⟩, ?_, rfl, rfl, rfl, rfl⟩,
      w, hv.trans (congrArg _ hw), ?_, ?_, fun b hb => ?_, ?_, ?_, emptyRes ⟨infoAt s t k sl, .vset, f, f.base * 64⟩, ?_, rfl, rfl, rfl⟩
    · rw [hut]; rfl
    · rw [hut]; rfl
    · rw [hut]; rfl
    · rw [hut]; rfl
    · rw [hut]
      exact congrArg (· ++ [_]) hin
    · rw [hwt]; rfl
    · rw [hwt]; rfl
    · rw [hwt]
      show (((s.tile t).reg f.xa).toNat &&& 0x7F007F ||| vetoForced).testBit b = true
      rw [Nat.testBit_or, show vetoForced.testBit b = true from hb, Bool.or_true]
    · rw [hwt]; rfl
    · rw [hwt]; rfl
    · rw [hwt]
      exact congrArg (· ++ [_]) hin

end Sys2Proof.Proofs.VectorIssue
end

section
/-! PROOFS. A vector result lands: O10. -/
namespace Sys2Proof.Proofs.VectorResult

open Sys2Proof Sys2Proof.Machine Sys2Proof.Laws Sys2Proof.Safety

/-! Operations of a result that leave the tiles, tile SRAM and HBM alone. -/

/-- v has the tiles, the tile SRAM and the HBM of s. -/
structure SameTiles (s v : State) : Prop where
  tiles : v.tiles = s.tiles
  sram : v.sram = s.sram
  hbm : v.hbm = s.hbm

theorem SameTiles.refl (s : State) : SameTiles s s := ⟨rfl, rfl, rfl⟩

theorem SameTiles.trans {s v w : State} (h : SameTiles s v) (k : SameTiles v w) : SameTiles s w :=
  ⟨k.tiles.trans h.tiles, k.sram.trans h.sram, k.hbm.trans h.hbm⟩

theorem SameTiles.tile {s v : State} (h : SameTiles s v) (t : Nat) : v.tile t = s.tile t := by
  unfold State.tile
  rw [h.tiles]

theorem sameTiles_sampled {s v : State} (h : Sampled s v) : SameTiles s v := by
  obtain ⟨d, m, e, q, rfl⟩ := h
  exact ⟨rfl, rfl, rfl⟩

theorem sameTiles_post (s : State) (p : Option Nat) (e src layer op detail : Nat) : SameTiles s (s.post p e src layer op detail) :=
  sameTiles_sampled (sampled_post s p e src layer op detail)

theorem sameTiles_setVeto (s : State) (d step : Nat) (v : Veto) (source layer op : Nat) :
    SameTiles s (s.setVeto d step v source layer op) := by
  unfold State.setVeto
  split
  · exact .refl s
  · split
    · exact sameTiles_post ..
    · exact ⟨rfl, rfl, rfl⟩

theorem sameTiles_foldl {α : Type} {f : State → α → State} (h : ∀ s a, SameTiles s (f s a)) :
    ∀ (l : List α) (s : State), SameTiles s (l.foldl f s)
  | [], s => .refl s
  | a :: l, s => (h s a).trans (sameTiles_foldl h l (f s a))

theorem sameTiles_shadowFeed (s : State) (d m layer op imm : Nat) (us : List Nat) : SameTiles s (s.shadowFeed d m layer op imm us) := by
  unfold State.shadowFeed
  dsimp only
  split
  · exact sameTiles_sampled (sampled_modMon s d m _)
  split
  · exact .refl s
  · exact sameTiles_foldl (fun v u => sameTiles_sampled (sampled_sample v d m u _)) us s

/-! What a result changes in its tile. -/

/-- Flags reach the tile's sticky word, and of the slots the flags alone. -/
theorem raiseFlags_tile {s : State} {t : Nat} (ht : t < s.tiles.length) (i : Info) (fl : Nat) :
    ∃ l, (s.raiseFlags t i fl).tile t =
      { s.tile t with slots := l, vxe := { (s.tile t).vxe with tileFlags := (s.tile t).vxe.tileFlags ||| fl } } := by
  unfold State.raiseFlags
  split
  · next h => exact ⟨(s.tile t).slots, by rw [h, Nat.or_zero]⟩
  · dsimp only
    rw [(sameTiles_setVeto _ _ _ _ _ _ _).tile, tile_modTile _ ht]
    split
    · exact ⟨_, rfl⟩
    · exact ⟨_, rfl⟩

theorem raiseFlags_keeps (s : State) (t : Nat) (i : Info) (fl : Nat) : (s.raiseFlags t i fl).sram = s.sram ∧
    (s.raiseFlags t i fl).hbm = s.hbm ∧ (s.raiseFlags t i fl).tiles.length = s.tiles.length := by
  unfold State.raiseFlags
  split
  · exact ⟨rfl, rfl, rfl⟩
  · have h := sameTiles_setVeto
    exact ⟨(h _ _ _ _ _ _ _).sram, (h _ _ _ _ _ _ _).hbm, by rw [(h _ _ _ _ _ _ _).tiles, modTile_length]⟩

theorem foldl_sramWrite_tiles (t : Nat) : ∀ (l : List (Nat × List Byte)) (s : State),
    (l.foldl (fun s e => s.sramWrite t e.1 e.2) s).tiles = s.tiles ∧ (l.foldl (fun s e => s.sramWrite t e.1 e.2) s).hbm = s.hbm
  | [], _ => ⟨rfl, rfl⟩
  | e :: l, s => foldl_sramWrite_tiles t l (s.sramWrite t e.1 e.2)

theorem foldl_sramWrite_sram (t : Nat) : ∀ {l : List (Nat × List Byte)} {s v : State}, v.sram = s.sram →
    (l.foldl (fun s e => s.sramWrite t e.1 e.2) v).sram = (l.foldl (fun s e => s.sramWrite t e.1 e.2) s).sram
  | [], _, _, h => h
  | e :: l, s, v, h => foldl_sramWrite_sram t (s := s.sramWrite t e.1 e.2) (v := v.sramWrite t e.1 e.2)
    (by simp only [State.sramWrite, h])

/-- The tile's tokens with one more in a result's counter. -/
def signalled (sig : Option Nat) (tokens : List Nat) : List Nat :=
  match sig with
  | some k => tokens.set k (tokens.getD k 0 + 1)
  | none => tokens

theorem sigToken_within {s : State} {t : Nat} {sig : Option Nat}
    (h : ∀ k, sig = some k → (s.tile t).tokens.getD k 0 + 1 ≤ 65535) :
    s.sigToken t sig = s.modTile t fun x => { x with tokens := signalled sig x.tokens } := by
  cases sig with
  | none => exact (modTile_id _ rfl).symm
  | some k => exact Signals.addToken_within (h k rfl)

/-- The tile once the result r is written and its flags, in the slots of l, are raised. -/
def landed (r : VRes) (l : List (Option Slot)) (x : Tile) : Tile :=
  { (x.vWrite r).release r.info.id with
    slots := l
    tokens := signalled r.sig x.tokens
    vxe := { (x.vWrite r).vxe with tileFlags := x.vxe.tileFlags ||| r.flags } }

theorem vApply_tile {s : State} {t : Nat} (ht : t < s.tiles.length) (r : VRes)
    (h : ∀ k, r.sig = some k → (s.tile t).tokens.getD k 0 + 1 ≤ 65535) :
    ∃ l, (s.vApply t r).tile t = landed r l (s.tile t) ∧
      (s.vApply t r).sram = (r.sram.foldl (fun s e => s.sramWrite t e.1 e.2) s).sram ∧ (s.vApply t r).hbm = s.hbm := by
  unfold State.vApply
  dsimp only
  generalize hs1 : s.modTile t (fun x => (x.vWrite r).release r.info.id) = s1
  have h1 : s1.tile t = (Tile.vWrite (s.tile t) r).release r.info.id := by rw [← hs1, tile_modTile _ ht]
  generalize hs2 : r.sram.foldl (fun s e => s.sramWrite t e.1 e.2) s1 = s2
  obtain ⟨htiles, hhbm⟩ := foldl_sramWrite_tiles t r.sram s1
  rw [hs2] at htiles hhbm
  have h2 : s2.tile t = s1.tile t := by unfold State.tile; rw [htiles]
  have ht2 : t < s2.tiles.length := by rw [htiles, ← hs1, modTile_length]; exact ht
  obtain ⟨l, h3⟩ := raiseFlags_tile ht2 r.info r.flags
  obtain ⟨h3s, h3h, h3l⟩ := raiseFlags_keeps s2 t r.info r.flags
  generalize s2.raiseFlags t r.info r.flags = s3 at h3 h3s h3h h3l ⊢
  suffices hsig : ∀ s4, SameTiles s3 s4 → ∃ l, (s4.sigToken t r.sig).tile t = landed r l (s.tile t) ∧
      (s4.sigToken t r.sig).sram = (r.sram.foldl (fun s e => s.sramWrite t e.1 e.2) s).sram ∧ (s4.sigToken t r.sig).hbm = s.hbm by
    refine hsig _ ?_
    split
    · exact sameTiles_shadowFeed ..
    · exact .refl s3
  intro s4 h4
  have h4t : s4.tile t =
      { s1.tile t with slots := l, vxe := { (s1.tile t).vxe with tileFlags := (s1.tile t).vxe.tileFlags ||| r.flags } } := by
    rw [h4.tile, h3, h2]
  have htok : (s4.tile t).tokens = (s.tile t).tokens := by rw [h4t, h1]; rfl
  rw [sigToken_within (by rw [htok]; exact h)]
  refine ⟨l, ?_, ?_, ?_⟩
  · rw [tile_modTile _ (by rw [h4.tiles, h3l]; exact ht2), htok, h4t, h1]
    rfl
  · rw [modTile_sram, h4.sram, h3s, ← hs2]
    exact foldl_sramWrite_sram t (by rw [← hs1]; rfl)
  · rw [modTile_hbm, h4.hbm, h3h, hhbm, ← hs1]
    rfl

theorem signalled_getD {tokens : List Nat} {k : Nat} (hk : k < tokens.length) :
    (signalled (some k) tokens).getD k 0 = tokens.getD k 0 + 1 := by
  simp [signalled, hk]

theorem getD_modAt_max {l : List Nat} {n v : Nat} (hn : n < l.length) : (modAt l n fun o => max o v).getD n 0 = max (l.getD n 0) v := by
  simp [modAt, hn]

/-- The bytes that a result's one store leaves in its tile's SRAM. -/
theorem sramRead_store {s : State} {t a : Nat} {bs : List Byte} (hw : Safety.Memory.wf s = true) (ha : a + bs.length ≤ 2 ^ 21) :
    (s.sramWrite t a bs).sramRead t a bs.length = bs ∧
      ∀ b, b < 2 ^ 21 → b < a ∨ a + bs.length ≤ b → (s.sramWrite t a bs).sramRead t b 1 = s.sramRead t b 1 := by
  refine ⟨sramRead_sramWrite hw, fun b hb hout => ?_⟩
  cases bs with
  | nil => rfl
  | cons c bs => exact sramRead_sramWrite_outside hw ha (by omega) (by omega) (by omega) (by simp)

/-- Settles O10. -/
theorem vectorResultsLand : Obligations.VectorResultsLand := by
  intro s t k r h384 ht hl hk
  have hexec : exec (.vxeResultWrite t k) s = .next (((s.modTile t fun x =>
      { x with vxe := { x.vxe with inflight := x.vxe.inflight.eraseIdx k } }).vApply t r).pump t) := by
    refine (show execVxeResultWrite t k s = _ from ?_)
    simp only [execVxeResultWrite, onInst, h384, decide_true, ↓reduceIte, hk, hl, Bool.not_true, Bool.false_eq_true]
  refine ⟨hexec, fun hq hw htok => ?_⟩
  generalize hv : s.modTile t (fun x => { x with vxe := { x.vxe with inflight := x.vxe.inflight.eraseIdx k } }) = v at hexec
  have hvt : v.tile t = { s.tile t with vxe := { (s.tile t).vxe with inflight := (s.tile t).vxe.inflight.eraseIdx k } } := by
    rw [← hv, tile_modTile _ ht]
  have hvsram : v.sram = s.sram := by rw [← hv]; rfl
  obtain ⟨l, hu, hsram, hhbm⟩ := vApply_tile (s := v) (by rw [← hv, modTile_length]; exact ht) r (by rw [hvt]; exact htok)
  generalize v.vApply t r = u at hexec hu hsram hhbm
  obtain ⟨hr, hvx, hp, hsq, ho⟩ := hq
  have hquiet : Quiet (u.tile t) := by
    rw [hu, hvt]
    exact ⟨hr, hvx, hp, hsq, ho⟩
  rw [pump_quiet hquiet] at hexec
  have hread : ∀ a n, u.sramRead t a n = (r.sram.foldl (fun s e => s.sramWrite t e.1 e.2) s).sramRead t a n := by
    intro a n
    unfold State.sramRead
    rw [hsram, foldl_sramWrite_sram t hvsram]
  refine ⟨u, hexec, ?_, ?_, ?_, ?_, fun n v hn hlen => ?_, fun tok hs hlen => ?_, fun he => ?_, fun a bs he ha => ?_, fun e he => ?_, ?_⟩
  · rw [hu, hvt]; rfl
  · rw [hu, hvt]; rfl
  · rw [hu, hvt]; rfl
  · rw [hu, hvt]; rfl
  · rw [hu, hvt]
    simp only [landed, Tile.vWrite, hn]
    exact getD_modAt_max hlen
  · rw [hu, hvt]
    simp only [landed, hs]
    exact signalled_getD hlen
  · rw [hsram, he]
    exact hvsram
  · simp only [hread, he]
    exact sramRead_store hw ha
  · rw [hu] at he
    have hm : e ∈ (Tile.vWrite (v.tile t) r).track.filter (fun e => e.id != r.info.id) := he
    simpa using (List.mem_filter.mp hm).2
  · rw [hhbm, ← hv]
    rfl

end Sys2Proof.Proofs.VectorResult
end

section
/-! PROOFS. The issue of the porter's instructions: O14. -/
namespace Sys2Proof.Proofs.PorterIssue

open Sys2Proof Sys2Proof.Machine Sys2Proof.Laws Sys2Proof.Safety Sys2Proof.Proofs.Sequencer Sys2Proof.Proofs.Matrix

section
variable {s : State} {t k : Nat} {sl : Slot} (h : Issues s t k sl)
  (hf : (sl.acqOps.any (s.tile t).opOpen || !(sl.rels.all fun r => s.released r.1 t sl.inst r.2)) = false)
include h hf

/-- An instruction of the porter that no acquire and no release holds. -/
theorem issue_porter (act : Nat → Slot → Info → Issue) :
    s.issue t false true act = issuedAs s t k (infoAt s t k sl) (act k sl (infoAt s t k sl)) :=
  issue_issues h (by simpa using hf) act

section
variable {kind : PKind} {f : PorF}

theorem porIssue_full (hq : 4 ≤ (s.tile t).porQ.length) : s.porIssue t kind f = s.pump t := by
  rw [State.porIssue, issue_porter h hf, if_pos hq]
  rfl

theorem porIssue_bad (hq : (s.tile t).porQ.length < 4) (hb : porBad kind f = true) :
    s.porIssue t kind f = (s.fault t (infoAt s t k sl) true 1 0x01 sl.ip).pump t := by
  rw [State.porIssue, issue_porter h hf, if_neg (by omega), if_pos hb]
  rfl

theorem porIssue_waits (hq : (s.tile t).porQ.length < 4) (hb : porBad kind f = false)
    (hx : (f.xre && (s.tile t).scaWritten (s.tile t).nextId f.xr) = true) : s.porIssue t kind f = s.pump t := by
  rw [State.porIssue, issue_porter h hf, if_neg (by omega), if_neg (by simp [hb]),
    if_pos (show (f.xre && (s.tile t).scaWritten (infoAt s t k sl).id f.xr) = true from hx)]
  rfl

theorem porIssue_queues (hq : (s.tile t).porQ.length < 4) (hb : porBad kind f = false)
    (hx : (f.xre && (s.tile t).scaWritten (s.tile t).nextId f.xr) = false)
    (hsp : (s.tile t).spansBreach sl (porSpans kind f (porIdx kind ((s.tile t).reg f.xr).toNat)) = none)
    (hfit : (s.tile t).trackFits (porSpans kind f (porIdx kind ((s.tile t).reg f.xr).toNat)) = true) :
    s.porIssue t kind f = (s.modTile t fun x => issued (
      let z := { x.register (infoAt s t k sl) (porSpans kind f (porIdx kind ((s.tile t).reg f.xr).toNat)) with
        porQ := x.porQ ++ [PorOp.new (infoAt s t k sl) kind f (porAddr kind f ((s.tile t).reg f.xr).toNat)
          (porIdx kind ((s.tile t).reg f.xr).toNat)] }
      if porAcquires kind f then
        z.modSlot k fun sl => { sl with acqOps := sl.acqOps ++ [(infoAt s t k sl).id] } else z) k).pump t := by
  rw [State.porIssue, issue_porter h hf, if_neg (by omega), if_neg (by simp [hb])]
  have hx' : ¬(f.xre && (s.tile t).scaWritten (infoAt s t k sl).id f.xr) = true := by
    rw [show (infoAt s t k sl).id = (s.tile t).nextId from rfl, hx]
    decide
  rw [if_neg hx']
  simp only [hsp, hfit, Bool.not_true, Bool.false_eq_true, ↓reduceIte]
  rw [issuedAs, issued_modTile]
  rfl
end

theorem reefIssue_queues {kind : PKind} {f : PorF} {hold : Bool} {elem : Nat} (hq : (s.tile t).porQ.length < 4) (hh : hold = false)
    (hsp : (s.tile t).spansBreach sl (porSpans kind f 0) = none) (hfit : (s.tile t).trackFits (porSpans kind f 0) = true) :
    s.reefIssue t kind f hold elem = (s.modTile t fun x => issued
      { x.register (infoAt s t k sl) (porSpans kind f 0) with porQ := x.porQ ++ [PorOp.new (infoAt s t k sl) kind f 0 elem] }
          k).pump t := by
  rw [State.reefIssue, issue_porter h hf, if_neg (by simp [hh]; omega)]
  simp only [hsp, hfit, Bool.not_true, Bool.false_eq_true, ↓reduceIte]
  rw [issuedAs, issued_modTile]
  rfl

theorem execReefPut_queues {f : ReefPutF} (hq : (s.tile t).porQ.length < 4)
    (hx : (f.xre && (s.tile t).scaWritten (s.tile t).nextId f.xr) = false)
    (hsp : (s.tile t).spansBreach sl [⟨f.lbase * 64, 64 * f.len, false⟩] = none)
    (hfit : (s.tile t).trackFits [⟨f.lbase * 64, 64 * f.len, false⟩] = true) :
    execReefPut t f s = .next ((s.modTile t fun x => issued
      { x.register (infoAt s t k sl) [⟨f.lbase * 64, 64 * f.len, false⟩] with
        porQ := x.porQ ++ [PorOp.new (infoAt s t k sl) (.reefPut f.bucket f.group) (reefF f.lbase f.len f.sigTok f.sig) 0
          (f.elemOfs + if f.xre then ((s.tile t).reg f.xr).toNat else 0)] } k).pump t) :=
  (onInst_issues h _).trans (congrArg _ (reefIssue_queues h hf hq hx hsp hfit))

theorem execReefClose_queues {group sigTok : Nat} {sig : Bool} (hq : (s.tile t).porQ.length < 4)
    (hfit : (s.tile t).trackFits [] = true) :
    execReefClose t group sigTok sig s = .next ((s.modTile t fun x => issued
      { x with porQ := x.porQ ++ [PorOp.new (infoAt s t k sl) (.reefClose group) (reefF 0 0 sigTok sig) 0 0] } k).pump t) := by
  refine (onInst_issues h _).trans (congrArg _ ((reefIssue_queues (kind := .reefClose group) h hf hq rfl rfl hfit).trans ?_))
  exact congrArg (State.pump · t) (modTile_congr (by simp [porSpans, VectorIssue.register_nil]))
end

theorem exec_porter {s : State} {t : Nat} {f : PorF} {i : Instr} {kind : PKind} (ht : t < 384)
    (h : (i, kind) ∈ [(Instr.prd t f, PKind.prd), (.pwr t f, .pwr), (.pland t f, .pland), (.pgath t f, .pgath), (.pscat t f, .pscat),
      (.pamo t f, .pamo)]) : exec i s = .next (s.porIssue t kind f) := by
  suffices hex : exec i s = onInst (t < 384) s (fun s => s.porIssue t kind f) from hex.trans (if_pos (decide_eq_true ht))
  simp only [List.mem_cons, List.not_mem_nil, or_false, Prod.mk.injEq] at h
  rcases h with ⟨rfl, rfl⟩ | ⟨rfl, rfl⟩ | ⟨rfl, rfl⟩ | ⟨rfl, rfl⟩ | ⟨rfl, rfl⟩ | ⟨rfl, rfl⟩ <;> rfl

/-- Settles O14. -/
theorem porterIssueCompletes : Obligations.PorterIssueCompletes := by
  intro s t k sl h hf
  refine ⟨fun f i kind hik => ?_, fun hq => ⟨fun f hx hsp hfit => execReefPut_queues h hf hq hx hsp hfit,
    fun group sigTok sig hfit => execReefClose_queues h hf hq hfit⟩⟩
  rw [exec_porter h.inst hik]
  exact ⟨fun hq => congrArg _ (porIssue_full h hf hq), fun hq => ⟨fun hb => congrArg _ (porIssue_bad h hf hq hb),
    fun hb hx => congrArg _ (porIssue_waits h hf hq hb hx),
    fun hb hx hsp hfit => congrArg _ (porIssue_queues h hf hq hb hx hsp hfit)⟩⟩

end Sys2Proof.Proofs.PorterIssue
end

section
/-! PROOFS. A porter operation begins: O15. -/
namespace Sys2Proof.Proofs.PorterBegin

open Sys2Proof Sys2Proof.Machine Sys2Proof.Laws Sys2Proof.Safety

theorem execReleaseBegin_runs {s : State} {t id : Nat} (h : t < 384) : execReleaseBegin t id s = .next (s.releaseBegin t id) :=
  if_pos (decide_eq_true h)

theorem releaseBegin_other {s : State} {t id : Nat} (h : ∀ o ∈ (s.tile t).porQ.head?, o.info.id ≠ id ∨ o.isRelease = false) :
    s.releaseBegin t id = s := by
  unfold State.releaseBegin
  dsimp only
  split
  · rfl
  · next o rest hq =>
    rw [hq] at h
    refine if_neg ?_
    rcases h o rfl with hid | hr
    · simp [hid]
    · simp [hr]

/-- RELEASE_BEGIN of the head of the porter's queue. -/
theorem releaseBegin_head {s : State} {t : Nat} {o : PorOp} {rest : List PorOp} (hq : (s.tile t).porQ = o :: rest) :
    s.releaseBegin t o.info.id = if (o.isRelease && s.live t && !(s.tile t).blocked o.info.id (porSpans o.kind o.f o.elemOfs) &&
      s.released o.f.scope t o.info.inst o.info.id) = true then (s.porStart t o).pump t else s := by
  unfold State.releaseBegin
  simp only [hq, decide_true, Bool.true_and]

theorem porBegin_head {s : State} {t : Nat} {o : PorOp} {rest : List PorOp} (hq : (s.tile t).porQ = o :: rest)
    (hb : (s.tile t).blocked o.info.id (porSpans o.kind o.f o.elemOfs) = false) (hput : ∀ b g, o.kind ≠ .reefPut b g)
    (hclose : ∀ g, o.kind ≠ .reefClose g) : s.porBegin t = if o.isRelease then none else some (s.porStart t o) := by
  unfold State.porBegin
  simp only [hq, hb, Bool.false_eq_true, ↓reduceIte]
  split
  · next h => exact absurd h (hput _ _)
  · next h => exact absurd h (hclose _)
  all_goals rfl

/-- Settles O15. -/
theorem porterBegins : Obligations.PorterBegins := by
  refine ⟨fun s t id h hn => (execReleaseBegin_runs h).trans (congrArg _ (releaseBegin_other hn)),
    fun s t o rest h ht hl hq hb hput hclose => ⟨fun hr => ?_, fun hr => ?_, fun hr hrel => ?_, fun hrel => ?_, fun hrec hi hbr => ?_⟩⟩
  · rw [porBegin_head hq hb hput hclose, if_pos hr]
  · rw [porBegin_head hq hb hput hclose, if_neg (by simp [hr])]
  · exact (execReleaseBegin_runs h).trans (congrArg _ ((releaseBegin_head hq).trans (if_pos (by simp [hr, hl, hb, hrel]))))
  · exact (execReleaseBegin_runs h).trans (congrArg _ ((releaseBegin_head hq).trans (if_neg (by simp [hrel]))))
  · unfold State.porStart
    dsimp only
    split
    · next hh => rw [hrec] at hh; cases hh
    split
    · next hh =>
      rw [if_neg (by simp [hi])] at hh
      exact absurd (hbr.symm.trans hh) nofun
    rw [if_neg (by simp [hi]), if_neg (by simp [hi]), modTile_modTile, tile_modTile _ ht]
    refine ⟨_, rfl, rfl, rfl, ?_, rfl, rfl⟩
    simp [hq]

end Sys2Proof.Proofs.PorterBegin
end

section
/-! PROOFS. Answers to a porter operation land: O16. -/
namespace Sys2Proof.Proofs.PorterAnswer

open Sys2Proof Sys2Proof.Machine Sys2Proof.Laws Sys2Proof.Safety Sys2Proof.Proofs.VectorResult

/-- The first operation of a tile with a number. -/
def opOf (s : State) (t id : Nat) : Option PorOp := (s.tile t).ops.find? fun o => o.info.id == id

theorem opOf_id {s : State} {t id : Nat} {o : PorOp} (h : opOf s t id = some o) : o.info.id = id := by
  simpa using List.find?_some h

theorem opOf_congr {s v : State} (h : SameTiles s v) (t id : Nat) : opOf v t id = opOf s t id := by
  unfold opOf
  rw [h.tile]

theorem modOp_length (s : State) (t id : Nat) (f : PorOp → PorOp) : (s.modOp t id f).tiles.length = s.tiles.length :=
  modTile_length s t _

/-- An operation of any tile, after a change of one that keeps its number. -/
theorem opOf_modOp {s : State} {u id : Nat} {f : PorOp → PorOp} (hu : u < s.tiles.length) (hf : ∀ o, (f o).info.id = o.info.id)
    (t k : Nat) : opOf (s.modOp u id f) t k = (opOf s t k).map fun o => if u = t ∧ o.info.id = id then f o else o := by
  unfold opOf State.modOp
  by_cases h : u = t
  · subst h
    rw [tile_modTile _ hu, List.find?_map]
    have : ((fun o : PorOp => o.info.id == k) ∘ fun o => if o.info.id = id then f o else o) = fun o => o.info.id == k := by
      funext o
      dsimp only [Function.comp]
      split <;> simp [hf]
    rw [this]
    simp
  · rw [tile_modTile_ne _ h]
    simp [h]

/-! What a failed write does to the flag lines behind it leaves the answer that is taken where it is. -/

theorem sameTiles_inject (s : State) (p : Packet) : SameTiles s (s.inject p) := by
  unfold State.inject State.queuePkt
  split
  · exact ⟨rfl, rfl, rfl⟩
  split
  · exact ⟨rfl, rfl, rfl⟩
  split <;> exact ⟨rfl, rfl, rfl⟩

theorem sameTiles_returnCredits (s : State) (port vc cls n : Nat) : SameTiles s (s.returnCredits port vc cls n) := by
  unfold State.returnCredits
  split <;> exact ⟨rfl, rfl, rfl⟩

theorem sameTiles_tellFlag (s : State) (fl : FlagLine) (ptype status reason : Nat) : SameTiles s (s.tellFlag fl ptype status reason) := by
  unfold State.tellFlag
  split
  · exact sameTiles_inject s _
  all_goals exact .refl s

theorem sameTiles_flagGrant (s : State) (d : Nat) : SameTiles s (s.flagGrant d) := by
  unfold State.flagGrant
  dsimp only
  split
  · exact .refl s
  split
  · exact .refl s
  have h1 : ∀ f, SameTiles s (s.modDie d f) := fun f => ⟨rfl, rfl, rfl⟩
  split
  · exact (h1 _).trans ((sameTiles_returnCredits _ _ _ _ _).trans (sameTiles_tellFlag _ _ _ _ _))
  · exact h1 _

theorem sameTiles_flagFill (s : State) (d : Nat) : SameTiles s (s.flagFill d) :=
  sameTiles_foldl (fun s _ => sameTiles_flagGrant s d) _ s

/-- An answer x to operation id waits, in an operation that is o but for what flies and what waits. -/
def Waits (s : State) (t id r : Nat) (o : PorOp) (x : Resp) : Prop :=
  ∃ fl rs, opOf s t id = some { o with flying := fl, resps := rs } ∧ (rs.find? fun x => x.req == r) = some x

/-- Answers add to the end of those that wait. -/
theorem waits_answerTile {s : State} {t id r : Nat} {o : PorOp} {x : Resp} (h : Waits s t id r o x) (u op : Nat) (y : Resp) :
    Waits (s.answerTile u op y) t id r o x := by
  obtain ⟨fl, rs, ho, hx⟩ := h
  unfold State.answerTile
  by_cases hu : u < s.tiles.length
  · unfold Waits
    rw [opOf_modOp hu (fun o => by split <;> rfl), ho]
    dsimp only [Option.map]
    split
    · split
      · refine ⟨_, _, rfl, ?_⟩
        rw [List.find?_append, hx]
        rfl
      · exact ⟨_, _, rfl, hx⟩
    · exact ⟨_, _, rfl, hx⟩
  · have : s.modOp u op (fun o => if o.flying.contains y.req then { o with flying := o.flying.erase y.req, resps := o.resps ++ [y] }
        else o) = s := by
      unfold State.modOp State.modTile
      rw [show modAt s.tiles u _ = s.tiles from List.modify_eq_self (by omega)]
    rw [this]
    exact ⟨fl, rs, ho, hx⟩

theorem waits_answers {t id r : Nat} {o : PorOp} {x : Resp} (fin : ReqEnd) : ∀ (ws : List Who) (s : State), Waits s t id r o x →
    Waits (ws.foldl (fun s w => s.answer_ w fin [] none) s) t id r o x
  | [], _, h => h
  | w :: ws, s, h => by
    refine waits_answers fin ws _ ?_
    cases w with
    | tile u op q => exact waits_answerTile h u op _
    | remote _ _ => exact h
    | core => exact h
    | engine _ => exact h

theorem waits_dropFlags {s : State} {t id r : Nat} {o : PorOp} {x : Resp} (h : Waits s t id r o x) (u op : Nat) (fin : ReqEnd) :
    Waits (s.dropFlags u op fin) t id r o x := by
  unfold State.dropFlags
  refine waits_answers fin _ _ ?_
  have hs := sameTiles_foldl (fun s d => sameTiles_flagFill s d) [0, 1, 2, 3]
  obtain ⟨fl, rs, ho, hx⟩ := h
  refine ⟨fl, rs, ?_, hx⟩
  rw [opOf_congr (hs _)]
  exact ho

/-! Taking an answer in good order. -/

/-- The operation with the answer to request r taken. -/
def withTaken (r : Nat) (x : Resp) (o : PorOp) : PorOp :=
  { o with resps := o.resps.erase x, got := r :: o.got, sentAt := o.sentAt.filter fun e => e.1 != r }

/-- The state with the answer to request r taken, before its data land. -/
def answered (s : State) (t id r : Nat) (o : PorOp) (x : Resp) : State :=
  let s0 := s.charge (dieOfTile t) (s.region (regionOfTile t)).gear o.info.layer o.info.op (if o.isItem then evItem else evLine) 1
  ((s0.postLat t o r).credit t o.isItem true).modOp t id (withTaken r x)

/-- The operations whose answers carry data for the tile. -/
def reads (o : PorOp) : Bool :=
  match o.kind with
  | .prd | .pgath => true
  | .pamo => o.f.ret
  | .pwr | .pland | .pscat | .reefPut _ _ | .reefClose _ => false

/-- What an answer's data do: they land where the operation reads. -/
def landed (s : State) (t r : Nat) (o : PorOp) (x : Resp) : State :=
  if reads o && !x.data.isEmpty then s.deliver t o r x.data else s

/-- The operation ends with its last answer. -/
def endedIfDone (s : State) (t id : Nat) : State :=
  match opOf s t id with
  | some o => if o.total ≤ o.got.length then s.finishOp t o else s
  | none => s

theorem takeAnswer_ok {s : State} {t id r : Nat} {o : PorOp} {x : Resp} (crc : CrcOutcome) (ho : opOf s t id = some o)
    (hx : (o.resps.find? fun x => x.req == r) = some x) (hd : o.dead = false) (hf : x.fin = .ok) (hc : x.crc = none) :
    s.takeAnswer t id r crc = some (endedIfDone (landed (answered s t id r o x) t r o x) t id) := by
  unfold State.takeAnswer
  split
  case h_1 h => exact absurd (h.symm.trans ho) nofun
  case h_2 o' h =>
    obtain rfl : o' = o := Option.some.inj (h.symm.trans ho)
    split
    case h_1 h => exact absurd (h.symm.trans hx) nofun
    case h_2 x' h =>
      obtain rfl : x' = x := Option.some.inj (h.symm.trans hx)
      have hg : x'.fin.good = true := by rw [hf]; rfl
      simp only [hd, hf, hc, Bool.false_eq_true, if_false, if_true]
      rw [← hf, hg, Bool.true_and]
      rfl

theorem sameTiles_postLat (s : State) (t : Nat) (o : PorOp) (r : Nat) : SameTiles s (s.postLat t o r) := by
  unfold State.postLat
  cases o.sentAt.find? fun e => e.1 == r with
  | none => exact .refl s
  | some e =>
    dsimp only
    generalize (if o.isItem then srcGravelLat else _ : Nat) = src
    split
    · exact .refl s
    · exact sameTiles_sampled (sampled_emit s _ _ _ _ _ _ _ _)

theorem sameTiles_charge (s : State) (d gear layer op kind n : Nat) : SameTiles s (s.charge d gear layer op kind n) := by
  unfold State.charge
  split <;> exact ⟨rfl, rfl, rfl⟩

theorem sameTiles_credit (s : State) (t : Nat) (item give : Bool) : SameTiles s (s.credit t item give) := ⟨rfl, rfl, rfl⟩

theorem sameTiles_beforeAnswered (s : State) (t r : Nat) (o : PorOp) (gear layer op kind : Nat) :
    SameTiles s (((s.charge (dieOfTile t) gear layer op kind 1).postLat t o r).credit t o.isItem true) :=
  (sameTiles_charge s _ _ _ _ _ _).trans ((sameTiles_postLat _ t o r).trans (sameTiles_credit _ t o.isItem true))

theorem answered_sram (s : State) (t id r : Nat) (o : PorOp) (x : Resp) : (answered s t id r o x).sram = s.sram :=
  (sameTiles_beforeAnswered s t r o _ _ _ _).sram

theorem answered_hbm (s : State) (t id r : Nat) (o : PorOp) (x : Resp) : (answered s t id r o x).hbm = s.hbm :=
  (sameTiles_beforeAnswered s t r o _ _ _ _).hbm

theorem answered_length (s : State) (t id r : Nat) (o : PorOp) (x : Resp) : (answered s t id r o x).tiles.length = s.tiles.length := by
  have := (sameTiles_beforeAnswered s t r o (s.region (regionOfTile t)).gear o.info.layer o.info.op
    (if o.isItem then evItem else evLine)).tiles
  unfold answered
  rw [modOp_length, this]

theorem opOf_answered {s : State} {t id r : Nat} {o : PorOp} {x : Resp} (hl : t < s.tiles.length) (ho : opOf s t id = some o) :
    opOf (answered s t id r o x) t id = some (withTaken r x o) := by
  have h0 := sameTiles_beforeAnswered s t r o (s.region (regionOfTile t)).gear o.info.layer o.info.op
    (if o.isItem then evItem else evLine)
  unfold answered
  rw [opOf_modOp (f := withTaken r x) (by rw [h0.tiles]; exact hl) (fun _ => rfl), opOf_congr h0, ho]
  simp [opOf_id ho]

theorem deliver_writes (s : State) (t : Nat) (o : PorOp) (r : Nat) (data : List Byte) :
    ∃ a bs, s.deliver t o r data = s.sramWrite t a bs := by
  unfold State.deliver
  cases o.turn
  · exact ⟨o.local_ r, data, rfl⟩
  · exact ⟨_, _, rfl⟩

theorem landed_writes (s : State) (t r : Nat) (o : PorOp) (x : Resp) : landed s t r o x = s ∨ ∃ a bs, landed s t r o x =
    s.sramWrite t a bs := by
  unfold landed
  split
  · exact .inr (deliver_writes s t o r x.data)
  · exact .inl rfl

theorem landed_tiles (s : State) (t r : Nat) (o : PorOp) (x : Resp) : (landed s t r o x).tiles = s.tiles := by
  obtain h | ⟨a, bs, h⟩ := landed_writes s t r o x <;> rw [h]
  rfl

theorem landed_hbm (s : State) (t r : Nat) (o : PorOp) (x : Resp) : (landed s t r o x).hbm = s.hbm := by
  obtain h | ⟨a, bs, h⟩ := landed_writes s t r o x <;> rw [h]
  rfl

theorem landed_write {s : State} {t r : Nat} {o : PorOp} {x : Resp} (hw : o.isWrite = true) (hk : o.kind ≠ .pamo) :
    landed s t r o x = s := by
  have : reads o = false := by
    unfold reads
    unfold PorOp.isWrite at hw
    cases h : o.kind <;> simp_all
  rw [landed, this]
  rfl

theorem landed_read {s : State} {t r : Nat} {o : PorOp} {x : Resp} (hk : o.kind = .prd) (hs : o.f.sub % 4 = 0) (hx : x.data.length = 64) :
    landed s t r o x = s.sramWrite t (o.f.lbase * 64 + 64 * r) x.data := by
  have he : x.data.isEmpty = false := by
    cases h : x.data with
    | nil => simp [h] at hx
    | cons b bs => rfl
  have ht : o.turn = false := by simp [PorOp.turn, hk, hs]
  have hi : o.local_ r = o.f.lbase * 64 + 64 * r := by simp [PorOp.local_, PorOp.isItem, hk]
  have hr : reads o = true := by rw [reads, hk]
  unfold landed State.deliver
  rw [hr, he, ht, hi]
  rfl

theorem opOf_finishOp {s : State} {t : Nat} {o : PorOp} (hl : t < s.tiles.length) (hs : o.f.sig = false)
    (he : o.ends.findSome? ReqEnd.cause = none) : opOf (s.finishOp t o) t o.info.id = none := by
  unfold State.finishOp opOf
  rw [he, hs, Bool.false_and]
  simp only [Bool.false_eq_true, if_false]
  rw [tile_modTile _ hl]
  simp [List.find?_eq_none]

theorem endedIfDone_stores (s : State) (t id : Nat) : (∀ o, opOf s t id = some o → o.f.sig = false ∧ o.ends.findSome? ReqEnd.cause = none) →
    (endedIfDone s t id).sram = s.sram ∧ (endedIfDone s t id).hbm = s.hbm := by
  intro h
  unfold endedIfDone
  split
  case h_2 => exact ⟨rfl, rfl⟩
  case h_1 o ho =>
    obtain ⟨hs, he⟩ := h o ho
    split
    · unfold State.finishOp
      rw [he, hs]
      exact ⟨rfl, rfl⟩
    · exact ⟨rfl, rfl⟩

theorem opOf_endedIfDone {s : State} {t id : Nat} {o : PorOp} (hl : t < s.tiles.length) (ho : opOf s t id = some o) (hs : o.f.sig = false)
    (he : o.ends.findSome? ReqEnd.cause = none) (ht : o.total ≤ o.got.length) : opOf (endedIfDone s t id) t id = none := by
  unfold endedIfDone
  rw [ho]
  dsimp only
  rw [if_pos ht, ← opOf_id ho]
  exact opOf_finishOp hl hs he

/-- What a good answer does, taken from a state where it waits. -/
theorem takeAnswer_lands {s : State} {t id r : Nat} {o : PorOp} {x : Resp} (crc : CrcOutcome) (hl : t < s.tiles.length)
    (ho : opOf s t id = some o) (hx : (o.resps.find? fun x => x.req == r) = some x) (hd : o.dead = false) (hf : x.fin = .ok)
    (hc : x.crc = none) (hsig : o.f.sig = false) (he : o.ends.findSome? ReqEnd.cause = none) :
    ∃ u : State, s.takeAnswer t id r crc = some u ∧ u.hbm = s.hbm ∧
      u.sram = (landed (answered s t id r o x) t r o x).sram ∧
      (o.total ≤ o.got.length + 1 → opOf u t id = none) := by
  have hop : opOf (landed (answered s t id r o x) t r o x) t id = some (withTaken r x o) := by
    unfold opOf State.tile
    rw [landed_tiles]
    exact opOf_answered hl ho
  have hlen : t < (landed (answered s t id r o x) t r o x).tiles.length := by
    rw [landed_tiles, answered_length]
    exact hl
  have hst := endedIfDone_stores (landed (answered s t id r o x) t r o x) t id fun o' ho' => by
    obtain rfl := Option.some.inj (hop.symm.trans ho')
    exact ⟨hsig, he⟩
  refine ⟨_, takeAnswer_ok crc ho hx hd hf hc, ?_, hst.1, fun ht => opOf_endedIfDone hlen hop hsig he ht⟩
  rw [hst.2, landed_hbm, answered_hbm]

/-- The end of a request that failed, for the flag lines behind a write. -/
def failure (s : State) (t id r : Nat) : Option ReqEnd :=
  match (s.tile t).ops.find? fun o => o.info.id == id with
  | some o => if o.isWrite && o.node.isNone then ((o.resps.find? fun x => x.req == r && !x.fin.good).map Resp.fin) else none
  | none => none

/-- The flag lines behind a write that failed go. -/
def flagsDropped (s : State) (t id r : Nat) : State :=
  match failure s t id r with
  | some fin => s.dropFlags t id fin
  | none => s

theorem requestComplete_takes {s : State} {t : Nat} (id r : Nat) (crc : CrcOutcome) (h : s.takesReturns t = true) :
    s.requestComplete t id r crc = match (flagsDropped s t id r).takeAnswer t id r crc with
      | some u => u.pump t
      | none => s := by
  unfold State.requestComplete
  rw [h]
  rfl

theorem flagsDropped_eq_self {s : State} {t id r : Nat} {o : PorOp} (ho : opOf s t id = some o)
    (h : o.isWrite = false ∨ (o.resps.find? fun x => x.req == r) = none) : flagsDropped s t id r = s := by
  have : failure s t id r = none := by
    unfold failure
    rw [show ((s.tile t).ops.find? fun o => o.info.id == id) = some o from ho]
    rcases h with h | h
    · simp [h]
    · have : (o.resps.find? fun x => x.req == r && !x.fin.good) = none := by
        rw [List.find?_eq_none] at h ⊢
        intro y hy
        simp [h y hy]
      simp [this]
  unfold flagsDropped
  rw [this]

theorem waits_flagsDropped {s : State} {t id r : Nat} {o : PorOp} {x : Resp} (h : Waits s t id r o x) :
    Waits (flagsDropped s t id r) t id r o x := by
  unfold flagsDropped
  split
  · exact waits_dropFlags h t id _
  · exact h

theorem stores_flagsDropped (s : State) (t id r : Nat) : Stores.stores (flagsDropped s t id r) = Stores.stores s := by
  unfold flagsDropped
  split
  · exact Stores.stores_dropFlags s t id _
  · rfl

theorem execPorterRequestComplete_runs {s : State} {t : Nat} (id r : Nat) (crc : CrcOutcome) (h : t < 384) :
    execPorterRequestComplete t id r crc s = .next (s.requestComplete t id r crc) :=
  if_pos (decide_eq_true h)

theorem lt_of_opOf {s : State} {t id : Nat} {o : PorOp} (h : opOf s t id = some o) : t < s.tiles.length := by
  by_contra hge
  have : s.tile t = Tile.init := by
    unfold State.tile
    rw [List.getD_eq_default]
    omega
  rw [opOf, this] at h
  cases h

theorem sramRead_congr {s v : State} (h : v.sram = s.sram) (t a n : Nat) : v.sramRead t a n = s.sramRead t a n := by
  unfold State.sramRead
  rw [h]

/-- The answer of a request whose operation stands, whatever becomes of the flag lines behind it. -/
theorem requestComplete_lands {s : State} {t id r : Nat} {o : PorOp} {x : Resp} (crc : CrcOutcome) (hr : s.takesReturns t = true)
    (ho : opOf s t id = some o) (hx : (o.resps.find? fun x => x.req == r) = some x) (hd : o.dead = false) (hf : x.fin = .ok)
    (hc : x.crc = none) (hsig : o.f.sig = false) (he : o.ends.findSome? ReqEnd.cause = none) :
    ∃ u : State, s.requestComplete t id r crc = u.pump t ∧ u.hbm = s.hbm ∧
      (∃ v o', v.sram = s.sram ∧ o'.kind = o.kind ∧ o'.f = o.f ∧ u.sram = (landed v t r o' x).sram) ∧
      (o.total ≤ o.got.length + 1 → opOf u t id = none) := by
  obtain ⟨fl, rs, ho', hx'⟩ := waits_flagsDropped (s := s) ⟨o.flying, o.resps, ho, hx⟩
  obtain ⟨u, hu, hhbm, hsram, hend⟩ := takeAnswer_lands crc (lt_of_opOf ho') ho' hx' hd hf hc hsig he
  have hst := Stores.stores_eq_iff.mp (stores_flagsDropped s t id r)
  refine ⟨u, ?_, hhbm.trans hst.hbm, ⟨_, { o with flying := fl, resps := rs }, ?_, rfl, rfl, hsram⟩, hend⟩
  · rw [requestComplete_takes id r crc hr, hu]
  · rw [answered_sram]
    exact hst.sram

/-- Settles O16: what a failed write does to the flag lines behind it leaves the answer that is taken in its place, and a good
answer ends, frees and stores by its operation alone. -/
theorem porterAnswersLand : Obligations.PorterAnswersLand := by
  intro s t id r crc ht
  refine ⟨fun h => ?_, fun hr ho => ?_, fun o x hr _ ho => ⟨fun hx => ?_, fun hx hd hf hc hsig he => ?_⟩⟩
  · refine (execPorterRequestComplete_runs id r crc ht).trans (congrArg _ ?_)
    unfold State.requestComplete
    rw [h]
    rfl
  · refine (execPorterRequestComplete_runs id r crc ht).trans (congrArg _ ?_)
    have hd : flagsDropped s t id r = s := by
      unfold flagsDropped failure
      rw [ho]
    rw [requestComplete_takes id r crc hr, hd, State.takeAnswer, ho]
  · refine (execPorterRequestComplete_runs id r crc ht).trans (congrArg _ ?_)
    rw [requestComplete_takes id r crc hr, flagsDropped_eq_self ho (.inr hx), State.takeAnswer, ho]
    dsimp only
    rw [hx]
  · obtain ⟨u, hu, hhbm, ⟨v, o', hv, hk, hof, hsram⟩, hend⟩ := requestComplete_lands crc hr ho hx hd hf hc hsig he
    refine ⟨u, (execPorterRequestComplete_runs id r crc ht).trans (congrArg _ hu), hhbm, fun hw hp => ?_, fun hp hs hlen hb hwf => ?_, hend⟩
    · rw [hsram, landed_write (by simpa [PorOp.isWrite, hk] using hw) (hk ▸ hp), hv]
    · have hsr : u.sram = (s.sramWrite t (o.f.lbase * 64 + 64 * r) x.data).sram := by
        rw [hsram, landed_read (hk.trans hp) (hof ▸ hs) hlen, hof]
        unfold State.sramWrite
        rw [hv]
      obtain ⟨hin, hout⟩ := sramRead_store (t := t) (a := o.f.lbase * 64 + 64 * r) (bs := x.data) hwf (by omega)
      rw [hlen] at hin hout
      refine ⟨(sramRead_congr hsr _ _ _).trans hin, fun a ha hor => (sramRead_congr hsr _ _ _).trans (hout a ha hor)⟩

end Sys2Proof.Proofs.PorterAnswer
end

section
/-! PROOFS. Strands launch, complete, run again and are watched: O17. -/
namespace Sys2Proof.Proofs.Strands

open Sys2Proof Sys2Proof.Machine Sys2Proof.Laws Sys2Proof.Safety Sys2Proof.Proofs.VectorResult Sys2Proof.Proofs.Signals

/-! STRAND_LAUNCH. -/

theorem execStrandLaunch_fenced {s : State} {t k : Nat} {d : Desc} (ht : t < 384) (hd : (s.tile t).nextDesc = some d)
    (hk : freeSlot (s.tile t).slots = some k) (hm : (s.tile t).mayLaunch d (s.region (t / 12)).beat = true)
    (hf : (s.region (t / 12)).fenced = true) (hz : s.tileFrozen t = false) :
    execStrandLaunch t s = .next (s.fault t (s.unlaunched t d) false 3 1 0) := by
  refine (if_pos (decide_eq_true ht)).trans (congrArg _ ?_)
  have hc : ((s.region (regionOfTile t)).fenced && (s.tile t).mayLaunch d (s.region (regionOfTile t)).beat && !s.tileFrozen t) = true := by
    rw [show s.region (regionOfTile t) = s.region (t / 12) from rfl, hf, hm, hz]
    rfl
  dsimp only
  rw [hd, hk]
  exact if_pos hc

theorem execStrandLaunch_waits {s : State} {t : Nat} {d : Desc} (ht : t < 384) (hd : (s.tile t).nextDesc = some d)
    (hm : (s.tile t).mayLaunch d (s.region (t / 12)).beat = false) : execStrandLaunch t s = .next s := by
  refine (if_pos (decide_eq_true ht)).trans (congrArg _ ?_)
  have hm' : (s.tile t).mayLaunch d (s.region (regionOfTile t)).beat = false := hm
  dsimp only
  rw [hd]
  cases hk : freeSlot (s.tile t).slots with
  | none => rfl
  | some k =>
    dsimp only
    rw [hm']
    simp

theorem execStrandLaunch_launches {s : State} {t k : Nat} {d : Desc} (ht : t < 384) (hd : (s.tile t).nextDesc = some d)
    (hk : freeSlot (s.tile t).slots = some k) (hm : (s.tile t).mayLaunch d (s.region (t / 12)).beat = true)
    (hl : s.live t = true) (hh : s.held .tile t = false) :
    ∃ u late isLate steps ranges, execStrandLaunch t s = .next u ∧ (d.timed = false → late = 0) ∧
      Sampled (s.modTile t fun x => x.launch d k late isLate steps ranges) u := by
  have hf : (s.region (regionOfTile t)).fenced = false := by
    simp [State.live] at hl
    exact hl.1.2
  have hm' : (s.tile t).mayLaunch d (s.region (regionOfTile t)).beat = true := hm
  let r := s.region (regionOfTile t)
  let beats := (r.beat + 2 ^ 48 - (s.tile t).launchBeat d) % 2 ^ 48
  let isLate : Bool := d.timed && (beats != 0 || r.frac != 0)
  let late := if d.timed then beats * 65536 + r.frac / 65536 else 0
  let s1 := s.modTile t fun x => x.launch d k late isLate r.steps (readRanges s t d)
  refine ⟨if isLate then s1.emit (dieOfTile t) srcStrandLate late d.layer d.op d.strandId d.seqTag (t % 96) else s1, late, isLate,
    r.steps, readRanges s t d, ?_, fun h => if_neg (by simp [h]), ?_⟩
  · refine (if_pos (decide_eq_true ht)).trans (congrArg _ ?_)
    dsimp only
    rw [hd, hk]
    dsimp only
    rw [hf, hl, hh, hm']
    rfl
  · split
    · exact sampled_emit s1 _ _ _ _ _ _ _ _
    · exact .refl s1

/-- The slot of a strand that has just been launched. -/
def launchedSlot (x : Tile) (d : Desc) (late steps : Nat) (ranges : List RangeEnt) : Slot where
  desc := d
  inst := x.launches + 1
  ended := false
  phase := .issuing
  ip := d.ip
  late := late
  launchAt := steps
  tries := 0
  limitFrom := x.limitStart d
  loops := []
  flags := 0
  ranges := ranges
  acqOps := []
  rels := []
  badNodes := []
  barked := x.barked

theorem launch_slots (x : Tile) (d : Desc) (k late : Nat) (isLate : Bool) (steps : Nat) (ranges : List RangeEnt) :
    (x.launch d k late isLate steps ranges).slots = x.slots.set k (some (launchedSlot x d late steps ranges)) := rfl

theorem launch_tokens (x : Tile) (d : Desc) (k late : Nat) (isLate : Bool) (steps : Nat) (ranges : List RangeEnt) {n : Nat} (hn : n < 16) :
    (x.launch d k late isLate steps ranges).tokens.getD n 0 =
      x.tokens.getD n 0 - if d.tokened && bit d.waitMask n then 1 else 0 := by
  have : (x.launch d k late isLate steps ranges).tokens =
      (List.range 16).map fun n => x.tokens.getD n 0 - natOfBool (d.tokened && bit d.waitMask n) := rfl
  rw [this, List.getD_eq_getElem?_getD, List.getElem?_map, List.getElem?_range hn]
  exact congrArg (x.tokens.getD n 0 - ·) (by cases d.tokened && bit d.waitMask n <;> rfl)

/-! STRAND_COMPLETE. -/

/-- The token counters ks of a mask, each one up. -/
def bump (mask : Nat) (ks toks : List Nat) : List Nat :=
  ks.foldl (fun l k => if bit mask k then l.set k (l.getD k 0 + 1) else l) toks

theorem getD_set (l : List Nat) (k v n : Nat) (hk : k < l.length) : (l.set k v).getD n 0 = if n = k then v else l.getD n 0 := by
  simp only [List.getD_eq_getElem?_getD, List.getElem?_set]
  split
  · subst k
    simp
  · rw [if_neg (by omega)]

theorem getD_bump (mask n : Nat) : ∀ (ks toks : List Nat), ks.Nodup → (∀ k ∈ ks, k < toks.length) →
    (bump mask ks toks).getD n 0 = toks.getD n 0 + if n ∈ ks ∧ bit mask n = true then 1 else 0
  | [], toks, _, _ => by simp [bump]
  | k :: ks, toks, hn, hl => by
    obtain ⟨hk, hn⟩ := List.nodup_cons.mp hn
    have hkl := hl k (by simp)
    by_cases hb : bit mask k = true
    · have h := getD_bump mask n ks (toks.set k (toks.getD k 0 + 1)) hn fun j hj => by simpa using hl j (by simp [hj])
      rw [show bump mask (k :: ks) toks = bump mask ks (toks.set k (toks.getD k 0 + 1)) by simp [bump, hb], h, getD_set _ _ _ _ hkl]
      by_cases hnk : n = k
      · subst hnk
        simp [hk, hb]
      · simp [hnk]
    · have h := getD_bump mask n ks toks hn fun j hj => hl j (by simp [hj])
      rw [show bump mask (k :: ks) toks = bump mask ks toks by simp [bump, hb], h]
      by_cases hnk : n = k
      · subst hnk
        simp [hb]
      · simp [hnk]

theorem addTokens_within {t mask : Nat} : ∀ (ks : List Nat) (s : State), t < s.tiles.length → ks.Nodup →
    (∀ k ∈ ks, k < (s.tile t).tokens.length) → (∀ k ∈ ks, bit mask k = true → (s.tile t).tokens.getD k 0 < 65535) →
    ks.foldl (fun s k => if bit mask k then s.addToken t k 1 else s) s = s.modTile t fun x => { x with tokens := bump mask ks x.tokens }
  | [], s, _, _, _, _ => (modTile_id _ rfl).symm
  | k :: ks, s, ht, hn, hl, hv => by
    obtain ⟨hk, hn⟩ := List.nodup_cons.mp hn
    by_cases hb : bit mask k = true
    · have hadd := addToken_within (s := s) (t := t) (k := k) (n := 1) (hv k (by simp) hb)
      have hset : ((s.addToken t k 1).tile t).tokens = (s.tile t).tokens.set k ((s.tile t).tokens.getD k 0 + 1) := by
        rw [hadd, tile_modTile _ ht]
      have hih := addTokens_within (mask := mask) ks (s.addToken t k 1) (by rw [hadd, modTile_length]; exact ht) hn
        (fun j hj => by rw [hset, List.length_set]; exact hl j (by simp [hj]))
        fun j hj hbj => by
          rw [hset, getD_set _ _ _ _ (hl k (by simp)), if_neg (fun h : j = k => hk (h ▸ hj))]
          exact hv j (by simp [hj]) hbj
      rw [List.foldl_cons, if_pos hb, hih, hadd, modTile_modTile]
      exact modTile_congr (by simp [Function.comp, bump, hb])
    · rw [List.foldl_cons, if_neg hb, addTokens_within ks s ht hn (fun j hj => hl j (by simp [hj])) fun j hj => hv j (by simp [hj])]
      exact modTile_congr (by simp [bump, hb])

theorem sameTiles_chargeClass (s : State) (d gear layer op cls n : Nat) : SameTiles s (s.chargeClass d gear layer op cls n) := by
  unfold State.chargeClass
  split <;> exact ⟨rfl, rfl, rfl⟩

theorem execStrandComplete_stays {s : State} {t k : Nat} {sl : Slot} (ht : t < 384) (hk : k < 4)
    (hs : (s.tile t).slots.getD k none = some sl) (h : sl.phase ≠ .retiring ∨ (s.tile t).workDone sl.inst = false) :
    execStrandComplete t k s = .next s := by
  refine (if_pos (by simp [ht, hk])).trans (congrArg _ ?_)
  have hc : (s.tile t).complete_ sl = false := by
    unfold Tile.complete_
    rcases h with h | h
    · simp [h]
    · simp [h]
  dsimp only
  rw [hs]
  exact if_pos (by simp [hc])

theorem execStrandComplete_completes {s : State} {t k : Nat} {sl : Slot} (ht : t < 384) (hk : k < 4) (hlen : t < s.tiles.length)
    (hs : (s.tile t).slots.getD k none = some sl) (hz : s.tileFrozen t = false) (hp : sl.phase = .retiring)
    (hw : (s.tile t).workDone sl.inst = true)
    (hv : ∀ n, n < 16 → bit sl.desc.signalMask n = true → (s.tile t).tokens.getD n 0 < 65535) (h16 : (s.tile t).tokens.length = 16) :
    ∃ u : State, execStrandComplete t k s = .next ((u.pump t).endPass (s.partOfTile t)) ∧ u.sram = s.sram ∧
      u.tile t = { s.tile t with slots := (s.tile t).slots.set k none, tokens := bump sl.desc.signalMask (List.range 16) (s.tile t).tokens } := by
  have hc : (s.tile t).complete_ sl = true := by
    unfold Tile.complete_
    rw [hp, hw]
    rfl
  let s1 := s.modTile t fun x => { x with slots := x.slots.set k none }
  let r := s.region (regionOfTile t)
  have h2 := sameTiles_chargeClass s1 (dieOfTile t) r.gear sl.desc.layer sl.desc.op sl.desc.eclass (r.steps - sl.launchAt)
  have ht1 : s1.tile t = { s.tile t with slots := (s.tile t).slots.set k none } := tile_modTile _ hlen
  have hlen2 : t < (s1.chargeClass (dieOfTile t) r.gear sl.desc.layer sl.desc.op sl.desc.eclass (r.steps - sl.launchAt)).tiles.length := by
    rw [h2.tiles, modTile_length]
    exact hlen
  have hadd := addTokens_within (mask := sl.desc.signalMask) (List.range 16) _ hlen2 List.nodup_range
    (by rw [h2.tile, ht1]; simp [h16]) (by rw [h2.tile, ht1]; simpa using hv)
  refine ⟨(List.range 16).foldl (fun s n => if bit sl.desc.signalMask n then s.addToken t n 1 else s)
    (s1.chargeClass (dieOfTile t) r.gear sl.desc.layer sl.desc.op sl.desc.eclass (r.steps - sl.launchAt)), ?_, ?_, ?_⟩
  · refine (if_pos (by simp [ht, hk])).trans (congrArg _ ?_)
    dsimp only
    rw [hs]
    exact if_neg (by simp [hz, hc])
  · rw [hadd]
    exact h2.sram
  · rw [hadd, tile_modTile _ hlen2, h2.tile, ht1]

/-! REEXECUTION. -/

/-- The slot of a strand that is issued again. -/
def again (z : Slot) : Slot :=
  { z with phase := .issuing, ip := z.desc.ip, tries := z.tries + 1, flags := 0, loops := [], acqOps := [], rels := [], badNodes := [] }

theorem execReexecution_again {s : State} {t k : Nat} {sl : Slot} (ht : t < 384) (hk : k < 4) (hlen : t < s.tiles.length)
    (hl : s.live t = true) (hs : (s.tile t).slots.getD k none = some sl) (hp : sl.phase = .reissue) (hi : (s.tile t).issuing = none) :
    ∃ u : State, execReexecution t k s = .next u ∧ u.sram = s.sram ∧ (u.tile t).slots = modAt (s.tile t).slots k (fun o => o.map again) ∧
      (u.tile t).arr.spliceW = 0 := by
  let f : Tile → Tile := fun x =>
    let y := x.modSlot k again
    { y with arr := { y.arr with spliceW := 0 } }
  refine ⟨s.modTile t f, ?_, rfl, ?_, ?_⟩
  · refine (if_pos (by simp [ht, hk])).trans (congrArg _ ?_)
    dsimp only
    rw [hs]
    exact if_neg (by simp [hl, hp, hi])
  · rw [tile_modTile f hlen]
    rfl
  · rw [tile_modTile f hlen]

theorem getD_modAt_map {l : List (Option Slot)} {k : Nat} {sl : Slot} (f : Slot → Slot) (h : l.getD k none = some sl) :
    (modAt l k fun o => o.map f).getD k none = some (f sl) := by
  rw [List.getD_eq_getElem?_getD] at h ⊢
  unfold modAt
  rw [List.getElem?_modify_eq]
  cases hg : l[k]? with
  | none => rw [hg] at h; cases h
  | some o =>
    rw [hg] at h
    obtain rfl : o = some sl := h
    rfl

/-! STRAND_WATCHDOG. -/

theorem execStrandWatchdog_runs {s : State} {t k : Nat} (ht : t < 384) {u : State}
    (h : (if (s.partOfTile t).any s.timersStopped then s
      else match (s.tile t).slots.getD k none with
        | some sl =>
          if sl.barked || (s.tile t).complete_ sl || !limitPassed (s.localBeat t) sl.limitFrom ((s.tile t).limit sl.desc) then s
          else (s.modTile t fun x => x.modSlot k fun z => { z with barked := true }).fault t
            { (s.tile t).mkInfo k sl with ip := sl.ip } true 5 2 0
        | none =>
          match (s.tile t).nextDesc with
          | none => s
          | some d =>
            if (s.tile t).considered.isNone || (s.tile t).barked ||
              !limitPassed (s.localBeat t) ((s.tile t).limitStart d) ((s.tile t).limit d) then s
            else (s.modTile t fun x => { x with barked := true }).fault t (s.unlaunched t d) false 5 1 0) = u) :
    execStrandWatchdog t k s = .next u :=
  (if_pos (decide_eq_true ht)).trans (congrArg _ h)

/-- Settles O17. -/
theorem strandsRun : Obligations.StrandsRun := by
  intro s t ht hlen
  refine ⟨fun d k hd hk hm => ⟨fun hl hh => ?_, fun hf hz => execStrandLaunch_fenced ht hd hk hm hf hz⟩,
    fun d hd hm => execStrandLaunch_waits ht hd hm, fun k sl hk hs hz => ⟨fun h => execStrandComplete_stays ht hk hs h,
      fun hp hw hv h16 => ?_⟩, fun k sl hk hl hs hp hi => ?_, fun hr => ⟨fun k sl hs => ⟨fun h => ?_, fun hb hc h =>
      ⟨{ (s.tile t).mkInfo k sl with ip := sl.ip }, ?_⟩⟩,
      fun k d hs hd hc hb h => ?_⟩, fun k hr => execStrandWatchdog_runs ht (if_pos hr)⟩
  · obtain ⟨u, late, isLate, steps, ranges, hu, hlate, hsam⟩ := execStrandLaunch_launches ht hd hk hm hl hh
    have hst := sameTiles_sampled hsam
    have hreg : u.regions = s.regions := by
      obtain ⟨_, _, _, _, rfl⟩ := hsam
      rfl
    refine ⟨u, launchedSlot (s.tile t) d late steps ranges, hu, ?_, rfl, rfl, rfl, rfl, rfl, rfl, hlate, fun n hn => ?_, fun v hv => ?_, hst.sram, hreg⟩
    · rw [hst.tile, tile_modTile _ hlen, launch_slots]
    · rw [hst.tile, tile_modTile _ hlen]
      exact launch_tokens _ d k late isLate steps ranges hn
    · rw [hst.tile, tile_modTile_ne _ (Ne.symm hv)]
  · obtain ⟨u, hu, hsram, htile⟩ := execStrandComplete_completes ht hk hlen hs hz hp hw hv h16
    refine ⟨u, hu, by rw [htile], fun n hn => ?_, hsram⟩
    rw [htile, getD_bump _ _ _ _ List.nodup_range (by simp [h16])]
    simp [hn]
  · obtain ⟨u, hu, hsram, hslots, hw⟩ := execReexecution_again ht hk hlen hl hs hp hi
    refine ⟨u, again sl, hu, ?_, rfl, rfl, rfl, rfl, rfl, rfl, hw, hsram⟩
    rw [hslots]
    exact getD_modAt_map again hs
  · refine execStrandWatchdog_runs ht ?_
    rw [hr, hs]
    dsimp only
    rw [h, Bool.not_false, Bool.or_true]
    rfl
  · refine execStrandWatchdog_runs ht ?_
    rw [hr, hs]
    dsimp only
    rw [h, hb, hc]
    rfl
  · refine execStrandWatchdog_runs ht ?_
    rw [hr, hs]
    dsimp only
    rw [hd]
    dsimp only
    rw [h, hb, Option.isNone_eq_false_iff.mpr hc]
    rfl

end Sys2Proof.Proofs.Strands
end

section
/-! PROOFS. Lanyard and hitch register writes: O22, O23 and O24. -/
namespace Sys2Proof.Proofs.LanyardWrites

open Sys2Proof Sys2Proof.Machine Sys2Proof.Laws Sys2Proof.Safety

/-- Nothing but the power and clock state changes. -/
def PowerOnly (s v : State) : Prop := ∃ p r, v = { s with power := p, regions := r }

theorem PowerOnly.refl (s : State) : PowerOnly s s := ⟨_, _, rfl⟩

theorem PowerOnly.trans {s v w : State} (h : PowerOnly s v) (k : PowerOnly v w) : PowerOnly s w := by
  obtain ⟨p, r, rfl⟩ := h
  obtain ⟨p', r', rfl⟩ := k
  exact ⟨_, _, rfl⟩

theorem PowerOnly.lny {s v : State} (h : PowerOnly s v) : v.lny = s.lny := by
  obtain ⟨p, r, rfl⟩ := h
  rfl

theorem powerOnly_modPower (s : State) (f : Power → Power) : PowerOnly s (s.modPower f) := ⟨_, _, rfl⟩

theorem powerOnly_startFrom : ∀ (l : List GearChange) (s : State), PowerOnly s (s.startFrom l)
  | [], s => powerOnly_modPower s _
  | c :: r, s => by
    rw [State.startFrom]
    split
    split
    · exact powerOnly_startFrom r s
    · exact powerOnly_modPower s _

theorem powerOnly_cancelChange (s : State) : PowerOnly s s.cancelChange :=
  PowerOnly.trans ⟨_, _, rfl⟩ (powerOnly_startFrom _ _)

theorem powerOnly_lnyMoved (s : State) : PowerOnly s s.lnyMoved := by
  unfold State.lnyMoved
  split
  · exact .refl s
  · split
    · exact powerOnly_modPower s _
    · exact (powerOnly_modPower s _).trans (powerOnly_cancelChange _)

/-! LNY_SET (R150). -/

theorem setOk_iff {s : State} {v : Nat} : s.setOk v = true ↔ s.anyBound = false ∧ (s.lny.locked = false ∨ s.now ≤ v) := by
  simp [State.setOk]

theorem lnySet_refused {s : State} {v : Nat} (h : s.setOk v = false) : s.lnySet v = s.modLny fun l => { l with setRefused := true } := by
  rw [State.lnySet, h]
  rfl

/-- Settles O23. -/
theorem lanyardIsSetOnlyForward : Obligations.LanyardIsSetOnlyForward := by
  intro s v
  refine ⟨fun hb h => ⟨s.lnySet v.toNat, rfl, ?_⟩, fun h =>
    congrArg Host.Outcome.next (lnySet_refused (Bool.eq_false_iff.mpr fun hok => ?_))⟩
  · have hl : (s.lnySet v.toNat).lny = { s.lny with now := v.toNat, frac := 0, locked := true } := by
      rw [State.lnySet, if_pos (setOk_iff.mpr ⟨hb, h⟩)]
      exact (powerOnly_lnyMoved _).lny
    rw [hl]
    exact ⟨rfl, rfl, rfl⟩
  · obtain ⟨hb, hf⟩ := setOk_iff.mp hok
    rcases h with h | ⟨hl, hn⟩
    · rw [hb] at h
      cases h
    · rcases hf with hf | hf
      · rw [hl] at hf
        cases hf
      · omega

/-! HCH_CTRL (R160). -/

theorem bits_low5 (n : Nat) : bits n 0 5 = n % 32 := rfl

theorem hchWrite_refused {s : State} {v : Nat} (h : v % 32 ≠ s.lny.shift) (hb : s.anyBound = true) :
    s.hchWrite v = s.post none 0x0006 0x0600 0 0 (v % 32) := by
  refine if_pos ?_
  rw [bits_low5, hb]
  simp [h]

theorem hchWrite_taken {s : State} {v : Nat} (h : v % 32 = s.lny.shift ∨ (s.anyBound = false ∧ 8 ≤ v % 32 ∧ v % 32 ≤ 20)) :
    PowerOnly { s with lny := { s.lny with shift := v % 32, hintEn := bit v 5, hintThr := bits v 16 12 } } (s.hchWrite v) := by
  have hno : ¬(decide (bits v 0 5 ≠ s.lny.shift) && (s.anyBound || !shiftOk (bits v 0 5))) = true := by
    rw [bits_low5]
    rcases h with h | ⟨hb, h8, h20⟩
    · simp [h]
    · simp [hb, shiftOk, h8, h20]
  unfold State.hchWrite
  dsimp only
  rw [if_neg hno]
  split
  · next he =>
    rw [bits_low5] at he
    rw [he]
    exact .refl _
  · exact powerOnly_lnyMoved _

theorem post_lny (s : State) (p : Option Nat) (e src layer op detail : Nat) : (s.post p e src layer op detail).lny = s.lny := by
  obtain ⟨_, _, _, _, h⟩ := sampled_post s p e src layer op detail
  rw [h]

/-- Settles O24. -/
theorem shiftChangesOnlyUnbound : Obligations.ShiftChangesOnlyUnbound := by
  intro s v
  refine ⟨fun hb hn => congrArg Host.Outcome.next (hchWrite_refused hn hb), fun hb h8 h20 => ⟨s.hchWrite v.toNat, rfl, ?_⟩,
    fun u hu hb => ?_⟩
  · obtain ⟨p, r, hp⟩ := hchWrite_taken (.inr ⟨hb, h8, h20⟩)
    rw [hp]
    exact ⟨rfl, rfl, rfl, rfl, rfl⟩
  · obtain rfl : s.hchWrite v.toNat = u := Stores.next_inj hu
    by_cases h : v.toNat % 32 = s.lny.shift
    · exact (congrArg Lny.shift (hchWrite_taken (.inl h)).lny).trans h
    · rw [hchWrite_refused h hb, post_lny]

/-! The Lanyard block (R149, R153, R154). -/

theorem regWrite_lny {s : State} {by_ : Bool} {o : Nat} {v : W64} (h : o < 0x10000) :
    s.regWrite by_ (0x10000 + o) 8 v = s.lnyWrite by_ o v := by
  unfold State.regWrite
  rw [if_neg (by simp), if_neg (by omega), if_pos (by omega), Nat.add_sub_cancel_left]

/-- A core's write to a listed register of the block that takes the Capstan's writes only. -/
theorem lnyWrite_core {s : State} {o : Nat} {v : W64} (hl : lnyListed o = true) (ht : ¬(0x80 ≤ o ∧ o ≤ 0xC0)) :
    s.lnyWrite false o v = s.post none 0x0003 0x0500 0 0 (0x10000 + o) := by
  unfold State.lnyWrite
  rw [hl]
  have h1 : ¬(decide (0x80 ≤ o) && decide (o ≤ 0xB8)) = true := by
    simp
    omega
  rw [Bool.not_true, if_neg (by simp), if_neg h1, if_neg (by omega)]
  rfl

theorem controlRegisterWrite_core {s : State} {o : Nat} {v : W64} (ho : o < 0x10000) (hl : lnyListed o = true)
    (ht : ¬(0x80 ≤ o ∧ o ≤ 0xC0)) :
    exec (.controlRegisterWrite false (0x10000 + o) 8 v) s = .next (s.post none 0x0003 0x0500 0 0 (0x10000 + o)) :=
  congrArg Host.Outcome.next ((regWrite_lny ho).trans (lnyWrite_core hl ht))

theorem lnyWrite_timer {s : State} {by_ : Bool} {n : Nat} {v : W64} (hn : n < 8) :
    s.lnyWrite by_ (0x80 + 8 * n) v = { s with lny := s.lny.setTmr n v.toNat } := by
  have hl : lnyListed (0x80 + 8 * n) = true := by
    simp [lnyListed]
    omega
  have h1 : (decide (0x80 ≤ 0x80 + 8 * n) && decide (0x80 + 8 * n ≤ 0xB8)) = true := by
    simp
    omega
  have hk : (0x80 + 8 * n - 0x80) / 8 = n := by omega
  unfold State.lnyWrite
  rw [hl, Bool.not_true, if_neg (by simp), if_pos h1, hk]
  rfl

/-- Settles O22. -/
theorem timerAndAdjustWrites : Obligations.TimerAndAdjustWrites := by
  intro s v off
  refine ⟨fun i hi => ?_, fun h => ?_, fun by_ n hn => ⟨s.lny.setTmr n v.toNat, ?_, fun hl => ?_, fun m hm => ?_, rfl, rfl, rfl⟩,
    ⟨_, rfl, rfl, rfl⟩, ⟨_, rfl, ?_⟩, ?_⟩
  · simp only [List.mem_cons, Prod.mk.injEq, List.not_mem_nil, or_false] at hi
    rcases hi with ⟨rfl, rfl⟩ | ⟨rfl, rfl⟩ | ⟨rfl, rfl⟩ | ⟨rfl, rfl⟩
    · exact ⟨rfl, controlRegisterWrite_core (o := 0x18) (by decide) (by decide) (by decide)⟩
    · exact ⟨rfl, controlRegisterWrite_core (o := 0x20) (by decide) (by decide) (by decide)⟩
    · exact ⟨rfl, controlRegisterWrite_core (o := 0x28) (by decide) (by decide) (by decide)⟩
    · exact ⟨rfl, controlRegisterWrite_core (o := 0x100) (by decide) (by decide) (by decide)⟩
  · rcases h with rfl | rfl | rfl | rfl | rfl | rfl
    · exact controlRegisterWrite_core (o := 0) (by decide) (by decide) (by decide)
    · exact controlRegisterWrite_core (o := 8) (by decide) (by decide) (by decide)
    · exact controlRegisterWrite_core (o := 0x10) (by decide) (by decide) (by decide)
    · exact controlRegisterWrite_core (o := 0x30) (by decide) (by decide) (by decide)
    · exact controlRegisterWrite_core (o := 0x38) (by decide) (by decide) (by decide)
    · exact controlRegisterWrite_core (o := 0x40) (by decide) (by decide) (by decide)
  · rw [show 0x10080 + 8 * n = 0x10000 + (0x80 + 8 * n) by omega]
    exact congrArg Host.Outcome.next ((regWrite_lny (by omega)).trans (lnyWrite_timer hn))
  · simp [Lny.setTmr, hl]
  · simp [Lny.setTmr, Ne.symm hm]
  · unfold Lny.adjust
    split
    · next h => exact ⟨rfl, fun _ => ⟨rfl, rfl⟩, fun h' => absurd h' (by omega)⟩
    · next h => exact ⟨rfl, fun h' => absurd h' h, fun _ => ⟨rfl, rfl⟩⟩
  · exact congrArg Host.Outcome.next (regWrite_lny (o := 0x10) (by decide))

end Sys2Proof.Proofs.LanyardWrites
end

section
/-! PROOFS. Event rings and the mailbox hand-over: O26 and O27. -/
namespace Sys2Proof.Proofs.EventRing

open Sys2Proof Sys2Proof.Machine Sys2Proof.Laws Sys2Proof.Safety

theorem page_modPage {s : State} {k : Nat} (f : ErrPage → ErrPage) (h : k < s.errs.length) : (s.modPage k f).page k = f (s.page k) := by
  simp [State.page, State.modPage, modAt, List.getD_eq_getElem?_getD, List.getElem?_eq_getElem h]

theorem page_raiseIrq (s : State) (src k : Nat) : (s.raiseIrq src).page k = s.page k := rfl

theorem page_postPage {s : State} {k : Nat} (r : EvRec) (h : k < s.errs.length) : (s.postPage k r).page k = (s.page k).put r := by
  unfold State.postPage
  dsimp only
  split
  · rw [page_raiseIrq, page_modPage _ h]
  · rw [page_modPage _ h]

theorem put_full {p : ErrPage} (r : EvRec) (h : p.full = true) : p.put r = { p with dropped := inc16 p.dropped, overflow := true } := by
  rw [ErrPage.put, h]
  rfl

theorem put_room {p : ErrPage} (r : EvRec) (h : p.full = false) :
    p.put r = { p with recs := p.recs.set (p.head % 32) r, head := (p.head + 1) % 64 } := by
  rw [ErrPage.put, h]
  rfl

theorem mem_raiseIrq (s : State) (src : Nat) : (s.raiseIrq src).irqs.contains src = true := by
  unfold State.raiseIrq
  dsimp only
  split
  · assumption
  · simp

theorem postPage_irqs {s : State} {k : Nat} (r : EvRec) (h : (!(s.page k).full && (s.page k).irqEn) = false) :
    (s.postPage k r).irqs = s.irqs := by
  unfold State.postPage
  dsimp only
  rw [h]
  rfl

theorem postPage_raises {s : State} {k : Nat} (r : EvRec) (h : (!(s.page k).full && (s.page k).irqEn) = true) :
    (s.postPage k r).irqs.contains (36 + k) = true := by
  unfold State.postPage
  dsimp only
  rw [h]
  exact mem_raiseIrq _ _

theorem execErrTailWrite_runs {s : State} {k : Nat} {v : W64} (h : k < 5) :
    execErrTailWrite k v s = .next (s.modPage k fun p => p.setTail v.toNat) :=
  congrArg Host.Outcome.next (if_neg (by omega))

theorem modPage_id {s : State} {k : Nat} {f : ErrPage → ErrPage} (hf : f (s.page k) = s.page k) :
    s.modPage k f = s := by
  unfold State.modPage
  rw [modAt_id]
  intro x hx
  have : s.page k = x := by
    unfold State.page
    rw [List.getD_eq_getElem?_getD, hx]
    rfl
  rw [← this, hf]

/-- Settles O26. -/
theorem eventRingHolds32 : Obligations.EventRingHolds32 := by
  intro s k r v hk h5 h32
  refine ⟨fun hf => ?_, fun hf => ?_, fun ht => ⟨_, execErrTailWrite_runs h5, ?_⟩, fun ht => (execErrTailWrite_runs h5).trans ?_⟩
  · have hp := (page_postPage r hk).trans (put_room r hf)
    refine ⟨?_, fun j hj => ?_, ?_, fun hi => postPage_raises r (by simp [hf, hi]), fun hi => postPage_irqs r (by simp [hi])⟩
    · rw [hp]
      simp [h32, Nat.mod_lt]
    · rw [hp]
      simp [Ne.symm hj]
    · rw [hp]
  · have hp := (page_postPage r hk).trans (put_full r hf)
    rw [hp]
    exact ⟨rfl, postPage_irqs r (by simp [hf]), rfl, rfl⟩
  · rw [page_modPage _ hk, ErrPage.setTail, if_pos ht]
    exact ⟨rfl, rfl, rfl⟩
  · refine congrArg Host.Outcome.next (modPage_id ?_)
    rw [ErrPage.setTail, if_neg (by omega)]

theorem mbx_modMbx {s : State} {n : Nat} (f : Mailbox → Mailbox) (h : n < s.cap.mbx.length) : (s.modMbx n f).mbx n = f (s.mbx n) := by
  simp [State.mbx, State.modMbx, State.modCap, modAt, List.getD_eq_getElem?_getD, List.getElem?_eq_getElem h]

theorem mbx_modMbx_ne {s : State} {n m : Nat} (f : Mailbox → Mailbox) (h : m ≠ n) : (s.modMbx n f).mbx m = s.mbx m := by
  simp [State.mbx, State.modMbx, State.modCap, modAt, List.getD_eq_getElem?_getD, Ne.symm h]

theorem handover_held {s : State} {n : Nat} {v : W64} (h : (s.mbx n).owner = true) :
    s.handover false n v = s.post (some (n / 16)) 0x0005 n 0 0 v.toNat := by
  rw [State.handover, h]
  rfl

theorem handover_free {s : State} {n : Nat} {v : W64} (h : (s.mbx n).owner = false) :
    s.handover false n v = s.modMbx n fun m =>
      { m with owner := bit v.toNat 0, seq := bits v.toNat 16 16, handAt := if bit v.toNat 0 then some s.now else m.handAt } := by
  rw [State.handover, h]
  rfl

theorem execMbxHandover_runs {s : State} {n : Nat} {v : W64} (h : n < 64) : execMbxHandover n v s = .next (s.handover false n v) :=
  congrArg Host.Outcome.next (if_neg (by omega))

/-- Settles O27. -/
theorem slotsAreHandedOver : Obligations.SlotsAreHandedOver := by
  intro s n v hn
  refine ⟨fun h => (execMbxHandover_runs hn).trans (congrArg _ (handover_held h)), fun h hl => ⟨_, execMbxHandover_runs hn, ?_⟩⟩
  rw [handover_free h, mbx_modMbx _ hl]
  exact ⟨rfl, by simp [bits, Nat.shiftRight_eq_div_pow], rfl, fun m hm => mbx_modMbx_ne _ hm, rfl, rfl⟩

end Sys2Proof.Proofs.EventRing
end

section
/-! PROOFS. Hitch pulses, calibration, slewing, timers and REFCLK, and a nanosecond: O29 and O32. -/
namespace Sys2Proof.Proofs.TimeEvents

open Sys2Proof Sys2Proof.Machine Sys2Proof.Laws Sys2Proof.Safety Sys2Proof.Proofs.EventRing

/-! Delivery (R152). -/

theorem mayDeliver_hitch {l : Lny} (hr : l.refclk = true) (hb : beatOf l.shift l.now ≠ l.beat) (hd : l.dlv = false)
    (hw : ∀ c, l.dlvWait.getD c 0 < 29) : l.mayDeliver 1 = true := by
  have h1 : l.waits 1 = true := by simp [Lny.waits, hr, hb]
  have hnone : ([1, 2, 3].find? fun k => l.waits k && decide (29 ≤ l.dlvWait.getD k 0)) = none := by
    rw [List.find?_eq_none]
    intro k _
    have hlt := hw k
    rw [decide_eq_false (by omega)]
    simp
  unfold Lny.mayDeliver
  rw [hd, hnone]
  simp [h1]

theorem execHitchPulse_delivers {s : State} (h : s.lny.mayDeliver 1 = true) : execHitchPulse s = .next (s.hitch s.beatNow) :=
  congrArg Host.Outcome.next (if_pos h)

theorem region_hitch {s : State} {r : Nat} (b : Nat) (h : r < s.regions.length) : (s.hitch b).region r =
    { s.region r with beat := b, frac := 0, pulseAt := b * 2 ^ s.lny.shift - (s.region r).delay } := by
  simp [State.region, State.hitch, h]

theorem die_hitch {s : State} {d : Nat} (b : Nat) (h : d < s.dies.length) : (s.hitch b).die d =
    { s.die d with beat := b, beatFrac := 0 } := by
  simp [State.die, State.hitch, h]

/-! Calibration (R161). -/

/-- The regions with measured delays. -/
def withDelays (regions : List Region) (delays : List Nat) : List Region :=
  List.zipWith (fun (r : Region) d => { r with delay := d }) regions delays

theorem execHitchCalibration_measures {s : State} {delays : List Nat} (hl : delays.length = 32)
    (h : s.lny.calDone = false ∨ s.lny.calAt + 2 ^ 30 ≤ s.now) : execHitchCalibration delays s =
      .next { s with lny := { s.lny with calDone := true, calAt := s.now }, regions := withDelays s.regions delays } := by
  refine congrArg Host.Outcome.next (if_neg ?_)
  simp only [Bool.or_eq_true, Bool.and_eq_true, decide_eq_true_eq, not_or, not_and, not_not]
  refine ⟨hl, fun hd => ?_⟩
  rcases h with h | h
  · rw [hd] at h
    cases h
  · omega

theorem execHitchCalibration_stays {s : State} {delays : List Nat}
    (h : delays.length ≠ 32 ∨ (s.lny.calDone = true ∧ s.now < s.lny.calAt + 2 ^ 30)) : execHitchCalibration delays s = .next s := by
  refine congrArg Host.Outcome.next (if_pos ?_)
  simpa using h

theorem getD_withDelays {regions : List Region} {delays : List Nat} {r : Nat} (hr : r < regions.length) (hd : r < delays.length) :
    (withDelays regions delays).getD r Region.init = { regions.getD r Region.init with delay := delays.getD r 0 } := by
  simp [withDelays, List.getD_eq_getElem?_getD, hr, hd]

/-! Slewing (R150). -/

theorem execLnySlewStep_stays {s : State} (h : s.lny.adjRemain = 0 ∨ s.lny.slewCycles < 4096) : execLnySlewStep s = .next s :=
  congrArg Host.Outcome.next (if_pos (by simpa using h))

theorem execLnySlewStep_adds {s : State} (h : 0 < s.lny.adjRemain) (hc : 4096 ≤ s.lny.slewCycles) :
    execLnySlewStep s = .next { s with lny :=
      { s.lny with now := s.lny.now + 1, adjRemain := s.lny.adjRemain - 1, slewCycles := 0 } } := by
  have hno : ¬(decide (s.lny.adjRemain = 0) || decide (s.lny.slewCycles < 4096)) = true := by
    simp
    omega
  exact congrArg Host.Outcome.next ((if_neg hno).trans (if_pos h))

theorem execLnySlewStep_withholds {s : State} (h : s.lny.adjRemain < 0) (hc : 4096 ≤ s.lny.slewCycles) :
    execLnySlewStep s = .next { s with lny := { s.lny with skip := true, adjRemain := s.lny.adjRemain + 1, slewCycles := 0 } } := by
  have hno : ¬(decide (s.lny.adjRemain = 0) || decide (s.lny.slewCycles < 4096)) = true := by
    simp
    omega
  exact congrArg Host.Outcome.next ((if_neg hno).trans (if_neg (by omega)))

/-! Timers (R153). -/

/-- The state once timer n has fired. -/
def fired (s : State) (n : Nat) : State :=
  (s.modLny fun l => { l.deliver 3 with tmrFired := l.tmrFired ||| 2 ^ n, tmrArmed := l.tmrArmed &&& (255 - 2 ^ n) }).raiseIrq (48 + n)

theorem execTimerFire_fires {s : State} {n : Nat} (hn : n < 8) (hd : s.lny.due n = true) (hm : s.lny.mayDeliver 3 = true) :
    execTimerFire n s = .next (fired s n) := by
  refine (if_pos (decide_eq_true hn)).trans (congrArg _ (if_pos ?_))
  rw [hd, hm]
  rfl

theorem execTimerFire_stays {s : State} {n : Nat} (hn : n < 8) (h : s.lny.now < s.lny.tmr.getD n 0 ∨ s.lny.mayDeliver 3 = false) :
    execTimerFire n s = .next s := by
  refine (if_pos (decide_eq_true hn)).trans (congrArg _ (if_neg ?_))
  rw [Bool.and_eq_true, Lny.due]
  rintro ⟨hd, hm⟩
  rw [Bool.and_eq_true, decide_eq_true_eq] at hd
  rcases h with h | h
  · omega
  · rw [hm] at h
    cases h

theorem testBit_mask {n : Nat} (hn : n < 8) (a : Nat) : (a &&& (255 - 2 ^ n)).testBit n = false := by
  rw [Nat.testBit_and]
  have : (255 - 2 ^ n).testBit n = false := by
    interval_cases n <;> decide
  simp [this]

theorem testBit_or_pow (a n : Nat) : (a ||| 2 ^ n).testBit n = true := by simp

/-! REFCLK (R491). -/

theorem sampled_foldl_post (event source detail : Nat) : ∀ (l : List Nat) (v : State),
    Sampled v (l.foldl (fun s p => if s.defined p then s.post (some p) event source 0 0 detail else s) v)
  | [], v => .refl v
  | p :: l, v => by
    rw [List.foldl_cons]
    refine Sampled.trans ?_ (sampled_foldl_post event source detail l _)
    split
    · exact sampled_post v _ _ _ _ _ _
    · exact .refl v

theorem sampled_postAll (s : State) (event source detail : Nat) : Sampled s (s.postAll event source detail) :=
  (sampled_post s _ _ _ _ _ _).trans (sampled_foldl_post _ _ _ _ _)

/-- A check of Lanyard's error changes its fault bit, the meter's and the error status block. -/
theorem errCheck_changes (s : State) : ∃ v p, Sampled s v ∧
    s.errCheck = { v with lny := { s.lny with timeFault := decide (s.lny.faultNs < s.lny.errEst) }, power := p } := by
  have hpost : ∀ (b : Bool) (d : Nat) (l : Lny), ∃ v, Sampled s v ∧
      (if b then (s.modLny fun _ => l).postAll 0x0007 0x0600 d else s.modLny fun _ => l) = { v with lny := l } := by
    intro b d l
    cases b
    · exact ⟨s, .refl s, rfl⟩
    · obtain ⟨di, m, e, q, h⟩ := sampled_postAll (s.modLny fun _ => l) 0x0007 0x0600 d
      exact ⟨{ s with dies := di, spineMons := m, errs := e, irqs := q }, ⟨di, m, e, q, rfl⟩, h⟩
  obtain ⟨v, hv, h⟩ := hpost (decide (s.lny.faultNs < s.lny.errEst) && !s.lny.timeFault) s.lny.errEst
    { s.lny with timeFault := decide (s.lny.faultNs < s.lny.errEst) }
  unfold State.errCheck
  dsimp only
  rw [show (s.modLny fun l => { l with timeFault := decide (s.lny.faultNs < s.lny.errEst) }) =
    s.modLny fun _ => { s.lny with timeFault := decide (s.lny.faultNs < s.lny.errEst) } from rfl, h]
  generalize (decide (s.lny.faultNs < s.lny.errEst) || s.lny.holdover) = b
  cases b
  · exact ⟨v, v.power, hv, rfl⟩
  · exact ⟨v, _, hv, rfl⟩

/-- Of Lanyard, a check of its error changes the fault bit alone. -/
theorem errCheck_lny (s : State) : s.errCheck.lny = { s.lny with timeFault := decide (s.lny.faultNs < s.lny.errEst) } := by
  obtain ⟨v, p, _, h⟩ := errCheck_changes s
  rw [h]

theorem errCheck_fabric (s : State) : s.errCheck.fabric = s.fabric := by
  obtain ⟨v, p, ⟨_, _, _, _, rfl⟩, h⟩ := errCheck_changes s
  rw [h]

/-- Settles O29. -/
theorem hitchAndLanyardEvents : Obligations.HitchAndLanyardEvents := by
  intro s
  refine ⟨fun hr hb hd hw => mayDeliver_hitch hr hb hd hw, fun h => ⟨_, execHitchPulse_delivers h, rfl, List.length_map .., fun r hr => ?_,
      fun d hd => ?_, rfl⟩, fun h => congrArg Host.Outcome.next (if_neg (by simp [h])), fun delays hl h32 h =>
      ⟨_, execHitchCalibration_measures hl h, fun r hr => ?_, rfl, rfl⟩, fun delays h => execHitchCalibration_stays h,
    execLnySlewStep_adds, execLnySlewStep_withholds, execLnySlewStep_stays, fun n hn he ha ht hm =>
      ⟨_, execTimerFire_fires hn ?_ hm, testBit_or_pow _ _, mem_raiseIrq _ _, testBit_mask hn _, rfl, rfl, rfl⟩,
    fun n hn h => execTimerFire_stays hn h, rfl, fun h => ⟨_, congrArg Host.Outcome.next (if_neg (by simp [h])), ?_⟩,
    fun h => congrArg Host.Outcome.next (if_pos h)⟩
  · rw [region_hitch _ hr]
    exact ⟨rfl, rfl, rfl, rfl, rfl⟩
  · rw [die_hitch _ hd]
    exact ⟨rfl, rfl⟩
  · have := getD_withDelays (regions := s.regions) (delays := delays) (r := r) (by omega) (by omega)
    unfold State.region
    rw [this]
    exact ⟨rfl, rfl⟩
  · simp [Lny.due, he, ha]
    simpa using ht
  · rw [errCheck_lny]
    exact ⟨rfl, rfl, rfl, rfl⟩

/-! A nanosecond (R148, R149). -/

theorem ptpDeliver_none {s : State} (h : s.lny.ptpWait = []) : s.ptpDeliver = s := by
  unfold State.ptpDeliver
  rw [h]

/-- Settles O32. -/
theorem emptyQueueTicks : Obligations.EmptyQueueTicks := by
  intro s hp hw
  have hstep : step s = .next (tick s) := by
    unfold step
    rw [hp]
  refine ⟨fun hr hs hlo hhi hf => ⟨_, hstep, ?_⟩, fun hr => ⟨_, hstep, ?_⟩⟩
  · have htick : tick s = { s with
        lny := s.lny.tick, regions := s.regions.map (Region.tick s.lny.shift), dies := s.dies.map (Die.tick s.lny.shift)
        cap := { s.cap with run := s.cap.run.tick } } := by
      unfold tick
      rw [if_pos hr]
      exact ptpDeliver_none hw
    have htotal := Lanyard.tick_total hs hf (by omega) (by omega)
    rw [htick]
    refine ⟨?_, Lanyard.tick_frac_lt _, rfl, rfl, rfl, rfl, rfl, rfl, rfl, hp⟩
    dsimp only
    omega
  · unfold tick
    rw [if_neg (by simp [hr])]
    exact ⟨rfl, rfl, rfl⟩

end Sys2Proof.Proofs.TimeEvents
end

section
/-! PROOFS. PTP, PPS, fabric time, holdover and the load hint: O30. -/
namespace Sys2Proof.Proofs.TimeSources

open Sys2Proof Sys2Proof.Machine Sys2Proof.Laws Sys2Proof.Safety Sys2Proof.Proofs.TimeEvents

/-! What a correction keeps of Lanyard (R156, R158). -/

/-- A correction of a source: Lanyard's count, its timers and the beat stay, and holdover ends. -/
structure Corrected (s v : State) : Prop where
  holdover : v.lny.holdover = false
  now : v.lny.now = s.lny.now
  tmr : v.lny.tmr = s.lny.tmr
  shift : v.lny.shift = s.lny.shift
  ptpSync : v.lny.ptpSync = s.lny.ptpSync
  ppsTs : v.lny.ppsTs = s.lny.ppsTs
  ppsSeen : v.lny.ppsSeen = s.lny.ppsSeen
  ppsIgnored : v.lny.ppsIgnored = s.lny.ppsIgnored
  fabric : v.fabric = s.fabric

theorem adjust_eq (l : Lny) (v : Int) : ∃ a c k r, l.adjust v = { l with adjRemain := a, slewCycles := c, locked := k, adjRefused := r } := by
  unfold Lny.adjust
  split
  · exact ⟨_, _, _, _, rfl⟩
  · exact ⟨_, _, _, _, rfl⟩

theorem corrected_correct (s : State) (trim : Option Int) (adj : Int) : Corrected s (s.correct trim adj) := by
  unfold State.correct State.drawFree
  dsimp only
  obtain ⟨a, c, k, r, h⟩ := adjust_eq s.lny adj
  constructor
  case fabric => rw [errCheck_fabric]; rfl
  all_goals
    rw [errCheck_lny]
    unfold State.modLny
    simp only [h]

/-! PTP (R155, R156). -/

theorem ptpTake_completes {s : State} {d seq t4 sq t1 t2 t3 stamp : Nat} (hs : s.lny.src = 1) (hd : d = s.lny.domain)
    (hy : s.lny.ptpSync = some (sq, some t1, t2)) (hq : s.lny.ptpDelay = some (seq, t3)) :
    s.ptpTake (.delayResp d seq t4) stamp = (s.modLny fun l => { l with ptpSync := none, ptpDelay := none }).correct
      (some (Config.servoTrim t1 t2 t3 t4)) (Config.servoAdj t1 t2 t3 t4) := by
  unfold State.ptpTake
  dsimp only
  rw [hy, hq]
  dsimp only
  rw [if_pos (by simp [hs, hd])]

theorem ptpTake_other {s : State} {d seq t4 stamp : Nat} (h : s.lny.src ≠ 1 ∨ d ≠ s.lny.domain) :
    s.ptpTake (.delayResp d seq t4) stamp = s ∧ ∀ t1 b, s.ptpTake (.sync d seq t1 b) stamp = s := by
  have hm : (decide (s.lny.src = 1) && d == s.lny.domain) = false := by
    rcases h with h | h
    · simp [h]
    · simp [h]
  unfold State.ptpTake
  refine ⟨?_, fun t1 b => ?_⟩
  · dsimp only
    split
    · exact if_neg (by simp [hm])
    · rfl
  · exact if_neg (by simp [hm])

theorem execPtpMessage_stamps (s : State) (x : PtpMsg) : ∃ stamp, s.now ≤ stamp + 2 ∧ stamp ≤ s.now + 2 ∧ execPtpMessage x s =
    .next { s with lny := { s.lny with ptpWait := s.lny.ptpWait ++ [(x, stamp)] }, free := s.free + 1 } := by
  have hlt := Nat.mod_lt (Config.freeWord s.free).toNat (by decide : 5 > 0)
  exact ⟨s.now + (Config.freeWord s.free).toNat % 5 - 2, by omega, by omega, rfl⟩

/-! PPS (R157). -/

theorem execPpsEdge_early {s : State} (hs : s.lny.ppsSeen = true) (h : s.lny.now < s.lny.ppsTs + 500000000) :
    execPpsEdge s = .next { s with lny := { s.lny with ppsIgnored := s.lny.ppsIgnored + 1 } } :=
  congrArg Host.Outcome.next (if_pos (by simp [hs, h]))

theorem execPpsEdge_stamps {s : State} (h : s.lny.ppsSeen = false ∨ s.lny.ppsTs + 500000000 ≤ s.lny.now) :
    ∃ u, execPpsEdge s = .next u ∧ u.lny.ppsTs = s.lny.now ∧ u.lny.ppsSeen = true ∧ u.lny.now = s.lny.now ∧
      u.lny.ppsIgnored = s.lny.ppsIgnored := by
  have hno : ¬(s.lny.ppsSeen && decide (s.lny.now < s.lny.ppsTs + 500000000)) = true := by
    rw [Bool.and_eq_true, decide_eq_true_eq]
    rintro ⟨hs, hlt⟩
    rcases h with h | h
    · rw [hs] at h
      cases h
    · omega
  refine ⟨_, congrArg Host.Outcome.next (if_neg hno), ?_⟩
  split
  · have hc := corrected_correct (s.modLny fun l => { l with ppsTs := l.now, ppsSeen := true })
      (some (Config.servoTrim s.lny.ppsTs s.lny.now 0 0)) (Config.servoAdj s.lny.ppsTs s.lny.now 0 0)
    exact ⟨hc.ppsTs, hc.ppsSeen, hc.now, hc.ppsIgnored⟩
  · exact ⟨rfl, rfl, rfl, rfl⟩

/-! Fabric time (R156, R309). -/

theorem execTimeTransferStart_asks {s : State} {p : Nat} (hs : s.lny.src = 2) (hm : s.lny.master = false)
    (ht : s.fabric.lastTimeReq + 2 ^ 20 ≤ s.lny.now) (hp : s.timePort = some p) :
    ∃ u, execTimeTransferStart s = .next u ∧ u.fabric.timeReqAt = some (p, s.lny.now) ∧ u.fabric.lastTimeReq = s.lny.now ∧
      u.lny = { s.lny with missed := s.lny.missed + natOfBool s.fabric.timeReqAt.isSome } := by
  have hno : ¬(decide (s.lny.src ≠ 2) || s.lny.master || decide (s.now < s.fabric.lastTimeReq + 2 ^ 20)) = true := by
    have : ¬s.now < s.fabric.lastTimeReq + 2 ^ 20 := by
      unfold State.now
      omega
    rw [hs, hm, decide_eq_false this]
    decide
  let s1 := if s.fabric.timeReqAt.isSome then s.modLny fun l => { l with missed := l.missed + 1 } else s
  refine ⟨(s1.modPort p fun x => x.sendCtrl (2, natLe 8 s.now)).modFab fun f =>
    { f with timeReqAt := some (p, s.now), lastTimeReq := s.now }, congrArg Host.Outcome.next ((if_neg hno).trans ?_), rfl, rfl, ?_⟩
  · rw [hp]
  · show s1.lny = _
    cases h : s.fabric.timeReqAt.isSome
    · simp only [s1, h, natOfBool]
      rfl
    · simp only [s1, h, natOfBool]
      rfl

theorem execTimeTransferStart_stays {s : State} (h : s.lny.src ≠ 2 ∨ s.lny.master = true ∨ s.lny.now < s.fabric.lastTimeReq + 2 ^ 20 ∨
    s.timePort = none) : execTimeTransferStart s = .next s := by
  refine congrArg Host.Outcome.next ?_
  split
  · rfl
  · next hno =>
    have hp : s.timePort = none := by
      simp only [Bool.or_eq_true, decide_eq_true_eq, not_or] at hno
      obtain ⟨⟨h1, h2⟩, h3⟩ := hno
      rcases h with h | h | h | h
      · exact absurd h h1
      · exact absurd h h2
      · exact absurd h h3
      · exact h
    rw [hp]

theorem onCtrl_sound {s : State} {p : Nat} {c : CtrlIn} (f : State → State) (hg : c.good = true) (hr : c.reserved = 0)
    (hu : s.portUp p = true) : s.onCtrl p c f = f s := by
  have hst : (s.port p).st = .up := by simpa [State.portUp] using hu
  unfold State.onCtrl
  dsimp only
  rw [hst, hg, hr]
  rfl

theorem execTimeRsp_takes {s : State} {p t1 : Nat} {c : CtrlIn} (t2 t3 : Nat) (hp : p < 16) (hg : c.good = true) (hr : c.reserved = 0)
    (hs : s.lny.src = 2) (hu : s.portUp p = true) (ha : s.fabric.timeReqAt = some (p, t1)) :
    ∃ u, execTimeRsp p c t1 t2 t3 s = .next u ∧ u.fabric.timeReqAt = none ∧ u.lny.holdover = false ∧ u.lny.now = s.lny.now := by
  have hno : ¬(decide (s.fabric.timeReqAt ≠ some (p, t1)) || decide (s.lny.src ≠ 2) || !s.portUp p) = true := by
    simp [ha, hs, hu]
  have hc := corrected_correct (s.modFab fun f => { f with timeReqAt := none }) (some (Config.servoTrim t1 t2 t3 s.now))
    ((((t2 : Int) - t1) - ((s.now : Int) - t3)) / 2)
  refine ⟨_, (if_pos (decide_eq_true hp)).trans (congrArg _ ((onCtrl_sound _ hg hr hu).trans (if_neg hno))), ?_, hc.holdover, hc.now⟩
  rw [hc.fabric]
  rfl

theorem execTimeRsp_stays {s : State} {p t1 : Nat} {c : CtrlIn} (t2 t3 : Nat) (hp : p < 16) (hg : c.good = true) (hr : c.reserved = 0)
    (hu : s.portUp p = true) (ha : s.fabric.timeReqAt ≠ some (p, t1)) : execTimeRsp p c t1 t2 t3 s = .next s :=
  (if_pos (decide_eq_true hp)).trans (congrArg _ ((onCtrl_sound _ hg hr hu).trans (if_pos (by simp [ha]))))

/-! Holdover (R158). -/

theorem execHoldoverEntry_enters {s : State} (hl : s.lny.lost = true) (hh : s.lny.holdover = false) :
    execHoldoverEntry s = .next (s.modLny fun l => { l with holdover := true, sinceHold := 0 }).errCheck :=
  congrArg Host.Outcome.next (if_neg (by simp [hl, hh]))

theorem execHoldoverEntry_stays {s : State} (h : s.lny.lost = false ∨ s.lny.holdover = true) : execHoldoverEntry s = .next s :=
  congrArg Host.Outcome.next (if_pos (by simpa using h))

theorem execHoldoverTick_ticks {s : State} (hh : s.lny.holdover = true) (ht : 1000000 ≤ s.lny.sinceHold) :
    execHoldoverTick s = .next (s.modLny fun l =>
      { l with errEst := min (l.errEst + l.holdRate) (2 ^ 32 - 1), sinceHold := l.sinceHold - 1000000 }).errCheck :=
  congrArg Host.Outcome.next (if_pos (by simp [hh, ht]))

theorem execHoldoverTick_stays {s : State} (h : s.lny.holdover = false ∨ s.lny.sinceHold < 1000000) : execHoldoverTick s = .next s := by
  refine congrArg Host.Outcome.next (if_neg ?_)
  simp only [Bool.and_eq_true, decide_eq_true_eq, not_and, Nat.not_le]
  intro hh
  rcases h with h | h
  · rw [hh] at h
    cases h
  · exact h

theorem lost_of_missing {l : Lny} (hs : l.src ≠ 0) (h : 3 ≤ l.missed ∨ 3 * srcInterval l.src ≤ l.sinceGood) : l.lost = true := by
  simp [Lny.lost, hs, h]

/-! The load hint (R177, R496). -/

/-- The state once a hint pulse has left. -/
def hinted (s : State) (beat : Nat) (up : Bool) : State :=
  { s with
    lny := { s.lny with hints := (beat, up) :: s.lny.hints.filter fun h => s.now ≤ h.1 * 2 ^ s.lny.shift }
    pins := { s.pins with lastHint := some (s.now, if up then 100 else 300) } }

theorem execHintPulse_steps {s : State} {beat : Nat} (he : s.lny.hintEn = true) (ha : s.lny.now + 500 ≤ beat * 2 ^ s.lny.shift)
    (hh : ∀ h ∈ s.lny.hints, h.1 ≠ beat) (h : s.lny.hintThr * 4800000 <
      max (s.estimate beat) (s.estimate (beat + 2 ^ 48 - 1)) - min (s.estimate beat) (s.estimate (beat + 2 ^ 48 - 1))) :
    execHintPulse beat s = .next (hinted s beat (decide (s.estimate (beat + 2 ^ 48 - 1) < s.estimate beat))) := by
  refine congrArg Host.Outcome.next (if_neg ?_)
  have hany : (s.lny.hints.any fun h => h.1 == beat) = false := by
    simpa using hh
  rw [he, hany]
  simp only [Bool.not_true, Bool.false_or, Bool.or_false, Bool.or_eq_true, decide_eq_true_eq, not_or]
  omega

theorem execHintPulse_level {s : State} {beat : Nat} (h : max (s.estimate beat) (s.estimate (beat + 2 ^ 48 - 1)) -
      min (s.estimate beat) (s.estimate (beat + 2 ^ 48 - 1)) ≤ s.lny.hintThr * 4800000) : execHintPulse beat s = .next s := by
  refine congrArg Host.Outcome.next (if_pos ?_)
  simp only [Bool.or_eq_true, decide_eq_true_eq]
  exact .inr (h.trans_eq (by simp only [Nat.mul_assoc]))

/-- Settles O30. -/
theorem timeSources : Obligations.TimeSources := by
  intro s
  refine ⟨execPtpMessage_stamps s, fun d seq t4 sq t1 t2 t3 stamp hs hd hy hq => ⟨_, ptpTake_completes hs hd hy hq, ?_⟩,
    fun d seq t4 stamp h => ptpTake_other h, execPpsEdge_early, execPpsEdge_stamps, fun p hs hm ht hp => execTimeTransferStart_asks hs hm ht hp,
    execTimeTransferStart_stays, fun p c t1 t2 t3 hp hg hr hs hu => ⟨execTimeRsp_takes t2 t3 hp hg hr hs hu, execTimeRsp_stays t2 t3 hp hg hr hu⟩,
    fun hl hh => ⟨_, execHoldoverEntry_enters hl hh, ?_⟩, lost_of_missing, execHoldoverEntry_stays,
    fun hh ht => ⟨_, execHoldoverTick_ticks hh ht, ?_⟩, execHoldoverTick_stays,
    fun beat he ha hh => ⟨fun h => ⟨_, execHintPulse_steps he ha hh ?_, ?_⟩, fun h => ⟨_, execHintPulse_steps he ha hh ?_, ?_⟩,
      fun h1 h2 => execHintPulse_level ?_⟩⟩
  · have hc := corrected_correct (s.modLny fun l => { l with ptpSync := none, ptpDelay := none })
      (some (Config.servoTrim t1 t2 t3 t4)) (Config.servoAdj t1 t2 t3 t4)
    exact ⟨hc.holdover, hc.now, hc.tmr, hc.shift, hc.ptpSync⟩
  · rw [errCheck_lny]
    exact ⟨rfl, rfl, rfl, rfl⟩
  · rw [errCheck_lny]
    exact ⟨hh, rfl, rfl, rfl⟩
  · omega
  · rw [decide_eq_true (by omega)]
    exact ⟨rfl, List.mem_cons_self .., rfl⟩
  · omega
  · rw [decide_eq_false (by omega)]
    exact ⟨rfl, List.mem_cons_self .., rfl⟩
  · omega

end Sys2Proof.Proofs.TimeSources
end

section
/-! PROOFS. CLEAT_N and droop stretching: O34. -/
namespace Sys2Proof.Proofs.Cleat

open Sys2Proof Sys2Proof.Machine Sys2Proof.Laws Sys2Proof.Safety

/-! What a log record and a new throttle word change. -/

theorem mramWrite_only (s : State) (q : MramReq) : ∃ m, s.mramWrite q = { s with mram := m } := ⟨_, rfl⟩

/-- An Obsidian record waits at the MRAM port, and nothing else changes. -/
theorem log_only (s : State) (rtype part : Nat) (payload : List Nat) : ∃ o m, s.log rtype part payload = { s with obs := o, mram := m } :=
  ⟨_, mramWrite_only { s with obs := { s.obs with seq := s.obs.seq + 1 } } _⟩

theorem rethrottle_only (s : State) : ∃ t, s.rethrottle = s.modPower fun w => { w with throt := t } := ⟨_, rfl⟩

/-! CLEAT_N (R173, R385). -/

theorem cleatAssert_again {s : State} (src : Nat) (h : s.power.cleat = true) :
    s.cleatAssert src = s.modPower fun w => { w with
      cleatActive := w.cleatActive ||| (if src % 32 = 0 then 32 else src % 64)
      cleatSources := w.cleatSources ||| (if src % 32 = 0 then 32 else src % 64) } := if_pos h

/-- The state once CLEAT_N has fallen, before its record is logged. -/
def fallen (s : State) (src : Nat) (cur : Option GearChange) : State :=
  { s with
    power := { s.power with
      cleat := true, cleatCount := inc16 s.power.cleatCount, cleatSources := src, cleatActive := src, cleatRelAt := none
      gear := 0, queue := [], cur := cur, ramp := none, ballast := 0, ballastPart := none }
    regions := s.regions.map fun (r : Region) => { r with gear := 0 }
    pins := { s.pins with alertLow := true } }

theorem cleatAssert_falls {s : State} (src : Nat) (h : s.power.cleat = false) :
    ∃ cur o m t, s.cleatAssert src = { (fallen s (if src % 32 = 0 then 32 else src % 64) cur) with
      obs := o, mram := m, power := { (fallen s (if src % 32 = 0 then 32 else src % 64) cur).power with throt := t } } := by
  let low := { GearChange.new none 0 false (s.now / 2 ^ s.lny.shift) with switched := true, preloaded := true }
  let cur := if s.aboveGear0 then some low else none
  obtain ⟨o, m, ho⟩ := log_only (fallen s (if src % 32 = 0 then 32 else src % 64) cur) 0x0007 0xFF [if src % 32 = 0 then 32 else src % 64]
  obtain ⟨t, ht⟩ := rethrottle_only { (fallen s (if src % 32 = 0 then 32 else src % 64) cur) with obs := o, mram := m }
  refine ⟨cur, o, m, t, ?_⟩
  have hfall : s.cleatAssert src = ((fallen s (if src % 32 = 0 then 32 else src % 64) cur).log 0x0007 0xFF
      [if src % 32 = 0 then 32 else src % 64]).rethrottle := if_neg (by simp [h])
  rw [hfall, ho, ht]
  rfl

theorem region_fallen (s : State) (src : Nat) (cur : Option GearChange) (r : Nat) : ((fallen s src cur).region r).gear = 0 := by
  unfold State.region fallen
  rw [List.getD_eq_getElem?_getD, List.getElem?_map]
  cases s.regions[r]? <;> rfl

theorem region_modRegion {s : State} {r : Nat} (f : Region → Region) (h : r < s.regions.length) :
    (s.modRegion r f).region r = f (s.region r) := by
  simp [State.region, State.modRegion, modAt, h]

theorem region_modRegion_ne {s : State} {r k : Nat} (f : Region → Region) (h : k ≠ r) : (s.modRegion r f).region k = s.region k := by
  simp [State.region, State.modRegion, modAt, Ne.symm h]

/-! Droop (R174). -/

theorem execDroopTrip_stays {s : State} {r det : Nat} (hr : r < 32) (hd : det < 24)
    (h : (s.region r).fenced = true ∨ (s.region r).awake = false) : execDroopTrip r det s = .next s :=
  (if_pos (by simp [hr, hd])).trans (congrArg _ (if_pos (by simpa using h)))

theorem execDroopTrip_trips {s : State} {r det : Nat} (hr : r < 32) (hd : det < 24) (hf : (s.region r).fenced = false)
    (ha : (s.region r).awake = true) : execDroopTrip r det s = .next (s.modRegion r fun x => { x.stretch with
      tripped := if x.tripped.contains det then x.tripped else det :: x.tripped, stretchLeft := 16
      stretchEvents := if x.tripped.isEmpty then x.stretchEvents + 1 else x.stretchEvents
      stretchLen := if x.tripped.isEmpty then 0 else x.stretchLen }) :=
  (if_pos (by simp [hr, hd])).trans (congrArg _ (if_neg (by simp [hf, ha])))

theorem execDroopRelease_stays {s : State} {r : Nat} (hr : r < 32) (h : (s.region r).tripped = [] ∨ (s.region r).stretchLeft ≠ 0) :
    execDroopRelease r s = .next s :=
  (if_pos (decide_eq_true hr)).trans (congrArg _ (if_pos (by simpa using h)))

theorem execDroopRelease_ends {s : State} {r : Nat} (hr : r < 32) (ht : (s.region r).tripped ≠ []) (hl : (s.region r).stretchLeft = 0) :
    ∃ u, execDroopRelease r s = .next u ∧
      Sampled (s.modRegion r fun x => { x with tripped := [], stretched := x.preStretch != 0 }) u :=
  ⟨_, (if_pos (decide_eq_true hr)).trans (congrArg _ (if_neg (by simp [ht, hl]))), sampled_emit _ _ _ _ _ _ _ _ _⟩

theorem region_sampled {s v : State} (h : Sampled s v) (r : Nat) : v.region r = s.region r := by
  obtain ⟨_, _, _, _, rfl⟩ := h
  rfl

/-- Settles O34. -/
theorem cleatAndDroop : Obligations.CleatAndDroop := by
  intro s
  refine ⟨fun src h => ?_, fun src h => congrArg Host.Outcome.next (cleatAssert_again src h),
    fun hc ht => congrArg Host.Outcome.next (if_neg (by simp [hc, ht])), fun h => congrArg Host.Outcome.next (if_pos (by simpa using h)),
    fun h => congrArg Host.Outcome.next ?_, fun t h => ⟨fun hlt => congrArg Host.Outcome.next ?_, fun hle => ?_⟩,
    fun r det hr hd => ⟨execDroopTrip_stays hr hd, fun hl hf ha => ⟨_, execDroopTrip_trips hr hd hf ha, ?_⟩⟩,
    fun r hr => ⟨execDroopRelease_stays hr, fun hl ht h0 => ?_⟩⟩
  · obtain ⟨cur, o, m, t, hu⟩ := cleatAssert_falls src h
    refine ⟨_, congrArg Host.Outcome.next hu, rfl, rfl, rfl, fun r => region_fallen s (if src % 32 = 0 then 32 else src % 64) cur r,
        rfl, rfl, rfl, rfl, rfl⟩
  · rw [h]
  · rw [h]
    exact if_neg (by simp only [MS]; omega)
  · obtain ⟨th, hth⟩ := rethrottle_only (s.modPower fun w => { w with cleatRelAt := none })
    refine ⟨(s.modPower fun w => { w with cleatRelAt := none }).rethrottle, congrArg Host.Outcome.next ?_, ?_⟩
    · rw [h]
      exact if_pos (by simp only [MS]; omega)
    · rw [hth]
      exact ⟨rfl, rfl, rfl⟩
  · rw [region_modRegion _ hl]
    refine ⟨rfl, rfl, ?_, fun k hk => region_modRegion_ne _ hk, rfl⟩
    dsimp only
    split
    · assumption
    · simp
  · obtain ⟨u, hu, hsam⟩ := execDroopRelease_ends hr ht h0
    refine ⟨u, hu, ?_⟩
    rw [region_sampled hsam, region_modRegion _ hl]
    refine ⟨rfl, ?_, fun k hk => ?_⟩
    · dsimp only
      cases (s.region r).preStretch <;> rfl
    · rw [region_sampled hsam, region_modRegion_ne _ hk]

end Sys2Proof.Proofs.Cleat
end

section
/-! PROOFS. What reports, faults and fabric traffic leave unchanged. -/
namespace Sys2Proof.Proofs.Reports

open Sys2Proof Sys2Proof.Machine Sys2Proof.Laws Sys2Proof.Safety

/-- Nothing changes but tiles and dies, the fabric, the error pages, the log and the dump controllers. -/
def Reported (s v : State) : Prop :=
  ∃ tiles dies fabric errs obs mram geodes spineMons irqs, v = { s with
    tiles := tiles, dies := dies, fabric := fabric, errs := errs, obs := obs, mram := mram, geodes := geodes
    spineMons := spineMons, irqs := irqs }

theorem Reported.refl (s : State) : Reported s s := ⟨_, _, _, _, _, _, _, _, _, rfl⟩

theorem Reported.trans {s v w : State} (h : Reported s v) (k : Reported v w) : Reported s w := by
  obtain ⟨_, _, _, _, _, _, _, _, _, rfl⟩ := h
  obtain ⟨_, _, _, _, _, _, _, _, _, rfl⟩ := k
  exact ⟨_, _, _, _, _, _, _, _, _, rfl⟩

theorem reported_sampled {s v : State} (h : Sampled s v) : Reported s v := by
  obtain ⟨_, _, _, _, rfl⟩ := h
  exact ⟨_, _, _, _, _, _, _, _, _, rfl⟩

section
variable {s v : State} (h : Reported s v)
include h

theorem Reported.power : v.power = s.power := by
  obtain ⟨_, _, _, _, _, _, _, _, _, rfl⟩ := h
  rfl

theorem Reported.regions : v.regions = s.regions := by
  obtain ⟨_, _, _, _, _, _, _, _, _, rfl⟩ := h
  rfl

theorem Reported.stks : v.stks = s.stks := by
  obtain ⟨_, _, _, _, _, _, _, _, _, rfl⟩ := h
  rfl

end

theorem reported_foldl {α : Type} {f : State → α → State} (h : ∀ s a, Reported s (f s a)) :
    ∀ (l : List α) (s : State), Reported s (l.foldl f s)
  | [], s => .refl s
  | a :: l, s => (h s a).trans (reported_foldl h l (f s a))

theorem reported_modTile (s : State) (t : Nat) (f : Tile → Tile) : Reported s (s.modTile t f) := ⟨_, _, _, _, _, _, _, _, _, rfl⟩
theorem reported_modDie (s : State) (d : Nat) (f : Die → Die) : Reported s (s.modDie d f) := ⟨_, _, _, _, _, _, _, _, _, rfl⟩
theorem reported_modReef (s : State) (d : Nat) (f : Reef → Reef) : Reported s (s.modReef d f) := ⟨_, _, _, _, _, _, _, _, _, rfl⟩
theorem reported_modPage (s : State) (p : Nat) (f : ErrPage → ErrPage) : Reported s (s.modPage p f) := ⟨_, _, _, _, _, _, _, _, _, rfl⟩
theorem reported_modGeode (s : State) (p : Nat) (f : Geode → Geode) : Reported s (s.modGeode p f) := ⟨_, _, _, _, _, _, _, _, _, rfl⟩
theorem reported_modFab (s : State) (f : Fabric → Fabric) : Reported s (s.modFab f) := ⟨_, _, _, _, _, _, _, _, _, rfl⟩
theorem reported_modPort (s : State) (p : Nat) (f : Port → Port) : Reported s (s.modPort p f) := ⟨_, _, _, _, _, _, _, _, _, rfl⟩

theorem reported_post (s : State) (p : Option Nat) (e src layer op detail : Nat) : Reported s (s.post p e src layer op detail) :=
  reported_sampled (sampled_post s p e src layer op detail)

theorem reported_postAll (s : State) (event source detail : Nat) : Reported s (s.postAll event source detail) :=
  reported_sampled (TimeEvents.sampled_postAll s event source detail)

theorem reported_emit (s : State) (d source raw layer op a b inst : Nat) : Reported s (s.emit d source raw layer op a b inst) :=
  reported_sampled (sampled_emit s d source raw layer op a b inst)

theorem reported_log (s : State) (rtype part : Nat) (payload : List Nat) : Reported s (s.log rtype part payload) := by
  obtain ⟨o, m, h⟩ := Cleat.log_only s rtype part payload
  rw [h]
  exact ⟨_, _, _, _, _, _, _, _, _, rfl⟩

theorem reported_trigger (s : State) (p : Option Nat) (tr : Trig) : Reported s (s.trigger p tr) := by
  unfold State.trigger
  split
  · split
    · exact reported_modGeode s _ _
    · exact reported_modGeode s _ _
  · exact .refl s

theorem reported_setVeto (s : State) (d step : Nat) (v : Veto) (source layer op : Nat) :
    Reported s (s.setVeto d step v source layer op) := by
  unfold State.setVeto
  split
  · exact .refl s
  split
  · exact reported_post s _ _ _ _ _ _
  · exact reported_modReef s _ _

theorem reported_postFault (s : State) (d source : Nat) (r : FaultRec) (step : Nat) : Reported s (s.postFault d source r step) := by
  have hq : Reported s (if 256 ≤ (s.die d).faultQ.length then
      match s.partOfDie d with
      | some p => s.modPage (p + 1) fun x => { x with faultDrop := inc16 x.faultDrop }
      | none => s
    else s.modDie d fun x => { x with faultQ := x.faultQ ++ [r] }) := by
    split
    · split
      · exact reported_modPage s _ _
      · exact .refl s
    · exact reported_modDie s _ _
  unfold State.postFault
  dsimp only
  split
  · exact hq.trans (reported_post _ _ _ _ _ _ _)
  · exact (hq.trans (reported_post _ _ _ _ _ _ _)).trans ((reported_modDie _ _ _).trans (reported_log _ _ _ _))

theorem reported_fault (s : State) (t : Nat) (i : Info) (ipValid : Bool) (cls code detail : Nat) :
    Reported s (s.fault t i ipValid cls code detail) := by
  have h1 := reported_postFault s (dieOfTile t) t (s.recOf t i ipValid cls code detail) i.step
  have hstop := fun f => reported_modTile (s.postFault (dieOfTile t) t (s.recOf t i ipValid cls code detail) i.step) t f
  have hveto := fun v => reported_setVeto v (dieOfTile t) i.step Veto.error t i.layer i.op
  unfold State.fault
  dsimp only
  refine h1.trans ?_
  split
  · exact (hstop _).trans ((hveto _).trans (reported_trigger _ _ _))
  split
  · split
    · exact (hstop _).trans (hveto _)
    split
    · exact hstop _
    · exact hveto _
  split
  · exact (hstop _).trans (hveto _)
  split
  · exact hstop _
  split
  · exact reported_trigger _ _ _
  split
  · split
    · split
      · exact (hveto _).trans (reported_trigger _ _ _)
      · exact hveto _
    · exact hveto _
  · exact .refl _

/-! Ports. -/

theorem reported_portMove (s : State) (p : Nat) (f : Port → Port) : Reported s (s.portMove p f) := by
  unfold State.portMove
  dsimp only
  split
  · exact reported_modPort s _ _
  have h2 := fun w => (reported_modPort s p f).trans ((reported_modPort _ p fun x => { x with lastChange := s.now }).trans
    (reported_log _ 0x0004 0xFF w))
  split
  · exact (h2 _).trans (reported_postAll _ _ _ _)
  · exact h2 _

theorem reported_inject (s : State) (p : Packet) : Reported s (s.inject p) := by
  unfold State.inject State.queuePkt
  split
  · exact reported_modFab s _
  split
  · exact reported_modFab s _
  split
  · exact reported_modPort s _ _
  · exact reported_modFab s fun f => { f with discarded := inc32 f.discarded }

theorem reported_discardPkt (s : State) (p : Packet) : Reported s (s.discardPkt p) := by
  unfold State.discardPkt
  split
  · exact reported_inject s _
  · exact reported_modFab s _

theorem reported_moveOut (s : State) (p : Nat) : Reported s (s.moveOut p) := by
  have h1 := reported_modPort s p fun x => { x with out := [] }
  have hgone := fun v => reported_foldl (f := fun s (o : OutPkt) => s.discardPkt o.pkt) (fun s o => reported_discardPkt s o.pkt)
    (s.port p).out v
  unfold State.moveOut
  dsimp only
  split
  · split
    · exact h1.trans (reported_modPort _ _ _)
    · exact h1.trans (hgone _)
  · exact h1.trans (hgone _)

theorem reported_portDown (s : State) (p : Nat) (st : PortSt) : Reported s (s.portDown p st) :=
  (reported_portMove s p _).trans (reported_moveOut _ p)

/-! Loss of power and of tiles (R378, R373). -/

theorem losePower_power (s : State) : s.losePower.power = { s.power with
    gear := 0, cur := none, queue := [], wakeQ := [], wakingRegion := none, ramp := none, ballast := 0
    ballastPart := none, railsOn := false, vLink := 0, vStack := (0, 0, 0) } := by
  have h := (reported_foldl (fun s p => reported_portDown s p .down) (List.range 16) s).power
  unfold State.losePower
  dsimp only
  rw [h]

theorem reported_loseTile (s : State) (t : Nat) : Reported s (s.loseTile t) := by
  refine reported_foldl (fun s k => ?_) (List.range 4) s
  split
  · exact reported_fault s _ _ _ _ _ _
  · exact .refl s

end Sys2Proof.Proofs.Reports
end

section
/-! PROOFS. Feeds, bricks, phases and rail regulators: O35. -/
namespace Sys2Proof.Proofs.Feeds

open Sys2Proof Sys2Proof.Machine Sys2Proof.Laws Sys2Proof.Safety Sys2Proof.Proofs.Cleat Sys2Proof.Proofs.Reports

/-! Feeds (R365 to R368). -/

theorem feedRec_modFeed_same (s : State) (f : Feed) (g : FeedRec → FeedRec) : (s.modFeed f g).feedRec f = g (s.feedRec f) := by
  cases f <;> rfl

theorem feedRec_modFeed_ne {s : State} {f h : Feed} (g : FeedRec → FeedRec) (hne : f ≠ h) : (s.modFeed f g).feedRec h = s.feedRec h := by
  cases f <;> cases h
  · exact absurd rfl hne
  · rfl
  · rfl
  · exact absurd rfl hne

theorem railsOn_modFeed (s : State) (f : Feed) (g : FeedRec → FeedRec) : (s.modFeed f g).power.railsOn = s.power.railsOn := by
  cases f <;> rfl

theorem feedRec_congr {s v : State} (ha : v.power.feedA = s.power.feedA) (hb : v.power.feedB = s.power.feedB) (f : Feed) :
    v.feedRec f = s.feedRec f := by
  cases f
  · exact ha
  · exact hb

theorem feedMove_feedRec (s : State) (f : Feed) (st : FeedSt) (h : Feed) :
    (s.feedMove f st).feedRec h = (s.modFeed f fun x => x.state st).feedRec h :=
  feedRec_congr rfl rfl h

theorem feedMove_same (s : State) (f : Feed) (st : FeedSt) : (s.feedMove f st).feedRec f = (s.feedRec f).state st :=
  (feedMove_feedRec s f st f).trans (feedRec_modFeed_same s f _)

theorem feedMove_ne {s : State} {f h : Feed} (st : FeedSt) (hne : f ≠ h) : (s.feedMove f st).feedRec h = s.feedRec h :=
  (feedMove_feedRec s f st h).trans (feedRec_modFeed_ne _ hne)

theorem railsOn_feedMove (s : State) (f : Feed) (st : FeedSt) : (s.feedMove f st).power.railsOn = s.power.railsOn :=
  railsOn_modFeed s f _

/-- A record of a feed changes no feed. -/
theorem feedRec_log (s : State) (rtype part : Nat) (payload : List Nat) (f : Feed) : (s.log rtype part payload).feedRec f = s.feedRec f :=
  feedRec_congr (congrArg Power.feedA (reported_log s rtype part payload).power)
      (congrArg Power.feedB (reported_log s rtype part payload).power) f

/-- Whether both feeds are lost. -/
theorem bothLost_iff {s : State} {f g : Feed} (hne : f ≠ g) :
    (s.power.feedA.st = .lost ∧ s.power.feedB.st = .lost) ↔ (s.feedRec f).st = .lost ∧ (s.feedRec g).st = .lost := by
  cases f <;> cases g
  · exact absurd rfl hne
  · exact Iff.rfl
  · exact And.comm
  · exact absurd rfl hne

theorem feedRec_losePower (s : State) (f : Feed) : s.losePower.feedRec f = s.feedRec f :=
  feedRec_congr (by rw [losePower_power]) (by rw [losePower_power]) f

theorem feedLost_feedRec (s : State) (f h : Feed) : (s.feedLost f).feedRec h = (s.feedMove f .lost).feedRec h := by
  unfold State.feedLost
  dsimp only
  split
  · rw [feedRec_losePower, feedRec_log]
  · rw [feedRec_log]

/-- With the other feed still there the rails stay on; with it lost they go off. -/
theorem feedLost_rails {s : State} {f g : Feed} (hne : f ≠ g) :
    ((s.feedRec g).st ≠ .lost → (s.feedLost f).power.railsOn = s.power.railsOn) ∧
      ((s.feedRec g).st = .lost → (s.feedLost f).power.railsOn = false) := by
  have hlog := (reported_log (s.feedMove f .lost) 0x0005 0xFF [feedNum f, 1]).power
  have hf : ((s.feedMove f .lost).feedRec f).st = .lost := by rw [feedMove_same]; rfl
  have hboth := bothLost_iff (s := (s.feedMove f .lost).log 0x0005 0xFF [feedNum f, 1]) hne
  rw [feedRec_log, feedRec_log, hf, feedMove_ne _ hne] at hboth
  refine ⟨fun hg => ?_, fun hg => ?_⟩
  · have hno := fun h => hg (hboth.mp h).2
    have : s.feedLost f = (s.feedMove f .lost).log 0x0005 0xFF [feedNum f, 1] := if_neg (by simpa using hno)
    rw [this, hlog]
    exact railsOn_feedMove s f .lost
  · have : s.feedLost f = ((s.feedMove f .lost).log 0x0005 0xFF [feedNum f, 1]).losePower :=
      if_pos (by simpa using hboth.mpr ⟨rfl, hg⟩)
    rw [this, losePower_power]

theorem execFeedSag_sags {s : State} {f : Feed} (hs : (s.feedRec f).st = .normal) (hh : heldFor (s.feedRec f).below36 s.now
    1000000 = true) :
    execFeedSag f s = .next (s.feedMove f .sagging) := congrArg Host.Outcome.next (if_pos (by simp [hs, MS, hh]))

theorem execFeedSag_stays {s : State} {f : Feed} (h : (s.feedRec f).st ≠ .normal ∨ heldFor (s.feedRec f).below36 s.now 1000000 = false) :
    execFeedSag f s = .next s := by
  refine congrArg Host.Outcome.next (if_neg ?_)
  rcases h with h | h
  · simp [h]
  · simp [MS, h]

theorem execFeedSagEnd_ends {s : State} {f : Feed} (hs : (s.feedRec f).st = .sagging)
    (hh : heldFor (s.feedRec f).above37 s.now 100000000 = true) : execFeedSagEnd f s = .next (s.feedMove f .normal) :=
  congrArg Host.Outcome.next (if_pos (by simp [hs, MS, hh]))

theorem execFeedSagEnd_stays {s : State} {f : Feed}
    (h : (s.feedRec f).st ≠ .sagging ∨ heldFor (s.feedRec f).above37 s.now 100000000 = false) : execFeedSagEnd f s = .next s := by
  refine congrArg Host.Outcome.next (if_neg ?_)
  rcases h with h | h
  · simp [h]
  · simp [MS, h]

/-- The state with a feed opened. -/
def feedOpened (s : State) (f : Feed) : State := s.modFeed f fun x => { x with opened := true }

theorem execFeedOvervoltage_opens {s : State} {f : Feed} (hh : heldFor (s.feedRec f).above45 s.now 100000001 = true)
    (ho : (s.feedRec f).opened = false) : execFeedOvervoltage f s =
      .next (if (s.feedRec f).st = .lost then feedOpened s f else (feedOpened s f).feedLost f) :=
  congrArg Host.Outcome.next (if_pos (by simp [MS, hh, ho]))

theorem execFeedOvervoltage_stays {s : State} {f : Feed}
    (h : heldFor (s.feedRec f).above45 s.now 100000001 = false ∨ (s.feedRec f).opened = true) : execFeedOvervoltage f s = .next s := by
  refine congrArg Host.Outcome.next (if_neg ?_)
  rcases h with h | h
  · simp [MS, h]
  · simp [h]

theorem execFeedLoss_loses {s : State} {f : Feed} (hs : (s.feedRec f).st ≠ .lost)
    (h : (s.feedRec f).mv < 32000 ∨ (s.feedRec f).opened = true) : execFeedLoss f s = .next (s.feedLost f) :=
  congrArg Host.Outcome.next (if_pos (by simpa [hs] using h))

theorem execFeedLoss_stays {s : State} {f : Feed}
    (h : (s.feedRec f).st = .lost ∨ (32000 ≤ (s.feedRec f).mv ∧ (s.feedRec f).opened = false)) : execFeedLoss f s = .next s := by
  refine congrArg Host.Outcome.next (if_neg ?_)
  rcases h with h | ⟨h1, h2⟩
  · simp [h]
  · simp [h2, h1]

theorem execFeedReadmit_readmits {s : State} {f : Feed} (hs : (s.feedRec f).st = .lost) (hw : s.power.hotSwap = true)
    (hh : heldFor (s.feedRec f).inRange s.now 1000000000 = true) : execFeedReadmit f s =
      .next (((s.modFeed f fun x => { x with opened := false }).feedMove f .normal).log 0x0005 0xFF [feedNum f, 0]) :=
  congrArg Host.Outcome.next (if_pos (by simp [hs, hw, SEC1, hh]))

theorem execFeedReadmit_stays {s : State} {f : Feed} (h : (s.feedRec f).st ≠ .lost ∨ s.power.hotSwap = false ∨
    heldFor (s.feedRec f).inRange s.now 1000000000 = false) : execFeedReadmit f s = .next s := by
  refine congrArg Host.Outcome.next (if_neg ?_)
  rcases h with h | h | h
  · simp [h]
  · simp [h]
  · simp [SEC1, h]

/-! Samples (R376). What a sample's consequences keep of the power state. -/

/-- The feeds and the samples stay. -/
structure KeepsFeeds (s v : State) : Prop where
  feedA : v.power.feedA = s.power.feedA
  feedB : v.power.feedB = s.power.feedB
  hist : v.power.hist = s.power.hist

theorem KeepsFeeds.trans {s v w : State} (h : KeepsFeeds s v) (k : KeepsFeeds v w) : KeepsFeeds s w :=
  ⟨k.feedA.trans h.feedA, k.feedB.trans h.feedB, k.hist.trans h.hist⟩

theorem keepsFeeds_ite {s a b : State} {c : Prop} [Decidable c] (ha : KeepsFeeds s a) (hb : KeepsFeeds s b) :
    KeepsFeeds s (if c then a else b) := by
  split
  · exact ha
  · exact hb

theorem keepsFeeds_startFrom : ∀ (l : List GearChange) (s : State), KeepsFeeds s (s.startFrom l)
  | [], _ => ⟨rfl, rfl, rfl⟩
  | c :: r, s => by
    rw [State.startFrom]
    split
    split
    · exact keepsFeeds_startFrom r s
    · exact ⟨rfl, rfl, rfl⟩

theorem keepsFeeds_requestChange (s : State) (region : Option Nat) (next : Nat) : KeepsFeeds s (s.requestChange region next) := by
  unfold State.requestChange
  split
  · exact ⟨rfl, rfl, rfl⟩
  dsimp only
  split
  · exact keepsFeeds_startFrom _ s
  · exact ⟨rfl, rfl, rfl⟩

theorem keepsFeeds_rethrottle (s : State) : KeepsFeeds s s.rethrottle := ⟨rfl, rfl, rfl⟩

theorem keepsFeeds_burstLower (s : State) : KeepsFeeds s s.burstLower := by
  have hlow : ∀ v : State, KeepsFeeds s v → ∀ next, KeepsFeeds s (v.requestChange none next).rethrottle := fun v hv next =>
    (hv.trans (keepsFeeds_requestChange _ _ _)).trans (keepsFeeds_rethrottle _)
  refine keepsFeeds_ite ⟨rfl, rfl, rfl⟩ (hlow _ ?_ _)
  exact ⟨rfl, rfl, rfl⟩

theorem keepsFeeds_cleatAssert (s : State) (src : Nat) : KeepsFeeds s (s.cleatAssert src) := by
  cases h : s.power.cleat
  · obtain ⟨cur, o, m, t, hu⟩ := cleatAssert_falls src h
    rw [hu]
    exact ⟨rfl, rfl, rfl⟩
  · rw [cleatAssert_again src h]
    exact ⟨rfl, rfl, rfl⟩

/-- The state with a sample of both feeds taken. -/
def sampledFeeds (s : State) (va ia vb ib : Nat) : State :=
  (s.modFeed .a fun x => x.take s.now va ia).modFeed .b fun x => x.take s.now vb ib

/-- The samples still in the windows, and the new one in front of them. -/
def samplesKept (s : State) : List PSample := s.power.hist.filter fun x => s.now < x.at_ + 20 * SEC1

def newSample (s : State) (va ia vb ib : Nat) : PSample :=
  let raw : PSample := ⟨s.now, (va * ia + vb * ib) / 10000, 0, s.capC, if s.power.tether = 0 then s.capC else s.power.tether⟩
  { raw with mean := meanOf (raw :: samplesKept s) s.now 100000 0 }

theorem feedSample_takes (s : State) (va ia vb ib : Nat) :
    KeepsFeeds ((sampledFeeds s va ia vb ib).modPower fun w => { w with hist := newSample s va ia vb ib :: samplesKept s })
      (s.feedSample va ia vb ib) := by
  unfold State.feedSample
  refine keepsFeeds_ite (KeepsFeeds.trans ?_ (keepsFeeds_cleatAssert _ _)) (KeepsFeeds.trans ?_ (keepsFeeds_burstLower _))
  · exact ⟨rfl, rfl, rfl⟩
  · exact ⟨rfl, rfl, rfl⟩

theorem execFeedSample_off {s : State} (va ia vb ib : Nat) (h : s.pwrRuns = false) :
    execFeedSample va ia vb ib s = .next (sampledFeeds s va ia vb ib) := congrArg Host.Outcome.next (if_neg (by simp [h]))

theorem execFeedSample_paced {s : State} (va ia vb ib : Nat) (h : s.pwrRuns = true) :
    execFeedSample va ia vb ib s = .next (s.paced .sample 0 1000 fun s => s.feedSample va ia vb ib) :=
  congrArg Host.Outcome.next (if_pos h)

theorem paced_due {s : State} {k : Task} {n period : Nat} (f : State → State) (h : s.due k n period = true) :
    s.paced k n period f = f (s.modPower fun w => { w with ran := ((k, n), s.now) :: w.ran.filter fun e => e.1 != (k, n) }) := if_pos h

theorem paced_early {s : State} {k : Task} {n period : Nat} (f : State → State) (h : s.due k n period = false) :
    s.paced k n period f = s := if_neg (by simp [h])

/-! Bricks (R371). -/

theorem hardTrip_power (s : State) (source what : Nat) : (s.hardTrip source what).power.tripped = true ∧
    (s.hardTrip source what).power.bricks = s.power.bricks ∧ (s.hardTrip source what).power.linkRegs = s.power.linkRegs := by
  have hc : (s.cleatAssert source).power.bricks = s.power.bricks ∧ (s.cleatAssert source).power.linkRegs = s.power.linkRegs := by
    cases h : s.power.cleat
    · obtain ⟨cur, o, m, t, hu⟩ := cleatAssert_falls source h
      rw [hu]
      exact ⟨rfl, rfl⟩
    · rw [cleatAssert_again source h]
      exact ⟨rfl, rfl⟩
  unfold State.hardTrip
  split
  · next h => exact ⟨h, rfl, rfl⟩
  · dsimp only
    rw [(reported_log _ 0x0008 0xFF [what]).power]
    dsimp only
    rw [losePower_power]
    exact ⟨rfl, hc.1, hc.2⟩

/-- The state with a brick gone. -/
def brickGone (s : State) (b : Nat) : State := (s.modPower fun w => { w with bricks := w.bricks - 2 ^ b }).log 0x0006 0xFF [0, b]

theorem brickGone_power (s : State) (b : Nat) : (brickGone s b).power = { s.power with bricks := s.power.bricks - 2 ^ b } :=
  (reported_log _ _ _ _).power

theorem brickGone_regions (s : State) (b : Nat) : (brickGone s b).regions = s.regions :=
  (reported_log (s.modPower fun w => { w with bricks := w.bricks - 2 ^ b }) 0x0006 0xFF [0, b]).regions

theorem execBrickFail_stays {s : State} {b : Nat} (hb : b < 8) (h : bit s.power.bricks b = false) : execBrickFail b s = .next s :=
  (if_pos (decide_eq_true hb)).trans (congrArg _ (if_pos (by simp [h])))

theorem execBrickFail_fails {s : State} {b : Nat} (hb : b < 8) (h : bit s.power.bricks b = true) : execBrickFail b s =
    .next (if bitCount (s.power.bricks - 2 ^ b) 8 < 4 then (brickGone s b).hardTrip cleatBrick 1 else (brickGone s b).rethrottle) := by
  refine (if_pos (decide_eq_true hb)).trans (congrArg _ ((if_neg (by simp [h])).trans ?_))
  have hb' : (brickGone s b).power.bricks = s.power.bricks - 2 ^ b := by rw [brickGone_power]
  rw [← hb']
  rfl

/-! Phases and rails (R372 to R374). -/

/-- What a change of regions leaves: how many there are, the failed phases of each, the stacks and the trip; a fenced region stays so. -/
structure Fences (s v : State) : Prop where
  length : v.regions.length = s.regions.length
  phases : ∀ k, (v.region k).phases = (s.region k).phases
  fenced : ∀ k, (s.region k).fenced = true → (v.region k).fenced = true
  stks : v.stks = s.stks
  tripped : v.power.tripped = s.power.tripped

theorem Fences.refl (s : State) : Fences s s := ⟨rfl, fun _ => rfl, fun _ h => h, rfl, rfl⟩

theorem Fences.trans {s v w : State} (h : Fences s v) (k : Fences v w) : Fences s w :=
  ⟨k.length.trans h.length, fun r => (k.phases r).trans (h.phases r), fun r hr => k.fenced r (h.fenced r hr), k.stks.trans h.stks,
    k.tripped.trans h.tripped⟩

theorem region_reported {s v : State} (h : Reported s v) (k : Nat) : v.region k = s.region k := by
  unfold State.region
  rw [h.regions]

theorem fences_reported {s v : State} (h : Reported s v) : Fences s v :=
  ⟨by rw [h.regions], fun k => by rw [region_reported h], fun k hk => by rw [region_reported h]; exact hk, h.stks, by rw [h.power]⟩

theorem fences_modPower {s : State} {f : Power → Power} (h : (f s.power).tripped = s.power.tripped) : Fences s (s.modPower f) :=
  ⟨rfl, fun _ => rfl, fun _ h => h, rfl, h⟩

/-- A part of every region that a change of one keeps. -/
theorem region_modRegion_keeps {α : Type} {g : Region → α} {f : Region → Region} (h : ∀ x, g (f x) = g x) (s : State) (r k : Nat) :
    g ((s.modRegion r f).region k) = g (s.region k) := by
  by_cases hk : k = r
  · subst hk
    by_cases hl : k < s.regions.length
    · rw [region_modRegion f hl, h]
    · simp only [State.modRegion, modAt]
      rw [List.modify_eq_self (by omega)]
  · rw [region_modRegion_ne f hk]

theorem modRegion_length (s : State) (r : Nat) (f : Region → Region) : (s.modRegion r f).regions.length = s.regions.length :=
  List.length_modify ..

theorem fences_modRegion {s : State} {r : Nat} {f : Region → Region} (hp : ∀ x, (f x).phases = x.phases)
    (hf : ∀ x, x.fenced = true → (f x).fenced = true) : Fences s (s.modRegion r f) := by
  refine ⟨modRegion_length s r f, fun k => region_modRegion_keeps hp s r k, fun k hk => ?_, rfl, rfl⟩
  by_cases hkr : k = r
  · subst hkr
    by_cases hl : k < s.regions.length
    · rw [region_modRegion f hl]
      exact hf _ hk
    · simp only [State.modRegion, modAt]
      rw [List.modify_eq_self (by omega)]
      exact hk
  · rw [region_modRegion_ne f hkr]
    exact hk

theorem fences_foldl {α : Type} {f : State → α → State} (h : ∀ s a, Fences s (f s a)) :
    ∀ (l : List α) (s : State), Fences s (l.foldl f s)
  | [], s => .refl s
  | a :: l, s => (h s a).trans (fences_foldl h l (f s a))

/-- The region fenced, before the strands of its tiles are lost. -/
def regionFenced (s : State) (r : Nat) : State :=
  let s1 := if (s.region r).waking then s.endPreStretch r else s
  let sf := s1.modRegion r fun x => { x with fenced := true, awake := false, waking := false, stretched := false }
  sf.modPower fun w => { w with
    wakeQ := w.wakeQ.filter (· != r), wakingRegion := if w.wakingRegion = some r then none else w.wakingRegion }

theorem fences_beforeFence (s : State) (r : Nat) : Fences s (if (s.region r).waking then s.endPreStretch r else s) := by
  split
  · refine fences_foldl (fun s k => fences_modRegion ?_ ?_) (neighbours r) s
    · exact fun _ => rfl
    · exact fun _ h => h
  · exact .refl s

theorem fences_regionFenced (s : State) (r : Nat) : Fences s (regionFenced s r) := by
  have hfence := fences_modRegion (s := if (s.region r).waking then s.endPreStretch r else s) (r := r)
    (f := fun x => { x with fenced := true, awake := false, waking := false, stretched := false }) (fun _ => rfl) fun _ _ => rfl
  refine ((fences_beforeFence s r).trans hfence).trans ?_
  exact ⟨rfl, fun _ => rfl, fun _ h => h, rfl, rfl⟩

theorem fenceRegion_open {s : State} {r : Nat} (h : (s.region r).fenced = false) : Reported (regionFenced s r) (s.fenceRegion r) := by
  have : s.fenceRegion r = (List.range 12).foldl (fun s k => s.loseTile (12 * r + k)) (regionFenced s r) := if_neg (by simp [h])
  rw [this]
  exact reported_foldl (fun s k => reported_loseTile s (12 * r + k)) (List.range 12) _

theorem fences_fenceRegion (s : State) (r : Nat) : Fences s (s.fenceRegion r) := by
  cases h : (s.region r).fenced
  · exact (fences_regionFenced s r).trans (fences_reported (fenceRegion_open h))
  · rw [State.fenceRegion, if_pos h]
    exact .refl s

theorem fenceRegion_fences {s : State} {r : Nat} (hr : r < s.regions.length) : ((s.fenceRegion r).region r).fenced = true := by
  cases h : (s.region r).fenced
  · rw [region_reported (fenceRegion_open h)]
    have hlen := (fences_beforeFence s r).length
    show ((State.modRegion _ r _).region r).fenced = true
    rw [region_modRegion _ (by rw [hlen]; exact hr)]
  · rw [State.fenceRegion, if_pos h]
    exact h

theorem fences_fenceDie (s : State) (d : Nat) : Fences s (s.fenceDie d) :=
  fences_foldl (fun s k => fences_fenceRegion s (8 * d + k)) (List.range 8) s

theorem foldl_fenceRegion {d : Nat} : ∀ (l : List Nat) (s : State), (∀ k ∈ l, 8 * d + k < s.regions.length) → ∀ k ∈ l,
    ((l.foldl (fun s k => s.fenceRegion (8 * d + k)) s).region (8 * d + k)).fenced = true
  | [], _, _, k, hk => absurd hk (by simp)
  | j :: l, s, h, k, hk => by
    have hj := fences_fenceRegion s (8 * d + j)
    rcases List.mem_cons.mp hk with rfl | hk
    · exact (fences_foldl (fun s k => fences_fenceRegion s (8 * d + k)) l _).fenced _ (fenceRegion_fences (h k (by simp)))
    · exact foldl_fenceRegion l _ (fun i hi => by rw [hj.length]; exact h i (by simp [hi])) k hk

theorem fenceDie_fences {s : State} {d k : Nat} (h : 8 * d + 8 ≤ s.regions.length) (hk : k < 8) :
    ((s.fenceDie d).region (8 * d + k)).fenced = true :=
  foldl_fenceRegion (List.range 8) s (fun j hj => by have := List.mem_range.mp hj; omega) k (List.mem_range.mpr hk)

/-! The stacks of a die. -/

/-- The state with the stacks of a die lost. -/
def dieStacksLost (s : State) (d : Nat) : State := (List.range 5).foldl (fun s k => s.loseStack (5 * d + k)) s


theorem stk_loseStack {s : State} {k : Nat} (h : k < s.stks.length) : ((s.loseStack k).stk k).lost = true := by
  simp [State.loseStack, State.stk, State.modStk, modAt, h]

theorem stk_loseStack_keeps {s : State} {k j : Nat} (h : (s.stk j).lost = true) : ((s.loseStack k).stk j).lost = true := by
  by_cases hj : j = k
  · subst hj
    by_cases hl : j < s.stks.length
    · exact stk_loseStack hl
    · have : s.loseStack j = s := by
        simp only [State.loseStack, State.modStk, modAt]
        rw [List.modify_eq_self (by omega)]
      rw [this]
      exact h
  · have : (s.loseStack k).stk j = s.stk j := by
      simp [State.loseStack, State.stk, State.modStk, modAt, Ne.symm hj]
    rw [this]
    exact h

theorem loseStack_length (s : State) (k : Nat) : (s.loseStack k).stks.length = s.stks.length := List.length_modify ..

theorem foldl_loseStack_keeps {i j : Nat} : ∀ (l : List Nat) (s : State), (s.stk j).lost = true →
    ((l.foldl (fun s k => s.loseStack (5 * i + k)) s).stk j).lost = true
  | [], _, h => h
  | _ :: l, _, h => foldl_loseStack_keeps l _ (stk_loseStack_keeps h)

theorem foldl_loseStack {i : Nat} : ∀ (l : List Nat) (s : State), (∀ k ∈ l, 5 * i + k < s.stks.length) → ∀ k ∈ l,
    ((l.foldl (fun s k => s.loseStack (5 * i + k)) s).stk (5 * i + k)).lost = true
  | [], _, _, _, hk => absurd hk (by simp)
  | _ :: l, _, h, k, hk => by
    rcases List.mem_cons.mp hk with rfl | hk
    · exact foldl_loseStack_keeps l _ (stk_loseStack (h k (by simp)))
    · exact foldl_loseStack l _ (fun m hm => by rw [loseStack_length]; exact h m (by simp [hm])) k hk

theorem foldl_loseStack_others {i : Nat} : ∀ (l : List Nat) (s : State),
    ∃ x, l.foldl (fun s k => s.loseStack (5 * i + k)) s = { s with stks := x }
  | [], s => ⟨s.stks, rfl⟩
  | k :: l, s => by
    obtain ⟨x, h⟩ := foldl_loseStack_others (i := i) l (s.loseStack (5 * i + k))
    exact ⟨x, h⟩

theorem dieStacksLost_lost {s : State} {d k : Nat} (h : 5 * d + 5 ≤ s.stks.length) (hk : k < 5) :
    ((dieStacksLost s d).stk (5 * d + k)).lost = true :=
  foldl_loseStack (List.range 5) s (fun j hj => by have := List.mem_range.mp hj; omega) k (List.mem_range.mpr hk)

theorem dieStacksLost_regions (s : State) (d : Nat) : (dieStacksLost s d).regions = s.regions := by
  obtain ⟨x, h⟩ := foldl_loseStack_others (i := d) (List.range 5) s
  rw [dieStacksLost, h]

theorem dieStacksLost_power (s : State) (d : Nat) : (dieStacksLost s d).power = s.power := by
  obtain ⟨x, h⟩ := foldl_loseStack_others (i := d) (List.range 5) s
  rw [dieStacksLost, h]

theorem stk_rethrottle (s : State) (k : Nat) : s.rethrottle.stk k = s.stk k := rfl

theorem region_rethrottle (s : State) (k : Nat) : s.rethrottle.region k = s.region k := rfl

/-- A die whose regions are fenced, its stacks lost and the throttle reasons taken anew. -/
theorem dieStacksLost_rethrottle {s v : State} {d : Nat} (h : Fences s v) (hd : d < 4) (h20 : s.stks.length = 20)
    (hf : ∀ k, k < 8 → (v.region (8 * d + k)).fenced = true) :
    (∀ k, k < 8 → ((dieStacksLost v d).rethrottle.region (8 * d + k)).fenced = true) ∧
      (∀ k, k < 5 → ((dieStacksLost v d).rethrottle.stk (5 * d + k)).lost = true) ∧
      (dieStacksLost v d).rethrottle.power.tripped = s.power.tripped := by
  refine ⟨fun k hk => ?_, fun k hk => ?_, ?_⟩
  · rw [region_rethrottle, ← hf k hk]
    exact congrArg (fun l => (List.getD l (8 * d + k) Region.init).fenced) (dieStacksLost_regions v d)
  · rw [stk_rethrottle]
    exact dieStacksLost_lost (by rw [h.stks]; omega) hk
  · exact (congrArg Power.tripped (dieStacksLost_power v d)).trans h.tripped

theorem execPhaseFail_stays {s : State} {r i : Nat} (hr : r < 32) (hi : i < 6) (h : bit (s.region r).phases i = true) :
    execPhaseFail r i s = .next s := (if_pos (by simp [hr, hi])).trans (congrArg _ (if_pos h))

/-- The state with a phase failed. -/
def phaseFailed (s : State) (r i : Nat) : State :=
  (s.modRegion r fun x => { x with phases := x.phases + 2 ^ i }).log 0x0006 0xFF [1, r, i]

theorem region_phaseFailed {s : State} {r : Nat} (i : Nat) (h : r < s.regions.length) :
    (phaseFailed s r i).region r = { s.region r with phases := (s.region r).phases + 2 ^ i } := by
  unfold phaseFailed
  rw [region_reported (reported_log _ _ _ _), region_modRegion _ h]

theorem phaseFailed_length (s : State) (r i : Nat) : (phaseFailed s r i).regions.length = s.regions.length := by
  unfold phaseFailed
  rw [(reported_log _ _ _ _).regions, modRegion_length]

theorem execPhaseFail_fails {s : State} {r i : Nat} (hr : r < 32) (hi : i < 6) (h : bit (s.region r).phases i = false) :
    execPhaseFail r i s = .next (if 2 ≤ ((phaseFailed s r i).region r).phasesBad then ((phaseFailed s r i).fenceRegion r).rethrottle
      else ((phaseFailed s r i).retarget r).rethrottle) :=
  (if_pos (by simp [hr, hi])).trans (congrArg _ (if_neg (by simp [h])))

theorem regions_startFrom : ∀ (l : List GearChange) (s : State), (s.startFrom l).regions = s.regions
  | [], _ => rfl
  | c :: r, s => by
    rw [State.startFrom]
    split
    split
    · exact regions_startFrom r s
    · rfl

theorem regions_requestChange (s : State) (region : Option Nat) (next : Nat) : (s.requestChange region next).regions = s.regions := by
  unfold State.requestChange
  split
  · rfl
  dsimp only
  split
  · exact regions_startFrom _ s
  · rfl

/-- A new target changes neither a region's failed phases nor its fence. -/
theorem region_retarget (s : State) (r k : Nat) :
    ((s.retarget r).region k).phases = (s.region k).phases ∧ ((s.retarget r).region k).fenced = (s.region k).fenced := by
  unfold State.retarget
  dsimp only
  split
  · exact ⟨rfl, rfl⟩
  split
  · have hk := fun {α} (g : Region → α) => region_modRegion_keeps (g := g)
      (f := fun x => { x with gear := (s.region r).target s.power.gear })
    exact ⟨hk Region.phases (fun _ => rfl) s r k, hk Region.fenced (fun _ => rfl) s r k⟩
  split
  · exact ⟨rfl, rfl⟩
  · unfold State.region
    rw [regions_requestChange]
    exact ⟨rfl, rfl⟩

/-- The state with a link regulator gone. -/
def linkGone (s : State) (i : Nat) : State := (s.log 0x0006 0xFF [2, i]).modPower fun w => { w with linkRegs := s.power.linkRegs - 2 ^ i }

theorem linkGone_power (s : State) (i : Nat) : (linkGone s i).power = { s.power with linkRegs := s.power.linkRegs - 2 ^ i } := by
  unfold linkGone State.modPower
  rw [(reported_log s 0x0006 0xFF [2, i]).power]

theorem execRailRegulatorFail_link {s : State} {i : Nat} (hi : i < 2) (h : bit s.power.linkRegs i = true) :
    execRailRegulatorFail .vddLink i s =
      .next (if s.power.linkRegs - 2 ^ i = 0 then (linkGone s i).hardTrip 0x20 2 else linkGone s i) := by
  refine (if_pos (decide_eq_true hi)).trans (congrArg _ ?_)
  dsimp only
  rw [if_pos h]
  rfl

theorem execRailRegulatorFail_die {s : State} {rail : Rail} {i : Nat} (hr : rail ≠ .vddLink) (hi : i < 4) :
    execRailRegulatorFail rail i s = .next (dieStacksLost ((s.log 0x0006 0xFF [2, i]).fenceDie i) i).rethrottle := by
  cases rail
  case vddLink => exact absurd rfl hr
  all_goals exact if_pos (decide_eq_true hi)

theorem pow_le_of_bit {n i : Nat} (h : bit n i = true) : 2 ^ i ≤ n := Nat.ge_two_pow_of_testBit h

/-- Settles O35. -/
theorem feedsAndRegulators : Obligations.FeedsAndRegulators := by
  intro s f g hne
  refine ⟨fun hs hh => ⟨_, execFeedSag_sags hs hh, ?_, feedMove_ne _ hne, rfl⟩, execFeedSag_stays,
    fun hs hh => ⟨_, execFeedSagEnd_ends hs hh, ?_, feedMove_ne _ hne⟩, execFeedSagEnd_stays,
    fun hh ho => ⟨_, execFeedOvervoltage_opens hh ho, ?_⟩, execFeedOvervoltage_stays,
    fun hs h => ⟨_, execFeedLoss_loses hs h, ?_, ?_, feedLost_rails hne⟩, execFeedLoss_stays,
    fun hs hw hh => ⟨_, execFeedReadmit_readmits hs hw hh, ?_⟩, execFeedReadmit_stays,
    fun va ia vb ib h => ⟨_, execFeedSample_off va ia vb ib h, rfl, rfl, rfl, rfl, rfl⟩,
    fun va ia vb ib h => ⟨fun hd => (execFeedSample_paced va ia vb ib h).trans (congrArg _ (paced_early _ hd)),
      fun hd => ⟨_, (execFeedSample_paced va ia vb ib h).trans (congrArg _ (paced_due _ hd)), ?_⟩⟩,
    fun b hb h => execBrickFail_stays hb h, fun b hb h => ⟨fun h4 => ⟨_, execBrickFail_fails hb h, ?_⟩,
      fun h4 => ⟨_, execBrickFail_fails hb h, ?_⟩⟩,
    fun r i hr hi h => execPhaseFail_stays hr hi h, fun r i hr hl hi h => ⟨fun h2 => ⟨_, execPhaseFail_fails hr hi h, ?_⟩,
      fun h2 => ⟨_, execPhaseFail_fails hr hi h, ?_⟩⟩,
    fun i hi h => ⟨_, execRailRegulatorFail_link hi h, ?_⟩, fun rail i hr hi h32 h20 => ⟨_, execRailRegulatorFail_die hr hi, ?_⟩⟩
  · rw [feedMove_same]
    rfl
  · rw [feedMove_same]
    rfl
  · have hg : (feedOpened s f).feedRec g = s.feedRec g := feedRec_modFeed_ne _ hne
    have hf : (feedOpened s f).feedRec f = { s.feedRec f with opened := true } := feedRec_modFeed_same s f _
    split
    · next hl =>
      rw [hg, hf]
      exact ⟨hl, rfl, rfl, fun _ => railsOn_modFeed s f _⟩
    · rw [feedLost_feedRec, feedLost_feedRec, feedMove_same, feedMove_ne _ hne, hg, hf]
      refine ⟨rfl, rfl, rfl, fun h => ?_⟩
      rw [(feedLost_rails hne).1 (by rw [hg]; exact h)]
      exact railsOn_modFeed s f _
  · rw [feedLost_feedRec, feedMove_same]
    rfl
  · rw [feedLost_feedRec, feedMove_ne _ hne]
  · rw [feedRec_log, feedRec_log, feedMove_same, feedMove_ne _ hne, feedRec_modFeed_same, feedRec_modFeed_ne _ hne]
    exact ⟨rfl, rfl, rfl⟩
  · have hk := feedSample_takes (s.modPower fun w => { w with ran := ((.sample, 0), s.now) :: w.ran.filter fun e => e.1 != (.sample, 0) })
      va ia vb ib
    refine ⟨congrArg FeedRec.mv hk.feedA, congrArg FeedRec.mv hk.feedB, _, _, hk.hist, rfl, rfl⟩
  · rw [if_neg (by omega)]
    have hp := brickGone_power s b
    have hb' := congrArg Power.bricks hp
    have ht := congrArg Power.tripped hp
    exact ⟨hb', brickGone_regions s b, ht⟩
  · rw [if_pos h4]
    obtain ⟨ht, hb', _⟩ := hardTrip_power (brickGone s b) cleatBrick 1
    refine ⟨hb'.trans ?_, ht⟩
    rw [brickGone_power]
  · have hr' := region_phaseFailed i hl
    rw [if_pos (by rw [hr']; exact h2)]
    refine ⟨fenceRegion_fences (by rw [phaseFailed_length]; exact hl), ((fences_fenceRegion (phaseFailed s r i) r).phases r).trans ?_⟩
    rw [hr']
  · have hr' := region_phaseFailed i hl
    rw [if_neg (by rw [hr']; exact Nat.not_le.mpr h2)]
    obtain ⟨hp, hf⟩ := region_retarget (phaseFailed s r i) r r
    refine ⟨hp.trans ?_, hf.trans ?_⟩
    · rw [hr']
    · rw [hr']
  · have hle := pow_le_of_bit h
    have hp := linkGone_power s i
    have ht := congrArg Power.tripped hp
    split
    · next h0 =>
      obtain ⟨ht, _, hl⟩ := hardTrip_power (linkGone s i) 0x20 2
      refine ⟨hl.trans (congrArg Power.linkRegs hp), fun hx => absurd (by omega) hx, fun _ => ht⟩
    · next h0 =>
      exact ⟨congrArg Power.linkRegs hp, fun _ => ⟨(reported_log s 0x0006 0xFF [2, i]).regions, ht⟩,
        fun hx => absurd (by omega) h0⟩
  · have hlog := fences_reported (reported_log s 0x0006 0xFF [2, i])
    have hdie := fences_fenceDie (s.log 0x0006 0xFF [2, i]) i
    exact dieStacksLost_rethrottle (hlog.trans hdie) hi h20
      fun k hk => fenceDie_fences (s := s.log 0x0006 0xFF [2, i]) (d := i) (by rw [hlog.length]; omega) hk

end Sys2Proof.Proofs.Feeds
end

section
/-! PROOFS. The power cap: O38. -/
namespace Sys2Proof.Proofs.Cap

open Sys2Proof Sys2Proof.Machine Sys2Proof.Laws Sys2Proof.Safety

/-! The least of a list and a start value. -/

theorem foldl_min_le_start : ∀ (l : List Nat) (a : Nat), l.foldl min a ≤ a
  | [], _ => Nat.le_refl _
  | b :: l, a => (foldl_min_le_start l (min a b)).trans (Nat.min_le_left a b)

theorem foldl_min_le_mem : ∀ (l : List Nat) (a : Nat), ∀ b ∈ l, l.foldl min a ≤ b
  | [], _, b, hb => absurd hb (by simp)
  | c :: l, a, b, hb => by
    rcases List.mem_cons.mp hb with rfl | hb
    · exact (foldl_min_le_start l (min a b)).trans (Nat.min_le_right a b)
    · exact foldl_min_le_mem l (min a c) b hb

theorem foldl_min_mem : ∀ (l : List Nat) (a : Nat), l.foldl min a = a ∨ l.foldl min a ∈ l
  | [], _ => .inl rfl
  | b :: l, a => by
    rcases foldl_min_mem l (min a b) with h | h
    · rw [List.foldl_cons, h]
      rcases Nat.le_total a b with hab | hab
      · exact .inl (Nat.min_eq_left hab)
      · exact .inr (by simp [Nat.min_eq_right hab])
    · exact .inr (List.mem_cons_of_mem _ h)

theorem capC_le {s : State} {x : Nat × Nat} (h : x ∈ s.capSources) : s.capC ≤ x.2 :=
  foldl_min_le_mem _ 1200 x.2 (List.mem_map_of_mem h)

/-- Settles O38. -/
theorem capIsTheLowestSource : Obligations.CapIsTheLowestSource := by
  intro s
  refine ⟨capC_le (x := (4, s.cap.ceil)) (by simp [State.capSources]), capC_le (x := (12, s.derateCap)) (by simp [State.capSources]),
    foldl_min_le_start _ _, fun h => capC_le (x := (5, s.power.tether)) (by simp [State.capSources, h]),
    fun v h => capC_le (x := (1, v)) (by simp [State.capSources, h]), fun v h => capC_le (x := (2, v)) (by simp [State.capSources, h]),
    fun h => ?_, ?_⟩
  · have hc : s.cartCap = some 600 := by
      unfold State.cartCap
      exact if_pos h
    exact capC_le (x := (13, 600)) (by simp [State.capSources, hc])
  · rcases foldl_min_mem (s.capSources.map Prod.snd) 1200 with h | h
    · exact .inl h
    · obtain ⟨x, hx, he⟩ := List.mem_map.mp h
      exact .inr ⟨x, hx, he⟩

end Sys2Proof.Proofs.Cap
end

section
/-! PROOFS. Sensors, the inlet, HBM temperatures, the blower and the cartridge: O37. -/
namespace Sys2Proof.Proofs.Sensors

open Sys2Proof Sys2Proof.Machine Sys2Proof.Laws Sys2Proof.Safety Sys2Proof.Proofs.Cleat Sys2Proof.Proofs.Reports
  Sys2Proof.Proofs.Feeds

/-! What a requested gear change and a lost reading change. -/

/-- Of the power state, a change requested or begun sets the change in progress, the queue and its beat alone. -/
theorem startFrom_only : ∀ (l : List GearChange) (s : State),
    ∃ c q g, s.startFrom l = { s with power := { s.power with cur := c, queue := q, gearAt := g } }
  | [], _ => ⟨_, _, _, rfl⟩
  | c :: r, s => by
    rw [State.startFrom]
    split
    split
    · exact startFrom_only r s
    · exact ⟨_, _, _, rfl⟩

theorem requestChange_only (s : State) (region : Option Nat) (next : Nat) :
    ∃ c q g, s.requestChange region next = { s with power := { s.power with cur := c, queue := q, gearAt := g } } := by
  unfold State.requestChange
  split
  · exact ⟨_, _, _, rfl⟩
  dsimp only
  split
  · exact startFrom_only _ s
  · exact ⟨_, _, _, rfl⟩

theorem followCeil_only (s : State) : ∃ c q g t, s.followCeil =
    { s with power := { s.power with cur := c, queue := q, gearAt := g, otherLowAt := t } } := by
  unfold State.followCeil
  dsimp only
  split
  · obtain ⟨c, q, g, h⟩ := requestChange_only s none s.sourceCeil
    rw [h]
    exact ⟨_, _, _, _, rfl⟩
  · exact ⟨_, _, _, _, rfl⟩

/-- A reading that is lost is logged. -/
theorem logInvalid_only (s : State) (what k : Nat) : ∃ o m f, s.logInvalid what k = { s with obs := o, mram := m, free := f } := by
  obtain ⟨o, m, h⟩ := log_only { s with free := s.free + 1 } ((Config.freeWord s.free).toNat % 65536) 0xFF [what, k]
  exact ⟨o, m, s.free + 1, h⟩

theorem foldl_logInvalid_only (base : Nat) (old new : List (Option Int)) : ∀ (l : List Nat) (s : State), ∃ o m f,
    l.foldl (fun s k => if (new.getD k none).isNone && (old.getD k none).isSome then s.logInvalid 0 (base + k) else s) s =
      { s with obs := o, mram := m, free := f }
  | [], s => ⟨s.obs, s.mram, s.free, rfl⟩
  | k :: l, s => by
    have hone : ∃ o m f, (if (new.getD k none).isNone && (old.getD k none).isSome then s.logInvalid 0 (base + k) else s) =
        { s with obs := o, mram := m, free := f } := by
      split
      · exact logInvalid_only s _ _
      · exact ⟨s.obs, s.mram, s.free, rfl⟩
    obtain ⟨o, m, f, h⟩ := hone
    obtain ⟨o', m', f', h'⟩ := foldl_logInvalid_only base old new l { s with obs := o, mram := m, free := f }
    exact ⟨o', m', f', by rw [List.foldl_cons, h, h']⟩

theorem logLost_only (s : State) (base : Nat) (old new : List (Option Int)) :
    ∃ o m f, s.logLost base old new = { s with obs := o, mram := m, free := f } := foldl_logInvalid_only base old new _ s

/-! Die sensors (R379, R401, R402). -/

theorem map_region_keeps {α : Type} {g : Region → α} {f : Region → Region} (h : ∀ x, g (f x) = g x) (l : List Region) (k : Nat) :
    g ((l.map f).getD k Region.init) = g (l.getD k Region.init) := by
  rw [List.getD_eq_getElem?_getD, List.getD_eq_getElem?_getD, List.getElem?_map]
  cases l[k]? with
  | none => rfl
  | some x => exact h x

theorem cleatAssert_temps (s : State) (src k : Nat) : ((s.cleatAssert src).region k).temps = (s.region k).temps := by
  cases h : s.power.cleat
  · obtain ⟨cur, o, m, t, hu⟩ := cleatAssert_falls src h
    rw [hu]
    exact map_region_keeps (g := Region.temps) (f := fun r => { r with gear := 0 }) (fun _ => rfl) s.regions k
  · rw [cleatAssert_again src h]
    rfl

theorem losePower_temps (s : State) (k : Nat) : (s.losePower.region k).temps = (s.region k).temps :=
  map_region_keeps (g := Region.temps) (f := fun r => { Region.init with phases := r.phases, temps := r.temps, tripRun := r.tripRun })
    (fun _ => rfl) s.regions k

theorem region_congr {s v : State} (h : v.regions = s.regions) (k : Nat) : v.region k = s.region k := by
  unfold State.region
  rw [h]

/-- A hard trip keeps the readings. -/
theorem hardTrip_temps (s : State) (source what k : Nat) : ((s.hardTrip source what).region k).temps = (s.region k).temps := by
  unfold State.hardTrip
  split
  · rfl
  · dsimp only
    rw [region_reported (reported_log _ 0x0008 0xFF [what])]
    refine (congrArg Region.temps (region_congr (s := (s.cleatAssert source).losePower) ?_ k)).trans
      ((losePower_temps _ k).trans (cleatAssert_temps s source k))
    rfl

theorem region_requestChange (s : State) (region : Option Nat) (next k : Nat) : (s.requestChange region next).region k = s.region k := by
  unfold State.region
  rw [regions_requestChange]

/-- A new target keeps the readings and how many regions there are. -/
theorem retarget_keeps (s : State) (r : Nat) : (s.retarget r).regions.length = s.regions.length ∧
    ∀ k, ((s.retarget r).region k).temps = (s.region k).temps := by
  unfold State.retarget
  dsimp only
  split
  · exact ⟨rfl, fun _ => rfl⟩
  split
  · refine ⟨modRegion_length s r _, fun k => ?_⟩
    exact region_modRegion_keeps (g := Region.temps) (f := fun x => { x with gear := (s.region r).target s.power.gear }) (fun _ => rfl) s r k
  split
  · exact ⟨rfl, fun _ => rfl⟩
  · refine ⟨by rw [regions_requestChange], fun k => by rw [region_requestChange]⟩

/-- A region takes its readings; every other keeps its own. -/
theorem regionSensors_takes (s : State) (r : Nat) (l : List (Option Int)) : (s.regionSensors r l).regions.length = s.regions.length ∧
    (r < s.regions.length → ((s.regionSensors r l).region r).temps = l) ∧
    ∀ k, k ≠ r → ((s.regionSensors r l).region k).temps = (s.region k).temps := by
  have hreg : (s.logLost (8 * r) (s.region r).temps l).regions = s.regions := by
    obtain ⟨o, m, f, h⟩ := logLost_only s (8 * r) (s.region r).temps l
    rw [h]
  unfold State.regionSensors
  dsimp only
  generalize s.logLost (8 * r) (s.region r).temps l = v at hreg ⊢
  refine ⟨(retarget_keeps _ r).1.trans ((modRegion_length v r _).trans (by rw [hreg])), fun hr => ?_, fun k hk => ?_⟩
  · rw [(retarget_keeps _ r).2, region_modRegion _ (by rw [hreg]; exact hr)]
  · rw [(retarget_keeps _ r).2, region_modRegion_ne _ hk, region_congr hreg]

theorem foldl_regionSensors {d : Nat} (g : Nat → List (Option Int)) : ∀ (l : List Nat) (s : State),
    (l.foldl (fun s k => s.regionSensors (8 * d + k) (g k)) s).regions.length = s.regions.length ∧
    (∀ k, k ∉ l → ((l.foldl (fun s k => s.regionSensors (8 * d + k) (g k)) s).region (8 * d + k)).temps = (s.region (8 * d + k)).temps) ∧
    ∀ k, k ∈ l → 8 * d + k < s.regions.length →
      ((l.foldl (fun s k => s.regionSensors (8 * d + k) (g k)) s).region (8 * d + k)).temps = g k
  | [], s => ⟨rfl, fun _ _ => rfl, fun k hk => absurd hk (by simp)⟩
  | j :: l, s => by
    obtain ⟨hlen, hout, hin⟩ := foldl_regionSensors (d := d) g l (s.regionSensors (8 * d + j) (g j))
    obtain ⟨hlen1, hin1, hout1⟩ := regionSensors_takes s (8 * d + j) (g j)
    refine ⟨hlen.trans hlen1, fun k hk => ?_, fun k hk hl => ?_⟩
    · obtain ⟨hkj, hkl⟩ := not_or.mp (fun h => hk (List.mem_cons.mpr h))
      exact (hout k hkl).trans (hout1 _ (by omega))
    · by_cases hkl : k ∈ l
      · exact hin k hkl (by rw [hlen1]; exact hl)
      · obtain rfl : k = j := (List.mem_cons.mp hk).resolve_right hkl
        exact (hout k hkl).trans (hin1 hl)

theorem noteHot_regions (s : State) (d : Nat) (l : List (Option Int)) : (s.noteHot d l).regions = s.regions := by
  unfold State.noteHot
  split <;> rfl

theorem dieSensors_takes {s : State} {d : Nat} (l : List (Option Int)) (hd : d < 4) (h32 : s.regions.length = 32) {k : Nat} (hk : k < 8) :
    ((s.dieSensors d l).region (8 * d + k)).temps = (l.drop (8 * k)).take 8 := by
  have h := (foldl_regionSensors (d := d) (fun k => (l.drop (8 * k)).take 8) (List.range 8) (s.noteHot d l)).2.2 k
    (List.mem_range.mpr hk) (by rw [noteHot_regions]; omega)
  unfold State.dieSensors
  rw [if_pos hd]
  dsimp only
  split
  · rw [hardTrip_temps]
    exact h
  · rw [region_rethrottle]
    exact h

/-! Spine sensors. -/

theorem anyAtLeast_false {l : List (Option Int)} {n : Int} (h : ∀ x ∈ l, ∀ v, x = some v → v < n) : anyAtLeast l n = false := by
  unfold anyAtLeast
  rw [List.any_eq_false]
  intro x hx
  cases x with
  | none => simp
  | some v => simpa using h _ hx v rfl

theorem tripCount_below {n : Nat} {x : Option Int} (hn : n < 3) (hx : ∀ v, x = some v → v < 110) : tripCount n x 110 < 3 := by
  unfold tripCount
  cases x with
  | none => exact hn
  | some v =>
    dsimp only
    rw [if_neg (Int.not_le.mpr (hx v rfl))]
    decide

/-- The readings in a row from 110 °C on, with a new reading of every spine sensor. -/
def spineRuns (s : State) (l : List (Option Int)) : List Nat := List.zipWith (fun n x => tripCount n x 110) s.thermal.spineTrip l

theorem mem_zipWith {α β γ : Type} {f : α → β → γ} : ∀ {as : List α} {bs : List β} {c : γ}, c ∈ List.zipWith f as bs →
    ∃ a ∈ as, ∃ b ∈ bs, f a b = c
  | a :: as, b :: bs, c, h => by
    rcases List.mem_cons.mp h with rfl | h
    · exact ⟨a, by simp, b, by simp, rfl⟩
    · obtain ⟨a', ha, b', hb, e⟩ := mem_zipWith h
      exact ⟨a', List.mem_cons_of_mem _ ha, b', List.mem_cons_of_mem _ hb, e⟩

theorem spineRuns_below {s : State} {l : List (Option Int)} (hl : ∀ x ∈ l, ∀ v, x = some v → v < 110)
    (hn : ∀ n ∈ s.thermal.spineTrip, n < 3) : ((spineRuns s l).any fun n => decide (3 ≤ n)) = false := by
  rw [List.any_eq_false]
  intro c hc
  obtain ⟨n, hn', x, hx, rfl⟩ := mem_zipWith hc
  have := tripCount_below (hn n hn') (hl x hx)
  simpa using this

theorem spineRuns_over {s : State} {l : List (Option Int)} {i : Nat} {v : Int} (hi : i < s.thermal.spineTrip.length)
    (hl : l[i]? = some (some v)) (hv : 110 ≤ v) (hn : 2 ≤ s.thermal.spineTrip.getD i 0) :
    ((spineRuns s l).any fun n => decide (3 ≤ n)) = true := by
  rw [List.any_eq_true]
  refine ⟨s.thermal.spineTrip.getD i 0 + 1, ?_, by simpa using hn⟩
  refine List.mem_of_getElem? (i := i) ?_
  rw [spineRuns, List.getElem?_zipWith, hl, List.getElem?_eq_getElem hi]
  simp [tripCount, hv, hi]

/-- The state with the spine's readings taken, before a trip or a new target. -/
structure SpineTaken (s v : State) (l : List (Option Int)) : Prop where
  spine : v.thermal.spine = l
  runs : v.thermal.spineTrip = spineRuns s l
  tripped : v.power.tripped = s.power.tripped
  ceil : v.power.spineCeil = (thermStep s.now s.goal s.power.spineCeil s.thermal.spineHotAt s.thermal.spineCoolAt l).1

theorem dieSensors_spine (s : State) (l : List (Option Int)) : ∃ v, SpineTaken s v l ∧
    s.dieSensors 4 l = if v.thermal.spineTrip.any (3 ≤ ·) then v.hardTrip cleatThermal 3 else v.followCeil.rethrottle := by
  refine ⟨_, ?_, (if_neg (by decide))⟩
  obtain ⟨o, m, f, h⟩ := logLost_only s 256 s.thermal.spine l
  rw [h]
  exact ⟨rfl, rfl, rfl, rfl⟩

theorem thermStep_keeps {now gear ceil hotAt coolAt : Nat} {l : List (Option Int)} (hl : ∀ x ∈ l, ∀ v, x = some v → v < 95)
    (hc : now < coolAt + 100000000) : (thermStep now gear ceil hotAt coolAt l).1 = ceil := by
  unfold thermStep
  rw [anyAtLeast_false hl]
  have : ¬coolAt + 100 * MS ≤ now := by
    simp only [MS]
    omega
  rw [if_neg (by simp), if_neg this]
  split <;> rfl

theorem followCeil_rethrottle (s : State) : s.followCeil.rethrottle.thermal = s.thermal ∧
    s.followCeil.rethrottle.power.tripped = s.power.tripped ∧ s.followCeil.rethrottle.power.spineCeil = s.power.spineCeil := by
  obtain ⟨c, q, g, t, h⟩ := followCeil_only s
  rw [h]
  exact ⟨rfl, rfl, rfl⟩

/-! HBM temperatures (R248, R403). -/

/-- The ceiling follows the hottest stack in the power state alone, and a trip stays. -/
theorem hbmCeiling_only (s : State) : ∃ p, s.hbmCeiling = { s with power := p } ∧ p.tripped = s.power.tripped := by
  have hcool : ∃ p, (if s.stks.any fun k => decide (97 ≤ k.celsius) then s.modPower fun w => { w with hbmCool := s.now } else s) =
      { s with power := p } ∧ p.tripped = s.power.tripped := by
    split
    · exact ⟨_, rfl, rfl⟩
    · exact ⟨_, rfl, rfl⟩
  obtain ⟨p, h, hp⟩ := hcool
  unfold State.hbmCeiling
  dsimp only
  rw [h]
  dsimp only
  split
  · split
    · obtain ⟨c, q, g, t, hf⟩ := followCeil_only (State.modPower { s with power := p } fun w =>
        { w with hbmCeil := min w.hbmCeil (State.goal { s with power := p }) - 1, hbmAt := s.now })
      rw [hf]
      exact ⟨_, rfl, hp⟩
    · exact ⟨_, rfl, hp⟩
  · split
    · exact ⟨_, rfl, hp⟩
    · exact ⟨_, rfl, hp⟩

theorem stk_modStk {s : State} {k : Nat} (f : Stack → Stack) (h : k < s.stks.length) : (s.modStk k f).stk k = f (s.stk k) := by
  simp [State.stk, State.modStk, modAt, h]

theorem stk_modStk_ne {s : State} {k j : Nat} (f : Stack → Stack) (h : j ≠ k) : (s.modStk k f).stk j = s.stk j := by
  simp [State.stk, State.modStk, modAt, Ne.symm h]

theorem hbmTemp_takes {s : State} {k : Nat} (t : Option Int) (h : k < s.stks.length) : ∃ v : State, v.stk k = (s.stk k).take t ∧
    (∀ j, j ≠ k → v.stk j = s.stk j) ∧ v.power.tripped = s.power.tripped ∧
    s.hbmTemp k t = if 3 ≤ (v.stk k).trips then v.hardTrip cleatThermal 4 else v.rethrottle := by
  have hlog : ∃ o m f, (if t.isNone && (s.stk k).temp.isSome then s.logInvalid 1 k else s) = { s with obs := o, mram := m, free := f } := by
    split
    · exact logInvalid_only s 1 k
    · exact ⟨s.obs, s.mram, s.free, rfl⟩
  obtain ⟨o, m, f, hl⟩ := hlog
  obtain ⟨p, hc, hp⟩ := hbmCeiling_only (State.modStk { s with obs := o, mram := m, free := f } k fun x => x.take t)
  refine ⟨_, ?_, ?_, ?_, rfl⟩
  · rw [hl, hc]
    exact stk_modStk (s := { s with obs := o, mram := m, free := f }) _ h
  · intro j hj
    rw [hl, hc]
    exact stk_modStk_ne (s := { s with obs := o, mram := m, free := f }) _ hj
  · rw [hl, hc]
    exact hp

/-! Due or not. -/

/-- The state with a task's run noted. -/
def ranAt (s : State) (k : Task) (n : Nat) : State :=
  s.modPower fun w => { w with ran := ((k, n), s.now) :: w.ran.filter fun e => e.1 != (k, n) }

theorem execDieSensorRead_due {s : State} {d : Nat} {l : List (Option Int)} (hr : s.pwrRuns = true) (hd : d < 5)
    (hl : l.length = if d < 4 then 64 else 16) (hdue : s.due .sensors d 100000 = true) :
    execDieSensorRead d l s = .next ((ranAt s .sensors d).dieSensors d l) := by
  refine (if_pos (decide_eq_true hd)).trans (congrArg _ ?_)
  dsimp only
  rw [if_neg (not_not.mpr hl), if_pos hr, paced_due _ hdue]
  rfl

theorem execDieSensorRead_early {s : State} {d : Nat} {l : List (Option Int)} (hr : s.pwrRuns = true) (hd : d < 5)
    (hdue : s.due .sensors d 100000 = false) : execDieSensorRead d l s = .next s := by
  refine (if_pos (decide_eq_true hd)).trans (congrArg _ ?_)
  dsimp only
  generalize (if d < 4 then 64 else 16) = n
  split
  · rfl
  · exact paced_early _ hdue

/-- The state with an inlet reading taken. -/
def inletTaken (s : State) (t : Int) : State :=
  (ranAt s .inlet 0).modThermal fun x => { x with inlet := t, inletTrip := if 45 < t then s.thermal.inletTrip + 1 else 0 }

theorem execInletRead_due {s : State} {t : Int} (hr : s.pwrRuns = true) (hdue : s.due .inlet 0 1000000000 = true) :
    execInletRead t s = .next (if 3 ≤ (if 45 < t then s.thermal.inletTrip + 1 else 0) then (inletTaken s t).hardTrip cleatThermal 5
      else (inletTaken s t).rethrottle) := by
  refine congrArg Host.Outcome.next ((if_neg (by simp [hr])).trans ?_)
  exact (paced_due _ hdue)

theorem execInletRead_stays {s : State} {t : Int} (h : s.pwrRuns = false ∨ s.due .inlet 0 1000000000 = false) :
    execInletRead t s = .next s := by
  refine congrArg Host.Outcome.next ?_
  split
  · rfl
  · next hr =>
    rcases h with h | h
    · simp [h] at hr
    · exact paced_early _ h

theorem execHbmTempRead_due {s : State} {k : Nat} {t : Option Int} (hr : s.pwrRuns = true) (hk : k < 20)
    (hdue : s.due .hbm k 100000 = true) : execHbmTempRead k t s = .next ((ranAt s .hbm k).hbmTemp k t) := by
  refine (if_pos (decide_eq_true hk)).trans (congrArg _ ((if_pos hr).trans ?_))
  exact paced_due _ hdue

theorem execHbmTempRead_stays {s : State} {k : Nat} {t : Option Int} (hk : k < 20) (h : s.pwrRuns = false ∨ s.due .hbm k 100000 = false) :
    execHbmTempRead k t s = .next s := by
  refine (if_pos (decide_eq_true hk)).trans (congrArg _ ?_)
  dsimp only
  split
  · next hr =>
    rcases h with h | h
    · rw [h] at hr
      cases hr
    · exact paced_early _ h
  · rfl

/-! The blower and the cartridge (R404 to R410). -/

theorem execBlowerUpdate_due {s : State} {m r : Nat} (hdue : s.due .blower 0 100000000 = true) : execBlowerUpdate m r s =
    .next ((ranAt s .blower 0).modThermal fun t => { t with
      fanMeas := m, fanRpm := r, fanCmd := s.fanWant, fanSlowAt := sinceWhen (2 * m < t.fanCmd) s.now t.fanSlowAt }) :=
  congrArg Host.Outcome.next (paced_due _ hdue)

theorem setCartState_same {s : State} {st : CartSt} (h : s.thermal.cart = st) : s.setCartState st = s := if_pos h

theorem setCartState_thermal (s : State) (st : CartSt) : (s.setCartState st).thermal = { s.thermal with cart := st } := by
  unfold State.setCartState
  split
  · next h =>
    subst h
    rfl
  · rfl

theorem setCartState_alerts {s : State} {st : CartSt} (h : s.thermal.cart ≠ st) : (s.setCartState st).pins.alertLow = true := by
  rw [State.setCartState, if_neg h]
  rfl

theorem execBlowerFail_fails {s : State} (hp : s.thermal.present = true) (hh : heldFor s.thermal.fanSlowAt s.now 5000000000 = true) :
    execBlowerFail s = .next (s.setCartState .failed) :=
  congrArg Host.Outcome.next (if_pos (by simp [hp, SEC1, hh]))

theorem execBlowerFail_stays {s : State} (h : s.thermal.present = false ∨ heldFor s.thermal.fanSlowAt s.now 5000000000 = false ∨
    s.thermal.cart = .failed) : execBlowerFail s = .next s := by
  refine congrArg Host.Outcome.next ?_
  split
  · next hc =>
    rw [Bool.and_eq_true] at hc
    obtain ⟨hp, hh⟩ := hc
    rcases h with h | h | h
    · rw [h] at hp
      cases hp
    · rw [show (5 * SEC1 : Nat) = 5000000000 from rfl, h] at hh
      cases hh
    · exact setCartState_same h
  · rfl

/-- A cartridge answers the challenge with the policy's root and a good signature. -/
def goodReply (s : State) (c : CartReply) : Bool :=
  c.answered && c.rootHash == (if s.cap.cartRoot = 0 then Config.hexbizenCartRoot else s.cap.cartHash) &&
    Config.ecdsaVerify c.key (Config.labelDigest 3 [Config.challenge s.thermal.challenges, c.cartId, c.life]) c.signature

/-- The state with a challenge sent. -/
def challenged (s : State) : State :=
  s.modThermal fun t => { t with challenges := t.challenges + 1, challengeAt := s.now, challengeDue := false }

theorem challenge_failed {s : State} (c : CartReply) (h : s.thermal.cart = .failed) : s.challenge c = challenged s := if_pos h

theorem challenge_bad {s : State} {c : CartReply} (h : s.thermal.cart ≠ .failed) (hg : goodReply s c = false) :
    s.challenge c = (challenged s).setCartState .unidentified := (if_neg h).trans (if_pos (by
      rw [show (c.answered && c.rootHash == (if s.cap.cartRoot = 0 then Config.hexbizenCartRoot else s.cap.cartHash) &&
        Config.ecdsaVerify c.key (Config.labelDigest 3 [Config.challenge s.thermal.challenges, c.cartId, c.life]) c.signature) = false from hg]
      rfl))

theorem cartFlags_thermal (s : State) : ∃ w e g, s.cartFlags.thermal = { s.thermal with cartWarn := w, cartExpired := e, cartInGrace := g } :=
  ⟨_, _, _, rfl⟩

theorem challenge_good {s : State} {c : CartReply} (h : s.thermal.cart ≠ .failed) (hg : goodReply s c = true) :
    (s.challenge c).thermal.cart = .identified ∧ (s.challenge c).thermal.cartId = c.cartId ∧ c.life * 100 ≤ (s.challenge c).thermal.cartLife := by
  let n := max (((s.thermal.lives.find? fun e => e.1 == c.cartId).map Prod.snd).getD 0) (c.life * 100)
  have hc : s.challenge c = (((challenged s).modThermal fun t => { t with
      cartId := c.cartId, cartLife := n, cartStored := c.life, lives := setLife t.lives c.cartId n }).cartFlags).setCartState
        .identified := (if_neg h).trans (if_neg (by
      rw [show (c.answered && c.rootHash == (if s.cap.cartRoot = 0 then Config.hexbizenCartRoot else s.cap.cartHash) &&
        Config.ecdsaVerify c.key (Config.labelDigest 3 [Config.challenge s.thermal.challenges, c.cartId, c.life]) c.signature) = true from hg]
      simp))
  rw [hc, setCartState_thermal]
  exact ⟨rfl, rfl, Nat.le_max_right _ _⟩

theorem execCartChallenge_runs {s : State} (c : CartReply) (h : s.mayChallenge = true) : execCartChallenge c s = .next (s.challenge c) :=
  congrArg Host.Outcome.next (if_pos h)

/-- The state with a cartridge put in or taken out. -/
def presenceSet (s : State) (p : Bool) : State := s.modThermal fun t => { t with present := p, fanSlowAt := none, challengeDue := true }

theorem execCartPresenceChange_changes {s : State} {p : Bool} (h : p ≠ s.thermal.present) : execCartPresenceChange p s =
    .next (if s.power.tripped then presenceSet s p else (presenceSet s p).setCartState (if p then .unidentified else .absent)) :=
  congrArg Host.Outcome.next (if_neg h)

theorem execCartLifeTick_ticks {s : State} {m : Nat} (h : s.thermal.cart = .identified) (hd : s.due .lifeTick 0 60000000000 = true) :
    execCartLifeTick m s = .next ((ranAt s .lifeTick 0).modThermal fun t => { t with
      cartLife := s.thermal.cartLife + max m 25, lives := setLife t.lives t.cartId (s.thermal.cartLife + max m 25) }).cartFlags :=
  congrArg Host.Outcome.next ((if_neg (by simp [h])).trans (paced_due _ hd))

theorem execCartLifeTick_stays {s : State} {m : Nat} (h : s.thermal.cart ≠ .identified ∨ s.due .lifeTick 0 60000000000 = false) :
    execCartLifeTick m s = .next s := by
  refine congrArg Host.Outcome.next ?_
  dsimp only
  split
  · rfl
  · next hc => exact paced_early _ (h.resolve_left hc)

theorem execCartLifeWrite_writes {s : State} (h : s.thermal.cart = .identified) (hd : s.due .lifeWrite 0 3600000000000 = true) :
    execCartLifeWrite s = .next ((ranAt s .lifeWrite 0).modThermal fun t => { t with cartStored := t.cartLife / 100 }) :=
  congrArg Host.Outcome.next ((if_pos h).trans (paced_due _ hd))

theorem execCartLifeWrite_stays {s : State} (h : s.thermal.cart ≠ .identified ∨ s.due .lifeWrite 0 3600000000000 = false) :
    execCartLifeWrite s = .next s := by
  refine congrArg Host.Outcome.next ?_
  split
  · next hc => exact paced_early _ (h.resolve_left (not_not.mpr hc))
  · rfl

/-- Settles O37. -/
theorem sensorsAndBlower : Obligations.SensorsAndBlower := by
  intro s
  refine ⟨fun d l hr hd hdue => execDieSensorRead_early hr hd hdue,
    fun d l hr hd hl h32 hdue => ⟨_, execDieSensorRead_due hr (by omega) (by rw [if_pos hd]; exact hl) hdue, fun k hk => ?_⟩,
    fun l hr hl h16 hdue => ⟨fun hb hn => ⟨_, execDieSensorRead_due hr (by decide) hl hdue, ?_⟩,
      fun i v hi hv hov hn => ⟨_, execDieSensorRead_due hr (by decide) hl hdue, ?_⟩⟩,
    fun t hr hdue => ⟨fun ht => ⟨_, execInletRead_due hr hdue, ?_⟩, fun ht hn => ⟨_, execInletRead_due hr hdue, ?_⟩⟩,
    fun k t hr hk hl hdue => ⟨fun ht => ⟨_, execHbmTempRead_due hr hk hdue, ?_⟩, fun ht hn => ⟨_, execHbmTempRead_due hr hk hdue, ?_⟩⟩,
    fun k t hk h => execHbmTempRead_stays hk h, fun t h => execInletRead_stays h,
    fun m r hdue => ⟨_, execBlowerUpdate_due hdue, rfl, rfl, fun ht => if_pos ht, fun ht hh => ?_, fun t ht hh => ?_, rfl, rfl⟩,
    fun m r hdue => congrArg Host.Outcome.next (paced_early _ hdue),
    fun hp hh hc => ⟨_, execBlowerFail_fails hp hh, congrArg Thermal.cart (setCartState_thermal s .failed), setCartState_alerts hc⟩,
    execBlowerFail_stays, fun c h => congrArg Host.Outcome.next (if_neg (by simp [h])),
    fun c root h hroot => ⟨fun hc => ⟨_, execCartChallenge_runs c h, ?_⟩, fun hc ha hh hv => ⟨_, execCartChallenge_runs c h, ?_⟩,
      fun hc hbad => ⟨_, execCartChallenge_runs c h, ?_⟩⟩,
    congrArg Host.Outcome.next (if_pos rfl), fun p hp => ⟨_, execCartPresenceChange_changes hp, ?_⟩,
    fun m hc hd => ⟨_, execCartLifeTick_ticks hc hd, rfl, hc⟩, fun hc hd => ⟨_, execCartLifeWrite_writes hc hd, rfl⟩,
    fun m => ⟨execCartLifeTick_stays, execCartLifeWrite_stays⟩⟩
  · exact dieSensors_takes (s := ranAt s .sensors d) l hd h32 hk
  · obtain ⟨v, hv, he⟩ := dieSensors_spine (ranAt s .sensors 4) l
    have hruns : (v.thermal.spineTrip.any fun n => decide (3 ≤ n)) = false := by
      rw [hv.runs]
      exact spineRuns_below hb hn
    obtain ⟨hth, htr, hce⟩ := followCeil_rethrottle v
    rw [he, hruns]
    refine ⟨(congrArg Thermal.spine hth).trans hv.spine, htr.trans hv.tripped, fun h95 hcool => (hce.trans hv.ceil).trans ?_⟩
    exact thermStep_keeps h95 hcool
  · obtain ⟨w, hw, he⟩ := dieSensors_spine (ranAt s .sensors 4) l
    have hruns : (w.thermal.spineTrip.any fun n => decide (3 ≤ n)) = true := by
      rw [hw.runs]
      exact spineRuns_over (by rw [show (ranAt s .sensors 4).thermal = s.thermal from rfl, h16]; exact hi) hv hov hn
    rw [he, hruns]
    exact (hardTrip_power w cleatThermal 3).1
  · rw [if_neg (Int.not_lt.mpr ht)]
    refine ⟨rfl, if_neg (Int.not_lt.mpr ht), rfl, rfl⟩
  · rw [if_pos ht, if_pos (by omega)]
    exact (hardTrip_power _ cleatThermal 5).1
  · obtain ⟨v, hk', hj, hp, he⟩ := hbmTemp_takes (s := ranAt s .hbm k) t hl
    have ht0 : ((s.stk k).take t).trips = 0 := if_neg (by omega)
    rw [he, hk', show (ranAt s .hbm k).stk k = s.stk k from rfl, ht0, if_neg (by decide), stk_rethrottle, hk']
    exact ⟨rfl, ht0, rfl, hj, hp⟩
  · obtain ⟨v, hk', hj, hp, he⟩ := hbmTemp_takes (s := ranAt s .hbm k) t hl
    have ht3 : ((s.stk k).take t).trips = (s.stk k).trips + 1 := if_pos ht
    rw [he, hk', show (ranAt s .hbm k).stk k = s.stk k from rfl, ht3, if_pos (by omega)]
    exact (hardTrip_power v cleatThermal 4).1
  · show s.fanWant = _
    unfold State.fanWant
    rw [ht, hh]
    rfl
  · show s.fanWant = _
    unfold State.fanWant
    rw [ht, hh]
    rfl
  · rw [challenge_failed c hc]
    exact hc
  · refine challenge_good hc ?_
    unfold goodReply
    rw [← hroot, ha, hh, hv]
    simp
  · have hg : goodReply s c = false := by
      unfold goodReply
      rw [← hroot]
      rcases hbad with h | h | h
      · simp [h]
      · simp [h]
      · simp [h]
    rw [challenge_bad hc hg, setCartState_thermal]
    exact ⟨rfl, rfl⟩
  · split
    · exact ⟨rfl, rfl⟩
    · rw [setCartState_thermal]
      exact ⟨rfl, rfl⟩

end Sys2Proof.Proofs.Sensors
end

section
/-! PROOFS. A home's update of one line, its service, and evictions: O18, O19 and O20. -/
namespace Sys2Proof.Proofs.Home

open Sys2Proof Sys2Proof.Machine Sys2Proof.Laws Sys2Proof.Safety

/-! Lines and masks. -/

theorem mergeMask_length : ∀ (os ns : List Byte) (m : Nat), (mergeMask os ns m).length = os.length
  | o :: os, n :: ns, m => by simp [mergeMask, mergeMask_length os ns]
  | [], _, _ => rfl
  | _ :: _, [], _ => rfl

/-- A full mask takes every byte. -/
theorem mergeMask_full : ∀ (k : Nat) (os ns : List Byte), os.length = k → ns.length = k → mergeMask os ns (2 ^ k - 1) = ns
  | 0, [], [], _, _ => rfl
  | k + 1, o :: os, n :: ns, ho, hn => by
    have hpos := Nat.one_le_two_pow (n := k)
    have hpow := Nat.pow_succ 2 k
    have h2 : (2 ^ (k + 1) - 1) % 2 = 1 := by omega
    have hd : (2 ^ (k + 1) - 1) / 2 = 2 ^ k - 1 := by omega
    rw [mergeMask, if_pos h2, hd, mergeMask_full k os ns (by simpa using ho) (by simpa using hn)]

theorem splice_length {line new : List Byte} {lo : Nat} (hl : line.length = 64) (h : lo + new.length ≤ 64) :
    (splice line lo new).length = 64 := by
  simp [splice]
  omega

theorem lineRead_length {s : State} {d : Nat} (hc : Cache.coherent s d) (key : Nat) : (s.lineRead d key).length = 64 := by
  unfold State.lineRead
  split
  · next l h => exact (hc key l h).1
  · exact cellsRead_length _ _ _

/-! States with the same lines on a die, its memory in order. -/

/-- v has the lines of s on die d, and is as fit for the rules about a line as s is. -/
structure Same (s v : State) (d : Nat) : Prop where
  lines : SameLines s v d
  wf : Safety.Memory.wf v = true
  coherent : Cache.coherent v d
  dies : d < v.dies.length
  poison : ∀ key, v.linePoison d key = s.linePoison d key

theorem Same.trans {s v w : State} {d : Nat} (h : Same s v d) (k : Same v w d) : Same s w d :=
  ⟨fun key => (k.lines key).trans (h.lines key), k.wf, k.coherent, k.dies, fun key => (k.poison key).trans (h.poison key)⟩

theorem same_modDie {s : State} {d : Nat} (e : Nat) {f : Die → Die} (h : ∀ x, (f x).cache = x.cache) (hw : Safety.Memory.wf s = true)
    (hc : Cache.coherent s d) (hd : d < s.dies.length) : Same s (s.modDie e f) d := by
  refine ⟨lines_modDie s e d f h, wf_of_same hw rfl rfl rfl rfl, coherent_modDie h hc, ?_, fun key => ?_⟩
  · simpa [State.modDie, modAt] using hd
  · unfold State.linePoison
    rw [cached_modDie s e d key f h]
    rfl

theorem same_charge {s : State} {d : Nat} (e gear layer op kind n : Nat) (hw : Safety.Memory.wf s = true) (hc : Cache.coherent s d)
    (hd : d < s.dies.length) : Same s (s.charge e gear layer op kind n) d := by
  unfold State.charge
  split
  · exact ⟨fun _ => rfl, hw, hc, hd, fun _ => rfl⟩
  · exact same_modDie e (fun _ => rfl) hw hc hd

/-! What a home does with a request (R239, R259). -/

/-- The cache and HBM accesses of a request are charged. -/
def chargedFor (s : State) (q : HomeReq) (d key : Nat) : State :=
  let s := s.charge d (s.power.gear) q.layer q.op evCache 1
  if (s.cached d key).isSome then s else s.charge d (s.power.gear) q.layer q.op evHbm 1

/-- The agents of an ordering scope are noted. -/
def scopeNoted (s : State) (q : HomeReq) (d key : Nat) : State :=
  if q.scope = 0 then s else
    s.modDie d fun x => scopeTest x (match s.cached d key with | some l => l.tag | none => none) q.who q.scope q.layer

/-- A line that is read fills the cache. -/
def filled (s : State) (d key off : Nat) (skip : Bool) (old : List Byte) : State :=
  if skip then s else (s.allocate d ⟨key, off, old, false, s.poison.contains key, none⟩).getD s

/-- A line is stored and its block's CRC kept. -/
def storedLine (s : State) (al : Alloc) (q : HomeReq) (d key : Nat) (whole : Bool) (old new : List Byte) (tag : Option (Nat × Nat))
    (allocate : Bool) : State :=
  (s.putLine d key (q.off / 64 * 64) new allocate tag).keepCrc al (q.off / 64 * 64) whole old new

theorem same_chargedFor {s : State} {d : Nat} (q : HomeReq) (key : Nat) (hw : Safety.Memory.wf s = true) (hc : Cache.coherent s d)
    (hd : d < s.dies.length) : Same s (chargedFor s q d key) d := by
  have h1 := same_charge d s.power.gear q.layer q.op evCache 1 hw hc hd
  unfold chargedFor
  dsimp only
  split
  · exact h1
  · exact h1.trans (same_charge d _ q.layer q.op evHbm 1 h1.wf h1.coherent h1.dies)

theorem scopeTest_cache (x : Die) (tag : Option (Nat × Nat)) (who : Who) (scope layer : Nat) :
    (scopeTest x tag who scope layer).cache = x.cache := by
  unfold scopeTest
  split
  · rfl
  dsimp only
  split
  · rfl
  split
  · rfl
  · rfl

theorem same_scopeNoted {s : State} {d : Nat} (q : HomeReq) (key : Nat) (hw : Safety.Memory.wf s = true) (hc : Cache.coherent s d)
    (hd : d < s.dies.length) : Same s (scopeNoted s q d key) d := by
  unfold scopeNoted
  split
  · exact ⟨fun _ => rfl, hw, hc, hd, fun _ => rfl⟩
  · exact same_modDie d (fun x => scopeTest_cache x _ _ _ _) hw hc hd

theorem lines_filled {s : State} {d key off : Nat} {skip : Bool} {old : List Byte} (hw : Safety.Memory.wf s = true)
    (hc : Cache.coherent s d) (hd : d < s.dies.length) (ho : old = s.lineRead d key) (k : Nat) :
    (filled s d key off skip old).lineRead d k = s.lineRead d k := by
  unfold filled
  split
  · rfl
  cases h : s.allocate d ⟨key, off, old, false, s.poison.contains key, none⟩ with
  | none => rfl
  | some v =>
    obtain ⟨h1, h2⟩ := allocate_lines hd hw hc h
    by_cases hk : k = key
    · subst hk
      exact h1.trans ho
    · exact h2 k hk

theorem lines_keepCrc (s : State) (al : Alloc) (off : Nat) (whole : Bool) (old new : List Byte) (d k : Nat) :
    (s.keepCrc al off whole old new).lineRead d k = s.lineRead d k := by
  unfold State.keepCrc
  split
  · rfl
  · refine lines_modDie s _ d _ ?_ k
    exact fun _ => rfl

theorem lines_storedLine {s : State} (al : Alloc) (q : HomeReq) {d key : Nat} (whole : Bool) (old : List Byte) {new : List Byte}
    (tag : Option (Nat × Nat)) (allocate : Bool) (hw : Safety.Memory.wf s = true) (hc : Cache.coherent s d) (hd : d < s.dies.length)
    (hn : new.length = 64) : (storedLine s al q d key whole old new tag allocate).lineRead d key = new ∧
      ∀ k, k ≠ key → (storedLine s al q d key whole old new tag allocate).lineRead d k = s.lineRead d k := by
  obtain ⟨h1, h2⟩ := putLine_lines (off := q.off / 64 * 64) (al := allocate) (tag := tag) hd hw hc hn (key := key)
  exact ⟨(lines_keepCrc _ al _ whole old new d key).trans h1, fun k hk => (lines_keepCrc _ al _ whole old new d k).trans (h2 k hk)⟩

/-- What a home does with a request, its accesses charged. -/
def applied (s : State) (al : Alloc) (q : HomeReq) (d key : Nat) : HomeAns :=
  let lo := q.off % 64
  let full := match q.kind with | .writeLine m _ => m == 2 ^ 64 - 1 | _ => false
  let alloc := !q.noalloc && !al.e.noalloc
  let old := s.lineRead d key
  let bad := s.linePoison d key && !full
  let fin : ReqEnd := if bad then .dataBad 5 q.off else .ok
  let tag := if q.scope = 0 then none else some (q.who.agent, q.scope)
  let crc := if al.e.crc && q.whole then some (s.blockCrc al (q.off / 4096 * 4096)) else none
  let store := fun (s : State) (new : List Byte) (tag : Option (Nat × Nat)) (allocate : Bool) =>
    storedLine s al q d key (q.whole && full) old new tag allocate
  match q.kind with
  | .readLine => ⟨filled (scopeNoted s q d key) d key (q.off / 64 * 64) ((s.cached d key).isSome || !alloc) old, fin, old, crc⟩
  | .readItem => ⟨s, fin, sub old lo 32, none⟩
  | .writeLine m data => if bad then ⟨s, fin, [], none⟩ else ⟨store s (mergeMask old data m) tag alloc, fin, [], none⟩
  | .writeItem data => if bad then ⟨s, fin, [], none⟩ else ⟨store s (splice old lo data) none false, fin, [], none⟩
  | .atomic aop ret opd =>
    if bad then ⟨s, fin, opd, none⟩
    else
      let r := atomicApply aop (old.drop lo) opd
      ⟨store (scopeNoted s q d key) (splice old lo r.1) tag alloc, fin, if ret then r.2 else [], none⟩

theorem homeApply_eq {s : State} {al : Alloc} {q : HomeReq} (hlost : (s.stk (place al (q.off / 64 * 64)).1).lost = false) :
    s.homeApply al q false = applied (chargedFor s q ((place al (q.off / 64 * 64)).1 / 5) (physKey (place al (q.off / 64 * 64)) / 64)) al q
      ((place al (q.off / 64 * 64)).1 / 5) (physKey (place al (q.off / 64 * 64)) / 64) :=
  (if_neg (by simp [hlost])).trans rfl

section
variable {s : State} {al : Alloc} {q : HomeReq} {key d : Nat} (hp : s.linePoison d key = false)
include hp

theorem applied_readLine (hk : q.kind = .readLine) : (applied s al q d key).fin = .ok ∧ (applied s al q d key).data = s.lineRead d key ∧
    ∃ skip, (applied s al q d key).s = filled (scopeNoted s q d key) d key (q.off / 64 * 64) skip (s.lineRead d key) := by
  unfold applied
  simp only [hp, hk, Bool.false_and, Bool.false_eq_true, if_false]
  exact ⟨trivial, trivial, _, rfl⟩

theorem applied_writeLine {m : Nat} {data : List Byte} (hk : q.kind = .writeLine m data) : (applied s al q d key).fin = .ok ∧
    ∃ whole tag allocate, (applied s al q d key).s = storedLine s al q d key whole (s.lineRead d key) (mergeMask (s.lineRead d key) data m)
      tag allocate := by
  unfold applied
  simp only [hp, hk, Bool.false_and, Bool.false_eq_true, if_false]
  exact ⟨trivial, _, _, _, rfl⟩

theorem applied_writeItem {data : List Byte} (hk : q.kind = .writeItem data) : ∃ whole tag allocate, (applied s al q d key).s =
    storedLine s al q d key whole (s.lineRead d key) (splice (s.lineRead d key) (q.off % 64) data) tag allocate := by
  unfold applied
  simp only [hp, hk, Bool.false_and, Bool.false_eq_true, if_false]
  exact ⟨_, _, _, rfl⟩

theorem applied_atomic {aop : Nat} {ret : Bool} {opd : List Byte} (hk : q.kind = .atomic aop ret opd) :
    (applied s al q d key).data = (if ret then (atomicApply aop ((s.lineRead d key).drop (q.off % 64)) opd).2 else []) ∧
    ∃ whole tag allocate, (applied s al q d key).s = storedLine (scopeNoted s q d key) al q d key whole (s.lineRead d key)
      (splice (s.lineRead d key) (q.off % 64) (atomicApply aop ((s.lineRead d key).drop (q.off % 64)) opd).1) tag allocate := by
  unfold applied
  simp only [hp, hk, Bool.false_and, Bool.false_eq_true, if_false]
  exact ⟨trivial, _, _, _, rfl⟩

end

/-- Settles O19. -/
theorem homeUpdatesOneLine : Obligations.HomeUpdatesOneLine := by
  rintro s al q key d hw hc rfl rfl hd hlost hpois
  have hch := same_chargedFor q (physKey (place al (q.off / 64 * 64)) / 64) hw hc hd
  have hp := (hch.poison _).trans hpois
  have hold := hch.lines (physKey (place al (q.off / 64 * 64)) / 64)
  have hlen := lineRead_length hc (physKey (place al (q.off / 64 * 64)) / 64)
  have htest := same_scopeNoted q (physKey (place al (q.off / 64 * 64)) / 64) hch.wf hch.coherent hch.dies
  rw [homeApply_eq hlost]
  generalize hv : chargedFor s q ((place al (q.off / 64 * 64)).1 / 5) (physKey (place al (q.off / 64 * 64)) / 64) = v at hch hp hold htest ⊢
  refine ⟨fun hk => ?_, fun m data hk hdl => ?_, fun data hk hdl => ?_, fun aop ret opd hk hdl => ?_⟩
  · obtain ⟨hfin, hdata, skip, hs⟩ := applied_readLine (al := al) hp hk
    refine ⟨hfin, hdata.trans hold, fun k => ?_⟩
    rw [hs, lines_filled htest.wf htest.coherent htest.dies (htest.lines _).symm]
    exact (htest.lines k).trans (hch.lines k)
  · obtain ⟨hfin, whole, tag, allocate, hs⟩ := applied_writeLine (al := al) hp hk
    rw [hold] at hs
    obtain ⟨h1, h2⟩ := lines_storedLine al q whole _ tag allocate hch.wf hch.coherent hch.dies
      ((mergeMask_length _ data m).trans hlen) (key := physKey (place al (q.off / 64 * 64)) / 64)
    rw [hs]
    exact ⟨hfin, h1, fun hm => h1.trans (by rw [hm]; exact mergeMask_full 64 _ _ hlen hdl), fun k hk => (h2 k hk).trans (hch.lines k)⟩
  · obtain ⟨whole, tag, allocate, hs⟩ := applied_writeItem (al := al) hp hk
    rw [hold] at hs
    obtain ⟨h1, h2⟩ := lines_storedLine al q whole _ tag allocate hch.wf hch.coherent hch.dies
      (splice_length hlen hdl) (key := physKey (place al (q.off / 64 * 64)) / 64)
    rw [hs]
    exact ⟨h1, fun k hk => (h2 k hk).trans (hch.lines k)⟩
  · obtain ⟨hdata, whole, tag, allocate, hs⟩ := applied_atomic (al := al) hp hk
    rw [hold] at hs hdata
    obtain ⟨h1, h2⟩ := lines_storedLine al q whole _ tag allocate htest.wf htest.coherent htest.dies
      (splice_length hlen (Nat.add_comm _ _ ▸ hdl)) (key := physKey (place al (q.off / 64 * 64)) / 64)
    rw [hs]
    exact ⟨h1, hdata, fun k hk => (h2 k hk).trans ((htest.lines k).trans (hch.lines k))⟩

end Sys2Proof.Proofs.Home
end

section
/-! PROOFS. A home slice's grants, evictions and scrubbing: O18 and O20. -/
namespace Sys2Proof.Proofs.HomeServe

open Sys2Proof Sys2Proof.Machine Sys2Proof.Laws Sys2Proof.Safety

/-! Evictions (R239, R249). -/

theorem execCacheEvict_runs {s : State} {d key : Nat} (h : d < 4) : execCacheEvict d key s = .next (s.evict d key) :=
  if_pos (decide_eq_true h)

theorem evict_uncached {s : State} {d key : Nat} (hk : key < 2 ^ 40) (h : s.cached d key = none) : s.evict d key = s := by
  rw [State.evict, if_neg (by omega), h]

theorem evict_held {s : State} {d key : Nat} {l : CacheLine} (hk : key < 2 ^ 40) (h : s.cached d key = some l) (hd : l.dirty = true)
    (hr : s.keyReady key = false) : s.evict d key = s := by
  rw [State.evict, if_neg (by omega), h]
  simp [hd, hr]

/-- A block of a list of side-table entries without it, then the entry put back where it is no default. -/
theorem find_setCrc (pre l : List (Nat × Nat)) (blk v : Nat) :
    (match (pre.filter (fun e => e.1 != blk) ++ setCrc l blk v).find? fun e => e.1 == blk with
      | some e => e.2
      | none => crcZero) = v := by
  have hnone : ∀ r : List (Nat × Nat), (r.filter fun e => e.1 != blk).find? (fun e => e.1 == blk) = none := fun r => by
    rw [List.find?_eq_none]
    intro x hx
    have := (List.mem_filter.mp hx).2
    simpa using this
  rw [List.find?_append, hnone, Option.none_or, setCrc]
  by_cases h : v = crcZero
  · rw [if_pos h, hnone]
    exact h.symm
  · rw [if_neg h]
    simp

theorem evict_crc {s : State} {d blk : Nat} (hd : d = dieOfKey blk) :
    (s.evict d (crcLine blk)).crcOf blk = s.crcOf blk ∧ (s.evict d (crcLine blk)).hbm = s.hbm := by
  have hblk : crcLine blk - 2 ^ 40 = blk := by unfold crcLine; omega
  unfold State.evict
  rw [if_pos (by unfold crcLine; omega), hblk]
  dsimp only
  cases hf : (s.die d).sideTab.find? fun e => e.1 == blk with
  | none => exact ⟨rfl, rfl⟩
  | some e =>
    dsimp only
    split
    · exact ⟨rfl, rfl⟩
    · have hlt : d < s.dies.length := by
        by_contra hge
        have : s.die d = Die.init := by
          unfold State.die
          rw [List.getD_eq_default]
          omega
        rw [this] at hf
        cases hf
      refine ⟨?_, rfl⟩
      have hold : s.crcOf blk = e.2 := by
        unfold State.crcOf
        rw [← hd, List.find?_append, hf]
        rfl
      have hdie := die_modDie (s := s) (d := d) (fun x => { x with sideTab := x.sideTab.filter fun e => e.1 != blk }) hlt
      rw [hold]
      refine Eq.trans ?_ (find_setCrc (s.die d).sideTab s.crcs blk e.2)
      unfold State.crcOf
      rw [← hd]
      unfold State.die at hdie ⊢
      rw [hdie] <;> rfl

/-! Scrubbing (R252). -/

/-- Whether a block of an allocation is scrubbed on a die. -/
def scrubs (d block : Nat) (al : Alloc) : Bool := al.e.crc && al.has block && block % 4096 == 0 && (place al block).1 / 5 == d

/-- Whether the block has its turn. -/
def scrubReady (s : State) (d block : Nat) (al : Alloc) : Bool :=
  !((s.die d).scrubbed.any fun e => e.1 == physKey (place al block) && e.2 / s.scrubNs == s.now / s.scrubNs) &&
    (List.range 16).all fun c => s.stackReady al (block + 256 * c)

/-- The state once the block is scrubbed. -/
def scrubbed (s : State) (d block : Nat) (al : Alloc) : State :=
  let u := (s.readBlock al block).1.modDie d fun x => { x with
    scrubbed := (physKey (place al block), (s.readBlock al block).1.now) :: x.scrubbed.filter fun e => e.1 != physKey (place al block) }
  if crc32c (s.readBlock al block).2 = (s.readBlock al block).1.blockCrc al block then u
  else (u.post (some al.part) 0x000D d 0 0 block).log 0x000B al.part [d, block]

def scrubOne (d block : Nat) (s : State) (al : Alloc) : State :=
  if scrubs d block al && scrubReady s d block al then scrubbed s d block al else s

theorem scrub_foldl (s : State) (d block : Nat) : s.scrub d block = s.allocs.foldl (scrubOne d block) s := by
  unfold State.scrub
  congr 1
  funext v al
  unfold scrubOne scrubbed
  refine if_congr Iff.rfl ?_ rfl
  dsimp only
  by_cases h : crc32c (v.readBlock al block).2 = (v.readBlock al block).1.blockCrc al block
  · rw [if_pos h, if_neg (by simp [h])]
  · rw [if_neg h, if_pos (by simpa using h)]

theorem foldl_scrubOne_none {d block : Nat} : ∀ (l : List Alloc) (s : State), (∀ al ∈ l, scrubs d block al = false) →
    l.foldl (scrubOne d block) s = s
  | [], _, _ => rfl
  | al :: l, s, h => by
    have h1 : scrubOne d block s al = s := if_neg (by simp [h al (by simp)])
    rw [List.foldl_cons, h1]
    exact foldl_scrubOne_none l s fun a ha => h a (by simp [ha])

theorem foldl_scrubOne_one {d block : Nat} {l : List Alloc} {s : State} {al : Alloc} (h : l.filter (scrubs d block) = [al]) :
    l.foldl (scrubOne d block) s = if scrubReady s d block al then scrubbed s d block al else s := by
  obtain ⟨l1, l2, rfl, h1, hal, h2⟩ := List.filter_eq_cons_iff.mp h
  have hone : scrubOne d block s al = if scrubReady s d block al then scrubbed s d block al else s := by
    unfold scrubOne
    rw [hal, Bool.true_and]
  rw [List.foldl_append, foldl_scrubOne_none l1 s fun a ha => Bool.eq_false_iff.mpr (h1 a ha), List.foldl_cons, hone]
  exact foldl_scrubOne_none l2 _ fun a ha => Bool.eq_false_iff.mpr fun hp => by
    have : a ∈ l2.filter (scrubs d block) := List.mem_filter.mpr ⟨ha, hp⟩
    rw [h2] at this
    cases this

theorem execScrubBlock_runs {s : State} {d block : Nat} (h : d < 4) : execScrubBlock d block s = .next (s.scrub d block) :=
  if_pos (decide_eq_true h)

/-- Settles O20. -/
theorem evictionIsInvisible : Obligations.EvictionIsInvisible := by
  refine ⟨fun s d key h4 hd hw hc hk => ⟨fun hn => ?_, fun l hl => ⟨fun hdl hr => ?_, fun hr => ?_⟩⟩,
    fun s d blk h4 hd => ⟨_, execCacheEvict_runs h4, evict_crc hd⟩, fun s d block h4 =>
        ⟨fun hn => ?_, fun al hal => ⟨fun h => ?_, fun hs hr =>
      ⟨_, rfl, ?_⟩⟩⟩⟩
  · exact (execCacheEvict_runs h4).trans (congrArg _ (evict_uncached hk hn))
  · exact (execCacheEvict_runs h4).trans (congrArg _ (evict_held hk hl hdl hr))
  · obtain ⟨h1, h2, _, h3, h5, _⟩ := evict_line hk hd hw hc hl hr
    refine ⟨_, execCacheEvict_runs h4, ?_, h2, h3, h5⟩
    rw [h1, if_pos rfl]
  · exact (execScrubBlock_runs h4).trans (congrArg _ ((scrub_foldl s d block).trans (foldl_scrubOne_none s.allocs s hn)))
  · refine (execScrubBlock_runs h4).trans (congrArg _ ((scrub_foldl s d block).trans ((foldl_scrubOne_one hal).trans (if_neg ?_))))
    unfold scrubReady
    rcases h with h | h
    · simp [h]
    · simp [h]
  · refine (execScrubBlock_runs h4).trans (congrArg _ ((scrub_foldl s d block).trans ((foldl_scrubOne_one hal).trans (if_pos ?_))))
    unfold scrubReady
    rw [hs, hr]
    rfl

/-! What a Strata event leaves of a die's cache and slices. -/

/-- A Strata event's change: the caches and the slices stay. -/
def Counted (s v : State) : Prop := Sampled s v ∧ ∀ d, (v.die d).cache = (s.die d).cache ∧ (v.die d).slices = (s.die d).slices

theorem Counted.refl (s : State) : Counted s s := ⟨.refl s, fun _ => ⟨rfl, rfl⟩⟩

theorem Counted.trans {s v w : State} (h : Counted s v) (k : Counted v w) : Counted s w :=
  ⟨h.1.trans k.1, fun d => ⟨(k.2 d).1.trans (h.2 d).1, (k.2 d).2.trans (h.2 d).2⟩⟩

theorem counted_foldl {α : Type} {f : State → α → State} (h : ∀ s a, Counted s (f s a)) :
    ∀ (l : List α) (s : State), Counted s (l.foldl f s)
  | [], s => .refl s
  | a :: l, s => (h s a).trans (counted_foldl h l (f s a))

/-- A part of every die that a change of one keeps. -/
theorem die_modDie_keeps {α : Type} {g : Die → α} {f : Die → Die} (h : ∀ x, g (f x) = g x) (s : State) (d e : Nat) :
    g ((s.modDie d f).die e) = g (s.die e) := by
  unfold State.die State.modDie modAt
  simp only [List.getD_eq_getElem?_getD, List.getElem?_modify]
  cases s.dies[e]? with
  | none => rfl
  | some x =>
    dsimp only [Functor.map, Option.map]
    split
    · exact h x
    · rfl

theorem counted_modMon (s : State) (d m : Nat) (f : Monitor → Monitor) : Counted s (s.modMon d m f) := by
  refine ⟨sampled_modMon s d m f, fun e => ?_⟩
  unfold State.modMon
  split
  · exact ⟨rfl, rfl⟩
  · have hk := fun {α} (g : Die → α) => die_modDie_keeps (g := g) (f := fun x => { x with mons := modAt x.mons m f })
    exact ⟨hk Die.cache (fun _ => rfl) s d e, hk Die.slices (fun _ => rfl) s d e⟩

theorem counted_post (s : State) (p : Option Nat) (e src layer op detail : Nat) : Counted s (s.post p e src layer op detail) := by
  refine ⟨sampled_post s p e src layer op detail, fun d => ?_⟩
  have : (s.post p e src layer op detail).dies = s.dies := by
    unfold State.post State.postPage
    cases p with
    | none => dsimp only; split <;> rfl
    | some p => dsimp only; split <;> rfl
  unfold State.die
  rw [this]
  exact ⟨rfl, rfl⟩

theorem counted_sample (s : State) (d m raw : Nat) (force : Bool) : Counted s (s.sample d m raw force) := by
  unfold State.sample
  dsimp only
  split
  · exact (counted_modMon _ _ _ _).trans (counted_post _ _ _ _ _ _ _)
  · exact counted_modMon _ _ _ _

theorem counted_emit (s : State) (d source raw layer op a b inst : Nat) : Counted s (s.emit d source raw layer op a b inst) := by
  unfold State.emit State.sampleEvent
  split
  · exact .refl s
  · refine counted_foldl (fun v m => ?_) _ _
    split
    · split
      · exact counted_modMon _ _ _ _
      · exact counted_sample _ _ _ _ _
    · exact .refl v

theorem cached_counted {s v : State} (h : Counted s v) (d key : Nat) : v.cached d key = s.cached d key := by
  unfold State.cached
  rw [(h.2 d).1]

theorem lineRead_counted {s v : State} (h : Counted s v) (d key : Nat) : v.lineRead d key = s.lineRead d key := by
  obtain ⟨_, _, _, _, hv⟩ := h.1
  unfold State.lineRead
  rw [cached_counted h, hv]

/-! A slice's grants (R241 to R243). -/

theorem pickReq_none {ok : HomeReq → Bool} {c : Nat} : ∀ (l seen : List HomeReq), (∀ q ∈ l, ok q = false) → pickReq ok c seen l = none
  | [], _, _ => rfl
  | q :: l, seen, h => by
    rw [pickReq, if_neg (by simp [h q (by simp)])]
    exact pickReq_none l _ fun r hr => h r (by simp [hr])

theorem pick_none (h : HomeSlice) : (h.pick fun _ => false) = none := by
  unfold HomeSlice.pick
  simp

theorem granted_none {s : State} {d k : Nat}
    (h : ((s.die d).slices.getD k ⟨[], 0, [0, 0, 0, 0]⟩).waiting.all (fun q => !s.reqReady q) = true) : s.granted d k s.reqReady =
        none := by
  have hp : ∀ c, pickReq s.reqReady c [] ((s.die d).slices.getD k ⟨[], 0, [0, 0, 0, 0]⟩).waiting = none := fun c =>
    pickReq_none _ _ fun q hq => by simpa using List.all_eq_true.mp h q hq
  unfold State.granted
  simp only [hp, Option.isSome_none, pick_none]

theorem pickReq_one {ok : HomeReq → Bool} {q : HomeReq} (h : ok q = true) (c : Nat) :
    pickReq ok c [] [q] = if q.cls = c then some q else none := by
  simp [pickReq, h]

/-- The only waiting request of a slice in a fresh window is picked by its class. -/
theorem pick_fresh {c : Nat} (h : c = 1 ∨ c = 2 ∨ c = 3 ∨ c = 4) (w : List HomeReq) :
    (HomeSlice.pick ⟨w, 0, [0, 0, 0, 0]⟩ fun k => decide (c = k)) = some c := by
  rcases h with rfl | rfl | rfl | rfl <;> rfl

theorem granted_one {s : State} {d k : Nat} {q : HomeReq} (hs : (s.die d).slices.getD k ⟨[], 0, [0, 0, 0, 0]⟩ = ⟨[q], 0, [0, 0, 0, 0]⟩)
    (hq : s.reqReady q = true) (hc : q.cls = 1 ∨ q.cls = 2 ∨ q.cls = 3 ∨ q.cls = 4) :
    s.granted d k s.reqReady = some (q, (s.modDie d fun x =>
      { x with slices := modAt x.slices k fun h => { h.grant q.cls with waiting := h.waiting.erase q } }).emit d srcScWait
        (s.now - q.since) 0 0 0 0 (q.cls - 1)) := by
  have hw : (fun c => (pickReq s.reqReady c [] [q]).isSome) = fun c => decide (q.cls = c) := by
    funext c
    rw [pickReq_one hq]
    by_cases h : q.cls = c
    · simp [h]
    · simp [h]
  unfold State.granted
  rw [hs]
  dsimp only
  rw [hw, pick_fresh hc]
  dsimp only
  rw [pickReq_one hq, if_pos rfl]
  rfl

theorem sliceOp_granted {s s1 : State} {d k : Nat} {q : HomeReq} (parity : Bool) (h : s.granted d k s.reqReady = some (q, s1)) :
    s.sliceOp d k parity = s1.serveReq q parity := by
  rw [State.sliceOp, h]

theorem execHomeSliceOperation_runs {s : State} {d k : Nat} (parity : Bool) (hd : d < 4) (hk : k < 16) :
    execHomeSliceOperation d k parity s = .next (s.sliceOp d k parity) := if_pos (by simp [hd, hk])

/-- The slices of a die once a request is granted. -/
theorem slices_grant {s : State} {d k : Nat} {q : HomeReq} (hd : d < s.dies.length) (hk : k < (s.die d).slices.length)
    (hs : (s.die d).slices.getD k ⟨[], 0, [0, 0, 0, 0]⟩ = ⟨[q], 0, [0, 0, 0, 0]⟩) :
    (((s.modDie d fun x => { x with slices := modAt x.slices k fun h => { h.grant q.cls with waiting := h.waiting.erase q } }).die
        d).slices).getD
      k ⟨[], 0, [0, 0, 0, 0]⟩ = ⟨[], 1, modAt [0, 0, 0, 0] (q.cls - 1) (· + 1)⟩ := by
  rw [die_modDie _ hd]
  dsimp only
  rw [List.getD_eq_getElem?_getD, List.getElem?_eq_getElem hk] at hs
  have hs' : (s.die d).slices[k] = ⟨[q], 0, [0, 0, 0, 0]⟩ := hs
  simp [modAt, List.getD_eq_getElem?_getD, hk, hs', HomeSlice.grant]

theorem serveReq_unmapped {s : State} {q : HomeReq} (parity : Bool) (h : s.allocOfReq q = none) :
    s.serveReq q parity = s.answer_ q.who (.refused 1 (if q.kind.isAtomic then 0x22 else 0x20) q.off) [] none := by
  rw [State.serveReq, h]

theorem serveReq_mapped {s : State} {q : HomeReq} {al : Alloc} (parity : Bool) (h : s.allocOfReq q = some al) :
    s.serveReq q parity = (s.homeApply al q parity).s.answer_ q.who (s.homeApply al q parity).fin (s.homeApply al q parity).data
      (s.homeApply al q parity).crc := by
  rw [State.serveReq, h]

/-- Settles O18. -/
theorem homeSliceServes : Obligations.HomeSliceServes := by
  refine ⟨fun s d k parity hd hk h => ?_, fun s d k q parity hd hk hs hq hc => ?_⟩
  · refine (execHomeSliceOperation_runs parity hd hk).trans (congrArg _ ?_)
    rw [State.sliceOp, granted_none h]
  · let s0 := s.modDie d fun x => { x with slices := modAt x.slices k fun h => { h.grant q.cls with waiting := h.waiting.erase q } }
    let s1 := s0.emit d srcScWait (s.now - q.since) 0 0 0 0 (q.cls - 1)
    have hcnt : Counted s0 s1 := counted_emit s0 _ _ _ _ _ _ _ _
    obtain ⟨ds, m, e, i, hv⟩ := hcnt.1
    have hrun : ∀ u, s1.serveReq q parity = u → exec (.homeSliceOperation d k parity) s = .next u := fun u hu =>
      (execHomeSliceOperation_runs parity hd hk).trans (congrArg _ ((sliceOp_granted parity (granted_one hs hq hc)).trans hu))
    have hal : s1.allocOfReq q = s.allocOfReq q := by
      rw [hv]
      rfl
    refine ⟨s1, fun key d' => ?_, by rw [hv]; rfl, by rw [hv]; rfl, by rw [hv]; rfl, fun hdl hkl => ?_,
      fun hn => hrun _ (serveReq_unmapped parity (hal.trans hn)), fun al ha => hrun _ (serveReq_mapped parity (hal.trans ha))⟩
    · rw [lineRead_counted hcnt]
      refine lines_modDie s d d' _ ?_ key
      exact fun _ => rfl
    · rw [(hcnt.2 d).2]
      exact slices_grant hdl hkl hs

end Sys2Proof.Proofs.HomeServe
end

section
/-! PROOFS. Requests and flag lines at a tile: O21. -/
namespace Sys2Proof.Proofs.TileRequests

open Sys2Proof Sys2Proof.Machine Sys2Proof.Laws Sys2Proof.Safety Sys2Proof.Proofs.VectorResult Sys2Proof.Proofs.Signals

/-! A masked write of 64 bytes (R232). -/

theorem cellsRead_one (l : List Host.Cell) (a : Nat) : cellsRead l a 1 = [cellGet l a] := rfl

theorem sramKey_add (t a k : Nat) (h : a + k < 2 ^ 21) : sramKey t (a + k) = sramKey t a + k := by
  unfold sramKey
  omega

theorem sramRead_sramMask {s : State} {t a m : Nat} {data : List Byte} (hw : Safety.Memory.wf s = true) (hd : data.length = 64)
    (ha : a + 64 ≤ 2 ^ 21) :
    (∀ k, k < 64 → (s.sramMask t a m data).sramRead t (a + k) 1 =
      if m / 2 ^ k % 2 = 1 then [data.getD k 0] else s.sramRead t (a + k) 1) ∧
    ∀ b, b < 2 ^ 21 → b < a ∨ a + 64 ≤ b → (s.sramMask t a m data).sramRead t b 1 = s.sramRead t b 1 := by
  have hs := (wf_parts.mp hw).1
  have hget := fun c => cellGet_cellsMask (bs := data) (a := sramKey t a) (m := m) (c := c) hs
  unfold State.sramRead State.sramMask
  simp only [cellsRead_one]
  refine ⟨fun k hk => ?_, fun b hb hout => ?_⟩
  · rw [hget, sramKey_add t a k (by omega), hd, Nat.add_sub_cancel_left]
    by_cases hm : m / 2 ^ k % 2 = 1
    · rw [if_pos ⟨by omega, by omega, hm⟩, if_pos hm]
    · rw [if_neg (fun h => hm h.2.2), if_neg hm]
  · rw [hget, if_neg]
    rw [hd]
    unfold sramKey
    omega

/-! TILE_SRAM_LINE_REQUEST. -/

theorem pumpRegion_room (s : State) (r : Nat) : s.pumpRegion r false = s := rfl

theorem execTileSramLineRequest_none {s : State} {t : Nat} (upset : Option Nat) (ht : t < 384) (h : s.nextTileReq t = none) :
    execTileSramLineRequest t upset s = .next s := by
  refine (if_pos (decide_eq_true ht)).trans (congrArg _ ?_)
  have hreq : s.tileReq t upset = s := by
    unfold State.tileReq
    rw [h]
  dsimp only
  rw [h, hreq]
  rfl

theorem execTileSramLineRequest_some {s : State} {t : Nat} {q : HomeReq} (upset : Option Nat) (ht : t < 384)
    (h : s.nextTileReq t = some q) :
    execTileSramLineRequest t upset s = .next ((s.tileReq t upset).pumpRegion (q.who.region.getD 0)
      (match q.who.region with | some r => s.reqsFull (12 * r) t | none => false)) := by
  refine (if_pos (decide_eq_true ht)).trans (congrArg _ ?_)
  dsimp only
  rw [h] <;> rfl

section
variable {s : State} {t : Nat} {q : HomeReq} {upset : Option Nat} (h : s.nextTileReq t = some q)
  (ho : (s.held .tile t && !s.wasOpen q.who) = false)
include h ho

/-- The state with the request taken out and the upset of a word, if any. -/
def tookReq (s : State) (t : Nat) (q : HomeReq) (upset : Option Nat) : State :=
    upsetIn { s with tileReqs := s.tileReqs.erase (t, q) } t upset

theorem tileReq_fenced (hf : (s.region (t / 12)).fenced = true) :
    s.tileReq t upset = (tookReq s t q upset).answer_ q.who (.refused 3 1 q.off) [] none := by
  unfold State.tileReq
  rw [h]
  exact (if_neg (by simp [ho])).trans (if_pos hf)

theorem tileReq_serves (hf : (s.region (t / 12)).fenced = false) : s.tileReq t upset = match q.kind with
    | .writeLine m data => ((tookReq s t q upset).sramMask t (aOfOff q.off) m data).answer_ q.who .ok [] none
    | .readLine =>
      match (tookReq s t q upset).sramBadIn t (aOfOff q.off) 64 with
      | some b => ((tookReq s t q upset).postParity t b rdPorter q.layer q.op).answer_ q.who (.dataBad 2 b)
          ((tookReq s t q upset).sramRead t (aOfOff q.off) 64) none
      | none => (tookReq s t q upset).answer_ q.who .ok ((tookReq s t q upset).sramRead t (aOfOff q.off) 64) none
    | .readItem | .writeItem _ | .atomic _ _ _ => (tookReq s t q upset).answer_ q.who (.refused 1 0x22 q.off) [] none := by
  unfold State.tileReq
  rw [h]
  refine ((if_neg (by simp [ho])).trans (if_neg ?_)).trans rfl
  rw [show s.region (regionOfTile t) = s.region (t / 12) from rfl, hf]
  simp

end

theorem tookReq_sram (s : State) (t : Nat) (q : HomeReq) (upset : Option Nat) : (tookReq s t q upset).sram = s.sram := by
  cases upset <;> rfl

theorem tookReq_sramRead (s : State) (t : Nat) (q : HomeReq) (upset : Option Nat) (u a n : Nat) :
    (tookReq s t q upset).sramRead u a n = s.sramRead u a n := by
  unfold State.sramRead
  rw [tookReq_sram]

theorem tookReq_wf {s : State} {t : Nat} {q : HomeReq} {upset : Option Nat} (h : Safety.Memory.wf s = true) :
    Safety.Memory.wf (tookReq s t q upset) = true := by
  cases upset
  · exact wf_of_same h rfl rfl rfl rfl
  · exact wf_of_same h rfl rfl rfl rfl

/-! FLAG_LAND. -/

theorem execFlagLand_runs {s : State} {d k : Nat} (h : d < 4) : execFlagLand d k s = .next (s.flagStep d k) := if_pos (decide_eq_true h)

theorem flagStep_none {s : State} {d k : Nat} (h : (s.die d).flags[k]? = none) : s.flagStep d k = s := by
  rw [State.flagStep, h]

theorem flagStep_waits {s : State} {d k : Nat} {fl : FlagLine} (h : (s.die d).flags[k]? = some fl)
    (hr : s.flagReady fl = false ∨ s.flagPlaceReady fl = false) : s.flagStep d k = s := by
  rw [State.flagStep, h]
  refine if_pos ?_
  rcases hr with hr | hr
  · simp [hr]
  · simp [hr]

theorem flagStep_lands {s : State} {d k : Nat} {fl : FlagLine} (h : (s.die d).flags[k]? = some fl) (hr : s.flagReady fl = true)
    (hp : s.flagPlaceReady fl = true) (hz : ∀ t op r, fl.who = .tile t op r → s.tileFrozen t = false) :
    s.flagStep d k = ((((s.landFlag fl).s.modDie d fun x => { x with flags := x.flags.eraseIdx k }).flagFill d).answer_ fl.who
      (s.landFlag fl).fin [] none) := by
  rw [State.flagStep, h]
  refine if_neg ?_
  rw [hr, hp]
  cases hw : fl.who with
  | tile t op r => simp [hz t op r hw]
  | remote _ _ => simp
  | core => simp
  | engine _ => simp


theorem landFlag_tile {s : State} {fl : FlagLine} (h : isTileSram fl.off = true) (hf : (s.region (tileOfOff fl.off / 12)).fenced = false) :
    s.landFlag fl = ⟨if fl.tcnt = 0 then s.sramWrite (tileOfOff fl.off) (aOfOff fl.off) fl.data
      else (s.sramWrite (tileOfOff fl.off) (aOfOff fl.off) fl.data).addToken (tileOfOff fl.off) fl.ttok fl.tcnt, .ok, [], none⟩ := by
  refine (if_pos h).trans (if_neg ?_)
  rw [show s.region (regionOfTile (tileOfOff fl.off)) = s.region (tileOfOff fl.off / 12) from rfl, hf]
  simp

/-- A flag line's bytes and tokens land in its tile. -/
theorem landFlag_lands {s : State} {fl : FlagLine} (h : isTileSram fl.off = true) (hf : (s.region (tileOfOff fl.off / 12)).fenced = false)
    (hw : Safety.Memory.wf s = true) (hd : fl.data.length = 64) (ha : aOfOff fl.off + 64 ≤ 2 ^ 21) (ht : tileOfOff fl.off < s.tiles.length)
    (hv : (s.tile (tileOfOff fl.off)).tokens.getD fl.ttok 0 + fl.tcnt ≤ 65535) :
    (s.landFlag fl).fin = .ok ∧ (s.landFlag fl).s.sramRead (tileOfOff fl.off) (aOfOff fl.off) 64 = fl.data ∧
      ((s.landFlag fl).s.tile (tileOfOff fl.off)).tokens = (if fl.tcnt = 0 then (s.tile (tileOfOff fl.off)).tokens
        else (s.tile (tileOfOff fl.off)).tokens.set fl.ttok ((s.tile (tileOfOff fl.off)).tokens.getD fl.ttok 0 + fl.tcnt)) ∧
      (s.landFlag fl).s.hbm = s.hbm := by
  have hread := (sramRead_store (t := tileOfOff fl.off) (a := aOfOff fl.off) (bs := fl.data) hw (by rw [hd]; exact ha)).1
  rw [hd] at hread
  rw [landFlag_tile h hf]
  have htile : (s.sramWrite (tileOfOff fl.off) (aOfOff fl.off) fl.data).tile (tileOfOff fl.off) = s.tile (tileOfOff fl.off) := rfl
  rw [← htile] at hv ⊢
  have hhbm : (s.sramWrite (tileOfOff fl.off) (aOfOff fl.off) fl.data).hbm = s.hbm := rfl
  have hlen : tileOfOff fl.off < (s.sramWrite (tileOfOff fl.off) (aOfOff fl.off) fl.data).tiles.length := ht
  rw [← hhbm]
  generalize s.sramWrite (tileOfOff fl.off) (aOfOff fl.off) fl.data = s' at hread hv hlen ⊢
  by_cases h0 : fl.tcnt = 0
  · rw [if_pos h0, if_pos h0]
    exact ⟨rfl, hread, rfl, rfl⟩
  · rw [if_neg h0, if_neg h0, addToken_within hv]
    refine ⟨rfl, ?_, congrArg Tile.tokens (tile_modTile _ hlen), rfl⟩
    have hsame := PorterAnswer.sramRead_congr (s := s') (v := s'.modTile (tileOfOff fl.off) fun x =>
      { x with tokens := x.tokens.set fl.ttok (x.tokens.getD fl.ttok 0 + fl.tcnt) }) rfl (tileOfOff fl.off) (aOfOff fl.off) 64
    rw [hread] at hsame
    exact hsame

/-- Settles O21. -/
theorem tileRequestsServed : Obligations.TileRequestsServed := by
  refine ⟨fun s t upset ht h => execTileSramLineRequest_none upset ht h, ?_, fun s d k hd => ⟨fun h => ?_, fun fl h => ⟨fun hr => ?_,
    fun hr hp hz => ⟨?_, fun hs hf hw hdl ha ht hv => landFlag_lands hs hf hw hdl ha ht hv⟩⟩⟩⟩
  · rintro s t q upset v full ht h rfl rfl ho
    have hrun := execTileSramLineRequest_some upset ht h
    refine ⟨fun hf => hrun.trans ?_, fun hf => ⟨fun m data hk => ⟨(tookReq s t q upset).sramMask t (aOfOff q.off) m data, hrun.trans
        ?_, rfl,
      fun hw hdl ha => ?_⟩, fun hk hb => hrun.trans ?_, fun b hk hb => hrun.trans ?_⟩⟩
    · rw [tileReq_fenced h ho hf]
      rfl
    · rw [tileReq_serves h ho hf, hk] <;> rfl
    · obtain ⟨h1, h2⟩ := sramRead_sramMask (m := m) (t := t) (tookReq_wf (t := t) (q := q) (upset := upset) hw) hdl ha
      simp only [tookReq_sramRead] at h1 h2
      exact ⟨h1, h2⟩
    · have hb' : (tookReq s t q upset).sramBadIn t (aOfOff q.off) 64 = none := hb
      rw [tileReq_serves h ho hf, hk]
      dsimp only
      rw [hb']
      dsimp only
      rw [tookReq_sramRead]
      rfl
    · have hb' : (tookReq s t q upset).sramBadIn t (aOfOff q.off) 64 = some b := hb
      rw [tileReq_serves h ho hf, hk]
      dsimp only
      rw [hb']
      dsimp only
      rw [tookReq_sramRead]
      rfl
  · exact (execFlagLand_runs hd).trans (congrArg _ (flagStep_none h))
  · exact (execFlagLand_runs hd).trans (congrArg _ (flagStep_waits h hr))
  · exact (execFlagLand_runs hd).trans (congrArg _ (flagStep_lands h hr hp hz))

end Sys2Proof.Proofs.TileRequests
end

section
/-! PROOFS. What happens to a port, and what reports and queued packets leave of it. -/
namespace Sys2Proof.Proofs.Ports

open Sys2Proof Sys2Proof.Machine Sys2Proof.Laws Sys2Proof.Safety Sys2Proof.Proofs.Reports

theorem port_modPort {s : State} {p : Nat} (f : Port → Port) (h : p < s.fabric.ports.length) : (s.modPort p f).port p = f (s.port p) := by
  simp [State.port, State.modPort, modAt, h]

theorem port_modPort_ne {s : State} {p q : Nat} (f : Port → Port) (h : q ≠ p) : (s.modPort p f).port q = s.port q := by
  simp [State.port, State.modPort, modAt, Ne.symm h]

theorem modPort_congr {s : State} {p : Nat} {f g : Port → Port} (h : f (s.port p) = g (s.port p)) : s.modPort p f = s.modPort p g := by
  have hl : modAt s.fabric.ports p f = modAt s.fabric.ports p g := by
    unfold modAt
    refine List.ext_getElem (by simp) fun k h1 h2 => ?_
    have hk : k < s.fabric.ports.length := by simpa using h1
    rw [List.getElem_modify, List.getElem_modify]
    split
    next hp =>
      subst hp
      have hport : s.fabric.ports[p] = s.port p := by simp [State.port, hk]
      rw [hport, h]
    next => rfl
  unfold State.modPort
  rw [hl]

theorem modPort_modPort (s : State) (p : Nat) (f g : Port → Port) : (s.modPort p f).modPort p g = s.modPort p fun x => g (f x) := by
  have hl : modAt (modAt s.fabric.ports p f) p g = modAt s.fabric.ports p fun x => g (f x) := List.modify_modify_eq ..
  exact congrArg (fun l => ({ s with fabric := { s.fabric with ports := l } } : State)) hl

/-- A state in which port p is y; tiles stay, and but for the ports and the reports so does the rest. -/
structure PortAt (s : State) (p : Nat) (y : Port) (v : State) : Prop where
  port : v.port p = y
  rep : Reported s v
  tiles : v.tiles = s.tiles
  len : v.fabric.ports.length = s.fabric.ports.length

/-- The same, where no packet has entered the inbox either. -/
structure PortIs (s : State) (p : Nat) (y : Port) (v : State) : Prop extends PortAt s p y v where
  inbox : v.fabric.inbox = s.fabric.inbox

theorem PortAt.trans {s v w : State} {p : Nat} {y z : Port} (h : PortAt s p y v) (k : PortAt v p z w) : PortAt s p z w :=
  ⟨k.port, h.rep.trans k.rep, k.tiles.trans h.tiles, k.len.trans h.len⟩

theorem PortIs.trans {s v w : State} {p : Nat} {y z : Port} (h : PortIs s p y v) (k : PortIs v p z w) : PortIs s p z w :=
  ⟨h.toPortAt.trans k.toPortAt, k.inbox.trans h.inbox⟩

/-- A later step that leaves the port alone. -/
theorem PortIs.keeps {s v w : State} {p : Nat} {y : Port} (h : PortIs s p y v) (k : PortIs v p (v.port p) w) : PortIs s p y w :=
  ⟨⟨k.port.trans h.port, h.rep.trans k.rep, k.tiles.trans h.tiles, k.len.trans h.len⟩, k.inbox.trans h.inbox⟩

theorem portIs_self (s : State) (p : Nat) : PortIs s p (s.port p) s := ⟨⟨rfl, .refl s, rfl, rfl⟩, rfl⟩

theorem portIs_modPort {s : State} {p : Nat} (f : Port → Port) (h : p < s.fabric.ports.length) :
    PortIs s p (f (s.port p)) (s.modPort p f) :=
  ⟨⟨port_modPort f h, reported_modPort s p f, rfl, by simp [State.modPort, modAt]⟩, rfl⟩

theorem portIs_of_fabric {s v : State} (p : Nat) (hr : Reported s v) (hf : v.fabric = s.fabric) (ht : v.tiles = s.tiles) :
    PortIs s p (s.port p) v :=
  ⟨⟨congrArg (fun f : Fabric => f.ports.getD p Port.init) hf, hr, ht, congrArg (fun f : Fabric => f.ports.length) hf⟩,
    congrArg Fabric.inbox hf⟩

theorem portIs_sampled {s v : State} (p : Nat) (h : Sampled s v) : PortIs s p (s.port p) v := by
  have hr := reported_sampled h
  obtain ⟨_, _, _, _, rfl⟩ := h
  exact portIs_of_fabric p hr rfl rfl

theorem portIs_log (s : State) (p rtype part : Nat) (payload : List Nat) : PortIs s p (s.port p) (s.log rtype part payload) := by
  have hr := reported_log s rtype part payload
  obtain ⟨_, _, h⟩ := Cleat.log_only s rtype part payload
  rw [h] at hr ⊢
  exact portIs_of_fabric p hr rfl rfl

/-- A change of a port's state or lanes leaves the time of the change with it (Table 10-5). -/
theorem portIs_portMove {s : State} {p : Nat} (f : Port → Port) (h : p < s.fabric.ports.length) :
    ∃ l, PortIs s p { f (s.port p) with lastChange := l } (s.portMove p f) := by
  unfold State.portMove
  dsimp only
  split
  · exact ⟨_, portIs_modPort f h⟩
  refine ⟨s.now, ?_⟩
  have h1 := portIs_modPort f h
  have h2 := h1.trans (portIs_modPort (fun x => { x with lastChange := s.now }) (by rw [h1.len]; exact h))
  rw [h1.port] at h2
  split
  · exact (h2.keeps (portIs_log _ p _ _ _)).keeps (portIs_sampled p (TimeEvents.sampled_postAll _ _ _ _))
  · exact h2.keeps (portIs_log _ p _ _ _)

/-! Packets queued, moved to another port or discarded. -/

/-- Nothing about any port changes but its queue, and no tile. -/
def Queued (s v : State) : Prop :=
  (∀ q, ∃ out, v.port q = { s.port q with out := out }) ∧ Reported s v ∧ v.tiles = s.tiles ∧
    v.fabric.ports.length = s.fabric.ports.length

theorem Queued.refl (s : State) : Queued s s := ⟨fun _ => ⟨_, rfl⟩, .refl s, rfl, rfl⟩

theorem Queued.trans {s v w : State} (h : Queued s v) (k : Queued v w) : Queued s w := by
  obtain ⟨h1, h2, h3, h4⟩ := h
  obtain ⟨k1, k2, k3, k4⟩ := k
  refine ⟨fun q => ?_, h2.trans k2, k3.trans h3, k4.trans h4⟩
  obtain ⟨o, ho⟩ := h1 q
  obtain ⟨o', ho'⟩ := k1 q
  rw [ho'.trans (congrArg (fun y : Port => { y with out := o' }) ho)]
  exact ⟨o', rfl⟩

theorem queued_foldl {α : Type} {f : State → α → State} (h : ∀ s a, Queued s (f s a)) : ∀ (l : List α) (s : State), Queued s (l.foldl f s)
  | [], s => .refl s
  | a :: l, s => (h s a).trans (queued_foldl h l (f s a))

theorem queued_modPort (s : State) (p : Nat) (g : List OutPkt → List OutPkt) :
    Queued s (s.modPort p fun x => { x with out := g x.out }) := by
  refine ⟨fun q => ?_, reported_modPort s p _, rfl, by simp [State.modPort, modAt]⟩
  by_cases hq : q = p
  · subst hq
    by_cases hl : q < s.fabric.ports.length
    · exact ⟨_, port_modPort _ hl⟩
    · refine ⟨(s.port q).out, ?_⟩
      simp [State.port, State.modPort, modAt, Nat.not_lt.mp hl]
  · exact ⟨_, port_modPort_ne _ hq⟩

theorem queued_modFab {s : State} {f : Fabric → Fabric} (h : (f s.fabric).ports = s.fabric.ports) : Queued s (s.modFab f) :=
  ⟨fun q => ⟨_, congrArg (fun l : List Port => l.getD q Port.init) h⟩, reported_modFab s f, rfl, congrArg List.length h⟩

theorem queued_inject (s : State) (p : Packet) : Queued s (s.inject p) := by
  unfold State.inject State.queuePkt
  split
  · exact queued_modFab rfl
  split
  · exact queued_modFab rfl
  split
  · exact queued_modPort s _ fun l => l ++ [_]
  · exact queued_modFab (s := s) (f := fun f => { f with discarded := inc32 f.discarded }) rfl

theorem queued_discardPkt (s : State) (p : Packet) : Queued s (s.discardPkt p) := by
  unfold State.discardPkt
  split
  · exact queued_inject s _
  · exact queued_modFab rfl

theorem queued_moveOut (s : State) (p : Nat) : Queued s (s.moveOut p) := by
  have h1 := queued_modPort s p fun _ => []
  have hgone := fun v => queued_foldl (f := fun s (o : OutPkt) => s.discardPkt o.pkt) (fun s o => queued_discardPkt s o.pkt)
      (s.port p).out v
  unfold State.moveOut
  dsimp only
  split
  · split
    · exact h1.trans (queued_modPort _ _ fun l => l ++ (s.port p).out)
    · exact h1.trans (hgone _)
  · exact h1.trans (hgone _)

theorem Queued.portAt {s v : State} (h : Queued s v) (p : Nat) : ∃ out, PortAt s p { s.port p with out := out } v := by
  obtain ⟨h1, h2, h3, h4⟩ := h
  obtain ⟨o, ho⟩ := h1 p
  exact ⟨o, ho, h2, h3, h4⟩

theorem portAt_portDown {s : State} {p : Nat} (st : PortSt) (h : p < s.fabric.ports.length) :
    ∃ l out, PortAt s p { (s.port p).fresh with st := st, since := s.now, lastChange := l, out := out } (s.portDown p st) := by
  obtain ⟨l, h1⟩ := portIs_portMove (fun x => { x.fresh with st := st, since := s.now }) h
  obtain ⟨out, h2⟩ := (queued_moveOut (s.portMove p fun x => { x.fresh with st := st, since := s.now }) p).portAt p
  rw [h1.port] at h2
  exact ⟨l, out, h1.toPortAt.trans h2⟩

/-! The node's own place is kept. -/

theorem nodeId_reported {s v : State} (h : Reported s v) : v.nodeId = s.nodeId := by
  obtain ⟨_, _, _, _, _, _, _, _, _, rfl⟩ := h
  rfl

theorem now_reported {s v : State} (h : Reported s v) : v.now = s.now := by
  obtain ⟨_, _, _, _, _, _, _, _, _, rfl⟩ := h
  rfl

theorem expectPeer_reported {s v : State} (h : Reported s v) (own p : Nat) : v.expectPeer own p = s.expectPeer own p := by
  obtain ⟨_, _, _, _, _, _, _, _, _, rfl⟩ := h
  rfl

end Sys2Proof.Proofs.Ports
end

section
/-! PROOFS. Bring-up, retraining and loss of a fabric port: O39. -/
namespace Sys2Proof.Proofs.PortStates

open Sys2Proof Sys2Proof.Machine Sys2Proof.Laws Sys2Proof.Safety Sys2Proof.Proofs.Reports Sys2Proof.Proofs.Ports

/-! Control bodies (R282, R284). -/

section
variable {s : State} {p : Nat} {c : CtrlIn} (f : State → State)

theorem onCtrl_ignores (h : (s.port p).st ∉ [PortSt.hello, .up, .retraining, .miswired]) : s.onCtrl p c f = s := by
  have hst : (s.port p).st ≠ .hello ∧ (s.port p).st ≠ .up ∧ (s.port p).st ≠ .retraining ∧ (s.port p).st ≠ .miswired := by simpa using h
  obtain ⟨h1, h2, h3, h4⟩ := hst
  exact if_pos (by simp [h1, h2, h3, h4])

theorem onCtrl_takes (h : (s.port p).st ∈ [PortSt.hello, .up, .retraining, .miswired]) : s.onCtrl p c f =
    if !c.good then s.crcError p else if c.reserved ≠ 0 then s.protoError p else f s :=
  if_neg (by
    have hst : (s.port p).st = .hello ∨ (s.port p).st = .up ∨ (s.port p).st = .retraining ∨ (s.port p).st = .miswired := by simpa using h
    obtain h | h | h | h := hst <;> simp [h])

theorem onCtrl_bad (h : (s.port p).st ∈ [PortSt.hello, .up, .retraining, .miswired]) (hg : c.good = false) :
    s.onCtrl p c f = s.crcError p :=
  (onCtrl_takes f h).trans (if_pos (by simp [hg]))

theorem onCtrl_reserved (h : (s.port p).st ∈ [PortSt.hello, .up, .retraining, .miswired]) (hg : c.good = true) (hr : c.reserved ≠ 0) :
    s.onCtrl p c f = s.protoError p :=
  (onCtrl_takes f h).trans ((if_neg (by simp [hg])).trans (if_pos hr))

theorem onCtrl_good (h : (s.port p).st ∈ [PortSt.hello, .up, .retraining, .miswired]) (hg : c.good = true) (hr : c.reserved = 0) :
    s.onCtrl p c f = f s :=
  (onCtrl_takes f h).trans ((if_neg (by simp [hg])).trans (if_neg (by simp [hr])))

end

/-- Each control body is judged by its flit first. -/
theorem exec_ctrl {i : Instr} {p : Nat} {c : CtrlIn} {h : HelloBody} {a b e : Nat} (hp : p < 16)
    (hi : i ∈ [Instr.linkHello p c h, .retrain p c a b, .timeReq p c a, .timeRsp p c a b e]) (s : State) :
    ∃ f, exec i s = .next (s.onCtrl p c f) := by
  simp only [List.mem_cons, List.not_mem_nil, or_false] at hi
  obtain rfl | rfl | rfl | rfl := hi
  · exact ⟨_, if_pos (decide_eq_true hp)⟩
  · exact ⟨_, if_pos (decide_eq_true hp)⟩
  · exact ⟨_, if_pos (decide_eq_true hp)⟩
  · exact ⟨_, if_pos (decide_eq_true hp)⟩

/-! Training and HELLO (R285, R286). -/

theorem execPmdTrainingDone_stays {s : State} {p : Nat} {lanes : List Nat} (hp : p < 16)
    (h : (s.port p).st ≠ .training ∨ ((List.range 4).filter fun l => lanes.contains l).length < 2) :
    execPmdTrainingDone p lanes s = .next s :=
  (if_pos (decide_eq_true hp)).trans (congrArg _ (if_pos (by simpa using h)))

theorem execPmdTrainingDone_trains {s : State} {p : Nat} {lanes w : List Nat} (hp : p < 16)
    (hw : w = (List.range 4).filter fun l => lanes.contains l) (h : (s.port p).st = .training) (h2 : 2 ≤ w.length) :
    execPmdTrainingDone p lanes s = .next ((s.portMove p fun x =>
      { x.fresh with st := .hello, since := s.now, working := w, lanes := w.length }).sendHello p) := by
  subst hw
  exact (if_pos (decide_eq_true hp)).trans (congrArg _ (if_neg (by
    rw [Bool.or_eq_true, decide_eq_true_eq, decide_eq_true_eq]
    exact not_or.mpr ⟨fun hn => hn h, by omega⟩)))

theorem portIs_sendHello {s : State} {p : Nat} (h : p < s.fabric.ports.length) :
    PortIs s p { (s.port p).sendCtrl (s.helloBody p (s.port p).lanes) with
      helloSent := true, ctrl := some (s.helloBody p (s.port p).lanes) } (s.sendHello p) :=
  portIs_modPort (fun x => { x.sendCtrl (s.helloBody p (s.port p).lanes) with
    helloSent := true, ctrl := some (s.helloBody p (s.port p).lanes) }) h

theorem judgePeer_silent {s : State} {p : Nat} (h : (s.port p).helloGot = false) : s.judgePeer p = s :=
  if_pos (by rw [h]; rfl)

section
variable {s : State} {p : Nat} (hg : (s.port p).helloGot = true)
include hg

theorem judgePeer_span (h : 12 ≤ p) : s.judgePeer p = s.portMove p fun x => { x with st := .up, ctrl := none } :=
  (if_neg (by simp [hg])).trans (if_pos h)

theorem judgePeer_torus (h : p < 12) : s.judgePeer p = match s.nodeId with
    | none => s
    | some own =>
      if s.expectPeer own p = ((s.port p).peerNode, (s.port p).peerPort) then
        if (s.port p).st = .up then s else s.portMove p fun x => { x with st := .up, ctrl := none }
      else if (s.port p).st = .miswired then s
      else (s.portMove p fun x => { x with st := .miswired, since := s.now }).moveOut p :=
  (if_neg (by simp [hg])).trans (if_neg (by omega))

theorem judgePeer_unplaced (h : p < 12) (hn : s.nodeId = none) : s.judgePeer p = s := by
  rw [judgePeer_torus hg h, hn]

theorem judgePeer_expected {own : Nat} (h : p < 12) (hn : s.nodeId = some own)
    (he : s.expectPeer own p = ((s.port p).peerNode, (s.port p).peerPort)) : s.judgePeer p =
    if (s.port p).st = .up then s else s.portMove p fun x => { x with st := .up, ctrl := none } := by
  rw [judgePeer_torus hg h, hn]
  exact if_pos he

theorem judgePeer_wrong {own : Nat} (h : p < 12) (hn : s.nodeId = some own)
    (he : s.expectPeer own p ≠ ((s.port p).peerNode, (s.port p).peerPort)) : s.judgePeer p =
    if (s.port p).st = .miswired then s
    else (s.portMove p fun x => { x with st := .miswired, since := s.now }).moveOut p := by
  rw [judgePeer_torus hg h, hn]
  exact if_neg he

end

/-- Where a judged port ends: its state, and that its inbox is left alone where the peer is the expected one. Its other fields
but CTRL, the times and the queue stay. -/
structure Judged (s : State) (p : Nat) (v : State) : Prop where
  at_ : ∃ st ctrl since l out, PortAt s p { s.port p with st := st, ctrl := ctrl, since := since, lastChange := l, out := out } v
  up : 12 ≤ p → (v.port p).st = .up
  unplaced : p < 12 → s.nodeId = none → (v.port p).st = (s.port p).st
  placed : ∀ own, p < 12 → s.nodeId = some own →
    (v.port p).st = if s.expectPeer own p = ((s.port p).peerNode, (s.port p).peerPort) then .up else .miswired
  inbox : (∀ own, p < 12 → s.nodeId = some own → s.expectPeer own p = ((s.port p).peerNode, (s.port p).peerPort)) →
    v.fabric.inbox = s.fabric.inbox

theorem judged_judgePeer {s : State} {p : Nat} (hl : p < s.fabric.ports.length) (hg : (s.port p).helloGot = true) :
    Judged s p (s.judgePeer p) := by
  obtain ⟨l, hup⟩ := portIs_portMove (fun x => { x with st := .up, ctrl := none }) hl
  by_cases hp : 12 ≤ p
  · rw [judgePeer_span hg hp]
    exact ⟨⟨_, _, _, _, _, hup.toPortAt⟩, fun _ => by rw [hup.port], fun h => absurd h (by omega), fun _ h => absurd h (by omega),
      fun _ => hup.inbox⟩
  have hp' : p < 12 := by omega
  cases hn : s.nodeId with
  | none =>
    rw [judgePeer_unplaced hg hp' hn]
    exact ⟨⟨_, _, _, _, _, (portIs_self s p).toPortAt⟩, fun h => absurd h hp, fun _ _ => rfl, fun _ _ h => (nomatch hn.symm.trans h),
      fun _ => rfl⟩
  | some own =>
    by_cases he : s.expectPeer own p = ((s.port p).peerNode, (s.port p).peerPort)
    · rw [judgePeer_expected hg hp' hn he]
      have hplaced : ∀ o, s.nodeId = some o →
          (PortSt.up = if s.expectPeer o p = ((s.port p).peerNode, (s.port p).peerPort) then .up else .miswired) := fun o ho => by
        rw [Option.some.inj (ho.symm.trans hn), if_pos he]
      split
      next hst =>
        exact ⟨⟨_, _, _, _, _, (portIs_self s p).toPortAt⟩, fun h => absurd h hp, fun _ _ => rfl,
          fun o _ ho => hst.trans (hplaced o ho), fun _ => rfl⟩
      next =>
        exact ⟨⟨_, _, _, _, _, hup.toPortAt⟩, fun h => absurd h hp, fun _ h => (nomatch hn.symm.trans h),
          fun o _ ho => (congrArg Port.st hup.port).trans (hplaced o ho), fun _ => hup.inbox⟩
    · rw [judgePeer_wrong hg hp' hn he]
      have hplaced : ∀ o, s.nodeId = some o →
          (PortSt.miswired = if s.expectPeer o p = ((s.port p).peerNode, (s.port p).peerPort) then .up else .miswired) := fun o ho => by
        rw [Option.some.inj (ho.symm.trans hn), if_neg he]
      split
      next hst =>
        exact ⟨⟨_, _, _, _, _, (portIs_self s p).toPortAt⟩, fun h => absurd h hp, fun _ _ => rfl,
          fun o _ ho => hst.trans (hplaced o ho), fun _ => rfl⟩
      next =>
        obtain ⟨l, h1⟩ := portIs_portMove (fun x => { x with st := .miswired, since := s.now }) hl
        obtain ⟨out, h2⟩ := (queued_moveOut (s.portMove p fun x => { x with st := .miswired, since := s.now }) p).portAt p
        rw [h1.port] at h2
        have h3 := h1.toPortAt.trans h2
        exact ⟨⟨_, _, _, _, _, h3⟩, fun h => absurd h hp, fun _ h => (nomatch hn.symm.trans h),
          fun o _ ho => (congrArg Port.st h3.port).trans (hplaced o ho), fun h => absurd (h own hp' hn) he⟩

/-- HELLO of a port that takes one (R16). -/
theorem helloIn_old {s : State} {p : Nat} {h : HelloBody} (hst : (s.port p).st ∈ [PortSt.hello, .up, .miswired]) (hp : h.port < 16)
    (h2 : 2 ≤ h.lanes) (h4 : h.lanes ≤ 4) (h0 : h.major = 0) : s.helloIn p h = s.portDown p .versionFail := by
  have hst' : (s.port p).st = .hello ∨ (s.port p).st = .up ∨ (s.port p).st = .miswired := by simpa using hst
  refine (if_neg ?_).trans ((if_neg ?_).trans (if_pos h0))
  · obtain h | h | h := hst' <;> simp [h]
  · simp; omega

/-- What a HELLO says of the peer. -/
def peerSays (h : HelloBody) (x : Port) : Port :=
  { x with
    major := 1, minor := 0, peerNode := h.node % 2 ^ 16, peerPort := h.port, peerGw := h.gateway
    lanes := if x.st = .hello then min x.lanes h.lanes else x.lanes, helloGot := true }

theorem helloIn_judges {s : State} {p : Nat} {h : HelloBody} (hst : (s.port p).st ∈ [PortSt.hello, .up, .miswired]) (hp : h.port < 16)
    (h2 : 2 ≤ h.lanes) (h4 : h.lanes ≤ 4) (h0 : 1 ≤ h.major) : s.helloIn p h = (s.portMove p (peerSays h)).judgePeer p := by
  have hst' : (s.port p).st = .hello ∨ (s.port p).st = .up ∨ (s.port p).st = .miswired := by simpa using hst
  refine (if_neg ?_).trans ((if_neg ?_).trans (if_neg (by omega)))
  · obtain h | h | h := hst' <;> simp [h]
  · simp; omega

theorem execLinkHello_hears {s : State} {p : Nat} {c : CtrlIn} {h : HelloBody} (hp : p < 16)
    (hst : (s.port p).st ∈ [PortSt.hello, .up, .miswired]) (hg : c.good = true) (hr : c.reserved = 0) :
    execLinkHello p c h s = .next (s.helloIn p h) := by
  refine (if_pos (decide_eq_true hp)).trans (congrArg _ (onCtrl_good _ ?_ hg hr))
  simp only [List.mem_cons, List.not_mem_nil, or_false] at hst ⊢
  obtain h | h | h := hst <;> simp [h]

/-! The timeouts of a bring-up. -/

theorem execHelloTimeout_stays {s : State} {p : Nat} (hp : p < 16)
    (h : (s.port p).st ≠ .hello ∨ (s.port p).helloGot = true ∨ s.now < (s.port p).since + 10000000) : execHelloTimeout p s = .next s := by
  refine (if_pos (decide_eq_true hp)).trans (congrArg _ (if_neg ?_))
  rw [Bool.and_eq_true, Bool.and_eq_true, decide_eq_true_eq, decide_eq_true_eq]
  rintro ⟨⟨h1, h2⟩, h3⟩
  obtain h | h | h := h
  · exact h h1
  · rw [h] at h2
    exact Bool.false_ne_true h2
  · exact absurd h3 (Nat.not_le.mpr h)

theorem execHelloTimeout_drops {s : State} {p : Nat} (hp : p < 16) (h1 : (s.port p).st = .hello) (h2 : (s.port p).helloGot = false)
    (h3 : (s.port p).since + 10000000 ≤ s.now) : execHelloTimeout p s = .next (s.portDown p .down) := by
  refine (if_pos (decide_eq_true hp)).trans (congrArg _ (if_pos ?_))
  rw [h1, h2, decide_eq_true (show (s.port p).since + ms10 ≤ s.now from h3)]
  rfl

theorem execPortRestart_stays {s : State} {p : Nat} (hp : p < 16)
    (h : (s.port p).st ≠ .down ∨ s.now < (s.port p).since + 1000000000) : execPortRestart p s = .next s := by
  refine (if_pos (decide_eq_true hp)).trans (congrArg _ (if_neg ?_))
  rw [Bool.and_eq_true, decide_eq_true_eq, decide_eq_true_eq]
  rintro ⟨h1, h2⟩
  obtain h | h := h
  · exact h h1
  · exact absurd h2 (Nat.not_le.mpr h)

theorem execPortRestart_trains {s : State} {p : Nat} (hp : p < 16) (h1 : (s.port p).st = .down)
    (h2 : (s.port p).since + 1000000000 ≤ s.now) : execPortRestart p s =
      .next (s.portMove p fun x => { x with st := .training, since := s.now }) := by
  refine (if_pos (decide_eq_true hp)).trans (congrArg _ (if_pos ?_))
  rw [h1, decide_eq_true h2]
  rfl

theorem execRetrainTimeout_stays {s : State} {p : Nat} (hp : p < 16)
    (h : (s.port p).st ≠ .retraining ∨ s.now < (s.port p).since + 10000000) : execRetrainTimeout p s = .next s := by
  refine (if_pos (decide_eq_true hp)).trans (congrArg _ (if_neg ?_))
  rw [Bool.and_eq_true, decide_eq_true_eq, decide_eq_true_eq]
  rintro ⟨h1, h2⟩
  obtain h | h := h
  · exact h h1
  · exact absurd h2 (Nat.not_le.mpr h)

theorem execRetrainTimeout_drops {s : State} {p : Nat} (hp : p < 16) (h1 : (s.port p).st = .retraining)
    (h2 : (s.port p).since + 10000000 ≤ s.now) : execRetrainTimeout p s = .next (s.portDown p .down) := by
  refine (if_pos (decide_eq_true hp)).trans (congrArg _ (if_pos ?_))
  rw [h1, decide_eq_true (show (s.port p).since + ms10 ≤ s.now from h2)]
  rfl

/-! Repeated bodies (R284). -/

theorem execCtrlRepeat_repeats {s : State} {p : Nat} {b : Nat × List Byte} (hp : p < 16) (hb : (s.port p).ctrl = some b)
    (h : (s.port p).st = .hello ∨ (s.port p).st = .retraining) : execCtrlRepeat p s = .next (s.modPort p fun x => x.sendCtrl b) := by
  refine (if_pos (decide_eq_true hp)).trans (congrArg _ ?_)
  dsimp only
  rw [hb]
  exact if_pos (by simpa using h)

theorem execCtrlRepeat_stays {s : State} {p : Nat} (hp : p < 16)
    (h : (s.port p).ctrl = none ∨ (s.port p).st ∉ [PortSt.hello, .retraining]) : execCtrlRepeat p s = .next s := by
  refine (if_pos (decide_eq_true hp)).trans (congrArg _ ?_)
  dsimp only
  cases hb : (s.port p).ctrl with
  | none => rfl
  | some b =>
    obtain h | h := h
    · exact nomatch hb.symm.trans h
    · exact if_neg (by simpa using h)

/-! Retraining (R287). -/

/-- A port that begins to retrain, with the body it sends. -/
def retrains (now lanes reason : Nat) (x : Port) : Port :=
  { x.sendCtrl (4, natLe 1 lanes ++ natLe 1 reason) with
    st := .retraining, since := now, ctrl := some (4, natLe 1 lanes ++ natLe 1 reason), lanes := lanes
    degrades := if lanes < x.lanes then inc16 x.degrades else x.degrades }

theorem startRetrain_few {s : State} {p n : Nat} (reason : Nat) (h : n < 2) : s.startRetrain p n reason = s.portDown p .down := if_pos h

theorem startRetrain_enough {s : State} {p n : Nat} (reason : Nat) (h : 2 ≤ n) :
    s.startRetrain p n reason = s.portMove p (retrains s.now n reason) := if_neg (by omega)

/-- A port with the uncorrectable codewords of a lane counted. -/
def withErrors (now lane n : Nat) (x y : Port) : Port :=
  { y with fecUncorr := min (y.fecUncorr + n) (2 ^ 32 - 1),
           uncorr := (lane, now, n) :: x.uncorr.filter fun e => decide (now < e.2.1 + 1000000) }

/-- The codewords of a lane within the last millisecond. -/
def recentErrors (now lane n : Nat) (x : Port) : Nat :=
  n + ((x.uncorr.filter fun e => e.1 == lane && decide (now < e.2.1 + 1000000)).map fun e => e.2.2).sum

theorem recentErrors_eq (now lane n : Nat) (x : Port) :
    ((((lane, now, n) :: x.uncorr.filter fun e => decide (now < e.2.1 + 1000000)).filter fun e => e.1 == lane).map fun e => e.2.2).sum =
      recentErrors now lane n x := by
  rw [List.filter_cons_of_pos (by simp), List.filter_filter]
  rfl

theorem laneErrors_eq (s : State) (p lane n : Nat) : s.laneErrors p lane n =
    if !(n = 0 || decide (16 < recentErrors s.now lane n (s.port p))) || !((s.port p).st = .up || (s.port p).st = .retraining) ||
        !(s.port p).working.contains lane then s.modPort p (withErrors s.now lane n (s.port p))
    else ((s.modPort p (withErrors s.now lane n (s.port p))).modPort p fun x => { x with working := x.working.erase lane }).startRetrain p
      (min (min 3 ((s.port p).working.length - 1)) (s.port p).lanes) 0 := by
  rw [← recentErrors_eq]
  rfl

section
variable {s : State} {p lane n : Nat}

theorem laneErrors_counts (hn : n ≠ 0) (h : recentErrors s.now lane n (s.port p) ≤ 16) :
    s.laneErrors p lane n = s.modPort p (withErrors s.now lane n (s.port p)) :=
  (laneErrors_eq s p lane n).trans (if_pos (by simp [hn, h]))

theorem laneErrors_fails (hst : (s.port p).st = .up ∨ (s.port p).st = .retraining) (hw : (s.port p).working.contains lane = true)
    (h : n = 0 ∨ 16 < recentErrors s.now lane n (s.port p)) : s.laneErrors p lane n =
      ((s.modPort p (withErrors s.now lane n (s.port p))).modPort p fun x => { x with working := x.working.erase lane }).startRetrain p
        (min (min 3 ((s.port p).working.length - 1)) (s.port p).lanes) 0 := by
  refine (laneErrors_eq s p lane n).trans (if_neg ?_)
  rw [hw]
  obtain h | h := h <;> obtain hst | hst := hst <;> simp [h, hst]

theorem execLaneFail_runs (hp : p < 16) (hlane : lane < 4) : execLaneFail p lane n s = .next (s.laneErrors p lane n) :=
  if_pos (by simp [hp, hlane])

end

section
variable {s : State} {p lanes reason : Nat}

theorem execRetrain_hears {c : CtrlIn} (hp : p < 16) (hst : (s.port p).st ∈ [PortSt.hello, .up, .retraining, .miswired])
    (hg : c.good = true) (hr : c.reserved = 0) : execRetrain p c lanes reason s = .next (s.retrainIn p lanes reason) :=
  (if_pos (decide_eq_true hp)).trans (congrArg _ (onCtrl_good _ hst hg hr))

theorem retrainIn_invalid (h : lanes < 2 ∨ 4 < lanes ∨ 2 < reason) : s.retrainIn p lanes reason = s.protoError p :=
  if_pos (by simpa [or_assoc] using h)

/-- The other end's answer while this one retrains. -/
def agrees (lanes : Nat) (x : Port) : Port :=
  let n := if x.ctrl.isSome then min x.lanes lanes else x.lanes
  { x with ctrl := none, lanes := n, degrades := if n < x.lanes then inc16 x.degrades else x.degrades }

variable (h2 : 2 ≤ lanes) (h4 : lanes ≤ 4) (hr : reason ≤ 2)
include h2 h4 hr

theorem retrainIn_valid : s.retrainIn p lanes reason =
    if (s.port p).st = .retraining then s.portMove p (agrees lanes)
    else if (s.port p).st = .up then
      ((if reason = 2 then s.modPort p fun x => { x with working := [0, 1, 2, 3] } else s).startRetrain p
        (if reason = 2 then lanes else min lanes (min (s.port p).lanes (s.port p).working.length)) reason).modPort p
          fun x => { x with ctrl := none }
    else s :=
  if_neg (by simp; omega)

theorem retrainIn_retraining (h : (s.port p).st = .retraining) : s.retrainIn p lanes reason = s.portMove p (agrees lanes) :=
  (retrainIn_valid h2 h4 hr).trans (if_pos h)

theorem retrainIn_up (h : (s.port p).st = .up) : s.retrainIn p lanes reason =
    ((if reason = 2 then s.modPort p fun x => { x with working := [0, 1, 2, 3] } else s).startRetrain p
      (if reason = 2 then lanes else min lanes (min (s.port p).lanes (s.port p).working.length)) reason).modPort p
        fun x => { x with ctrl := none } :=
  (retrainIn_valid h2 h4 hr).trans ((if_neg (by rw [h]; decide)).trans (if_pos h))

end

/-- The working lanes with which a port begins to retrain. -/
def trainedLanes (reason : Nat) (x : Port) : Port := { x with working := if reason = 2 then [0, 1, 2, 3] else x.working }

theorem portIs_trainedLanes {s : State} {p : Nat} (reason : Nat) (h : p < s.fabric.ports.length) :
    PortIs s p (trainedLanes reason (s.port p)) (if reason = 2 then s.modPort p fun x => { x with working := [0, 1, 2, 3] } else s) := by
  unfold trainedLanes
  split
  · exact portIs_modPort (fun x => { x with working := [0, 1, 2, 3] }) h
  · exact portIs_self s p

/-- A port that answers RETRAIN waits for no other body. -/
theorem portIs_startRetrain {v : State} {p n : Nat} (reason : Nat) (h : p < v.fabric.ports.length) (hn : 2 ≤ n) :
    ∃ l, PortIs v p { retrains v.now n reason (v.port p) with lastChange := l, ctrl := none }
      ((v.startRetrain p n reason).modPort p fun x => { x with ctrl := none }) := by
  obtain ⟨l, h1⟩ := portIs_portMove (retrains v.now n reason) h
  have h2 := portIs_modPort (s := v.portMove p (retrains v.now n reason)) (p := p) (fun x => { x with ctrl := none })
      (by rw [h1.len]; exact h)
  rw [h1.port] at h2
  rw [startRetrain_enough reason hn]
  exact ⟨l, h1.trans h2⟩

theorem st_startRetrain_few {v : State} {p n : Nat} (reason : Nat) (h : p < v.fabric.ports.length) (hn : n < 2) :
    (((v.startRetrain p n reason).modPort p fun x => { x with ctrl := none }).port p).st = .down := by
  obtain ⟨l, out, h1⟩ := portAt_portDown .down h
  rw [startRetrain_few reason hn, port_modPort _ (by rw [h1.len]; exact h), h1.port]

theorem portIs_resendOn {s : State} {p : Nat} (h : p < s.fabric.ports.length) : PortIs s p (s.port p).resend (s.resendOn p) := by
  have h1 := portIs_modPort Port.resend h
  unfold State.resendOn
  dsimp only
  split
  · exact h1
  · exact h1.keeps (portIs_sampled p (sampled_emitAll _ _ _ _ _ _))

/-- A port that has ended its retraining, before its peer is judged. -/
def retrained (l : Nat) (x : Port) : Port :=
  { ({ x with st := .up, ctrl := none, lastChange := l } : Port).resend with replayRun := 0 }

theorem execRetrainDone_stays {s : State} {p : Nat} (hp : p < 16) (h : (s.port p).st ≠ .retraining) : execRetrainDone p s = .next s :=
  (if_pos (decide_eq_true hp)).trans (congrArg _ (if_neg h))

theorem execRetrainDone_ends {s : State} {p : Nat} (hp : p < 16) (hl : p < s.fabric.ports.length) (h : (s.port p).st = .retraining) :
    ∃ l v, PortIs s p (retrained l (s.port p)) v ∧ execRetrainDone p s = .next (v.judgePeer p) := by
  obtain ⟨l, h1⟩ := portIs_portMove (fun x => { x with st := .up, ctrl := none }) hl
  have h2 := portIs_resendOn (s := s.portMove p fun x => { x with st := .up, ctrl := none }) (p := p) (by rw [h1.len]; exact hl)
  rw [h1.port] at h2
  have h3 := portIs_modPort (s := (s.portMove p fun x => { x with st := .up, ctrl := none }).resendOn p) (p := p)
    (fun x => { x with replayRun := 0 }) (by rw [h2.len, h1.len]; exact hl)
  rw [h2.port] at h3
  exact ⟨l, _, (h1.trans h2).trans h3, (if_pos (decide_eq_true hp)).trans (congrArg _ (if_pos h))⟩

theorem resend_wire (x : Port) : x.resend.wire = x.wire ++ x.replay.map fun f => { f with lanes := x.working.take x.lanes } := by
  unfold Port.resend
  split
  next h =>
    rw [List.isEmpty_iff.mp h]
    exact (List.append_nil _).symm
  next => rfl

/-- A replay changes the wire and the count of replays. -/
theorem resend_only (x : Port) : ∃ w r, x.resend = { x with wire := w, replays := r } := by
  unfold Port.resend
  split
  · exact ⟨_, _, rfl⟩
  · exact ⟨_, _, rfl⟩

theorem resend_replays {x : Port} (h : x.replay ≠ []) : x.resend.replays = inc32 x.replays := by
  unfold Port.resend
  rw [if_neg (by simpa using h)]

theorem retrained_only (l : Nat) (x : Port) : ∃ w r, retrained l x = { x with
    st := .up, ctrl := none, lastChange := l, replayRun := 0, wire := w, replays := r } := by
  obtain ⟨w, r, h⟩ := resend_only { x with st := .up, ctrl := none, lastChange := l }
  exact ⟨w, r, congrArg (fun y : Port => { y with replayRun := 0 }) h⟩

/-- The peer of a torus port is another one than its place in the torus asks for (R286). -/
def WrongPeer (s : State) (p : Nat) : Prop :=
  p < 12 ∧ (s.port p).helloGot = true ∧ ∃ own, s.nodeId = some own ∧ s.expectPeer own p ≠ ((s.port p).peerNode, (s.port p).peerPort)

theorem judged_retrained {s v : State} {p l : Nat} (hl : p < s.fabric.ports.length) (hv : PortIs s p (retrained l (s.port p)) v) :
    ∃ st ctrl since l' out,
      PortAt v p { v.port p with st := st, ctrl := ctrl, since := since, lastChange := l', out := out } (v.judgePeer p) ∧
      (WrongPeer s p → st = .miswired) ∧ (¬WrongPeer s p → st = .up ∧ (v.judgePeer p).fabric.inbox = s.fabric.inbox) := by
  obtain ⟨w, r, honly⟩ := retrained_only l (s.port p)
  have hst : (v.port p).st = .up := by rw [hv.port, honly]
  have hgot : (v.port p).helloGot = (s.port p).helloGot := by rw [hv.port, honly]
  have hpeer : ((v.port p).peerNode, (v.port p).peerPort) = ((s.port p).peerNode, (s.port p).peerPort) := by rw [hv.port, honly]
  have hexpect := fun own => expectPeer_reported hv.rep own p
  have hnode := nodeId_reported hv.rep
  by_cases hg : (s.port p).helloGot = true
  · obtain ⟨⟨st, ctrl, since, l', out, ha⟩, hup, hunplaced, hplaced, hinbox⟩ :=
      judged_judgePeer (s := v) (p := p) (by rw [hv.len]; exact hl) (hgot.trans hg)
    rw [hpeer] at hplaced hinbox
    have hu : ((v.judgePeer p).port p).st = st := congrArg Port.st ha.port
    refine ⟨st, ctrl, since, l', out, ha, fun h => ?_, fun h => ⟨?_, ?_⟩⟩
    · obtain ⟨hlt, -, own, hn, hne⟩ := h
      exact hu.symm.trans ((hplaced own hlt (hnode.trans hn)).trans (if_neg (by rw [hexpect]; exact hne)))
    · by_cases hlt : p < 12
      · cases hn : s.nodeId with
        | none => exact hu.symm.trans ((hunplaced hlt (hnode.trans hn)).trans hst)
        | some own =>
          refine hu.symm.trans ((hplaced own hlt (hnode.trans hn)).trans (if_pos ?_))
          rw [hexpect]
          exact Classical.not_not.mp fun hne => h ⟨hlt, hg, own, hn, hne⟩
      · exact hu.symm.trans (hup (by omega))
    · refine (hinbox fun own hlt hn => ?_).trans hv.inbox
      rw [hexpect]
      exact Classical.not_not.mp fun hne => h ⟨hlt, hg, own, hnode.symm.trans hn, hne⟩
  · rw [judgePeer_silent (hgot.trans (Bool.eq_false_iff.mpr hg))]
    exact ⟨_, _, _, _, _, (portIs_self v p).toPortAt, fun h => absurd h.2.1 hg, fun _ => ⟨hst, hv.inbox⟩⟩

/-- Settles O39, a clause for each command of the ports in the order of the statement. -/
theorem portStates : Obligations.PortStates := by
  refine fun s p hp hl => ⟨?_, ?_, ?_, ⟨?_, ?_⟩, ⟨?_, ?_⟩, ?_, ?_, ?_, ?_, ?_, ?_, ?_, ?_⟩
  · intro i c h a b e hi
    obtain ⟨f, hf⟩ := exec_ctrl hp hi s
    exact ⟨fun hst => hf.trans (congrArg _ (onCtrl_ignores f hst)), fun hst => ⟨fun hg => hf.trans (congrArg _ (onCtrl_bad f hst hg)),
      fun hg hr => hf.trans (congrArg _ (onCtrl_reserved f hst hg hr))⟩⟩
  · intro lanes w hw
    refine ⟨fun h => execPmdTrainingDone_stays hp (hw ▸ h), fun hst h2 => ?_⟩
    obtain ⟨l, h1⟩ := portIs_portMove (s := s) (fun x => { x.fresh with st := .hello, since := s.now, working := w, lanes := w.length }) hl
    have h2' := portIs_sendHello (s := s.portMove p fun x =>
      { x.fresh with st := .hello, since := s.now, working := w, lanes := w.length }) (p := p) (by rw [h1.len]; exact hl)
    rw [h1.port] at h2'
    have h3 := h1.trans h2'
    refine ⟨_, { zeroFlit 2 ([1, 0, 0, 0] ++ (State.helloBody (s.portMove p fun x =>
      { x.fresh with st := .hello, since := s.now, working := w, lanes := w.length }) p w.length).2) with lanes := w },
      execPmdTrainingDone_trains hp hw hst h2, congrArg Port.st h3.port, congrArg Port.lanes h3.port, congrArg Port.working h3.port,
      congrArg Port.txSeq h3.port, congrArg Port.rxSeq h3.port, congrArg Port.credits h3.port, congrArg Port.replay h3.port,
      congrArg Port.helloSent h3.port, ?_, rfl, rfl, rfl, h3.tiles⟩
    exact (congrArg Port.wire h3.port).trans (congrArg (fun k => (s.port p).wire ++
      [{ zeroFlit 2 _ with lanes := k }]) (List.take_length (l := w)))
  · intro c h hst hg hr hport h2 h4
    refine ⟨fun h0 => ?_, fun h1 => ?_⟩
    · obtain ⟨l, out, hd⟩ := portAt_portDown (s := s) .versionFail hl
      exact ⟨_, (execLinkHello_hears hp hst hg hr).trans (congrArg _ (helloIn_old hst hport h2 h4 h0)), congrArg Port.st hd.port, hd.tiles⟩
    · obtain ⟨l, hm⟩ := portIs_portMove (s := s) (peerSays h) hl
      have hj := judged_judgePeer (s := s.portMove p (peerSays h)) (p := p) (by rw [hm.len]; exact hl) (by rw [hm.port]; rfl)
      obtain ⟨st, ctrl, since, l', out, ha⟩ := hj.at_
      rw [hm.port] at ha
      refine ⟨_, (execLinkHello_hears hp hst hg hr).trans (congrArg _ (helloIn_judges hst hport h2 h4 h1)), ha.tiles.trans hm.tiles,
        congrArg Port.major ha.port, congrArg Port.peerNode ha.port, congrArg Port.peerPort ha.port, congrArg Port.peerGw ha.port,
        congrArg Port.lanes ha.port, hj.up, fun hlt hn => ?_, fun own hlt hn => ?_⟩
      · exact (hj.unplaced hlt ((nodeId_reported hm.rep).trans hn)).trans ((congrArg Port.st hm.port).trans rfl)
      · have h := hj.placed own hlt ((nodeId_reported hm.rep).trans hn)
        rw [expectPeer_reported hm.rep, hm.port] at h
        exact h
  · exact execHelloTimeout_stays hp
  · intro h1 h2 h3
    obtain ⟨l, out, h⟩ := portAt_portDown (s := s) .down hl
    exact ⟨_, execHelloTimeout_drops hp h1 h2 h3, congrArg Port.st h.port, congrArg Port.since h.port, h.tiles⟩
  · exact execPortRestart_stays hp
  · intro h1 h2
    obtain ⟨l, h⟩ := portIs_portMove (s := s) (fun x => { x with st := .training, since := s.now }) hl
    exact ⟨_, execPortRestart_trains hp h1 h2, congrArg Port.st h.port, congrArg Port.since h.port, h.tiles⟩
  · exact fun b hb h => execCtrlRepeat_repeats hp hb h
  · exact execCtrlRepeat_stays hp
  · intro lane n k hlane hst hw hk errs
    have hrun := execLaneFail_runs (s := s) (n := n) hp hlane
    have h1 := portIs_modPort (s := s) (withErrors s.now lane n (s.port p)) hl
    have h2 := portIs_modPort (s := s.modPort p (withErrors s.now lane n (s.port p))) (p := p)
      (fun x => { x with working := x.working.erase lane }) (by rw [h1.len]; exact hl)
    have h3 := h1.trans h2
    rw [h1.port] at h3
    have hlen := h3.len
    subst hk
    refine ⟨fun hf h2k => ?_, fun hf h2k => ?_, fun hn he => ?_⟩
    · obtain ⟨l, h4⟩ := portIs_portMove (retrains s.now (min (min 3 ((s.port p).working.length - 1)) (s.port p).lanes) 0)
        (Nat.lt_of_lt_of_eq hl hlen.symm)
      rw [h3.port] at h4
      refine ⟨_, hrun.trans (congrArg _ ((laneErrors_fails hst hw hf).trans (startRetrain_enough 0 h2k))), congrArg Port.st h4.port,
        congrArg Port.lanes h4.port, congrArg Port.working h4.port, congrArg Port.degrades h4.port, congrArg Port.fecUncorr h4.port,
        h4.tiles⟩
    · obtain ⟨l, out, h4⟩ := portAt_portDown .down (Nat.lt_of_lt_of_eq hl hlen.symm)
      exact ⟨_, hrun.trans (congrArg _ ((laneErrors_fails hst hw hf).trans (startRetrain_few 0 h2k))), congrArg Port.st h4.port,
        congrArg Port.replay h4.port⟩
    · exact ⟨_, hrun.trans (congrArg _ (laneErrors_counts hn he)), (congrArg Port.st h1.port).trans rfl,
        (congrArg Port.working h1.port).trans rfl,
        congrArg Port.fecUncorr h1.port, h1.tiles⟩
  · intro c lanes reason n hg hr h2 h4 hreason hn
    have hears := fun (hst : (s.port p).st ∈ [PortSt.hello, .up, .retraining, .miswired]) =>
      execRetrain_hears (lanes := lanes) (reason := reason) hp hst hg hr
    have h1 := portIs_trainedLanes (s := s) reason hl
    have hlen := Nat.lt_of_lt_of_eq hl h1.len.symm
    refine ⟨fun hst hn2 => ?_, fun hst hn2 => ?_, fun hst => ?_⟩
    · have hrun := (hears (by simp [hst])).trans (congrArg _ (retrainIn_up h2 h4 hreason hst))
      rw [← hn] at hrun
      obtain ⟨l, h3⟩ := portIs_startRetrain reason hlen hn2
      rw [h1.port] at h3
      have h5 := h1.trans h3
      exact ⟨_, _, hrun, congrArg Port.st h5.port, congrArg Port.lanes h5.port, congrArg Port.ctrl h5.port, congrArg Port.wire h5.port,
        rfl, rfl, h5.tiles, congrArg Port.working h5.port⟩
    · have hrun := (hears (by simp [hst])).trans (congrArg _ (retrainIn_up h2 h4 hreason hst))
      rw [← hn] at hrun
      exact ⟨_, hrun, st_startRetrain_few reason hlen hn2⟩
    · obtain ⟨l, hm⟩ := portIs_portMove (s := s) (agrees lanes) hl
      exact ⟨_, (hears (by simp [hst])).trans (congrArg _ (retrainIn_retraining h2 h4 hreason hst)), (congrArg Port.st hm.port).trans hst,
        congrArg Port.ctrl hm.port, hm.tiles, congrArg Port.lanes hm.port⟩
  · exact fun c lanes reason hg hr h hst => (execRetrain_hears hp hst hg hr).trans (congrArg _ (retrainIn_invalid h))
  · intro wrong hwrong
    refine ⟨execRetrainDone_stays hp, fun hst => ?_⟩
    obtain ⟨l, v, hv, hrun⟩ := execRetrainDone_ends hp hl hst
    obtain ⟨w, r, honly⟩ := retrained_only l (s.port p)
    obtain ⟨st, ctrl, since, l', out, ha, hw, hr⟩ := judged_retrained hl hv
    rw [hv.port] at ha
    subst hwrong
    refine ⟨_, hrun, ?_, ?_, ?_, ?_, fun hne => ?_, ha.tiles.trans hv.tiles, fun h => ?_, fun h => ?_⟩
    · rw [ha.port, honly]
    · rw [ha.port, honly]
    · rw [ha.port, honly]
    · rw [ha.port]
      exact resend_wire { s.port p with st := .up, ctrl := none, lastChange := l }
    · rw [ha.port]
      exact resend_replays (x := { s.port p with st := .up, ctrl := none, lastChange := l }) hne
    · rw [ha.port]
      exact hw h
    · rw [ha.port]
      exact hr h
  · exact execRetrainTimeout_stays hp
  · intro h1 h2
    obtain ⟨l, out, h⟩ := portAt_portDown (s := s) .down hl
    exact ⟨_, execRetrainTimeout_drops hp h1 h2, congrArg Port.st h.port, congrArg Port.replay h.port, h.tiles⟩

end Sys2Proof.Proofs.PortStates
end

section
/-! PROOFS. DATA and IDLE flits and acknowledgements: O40. -/
namespace Sys2Proof.Proofs.Flits

open Sys2Proof Sys2Proof.Machine Sys2Proof.Laws Sys2Proof.Safety Sys2Proof.Proofs.Reports Sys2Proof.Proofs.Ports
  Sys2Proof.Proofs.PortStates

section
variable {s : State} {p : Nat}

theorem portUp_iff : s.portUp p = true ↔ (s.port p).st = .up := by simp [State.portUp]

theorem execDataFlit_runs (x : Flit) (hp : p < 16) : execDataFlit p x s = .next (s.dataIn p x) := if_pos (decide_eq_true hp)

theorem execIdleFlit_runs (x : Flit) (hp : p < 16) : execIdleFlit p x s = .next (s.idleIn p x) := if_pos (decide_eq_true hp)

theorem dataIn_closed (x : Flit) (h : (s.port p).st ≠ .up) : s.dataIn p x = s := if_pos (by simp [State.portUp, h])

theorem idleIn_closed (x : Flit) (h : (s.port p).st ≠ .up) : s.idleIn p x = s := if_pos (by simp [State.portUp, h])

end

/-! What a port sends of itself. -/

theorem sendIdle_only (x : Port) : ∃ owed f, x.sendIdle = { x with owed := owed, sinceAck := 0, wire := x.wire ++ [f] } ∧ f.ftype = 1 ∧
    f.ackv = true ∧ f.ackseq = x.rxSeq ∧ f.nak = x.rxBad :=
  ⟨_, _, rfl, rfl, rfl, rfl, rfl⟩

theorem acked_only (x : Port) (seq : Nat) : ∃ a r k, x.acked seq = { x with ackedSeq := a, replay := r, replayRun := k } := by
  unfold Port.acked
  dsimp only
  split
  · exact ⟨_, _, _, rfl⟩
  · exact ⟨_, _, _, rfl⟩

/-- An acknowledgement releases its flits once. -/
theorem acked_acked (x : Port) (seq : Nat) : (x.acked seq).acked seq = x.acked seq := by
  by_cases hr : (seqDiff x.ackedSeq seq = 0 || x.replay.length < seqDiff x.ackedSeq seq) = true
  · have h1 : x.acked seq = x := if_pos hr
    rw [h1, h1]
  · have h1 : x.acked seq = { x with ackedSeq := seq % 4096, replay := x.replay.drop (seqDiff x.ackedSeq seq), replayRun := 0 } := if_neg hr
    have h0 : seqDiff (x.acked seq).ackedSeq seq = 0 := by
      rw [h1]
      simp only [seqDiff]
      omega
    refine if_pos ?_
    rw [h0]
    rfl

theorem ackDue_quiet {s : State} {p : Nat} (h : (s.port p).sinceAck < 64 ∨ s.portUp p = false) : s.ackDue p = s := by
  refine if_neg ?_
  obtain h | h := h
  · simp [h]
  · simp [h]

theorem portIs_ackDue {s : State} {p : Nat} (h : p < s.fabric.ports.length) :
    ∃ owed n w, PortIs s p { s.port p with owed := owed, sinceAck := n, wire := w } (s.ackDue p) := by
  unfold State.ackDue
  split
  · obtain ⟨owed, f, hf, -⟩ := sendIdle_only (s.port p)
    have h1 := portIs_modPort Port.sendIdle h
    rw [hf] at h1
    exact ⟨_, _, _, h1⟩
  · exact ⟨_, _, _, portIs_self s p⟩

theorem portIs_nak {s : State} {p : Nat} (h : p < s.fabric.ports.length) :
    ∃ owed n w, PortIs s p { s.port p with rxBad := true, owed := owed, sinceAck := n, wire := w } (s.nak p) := by
  unfold State.nak
  split
  next hb =>
    have hx : s.port p = { s.port p with rxBad := true } := congrArg (fun b => { s.port p with rxBad := b }) hb
    have h1 := portIs_self s p
    rw [hx] at h1
    exact ⟨_, _, _, h1⟩
  next =>
    have h1 := portIs_modPort (s := s) (fun x => let y := { x with rxBad := true }; if y.st = .up then y.sendIdle else y) h
    dsimp only at h1
    by_cases hst : (s.port p).st = .up
    · obtain ⟨owed, f, hf, -⟩ := sendIdle_only { s.port p with rxBad := true }
      rw [if_pos hst, hf] at h1
      exact ⟨_, _, _, h1⟩
    · rw [if_neg hst] at h1
      exact ⟨_, _, _, h1⟩

/-! Bad flits (R281, R283). -/

/-- A state in which a port has other contents but the count of CRC errors of s. -/
def SameCrc (s : State) (p : Nat) (v : State) : Prop := ∃ y, PortAt s p y v ∧ y.crcErrors = (s.port p).crcErrors

theorem SameCrc.trans {s v w : State} {p : Nat} (h : SameCrc s p v) (k : SameCrc v p w) : SameCrc s p w := by
  obtain ⟨y, hy, hc⟩ := h
  obtain ⟨z, hz, hd⟩ := k
  exact ⟨z, hy.trans hz, hd.trans ((congrArg Port.crcErrors hy.port).trans hc)⟩

section
variable {s : State} {p : Nat} (h : p < s.fabric.ports.length)
include h

theorem sameCrc_modPort {f : Port → Port} (hf : (f (s.port p)).crcErrors = (s.port p).crcErrors) : SameCrc s p (s.modPort p f) :=
  ⟨_, (portIs_modPort f h).toPortAt, hf⟩

theorem sameCrc_startRetrain (n reason : Nat) : SameCrc s p (s.startRetrain p n reason) := by
  by_cases hn : n < 2
  · rw [startRetrain_few reason hn]
    obtain ⟨l, out, hd⟩ := portAt_portDown .down h
    exact ⟨_, hd, rfl⟩
  · rw [startRetrain_enough reason (Nat.not_lt.mp hn)]
    obtain ⟨l, hm⟩ := portIs_portMove (retrains s.now n reason) h
    exact ⟨_, hm.toPortAt, rfl⟩

theorem SameCrc.lt {v : State} (k : SameCrc s p v) : p < v.fabric.ports.length := by
  obtain ⟨_, hy, _⟩ := k
  rw [hy.len]
  exact h

theorem sameCrc_laneErrors (lane n : Nat) : SameCrc s p (s.laneErrors p lane n) := by
  have h1 := sameCrc_modPort (f := withErrors s.now lane n (s.port p)) h rfl
  rw [laneErrors_eq]
  split
  · exact h1
  · have h2 := sameCrc_modPort (f := fun x => { x with working := x.working.erase lane }) (h1.lt h) rfl
    exact h1.trans (h2.trans (sameCrc_startRetrain (h2.lt (h1.lt h)) _ _))

end

theorem sameCrc_flitErrors (p : Nat) (l : List Nat) : ∀ {s : State}, p < s.fabric.ports.length →
    SameCrc s p (l.foldl (fun s l => s.laneErrors p l 1) s) := by
  induction l with
  | nil => exact fun {s} _ => ⟨_, (portIs_self s p).toPortAt, rfl⟩
  | cons lane l ih => exact fun {s} h => (sameCrc_laneErrors h lane 1).trans (ih ((sameCrc_laneErrors h lane 1).lt h))

/-- A bad flit, whatever follows it, is counted once and changes no tile. -/
theorem bad_counted {s v : State} {p : Nat} {x : Flit} {f : Port → Port} (h : p < s.fabric.ports.length)
    (hf : (f (s.port p)).crcErrors = (s.port p).crcErrors) (hv : v = ((s.modPort p f).flitErrors p x).crcError p) :
    ∃ y, PortAt s p y v ∧ y.crcErrors = inc32 (s.port p).crcErrors := by
  have h1 := sameCrc_modPort h hf
  have h2 := h1.trans (sameCrc_flitErrors p x.uncorr (h1.lt h))
  have hl := h2.lt h
  obtain ⟨y, hy, hc⟩ := h2
  have h3 := portIs_modPort (fun y => { y with crcErrors := inc32 y.crcErrors }) hl
  rw [hy.port] at h3
  rw [hv]
  exact ⟨_, hy.trans h3.toPortAt, congrArg inc32 hc⟩

section
variable {s : State} {p : Nat} {x : Flit}

/-- A port to which one more DATA flit has come. -/
def heard (now : Nat) (y : Port) : Port := { y with sinceAck := y.sinceAck + 1, lastData := now }

theorem dataIn_bad (hst : (s.port p).st = .up) (hg : flitGood x = false) :
    s.dataIn p x = ((((s.modPort p (heard s.now)).flitErrors p x).crcError p).nak p).ackDue p :=
  (if_neg (by simp [State.portUp, hst])).trans (if_pos (by rw [hg]; rfl))

theorem idleIn_bad (hst : (s.port p).st = .up) (hg : flitGood x = false) :
    s.idleIn p x = (((s.modPort p fun y => { y with sinceAck := y.sinceAck + 1 }).flitErrors p x).crcError p).ackDue p :=
  (if_neg (by simp [State.portUp, hst])).trans (if_pos (by rw [hg]; rfl))

theorem dataIn_good (hst : (s.port p).st = .up) (hg : flitGood x = true) (hr : flitReserved x = false) (ht : bits x.hdr 26 3 = 0) :
    s.dataIn p x =
      let s0 := s.modPort p (heard s.now)
      let s1 := s0.takeAck p x.hdr
      if bits x.hdr 0 12 = ((s0.port p).rxSeq + 1) % 4096 then
        (slotsGo (s1.modPort p fun y => { y.takeCr x.hdr with rxSeq := bits x.hdr 0 12, rxBad := false }) p (flitSlots x)).ackDue p
      else if seqDiff (bits x.hdr 0 12) (s0.port p).rxSeq < 512 then s1.ackDue p
      else (s1.nak p).ackDue p :=
  (if_neg (by simp [State.portUp, hst])).trans ((if_neg (by simp [hg])).trans ((if_neg (by simp [ht])).trans
    ((if_neg (by simp [hr])).trans (if_neg (by simp [ht])))))

theorem idleIn_good (hst : (s.port p).st = .up) (hg : flitGood x = true) (hr : flitReserved x = false) (ht : bits x.hdr 26 3 = 1) :
    s.idleIn p x = (((s.modPort p fun y => { y with sinceAck := y.sinceAck + 1 }).modPort p fun y => y.takeCr x.hdr).takeAck p
      x.hdr).ackDue p :=
  (if_neg (by simp [State.portUp, hst])).trans ((if_neg (by simp [hg])).trans ((if_neg (by simp [ht])).trans
    ((if_neg (by simp [hr])).trans (if_neg (by simp [ht])))))

end

/-! Acknowledgements in a header. -/

/-- What a port takes from an acknowledgement field. -/
def takesAck (hdr : Nat) (y : Port) : Port := if bit hdr 24 then y.acked (bits hdr 12 12) else y

theorem takesAck_only (hdr : Nat) (y : Port) : ∃ a r k, takesAck hdr y = { y with ackedSeq := a, replay := r, replayRun := k } := by
  unfold takesAck
  split
  · exact acked_only y _
  · exact ⟨_, _, _, rfl⟩

theorem takeAck_plain {s : State} {p hdr : Nat} (h : bit hdr 25 = false) : s.takeAck p hdr =
    if bit hdr 24 then s.modPort p fun x => x.acked (bits hdr 12 12) else s :=
  if_pos (by simp [h])

theorem portIs_takeAck {s : State} {p hdr : Nat} (hl : p < s.fabric.ports.length) (h : bit hdr 25 = false) :
    PortIs s p (takesAck hdr (s.port p)) (s.takeAck p hdr) := by
  rw [takeAck_plain h]
  unfold takesAck
  split
  · exact portIs_modPort (fun x => x.acked (bits hdr 12 12)) hl
  · exact portIs_self s p

/-! The slots of a DATA flit (R282). -/

/-- Nothing of the tiles changes, nor what a port says of the flits it has taken. -/
def SameSeq (s : State) (p : Nat) (v : State) : Prop :=
  (v.port p).rxSeq = (s.port p).rxSeq ∧ (v.port p).rxBad = (s.port p).rxBad ∧ v.tiles = s.tiles

theorem SameSeq.trans {s v w : State} {p : Nat} (h : SameSeq s p v) (k : SameSeq v p w) : SameSeq s p w :=
  ⟨k.1.trans h.1, k.2.1.trans h.2.1, k.2.2.trans h.2.2⟩

theorem port_modPort_keeps {α : Type} {g : Port → α} {f : Port → Port} (h : ∀ x, g (f x) = g x) (s : State) (p q : Nat) :
    g ((s.modPort p f).port q) = g (s.port q) := by
  by_cases hq : q = p
  · subst hq
    by_cases hl : q < s.fabric.ports.length
    · rw [port_modPort f hl, h]
    · have hsame : s.modPort q f = s := by simp only [State.modPort, modAt, List.modify_eq_self (Nat.not_lt.mp hl)]
      rw [hsame]
  · rw [port_modPort_ne f hq]

theorem sameSeq_modPort {f : Port → Port} (hs : ∀ x, (f x).rxSeq = x.rxSeq) (hb : ∀ x, (f x).rxBad = x.rxBad) (s : State) (p q : Nat) :
    SameSeq s q (s.modPort p f) :=
  ⟨port_modPort_keeps hs s p q, port_modPort_keeps hb s p q, rfl⟩

theorem sameSeq_returnCredits (s : State) (p port vc cls n : Nat) : SameSeq s p (s.returnCredits port vc cls n) := by
  unfold State.returnCredits
  split
  · refine sameSeq_modPort ?_ ?_ s port p
    · exact fun _ => rfl
    · exact fun _ => rfl
  · exact ⟨rfl, rfl, rfl⟩

theorem sameSeq_protoError (s : State) (p : Nat) : SameSeq s p (s.protoError p) := by
  refine sameSeq_modPort ?_ ?_ s p p
  · exact fun _ => rfl
  · exact fun _ => rfl

theorem sameSeq_packetIn (s : State) (p : Nat) (slots : List (List Byte)) : SameSeq s p (s.packetIn p slots) := by
  unfold State.packetIn
  dsimp only
  split
  · exact (sameSeq_protoError s p).trans (sameSeq_returnCredits _ _ _ _ _ _)
  · exact ⟨rfl, rfl, rfl⟩

theorem sameSeq_rspLong (s : State) (p : Nat) (l : List (Bool × List Byte)) : SameSeq s p (s.rspLong l).2 := by
  unfold State.rspLong
  split
  · exact ⟨rfl, rfl, rfl⟩
  · exact ⟨rfl, rfl, rfl⟩

theorem sameSeq_gathers (s : State) (p : Nat) (got : List (List Byte)) (n : Nat) :
    SameSeq s p (s.modPort p fun x => { x with rxSlots := got, rxNeed := n }) := by
  refine sameSeq_modPort ?_ ?_ s p p
  · exact fun _ => rfl
  · exact fun _ => rfl

theorem sameSeq_slotsGo (p : Nat) (l : List (Bool × List Byte)) : ∀ s : State, SameSeq s p (slotsGo s p l) := by
  induction l with
  | nil => exact fun s => ⟨rfl, rfl, rfl⟩
  | cons e r ih =>
    intro s
    obtain ⟨start, x⟩ := e
    have hstep : ∀ (v : State) (want : Nat) (got : List (List Byte)), SameSeq s p v → SameSeq s p
        (if want ≤ got.length then slotsGo ((v.modPort p fun x => { x with rxSlots := [], rxNeed := 0 }).packetIn p got) p r
        else slotsGo (v.modPort p fun x => { x with rxSlots := got, rxNeed := want - got.length }) p r) := fun v want got hv => by
      split
      · exact ((hv.trans (sameSeq_gathers v p [] 0)).trans (sameSeq_packetIn _ _ _)).trans (ih _)
      · exact (hv.trans (sameSeq_gathers v p got _)).trans (ih _)
    unfold slotsGo
    dsimp only
    split
    · exact ih s
    · refine hstep _ _ _ ?_
      split
      · exact ⟨rfl, rfl, rfl⟩
      split
      · exact sameSeq_rspLong s p r
      · exact ⟨rfl, rfl, rfl⟩

theorem sameSeq_ackDue (s : State) (p : Nat) : SameSeq s p (s.ackDue p) := by
  unfold State.ackDue
  split
  · refine sameSeq_modPort ?_ ?_ s p p
    · exact fun _ => rfl
    · exact fun _ => rfl
  · exact ⟨rfl, rfl, rfl⟩

theorem inbox_ackDue (s : State) (p : Nat) : (s.ackDue p).fabric.inbox = s.fabric.inbox := by
  unfold State.ackDue
  split
  · rfl
  · rfl

/-- Slots that begin no packet, where none is open, are none's. -/
theorem slotsGo_idle {s : State} {p : Nat} (h : (s.port p).rxNeed = 0) : ∀ {l : List (Bool × List Byte)}, (∀ e ∈ l, e.1 = false) →
    slotsGo s p l = s
  | [], _ => rfl
  | (start, x) :: r, hl => by
    have h0 : start = false := hl (start, x) List.mem_cons_self
    unfold slotsGo
    dsimp only
    rw [if_pos (by rw [h, h0]; rfl)]
    exact slotsGo_idle h fun e he => hl e (List.mem_cons_of_mem _ he)

theorem slotsGo_start {s : State} {p : Nat} (a : List Byte) (l : List (Bool × List Byte)) (h : (s.port p).rxSlots = []) :
    slotsGo s p ((true, a) :: l) = slotsGo (s.modPort p fun x => { x with rxSlots := [a], rxNeed := 1 }) p l := by
  conv => lhs; unfold slotsGo
  dsimp only
  rw [if_neg (by simp), h]
  by_cases hc : (some (bits (leAt ([] ++ [a]).flatten 0 8) 32 16) == s.nodeId) = true
  · rw [if_pos hc]
    rfl
  · rw [if_neg hc, if_neg (by simp)]
    rfl

theorem dataSlots_read {h : List Byte} (rsp : Bool) (ht : bits (leAt h 0 8) 0 6 = ptRead) : dataSlots h rsp = 0 := by
  unfold dataSlots
  dsimp only
  rw [ht]
  rfl

/-- A header without data slots is whole with its second slot. -/
theorem slotsGo_second {s : State} {p : Nat} {a b : List Byte} (l : List (Bool × List Byte)) (hs : (s.port p).rxSlots = [a])
    (hn : (s.port p).rxNeed = 1) (ht : (Packet.ofBytes (a ++ b)).ptype = ptRead) :
    slotsGo s p ((false, b) :: l) = slotsGo ((s.modPort p fun x => { x with rxSlots := [], rxNeed := 0 }).packetIn p [a, b]) p l := by
  have ht' : bits (leAt [a, b].flatten 0 8) 0 6 = ptRead := by
    rw [← ht]
    simp [Packet.ofBytes]
  conv => lhs; unfold slotsGo
  dsimp only
  rw [if_neg (by simp [hn]), hs]
  simp only [List.cons_append, List.nil_append]
  by_cases hc : (some (bits (leAt [a, b].flatten 0 8) 32 16) == s.nodeId) = true
  · rw [if_pos hc, dataSlots_read _ ht']
    rfl
  · have hnot : ¬(decide ([a, b].length = 2) && decide (bits (leAt [a, b].flatten 0 8) 0 6 = ptAtomicRsp)) = true := by
      rw [ht']
      exact Bool.false_ne_true
    rw [if_neg hc, if_neg hnot, dataSlots_read _ ht']
    rfl

theorem flitSlots_eq (x : Flit) : flitSlots x =
    (bit x.hdr 56, natLe 16 (bits x.payload 0 128)) :: (bit x.hdr 57, natLe 16 (bits x.payload 128 128)) ::
      (List.range 13).map fun n => (bit x.hdr (58 + n), natLe 16 (bits x.payload (128 * (n + 2)) 128)) := by
  have h15 : List.range 15 = 0 :: 1 :: (List.range 13).map fun n => n + 2 := by decide
  unfold flitSlots
  rw [h15, List.map_cons, List.map_cons, List.map_map]
  refine congrArg (fun l => _ :: _ :: l) (List.map_congr_left fun n _ => ?_)
  have hk : 56 + (n + 2) = 58 + n := by omega
  exact congrArg (fun k => (bit x.hdr k, natLe 16 (bits x.payload (128 * (n + 2)) 128))) hk

/-- A flit that holds one READ and nothing else puts it last into the inbox (R299). -/
theorem inbox_slotsGo_read {s : State} {p : Nat} {x : Flit} {h : List Byte} (hl : p < s.fabric.ports.length)
    (hh : h = natLe 16 (bits x.payload 0 128) ++ natLe 16 (bits x.payload 128 128)) (hs : (s.port p).rxSlots = [])
    (h0 : bit x.hdr 56 = true) (hn : ∀ n, 1 ≤ n → n < 15 → bit x.hdr (56 + n) = false)
    (ht : (Packet.ofBytes h).ptype = ptRead) (hr : headReserved h = false) :
    (slotsGo s p (flitSlots x)).fabric.inbox = s.fabric.inbox ++ [⟨Packet.ofBytes h, p, s.now⟩] := by
  have h1 : bit x.hdr 57 = false := hn 1 (by omega) (by omega)
  generalize ha : natLe 16 (bits x.payload 0 128) = a at hh
  generalize hb : natLe 16 (bits x.payload 128 128) = b at hh
  subst hh
  have hp1 := port_modPort (fun x : Port => { x with rxSlots := [a], rxNeed := 1 }) hl
  have hlen : p < (s.modPort p fun x => { x with rxSlots := [a], rxNeed := 1 }).fabric.ports.length := by
    simpa [State.modPort, modAt] using hl
  have hp2 := port_modPort (fun x : Port => { x with rxSlots := [], rxNeed := 0 }) hlen
  have hflat : [a, b].flatten = a ++ b := by simp
  have hin : ∀ v : State, v.packetIn p [a, b] = v.modFab fun f => { f with inbox := f.inbox ++ [⟨Packet.ofBytes (a ++ b), p, v.now⟩] } := by
    intro v
    refine (if_neg ?_).trans ?_
    · rw [hflat, hr, ht]
      simp [ptRead, ptReef]
    · rw [hflat]
  rw [flitSlots_eq, h0, h1, ha, hb, slotsGo_start _ _ hs, slotsGo_second _ (by rw [hp1]) (by rw [hp1]) ht, hin, slotsGo_idle]
  · rfl
  · exact congrArg Port.rxNeed hp2
  · intro e he
    obtain ⟨n, hn', rfl⟩ := List.mem_map.mp he
    have := List.mem_range.mp hn'
    have hb' := hn (n + 2) (by omega) (by omega)
    rw [show 56 + (n + 2) = 58 + n by omega] at hb'
    exact hb'

/-! NAK (R283). -/

/-- A port that replays what an acknowledgement with NAK leaves. -/
def replays (hdr : Nat) (y : Port) : Port :=
  ({ y.acked (bits hdr 12 12) with replayRun := (y.acked (bits hdr 12 12)).replayRun + 1 } : Port).resend

theorem takeAck_nak {s : State} {p hdr : Nat} (hl : p < s.fabric.ports.length) (h4 : bit hdr 24 = true) (h5 : bit hdr 25 = true) :
    ∃ v, PortIs s p (replays hdr (s.port p)) v ∧ s.takeAck p hdr =
      if (v.port p).replayRun < 8 then v else v.startRetrain p (min (min 3 (v.port p).working.length) (v.port p).lanes) 1 := by
  have h1 := portIs_modPort (fun x => x.acked (bits hdr 12 12)) hl
  have h2 := portIs_modPort (s := s.modPort p fun x => x.acked (bits hdr 12 12)) (p := p)
    (fun x => let y := x.acked (bits hdr 12 12); { y with replayRun := y.replayRun + 1 }) (by rw [h1.len]; exact hl)
  have h3 := portIs_resendOn (s := (s.modPort p fun x => x.acked (bits hdr 12 12)).modPort p fun x =>
    let y := x.acked (bits hdr 12 12); { y with replayRun := y.replayRun + 1 }) (p := p) (by rw [h2.len, h1.len]; exact hl)
  rw [h2.port, h1.port, acked_acked] at h3
  refine ⟨_, (h1.trans h2).trans h3, ?_⟩
  unfold State.takeAck
  dsimp only
  rw [if_neg (by simp [h5]), if_pos h4]

theorem acked_credits (x : Port) (seq n : Nat) (c : List (Nat × Nat × Nat)) :
    ({ x with sinceAck := n, credits := c } : Port).acked seq = { x.acked seq with sinceAck := n, credits := c } := by
  unfold Port.acked
  dsimp only
  split
  · rfl
  · rfl

/-- What a replaying port sends and keeps, whatever credits the header brought. -/
theorem replays_eq (hdr n : Nat) (c : List (Nat × Nat × Nat)) (x : Port) : ∃ a k,
    replays hdr { x with sinceAck := n, credits := c } = { x with
      sinceAck := n, credits := c, ackedSeq := a, replays := k, replay := (x.acked (bits hdr 12 12)).replay
      replayRun := (x.acked (bits hdr 12 12)).replayRun + 1
      wire := x.wire ++ (x.acked (bits hdr 12 12)).replay.map fun f => { f with lanes := x.working.take x.lanes } } := by
  obtain ⟨a, r, k, h⟩ := acked_only x (bits hdr 12 12)
  unfold replays
  rw [acked_credits, h]
  dsimp only
  obtain ⟨w, m, h2⟩ := resend_only { x with sinceAck := n, credits := c, ackedSeq := a, replay := r, replayRun := k + 1 }
  have h3 := resend_wire { x with sinceAck := n, credits := c, ackedSeq := a, replay := r, replayRun := k + 1 }
  rw [h2] at h3
  dsimp only at h3
  exact ⟨a, m, h2.trans (by rw [h3])⟩

theorem execAckSend_sends {s : State} {p : Nat} (hp : p < 16) (h : (s.port p).st = .up) :
    execAckSend p s = .next (s.modPort p Port.sendIdle) :=
  (if_pos (decide_eq_true hp)).trans (congrArg _ (if_pos (portUp_iff.mpr h)))

theorem execTimeReq_answers {s : State} {p : Nat} {c : CtrlIn} (t1 : Nat) (hp : p < 16) (h : (s.port p).st = .up) (hg : c.good = true)
    (hr : c.reserved = 0) : execTimeReq p c t1 s =
      .next (s.modPort p fun x => x.sendCtrl (3, natLe 8 t1 ++ natLe 8 s.now ++ natLe 8 s.now)) :=
  (if_pos (decide_eq_true hp)).trans (congrArg _ ((onCtrl_good _ (by simp [h]) hg hr).trans (if_pos (portUp_iff.mpr h))))

/-- The first bad flit is answered with NAK at once. -/
theorem portIs_nak_answers {s : State} {p : Nat} (h : p < s.fabric.ports.length) (hst : (s.port p).st = .up)
    (hb : (s.port p).rxBad = false) :
    ∃ owed f, PortIs s p { s.port p with rxBad := true, owed := owed, sinceAck := 0, wire := (s.port p).wire ++ [f] } (s.nak p) ∧
      f.ftype = 1 ∧ f.nak = true ∧ f.ackseq = (s.port p).rxSeq := by
  obtain ⟨owed, f, hf, h1, -, h3, h4⟩ := sendIdle_only { s.port p with rxBad := true }
  have hm := portIs_modPort (s := s) (fun x => let y := { x with rxBad := true }; if y.st = .up then y.sendIdle else y) h
  dsimp only at hm
  rw [if_pos hst, hf] at hm
  refine ⟨owed, f, ?_, h1, h4, h3⟩
  unfold State.nak
  rw [if_neg (by rw [hb]; exact Bool.false_ne_true)]
  exact hm

/-- Settles O40. -/
theorem flitsTaken : Obligations.FlitsTaken := by
  refine fun s p hp hl => ⟨fun hst => ⟨fun x => ⟨?_, ?_⟩, ?_⟩, fun hst => ⟨?_, ?_, ?_, ?_, fun c t1 => execTimeReq_answers t1 hp hst⟩⟩
  · exact (execDataFlit_runs x hp).trans (congrArg _ (dataIn_closed x hst))
  · exact (execIdleFlit_runs x hp).trans (congrArg _ (idleIn_closed x hst))
  · exact (if_pos (decide_eq_true hp)).trans (congrArg _ (if_neg (by simp [State.portUp, hst])))
  · intro x hg
    have hdata := (execDataFlit_runs (s := s) x hp).trans (congrArg _ (dataIn_bad hst hg))
    refine ⟨?_, ?_, fun hx hb => ?_⟩
    · obtain ⟨y, h1, hc⟩ := bad_counted (x := x) (f := heard s.now) hl rfl rfl
      obtain ⟨_, _, _, h2⟩ := portIs_nak (Nat.lt_of_lt_of_eq hl h1.len.symm)
      obtain ⟨_, _, _, h3⟩ := portIs_ackDue (Nat.lt_of_lt_of_eq hl ((h2.len.trans h1.len).symm))
      rw [h2.port, h1.port] at h3
      exact ⟨_, hdata, (congrArg Port.crcErrors h3.port).trans hc, (h3.tiles.trans h2.tiles).trans h1.tiles⟩
    · obtain ⟨y, h1, hc⟩ := bad_counted (x := x) (f := fun y => { y with sinceAck := y.sinceAck + 1 }) hl rfl rfl
      obtain ⟨_, _, _, h2⟩ := portIs_ackDue (Nat.lt_of_lt_of_eq hl h1.len.symm)
      rw [h1.port] at h2
      exact ⟨_, (execIdleFlit_runs (s := s) x hp).trans (congrArg _ (idleIn_bad hst hg)), (congrArg Port.crcErrors h2.port).trans hc,
        h2.tiles.trans h1.tiles⟩
    · have h0 := portIs_modPort (s := s) (heard s.now) hl
      have h1 := portIs_modPort (s := s.modPort p (heard s.now)) (p := p) (fun y => { y with crcErrors := inc32 y.crcErrors })
        (by rw [h0.len]; exact hl)
      rw [h0.port] at h1
      have h01 := h0.trans h1
      obtain ⟨owed, f, h2, hf1, hf2, hf3⟩ := portIs_nak_answers (Nat.lt_of_lt_of_eq hl h01.len.symm)
        ((congrArg Port.st h01.port).trans hst) ((congrArg Port.rxBad h01.port).trans hb)
      have h02 := h01.trans h2
      rw [h01.port] at h02
      have hquiet := ackDue_quiet (p := p) (Or.inl (by rw [h2.port]; exact Nat.succ_pos 63))
      refine ⟨_, f, hdata.trans (congrArg _ ?_), congrArg Port.rxBad h02.port, (congrArg Port.rxSeq h02.port).trans rfl,
        (congrArg Port.wire h02.port).trans rfl, hf1, hf2, hf3.trans ((congrArg Port.rxSeq h01.port).trans rfl), h02.inbox⟩
      unfold State.flitErrors
      rw [hx]
      exact hquiet
  · intro x hg hr ht h5
    have hdata := (execDataFlit_runs (s := s) x hp).trans (congrArg _ (dataIn_good hst hg hr ht))
    have h0 := portIs_modPort (s := s) (heard s.now) hl
    have h1 := portIs_takeAck (s := s.modPort p (heard s.now)) (p := p) (hdr := x.hdr) (by rw [h0.len]; exact hl) h5
    rw [h0.port] at h1
    obtain ⟨a, r, k, honly⟩ := takesAck_only x.hdr (heard s.now (s.port p))
    have hseq : ((s.modPort p (heard s.now)).port p).rxSeq = (s.port p).rxSeq := (congrArg Port.rxSeq h0.port).trans rfl
    have hlen1 := Nat.lt_of_lt_of_eq hl (h1.len.trans h0.len).symm
    dsimp only at hdata
    rw [hseq] at hdata
    refine ⟨fun he => ?_, fun he => ?_⟩
    · rw [if_pos he] at hdata
      have h2 := portIs_modPort (s := (s.modPort p (heard s.now)).takeAck p x.hdr) (p := p)
        (fun y => { y.takeCr x.hdr with rxSeq := bits x.hdr 0 12, rxBad := false }) hlen1
      have h02 := (h0.trans h1).trans h2
      rw [h1.port, honly] at h02
      obtain ⟨hs1, hs2, hs3⟩ := sameSeq_slotsGo p (flitSlots x) (((s.modPort p (heard s.now)).takeAck p x.hdr).modPort p
        fun y => { y.takeCr x.hdr with rxSeq := bits x.hdr 0 12, rxBad := false })
      obtain ⟨ha1, ha2, ha3⟩ := sameSeq_ackDue (slotsGo (((s.modPort p (heard s.now)).takeAck p x.hdr).modPort p
        fun y => { y.takeCr x.hdr with rxSeq := bits x.hdr 0 12, rxBad := false }) p (flitSlots x)) p
      refine ⟨_, hdata, (ha1.trans hs1).trans (congrArg Port.rxSeq h02.port), (ha2.trans hs2).trans (congrArg Port.rxBad h02.port),
        (ha3.trans hs3).trans h02.tiles, fun h hh hs hn hb0 hbn ht hres => ?_⟩
      refine (inbox_ackDue _ _).trans ((inbox_slotsGo_read (Nat.lt_of_lt_of_eq hl h02.len.symm) hh
        ((congrArg Port.rxSlots h02.port).trans hs) hb0 hbn ht hres).trans ?_)
      rw [now_reported h02.rep, h02.inbox]
    · rw [if_neg he] at hdata
      split at hdata
      next hd =>
        obtain ⟨_, _, _, h2⟩ := portIs_ackDue hlen1
        rw [h1.port, honly] at h2
        exact ⟨_, hdata, (congrArg Port.rxSeq h2.port).trans rfl, (h2.inbox.trans h1.inbox).trans h0.inbox,
          (h2.tiles.trans h1.tiles).trans h0.tiles, fun h => absurd hd (by omega)⟩
      next hd =>
        obtain ⟨_, _, _, h2⟩ := portIs_nak hlen1
        obtain ⟨_, _, _, h3⟩ := portIs_ackDue (Nat.lt_of_lt_of_eq hlen1 h2.len.symm)
        rw [h2.port, h1.port, honly] at h3
        exact ⟨_, hdata, (congrArg Port.rxSeq h3.port).trans rfl, ((h3.inbox.trans h2.inbox).trans h1.inbox).trans h0.inbox,
          ((h3.tiles.trans h2.tiles).trans h1.tiles).trans h0.tiles, fun _ => congrArg Port.rxBad h3.port⟩
  · intro x hg hr ht
    have hidle := (execIdleFlit_runs (s := s) x hp).trans (congrArg _ (idleIn_good hst hg hr ht))
    have h0 := portIs_modPort (s := s) (fun y => { y with sinceAck := y.sinceAck + 1 }) hl
    have h1 := portIs_modPort (s := s.modPort p fun y => { y with sinceAck := y.sinceAck + 1 }) (p := p) (fun y => y.takeCr x.hdr)
      (by rw [h0.len]; exact hl)
    have h01 := h0.trans h1
    rw [h0.port] at h01
    have hlen1 := Nat.lt_of_lt_of_eq hl h01.len.symm
    refine ⟨fun h5 => ?_, fun y h4 h5 hy => ?_⟩
    · have h2 := portIs_takeAck (s := (s.modPort p fun y => { y with sinceAck := y.sinceAck + 1 }).modPort p fun y => y.takeCr x.hdr)
        (hdr := x.hdr) hlen1 h5
      have h02 := h01.trans h2
      obtain ⟨_, _, _, h3⟩ := portIs_ackDue (Nat.lt_of_lt_of_eq hl h02.len.symm)
      obtain ⟨a, r, k, honly⟩ := takesAck_only x.hdr (({ s.port p with sinceAck := (s.port p).sinceAck + 1 } : Port).takeCr x.hdr)
      have h03 := h02.trans h3
      rw [h02.port, h01.port, honly] at h03
      exact ⟨_, hidle, (congrArg Port.credits h03.port).trans rfl, (congrArg Port.rxSeq h03.port).trans rfl, h03.inbox, h03.tiles⟩
    · obtain ⟨v, hv, htake⟩ := takeAck_nak (s := (s.modPort p fun y => { y with sinceAck := y.sinceAck + 1 }).modPort p fun y =>
        y.takeCr x.hdr) (hdr := x.hdr) hlen1 h4 h5
      obtain ⟨a, m, hrep⟩ := replays_eq x.hdr ((s.port p).sinceAck + 1) ((s.port p).takeCr x.hdr).credits (s.port p)
      rw [← hy] at hrep
      have h02 := h01.trans hv
      rw [h01.port] at h02
      replace h02 := (congrArg (PortIs s p · v) hrep).mp h02
      have hlen := Nat.lt_of_lt_of_eq hl h02.len.symm
      have hrun : (v.port p).replayRun = y.replayRun + 1 := congrArg Port.replayRun h02.port
      rw [htake] at hidle
      refine ⟨fun h7 => ?_, fun h7 h2 => ?_⟩
      · rw [if_pos (by omega)] at hidle
        obtain ⟨_, _, _, h3⟩ := portIs_ackDue hlen
        rw [h02.port] at h3
        refine ⟨_, hidle, ((congrArg Port.st h3.port).trans rfl).trans hst, (congrArg Port.replay h3.port).trans rfl,
          (congrArg Port.replayRun h3.port).trans rfl, h3.tiles.trans h02.tiles, fun h63 => ?_⟩
        rw [ackDue_quiet (Or.inl (by rw [h02.port]; exact Nat.succ_lt_succ h63))]
        exact congrArg Port.wire h02.port
      · have hn : 2 ≤ min (min 3 (v.port p).working.length) (v.port p).lanes := by
          rw [h02.port]
          dsimp only
          omega
        rw [if_neg (by omega), startRetrain_enough 1 hn] at hidle
        obtain ⟨l, h3⟩ := portIs_portMove (retrains v.now (min (min 3 (v.port p).working.length) (v.port p).lanes) 1) hlen
        have hdown : (v.portMove p (retrains v.now (min (min 3 (v.port p).working.length) (v.port p).lanes) 1)).portUp p = false := by
          unfold State.portUp
          rw [h3.port]
          rfl
        rw [ackDue_quiet (Or.inr hdown)] at hidle
        refine ⟨_, hidle, congrArg Port.st h3.port, (congrArg Port.lanes h3.port).trans ?_⟩
        rw [h02.port]
        rfl
  · obtain ⟨owed, f, hf, h1, h2, h3, h4⟩ := sendIdle_only (s.port p)
    have hpi := portIs_modPort (s := s) Port.sendIdle hl
    rw [hf] at hpi
    exact ⟨_, f, execAckSend_sends hp hst, congrArg Port.wire hpi.port, h1, h2, h3, h4, congrArg Port.sinceAck hpi.port⟩

end Sys2Proof.Proofs.Flits
end

section
/-! PROOFS. Packets that move on, are sent or are answered: O41. -/
namespace Sys2Proof.Proofs.Packets

open Sys2Proof Sys2Proof.Machine Sys2Proof.Laws Sys2Proof.Safety Sys2Proof.Proofs.Reports Sys2Proof.Proofs.Ports
  Sys2Proof.Proofs.PortStates

/-! Where packets go. -/

/-- The paths of packets lead in v as in s, and the time is the same. -/
structure SamePaths (s v : State) : Prop where
  node : v.nodeId = s.nodeId
  dims : v.dims = s.dims
  now : v.now = s.now
  routes : v.fabric.routes = s.fabric.routes
  gateways : v.fabric.gateways = s.fabric.gateways
  up : ∀ q, v.portUp q = s.portUp q

theorem SamePaths.refl (s : State) : SamePaths s s := ⟨rfl, rfl, rfl, rfl, rfl, fun _ => rfl⟩

theorem SamePaths.trans {s v w : State} (h : SamePaths s v) (k : SamePaths v w) : SamePaths s w :=
  ⟨k.node.trans h.node, k.dims.trans h.dims, k.now.trans h.now, k.routes.trans h.routes, k.gateways.trans h.gateways,
    fun q => (k.up q).trans (h.up q)⟩

section
variable {s v : State} (h : SamePaths s v)
include h

theorem SamePaths.routeEntry (n : Nat) : v.routeEntry n = s.routeEntry n := by
  unfold State.routeEntry
  rw [h.routes]

theorem SamePaths.gateway (n : Nat) : v.gateway n = s.gateway n := by
  unfold State.gateway
  rw [h.gateways]

theorem SamePaths.unreachable (n : Nat) : v.unreachable n = s.unreachable n := by
  unfold State.unreachable
  rw [h.routeEntry]

theorem SamePaths.mkPkt : v.mkPkt = s.mkPkt := by
  funext ptype vc dest off space job txn layer op arg scope data
  unfold State.mkPkt
  rw [h.routeEntry, h.gateway, h.node]

theorem SamePaths.outPort (p : Packet) (inp : Nat) : v.outPort p inp = s.outPort p inp := by
  have hm : ∀ dir route off, v.member dir route off = s.member dir route off := fun dir route off => by
    unfold State.member
    simp only [h.up]
  unfold State.outPort
  simp only [h.node, h.dims, h.routeEntry, h.gateway, h.up, hm]

end

theorem samePaths_sampled {s v : State} (h : Sampled s v) : SamePaths s v := by
  obtain ⟨_, _, _, _, rfl⟩ := h
  exact ⟨rfl, rfl, rfl, rfl, rfl, fun _ => rfl⟩

theorem portUp_modPort {s : State} {p : Nat} {f : Port → Port} (h : ∀ x, (f x).st = x.st) (q : Nat) : (s.modPort p f).portUp q = s.portUp q :=
  congrArg (· == PortSt.up) (Flits.port_modPort_keeps h s p q)

theorem samePaths_modPort {s : State} {p : Nat} {f : Port → Port} (h : ∀ x, (f x).st = x.st) : SamePaths s (s.modPort p f) :=
  ⟨rfl, rfl, rfl, rfl, rfl, portUp_modPort h⟩

theorem samePaths_modFab {s : State} {f : Fabric → Fabric} (hp : (f s.fabric).ports = s.fabric.ports) (hr : (f s.fabric).routes = s.fabric.routes)
    (hg : (f s.fabric).gateways = s.fabric.gateways) : SamePaths s (s.modFab f) :=
  ⟨rfl, rfl, rfl, hr, hg, fun q => congrArg (fun l : List Port => (l.getD q Port.init).st == .up) hp⟩

theorem samePaths_takePkt (s : State) (k : Nat) (x : InPkt) : SamePaths s (s.takePkt k x) := by
  have h1 := samePaths_modFab (s := s) (f := fun f => { f with inbox := f.inbox.eraseIdx k }) rfl rfl rfl
  unfold State.takePkt State.returnCredits
  split
  · refine h1.trans (samePaths_modPort ?_)
    exact fun _ => rfl
  · exact h1

theorem out_takePkt (s : State) (k : Nat) (x : InPkt) (q : Nat) : ((s.takePkt k x).port q).out = (s.port q).out := by
  unfold State.takePkt State.returnCredits
  split
  · refine (Flits.port_modPort_keeps (g := Port.out) ?_ _ x.port q).trans rfl
    exact fun _ => rfl
  · rfl

/-! Packets of this node. -/

/-- What injecting a packet does to the inbox (R291, R295). -/
theorem inbox_inject (s : State) (p : Packet) : (s.inject p).fabric.inbox =
    s.fabric.inbox ++ (if s.nodeId = some p.dest ∧ s.unreachable p.dest = false then [⟨p, 16, s.now⟩] else []) := by
  unfold State.inject
  cases hn : s.nodeId with
  | none =>
    rw [if_pos (by simp), if_neg (by simp)]
    exact (List.append_nil _).symm
  | some own =>
    cases hu : s.unreachable p.dest with
    | true =>
      rw [if_pos (by simp), if_neg (by simp)]
      exact (List.append_nil _).symm
    | false =>
      rw [if_neg (by simp)]
      split
      next h =>
        rw [if_pos ⟨h, rfl⟩]
        rfl
      next h =>
        rw [if_neg fun hc => h hc.1, List.append_nil]
        unfold State.queuePkt
        split
        · rfl
        · rfl

theorem out_inject {s : State} {p : Packet} {port cls : Nat} (hu : s.unreachable p.dest = false) (hn : s.nodeId.isSome = true)
    (hd : s.nodeId ≠ some p.dest) (ho : s.outPort p 16 = some (port, cls)) :
    ((s.inject p).port port).out = (s.port port).out ++ [⟨{ p with dclass := cls }, false, s.now⟩] :=
  (queued_inject s p hu hn).2 port cls hd ho

/-- An answer sent from a state that has taken the packet and kept the paths. -/
theorem replied_inject {s v : State} {k : Nat} {p : Packet} (h : SamePaths s v) (ht : taken s v k)
    (ho : ∀ q, (v.port q).out = (s.port q).out) : replied s (v.inject p) k p := by
  refine ⟨?_, fun port cls hu hn hd hp => ?_⟩
  · have hi := inbox_inject v p
    rw [h.node, h.unreachable, h.now] at hi
    exact hi.trans (congrArg (· ++ _) ht)
  · have hq := out_inject (s := v) ((h.unreachable _).trans hu) ((congrArg Option.isSome h.node).trans hn)
      (fun hc => hd (h.node.symm.trans hc)) ((h.outPort _ _).trans hp)
    rw [ho, h.now] at hq
    exact hq

/-- An answer to a packet of the inbox, from a state that has taken it (R303). -/
theorem replied_answer {s v : State} {k : Nat} (h : SamePaths s v) (ht : taken s v k) (ho : ∀ q, (v.port q).out = (s.port q).out)
    (q : Packet) (ptype status reason : Nat) (data : List Byte) :
    replied s (v.answerPkt q ptype status reason data) k (answerOf s q ptype (status % 256 + reason % 256 * 256) data) := by
  have hmk := h.mkPkt
  unfold State.answerPkt answerOf
  rw [hmk]
  exact replied_inject h ht ho

/-! Forwarding (R313). -/

theorem forward_stays {s : State} {k : Nat} (h : s.pktAt k = none ∨ ∃ x, s.pktAt k = some x ∧ s.nodeId = some x.pkt.dest) :
    s.forward k = s := by
  unfold State.forward
  obtain h | ⟨x, h, hx⟩ := h
  · rw [h]
  · rw [h]
    exact if_pos hx.symm

section
variable {s : State} {k : Nat} {x : InPkt} (h : s.pktAt k = some x) (hd : s.nodeId ≠ some x.pkt.dest)
include h hd

theorem forward_queues {port cls : Nat} (ho : s.outPort x.pkt x.port = some (port, cls)) : s.forward k =
    (s.modPort port fun y => { y with out := y.out ++ [⟨{ x.pkt with dclass := cls }, x.port != 16, x.at_⟩] }).takePkt k x := by
  unfold State.forward
  rw [h]
  dsimp only
  rw [if_neg hd.symm]
  unfold State.queuePkt
  rw [ho]

theorem forward_lost (ho : s.outPort x.pkt x.port = none) : s.forward k = (s.takePkt k x).discardPkt x.pkt := by
  unfold State.forward
  rw [h]
  dsimp only
  rw [if_neg hd.symm]
  unfold State.queuePkt
  rw [ho]

end

/-! Sending (R282, R300). -/

theorem flitsGo_succ (seq : Nat) (first : Bool) (n : Nat) (b : List Byte) : flitsGo seq first (n + 1) b =
    { zeroFlit 0 (b.take 240 ++ List.replicate (240 - b.length) 0) with fseq := seq % 4096, start := natOfBool first } ::
      flitsGo (seq + 1) false n (b.drop 240) := rfl

theorem length_flitsGo (n : Nat) : ∀ (seq : Nat) (first : Bool) (b : List Byte), (flitsGo seq first n b).length = n := by
  induction n with
  | zero => exact fun _ _ _ => rfl
  | succ n ih => exact fun seq first b => congrArg (· + 1) (ih (seq + 1) false (b.drop 240))

/-- Stamping flits changes only what a port owes and how long it has not acknowledged. -/
theorem stampAll_only (l : List TxFlit) : ∀ x : Port, ∃ owed n, (stampAll x l).2 = { x with owed := owed, sinceAck := n } ∧
    (stampAll x l).1.length = l.length := by
  induction l with
  | nil => exact fun x => ⟨_, _, rfl, rfl⟩
  | cons f r ih =>
    intro x
    obtain ⟨owed, n, h, hl⟩ := ih (x.stamp f).2
    exact ⟨owed, n, h, congrArg (· + 1) hl⟩

theorem stampAll_head (x : Port) (f : TxFlit) (r : List TxFlit) : ∃ g rest, (stampAll x (f :: r)).1 = g :: rest ∧ rest.length = r.length ∧
    g.fseq = f.fseq ∧ g.start = f.start ∧ g.ftype = f.ftype := by
  obtain ⟨_, _, _, hl⟩ := stampAll_only r (x.stamp f).2
  exact ⟨_, _, rfl, hl, rfl, rfl, rfl⟩

/-- A packet becomes one DATA flit for every 15 slots begun. -/
theorem emit_flits (x : Port) (o : OutPkt) : ∃ f rest, rest.length + 1 = (o.pkt.slots + 14) / 15 ∧ f.fseq = x.txSeq % 4096 ∧
    f.start = 1 ∧ f.ftype = 0 ∧ (x.emit o).out = x.out.erase o ∧
    (x.emit o).wire = x.wire ++ (f :: rest).map (fun g => { g with lanes := x.working.take x.lanes }) ∧
    (x.emit o).replay = x.replay ++ f :: rest ∧ (x.emit o).txSeq = (x.txSeq + (o.pkt.slots + 14) / 15) % 4096 := by
  obtain ⟨m, hm⟩ : ∃ m, (o.pkt.slots + 14) / 15 = m + 1 := ⟨(o.pkt.slots + 14) / 15 - 1, by simp only [Packet.slots]; omega⟩
  obtain ⟨f, rest, hfr, hlen, h1, h2, h3⟩ := stampAll_head x
    { zeroFlit 0 (o.pkt.bytes.take 240 ++ List.replicate (240 - o.pkt.bytes.length) 0) with fseq := x.txSeq % 4096, start := natOfBool true }
    (flitsGo (x.txSeq + 1) false m (o.pkt.bytes.drop 240))
  obtain ⟨owed, n, hy, -⟩ := stampAll_only (flitsGo x.txSeq true (m + 1) o.pkt.bytes) x
  rw [← flitsGo_succ] at hfr
  rw [length_flitsGo] at hlen
  refine ⟨f, rest, by omega, h1, h2, h3, ?_, ?_, ?_, ?_⟩
  · simp only [Port.emit, hm, hy]
  · simp only [Port.emit, Port.put, hm, hy, hfr]
    rfl
  · simp only [Port.emit, hm, hy, hfr]
  · simp only [Port.emit, hm, hy]

theorem bytes_sampled {s v : State} (h : Sampled s v) : SameBytes s v := by
  obtain ⟨_, _, _, _, rfl⟩ := h
  exact ⟨rfl, rfl, rfl, rfl⟩

theorem sampled_sentOut (s : State) (p : Nat) (o : OutPkt) : Sampled s (s.sentOut p o) := by
  unfold State.sentOut
  split
  · exact sampled_emitAll _ _ _ _ _ _
  split
  · unfold State.emitReq
    split
    · split
      · exact sampled_emit _ _ _ _ _ _ _ _ _
      · exact .refl _
    all_goals exact .refl _
  · exact .refl _

theorem bytes_flushReplies (s : State) : SameBytes s s.flushReplies :=
  (bytes_modCap s _).trans (SameBytes.foldl (fun v _ => bytes_inject v _) _ _)

theorem bytes_discardPkt (s : State) (p : Packet) : SameBytes s (s.discardPkt p) := by
  unfold State.discardPkt
  split
  · exact bytes_refusePkt _ _ _
  · exact bytes_modFab _ _

theorem execPacketSend_runs {s : State} {p : Nat} (hp : p < 16) : execPacketSend p s = .next (s.sendPacket p) := if_pos (decide_eq_true hp)

theorem sendPacket_idle {s : State} {p : Nat} (h : (s.flushReplies.port p).st ≠ .up ∨ (s.flushReplies.port p).choose = none) :
    s.sendPacket p = s.flushReplies := by
  by_cases hst : (s.flushReplies.port p).st = .up
  · obtain h | h := h
    · exact absurd hst h
    · refine (if_neg (by simpa using hst)).trans ?_
      rw [h]
  · exact if_pos hst

theorem sendPacket_offers {s : State} {p : Nat} {o : OutPkt} (hst : (s.flushReplies.port p).st = .up)
    (h : (s.flushReplies.port p).choose = some o) : s.sendPacket p =
      if 512 < (s.flushReplies.port p).replay.length + (o.pkt.slots + 14) / 15 then s.flushReplies
      else (s.flushReplies.modPort p fun x => x.emit o).sentOut p o := by
  refine (if_neg (by simpa using hst)).trans ?_
  rw [h]

/-- Settles O41. -/
theorem packetsMove : Obligations.PacketsMove := by
  refine ⟨fun s k h => congrArg Host.Outcome.next (forward_stays h), fun s k x h hd => ⟨fun port cls ho hport => ?_, fun ho hq hm => ?_, fun ho hq => ?_⟩,
    fun s v p hp hv => ⟨fun h => ?_, fun o n hst hc hn => ⟨fun hfull => ?_, fun hroom => ?_⟩⟩⟩
  · refine ⟨_, congrArg Host.Outcome.next (forward_queues h hd ho), takePkt_inbox _ k x, ?_,
      ((bytes_modPort s port _).trans (bytes_takePkt _ k x)).sameMemory⟩
    rw [out_takePkt, port_modPort _ hport]
  · refine ⟨_, congrArg Host.Outcome.next (forward_lost h hd ho), ?_, ?_, ((bytes_takePkt s k x).trans (bytes_discardPkt _ _)).sameMemory⟩
    · unfold State.discardPkt
      rw [if_neg (by simp [hq, hm])]
      exact takePkt_inbox s k x
    · unfold State.discardPkt
      rw [if_neg (by simp [hq, hm])]
      unfold State.takePkt State.returnCredits
      split
      · rfl
      · rfl
  · refine ⟨_, congrArg Host.Outcome.next (forward_lost h hd ho), ?_, ((bytes_takePkt s k x).trans (bytes_discardPkt _ _)).sameMemory⟩
    unfold State.discardPkt
    rw [if_pos (by simpa using hq)]
    exact replied_answer (samePaths_takePkt s k x) (takePkt_inbox s k x) (out_takePkt s k x) x.pkt ptRefuse 0 rsRouteDead []
  · subst hv
    exact (execPacketSend_runs hp).trans (congrArg _ (sendPacket_idle h))
  · subst hv hn
    exact (execPacketSend_runs hp).trans (congrArg _ ((sendPacket_offers hst hc).trans (if_pos hfull)))
  · subst hv hn
    have hl := portUp_lt (Flits.portUp_iff.mpr hst)
    have h1 := (portIs_modPort (fun x => x.emit o) hl).keeps (portIs_sampled p (sampled_sentOut _ p o))
    obtain ⟨f, rest, hlen, hf1, hf2, hf3, hout, hwire, hreplay, hseq⟩ := emit_flits (s.flushReplies.port p) o
    refine ⟨_, f, rest, (execPacketSend_runs hp).trans (congrArg _ ((sendPacket_offers hst hc).trans (if_neg (Nat.not_lt.mpr hroom)))),
      hlen, hf1, hf2, hf3, (congrArg Port.out h1.port).trans hout, (congrArg Port.wire h1.port).trans hwire,
      (congrArg Port.replay h1.port).trans hreplay, (congrArg Port.txSeq h1.port).trans hseq, h1.inbox,
      ((bytes_flushReplies s).trans ((bytes_modPort _ p _).trans (bytes_sampled (sampled_sentOut _ p o)))).sameMemory⟩

end Sys2Proof.Proofs.Packets
end

section
/-! PROOFS. What serving memory requests leaves unchanged. -/
namespace Sys2Proof.Proofs.HomeFrame

open Sys2Proof Sys2Proof.Machine Sys2Proof.Laws Sys2Proof.Safety Sys2Proof.Proofs.Home Sys2Proof.Proofs.Packets

/-- Nothing changes but tiles, dies, HBM with its poison and CRCs, the reports and the free values drawn. -/
def Served (s v : State) : Prop := ∃ tiles dies hbm poison crcs errs irqs spineMons free, v = { s with
  tiles := tiles, dies := dies, hbm := hbm, poison := poison, crcs := crcs, errs := errs, irqs := irqs, spineMons := spineMons,
      free := free }

theorem Served.refl (s : State) : Served s s := ⟨_, _, _, _, _, _, _, _, _, rfl⟩

theorem Served.trans {s v w : State} (h : Served s v) (k : Served v w) : Served s w := by
  obtain ⟨_, _, _, _, _, _, _, _, _, rfl⟩ := h
  obtain ⟨_, _, _, _, _, _, _, _, _, rfl⟩ := k
  exact ⟨_, _, _, _, _, _, _, _, _, rfl⟩

section
variable {s v : State} (h : Served s v)
include h

theorem Served.fabric : v.fabric = s.fabric := by
  obtain ⟨_, _, _, _, _, _, _, _, _, rfl⟩ := h
  rfl

theorem Served.sram : v.sram = s.sram := by
  obtain ⟨_, _, _, _, _, _, _, _, _, rfl⟩ := h
  rfl

theorem Served.paths : SamePaths s v := by
  obtain ⟨_, _, _, _, _, _, _, _, _, rfl⟩ := h
  exact ⟨rfl, rfl, rfl, rfl, rfl, fun _ => rfl⟩

end

theorem served_sampled {s v : State} (h : Sampled s v) : Served s v := by
  obtain ⟨_, _, _, _, rfl⟩ := h
  exact ⟨_, _, _, _, _, _, _, _, _, rfl⟩

theorem served_modDie (s : State) (d : Nat) (f : Die → Die) : Served s (s.modDie d f) := ⟨_, _, _, _, _, _, _, _, _, rfl⟩
theorem served_modTile (s : State) (t : Nat) (f : Tile → Tile) : Served s (s.modTile t f) := ⟨_, _, _, _, _, _, _, _, _, rfl⟩

theorem served_charge (s : State) (d gear layer op kind n : Nat) : Served s (s.charge d gear layer op kind n) := by
  unfold State.charge
  split
  · exact .refl s
  · exact served_modDie s _ _

theorem served_chargedFor (s : State) (q : HomeReq) (d key : Nat) : Served s (chargedFor s q d key) := by
  unfold chargedFor
  dsimp only
  split
  · exact served_charge s _ _ _ _ _ _
  · exact (served_charge s _ _ _ _ _ _).trans (served_charge _ _ _ _ _ _ _)

theorem served_evict (s : State) (d key : Nat) : Served s (s.evict d key) := by
  unfold State.evict
  split
  · dsimp only
    split
    · exact .refl s
    split
    · exact .refl s
    · exact ⟨_, _, _, _, _, _, _, _, _, rfl⟩
  split
  · exact .refl s
  split
  · exact .refl s
  dsimp only
  split
  · exact ⟨_, _, _, _, _, _, _, _, _, rfl⟩
  · exact served_modDie s _ _

theorem served_makeRoom {s v : State} {d off : Nat} (h : s.makeRoom d off = some v) : Served s v := by
  unfold State.makeRoom at h
  dsimp only at h
  split at h
  · exact Option.some.inj h ▸ .refl s
  split at h
  · exact Option.some.inj h ▸ .refl s
  split at h
  · refine Option.some.inj h ▸ Served.trans ?_ (served_evict _ _ _)
    exact ⟨_, _, _, _, _, _, _, _, _, rfl⟩
  · cases h

theorem served_allocate {s v : State} {d : Nat} {l : CacheLine} (h : s.allocate d l = some v) : Served s v := by
  unfold State.allocate at h
  split at h
  · exact Option.some.inj h ▸ served_modDie s _ _
  · obtain ⟨w, hw, rfl⟩ := Option.map_eq_some_iff.mp h
    exact (served_makeRoom hw).trans (served_modDie w _ _)

theorem served_allocate_getD {s v : State} {d : Nat} {l : CacheLine} (h : Served s v) : Served s ((s.allocate d l).getD v) := by
  cases ha : s.allocate d l with
  | none => exact h
  | some w => exact served_allocate ha

theorem served_putLine (s : State) (d key off : Nat) (data : List Byte) (alloc : Bool) (tag : Option (Nat × Nat)) :
    Served s (s.putLine d key off data alloc tag) := by
  have h : Served s { s with hbm := cellsWrite s.hbm (key * 64) data, poison := s.poison.filter fun k => k != key } :=
    ⟨_, _, _, _, _, _, _, _, _, rfl⟩
  unfold State.putLine
  dsimp only
  split
  · exact served_allocate_getD h
  · exact h

theorem served_keepCrc (s : State) (al : Alloc) (off : Nat) (whole : Bool) (old new : List Byte) :
    Served s (s.keepCrc al off whole old new) := by
  unfold State.keepCrc
  split
  · exact .refl s
  · exact served_modDie s _ _

theorem served_storedLine (s : State) (al : Alloc) (q : HomeReq) (d key : Nat) (whole : Bool) (old new : List Byte)
    (tag : Option (Nat × Nat)) (allocate : Bool) : Served s (storedLine s al q d key whole old new tag allocate) :=
  (served_putLine s _ _ _ _ _ _).trans (served_keepCrc _ _ _ _ _ _)

theorem served_scopeNoted (s : State) (q : HomeReq) (d key : Nat) : Served s (scopeNoted s q d key) := by
  unfold scopeNoted
  split
  · exact .refl s
  · exact served_modDie s _ _

theorem served_filled (s : State) (d key off : Nat) (skip : Bool) (old : List Byte) : Served s (filled s d key off skip old) := by
  unfold filled
  split
  · exact .refl s
  · exact served_allocate_getD (.refl s)

theorem served_ite {s : State} {c : Prop} [Decidable c] {x y : HomeAns} (hx : Served s x.s) (hy : Served s y.s) :
    Served s (if c then x else y).s := by
  split
  · exact hx
  · exact hy

theorem served_applied (s : State) (al : Alloc) (q : HomeReq) (d key : Nat) : Served s (applied s al q d key).s := by
  unfold applied
  dsimp only
  cases q.kind with
  | readLine => exact (served_scopeNoted s q d key).trans (served_filled _ _ _ _ _ _)
  | readItem => exact .refl s
  | writeLine m data => exact served_ite (.refl s) (served_storedLine s _ _ _ _ _ _ _ _ _)
  | writeItem data => exact served_ite (.refl s) (served_storedLine s _ _ _ _ _ _ _ _ _)
  | atomic aop ret opd => exact served_ite (.refl s) ((served_scopeNoted s q d key).trans (served_storedLine _ _ _ _ _ _ _ _ _ _))

theorem served_homeApply (s : State) (al : Alloc) (q : HomeReq) : Served s (s.homeApply al q false).s := by
  cases hlost : (s.stk (place al (q.off / 64 * 64)).1).lost with
  | true =>
    have h : s.homeApply al q false = ⟨s, .refused 3 2 q.off, [], none⟩ := if_pos hlost
    rw [h]
    exact .refl s
  | false =>
    rw [homeApply_eq hlost]
    exact (served_chargedFor s _ _ _).trans (served_applied _ _ _ _ _)

theorem served_answer (s : State) (who : Who) (fin : ReqEnd) (data : List Byte) (crc : Option Nat) :
    Served s (s.answer_ who fin data crc) := by
  cases who with
  | tile t op r => exact served_modTile s _ _
  | remote _ _ => exact .refl s
  | core => exact .refl s
  | engine _ => exact .refl s

theorem served_serveReq (s : State) (q : HomeReq) : Served s (s.serveReq q false) := by
  unfold State.serveReq
  split
  · exact served_answer s _ _ _ _
  · exact (served_homeApply s _ q).trans (served_answer _ _ _ _ _)

theorem served_granted {s v : State} {d k : Nat} {ok : HomeReq → Bool} {r : HomeReq} (h : s.granted d k ok = some (r, v)) : Served s v := by
  unfold State.granted at h
  dsimp only at h
  split at h
  · cases h
  · obtain ⟨q, hq, hv⟩ := Option.map_eq_some_iff.mp h
    have hv2 := congrArg Prod.snd hv
    dsimp only at hv2
    rw [← hv2]
    exact (served_modDie s d _).trans (served_sampled (sampled_emit _ _ _ _ _ _ _ _ _))

theorem served_untilGrant (d k : Nat) (q : HomeReq) (n : Nat) : ∀ s : State, Served s (State.untilGrant n s d k q) := by
  induction n with
  | zero => exact .refl
  | succ n ih =>
    intro s
    unfold State.untilGrant
    split
    · exact .refl s
    next r v h =>
      split
      · exact served_granted h
      · exact ((served_granted h).trans (served_serveReq v r)).trans (ih _)

/-- Serving a request at its home, with those before it, leaves fabric and tile SRAM alone. -/
theorem served_homeDo (s : State) (al : Alloc) (q : HomeReq) : Served s (s.homeDo al q).s :=
  ((served_modDie s _ _).trans (served_untilGrant _ _ _ _ _)).trans (served_homeApply _ al _)

end Sys2Proof.Proofs.HomeFrame
end

section
/-! PROOFS. Requests of other nodes: O42. -/
namespace Sys2Proof.Proofs.FabricRequests

open Sys2Proof Sys2Proof.Machine Sys2Proof.Laws Sys2Proof.Safety Sys2Proof.Proofs.Packets Sys2Proof.Proofs.HomeFrame
  Sys2Proof.Proofs.TileRequests

section
variable {s : State} {k : Nat} {x : InPkt}

theorem serve_refuses {reason : Nat} (h : s.admitReq x.pkt = .inl reason) : s.serve k x = (s.takePkt k x).refusePkt x.pkt reason := by
  unfold State.serve
  dsimp only
  rw [h]

theorem land_refuses {reason : Nat} (h : s.admitReq x.pkt = .inl reason) : s.land k x = (s.takePkt k x).refusePkt x.pkt reason := by
  unfold State.land
  dsimp only
  rw [h]

theorem serve_waits {p : Nat} (h : s.admitReq x.pkt = .inr p) (hr : s.reachable p x.pkt.offset = false) : s.serve k x = s := by
  unfold State.serve
  dsimp only
  rw [h]
  exact if_pos (by rw [hr]; rfl)

theorem land_waits {p : Nat} (h : s.admitReq x.pkt = .inr p) (hr : s.reachable p x.pkt.offset = false) : s.land k x = s := by
  unfold State.land
  dsimp only
  rw [h]
  exact if_pos (by rw [hr]; rfl)

theorem serve_applies {p : Nat} (h : s.admitReq x.pkt = .inr p) (hr : s.reachable p x.pkt.offset = true) : s.serve k x =
    if ((s.takePkt k x).apply p x.pkt).2.1 then
      ((s.takePkt k x).apply p x.pkt).1.answerPkt x.pkt (respType x.pkt.ptype) 0 0 ((s.takePkt k x).apply p x.pkt).2.2
    else ((s.takePkt k x).apply p x.pkt).1.refusePkt x.pkt rsTargetFault := by
  unfold State.serve
  dsimp only
  rw [h]
  exact if_neg (by simp [hr])

/-- A refusal leaves the inbox without the packet and answers it (R304). -/
theorem refused (reason : Nat) : sameMemory s ((s.takePkt k x).refusePkt x.pkt reason) ∧
    replied s ((s.takePkt k x).refusePkt x.pkt reason) k (answerOf s x.pkt ptRefuse (reason % 256 * 256) []) := by
  refine ⟨((bytes_takePkt s k x).trans (bytes_refusePkt _ _ _)).sameMemory, ?_⟩
  have h := replied_answer (samePaths_takePkt s k x) (takePkt_inbox s k x) (out_takePkt s k x) x.pkt ptRefuse 0 reason []
  rw [Nat.zero_mod, Nat.zero_add] at h
  exact h

end

/-- The answer of a request that was let in, from a state that differs in no packet and no path. -/
theorem replied_good {s v : State} {k : Nat} {x : InPkt} (h : SamePaths s v) (hi : v.fabric.inbox = s.fabric.inbox.eraseIdx k)
    (ho : ∀ q, (v.port q).out = (s.port q).out) (ptype : Nat) (data : List Byte) :
    replied s (v.answerPkt x.pkt ptype 0 0 data) k (answerOf s x.pkt ptype 0 data) :=
  replied_answer h hi ho x.pkt ptype 0 0 data

theorem replied_fault {s v : State} {k : Nat} {x : InPkt} (h : SamePaths s v) (hi : v.fabric.inbox = s.fabric.inbox.eraseIdx k)
    (ho : ∀ q, (v.port q).out = (s.port q).out) (reason : Nat) :
    replied s (v.refusePkt x.pkt reason) k (answerOf s x.pkt ptRefuse (reason % 256 * 256) []) := by
  have hr := replied_answer h hi ho x.pkt ptRefuse 0 reason []
  rw [Nat.zero_mod, Nat.zero_add] at hr
  exact hr

/-- The commands that take a request from the inbox. -/
theorem exec_req {s : State} {k t : Nat} {i : Instr} {x : InPkt} (hi : (i, t) ∈ [(Instr.readReq k, ptRead), (.readItemReq k, ptReadItem),
    (.writeReq k, ptWrite), (.writeItemReq k, ptWriteItem), (.atomicReq k, ptAtomic)]) (h : Arrived s k x t) : exec i s =
        .next (s.serve k x) := by
  simp only [List.mem_cons, Prod.mk.injEq, List.not_mem_nil, or_false] at hi
  obtain ⟨rfl, rfl⟩ | ⟨rfl, rfl⟩ | ⟨rfl, rfl⟩ | ⟨rfl, rfl⟩ | ⟨rfl, rfl⟩ := hi
  all_goals exact congrArg Host.Outcome.next (onPacket_arrived h)

theorem exec_landReq {s : State} {k : Nat} {x : InPkt} (h : Arrived s k x ptLand) : exec (.landReq k) s = .next (s.land k x) :=
  congrArg Host.Outcome.next (onPacket_arrived h)

theorem exec_serves {s : State} {k t : Nat} {i : Instr} {x : InPkt} (hi : (i, t) ∈ [(Instr.readReq k, ptRead), (.readItemReq k, ptReadItem),
    (.writeReq k, ptWrite), (.writeItemReq k, ptWriteItem), (.atomicReq k, ptAtomic), (.landReq k, ptLand)]) (h : Arrived s k x t) :
    exec i s = .next (s.serve k x) ∨ exec i s = .next (s.land k x) := by
  by_cases hl : (i, t) = (Instr.landReq k, ptLand)
  · obtain ⟨rfl, rfl⟩ := Prod.mk.inj hl
    exact .inr (exec_landReq h)
  · refine .inl (exec_req ?_ h)
    simp only [List.mem_cons, List.not_mem_nil, or_false] at hi ⊢
    obtain hi | hi | hi | hi | hi | hi := hi
    · exact .inl hi
    · exact .inr (.inl hi)
    · exact .inr (.inr (.inl hi))
    · exact .inr (.inr (.inr (.inl hi)))
    · exact .inr (.inr (.inr (.inr hi)))
    · exact absurd hi hl

section
variable {s : State} {p : Nat} {q : Packet} (ht : isTileSram q.offset = true)
include ht

theorem apply_tileRead (hr : q.ptype = ptRead) (hb : s.sramBadIn (tileOfOff q.offset) (aOfOff q.offset) 64 = none) :
    s.apply p q = (s, true, s.sramRead (tileOfOff q.offset) (aOfOff q.offset) 64) := by
  unfold State.apply
  dsimp only
  rw [if_pos ht, if_pos hr, hb]

theorem apply_tileBad {b : Nat} (hr : q.ptype = ptRead) (hb : s.sramBadIn (tileOfOff q.offset) (aOfOff q.offset) 64 = some b) :
    s.apply p q = (s.postParity (tileOfOff q.offset) b rdPorter q.layer q.op, false, []) := by
  unfold State.apply
  dsimp only
  rw [if_pos ht, if_pos hr, hb]

theorem apply_tileWrite (hr : q.ptype = ptWrite) : s.apply p q =
    (s.sramMask (tileOfOff q.offset) (aOfOff q.offset) q.arg (q.data.take 64), true, []) :=
  (if_pos ht).trans (if_neg (by rw [hr]; decide))

end

theorem apply_home {s : State} {p : Nat} {q : Packet} {al : Alloc} (ht : isTileSram q.offset = false)
    (ha : s.allocAt p q.offset = some al) :
    s.apply p q =
      let a := s.homeDo al ⟨.remote q.src q.txn, q.offset, q.homeKind,
        if q.ptype = ptAtomic then 2 else if q.ptype = ptReadItem || q.ptype = ptWriteItem then 3 else 4, false, q.scope, false,
        q.layer, q.op, 0, 0, [], s.now⟩
      (a.s, a.fin == .ok, if q.ptype = ptAtomic && !bit q.arg 4 then [] else a.data) := by
  refine (if_neg (by simp [ht])).trans ?_
  rw [ha]

/-- Taking a packet changes the fabric alone. -/
theorem takePkt_only (s : State) (k : Nat) (x : InPkt) : ∃ f, s.takePkt k x = { s with fabric := f } := by
  unfold State.takePkt State.returnCredits
  split
  · exact ⟨_, rfl⟩
  · exact ⟨_, rfl⟩

/-- Sending a packet changes the fabric alone. -/
theorem inject_only (s : State) (p : Packet) : ∃ f, s.inject p = { s with fabric := f } := by
  unfold State.inject
  split
  · exact ⟨_, rfl⟩
  split
  · exact ⟨_, rfl⟩
  unfold State.queuePkt
  split
  · exact ⟨_, rfl⟩
  · exact ⟨_, rfl⟩

theorem answerPkt_only (s : State) (q : Packet) (ptype status reason : Nat) (data : List Byte) :
    ∃ f, s.answerPkt q ptype status reason data = { s with fabric := f } := inject_only s _

theorem refusePkt_only (s : State) (q : Packet) (reason : Nat) : ∃ f, s.refusePkt q reason = { s with fabric := f } := inject_only s _

/-- Settles O42. -/
theorem fabricRequestsServed : Obligations.FabricRequestsServed := by
  refine fun s k x => ⟨fun i t reason hi harr => ⟨fun had => ?_, fun p had hreach => ?_⟩, fun p had hreach =>
    ⟨fun t a hts ht ha hlen => ?_, fun al r i t hts hal hi harr hr => ?_⟩⟩
  · obtain hrun | hrun := exec_serves hi harr
    · exact ⟨_, hrun.trans (congrArg Host.Outcome.next (serve_refuses had)), refused reason⟩
    · exact ⟨_, hrun.trans (congrArg Host.Outcome.next (land_refuses had)), refused reason⟩
  · obtain hrun | hrun := exec_serves hi harr
    · exact hrun.trans (congrArg Host.Outcome.next (serve_waits had hreach))
    · exact hrun.trans (congrArg Host.Outcome.next (land_waits had hreach))
  · rw [ht, ha] at *
    clear ht ha
    have hrun := serve_applies (k := k) had hreach
    have hbytes := bytes_takePkt s k x
    have hbad : (s.takePkt k x).sramBadIn (tileOfOff x.pkt.offset) (aOfOff x.pkt.offset) 64 =
        s.sramBadIn (tileOfOff x.pkt.offset) (aOfOff x.pkt.offset) 64 := by
      obtain ⟨f, hf⟩ := takePkt_only s k x
      rw [hf]
      rfl
    refine ⟨fun harr hb => ?_, fun harr hb => ?_, fun harr hw hd => ?_⟩
    · rw [apply_tileRead hts harr.type (hbad.trans hb), PorterAnswer.sramRead_congr hbytes.sram] at hrun
      refine ⟨_, (exec_req (t := ptRead) (by simp) harr).trans (congrArg Host.Outcome.next hrun),
          (hbytes.trans (bytes_answerPkt _ _ _ _ _ _)).sameMemory, ?_⟩
      rw [harr.type]
      exact replied_good (samePaths_takePkt s k x) (takePkt_inbox s k x) (out_takePkt s k x) ptReadRsp _
    · cases hb' : s.sramBadIn (tileOfOff x.pkt.offset) (aOfOff x.pkt.offset) 64 with
      | none => exact absurd hb' hb
      | some b =>
        rw [apply_tileBad hts harr.type (hbad.trans hb')] at hrun
        have hs := sampled_post (s.takePkt k x) ((s.takePkt k x).partOfTile (tileOfOff x.pkt.offset)) 0x0009 (tileOfOff x.pkt.offset)
          x.pkt.layer x.pkt.op (b % 2 ^ 21 + rdPorter * 2 ^ 21)
        refine ⟨_, (exec_req (t := ptRead) (by simp) harr).trans (congrArg Host.Outcome.next hrun),
          ((hbytes.trans (bytes_post _ _ _ _ _ _ _)).trans (bytes_refusePkt _ _ _)).sameMemory, ?_⟩
        exact replied_fault ((samePaths_takePkt s k x).trans (samePaths_sampled hs))
          ((congrArg Fabric.inbox (served_sampled hs).fabric).trans (takePkt_inbox s k x))
          (fun q => (congrArg (fun f : Fabric => (f.ports.getD q Port.init).out) (served_sampled hs).fabric).trans
              (out_takePkt s k x q)) rsTargetFault
    · rw [apply_tileWrite hts harr.type] at hrun
      have hfirst : x.pkt.data.take 64 = x.pkt.data := by rw [← hd, List.take_length]
      rw [hfirst] at hrun
      obtain ⟨f, hf⟩ := takePkt_only s k x
      obtain ⟨g, hg⟩ := answerPkt_only ((s.takePkt k x).sramMask (tileOfOff x.pkt.offset) (aOfOff x.pkt.offset) x.pkt.arg x.pkt.data) x.pkt
        (respType x.pkt.ptype) 0 0 []
      have hmask : ((s.takePkt k x).sramMask (tileOfOff x.pkt.offset) (aOfOff x.pkt.offset) x.pkt.arg x.pkt.data).sram =
          (s.sramMask (tileOfOff x.pkt.offset) (aOfOff x.pkt.offset) x.pkt.arg x.pkt.data).sram := by
        rw [hf]
        rfl
      have hread := PorterAnswer.sramRead_congr ((congrArg State.sram hg).trans hmask) (tileOfOff x.pkt.offset)
      obtain ⟨h1, h2⟩ := sramRead_sramMask (m := x.pkt.arg) (t := tileOfOff x.pkt.offset) hw hd hlen
      have hpaths : SamePaths (s.takePkt k x)
          ((s.takePkt k x).sramMask (tileOfOff x.pkt.offset) (aOfOff x.pkt.offset) x.pkt.arg x.pkt.data) :=
              ⟨rfl, rfl, rfl, rfl, rfl, fun _ => rfl⟩
      refine ⟨_, (exec_req (t := ptWrite) (by simp) harr).trans (congrArg Host.Outcome.next hrun), fun i hi => ?_,
        fun b hb hout => (hread _ _).trans (h2 b hb hout), (congrArg State.hbm hg).trans hbytes.hbm, ?_⟩
      · rw [bit, Nat.testBit_eq_decide_div_mod_eq]
        simpa using (hread _ _).trans (h1 i hi)
      rw [harr.type]
      exact replied_good ((samePaths_takePkt s k x).trans hpaths) (takePkt_inbox s k x) (out_takePkt s k x) ptWriteAck []
  · have hrun := (exec_req hi harr).trans (congrArg Host.Outcome.next (serve_applies had hreach))
    obtain ⟨f, hf⟩ := takePkt_only s k x
    have hal' : (s.takePkt k x).allocAt p x.pkt.offset = some al := by
      rw [hf]
      exact hal
    rw [apply_home hts hal', harr.type] at hrun
    have hnow : (s.takePkt k x).now = s.now := (samePaths_takePkt s k x).now
    simp only [Bool.or_eq_true, decide_eq_true_eq, Bool.and_eq_true, Bool.not_eq_true', hnow, ← hr] at hrun
    have hserved : Served (s.takePkt k x) r.s := hr ▸ served_homeDo _ al _
    have hpaths := (samePaths_takePkt s k x).trans hserved.paths
    have hinbox : r.s.fabric.inbox = s.fabric.inbox.eraseIdx k := (congrArg Fabric.inbox hserved.fabric).trans (takePkt_inbox s k x)
    have hout : ∀ q, (r.s.port q).out = (s.port q).out := fun q =>
      (congrArg (fun f : Fabric => (f.ports.getD q Port.init).out) hserved.fabric).trans (out_takePkt s k x q)
    have hsram := hserved.sram.trans (bytes_takePkt s k x).sram
    by_cases hok : r.fin = .ok
    · rw [if_pos (by rw [hok]; rfl)] at hrun
      obtain ⟨g, hg⟩ := answerPkt_only r.s x.pkt (respType t) 0 0 (if t = ptAtomic ∧ bit x.pkt.arg 4 = false then [] else r.data)
      refine ⟨_, hrun, fun d key => ?_, (congrArg State.sram hg).trans hsram, fun _ => replied_good hpaths hinbox hout _ _, fun h =>
          absurd hok h⟩
      rw [hg]
      rfl
    · rw [if_neg (by simpa using hok)] at hrun
      obtain ⟨g, hg⟩ := refusePkt_only r.s x.pkt rsTargetFault
      refine ⟨_, hrun, fun d key => ?_, (congrArg State.sram hg).trans hsram, fun h => absurd h hok, fun _ =>
          replied_fault hpaths hinbox hout _⟩
      rw [hg]
      rfl

end Sys2Proof.Proofs.FabricRequests
end

section
/-! PROOFS. Landing flags of other nodes: O43. -/
namespace Sys2Proof.Proofs.RemoteFlags

open Sys2Proof Sys2Proof.Machine Sys2Proof.Laws Sys2Proof.Safety Sys2Proof.Proofs.VectorResult Sys2Proof.Proofs.Packets
  Sys2Proof.Proofs.HomeFrame Sys2Proof.Proofs.FabricRequests Sys2Proof.Proofs.TileRequests

/-- Nothing changes but the fabric and what the dies hold. -/
def Passed (s v : State) : Prop := ∃ f ds, v = { s with fabric := f, dies := ds }

theorem Passed.refl (s : State) : Passed s s := ⟨_, _, rfl⟩

theorem Passed.trans {s v w : State} (h : Passed s v) (k : Passed v w) : Passed s w := by
  obtain ⟨_, _, rfl⟩ := h
  obtain ⟨_, _, rfl⟩ := k
  exact ⟨_, _, rfl⟩

theorem Passed.bytes {s v : State} (h : Passed s v) : SameBytes s v := by
  obtain ⟨_, _, rfl⟩ := h
  exact ⟨rfl, rfl, rfl, rfl⟩

theorem Passed.now {s v : State} (h : Passed s v) : v.now = s.now := by
  obtain ⟨_, _, rfl⟩ := h
  rfl

theorem passed_takePkt (s : State) (k : Nat) (x : InPkt) : Passed s (s.takePkt k x) := by
  obtain ⟨f, hf⟩ := takePkt_only s k x
  exact ⟨f, _, hf⟩

theorem passed_modDie (s : State) (d : Nat) (f : Die → Die) : Passed s (s.modDie d f) := ⟨_, _, rfl⟩

theorem tellFlag_only (s : State) (fl : FlagLine) (ptype status reason : Nat) :
    ∃ f, s.tellFlag fl ptype status reason = { s with fabric := f } := by
  unfold State.tellFlag
  split
  · exact inject_only s _
  all_goals exact ⟨_, rfl⟩

theorem bytes_tellFlag (s : State) (fl : FlagLine) (ptype status reason : Nat) : SameBytes s (s.tellFlag fl ptype status reason) := by
  obtain ⟨f, hf⟩ := tellFlag_only s fl ptype status reason
  rw [hf]
  exact ⟨rfl, rfl, rfl, rfl⟩

theorem returnCredits_only (s : State) (port vc cls n : Nat) : ∃ f, s.returnCredits port vc cls n = { s with fabric := f } := by
  unfold State.returnCredits
  split
  · exact ⟨_, rfl⟩
  · exact ⟨_, rfl⟩

theorem inbox_tellFlag (s : State) (fl : FlagLine) (ptype status reason : Nat) :
    ∃ l, (s.tellFlag fl ptype status reason).fabric.inbox = s.fabric.inbox ++ l := by
  unfold State.tellFlag
  split
  · exact ⟨_, inbox_inject s _⟩
  all_goals exact ⟨[], (List.append_nil _).symm⟩

theorem inbox_returnCredits (s : State) (port vc cls n : Nat) : (s.returnCredits port vc cls n).fabric.inbox = s.fabric.inbox := by
  unfold State.returnCredits
  split
  · rfl
  · rfl

/-! The flag buffer of a die (R306). -/

/-- A waiting flag that is held from now on. -/
def heldNow (now : Nat) (fl : FlagLine) : FlagLine := { fl with owe := none, since := now }

section
variable {s : State} {d : Nat}

theorem flagGrant_none (h : (s.die d).flagWait = [] ∨ 1024 ≤ (s.die d).flags.length) : s.flagGrant d = s := by
  unfold State.flagGrant
  dsimp only
  cases hw : (s.die d).flagWait with
  | nil => rfl
  | cons fl r =>
    obtain h | h := h
    · exact nomatch hw.symm.trans h
    · exact if_pos h

theorem flagGrant_takes {fl : FlagLine} {r : List FlagLine} (hw : (s.die d).flagWait = fl :: r) (h : (s.die d).flags.length < 1024) :
    ∃ f, s.flagGrant d = { s.modDie d fun e => { e with flags := e.flags ++ [heldNow s.now fl], flagWait := r } with fabric := f } := by
  unfold State.flagGrant
  dsimp only
  rw [hw]
  dsimp only
  rw [if_neg (Nat.not_le.mpr h)]
  split
  next port cls ho =>
    obtain ⟨f, hf⟩ := returnCredits_only (s.modDie d fun e => { e with flags := e.flags ++ [heldNow s.now fl], flagWait := r }) port 2 cls 6
    obtain ⟨g, hg⟩ := tellFlag_only ((s.modDie d fun e => { e with flags := e.flags ++ [heldNow s.now fl], flagWait := r }).returnCredits
      port 2 cls 6) fl ptLandHeld 0 0
    rw [hf] at hg
    exact ⟨g, (congrArg (fun v : State => v.tellFlag fl ptLandHeld 0 0) hf).trans hg⟩
  next => exact ⟨_, rfl⟩

theorem passed_flagGrant (s : State) (d : Nat) : Passed s (s.flagGrant d) := by
  cases hw : (s.die d).flagWait with
  | nil =>
    rw [flagGrant_none (.inl hw)]
    exact .refl s
  | cons fl r =>
    by_cases hf : 1024 ≤ (s.die d).flags.length
    · rw [flagGrant_none (.inr hf)]
      exact .refl s
    · obtain ⟨f, h⟩ := flagGrant_takes hw (Nat.not_le.mp hf)
      rw [h]
      exact ⟨_, _, rfl⟩

end

/-- The inbox after a grant: packets of this node to itself may come behind. -/
theorem inbox_flagGrant (s : State) (d : Nat) : ∃ l, (s.flagGrant d).fabric.inbox = s.fabric.inbox ++ l := by
  unfold State.flagGrant
  dsimp only
  split
  · exact ⟨[], (List.append_nil _).symm⟩
  split
  · exact ⟨[], (List.append_nil _).symm⟩
  split
  · obtain ⟨l, hl⟩ := inbox_tellFlag ((s.modDie d _).returnCredits _ 2 _ 6) _ ptLandHeld 0 0
    rw [inbox_returnCredits] at hl
    exact ⟨l, hl⟩
  · exact ⟨[], (List.append_nil _).symm⟩

/-- The die after its grants so far, from a state with n entries' worth of turns left. -/
theorem flags_grants {d : Nat} : ∀ (n : List Nat) {s : State}, d < s.dies.length →
    ((n.foldl (fun s _ => s.flagGrant d) s).die d).flags = (s.die d).flags ++
      ((s.die d).flagWait.take (min n.length (1024 - (s.die d).flags.length))).map (heldNow s.now) ∧
    ((n.foldl (fun s _ => s.flagGrant d) s).die d).flagWait =
      (s.die d).flagWait.drop (min n.length (1024 - (s.die d).flags.length))
  | [], s, _ => by simp
  | a :: n, s, hd => by
    rw [List.foldl_cons]
    by_cases hnone : (s.die d).flagWait = [] ∨ 1024 ≤ (s.die d).flags.length
    · obtain ⟨h1, h2⟩ := flags_grants n hd
      rw [flagGrant_none hnone, h1, h2]
      obtain h | h := hnone
      · simp [h]
      · simp [Nat.sub_eq_zero_of_le h]
    obtain ⟨hne, hlt⟩ := not_or.mp hnone
    obtain ⟨fl, r, hw⟩ := List.exists_cons_of_ne_nil hne
    have hlt' := Nat.not_le.mp hlt
    obtain ⟨f, hf⟩ := flagGrant_takes hw hlt'
    have hdie : (s.flagGrant d).die d = { s.die d with flags := (s.die d).flags ++ [heldNow s.now fl], flagWait := r } := by
      rw [hf]
      exact die_modDie _ hd
    have hlen : d < (s.flagGrant d).dies.length := by
      rw [hf]
      simpa [State.modDie, modAt] using hd
    obtain ⟨h1, h2⟩ := flags_grants n hlen
    have hmin : min (n.length + 1) (1024 - (s.die d).flags.length) = min n.length (1024 - ((s.die d).flags.length + 1)) + 1 := by omega
    rw [h1, h2, hdie, (passed_flagGrant s d).now, hw]
    dsimp only
    rw [List.length_append, List.length_singleton, List.length_cons, hmin, List.take_succ_cons, List.map_cons, List.drop_succ_cons,
      List.append_assoc]
    exact ⟨rfl, rfl⟩

theorem passed_flagFill (s : State) (d : Nat) : Passed s (s.flagFill d) := by
  have h : ∀ (l : List Nat) (s : State), Passed s (l.foldl (fun s _ => s.flagGrant d) s) := fun l => by
    induction l with
    | nil => exact .refl
    | cons a l ih => exact fun s => (passed_flagGrant s d).trans (ih _)
  exact h _ s

theorem inbox_flagFill (s : State) (d : Nat) : ∃ l, (s.flagFill d).fabric.inbox = s.fabric.inbox ++ l := by
  have h : ∀ (l : List Nat) (s : State), ∃ m, (l.foldl (fun s _ => s.flagGrant d) s).fabric.inbox = s.fabric.inbox ++ m := fun l => by
    induction l with
    | nil => exact fun s => ⟨[], (List.append_nil _).symm⟩
    | cons a l ih =>
      intro s
      obtain ⟨m, hm⟩ := inbox_flagGrant s d
      obtain ⟨m', hm'⟩ := ih (s.flagGrant d)
      exact ⟨m ++ m', by rw [List.foldl_cons, hm', hm, List.append_assoc]⟩
  exact h _ s

/-- Dropping a held flag frees its entry for the one that has waited longest. -/
theorem freed_dropFlag {s : State} {d : Nat} (fl : FlagLine) (hd : d < s.dies.length) : freed s (s.dropFlag d fl) d fl := by
  have hdie := die_modDie (fun e : Die => { e with flags := e.flags.erase fl }) hd
  have hlen : d < (s.modDie d fun e => { e with flags := e.flags.erase fl }).dies.length := by simpa [State.modDie, modAt] using hd
  obtain ⟨h1, h2⟩ := flags_grants (List.range ((s.modDie d fun e => { e with flags := e.flags.erase fl }).die d).flagWait.length) hlen
  rw [hdie, List.length_range] at h1 h2
  have htake : (s.die d).flagWait.take (min (s.die d).flagWait.length (1024 - ((s.die d).flags.erase fl).length)) =
      (s.die d).flagWait.take (1024 - ((s.die d).flags.erase fl).length) := by
    rw [List.take_eq_take_iff]
    omega
  have hdrop : (s.die d).flagWait.drop (min (s.die d).flagWait.length (1024 - ((s.die d).flags.erase fl).length)) =
      (s.die d).flagWait.drop (1024 - ((s.die d).flags.erase fl).length) := by
    rw [List.drop_eq_drop_iff]
    omega
  unfold freed
  dsimp only at h1 h2 ⊢
  rw [htake] at h1
  rw [hdrop] at h2
  unfold State.dropFlag State.flagFill
  rw [hdie]
  exact ⟨h1, h2⟩

theorem passed_dropFlag (s : State) (d : Nat) (fl : FlagLine) : Passed s (s.dropFlag d fl) :=
  (passed_modDie s d _).trans (passed_flagFill _ d)

theorem inbox_dropFlag (s : State) (d : Nat) (fl : FlagLine) : ∃ l, (s.dropFlag d fl).fabric.inbox = s.fabric.inbox ++ l :=
  inbox_flagFill (s.modDie d _) d

/-- A flag freed after other changes to the fabric. -/
theorem freed_of_dies {s v w : State} {d : Nat} {fl : FlagLine} (hs : v.dies = s.dies) (hn : v.now = s.now) (h : freed v w d fl) :
    freed s w d fl := by
  have hd : v.die d = s.die d := congrArg (fun l : List Die => l.getD d Die.init) hs
  unfold freed at h ⊢
  rw [hd, hn] at h
  exact h

/-! Landing (R305). -/

theorem admitReq_tile {s : State} {q : Packet} {p : Nat} (h : s.admitReq q = .inr p) (ht : isTileSram q.offset = true) :
    (s.region (tileOfOff q.offset / 12)).fenced = false := by
  unfold State.admitReq at h
  dsimp only at h
  split at h
  · cases h
  rw [ht, if_pos rfl] at h
  split at h
  · cases h
  split at h
  · cases h
  split at h
  · cases h
  split at h
  · cases h
  split at h
  · cases h
  next hf => exact Bool.eq_false_iff.mpr hf

/-- What a flag line landed at a tile leaves. -/
theorem landFlag_landed {s : State} {fl : FlagLine} (h : isTileSram fl.off = true) (hf : (s.region (tileOfOff fl.off / 12)).fenced = false)
    (hv : (s.tile (tileOfOff fl.off)).tokens.getD fl.ttok 0 + fl.tcnt ≤ 65535) :
    ∃ ts, s.landFlag fl = ⟨{ s.sramWrite (tileOfOff fl.off) (aOfOff fl.off) fl.data with tiles := ts }, .ok, [], none⟩ := by
  rw [landFlag_tile h hf]
  split
  · exact ⟨_, rfl⟩
  · exact ⟨_, congrArg (fun v => (⟨v, .ok, [], none⟩ : HomeAns))
      (Signals.addToken_within (s := s.sramWrite (tileOfOff fl.off) (aOfOff fl.off) fl.data) hv)⟩

theorem landRemote_tile {s : State} {fl : FlagLine} (h : isTileSram fl.off = true) (ho : (s.landFlag fl).fin = .ok) :
    s.landRemote fl = ((s.landFlag fl).s.tellFlag fl ptLandAck 0 0).pump (tileOfOff fl.off) :=
  (if_pos ho).trans (if_pos h)

theorem landRemote_home {s : State} {fl : FlagLine} (h : isTileSram fl.off = false) (ho : (s.landFlag fl).fin = .ok) :
    s.landRemote fl = (s.landFlag fl).s.tellFlag fl ptLandAck 0 0 :=
  (if_pos ho).trans (if_neg (by simp [h]))

theorem landRemote_failed {s : State} {fl : FlagLine} (ho : (s.landFlag fl).fin ≠ .ok) :
    s.landRemote fl = (s.landFlag fl).s.tellFlag fl ptRefuse 0 rsTargetFault := if_neg ho

theorem landFlag_home {s : State} {fl : FlagLine} {al : Alloc} (h : isTileSram fl.off = false) (ha : s.allocAt fl.part fl.off = some al) :
    s.landFlag fl = s.homeDo al ⟨fl.who, fl.off, .writeLine (2 ^ 64 - 1) fl.data, 4, false, fl.scope, false, fl.layer, fl.op,
      fl.strandId, fl.seqTag, [], s.now⟩ := by
  refine (if_neg (by simp [h])).trans ?_
  rw [ha]

/-- However a flag ends at its home, what follows is a packet of this node. -/
theorem landRemote_home_only {s : State} {fl : FlagLine} (h : isTileSram fl.off = false) : ∃ f ptype st reason,
    s.landRemote fl = { (s.landFlag fl).s with fabric := f } ∧ s.landRemote fl = (s.landFlag fl).s.tellFlag fl ptype st reason := by
  by_cases ho : (s.landFlag fl).fin = .ok
  · rw [landRemote_home h ho]
    obtain ⟨f, hf⟩ := tellFlag_only (s.landFlag fl).s fl ptLandAck 0 0
    exact ⟨f, _, _, _, hf, rfl⟩
  · rw [landRemote_failed ho]
    obtain ⟨f, hf⟩ := tellFlag_only (s.landFlag fl).s fl ptRefuse 0 rsTargetFault
    exact ⟨f, _, _, _, hf, rfl⟩

/-- The packet about a flag line of a request goes to the requester. -/
theorem replied_tellFlag {s v : State} {k : Nat} {q : Packet} {p now : Nat} {waits : Bool} {owe : Option (Nat × Nat)} (h : SamePaths s v)
    (hp : v.parts = s.parts) (ht : taken s v k) (ho : ∀ j, (v.port j).out = (s.port j).out) (ptype : Nat) :
    replied s (v.tellFlag (q.flagLine p now waits owe) ptype 0 0) k (flagPkt s q p ptype 0) := by
  have hj : v.jobOf p = s.jobOf p := congrArg (fun l : List Part => (l.getD p Part.init).join.map fun j : Join => j.job) hp
  have hm := h.mkPkt
  have hpkt : flagPkt s q p ptype 0 = v.mkPkt ptype 1 q.src q.offset 1 ((v.jobOf p).getD 0) q.txn q.layer q.op 0 q.scope [] := by
    unfold flagPkt
    rw [hm, hj]
  rw [hpkt]
  exact replied_inject h ht ho

section
variable {s : State} {k p : Nat} {x : InPkt} (had : s.admitReq x.pkt = .inr p) (hr : s.reachable p x.pkt.offset = true)
include had hr

theorem land_now (h8 : bit x.pkt.arg 8 = false) : s.land k x = (s.takePkt k x).landRemote (x.pkt.flagLine p s.now false none) := by
  unfold State.land
  dsimp only
  rw [had]
  exact (if_neg (by simp [hr])).trans (if_pos (by simp [h8]))

theorem land_held (h8 : bit x.pkt.arg 8 = true) (hw : (s.die (s.dieOfOff p x.pkt.offset)).flagWait = [])
    (hl : (s.die (s.dieOfOff p x.pkt.offset)).flags.length < 1024) : s.land k x =
      ((s.takePkt k x).modDie (s.dieOfOff p x.pkt.offset) fun e =>
          { e with flags := e.flags ++ [x.pkt.flagLine p s.now true none] }).tellFlag
        (x.pkt.flagLine p s.now true none) ptLandHeld 0 0 := by
  unfold State.land
  dsimp only
  rw [had]
  exact (if_neg (by simp [hr])).trans ((if_neg (by simp [h8])).trans (if_pos (by simp [hw, hl])))

theorem land_queues (h8 : bit x.pkt.arg 8 = true) (hf : (s.die (s.dieOfOff p x.pkt.offset)).flagWait ≠ [] ∨
      1024 ≤ (s.die (s.dieOfOff p x.pkt.offset)).flags.length) : s.land k x =
    (s.modFab fun f => { f with inbox := f.inbox.eraseIdx k }).modDie (s.dieOfOff p x.pkt.offset) fun e =>
      { e with flagWait := e.flagWait ++ [x.pkt.flagLine p s.now true (some (x.port, x.pkt.dclass))] } := by
  unfold State.land
  dsimp only
  rw [had]
  refine (if_neg (by simp [hr])).trans ((if_neg (by simp [h8])).trans (if_neg ?_))
  rw [Bool.and_eq_true, List.isEmpty_iff, decide_eq_true_eq]
  rintro ⟨h1, h2⟩
  obtain h | h := hf
  · exact h h1
  · exact absurd h2 (Nat.not_lt.mpr h)

end

/-! LAND_GO, LAND_CANCEL and the end of the timeouts. -/

section
variable {s : State} {k d : Nat} {x : InPkt} {fl : FlagLine}

theorem execLandGo_waits (h : Arrived s k x ptLandGo) (hh : s.heldFlag x.pkt.src x.pkt.txn = some (d, fl))
    (hr : s.flagPlaceReady fl = false) : execLandGo k s = .next s := by
  refine congrArg Host.Outcome.next ((onPacket_arrived h).trans ?_)
  dsimp only
  rw [hh]
  exact if_neg (by rw [hr]; exact Bool.false_ne_true)

theorem execLandGo_lands (h : Arrived s k x ptLandGo) (hh : s.heldFlag x.pkt.src x.pkt.txn = some (d, fl))
    (hr : s.flagPlaceReady fl = true) : execLandGo k s = .next (((s.takePkt k x).dropFlag d fl).landRemote fl) := by
  refine congrArg Host.Outcome.next ((onPacket_arrived h).trans ?_)
  dsimp only
  rw [hh]
  exact if_pos hr

theorem execLandCancel_drops (h : Arrived s k x ptLandCancel) (hh : s.heldFlag x.pkt.src x.pkt.txn = some (d, fl)) :
    execLandCancel k s = .next (((s.takePkt k x).dropFlag d fl).tellFlag fl ptLandAck flagCancelled 0) := by
  refine congrArg Host.Outcome.next ((onPacket_arrived h).trans ?_)
  dsimp only
  rw [hh]

theorem exec_unheld {i : Instr} {t : Nat} (hi : (i, t) ∈ [(Instr.landGo k, ptLandGo), (.landCancel k, ptLandCancel)]) (h : Arrived s k x t)
    (hh : s.heldFlag x.pkt.src x.pkt.txn = none) : exec i s = .next (s.takePkt k x).countDiscard := by
  simp only [List.mem_cons, Prod.mk.injEq, List.not_mem_nil, or_false] at hi
  obtain ⟨rfl, rfl⟩ | ⟨rfl, rfl⟩ := hi
  · refine congrArg Host.Outcome.next ((onPacket_arrived h).trans ?_)
    dsimp only
    rw [hh]
  · refine congrArg Host.Outcome.next ((onPacket_arrived h).trans ?_)
    dsimp only
    rw [hh]

theorem execFlagExpiry_stays {j : Nat} (hd : d < 4) (hj : (s.die d).flags[j]? = some fl)
    (h : fl.waits = false ∨ s.timersStopped fl.part = true ∨ s.now < fl.since + 4 * s.fabTimeoutNs fl.part) :
    execFlagExpiry d j s = .next s := by
  refine (if_pos (decide_eq_true hd)).trans (congrArg Host.Outcome.next ?_)
  dsimp only
  rw [hj]
  refine if_pos ?_
  obtain h | h | h := h
  · simp [h]
  · simp [h]
  · simp [h]

/-- The node a flag of another node came from. -/
def flagNode (fl : FlagLine) : Nat := match fl.who with | .remote n _ => n | .tile _ _ _ => 0 | .core => 0 | .engine _ => 0

theorem execFlagExpiry_drops {j : Nat} (hd : d < 4) (hj : (s.die d).flags[j]? = some fl) (hw : fl.waits = true)
    (ht : s.timersStopped fl.part = false) (hs : fl.since + 4 * s.fabTimeoutNs fl.part ≤ s.now) :
    execFlagExpiry d j s = .next ((((s.dropFlag d fl).post (some fl.part) 0x0016 (flagNode fl) fl.layer fl.op fl.off).log 0x000D fl.part
      [flagNode fl, fl.off]).tellFlag fl ptLandAck flagExpired 0) := by
  refine (if_pos (decide_eq_true hd)).trans (congrArg Host.Outcome.next ?_)
  dsimp only
  rw [hj]
  refine (if_neg ?_).trans rfl
  rw [hw, ht]
  simpa using hs

end

/-- Posting and logging leave the dies alone. -/
theorem dies_post (s : State) (p : Option Nat) (e src layer op detail : Nat) : (s.post p e src layer op detail).dies = s.dies := by
  unfold State.post State.postPage
  cases p with
  | none =>
    dsimp only
    split
    · rfl
    · rfl
  | some p =>
    dsimp only
    split
    · rfl
    · rfl

theorem dies_log (s : State) (rtype part : Nat) (payload : List Nat) : (s.log rtype part payload).dies = s.dies := rfl

/-- A flag stays freed whatever leaves the dies alone. -/
theorem Freed.of_dies {s v w : State} {d : Nat} {fl : FlagLine} (h : freed s v d fl) (hd : w.dies = v.dies) : freed s w d fl := by
  have hw : w.die d = v.die d := congrArg (fun l : List Die => l.getD d Die.init) hd
  unfold freed at h ⊢
  rw [hw]
  exact h

/-- A held flag of another node taken out, with the packet that asked for it. -/
theorem taken_dropFlag {s : State} {k d : Nat} {x : InPkt} (fl : FlagLine) (hd : d < s.dies.length) :
    Passed s ((s.takePkt k x).dropFlag d fl) ∧ tookPkt s ((s.takePkt k x).dropFlag d fl) k ∧ freed s ((s.takePkt k x).dropFlag d fl)
        d fl := by
  obtain ⟨f, hf⟩ := takePkt_only s k x
  have hdies : (s.takePkt k x).dies = s.dies := by rw [hf]
  obtain ⟨l, hl⟩ := inbox_dropFlag (s.takePkt k x) d fl
  have hin : (s.takePkt k x).fabric.inbox = s.fabric.inbox.eraseIdx k := takePkt_inbox s k x
  rw [hin] at hl
  exact ⟨(passed_takePkt s k x).trans (passed_dropFlag _ d fl), ⟨l, hl⟩, freed_of_dies hdies (passed_takePkt s k x).now
    (freed_dropFlag fl (by rw [hdies]; exact hd))⟩

theorem tookPkt_tellFlag {s v : State} {k : Nat} (h : tookPkt s v k) (fl : FlagLine) (ptype st reason : Nat) :
    tookPkt s (v.tellFlag fl ptype st reason) k := by
  obtain ⟨l, hl⟩ := h
  obtain ⟨m, hm⟩ := inbox_tellFlag v fl ptype st reason
  exact ⟨l ++ m, by rw [hm, hl, List.append_assoc]⟩

/-- A flag line landed at a tile and told of: its bytes stand there and no others have changed, and its tokens are in. -/
theorem landed_tile {s s' : State} {fl : FlagLine} {t : Nat} (hs : Passed s s') (ht' : t = tileOfOff fl.off) (h : isTileSram fl.off = true)
    (hf : (s.region (t / 12)).fenced = false)
    (hw : Safety.Memory.wf s = true) (hd : fl.data.length = 64) (ha : aOfOff fl.off + 64 ≤ 2 ^ 21) (ht : t < s.tiles.length)
    (hv : (s.tile t).tokens.getD fl.ttok 0 + fl.tcnt ≤ 65535) :
    ∃ v w : State, s'.landFlag fl = ⟨w, .ok, [], none⟩ ∧ SamePaths s' w ∧ w.fabric = s'.fabric ∧ w.dies = s'.dies ∧ w.parts = s'.parts ∧
      w.now = s'.now ∧
      v = w.tellFlag fl ptLandAck 0 0 ∧ s'.landRemote fl = v.pump t ∧
      v.sramRead t (aOfOff fl.off) 64 = fl.data ∧
      (∀ b, b < 2 ^ 21 → b < aOfOff fl.off ∨ aOfOff fl.off + 64 ≤ b → v.sramRead t b 1 = s.sramRead t b 1) ∧
      (fl.tcnt ≠ 0 → (v.tile t).tokens = (s.tile t).tokens.set fl.ttok ((s.tile t).tokens.getD fl.ttok 0 + fl.tcnt)) := by
  obtain ⟨f, ds, rfl⟩ := hs
  rw [ht'] at hf ht hv ⊢
  obtain ⟨ts, hl⟩ := landFlag_landed (s := { s with fabric := f, dies := ds }) h hf hv
  obtain ⟨hok, hread, htok, -⟩ := landFlag_lands (s := { s with fabric := f, dies := ds }) h hf (wf_of_same hw rfl rfl rfl rfl) hd ha ht hv
  have hout := (sramRead_store (t := tileOfOff fl.off) (a := aOfOff fl.off) (bs := fl.data) hw (by rw [hd]; exact ha)).2
  rw [hd] at hout
  have hrun := landRemote_tile h hok
  generalize hw' : ({ State.sramWrite { s with fabric := f, dies := ds } (tileOfOff fl.off) (aOfOff fl.off) fl.data with tiles := ts
      } : State) = w at hl
  obtain ⟨g, hg⟩ := tellFlag_only w fl ptLandAck 0 0
  have hsram : (w.tellFlag fl ptLandAck 0 0).sram = w.sram := by rw [hg]
  have htile : (w.tellFlag fl ptLandAck 0 0).tile (tileOfOff fl.off) = w.tile (tileOfOff fl.off) := by
    rw [hg]
    rfl
  rw [hl] at hread htok hrun
  have hwsram : w.sram = (s.sramWrite (tileOfOff fl.off) (aOfOff fl.off) fl.data).sram := by
    rw [← hw']
    rfl
  refine ⟨_, w, hl, ?_, ?_, ?_, ?_, ?_, rfl, hrun, (PorterAnswer.sramRead_congr hsram _ _ _).trans hread, fun b hb hout' => ?_,
      fun h0 => ?_⟩
  · rw [← hw']
    exact ⟨rfl, rfl, rfl, rfl, rfl, fun _ => rfl⟩
  · rw [← hw']
    rfl
  · rw [← hw']
    rfl
  · rw [← hw']
    rfl
  · rw [← hw']
    rfl
  · exact (PorterAnswer.sramRead_congr (hsram.trans hwsram) _ _ _).trans (hout b hb hout')
  · rw [htile]
    exact htok.trans (if_neg h0)

/-- Settles O43. -/
theorem remoteFlagsLand : Obligations.RemoteFlagsLand := by
  refine ⟨fun s k p x harr had hr => ⟨?_, ?_, ?_⟩, fun s k d x fl hh hd => ⟨fun harr hready => execLandGo_waits harr hh hready, ?_,
      ?_, fun harr => ?_⟩,
    fun s k x i t hi harr hh => ?_, fun s d hd hlen => ⟨fun j fl hj => ⟨execFlagExpiry_stays hd hj, fun hw ht hs => ?_⟩, fun h => ?_, ?_⟩⟩
  · intro t a hts ht ha h8 hw hd hlen htl hv
    rw [ha] at *
    have hf : (s.region (t / 12)).fenced = false := ht ▸ admitReq_tile had hts
    have hdata : (x.pkt.flagLine p s.now false none).data = x.pkt.data := List.take_of_length_le (Nat.le_of_eq hd)
    obtain ⟨v, w, -, hpaths, hfab, -, hparts, -, hvw, hrun, hread, hout, htok⟩ := landed_tile (fl := x.pkt.flagLine p s.now false none)
      (passed_takePkt s k x) ht hts hf hw (by rw [hdata]; exact hd) hlen htl hv
    refine ⟨v, (exec_landReq harr).trans (congrArg Host.Outcome.next ((land_now had hr h8).trans hrun)), hread.trans hdata, hout, htok, ?_⟩
    obtain ⟨f, hf⟩ := takePkt_only s k x
    rw [hvw]
    exact replied_tellFlag ((samePaths_takePkt s k x).trans hpaths) (hparts.trans (by rw [hf]))
      ((congrArg Fabric.inbox hfab).trans (takePkt_inbox s k x))
      (fun j => (congrArg (fun f : Fabric => (f.ports.getD j Port.init).out) hfab).trans (out_takePkt s k x j)) ptLandAck
  · intro al r hts hal h8 hr'
    have hal' : (s.takePkt k x).allocAt p x.pkt.offset = some al := by
      obtain ⟨f, hf⟩ := takePkt_only s k x
      rw [hf]
      exact hal
    have hland := landFlag_home (s := s.takePkt k x) (fl := x.pkt.flagLine p s.now false none) hts hal'
    rw [(samePaths_takePkt s k x).now] at hland
    replace hland := hland.trans hr'.symm
    have hserved : Served (s.takePkt k x) r.s := hr' ▸ served_homeDo _ al _
    obtain ⟨f, _, _, _, hf, -⟩ := landRemote_home_only (s := s.takePkt k x) (fl := x.pkt.flagLine p s.now false none) hts
    rw [hland] at hf
    refine ⟨_, (exec_landReq harr).trans (congrArg Host.Outcome.next (land_now had hr h8)), fun d key => ?_, ?_, fun hok => ?_⟩
    · rw [hf]
      rfl
    · rw [hf]
      exact hserved.sram.trans (bytes_takePkt s k x).sram
    · have hgood := landRemote_home (s := s.takePkt k x) (fl := x.pkt.flagLine p s.now false none) hts (by rw [hland]; exact hok)
      rw [hgood, hland]
      obtain ⟨g, hg⟩ := takePkt_only s k x
      obtain ⟨_, _, _, _, _, _, _, _, _, honly⟩ := id hserved
      exact replied_tellFlag ((samePaths_takePkt s k x).trans hserved.paths) (by rw [honly, hg])
        ((congrArg Fabric.inbox hserved.fabric).trans (takePkt_inbox s k x))
        (fun j => (congrArg (fun f : Fabric => (f.ports.getD j Port.init).out) hserved.fabric).trans (out_takePkt s k x j)) ptLandAck
  · intro d hde hdl h8
    rw [hde] at *
    obtain ⟨g, hg⟩ := takePkt_only s k x
    refine ⟨fun hw hl => ?_, fun hfull => ?_⟩
    · obtain ⟨f, hf⟩ := tellFlag_only ((s.takePkt k x).modDie (s.dieOfOff p x.pkt.offset) fun e =>
        { e with flags := e.flags ++ [x.pkt.flagLine p s.now true none] }) (x.pkt.flagLine p s.now true none) ptLandHeld 0 0
      refine ⟨_, (exec_landReq harr).trans (congrArg Host.Outcome.next (land_held had hr h8 hw hl)), ?_, ?_, ?_⟩
      · exact (((bytes_takePkt s k x).trans (bytes_modDie _ _ _)).trans (bytes_tellFlag _ _ _ _ _)).sameMemory
      · rw [hf, hg]
        exact congrArg Die.flags (die_modDie _ hdl)
      · have hpaths : SamePaths (s.takePkt k x) ((s.takePkt k x).modDie (s.dieOfOff p x.pkt.offset) fun e =>
          { e with flags := e.flags ++ [x.pkt.flagLine p s.now true none] }) := ⟨rfl, rfl, rfl, rfl, rfl, fun _ => rfl⟩
        refine replied_tellFlag ((samePaths_takePkt s k x).trans hpaths) ?_ (takePkt_inbox s k x) (out_takePkt s k x) ptLandHeld
        rw [hg]
        rfl
    · exact ⟨_, (exec_landReq harr).trans (congrArg Host.Outcome.next (land_queues had hr h8 hfull)), rfl,
        ((bytes_modFab s _).trans (bytes_modDie _ _ _)).sameMemory, rfl, congrArg Die.flagWait (die_modDie _ hdl)⟩
  · intro t harr hready hts ht hf hw hd' ha htl hv
    obtain ⟨h1, h2, h3⟩ := taken_dropFlag (k := k) (x := x) fl hd
    obtain ⟨v, w, -, -, hfab, hdies, -, -, hvw, hrun, hread, hout, htok⟩ := landed_tile h1 ht hts hf hw hd' ha htl hv
    obtain ⟨f, hf'⟩ := tellFlag_only w fl ptLandAck 0 0
    obtain ⟨l, hl⟩ := h2
    refine ⟨v, (execLandGo_lands harr hh hready).trans (congrArg Host.Outcome.next hrun), ?_, ?_, hread, htok, hout⟩
    · rw [hvw]
      exact tookPkt_tellFlag ⟨l, (congrArg Fabric.inbox hfab).trans hl⟩ fl _ _ _
    · rw [hvw]
      exact Freed.of_dies h3 (by rw [hf']; exact hdies)
  · intro al r harr hready hts hal hr'
    obtain ⟨h1, ⟨l, hl⟩, -⟩ := taken_dropFlag (k := k) (x := x) fl hd
    have hal' : ((s.takePkt k x).dropFlag d fl).allocAt fl.part fl.off = some al := by
      obtain ⟨_, _, hp⟩ := h1
      rw [hp]
      exact hal
    have hland := landFlag_home (s := (s.takePkt k x).dropFlag d fl) hts hal'
    rw [h1.now] at hland
    replace hland := hland.trans hr'.symm
    have hserved : Served ((s.takePkt k x).dropFlag d fl) r.s := hr' ▸ served_homeDo _ al _
    obtain ⟨f, ptype, st, reason, hf, hpkt⟩ := landRemote_home_only (s := (s.takePkt k x).dropFlag d fl) hts
    rw [hland] at hf hpkt
    refine ⟨_, execLandGo_lands harr hh hready, ?_, fun e key => ?_, ?_⟩
    · rw [hpkt]
      exact tookPkt_tellFlag ⟨l, (congrArg Fabric.inbox hserved.fabric).trans hl⟩ fl _ _ _
    · rw [hf]
      rfl
    · rw [hf]
      exact hserved.sram.trans h1.bytes.sram
  · obtain ⟨h1, h2, h3⟩ := taken_dropFlag (k := k) (x := x) fl hd
    obtain ⟨f, hf⟩ := tellFlag_only ((s.takePkt k x).dropFlag d fl) fl ptLandAck flagCancelled 0
    exact ⟨_, execLandCancel_drops harr hh, tookPkt_tellFlag h2 fl _ _ _, (h1.bytes.trans (bytes_tellFlag _ _ _ _ _)).sameMemory,
      Freed.of_dies h3 (by rw [hf])⟩
  · obtain ⟨f, hf⟩ := takePkt_only s k x
    refine ⟨_, exec_unheld hi harr hh, takePkt_inbox s k x, ?_, ((bytes_takePkt s k x).trans (bytes_modFab _ _)).sameMemory⟩
    unfold State.takePkt State.returnCredits
    split
    · rfl
    · rfl
  · have h1 := passed_dropFlag s d fl
    have hdies : (((s.dropFlag d fl).post (some fl.part) 0x0016 (flagNode fl) fl.layer fl.op fl.off).log 0x000D fl.part
        [flagNode fl, fl.off]).dies = (s.dropFlag d fl).dies := dies_post _ _ _ _ _ _ _
    have htiles : (((s.dropFlag d fl).post (some fl.part) 0x0016 (flagNode fl) fl.layer fl.op fl.off).log 0x000D fl.part
        [flagNode fl, fl.off]).tiles = s.tiles := by
      refine (sameTiles_post (s.dropFlag d fl) _ _ _ _ _ _).tiles.trans ?_
      obtain ⟨_, _, hp⟩ := h1
      rw [hp]
    have hbytes := h1.bytes.trans ((bytes_post (s.dropFlag d fl) (some fl.part) 0x0016 (flagNode fl) fl.layer fl.op fl.off).trans
      (bytes_log _ 0x000D fl.part [flagNode fl, fl.off]))
    have hrun := execFlagExpiry_drops hd hj hw ht hs
    generalize ((s.dropFlag d fl).post (some fl.part) 0x0016 (flagNode fl) fl.layer fl.op fl.off).log 0x000D fl.part
      [flagNode fl, fl.off] = v at hdies htiles hbytes hrun
    obtain ⟨f, hf⟩ := tellFlag_only v fl ptLandAck flagExpired 0
    refine ⟨_, hrun, Freed.of_dies (freed_dropFlag fl hlen) (by rw [hf]; exact hdies), ?_, by rw [hf]; exact htiles⟩
    exact (hbytes.trans (bytes_tellFlag _ _ _ _ _)).sameMemory
  · exact (if_pos (decide_eq_true hd)).trans (congrArg Host.Outcome.next (flagGrant_none h))
  · intro fl rest hw hl
    obtain ⟨f, hf⟩ := flagGrant_takes hw hl
    have hdie : (s.flagGrant d).die d = { s.die d with flags := (s.die d).flags ++ [heldNow s.now fl], flagWait := rest } := by
      rw [hf]
      exact die_modDie _ hlen
    exact ⟨_, if_pos (decide_eq_true hd), congrArg Die.flags hdie, congrArg Die.flagWait hdie, (passed_flagGrant s d).bytes.sameMemory⟩

end Sys2Proof.Proofs.RemoteFlags
end

section
/-! PROOFS. Answers to own fabric requests: O44. -/
namespace Sys2Proof.Proofs.OwnRequests

open Sys2Proof Sys2Proof.Machine Sys2Proof.Laws Sys2Proof.Safety Sys2Proof.Proofs.Packets Sys2Proof.Proofs.HomeFrame
  Sys2Proof.Proofs.FabricRequests Sys2Proof.Proofs.RemoteFlags

/-! Held flags that go on (R305). -/

theorem reqs_inject (s : State) (p : Packet) : (s.inject p).fabric.reqs = s.fabric.reqs := by
  unfold State.inject
  split
  · rfl
  split
  · rfl
  unfold State.queuePkt
  split
  · rfl
  · rfl

/-- A request whose flag goes on. -/
def settleOne (s : State) (q : FabReq) : State :=
  let t := if q.bad.isSome then ptLandCancel else ptLandGo
  (s.modReq q.txn fun x => { x with going := true }).inject
    (s.mkPkt t 1 q.node q.off 1 ((s.jobOf q.part).getD 0) q.txn 0 0 0 0 [])

/-- The requests whose flags go on. -/
def settling (s : State) : List FabReq :=
  s.fabric.reqs.filter fun q => q.ptype == ptLand && q.held && !q.going && !openBefore q s.fabric.reqs

theorem settleLands_eq (s : State) : s.settleLands = (settling s).foldl settleOne s := rfl

/-- A request goes on when it is one of those given. -/
def goesOn (l : List FabReq) (x : FabReq) : FabReq := if x.txn ∈ l.map FabReq.txn then { x with going := true } else x

theorem goesOn_txn (l : List FabReq) (x : FabReq) : (goesOn l x).txn = x.txn := by
  unfold goesOn
  split
  · rfl
  · rfl

theorem goesOn_held (l : List FabReq) (x : FabReq) : (goesOn l x).held = x.held := by
  unfold goesOn
  split
  · rfl
  · rfl

theorem goesOn_nil : goesOn [] = id := funext fun _ => if_neg (by simp)

theorem settled_foldl (l : List FabReq) : ∀ s : State, (∃ f, l.foldl settleOne s = { s with fabric := f }) ∧
    (l.foldl settleOne s).fabric.reqs = s.fabric.reqs.map (goesOn l) ∧
    ∃ m, (l.foldl settleOne s).fabric.inbox = s.fabric.inbox ++ m := by
  induction l with
  | nil => exact fun s => ⟨⟨_, rfl⟩, by rw [goesOn_nil, List.map_id]; rfl, [], (List.append_nil _).symm⟩
  | cons q l ih =>
    intro s
    obtain ⟨⟨f, hf⟩, hreqs, m, hm⟩ := ih (settleOne s q)
    obtain ⟨g, hg⟩ := inject_only (s.modReq q.txn fun x => { x with going := true })
      (s.mkPkt (if q.bad.isSome then ptLandCancel else ptLandGo) 1 q.node q.off 1 ((s.jobOf q.part).getD 0) q.txn 0 0 0 0 [])
    have hone : settleOne s q = { s with fabric := g } := hg
    have hr1 : (settleOne s q).fabric.reqs = s.fabric.reqs.map fun x => if x.txn = q.txn then { x with going := true } else x :=
      reqs_inject _ _
    obtain ⟨n, hn⟩ : ∃ n, (settleOne s q).fabric.inbox = s.fabric.inbox ++ n := ⟨_, inbox_inject _ _⟩
    refine ⟨⟨f, ?_⟩, ?_, n ++ m, ?_⟩
    · rw [List.foldl_cons, hf, hone]
    · rw [List.foldl_cons, hreqs, hr1, List.map_map]
      refine List.map_congr_left fun x _ => ?_
      simp only [Function.comp_apply, goesOn, List.map_cons, List.mem_cons]
      by_cases h1 : x.txn = q.txn
      · simp only [h1, if_true, true_or]
        split
        · rfl
        · rfl
      · simp only [h1, if_false, false_or]
    · rw [List.foldl_cons, hm, hn, List.append_assoc]

theorem settleLands_only (s : State) : ∃ f, s.settleLands = { s with fabric := f } := (settled_foldl (settling s) s).1

theorem settleLands_reqs (s : State) : s.settleLands.fabric.reqs = s.fabric.reqs.map (goesOn (settling s)) :=
    (settled_foldl (settling s) s).2.1

theorem settleLands_inbox (s : State) : ∃ m, s.settleLands.fabric.inbox = s.fabric.inbox ++ m := (settled_foldl (settling s) s).2.2

theorem settleLands_none {s : State} (h : ∀ q ∈ s.fabric.reqs, q.ptype ≠ ptLand) : s.settleLands = s := by
  have h0 : settling s = [] := List.filter_eq_nil_iff.mpr fun q hq => by simp [h q hq]
  rw [settleLands_eq, h0]
  rfl

theorem find_map_txn {g : FabReq → FabReq} (h : ∀ x, (g x).txn = x.txn) (txn : Nat) (l : List FabReq) :
    ((l.map g).find? fun q => q.txn == txn) = (l.find? fun q => q.txn == txn).map g := by
  rw [List.find?_map]
  refine congrArg (fun p => (List.find? p l).map g) (funext fun x => ?_)
  exact congrArg (· == txn) (h x)

theorem reqOf_settleLands (s : State) (txn : Nat) : s.settleLands.reqOf txn = (s.reqOf txn).map (goesOn (settling s)) := by
  unfold State.reqOf
  rw [settleLands_reqs, find_map_txn (goesOn_txn _)]

/-! The end of a request (R312, R314). -/

theorem markBad_ptypes (l : FabReq) (why : Nat × Nat × Nat) : ∀ (seen : Bool) (rs : List FabReq),
    (markBad l why seen rs).map FabReq.ptype = rs.map FabReq.ptype
  | _, [] => rfl
  | seen, q :: r => by
    unfold markBad
    split
    · exact congrArg (q.ptype :: ·) (markBad_ptypes l why true r)
    · rw [List.map_cons, List.map_cons, markBad_ptypes l why seen r]
      split
      · rfl
      · rfl

theorem markFailed_only (s : State) (q : FabReq) (fin : ReqEnd) : ∃ ts rs, s.markFailed q fin =
    { s with tiles := ts, fabric := { s.fabric with reqs := rs } } ∧ rs.map FabReq.ptype = s.fabric.reqs.map FabReq.ptype := by
  unfold State.markFailed
  split
  · exact ⟨_, _, rfl, rfl⟩
  split
  · exact ⟨_, _, rfl, rfl⟩
  dsimp only
  split
  all_goals exact ⟨_, _, rfl, markBad_ptypes _ _ _ _⟩

/-- The tiles after a failed request depend on nothing but the tiles. -/
theorem markFailed_tiles {s v : State} (h : v.tiles = s.tiles) (q : FabReq) (fin : ReqEnd) : (v.markFailed q fin).tiles =
    (s.markFailed q fin).tiles := by
  unfold State.markFailed
  split
  · exact h
  split
  · exact h
  dsimp only
  split
  · unfold State.noteBad
    exact congrArg (fun l => modAt l _ _) h
  all_goals exact h

theorem markFailed_plain (s : State) {q : FabReq} (fin : ReqEnd) (h : ∀ t op r, q.who ≠ .tile t op r) : (s.markFailed q fin).tiles =
    s.tiles := by
  unfold State.markFailed
  split
  · rfl
  split
  · rfl
  dsimp only
  split
  next t op r hw => exact absurd hw (h t op r)
  all_goals rfl

theorem sampled_emitReq (s : State) (q : FabReq) (source raw : Nat) : Sampled s (s.emitReq q source raw) := by
  unfold State.emitReq
  split
  · split
    · exact sampled_emit _ _ _ _ _ _ _ _ _
    · exact .refl _
  all_goals exact .refl _

/-- The answer reaches its issuer. -/
def issued (s : State) (q : FabReq) (fin : ReqEnd) (data : List Byte) : State :=
  match q.who with
  | .tile t op req => s.answerTile t op ⟨req, fin, data, none⟩
  | .core => s.coreAnswer q fin data
  | .remote _ _ => s
  | .engine _ => s

theorem endFab_eq (s : State) (q : FabReq) (fin : ReqEnd) (data : List Byte) : s.endFab q fin data =
    (issued ((((if fin.answered then s.emitReq q srcFabRtt (s.now - q.sentAt) else s).markFailed q fin).dropReq q.txn).settleLands) q fin
      data).coreGo := by
  unfold State.endFab issued
  cases q.who with
  | tile t op r => rfl
  | remote _ _ => rfl
  | core => rfl
  | engine _ => rfl

/-- Answering the issuer leaves the fabric and the byte stores alone. -/
theorem issued_keeps (s : State) (q : FabReq) (fin : ReqEnd) (data : List Byte) :
    (issued s q fin data).fabric = s.fabric ∧ SameBytes s (issued s q fin data) := by
  unfold issued
  split
  · exact ⟨rfl, rfl, rfl, rfl, rfl⟩
  · unfold State.coreAnswer State.coreData
    split
    · exact ⟨rfl, rfl, rfl, rfl, rfl⟩
    · exact ⟨rfl, rfl, rfl, rfl, rfl⟩
  all_goals exact ⟨rfl, .refl s⟩

theorem coreAns_coreAnswer (w s : State) (q : FabReq) (fin : ReqEnd) (data : List Byte) :
    (w.coreAnswer q fin data).coreAns = (s.coreAnswer q fin data).coreAns := by
  unfold State.coreAnswer State.coreData State.coreFault
  split
  · rfl
  · rfl

theorem tiles_coreAnswer (w : State) (q : FabReq) (fin : ReqEnd) (data : List Byte) : (w.coreAnswer q fin data).tiles = w.tiles := by
  unfold State.coreAnswer State.coreData State.coreFault
  split
  · rfl
  · rfl

/-- Ending a request: where it ends, before the accesses that wait go on. s is the state the statement starts from, v the one in
which the request ends. -/
theorem endFab_ends {s v : State} (ht : v.tiles = s.tiles) (hb : SameBytes s v) (q : FabReq) (fin : ReqEnd) (data : List Byte) :
    ∃ u, v.endFab q fin data = u.coreGo ∧ ended s u q fin data ∧ (∃ l, u.fabric.inbox = v.fabric.inbox ++ l) ∧
      ((v.fabric.reqs.filter fun r => r.ptype == ptLand) = [] → u.fabric.discarded = v.fabric.discarded) := by
  have hs : Sampled v (if fin.answered then v.emitReq q srcFabRtt (v.now - q.sentAt) else v) := by
    split
    · exact sampled_emitReq v _ _ _
    · exact .refl v
  rw [endFab_eq]
  generalize (if fin.answered then v.emitReq q srcFabRtt (v.now - q.sentAt) else v) = v0 at hs
  have ht0 : v0.tiles = s.tiles := by
    obtain ⟨_, _, _, _, rfl⟩ := hs
    exact ht
  have hb0 : SameBytes s v0 := hb.trans (bytes_sampled hs)
  have hf0 : v0.fabric = v.fabric := (served_sampled hs).fabric
  obtain ⟨ts, rs, hm, hp⟩ := markFailed_only v0 q fin
  have htm : ts = (s.markFailed q fin).tiles := by
    rw [← markFailed_tiles ht0, hm]
  rw [hf0] at hp hm
  obtain ⟨f, hf⟩ := settleLands_only ((v0.markFailed q fin).dropReq q.txn)
  have hreq := reqOf_settleLands ((v0.markFailed q fin).dropReq q.txn) q.txn
  obtain ⟨l, hl⟩ := settleLands_inbox ((v0.markFailed q fin).dropReq q.txn)
  have hnone : ((v0.markFailed q fin).dropReq q.txn).reqOf q.txn = none := by
    refine List.find?_eq_none.mpr fun x hx => ?_
    have := (List.mem_filter.mp hx).2
    simpa using this
  rw [hnone] at hreq
  have hquiet : (v.fabric.reqs.filter fun r => r.ptype == ptLand) = [] →
      ((v0.markFailed q fin).dropReq q.txn).settleLands = (v0.markFailed q fin).dropReq q.txn := fun h => by
    refine settleLands_none fun x hx => ?_
    have hx' : x ∈ (v0.markFailed q fin).fabric.reqs := (List.mem_filter.mp hx).1
    rw [hm] at hx'
    have hpt : x.ptype ∈ v.fabric.reqs.map FabReq.ptype := hp ▸ List.mem_map_of_mem hx'
    obtain ⟨y, hy, hxy⟩ := List.mem_map.mp hpt
    rw [← hxy]
    exact fun h0 => List.filter_eq_nil_iff.mp h y hy (by simp [h0])
  have hwt : ((v0.markFailed q fin).dropReq q.txn).settleLands.tiles = (s.markFailed q fin).tiles := by
    rw [hf]
    exact (congrArg State.tiles hm).trans htm
  have hwb : SameBytes s ((v0.markFailed q fin).dropReq q.txn).settleLands := by
    refine hb0.trans ?_
    rw [hf, hm]
    exact ⟨rfl, rfl, rfl, rfl⟩
  have hwi : ((v0.markFailed q fin).dropReq q.txn).settleLands.fabric.inbox = v.fabric.inbox ++ l := by
    refine hl.trans (congrArg (· ++ l) ?_)
    rw [hm]
    rfl
  have hwd : ((v0.markFailed q fin).dropReq q.txn).fabric.discarded = v.fabric.discarded := by
    rw [hm]
    rfl
  rw [← hwd]
  generalize (v0.markFailed q fin).dropReq q.txn = z at *
  generalize z.settleLands = w at *
  obtain ⟨hif, hib⟩ := issued_keeps w q fin data
  refine ⟨_, rfl, ⟨?_, (hwb.trans hib).sameMemory, ?_⟩, ⟨l, (congrArg Fabric.inbox hif).trans hwi⟩, fun h => ?_⟩
  · exact (congrArg (fun f : Fabric => f.reqs.find? fun x : FabReq => x.txn == q.txn) hif).trans hreq
  · have hplain : (∀ t op r, q.who ≠ .tile t op r) → (s.markFailed q fin).tiles = s.tiles :=
      markFailed_plain s fin
    cases hwho : q.who with
    | tile t op r =>
      have hi : issued w q fin data = w.answerTile t op ⟨r, fin, data, none⟩ := by
        unfold issued
        rw [hwho]
      rw [hi]
      exact congrArg (fun l => modAt l t _) hwt
    | core =>
      have hi : issued w q fin data = w.coreAnswer q fin data := by
        unfold issued
        rw [hwho]
      rw [hi]
      exact ⟨coreAns_coreAnswer w s q fin data,
        (tiles_coreAnswer w q fin data).trans (hwt.trans (hplain fun _ _ _ h => nomatch hwho.symm.trans h))⟩
    | remote _ _ =>
      have hi : issued w q fin data = w := by
        unfold issued
        rw [hwho]
      rw [hi]
      exact hwt.trans (hplain fun _ _ _ h => nomatch hwho.symm.trans h)
    | engine _ =>
      have hi : issued w q fin data = w := by
        unfold issued
        rw [hwho]
      rw [hi]
      exact hwt.trans (hplain fun _ _ _ h => nomatch hwho.symm.trans h)
  · rw [hif, hquiet h]

/-! Responses in the inbox. -/

/-- The state in which an answer is judged: its packet is taken. -/
theorem takePkt_keeps (s : State) (k : Nat) (x : InPkt) : (s.takePkt k x).fabric.reqs = s.fabric.reqs ∧
    (s.takePkt k x).fabric.discarded = s.fabric.discarded ∧ (s.takePkt k x).tiles = s.tiles ∧ (s.takePkt k x).parts = s.parts := by
  unfold State.takePkt State.returnCredits
  split
  · exact ⟨rfl, rfl, rfl, rfl⟩
  · exact ⟨rfl, rfl, rfl, rfl⟩

theorem reqOf_takePkt (s : State) (k : Nat) (x : InPkt) (txn : Nat) : (s.takePkt k x).reqOf txn = s.reqOf txn := by
  unfold State.reqOf
  rw [(takePkt_keeps s k x).1]

theorem expiry_takePkt (s : State) (k : Nat) (x : InPkt) (q : FabReq) : (s.takePkt k x).expiry q = s.expiry q := by
  unfold State.expiry State.fabTimeoutNs State.part
  rw [(takePkt_keeps s k x).2.2.2]

section
variable {s : State} {k : Nat} {x : InPkt} {q : FabReq}

theorem lateOr_early (f : State → State) (h : x.at_ ≤ s.expiry q) : (s.takePkt k x).lateOr q x f = f (s.takePkt k x) :=
  if_neg (by rw [expiry_takePkt]; exact Nat.not_lt.mpr h)

theorem lateOr_late (f : State → State) (h : s.expiry q < x.at_) :
    (s.takePkt k x).lateOr q x f = (s.takePkt k x).countDiscard.endFab q (.timeout q.off) [] :=
  if_pos (by rw [expiry_takePkt]; exact h)

/-- A response ends its request, with its packet taken. -/
theorem endFab_taken (fin : ReqEnd) (data : List Byte) : ∃ u : State, (s.takePkt k x).endFab q fin data = u.coreGo ∧ tookPkt s u k ∧
    ended s u q fin data := by
  obtain ⟨u, h1, h2, ⟨l, hl⟩, -⟩ := endFab_ends (v := s.takePkt k x) (takePkt_keeps s k x).2.2.1 (bytes_takePkt s k x) q fin data
  exact ⟨u, h1, ⟨l, hl.trans (congrArg (· ++ l) (takePkt_inbox s k x))⟩, h2⟩

/-- A response that came too late is counted, and ends its request as timed out. -/
theorem endFab_late : ∃ u : State, (s.takePkt k x).countDiscard.endFab q (.timeout q.off) [] = u.coreGo ∧ tookPkt s u k ∧
    ended s u q (.timeout q.off) [] ∧
    ((s.fabric.reqs.filter fun r => r.ptype == ptLand) = [] → u.fabric.discarded = inc32 s.fabric.discarded) := by
  obtain ⟨hr, hd, ht, -⟩ := takePkt_keeps s k x
  obtain ⟨u, h1, h2, ⟨l, hl⟩, h3⟩ := endFab_ends (s := s) (v := (s.takePkt k x).countDiscard) ht
    ((bytes_takePkt s k x).trans (bytes_modFab _ _)) q (.timeout q.off) []
  refine ⟨u, h1, ⟨l, hl.trans (congrArg (· ++ l) (takePkt_inbox s k x))⟩, h2, fun h => (h3 ?_).trans (congrArg inc32 hd)⟩
  exact (congrArg (List.filter fun r : FabReq => r.ptype == ptLand) hr).trans h

theorem answerIn_expected {want : Nat → Bool} (hq : s.reqOf x.pkt.txn = some q) (hn : q.node = x.pkt.src) (hw : want q.ptype = true) :
    s.answerIn k x want = (s.takePkt k x).lateOr q x fun s =>
      s.endFab q .ok (if q.ptype = ptAtomic && x.pkt.data.isEmpty then [] else x.pkt.data) := by
  unfold State.answerIn
  dsimp only
  rw [reqOf_takePkt, hq]
  exact if_neg (by simp [hn, hw])

theorem answerIn_stray {want : Nat → Bool} (h : s.reqOf x.pkt.txn = none ∨ ∃ q, s.reqOf x.pkt.txn = some q ∧ q.node ≠ x.pkt.src) :
    s.answerIn k x want = (s.takePkt k x).countDiscard := by
  unfold State.answerIn
  dsimp only
  rw [reqOf_takePkt]
  obtain h | ⟨q, h, hn⟩ := h
  · rw [h]
  · rw [h]
    exact if_pos (by simp [hn])

end

theorem data_or_none (t : Nat) (l : List Byte) : (if t = ptAtomic && l.isEmpty then [] else l) = l := by
  split
  next h => exact (List.isEmpty_iff.mp (Bool.and_eq_true _ _ ▸ h).2).symm
  next => rfl

/-- The responses with an expected type. -/
theorem exec_rsp {s : State} {k t want : Nat} {i : Instr} {x : InPkt}
    (hi : (i, t, want) ∈ [(Instr.readRsp k, ptReadRsp, ptRead), (.itemRsp k, ptItemRsp, ptReadItem), (.writeAck k, ptWriteAck, ptWrite),
      (.writeAck k, ptWriteAck, ptWriteItem), (.atomicRsp k, ptAtomicRsp, ptAtomic)]) (h : Arrived s k x t) :
    ∃ w : Nat → Bool, exec i s = .next (s.answerIn k x w) ∧ w want = true := by
  simp only [List.mem_cons, Prod.mk.injEq, List.not_mem_nil, or_false] at hi
  obtain ⟨rfl, rfl, rfl⟩ | ⟨rfl, rfl, rfl⟩ | ⟨rfl, rfl, rfl⟩ | ⟨rfl, rfl, rfl⟩ | ⟨rfl, rfl, rfl⟩ := hi
  all_goals exact ⟨_, congrArg Host.Outcome.next (onPacket_arrived h), rfl⟩

section
variable {s : State} {k : Nat} {x : InPkt} {q : FabReq}

/-- What a LAND_ACK says of its request (R264). -/
def landEnd (q : FabReq) (arg : Nat) : ReqEnd :=
  if bits arg 0 8 = 0 then .ok else
    .refused (q.bad.getD (6, 4, q.off)).1 (q.bad.getD (6, 4, q.off)).2.1 (q.bad.getD (6, 4, q.off)).2.2

theorem execLandAck_judges (h : Arrived s k x ptLandAck) (hq : s.reqOf x.pkt.txn = some q) (hn : q.node = x.pkt.src)
    (ht : q.ptype = ptLand) :
    execLandAck k s = .next ((s.takePkt k x).lateOr q x fun s => s.endFab q (landEnd q x.pkt.arg) []) := by
  refine congrArg Host.Outcome.next ((onPacket_arrived h).trans ?_)
  dsimp only
  rw [reqOf_takePkt, hq]
  refine (if_neg (by simp [hn, ht])).trans (congrArg _ (funext fun s => ?_))
  unfold landEnd
  split
  · rfl
  · cases q.bad with
    | none => rfl
    | some b => rfl

theorem execLandAck_stray (h : Arrived s k x ptLandAck) (hs : s.reqOf x.pkt.txn = none ∨ ∃ q, s.reqOf x.pkt.txn = some q ∧
    q.node ≠ x.pkt.src) :
    execLandAck k s = .next (s.takePkt k x).countDiscard := by
  refine congrArg Host.Outcome.next ((onPacket_arrived h).trans ?_)
  dsimp only
  rw [reqOf_takePkt]
  obtain hs | ⟨q, hs, hn⟩ := hs
  · rw [hs]
  · rw [hs]
    exact if_pos (by simp [hn])

theorem execRefuse_judges (h : Arrived s k x ptRefuse) (hq : s.reqOf x.pkt.txn = some q) :
    execRefuse k s = .next ((s.takePkt k x).lateOr q x fun s => s.endFab q (.refused 6 (if bits x.pkt.arg 8 8 = rsRouteDead then 3 else 2)
      (q.off % 2 ^ 42 + bits x.pkt.arg 8 8 * 2 ^ 56)) []) := by
  refine congrArg Host.Outcome.next ((onPacket_arrived h).trans ?_)
  dsimp only
  rw [reqOf_takePkt, hq]

theorem execRefuse_stray (h : Arrived s k x ptRefuse) (hs : s.reqOf x.pkt.txn = none) : execRefuse k s =
    .next (s.takePkt k x).countDiscard := by
  refine congrArg Host.Outcome.next ((onPacket_arrived h).trans ?_)
  dsimp only
  rw [reqOf_takePkt, hs]

theorem execLandHeld_notes (h : Arrived s k x ptLandHeld) (hq : s.reqOf x.pkt.txn = some q) (hn : q.node = x.pkt.src)
    (ht : q.ptype = ptLand) :
    execLandHeld k s = .next (((s.takePkt k x).modReq q.txn fun y => { y with held := true }).settleLands) := by
  refine congrArg Host.Outcome.next ((onPacket_arrived h).trans ?_)
  dsimp only
  rw [reqOf_takePkt, hq]
  exact if_pos (by simp [hn, ht])

theorem execLandHeld_stray (h : Arrived s k x ptLandHeld) (hs : s.reqOf x.pkt.txn = none ∨ ∃ q, s.reqOf x.pkt.txn = some q ∧
    q.node ≠ x.pkt.src) :
    execLandHeld k s = .next (s.takePkt k x).countDiscard := by
  refine congrArg Host.Outcome.next ((onPacket_arrived h).trans ?_)
  dsimp only
  rw [reqOf_takePkt]
  obtain hs | ⟨q, hs, hn⟩ := hs
  · rw [hs]
  · rw [hs]
    exact if_neg (by simp [hn])

end

/-- A request whose flag is held. -/
def nowHeld (txn : Nat) (y : FabReq) : FabReq := if y.txn = txn then { y with held := true } else y

theorem openBefore_nowHeld (txn : Nat) (l l' : FabReq) (h : l'.txn = l.txn ∧ l'.node = l.node ∧ l'.strand = l.strand ∧ l'.who = l.who) :
    ∀ rs : List FabReq, openBefore l' (rs.map (nowHeld txn)) = openBefore l rs
  | [] => rfl
  | q :: r => by
    obtain ⟨h1, h2, h3, h4⟩ := h
    have hq : (nowHeld txn q).txn = q.txn ∧ (nowHeld txn q).node = q.node ∧ (nowHeld txn q).strand = q.strand ∧
        (nowHeld txn q).who = q.who ∧ (nowHeld txn q).ptype = q.ptype := by
      unfold nowHeld
      split
      · exact ⟨rfl, rfl, rfl, rfl, rfl⟩
      · exact ⟨rfl, rfl, rfl, rfl, rfl⟩
    obtain ⟨k1, k2, k3, k4, k5⟩ := hq
    rw [List.map_cons]
    unfold openBefore
    rw [openBefore_nowHeld txn l l' ⟨h1, h2, h3, h4⟩ r, k1, h1, k5]
    unfold FabReq.sameStrand
    rw [k2, k3, k4, h2, h3, h4]

/-- A held flag of an own request: its request is marked, and goes on where nothing before it is open (R305). -/
theorem reqOf_held {v : State} {q : FabReq} (hq : v.reqOf q.txn = some q) (ht : q.ptype = ptLand) :
    ∃ q', ((v.modReq q.txn fun y => { y with held := true }).settleLands).reqOf q.txn = some q' ∧ q'.held = true ∧
      (q.going = false → openBefore q v.fabric.reqs = false → q'.going = true) := by
  have hreqs : (v.modReq q.txn fun y => { y with held := true }).fabric.reqs = v.fabric.reqs.map (nowHeld q.txn) := rfl
  have hself : nowHeld q.txn q = { q with held := true } := if_pos rfl
  have htxn : ∀ x, (nowHeld q.txn x).txn = x.txn := fun x => by
    unfold nowHeld
    split
    · rfl
    · rfl
  have hw : (v.modReq q.txn fun y => { y with held := true }).reqOf q.txn = some { q with held := true } := by
    unfold State.reqOf at hq ⊢
    rw [hreqs, find_map_txn htxn, hq, Option.map_some, hself]
  refine ⟨_, (reqOf_settleLands _ _).trans (congrArg _ hw), goesOn_held _ _, fun hg ho => ?_⟩
  have hmem : ({ q with held := true } : FabReq) ∈ settling (v.modReq q.txn fun y => { y with held := true }) := by
    refine List.mem_filter.mpr ⟨List.mem_of_find?_eq_some hw, ?_⟩
    have hopen := openBefore_nowHeld q.txn q { q with held := true } ⟨rfl, rfl, rfl, rfl⟩ v.fabric.reqs
    rw [hreqs, hopen, ho, hg, ht]
    rfl
  have hin : q.txn ∈ (settling (v.modReq q.txn fun y => { y with held := true })).map FabReq.txn :=
    List.mem_map.mpr ⟨{ q with held := true }, hmem, rfl⟩
  exact congrArg FabReq.going (if_pos hin : goesOn _ { q with held := true } = _)

/-- Settles O44. -/
theorem ownRequestsAnswered : Obligations.OwnRequestsAnswered := by
  refine ⟨fun s k x q hq hn => ⟨fun i t want hi harr hw hat => ?_, fun harr ht hat => ⟨fun h0 => ?_, fun cls code detail h0 hbad => ?_⟩,
    fun harr hat => ?_, fun i t want hi harr hw hlate => ?_, fun harr ht => ?_⟩, fun s txn h => ?_, fun s txn q hq =>
        ⟨fun h => ?_, fun h1 h2 h3 => ?_⟩,
    fun s k x i t hi harr hs => ?_⟩
  · obtain ⟨w, hrun, hww⟩ := exec_rsp hi harr
    obtain ⟨u, h1, h2⟩ := endFab_taken (s := s) (k := k) (x := x) (q := q) .ok x.pkt.data
    refine ⟨u, hrun.trans (congrArg Host.Outcome.next ((answerIn_expected hq hn (hw ▸ hww)).trans ((lateOr_early _ hat).trans ?_))), h2⟩
    rw [data_or_none]
    exact h1
  · have hend : landEnd q x.pkt.arg = .ok := if_pos h0
    obtain ⟨u, h1, h2⟩ := endFab_taken (s := s) (k := k) (x := x) (q := q) (landEnd q x.pkt.arg) []
    rw [hend] at h2
    exact ⟨u, (execLandAck_judges harr hq hn ht).trans (congrArg Host.Outcome.next ((lateOr_early _ hat).trans h1)), h2⟩
  · have hend : landEnd q x.pkt.arg = .refused cls code detail := (if_neg h0).trans (by rw [hbad])
    obtain ⟨u, h1, h2⟩ := endFab_taken (s := s) (k := k) (x := x) (q := q) (landEnd q x.pkt.arg) []
    rw [hend] at h2
    exact ⟨u, (execLandAck_judges harr hq hn ht).trans (congrArg Host.Outcome.next ((lateOr_early _ hat).trans h1)), h2⟩
  · obtain ⟨u, h1, h2⟩ := endFab_taken (s := s) (k := k) (x := x) (q := q) (.refused 6 (if bits x.pkt.arg 8 8 = rsRouteDead then 3 else 2)
      (q.off % 2 ^ 42 + bits x.pkt.arg 8 8 * 2 ^ 56)) []
    exact ⟨u, (execRefuse_judges harr hq).trans (congrArg Host.Outcome.next ((lateOr_early _ hat).trans h1)), h2⟩
  · obtain ⟨u, h1, h2⟩ := endFab_late (s := s) (k := k) (x := x) (q := q)
    have hrun : ∃ f, exec i s = .next ((s.takePkt k x).lateOr q x f) := by
      obtain hi | hi := List.mem_append.mp (show (i, t, want) ∈ [(Instr.readRsp k, ptReadRsp, ptRead), (.itemRsp k, ptItemRsp, ptReadItem),
        (.writeAck k, ptWriteAck, ptWrite), (.writeAck k, ptWriteAck, ptWriteItem), (.atomicRsp k, ptAtomicRsp, ptAtomic)] ++
        [(.landAck k, ptLandAck, ptLand), (.refuse k, ptRefuse, q.ptype)] from hi)
      · obtain ⟨w, hrun, hww⟩ := exec_rsp hi harr
        exact ⟨_, hrun.trans (congrArg Host.Outcome.next (answerIn_expected hq hn (hw ▸ hww)))⟩
      · simp only [List.mem_cons, Prod.mk.injEq, List.not_mem_nil, or_false] at hi
        obtain ⟨rfl, rfl, rfl⟩ | ⟨rfl, rfl, -⟩ := hi
        · exact ⟨_, execLandAck_judges harr hq hn hw⟩
        · exact ⟨_, execRefuse_judges harr hq⟩
    obtain ⟨f, hrun⟩ := hrun
    exact ⟨u, hrun.trans (congrArg Host.Outcome.next ((lateOr_late f hlate).trans h1)), h2⟩
  · have htxn : q.txn = x.pkt.txn := by simpa using List.find?_some hq
    obtain ⟨hreqs, -, htiles, -⟩ := takePkt_keeps s k x
    obtain ⟨q', h1, h2, h3⟩ := reqOf_held (v := s.takePkt k x) (q := q) (by rw [reqOf_takePkt, htxn]; exact hq) ht
    rw [hreqs] at h3
    obtain ⟨f, hf⟩ := settleLands_only ((s.takePkt k x).modReq q.txn fun y => { y with held := true })
    obtain ⟨l, hl⟩ := settleLands_inbox ((s.takePkt k x).modReq q.txn fun y => { y with held := true })
    refine ⟨_, q', execLandHeld_notes harr hq hn ht, ⟨l, hl.trans (congrArg (· ++ l) (takePkt_inbox s k x))⟩, h1, h2, ?_, ?_, h3⟩
    · refine ((bytes_takePkt s k x).trans ?_).sameMemory
      rw [hf]
      exact ⟨rfl, rfl, rfl, rfl⟩
    · rw [hf]
      exact htiles
  · refine congrArg Host.Outcome.next ?_
    rw [h]
  · refine congrArg Host.Outcome.next ?_
    rw [hq]
    refine if_pos ?_
    unfold State.expiry
    obtain h | h | h := h
    · simp [h]
    · simp [h]
    · simp [h]
  · obtain ⟨u, hu, hended, -⟩ := endFab_ends (s := s) rfl (.refl s) q (.timeout q.off) []
    refine ⟨u, congrArg Host.Outcome.next ?_, hended⟩
    rw [hq]
    refine (if_neg ?_).trans hu
    unfold State.expiry
    rw [h2, h3]
    simpa using h1
  · have hstray : exec i s = .next (s.takePkt k x).countDiscard := by
      have hstray' : t ≠ ptRefuse → s.reqOf x.pkt.txn = none ∨ ∃ q, s.reqOf x.pkt.txn = some q ∧ q.node ≠ x.pkt.src :=
        fun _ => hs.imp id And.right
      simp only [List.mem_cons, Prod.mk.injEq, List.not_mem_nil, or_false] at hi
      obtain ⟨rfl, rfl⟩ | ⟨rfl, rfl⟩ | ⟨rfl, rfl⟩ | ⟨rfl, rfl⟩ | ⟨rfl, rfl⟩ | ⟨rfl, rfl⟩ | ⟨rfl, rfl⟩ := hi
      · exact congrArg Host.Outcome.next ((onPacket_arrived harr).trans (answerIn_stray (hstray' (by decide))))
      · exact congrArg Host.Outcome.next ((onPacket_arrived harr).trans (answerIn_stray (hstray' (by decide))))
      · exact congrArg Host.Outcome.next ((onPacket_arrived harr).trans (answerIn_stray (hstray' (by decide))))
      · exact congrArg Host.Outcome.next ((onPacket_arrived harr).trans (answerIn_stray (hstray' (by decide))))
      · exact execLandAck_stray harr (hstray' (by decide))
      · exact execLandHeld_stray harr (hstray' (by decide))
      · exact execRefuse_stray harr (hs.resolve_right fun h => h.1 rfl)
    obtain ⟨hreqs, hdisc, htiles, -⟩ := takePkt_keeps s k x
    exact ⟨_, hstray, takePkt_inbox s k x, congrArg inc32 hdisc, htiles, ((bytes_takePkt s k x).trans (bytes_modFab _ _)).sameMemory⟩

end Sys2Proof.Proofs.OwnRequests
end

section
/-! PROOFS. Accesses of the cores, management messages and the fabric throttle: O45. -/
namespace Sys2Proof.Proofs.Windows

open Sys2Proof Sys2Proof.Machine Sys2Proof.Laws Sys2Proof.Safety Sys2Proof.Proofs.Stores Sys2Proof.Proofs.Packets Sys2Proof.Proofs.HomeFrame
  Sys2Proof.Proofs.FabricRequests Sys2Proof.Proofs.RemoteFlags

/-! Accesses to the windows (R225, R277, R293). -/

section
variable {s : State} {w : CoreWin} {ofs : Nat} {op : CoreOp}

theorem execAccess_runs (h : Sys2Proof.CoreWin.ofsOk w ofs = true) : execFabricWindowAccess w ofs op s = .next (s.coreAccess w ofs op) :=
  if_pos h

theorem coreAccess_window (hw : w ≠ .control) : s.coreAccess w ofs op =
    if s.coreWait.isEmpty then (s.coreTry w ofs op).getD { s with coreWait := s.coreWait ++ [(w, ofs, op)] }
    else { s with coreWait := s.coreWait ++ [(w, ofs, op)] } := by
  cases w with
  | control => exact absurd rfl hw
  | device => cases op <;> rfl
  | fabric k => cases op <;> rfl

theorem coreAccess_queues (hw : w ≠ .control) (h : s.coreWait ≠ []) :
    s.coreAccess w ofs op = { s with coreWait := s.coreWait ++ [(w, ofs, op)] } :=
  (coreAccess_window hw).trans (if_neg (by simpa using h))

theorem coreAccess_tries {v : State} (hw : w ≠ .control) (h : s.coreWait = []) (ht : s.coreTry w ofs op = some v) :
    s.coreAccess w ofs op = v :=
  (coreAccess_window hw).trans ((if_pos (by simp [h])).trans (by rw [ht]; rfl))

theorem coreAccess_waits (hw : w ≠ .control) (h : s.coreWait = []) (ht : s.coreTry w ofs op = none) :
    s.coreAccess w ofs op = { s with coreWait := [(w, ofs, op)] } :=
  (coreAccess_window hw).trans ((if_pos (by simp [h])).trans (by rw [ht, h]; rfl))

/-- The window of an access. -/
def windowOf (s : State) (w : CoreWin) : Option (Nat × Window) := s.fabric.windows.find? fun e => CoreWin.fabric e.1 == w

theorem windowOf_fabric (s : State) (k : Nat) : windowOf s (.fabric k) = s.fabric.windows.find? fun e => e.1 == k := by
  refine congrArg (fun p => List.find? p s.fabric.windows) (funext fun e => ?_)
  by_cases h : e.1 = k
  · simp [h]
  · simp [h]

/-- The allocation a local access reaches. -/
def homeOf (s : State) (w : CoreWin) (ofs : Nat) : Option Alloc :=
  if w = .device then s.allocs.find? (fun al => al.has ofs) else (windowOf s w).bind fun e => s.allocAt e.2.part ofs

/-- Whether an access goes to this module's memory. -/
def Local (s : State) (w : CoreWin) : Prop := w = .device ∨ ∃ e, windowOf s w = some e ∧ some e.2.node = s.nodeId

theorem coreTry_local (hw : w ≠ .control) (hop : ∀ a b, op ≠ .fence a b) (h : Local s w) :
    s.coreTry w ofs op = s.coreLocal (homeOf s w ofs) ofs op := by
  cases w with
  | control => exact absurd rfl hw
  | device =>
    cases op with
    | fence a b => exact absurd rfl (hop a b)
    | _ => rfl
  | fabric k =>
    obtain h | ⟨e, he, hn⟩ := h
    · cases h
    have hhome : homeOf s (.fabric k) ofs = s.allocAt e.2.part ofs := by
      unfold homeOf
      rw [if_neg (by simp), he]
      rfl
    rw [windowOf_fabric] at he
    have htry : s.coreTry (.fabric k) ofs op = match s.fabric.windows.find? fun e => e.1 == k with
        | none => some s.coreFault
        | some (_, win) => if some win.node = s.nodeId then s.coreLocal (s.allocAt win.part ofs) ofs op else s.coreRemote win ofs op := by
      cases op with
      | fence a b => exact absurd rfl (hop a b)
      | _ => rfl
    rw [htry, he, hhome]
    exact if_pos hn

theorem coreTry_unmapped (hw : w ≠ .control) (hd : w ≠ .device) (hop : ∀ a b, op ≠ .fence a b) (h : windowOf s w = none) :
    s.coreTry w ofs op = some s.coreFault := by
  cases w with
  | control => exact absurd rfl hw
  | device => exact absurd rfl hd
  | fabric k =>
    rw [windowOf_fabric] at h
    cases op with
    | fence a b => exact absurd rfl (hop a b)
    | _ =>
      unfold State.coreTry
      dsimp only
      rw [h]

theorem coreTry_remote {e : Nat × Window} (hw : w ≠ .control) (hop : ∀ a b, op ≠ .fence a b) (h : windowOf s w = some e)
    (hn : some e.2.node ≠ s.nodeId) : s.coreTry w ofs op = s.coreRemote e.2 ofs op := by
  cases w with
  | control => exact absurd rfl hw
  | device => exact nomatch List.find?_some h
  | fabric k =>
    rw [windowOf_fabric] at h
    cases op with
    | fence a b => exact absurd rfl (hop a b)
    | _ =>
      unfold State.coreTry
      dsimp only
      rw [h]
      exact if_neg hn

end

/-! Local accesses. -/

section
variable {s : State} {ofs : Nat} {op : CoreOp}

theorem coreLocal_fault {al : Option Alloc} (h : coreReq ofs s.coreRel op = none ∨ al = none) : s.coreLocal al ofs op =
    some s.coreFault := by
  unfold State.coreLocal
  obtain h | h := h
  · rw [h]
    cases al with
    | none => rfl
    | some al => rfl
  · rw [h]

theorem coreLocal_waits {al : Alloc} {x : Nat × Nat × Nat × List Byte} (hr : coreReq ofs s.coreRel op = some x)
    (h : s.stackReady al ofs = false) : s.coreLocal (some al) ofs op = none := by
  unfold State.coreLocal
  rw [hr]
  exact if_pos (by simp [h])

/-- An access carried out at its home: what it gets back and what stays. -/
theorem coreLocal_done {al : Alloc} {t arg scope : Nat} {data : List Byte} {r : HomeAns}
    (hr : coreReq ofs s.coreRel op = some (t, arg, scope, data))
    (h : s.stackReady al ofs = true) (hra : r = s.homeDo al ⟨.core, ofs / 64 * 64,
      if t = ptRead then .readLine else if t = ptAtomic then .atomic (bits arg 0 4) true data else .writeLine arg data,
      if t = ptAtomic then 2 else 4, false, scope, false, 0, 0, 0, 0, [], s.now⟩) :
    ∃ u, s.coreLocal (some al) ofs op = some u ∧ u.dies = r.s.dies ∧ u.hbm = r.s.hbm ∧ u.sram = r.s.sram ∧
      u.coreAns = (r.s.coreData ofs (r.fin == .ok) r.data).coreAns := by
  have hd : ∀ b, (r.s.coreData ofs b r.data).dies = r.s.dies ∧ (r.s.coreData ofs b r.data).hbm = r.s.hbm ∧
      (r.s.coreData ofs b r.data).sram = r.s.sram := fun b => by
    unfold State.coreData State.coreFault
    split
    · exact ⟨rfl, rfl, rfl⟩
    · exact ⟨rfl, rfl, rfl⟩
  obtain ⟨h1, h2, h3⟩ := hd (r.fin == .ok)
  subst hra
  unfold State.coreLocal
  rw [hr]
  exact ⟨_, if_neg (by simp [h]), h1, h2, h3, rfl⟩

/-! Accesses to other nodes (R293, R298). -/

section
variable {win : Window}

theorem coreRemote_unsupported (h : coreReq ofs s.coreRel op = none) : s.coreRemote win ofs op = some s.coreFault := by
  unfold State.coreRemote
  rw [h]

variable {t arg scope : Nat} {data : List Byte} (hr : coreReq ofs s.coreRel op = some (t, arg, scope, data))
include hr

theorem coreRemote_eq : s.coreRemote win ofs op =
    if s.unreachable win.node then some s.coreFault
    else if s.fabric.reqs.any fun q => q.node == win.node && q.route != s.routeCode win.node then none
    else match s.queuePkt (s.mkPkt t 0 win.node (ofs / 64 * 64) 1 win.job (s.fabric.nextTxn % 2 ^ 32) 0 0 arg scope data) 16 s.now with
      | none => some s.coreFault
      | some s1 =>
        let s2 := s1.modFab fun f => { f with
          nextTxn := f.nextTxn + 1
          reqs := f.reqs ++ [⟨s.fabric.nextTxn % 2 ^ 32, .core, win.part, 0, win.node, ofs, t, s.routeCode win.node, s.now, false,
              false, none⟩] }
        some { s2 with coreRel := s2.coreRel && !coreStore op } := by
  unfold State.coreRemote
  rw [hr] <;> rfl

theorem coreRemote_unreachable (h : s.unreachable win.node = true) : s.coreRemote win ofs op = some s.coreFault :=
  (coreRemote_eq hr).trans (if_pos h)

theorem coreRemote_reroutes (h : s.unreachable win.node = false) (hq : ∃ q ∈ s.fabric.reqs, q.node = win.node ∧
    q.route ≠ s.routeCode win.node) :
    s.coreRemote win ofs op = none := by
  refine (coreRemote_eq hr).trans ((if_neg (by simp [h])).trans (if_pos ?_))
  obtain ⟨q, hq, h1, h2⟩ := hq
  exact List.any_eq_true.mpr ⟨q, hq, by simp [h1, h2]⟩

variable (h : s.unreachable win.node = false) (hq : ∀ q ∈ s.fabric.reqs, q.node = win.node → q.route = s.routeCode win.node)
include h hq

theorem coreRemote_pathless (ho : s.outPort (s.mkPkt t 0 win.node (ofs / 64 * 64) 1 win.job (s.fabric.nextTxn % 2 ^ 32) 0 0 arg
    scope data) 16 = none) :
    s.coreRemote win ofs op = some s.coreFault := by
  refine (coreRemote_eq hr).trans ((if_neg (by simp [h])).trans ((if_neg ?_).trans ?_))
  · simpa using hq
  · unfold State.queuePkt
    rw [ho]

theorem coreRemote_sends {port cls : Nat}
    (ho : s.outPort (s.mkPkt t 0 win.node (ofs / 64 * 64) 1 win.job (s.fabric.nextTxn % 2 ^ 32) 0 0 arg
    scope data) 16 = some (port, cls)) : s.coreRemote win ofs op =
      some { (s.modPort port fun x =>
          { x with out := x.out ++ [⟨{ s.mkPkt t 0 win.node (ofs / 64 * 64) 1 win.job (s.fabric.nextTxn % 2 ^ 32) 0 0 arg
        scope data with dclass := cls }, false, s.now⟩] }).modFab fun f => { f with
          nextTxn := f.nextTxn + 1
          reqs := f.reqs ++ [⟨s.fabric.nextTxn % 2 ^ 32, .core, win.part, 0, win.node, ofs, t, s.routeCode win.node, s.now, false,
              false, none⟩] } with
        coreRel := s.coreRel && !coreStore op } := by
  refine (coreRemote_eq hr).trans ((if_neg (by simp [h])).trans ((if_neg ?_).trans ?_))
  · simpa using hq
  · unfold State.queuePkt
    rw [ho] <;> rfl

end

end

/-! FENCE (R277). -/

theorem coreTry_fence (s : State) (w : CoreWin) (ofs a b : Nat) : s.coreTry w ofs (.fence a b) = s.coreFence a b := by
  cases w <;> rfl

/-- A FENCE's loads before it acquire: only the dies' scope counts change. -/
theorem passed_scopeTests (l : List (Nat × Nat × Nat)) : ∀ s : State,
    Passed s (l.foldl (fun s l => s.modDie l.1 fun x => scopeTest x (some l.2) .core 4 0) s) := by
  induction l with
  | nil => exact .refl
  | cons e l ih => exact fun s => (passed_modDie s _ _).trans (ih _)

/-- The earlier requests of the cores a FENCE waits for. -/
def fenceBusy (s : State) (a : Nat) : Bool :=
  bit a 2 && s.fabric.reqs.any (fun q => q.who == .core && decide (ptWrite ≤ q.ptype)) ||
    bit a 3 && s.fabric.reqs.any (fun q => q.who == .core && decide (q.ptype < ptWrite))

theorem fenceBusy_eq (s : State) (a : Nat) : fenceBusy s a =
    (bit a 2 && (s.fabric.reqs.any fun q => q.who == .core && decide (ptWrite ≤ q.ptype) == true) ||
      bit a 3 && s.fabric.reqs.any fun q => q.who == .core && decide (ptWrite ≤ q.ptype) == false) := by
  have h1 : (fun q : FabReq => q.who == Who.core && decide (ptWrite ≤ q.ptype) == true) =
      fun q => q.who == Who.core && decide (ptWrite ≤ q.ptype) := funext fun q => by simp
  have h2 : (fun q : FabReq => q.who == Who.core && decide (ptWrite ≤ q.ptype) == false) =
      fun q => q.who == Who.core && decide (q.ptype < ptWrite) := funext fun q => by
    refine congrArg (q.who == Who.core && ·) ?_
    by_cases h : ptWrite ≤ q.ptype
    · simp [h, Nat.not_lt.mpr h]
    · simp [h, Nat.not_le.mp h]
  rw [h1, h2]
  rfl

theorem coreFence_waits {s : State} {a : Nat} (b : Nat) (h : fenceBusy s a = true) : s.coreFence a b = none := by
  rw [fenceBusy_eq] at h
  exact if_pos h

theorem coreFence_passes {s : State} {a : Nat} (b : Nat) (h : fenceBusy s a = false) : ∃ u, s.coreFence a b = some u ∧ SameBytes s u ∧
    u.tiles = s.tiles ∧ u.coreRel = (s.coreRel || bit a 2 && bit a 0 && bit b 2 && bit b 0) := by
  rw [fenceBusy_eq] at h
  have hrun : s.coreFence a b = _ := if_neg (by rw [h]; exact Bool.false_ne_true)
  rw [hrun]
  dsimp only
  split
  · obtain ⟨_, _, hp⟩ := passed_scopeTests s.coreLoads s
    rw [hp]
    exact ⟨_, rfl, ⟨rfl, rfl, rfl, rfl⟩, rfl, rfl⟩
  · exact ⟨_, rfl, ⟨rfl, rfl, rfl, rfl⟩, rfl, rfl⟩

/-! The control space (R6, R12). -/

theorem coreAns_post (s : State) (p : Option Nat) (e src layer op detail : Nat) : (s.post p e src layer op detail).coreAns = s.coreAns := by
  obtain ⟨_, _, _, _, h⟩ := sampled_post s p e src layer op detail
  rw [h]

theorem coreAns_ite {c : Prop} [Decidable c] {v u s : State} (hv : v.coreAns = s.coreAns) (hu : u.coreAns = s.coreAns) :
    (if c then v else u).coreAns = s.coreAns := by
  split
  · exact hv
  · exact hu

theorem coreAns_modMon (s : State) (d m : Nat) (f : Monitor → Monitor) : (s.modMon d m f).coreAns = s.coreAns := coreAns_ite rfl rfl

theorem coreAns_afterRead (s : State) (off : Nat) : (s.afterRead off).coreAns = s.coreAns := by
  unfold State.afterRead
  dsimp only
  split
  · exact coreAns_ite (modPage_coreAns s _ _) (coreAns_ite (modPage_coreAns s _ _) (coreAns_ite (modDie_coreAns s _ _) rfl))
  split
  · exact modPower_coreAns s _
  split
  · split
    · exact coreAns_modMon s _ _ _
    · rfl
  exact coreAns_ite (coreAns_post s _ _ _ _ _ _) rfl

/-- A register read answers its value on the bits that are not reserved (R12). -/
theorem ctrlRead_answers (s : State) (off : Nat) : ∃ v, (s.ctrlRead off).coreAns = some ⟨v, false⟩ ∧
    ∀ i, i < 64 → bit (s.regRead off).2 i = false → v.getLsbD i = bit (s.regRead off).1 i := by
  refine ⟨_, coreAns_afterRead _ off, fun i hi hr => ?_⟩
  unfold bit at hr ⊢
  have hv : ∀ a b c : Nat, b.testBit i = false → (BitVec.ofNat 64 (a ||| (c &&& b))).getLsbD i = a.testBit i := fun a b c hb => by
    rw [BitVec.getLsbD_ofNat, Nat.testBit_or, Nat.testBit_and, hb, decide_eq_true hi]
    simp
  exact hv _ _ _ hr

theorem bytes_ctrlRead (s : State) (off : Nat) : SameBytes s (s.ctrlRead off) :=
  stores_eq_iff.mp (stores_answerRead fun v => stores_afterRead v off)

theorem coreAccess_controlFence {s : State} {ofs a b : Nat} : s.coreAccess .control ofs (.fence a b) =
    if s.coreWait.isEmpty then (s.coreFence a b).getD { s with coreWait := s.coreWait ++ [(.control, ofs, .fence a b)] }
    else { s with coreWait := s.coreWait ++ [(.control, ofs, .fence a b)] } := rfl

/-! Management messages (R308). -/

/-- Whether a node is in a join list of this module. -/
def listed (s : State) (node : Nat) : Bool :=
  s.parts.any fun p => match p.join with | some j => j.joinList.contains node | none => false

section
variable {s : State} {k : Nat} {x : InPkt} (h : Arrived s k x ptMgtMsg)
include h

theorem execMgtMsg_runs : execMgtMsg k s = .next (s.mgtIn k x) := congrArg Host.Outcome.next (onPacket_arrived h)

end

theorem mgtIn_eq (s : State) (k : Nat) (x : InPkt) : s.mgtIn k x =
    if !listed s x.pkt.src then (s.takePkt k x).refusePkt x.pkt rsNoJob
    else if 16 ≤ (s.fabric.mgtGot.filter fun q => q.1.src == x.pkt.src).length then (s.takePkt k x).refusePkt x.pkt rsQuota
    else (s.takePkt k x).modFab fun f => { f with mgtGot := f.mgtGot ++ [(x.pkt, some s.now)] } := rfl

theorem mgtGot_takePkt (s : State) (k : Nat) (x : InPkt) : (s.takePkt k x).fabric.mgtGot = s.fabric.mgtGot := by
  unfold State.takePkt State.returnCredits
  split
  · rfl
  · rfl

theorem mgtGot_inject (s : State) (p : Packet) : (s.inject p).fabric.mgtGot = s.fabric.mgtGot := by
  unfold State.inject
  split
  · rfl
  split
  · rfl
  unfold State.queuePkt
  split
  · rfl
  · rfl

/-! The throttle (R301). -/

theorem bit_or_two_pow (x n : Nat) : bit (x ||| 2 ^ n) n = true := by simp [bit]

theorem bit_cleared (x : Nat) : bit (x - (x &&& 2 ^ 18)) 18 = false := by
  unfold bit
  rw [Nat.and_two_pow]
  cases h : x.testBit 18 with
  | true =>
    rw [Nat.testBit_eq_decide_div_mod_eq, decide_eq_true_eq] at h
    rw [Nat.testBit_eq_decide_div_mod_eq, decide_eq_false_iff_not, Bool.toNat_true]
    omega
  | false => simpa using h

theorem getD_setThrot {l : List (Nat × Nat)} {p : Nat} (reason : Nat) (on : Bool) (h : p < l.length) :
    (setThrot l p reason on).getD p (0, 0) =
      if on then ((l.getD p (0, 0)).1 ||| 2 ^ reason, (l.getD p (0, 0)).2 ||| 2 ^ reason)
      else ((l.getD p (0, 0)).1 - ((l.getD p (0, 0)).1 &&& 2 ^ reason), (l.getD p (0, 0)).2) := by
  simp [setThrot, modAt, h]

section
variable {s : State} {t p : Nat} (ht : t < 384) (hp : s.partOfTile t = some p)
include ht hp

theorem execFabThrottle_runs : execFabThrottle t s = .next (if s.fabStuck t then
      s.modPower fun x => { x with throt := setThrot x.throt p thFabric true, fabThrotAt := x.fabThrotAt.set p (some s.now) }
    else match s.power.fabThrotAt.getD p none with
      | some at_ =>
        if at_ + 1000000 ≤ s.now then
          s.modPower fun x => { x with throt := setThrot x.throt p thFabric false, fabThrotAt := x.fabThrotAt.set p none }
        else s
      | none => s) := by
  refine (if_pos (decide_eq_true ht)).trans (congrArg Host.Outcome.next ?_)
  dsimp only
  unfold State.fabWait
  rw [hp] <;> rfl

theorem execFabThrottle_clear (hf : s.fabStuck t = false) (ha : s.power.fabThrotAt.getD p none = none) : execFabThrottle t s = .next s := by
  refine (execFabThrottle_runs ht hp).trans (congrArg Host.Outcome.next ((if_neg (by rw [hf]; exact Bool.false_ne_true)).trans ?_))
  rw [ha]

theorem execFabThrottle_held {at_ : Nat} (hf : s.fabStuck t = false) (ha : s.power.fabThrotAt.getD p none = some at_) :
    execFabThrottle t s = .next (if at_ + 1000000 ≤ s.now then
      s.modPower fun x => { x with throt := setThrot x.throt p thFabric false, fabThrotAt := x.fabThrotAt.set p none } else s) := by
  refine (execFabThrottle_runs ht hp).trans (congrArg Host.Outcome.next ((if_neg (by rw [hf]; exact Bool.false_ne_true)).trans ?_))
  rw [ha]

end

/-- Settles O45. -/
theorem windowsAndMessages : Obligations.WindowsAndMessages := by
  refine ⟨fun s w ofs op hok hw => ?_, fun s ofs hofs => ?_, fun s k x =>
      ⟨fun harr l hl => ⟨fun h1 h2 => ?_, fun h1 h2 => ?_, fun h1 => ?_⟩, fun harr => ?_⟩,
    fun s t p ht hp hlen hlen2 => ⟨fun hst => ?_, fun hst h0 => ?_, fun at_ hst h0 => ⟨fun hlt => ?_, fun hge => ?_⟩⟩⟩
  · intro ones home local_
    have hrun := execAccess_runs (s := s) (op := op) hok
    refine ⟨fun hne => hrun.trans (congrArg Host.Outcome.next (coreAccess_queues hw hne)), fun h0 hop => ⟨fun hd hwin => ?_, fun hbad => ?_,
      fun al t arg scope data hloc hal hreq => ⟨fun hr => ?_, fun r hr hra => ?_⟩, fun e t arg scope data pkt he hn hreq hpkt => ?_⟩,
      fun a b h0 hop busy hb => ⟨fun hbusy => ?_, fun hfree => ?_⟩⟩
    · exact hrun.trans (congrArg Host.Outcome.next (coreAccess_tries hw h0 (coreTry_unmapped hw hd hop hwin)))
    · refine hrun.trans (congrArg Host.Outcome.next (coreAccess_tries hw h0 ?_))
      by_cases hloc : Local s w
      · rw [coreTry_local hw hop hloc]
        exact coreLocal_fault (hbad.imp id And.right)
      · have hd : w ≠ .device := fun h => hloc (.inl h)
        have hreq : coreReq ofs s.coreRel op = none := hbad.resolve_right fun h => hloc h.1
        cases he : windowOf s w with
        | none => exact coreTry_unmapped hw hd hop he
        | some e =>
          rw [coreTry_remote hw hop he fun h => hloc (.inr ⟨e, he, h⟩)]
          exact coreRemote_unsupported hreq
    · refine hrun.trans (congrArg Host.Outcome.next (coreAccess_waits hw h0 ?_))
      rw [coreTry_local hw hop hloc, show homeOf s w ofs = some al from hal]
      exact coreLocal_waits hreq hr
    · obtain ⟨u, hu, hdies, hhbm, hsram, hans⟩ := coreLocal_done hreq hr hra
      have htry : s.coreTry w ofs op = some u := by
        rw [coreTry_local hw hop hloc, show homeOf s w ofs = some al from hal]
        exact hu
      have hserved : Served s r.s := hra ▸ served_homeDo s al _
      refine ⟨u, hrun.trans (congrArg Host.Outcome.next (coreAccess_tries hw h0 htry)), fun d key => ?_, hsram.trans hserved.sram,
        fun hok => hans.trans ?_, fun hok => hans.trans ?_⟩
      · unfold State.lineRead State.cached State.die
        rw [hdies, hhbm]
      · rw [hok]
        rfl
      · unfold State.coreData
        rw [if_neg (by simpa using hok)]
        rfl
    · subst hpkt
      have htry := coreTry_remote hw hop he hn (ofs := ofs)
      refine ⟨fun hun => ?_, fun hun hq => ?_, fun hun hq => ⟨fun ho => ?_, fun port cls ho hport => ?_⟩⟩
      · exact hrun.trans (congrArg Host.Outcome.next (coreAccess_tries hw h0 (htry.trans (coreRemote_unreachable hreq hun))))
      · exact hrun.trans (congrArg Host.Outcome.next (coreAccess_waits hw h0 (htry.trans (coreRemote_reroutes hreq hun hq))))
      · exact hrun.trans (congrArg Host.Outcome.next (coreAccess_tries hw h0 (htry.trans (coreRemote_pathless hreq hun hq ho))))
      · refine ⟨_, _, hrun.trans (congrArg Host.Outcome.next (coreAccess_tries hw h0 (htry.trans (coreRemote_sends hreq hun hq ho)))), ?_,
          rfl, rfl, rfl, rfl, rfl, rfl, rfl, rfl, rfl, ?_⟩
        · exact congrArg Port.out (Ports.port_modPort (fun x : Port => { x with out := x.out ++ [⟨_, false, s.now⟩] }) hport)
        · exact SameBytes.sameMemory ⟨rfl, rfl, rfl, rfl⟩
    · subst hop
      refine hrun.trans (congrArg Host.Outcome.next (coreAccess_waits hw h0 ?_))
      rw [coreTry_fence]
      exact coreFence_waits b (hb.symm.trans hbusy)
    · subst hop
      obtain ⟨u, hu, hbytes, htiles, hrel⟩ := coreFence_passes b (hb.symm.trans hfree : fenceBusy s a = false)
      exact ⟨u, hrun.trans (congrArg Host.Outcome.next (coreAccess_tries hw h0 ((coreTry_fence s w ofs a b).trans hu))), hbytes.sameMemory,
        htiles, hrel⟩
  · have hrun := fun op => execAccess_runs (s := s) (w := .control) (op := op) (ofs := ofs) (decide_eq_true hofs)
    refine ⟨fun acq => ?_, fun rel v => hrun _, fun rel mask v hm => ?_, fun op hop => ?_, fun a b => ⟨fun h => ?_, fun v h0 hv => ?_⟩⟩
    · obtain ⟨v, hv, hbits⟩ := ctrlRead_answers s (ofs / 8 * 8)
      exact ⟨_, v, hrun _, hv, (bytes_ctrlRead s _).sameMemory, hbits⟩
    · exact (hrun _).trans (congrArg Host.Outcome.next (if_neg hm))
    · obtain ⟨a, b, c, d, rfl⟩ | rfl := hop
      · exact hrun _
      · exact hrun _
    · refine (hrun _).trans (congrArg Host.Outcome.next (coreAccess_controlFence.trans ?_))
      by_cases h0 : s.coreWait = []
      · rw [if_pos (by simp [h0]), h.resolve_left (fun hc => hc h0), Option.getD_none]
      · exact if_neg (by simpa using h0)
    · refine (hrun _).trans (congrArg Host.Outcome.next (coreAccess_controlFence.trans ((if_pos (by simp [h0])).trans ?_)))
      rw [hv]
      rfl
  · refine ⟨_, (execMgtMsg_runs harr).trans (congrArg Host.Outcome.next ((mgtIn_eq s k x).trans ((if_neg ?_).trans (if_neg (by omega))))),
      takePkt_inbox s k x, congrArg (· ++ _) (mgtGot_takePkt s k x), ((bytes_takePkt s k x).trans (bytes_modFab _ _)).sameMemory⟩
    rw [show listed s x.pkt.src = true from hl.symm.trans h1]
    exact Bool.false_ne_true
  · obtain ⟨hmem, hrep⟩ := refused (s := s) (k := k) (x := x) rsQuota
    refine ⟨_, (execMgtMsg_runs harr).trans (congrArg Host.Outcome.next ((mgtIn_eq s k x).trans ((if_neg ?_).trans (if_pos h2)))),
      (mgtGot_inject _ _).trans (mgtGot_takePkt s k x), hmem, hrep⟩
    rw [show listed s x.pkt.src = true from hl.symm.trans h1]
    exact Bool.false_ne_true
  · obtain ⟨hmem, hrep⟩ := refused (s := s) (k := k) (x := x) rsNoJob
    refine ⟨_, (execMgtMsg_runs harr).trans (congrArg Host.Outcome.next ((mgtIn_eq s k x).trans (if_pos ?_))),
      (mgtGot_inject _ _).trans (mgtGot_takePkt s k x), hmem, hrep⟩
    rw [show listed s x.pkt.src = false from hl.symm.trans h1]
    rfl
  · exact ⟨_, congrArg Host.Outcome.next (onPacket_arrived harr), takePkt_inbox s k x, mgtGot_takePkt s k x,
      (bytes_takePkt s k x).sameMemory⟩
  · refine ⟨_, (execFabThrottle_runs ht hp).trans (congrArg Host.Outcome.next (if_pos hst)), ?_, ?_, ?_, rfl⟩
    · exact (congrArg (fun e : Nat × Nat => bit e.1 18) (getD_setThrot thFabric true hlen)).trans (bit_or_two_pow _ 18)
    · exact (congrArg (fun e : Nat × Nat => bit e.2 18) (getD_setThrot thFabric true hlen)).trans (bit_or_two_pow _ 18)
    · simp [State.modPower, hlen2]
  · exact execFabThrottle_clear ht hp hst h0
  · exact (execFabThrottle_held ht hp hst h0).trans (congrArg Host.Outcome.next (if_neg (by omega)))
  · refine ⟨_, (execFabThrottle_held ht hp hst h0).trans (congrArg Host.Outcome.next (if_pos hge)), ?_, ?_, rfl⟩
    · exact (congrArg (fun e : Nat × Nat => bit e.1 18) (getD_setThrot thFabric false hlen)).trans (bit_cleared _)
    · exact (congrArg Prod.snd (getD_setThrot thFabric false hlen)).trans rfl

end Sys2Proof.Proofs.Windows
end

section
/-! PROOFS. What the Capstan does with every message: the checks before its body, the state the body starts from, and what its
completion leaves. -/
namespace Sys2Proof.Proofs.Messages

open Sys2Proof Sys2Proof.Machine Sys2Proof.Laws Sys2Proof.Safety Sys2Proof.Proofs.Stores

/-- Each mailbox command is run by the Capstan, by its row of Table 14-7. -/
theorem exec_cmdOf {i : Instr} {c : Call} {x : CmdInfo} (h : cmdOf i = some (c, x)) :
    ∃ body, ∀ s, exec i s = .next (capstanRun i c x body s) := by
  cases i <;> cases h <;> exact ⟨_, fun _ => rfl⟩

/-! The checks before the body. -/

/-- A Capstan in recovery serves the session commands of HELLO, SYS_QUERY and the firmware only (R436). -/
theorem capstanRun_recovery {s : State} {c : Call} {x : CmdInfo} {self : Instr} {body : State → Answer} (hr : s.cap.run = .recovery)
    (h : x.code ∉ [0x0001, 0x0002, 0x0609, 0x060A] ∨ ∀ k, c.src ≠ .session k) : capstanRun self c x body s = s := by
  unfold capstanRun
  obtain h | h := h
  · have hno : [0x0001, 0x0002, 0x0609, 0x060A].contains x.code = false := by simpa using h
    simp only [hr, hno, Bool.false_and, Bool.not_false, Bool.true_or, ↓reduceIte]
  · cases hs : c.src with
    | session k => exact absurd hs (h k)
    | mbx n => simp only [hr, Bool.and_false, Bool.not_false, Bool.true_or, ↓reduceIte]
    | fabric n => simp only [hr, Bool.and_false, Bool.not_false, Bool.true_or, ↓reduceIte]

/-- A Capstan that restarts runs again with the first message it takes (R421). -/
theorem capstanRun_restarting {s : State} {c : Call} {x : CmdInfo} {self : Instr} {body : State → Answer} (hr : s.cap.run = .restarting)
    (hmsg : s.hasMsg c.src = true) (hturn : s.mayStart c.src = true) :
    capstanRun self c x body s = capstanRun self c x body (s.modCap fun k => { k with run := .running }) := by
  have hm : (s.modCap fun k => { k with run := .running }).hasMsg c.src = true := hmsg ▸ by cases c.src <;> rfl
  have ht : (s.modCap fun k => { k with run := .running }).mayStart c.src = true := by
    have hhand : (s.modCap fun k => { k with run := .running }).handAt c.src = s.handAt c.src := by cases c.src <;> rfl
    unfold State.mayStart at hturn ⊢
    rw [hhand]
    cases hh : s.handAt c.src with
    | none => rfl
    | some t =>
      rw [hh, hr] at hturn
      exact hturn
  have hrun : (s.modCap fun k => { k with run := .running }).cap.run = .running := rfl
  unfold capstanRun
  simp only [hr, hmsg, hturn, hm, ht, hrun, Bool.not_true, Bool.or_self, Bool.false_eq_true, ↓reduceIte, reduceCtorEq]

section
variable {s : State} {c : Call} {x : CmdInfo} {self : Instr} {body : State → Answer} (hrun : s.cap.run = .running)
  (hmsg : s.hasMsg c.src = true) (hturn : s.mayStart c.src = true) (hhead : headCheck (started s c) c x = none)
include hrun hmsg hturn hhead

/-- A TXN used for another request is refused (R426). -/
theorem capstanRun_otherTxn {e : TxnEnt} (he : (((started s c).txns c.src).find? fun e => e.txn == c.msg.txn) = some e)
    (h : e.hash ≠ c.msg.hash) : capstanRun self c x body s = (started s c).reply c x.code ((started s c).answer stTxn) := by
  unfold started at hhead he ⊢
  unfold capstanRun
  simp only [hrun, hmsg, hturn, Bool.not_true, Bool.or_self, Bool.false_eq_true, ↓reduceIte, reduceCtorEq, hhead, he, h, ne_eq,
    not_false_eq_true]

/-- A repeated command that changes state is answered as it was (R426). -/
theorem capstanRun_repeated {e : TxnEnt} (he : (((started s c).txns c.src).find? fun e => e.txn == c.msg.txn) = some e)
    (h : e.hash = c.msg.hash) (hx : x.change = true) :
    capstanRun self c x body s = (started s c).reply c x.code ⟨started s c, e.status, e.result, [], false⟩ := by
  unfold started at hhead he ⊢
  unfold capstanRun
  simp only [hrun, hmsg, hturn, Bool.not_true, Bool.or_self, Bool.false_eq_true, ↓reduceIte, reduceCtorEq, hhead, he, h, ne_eq,
    not_true_eq_false, hx]

theorem capstanRun_new (h : (((started s c).txns c.src).find? fun e => e.txn == c.msg.txn) = none) :
    capstanRun self c x body s = capstanRun.go self c x body (started s c) := by
  unfold started at hhead h ⊢
  unfold capstanRun
  simp only [hrun, hmsg, hturn, Bool.not_true, Bool.or_self, Bool.false_eq_true, ↓reduceIte, reduceCtorEq, hhead, h]

end

/-! A new message whose header and role are in order. -/

section
variable {b : State} {c : Call} {x : CmdInfo} {self : Instr} {body : State → Answer} (hrun : b.cap.run = .running)
  (hrole : roleCheck b c x = none)
include hrun hrole

theorem go_controllers (hx : x.mem = true) (h : b.engReady (Call.part c) = false) :
    capstanRun.go self c x body b = capstanRun.wait self b := by
  unfold capstanRun.go
  simp [hrun, hrole, hx, h]

section
variable (hmem : x.mem = false ∨ b.engReady (Call.part c) = true)
include hmem

theorem go_unsigned_frozen (h0 : c.msg.auth = 0) (hp : x.prog = true) (hf : (b.geode (Call.part c)).frozen = true) :
    capstanRun.go self c x body b = b.reply c x.code (b.answer stBusy) := by
  have hm : (x.mem && !b.engReady (Call.part c)) = false := by obtain h | h := hmem <;> simp [h]
  unfold capstanRun.go
  simp [hrun, hrole, hm, h0, hp, hf]

theorem go_unsigned_port (h0 : c.msg.auth = 0) (hp : x.prog = false ∨ (b.geode (Call.part c)).frozen = false) (hx : x.mram = true)
    (hi : b.mramIdle = false) : capstanRun.go self c x body b = capstanRun.wait self b := by
  have hm : (x.mem && !b.engReady (Call.part c)) = false := by obtain h | h := hmem <;> simp [h]
  have hf : (x.prog && (b.geode (Call.part c)).frozen) = false := by obtain h | h := hp <;> simp [h]
  unfold capstanRun.go
  simp [hrun, hrole, hm, h0, hf, hx, hi]

theorem go_unsigned (h0 : c.msg.auth ≠ 0) (ht : c.msg.trailer = none) :
    capstanRun.go self c x body b = b.reply c x.code (b.answer stAuth) := by
  have hm : (x.mem && !b.engReady (Call.part c)) = false := by obtain h | h := hmem <;> simp [h]
  unfold capstanRun.go
  simp [hrun, hrole, hm, h0, ht]

section
variable {tr : Trailer} (h0 : c.msg.auth ≠ 0) (ht : c.msg.trailer = some tr)
include h0 ht

theorem go_trailer_reserved (hr : tr.reserved ≠ 0) : capstanRun.go self c x body b = b.reply c x.code (b.answer stReserved) := by
  have hm : (x.mem && !b.engReady (Call.part c)) = false := by obtain h | h := hmem <;> simp [h]
  unfold capstanRun.go
  simp [hrun, hrole, hm, h0, ht, hr]

theorem go_trailer_unsound (hr : tr.reserved = 0) (hk : trailerOk b c tr = false) :
    capstanRun.go self c x body b = b.reply c x.code (b.answer stAuth) := by
  have hm : (x.mem && !b.engReady (Call.part c)) = false := by obtain h | h := hmem <;> simp [h]
  unfold capstanRun.go
  simp [hrun, hrole, hm, h0, ht, hr, hk]

theorem go_trailer_port (hr : tr.reserved = 0) (hk : trailerOk b c tr = true) (hi : b.mramIdle = false) :
    capstanRun.go self c x body b = capstanRun.wait self b := by
  have hm : (x.mem && !b.engReady (Call.part c)) = false := by obtain h | h := hmem <;> simp [h]
  unfold capstanRun.go
  simp [hrun, hrole, hm, h0, ht, hr, hk, hi]

end
end
end

theorem wait_eq (self : Instr) (b : State) : capstanRun.wait self b =
    if b.awaiting.contains self ∨ 8 ≤ b.awaiting.length then b else { b with awaiting := b.awaiting ++ [self] } := by
  unfold capstanRun.wait
  by_cases h : b.awaiting.contains self = true
  · rw [if_pos h, if_pos (.inl h)]
  · rw [if_neg h]
    by_cases h8 : 8 ≤ b.awaiting.length
    · rw [if_pos h8, if_pos (.inr h8)]
    · rw [if_neg h8, if_neg (by tauto)]

/-! What completion leaves. -/

theorem length_modMbx (s : State) (n : Nat) (f : Mailbox → Mailbox) : (s.modMbx n f).cap.mbx.length = s.cap.mbx.length := by
  simp [State.modMbx, State.modCap, modAt]

theorem complete_mbx_ne (s : State) {n m : Nat} (r : Reply) (h : m ≠ n) : (s.complete (.mbx n) r).mbx m = s.mbx m := by
  have := EventRing.mbx_modMbx_ne (s := s.carveWrite (s.mbxBuf n) (r.bytes.take 4096)) (fun m => { m with
    reply := some r, status := r.status, seqDone := m.seq, valid := true, owner := false, done := true }) h
  unfold State.complete
  dsimp only
  split
  · exact this
  · exact this

theorem complete_irq {s : State} {n : Nat} (r : Reply) (h : (s.mbx n).irqEn = true) :
    (s.complete (.mbx n) r).irqs.contains (32 + n / 16) = true := by
  unfold State.complete State.raiseIrq
  simp only [h, ↓reduceIte]
  split
  · assumption
  · simp

/-- A transaction entered is the last one, behind at most seven others (R426). -/
theorem addTxn_last (l : List TxnEnt) (e : TxnEnt) : ∃ k, addTxn l e = k ++ [e] ∧ k.length ≤ 7 := by
  unfold addTxn
  generalize l.filter (fun x => x.txn != e.txn) = f
  refine ⟨f.drop (f.length - 7), ?_, by simp; omega⟩
  dsimp only
  rw [List.length_append, List.length_singleton, show f.length + 1 - 8 = f.length - 7 from by omega,
      List.drop_append_of_le_length (by omega)]

/-- The source of a message is one the Capstan can answer: a mailbox there is, or an open session. -/
def Held (s : State) : Src → Prop
  | .mbx n => n < s.cap.mbx.length
  | .session k => (s.session k).isSome = true
  | .fabric _ => True

theorem session_modSession {s : State} {k : Nat} {y : Session} (f : Session → Session) (h : s.session k = some y) :
    (s.modSession k f).session k = some (f y) := by
  unfold State.session at h ⊢
  unfold State.modSession State.modCap modAt
  rw [List.getD_eq_getElem?_getD] at h ⊢
  rw [List.getElem?_modify]
  cases hk : s.cap.sessions[k]? with
  | none => rw [hk] at h; cases h
  | some o =>
    rw [hk] at h
    cases (h : o = some y)
    simp

/-- A completed message has its response (R420, R422). -/
theorem answered_done {c : Call} {x : CmdInfo} {a : Answer} (h : Held a.s c.src) :
    answered (done c x a) c a.status a.result a.payload := by
  refine ⟨⟨x.code, c.msg.txn, a.status, a.result, a.payload, c.msg.auth, c.msg.cflags, c.msg.partition⟩, rfl, rfl, rfl, rfl, ?_⟩
  unfold done State.reply
  cases hs : c.src with
  | mbx n =>
    rw [hs] at h
    obtain ⟨h1, h2, h3, h4, -⟩ := complete_mbx (s := a.s.putTxn ⟨c.msg.txn, c.msg.hash, x.code, a.status, a.result⟩ (.mbx n))
      (r := ⟨x.code, c.msg.txn, a.status, a.result, a.payload, c.msg.auth, c.msg.cflags, c.msg.partition⟩)
      ((length_modMbx _ _ _).symm ▸ h : n < _)
    exact ⟨h1, h2, h3, h4⟩
  | session k =>
    rw [hs] at h
    obtain ⟨y, hy⟩ := Option.isSome_iff_exists.mp (h : (a.s.session k).isSome = true)
    exact ⟨_, session_modSession _ (session_modSession _ hy), rfl⟩
  | fabric node => exact ⟨_, List.mem_append_right _ (List.mem_singleton.mpr rfl)⟩

/-- Settles O49: by the checks in their order, and by what completing a mailbox's message writes. -/
theorem messagesCompleted : Obligations.MessagesCompleted := by
  refine ⟨fun s b i c x hi hb => ?_, fun c x a n hsrc hn => ?_⟩
  · subst hb
    obtain ⟨body, hexec⟩ := exec_cmdOf hi
    have hnext := fun {v} (h : capstanRun i c x body s = v) => (hexec s).trans (congrArg Host.Outcome.next h)
    refine ⟨fun h => hnext (capstanRun_absent h), fun hr h => hnext (capstanRun_recovery hr h),
      fun hr hm ht => (hnext (capstanRun_restarting hr hm ht)).trans (hexec _).symm, fun hr hm ht =>
      ⟨fun st h => hnext (capstanRun_head hr hm ht h), fun hh => ⟨fun e he =>
        ⟨fun h => hnext (capstanRun_otherTxn hr hm ht hh he h), fun h hx => hnext (capstanRun_repeated hr hm ht hh he h hx)⟩,
        fun hf => ⟨fun st h => hnext (capstanRun_role hr hm ht hh hf h), fun hrole w hw => ?_⟩⟩⟩⟩
    have hr' : (started s c).cap.run = .running := (startMsg_run s c.src).trans hr
    have hgo := fun {v} (h : capstanRun.go i c x body (started s c) = v) => hnext ((capstanRun_new hr hm ht hh hf).trans h)
    have hwait : capstanRun.wait i (started s c) = w := (wait_eq i _).trans hw.symm
    exact ⟨fun hx h => hgo ((go_controllers hr' hrole hx h).trans hwait), fun hmem =>
      ⟨fun h0 hp hx hi => hgo ((go_unsigned_port hr' hrole hmem h0 hp hx hi).trans hwait),
        fun h0 hp hfz => hgo (go_unsigned_frozen hr' hrole hmem h0 hp hfz), fun h0 hn => hgo (go_unsigned hr' hrole hmem h0 hn),
        fun tr h0 htr => ⟨fun h => hgo (go_trailer_reserved hr' hrole hmem h0 htr h),
          fun h hk => hgo (go_trailer_unsound hr' hrole hmem h0 htr h hk),
          fun h hk hi => hgo ((go_trailer_port hr' hrole hmem h0 htr h hk hi).trans hwait)⟩⟩⟩
  · have hlen : n < (a.s.putTxn ⟨c.msg.txn, c.msg.hash, x.code, a.status, a.result⟩ (.mbx n)).cap.mbx.length :=
      (length_modMbx _ _ _).symm ▸ hn
    have hput : (a.s.putTxn ⟨c.msg.txn, c.msg.hash, x.code, a.status, a.result⟩ (.mbx n)).mbx n = { a.s.mbx n with
        table := addTxn (a.s.mbx n).table ⟨c.msg.txn, c.msg.hash, x.code, a.status, a.result⟩ } := EventRing.mbx_modMbx _ hn
    refine ⟨answered_done (hsrc ▸ hn), ?_⟩
    unfold done State.reply
    rw [hsrc]
    obtain ⟨-, -, -, -, hseq, hvalid, htable⟩ := complete_mbx hlen
      (r := ⟨x.code, c.msg.txn, a.status, a.result, a.payload, c.msg.auth, c.msg.cflags, c.msg.partition⟩)
    obtain ⟨l, hl, hl7⟩ := addTxn_last (a.s.mbx n).table ⟨c.msg.txn, c.msg.hash, x.code, a.status, a.result⟩
    refine ⟨hseq.trans (by rw [hput]), hvalid, ⟨l, htable.trans ((congrArg Mailbox.table hput).trans hl), hl7⟩, fun hen => ?_,
        fun m hm => ?_⟩
    · exact complete_irq _ ((congrArg Mailbox.irqEn hput).trans hen)
    · exact (complete_mbx_ne _ _ hm).trans (EventRing.mbx_modMbx_ne _ hm)

end Sys2Proof.Proofs.Messages
end

section
/-! PROOFS. The state a message's body starts from and the state its completion leaves, each as a record of what may differ, so
that the commands' own lemmas are about their bodies alone. -/
namespace Sys2Proof.Proofs.Answers

open Sys2Proof Sys2Proof.Machine Sys2Proof.Laws Sys2Proof.Safety Sys2Proof.Proofs.Stores Sys2Proof.Proofs.Messages

/-- What may differ once a message has started: the message's own records, the turn, the trailer's SEQ, and what a posted wait
leaves in monitors, event pages and interrupts. -/
structure Opening where
  mbx : List Mailbox
  sessions : List (Option Session)
  lastTurn : Nat
  lastMbx : List Nat
  keySeqs : List (Nat × Nat)
  mramSeqs : List (Nat × Nat)
  got : List (Packet × Option Nat)
  dies : List Die
  spineMons : List Monitor
  errs : List ErrPage
  irqs : List Nat

/-- s once a message has started. -/
abbrev opened (s : State) (o : Opening) : State :=
  { s with
    cap := { s.cap with mbx := o.mbx, sessions := o.sessions, lastTurn := o.lastTurn, lastMbx := o.lastMbx, keySeqs := o.keySeqs, mramSeqs := o.mramSeqs }
    fabric := { s.fabric with mgtGot := o.got }
    dies := o.dies, spineMons := o.spineMons, errs := o.errs, irqs := o.irqs }

/-- A die without its monitors. -/
def bare (x : Die) : Die := { x with mons := [] }

/-- The parts of an opening that keep their shape: as many mailboxes, the same sessions open, and dies that differ in
monitors only. -/
structure Fits (s : State) (o : Opening) : Prop where
  mbx : o.mbx.length = s.cap.mbx.length
  sessions : o.sessions.map Option.isSome = s.cap.sessions.map Option.isSome
  dies : o.dies.map bare = s.dies.map bare

/-- v is s, a message having started. -/
def Opened (s v : State) : Prop := ∃ o, v = opened s o ∧ Fits s o

theorem Opened.refl (s : State) : Opened s s :=
  ⟨⟨s.cap.mbx, s.cap.sessions, s.cap.lastTurn, s.cap.lastMbx, s.cap.keySeqs, s.cap.mramSeqs, s.fabric.mgtGot, s.dies, s.spineMons, s.errs,
    s.irqs⟩, rfl, rfl, rfl, rfl⟩

theorem Opened.trans {s v w : State} (h : Opened s v) (k : Opened v w) : Opened s w := by
  obtain ⟨_, rfl, h1, h2, h3⟩ := h
  obtain ⟨o, rfl, k1, k2, k3⟩ := k
  exact ⟨o, rfl, k1.trans h1, k2.trans h2, k3.trans h3⟩

theorem opened_modMbx (s : State) (n : Nat) (f : Mailbox → Mailbox) : Opened s (s.modMbx n f) :=
  ⟨⟨modAt s.cap.mbx n f, s.cap.sessions, s.cap.lastTurn, s.cap.lastMbx, s.cap.keySeqs, s.cap.mramSeqs, s.fabric.mgtGot, s.dies, s.spineMons,
    s.errs, s.irqs⟩, rfl, by simp [modAt], rfl, rfl⟩

/-- A part of every element that a change at one place keeps. -/
theorem map_modAt_keeps {α β : Type} {g : α → β} {f : α → α} (h : ∀ x, g (f x) = g x) (l : List α) (k : Nat) :
    (modAt l k f).map g = l.map g := by
  apply List.ext_getElem?
  intro i
  rw [List.getElem?_map, List.getElem?_map, modAt, List.getElem?_modify]
  cases l[i]? with
  | none => rfl
  | some x =>
    by_cases hk : k = i
    · simp [hk, h]
    · simp [hk]

theorem opened_modSession (s : State) (k : Nat) (f : Session → Session) : Opened s (s.modSession k f) :=
  ⟨⟨s.cap.mbx, modAt s.cap.sessions k fun o => o.map f, s.cap.lastTurn, s.cap.lastMbx, s.cap.keySeqs, s.cap.mramSeqs, s.fabric.mgtGot, s.dies,
    s.spineMons, s.errs, s.irqs⟩, rfl, rfl, map_modAt_keeps (fun x => by cases x <;> rfl) _ _, rfl⟩

theorem opened_clearHand (s : State) (src : Src) : Opened s (s.clearHand src) := by
  cases src with
  | mbx n => exact opened_modMbx s n _
  | session k => exact opened_modSession s k _
  | fabric node =>
    exact ⟨⟨s.cap.mbx, s.cap.sessions, s.cap.lastTurn, s.cap.lastMbx, s.cap.keySeqs, s.cap.mramSeqs, _, s.dies, s.spineMons, s.errs, s.irqs⟩,
      rfl, rfl, rfl, rfl⟩

/-! A Strata event. -/

theorem opened_sampled {s v : State} (h : Sampled s v) (hd : v.dies.map bare = s.dies.map bare) : Opened s v := by
  obtain ⟨d, m, e, q, rfl⟩ := h
  exact ⟨⟨s.cap.mbx, s.cap.sessions, s.cap.lastTurn, s.cap.lastMbx, s.cap.keySeqs, s.cap.mramSeqs, s.fabric.mgtGot, d, m, e, q⟩, rfl, rfl, rfl, hd⟩

theorem opened_modMon (s : State) (d m : Nat) (f : Monitor → Monitor) : Opened s (s.modMon d m f) := by
  refine opened_sampled (sampled_modMon s d m f) ?_
  unfold State.modMon
  split
  · rfl
  · exact map_modAt_keeps (g := bare) (f := fun x => { x with mons := modAt x.mons m f }) (fun _ => rfl) _ _

theorem opened_post (s : State) (p : Option Nat) (e src layer op detail : Nat) : Opened s (s.post p e src layer op detail) :=
  opened_sampled (sampled_post s p e src layer op detail) (by rw [RemoteFlags.dies_post])

theorem opened_sample (s : State) (d m raw : Nat) (force : Bool) : Opened s (s.sample d m raw force) := by
  unfold State.sample
  dsimp only
  split
  · exact (opened_modMon _ _ _ _).trans (opened_post _ _ _ _ _ _ _)
  · exact opened_modMon _ _ _ _

theorem opened_foldl {α : Type} {f : State → α → State} (h : ∀ s a, Opened s (f s a)) :
    ∀ (l : List α) (s : State), Opened s (l.foldl f s)
  | [], s => .refl s
  | a :: l, s => (h s a).trans (opened_foldl h l (f s a))

theorem opened_emit (s : State) (d source raw layer op a b inst : Nat) : Opened s (s.emit d source raw layer op a b inst) := by
  unfold State.emit State.sampleEvent
  split
  · exact .refl s
  · refine opened_foldl (fun v m => ?_) _ _
    split
    · split
      · exact opened_modMon _ _ _ _
      · exact opened_sample _ _ _ _ _
    · exact .refl v

theorem opened_emitAll (s : State) (source raw layer op inst : Nat) : Opened s (s.emitAll source raw layer op inst) :=
  opened_foldl (fun v d => opened_emit v d source raw layer op 0 0 inst) _ s

/-! The message's start, and the keeping of its trailer's SEQ. -/

theorem opened_startMsg (s : State) (src : Src) : Opened s (s.startMsg src) := by
  unfold State.startMsg
  cases s.handAt src with
  | none => exact .refl s
  | some t =>
    refine (opened_clearHand s src).trans (Opened.trans ?_ (opened_emitAll _ _ _ _ _ _))
    generalize s.clearHand src = v
    exact ⟨⟨v.cap.mbx, v.cap.sessions, (v.cap.taken src).lastTurn, (v.cap.taken src).lastMbx, v.cap.keySeqs, v.cap.mramSeqs, v.fabric.mgtGot,
      v.dies, v.spineMons, v.errs, v.irqs⟩, rfl, rfl, rfl, rfl⟩

theorem opened_acceptSeq (s : State) (auth key seq : Nat) : Opened s (s.acceptSeq auth key seq) := by
  unfold State.acceptSeq
  cases s.trailerKey auth key with
  | none => exact .refl s
  | some k =>
    exact ⟨⟨s.cap.mbx, s.cap.sessions, s.cap.lastTurn, s.cap.lastMbx, setSeq s.cap.keySeqs k seq, setSeq s.cap.mramSeqs k seq, s.fabric.mgtGot,
      s.dies, s.spineMons, s.errs, s.irqs⟩, rfl, rfl, rfl, rfl⟩

theorem opened_base (s : State) (c : Call) : Opened s (base s c) := by
  unfold base started
  split
  · split
    · exact opened_startMsg s c.src
    · exact (opened_startMsg s c.src).trans (opened_acceptSeq _ _ _ _)
  · exact opened_startMsg s c.src

theorem dies_base (s : State) (c : Call) : (base s c).dies = (started s c).dies := by
  unfold base
  split
  · split
    · rfl
    · unfold State.acceptSeq
      split <;> rfl
  · rfl

/-! A message that is there can be answered. -/

theorem held_of_lists {v w : State} {src : Src} (hm : w.cap.mbx.length = v.cap.mbx.length)
    (hs : w.cap.sessions.map Option.isSome = v.cap.sessions.map Option.isSome) (h : Held v src) : Held w src := by
  cases src with
  | mbx n => exact Nat.lt_of_lt_of_eq h hm.symm
  | session k =>
    have hk : ∀ s : State, (s.session k).isSome = (s.cap.sessions.map Option.isSome).getD k false := by
      intro s
      rw [State.session, List.getD_eq_getElem?_getD, List.getD_eq_getElem?_getD, List.getElem?_map]
      cases s.cap.sessions[k]? <;> rfl
    exact (hk w).trans ((congrArg (fun l => l.getD k false) hs).trans ((hk v).symm.trans h))
  | fabric node => trivial

theorem held_of_hasMsg {s : State} {src : Src} (h : s.hasMsg src = true) : Held s src := by
  cases src with
  | mbx n =>
    by_contra hge
    have hx : s.mbx n = Mailbox.init := by
      unfold State.mbx
      rw [List.getD_eq_default]
      exact Nat.le_of_not_lt hge
    have h' : (s.mbx n).owner = true := h
    rw [hx] at h'
    cases h'
  | session k => exact h
  | fabric node => trivial

/-! What completion may leave different. -/

/-- What completing a message writes: the message's own records, its response, and its interrupt. -/
structure Closing where
  mbx : List Mailbox
  sessions : List (Option Session)
  replies : List ((Nat × Nat) × Reply)
  got : List (Packet × Option Nat)
  hbm : List Host.Cell
  irqs : List Nat

/-- s once a message is complete. -/
abbrev closed (s : State) (k : Closing) : State :=
  { s with
    cap := { s.cap with mbx := k.mbx, sessions := k.sessions, fabReplies := k.replies }
    fabric := { s.fabric with mgtGot := k.got }
    hbm := k.hbm, irqs := k.irqs }

theorem closed_done (c : Call) (x : CmdInfo) (a : Answer) :
    ∃ k, done c x a = closed a.s k := by
  unfold done State.reply State.complete State.putTxn
  cases c.src with
  | mbx n =>
    dsimp only
    split
    · exact ⟨⟨_, a.s.cap.sessions, a.s.cap.fabReplies, a.s.fabric.mgtGot, _, _⟩, rfl⟩
    · exact ⟨⟨_, a.s.cap.sessions, a.s.cap.fabReplies, a.s.fabric.mgtGot, _, a.s.irqs⟩, rfl⟩
  | session k => exact ⟨⟨a.s.cap.mbx, _, a.s.cap.fabReplies, a.s.fabric.mgtGot, a.s.hbm, a.s.irqs⟩, rfl⟩
  | fabric node => exact ⟨⟨a.s.cap.mbx, a.s.cap.sessions, _, _, a.s.hbm, a.s.irqs⟩, rfl⟩

/-- Completing a message stores nothing but the response in its mailbox's buffer (R417). -/
theorem keeps_done (c : Call) (x : CmdInfo) (a : Answer) : keepsMemory a.s (done c x a) c.src := by
  unfold done State.reply
  exact keepsMemory_responds (.inr ⟨_, _, rfl, by cases c.src <;> exact ⟨rfl, rfl⟩⟩)

/-! The outcome of a message the Capstan takes. -/

/-- The body answers at once, and leaves the mailboxes and the sessions as they are. -/
structure Prompt (b : State) (a : Answer) : Prop where
  now : a.later = false
  mbx : a.s.cap.mbx = b.cap.mbx
  sessions : a.s.cap.sessions = b.cap.sessions

theorem held_base {s : State} {c : Call} {x : CmdInfo} (h : Accepts s c x) : Held (base s c) c.src := by
  obtain ⟨o, ho, hm, hs, -⟩ := opened_base s c
  rw [ho]
  exact held_of_lists hm hs (held_of_hasMsg h.msg)

section
variable {s : State} {i : Instr} {c : Call} {x : CmdInfo} {body : State → Answer} (hrun : ∀ s, exec i s = .next (capstanRun i c x body s))
  (hcmd : cmdOf i = some (c, x)) (ht : Taken s i c)
include hrun hcmd ht

theorem taken_runs : Accepts s c x ∧ exec i s =
    .next (if (body (base s c)).later then (body (base s c)).s else done c x (body (base s c))) := by
  obtain ⟨y, hy, hacc⟩ := ht
  obtain rfl : x = y := congrArg Prod.snd (Option.some.inj (hcmd.symm.trans hy))
  exact ⟨hacc, (hrun s).trans (congrArg Host.Outcome.next (capstanRun_accepts hacc))⟩

/-- A message the Capstan takes is complete with what its body answers. -/
theorem taken_done {a : Answer} (ha : body (base s c) = a) (hl : a.later = false) (hh : Held (base s c) c.src → Held a.s c.src) :
    exec i s = .next (done c x a) ∧ answered (done c x a) c a.status a.result a.payload := by
  obtain ⟨hacc, h⟩ := taken_runs hrun hcmd ht
  subst ha
  rw [if_neg (by rw [hl]; exact Bool.false_ne_true)] at h
  exact ⟨h, answered_done (hh (held_base hacc))⟩

/-- What a message whose body answers at once leaves: the body's state but for what its start and its completion write. -/
theorem taken_answers {a : Opening → Answer} (ha : ∀ o, Fits s o → base s c = opened s o → body (opened s o) = a o)
    (hp : ∀ o, Prompt (opened s o) (a o)) : ∃ o k, Fits s o ∧ base s c = opened s o ∧ exec i s = .next (closed (a o).s k) ∧
      answered (closed (a o).s k) c (a o).status (a o).result (a o).payload ∧ keepsMemory (a o).s (closed (a o).s k) c.src := by
  obtain ⟨o, ho, hf⟩ := opened_base s c
  obtain ⟨hnow, hmbx, hses⟩ := hp o
  obtain ⟨hex, hans⟩ := taken_done hrun hcmd ht ((congrArg body ho).trans (ha o hf ho)) hnow
    (held_of_lists (by rw [hmbx, ho]) (by rw [hses, ho]))
  obtain ⟨k, hk⟩ := closed_done c x (a o)
  have hmem := keeps_done c x (a o)
  rw [hk] at hex hans hmem
  exact ⟨o, k, hf, ho, hex, hans, hmem⟩

/-- A message whose body answers a status and nothing else is turned away. -/
theorem taken_refuses {st : Nat} (ha : ∀ o, Fits s o → base s c = opened s o → body (opened s o) = (opened s o).answer st) :
    turnedAway s i c st := by
  obtain ⟨o, k, -, ho, hex, hans, h1, h2, h3, h4⟩ := taken_answers hrun hcmd ht ha (fun _ => ⟨rfl, rfl, rfl⟩)
  exact ⟨_, hex, hans, rfl, (congrArg State.dies ho).symm.trans (dies_base s c), rfl, rfl, rfl, rfl, rfl, rfl, rfl, h1, h2, h3, h4⟩

end

end Sys2Proof.Proofs.Answers
end

section
/-! PROOFS. The system and security commands of the mailboxes. -/
namespace Sys2Proof.Proofs.SystemCommands

open Sys2Proof Sys2Proof.Machine Sys2Proof.Laws Sys2Proof.Safety Sys2Proof.Proofs.Stores Sys2Proof.Proofs.Messages
open Sys2Proof.Proofs.Answers

theorem prompt_ok {b v : State} (hm : v.cap.mbx = b.cap.mbx) (hs : v.cap.sessions = b.cap.sessions) : Prompt b v.ok := ⟨rfl, hm, hs⟩

/-! HELLO: the agreed version. -/

/-- A part of every mailbox that a change of one keeps. -/
theorem mbx_modMbx_keeps {α : Type} {g : Mailbox → α} {f : Mailbox → Mailbox} (h : ∀ x, g (f x) = g x) (s : State) (n m : Nat) :
    g ((s.modMbx n f).mbx m) = g (s.mbx m) := by
  unfold State.mbx State.modMbx State.modCap modAt
  simp only [List.getD_eq_getElem?_getD, List.getElem?_modify]
  cases s.cap.mbx[m]? with
  | none => rfl
  | some x =>
    by_cases hm : n = m
    · simp [hm, h]
    · simp [hm]

theorem session_modSession_keeps {α : Type} {g : Session → α} {f : Session → Session} (h : ∀ x, g (f x) = g x) (s : State) (k m : Nat) :
    ((s.modSession k f).session m).map g = (s.session m).map g := by
  unfold State.session State.modSession State.modCap modAt
  simp only [List.getD_eq_getElem?_getD, List.getElem?_modify]
  cases s.cap.sessions[m]? with
  | none => rfl
  | some x =>
    by_cases hm : k = m
    · cases x <;> simp [hm, h]
    · simp [hm]

/-- The version agreed with a session. -/
def agreed (o : Option Session) : Option (Nat × Nat) := (o.map Session.ver).getD none

theorem verOf_session (s : State) (k : Nat) : s.verOf (.session k) = agreed (s.session k) := by
  unfold agreed
  cases h : s.session k <;> simp [State.verOf, h]

theorem verOf_putTxn (s : State) (e : TxnEnt) (src : Src) : (s.putTxn e src).verOf src = s.verOf src := by
  cases src with
  | mbx n => exact mbx_modMbx_keeps (g := Mailbox.ver) (f := fun m => { m with table := addTxn m.table e }) (fun _ => rfl) s n n
  | session k =>
    rw [verOf_session, verOf_session]
    exact congrArg (fun o => Option.getD o none) (session_modSession_keeps (g := Session.ver)
      (f := fun x => { x with table := addTxn x.table e }) (fun _ => rfl) s k k)
  | fabric node => rfl

theorem verOf_complete (s : State) (src : Src) (r : Reply) : (s.complete src r).verOf src = s.verOf src := by
  cases src with
  | mbx n =>
    have h := mbx_modMbx_keeps (g := Mailbox.ver) (f := fun m => { m with
      reply := some r, status := r.status, seqDone := m.seq, valid := true, owner := false, done := true }) (fun _ => rfl)
      (s.carveWrite (s.mbxBuf n) (r.bytes.take 4096)) n n
    unfold State.complete
    dsimp only
    split
    · exact h
    · exact h
  | session k =>
    rw [verOf_session, verOf_session]
    exact congrArg (fun o => Option.getD o none) (session_modSession_keeps (g := Session.ver)
      (f := fun x => { x with reply := some r, last := s.now }) (fun _ => rfl) s k k)
  | fabric node => rfl

theorem verOf_done {c : Call} {x : CmdInfo} {a : Answer} : (done c x a).verOf c.src = a.s.verOf c.src := by
  unfold done State.reply
  exact (verOf_complete _ _ _).trans (verOf_putTxn _ _ _)

theorem opened_setVer (s : State) (v : Option (Nat × Nat)) (src : Src) : Opened s (s.setVer v src) := by
  cases src with
  | mbx n => exact opened_modMbx s n _
  | session k => exact opened_modSession s k _
  | fabric node => exact .refl s

theorem verOf_setVer {s : State} {src : Src} (v : Option (Nat × Nat)) (h : Held s src) (hf : ∀ n, src ≠ .fabric n) :
    (s.setVer v src).verOf src = v := by
  cases src with
  | mbx n => exact congrArg Mailbox.ver (EventRing.mbx_modMbx _ h)
  | session k =>
    obtain ⟨y, hy⟩ := Option.isSome_iff_exists.mp (h : (s.session k).isSome = true)
    rw [verOf_session]
    exact congrArg agreed (session_modSession _ hy)
  | fabric n => exact absurd rfl (hf n)

/-- What HELLO answers, and the version it leaves. -/
theorem hello_done {s : State} {c : Call} {major minor : Nat} (ht : Taken s (.hello c major minor) c) {a : Answer} {v : Option (Nat × Nat)}
    (ha : (if major = 0 then ((base s c).setVer none c.src).answer stVersion
      else { ((base s c).setVer (some (1, 0)) c.src).ok with result := 1 }) = a) (hs : a.s = (base s c).setVer v c.src) (hl :
          a.later = false) :
    ∃ u, exec (.hello c major minor) s = .next u ∧ answered u c a.status a.result a.payload ∧
      ((∀ n, c.src ≠ .fabric n) → u.verOf c.src = v) ∧ u.tiles = s.tiles ∧ keepsMemory s u c.src := by
  obtain ⟨o, ho, -⟩ := (opened_base s c).trans (hs ▸ opened_setVer (base s c) v c.src : Opened (base s c) a.s)
  have hheld := held_base (taken_runs (fun _ => rfl) rfl ht).1
  obtain ⟨w, hw, hm, hse, -⟩ := (hs ▸ opened_setVer (base s c) v c.src : Opened (base s c) a.s)
  obtain ⟨hex, hans⟩ := taken_done (fun _ => rfl) rfl ht ha hl (held_of_lists (by rw [hw]; exact hm) (by rw [hw]; exact hse))
  refine ⟨_, hex, hans, fun hf => verOf_done.trans (hs ▸ verOf_setVer v hheld hf), ?_, commandsAnswer.2.2.2 _ _ _ _ rfl rfl hex⟩
  obtain ⟨k, hk⟩ := closed_done c (cmdR 0x0001 .any) a
  rw [hk, ho]

/-! SYS_QUERY. -/

theorem die_opened {α : Type} {g : Die → α} {s : State} {o : Opening} (hg : ∀ x, g (bare x) = g x) (h : Fits s o) (d : Nat) :
    g ((opened s o).die d) = g (s.die d) := by
  have hd := congrArg (fun l => l[d]?) h.dies
  simp only [List.getElem?_map] at hd
  unfold State.die
  rw [List.getD_eq_getElem?_getD, List.getD_eq_getElem?_getD]
  dsimp only
  cases h1 : o.dies[d]? with
  | none =>
    rw [h1] at hd
    cases h2 : s.dies[d]? with
    | none => rfl
    | some y => rw [h2] at hd; cases hd
  | some x =>
    rw [h1] at hd
    cases h2 : s.dies[d]? with
    | none => rw [h2] at hd; cases hd
    | some y =>
      rw [h2] at hd
      exact (hg x).symm.trans ((congrArg g (Option.some.inj hd)).trans (hg y))

theorem diesUp_opened {s : State} {o : Opening} (h : Fits s o) (mask : Nat) : (opened s o).diesUp mask = s.diesUp mask := by
  unfold State.diesUp
  simp only [die_opened (g := Die.fenced) (fun _ => rfl) h]

/-! SYS_PARTITION. -/

/-- A die in no partition is gated (R430). -/
def gateOne (s : State) (r : Nat) : State :=
  if (s.partOfDie (r / 8)).isNone then s.modRegion r fun x => { x with awake := false, waking := false, released := false } else s

theorem gateOne_parts (s : State) (r : Nat) : (gateOne s r).parts = s.parts := by
  unfold gateOne
  split <;> rfl

theorem gateOne_regions (s : State) (r : Nat) : (gateOne s r).regions.length = s.regions.length := by
  unfold gateOne
  split
  · simp [State.modRegion, modAt]
  · rfl

theorem gate_only (l : List Nat) : ∀ s : State, ∃ regions, l.foldl gateOne s = { s with regions := regions } := by
  induction l with
  | nil => exact fun s => ⟨s.regions, rfl⟩
  | cons q l ih =>
    intro s
    obtain ⟨r, hr⟩ := ih (gateOne s q)
    refine ⟨r, hr.trans ?_⟩
    unfold gateOne
    split <;> rfl

theorem gateOne_off {s : State} {q r : Nat} (hr : r < s.regions.length) (hn : s.partOfDie (r / 8) = none)
    (h : q = r ∨ (s.region r).awake = false) : ((gateOne s q).region r).awake = false := by
  unfold gateOne
  by_cases hq : q = r
  · subst hq
    rw [hn]
    exact congrArg Region.awake (Cleat.region_modRegion _ hr)
  · split
    · exact (congrArg Region.awake (Cleat.region_modRegion_ne _ (Ne.symm hq))).trans (h.resolve_left hq)
    · exact h.resolve_left hq

theorem gate_off {r : Nat} (l : List Nat) : ∀ {s : State}, r < s.regions.length → s.partOfDie (r / 8) = none →
    (r ∈ l ∨ (s.region r).awake = false) → ((l.foldl gateOne s).region r).awake = false := by
  induction l with
  | nil => exact fun _ _ h => h.resolve_left (by simp)
  | cons q l ih =>
    intro s hr hn h
    have hn' : (gateOne s q).partOfDie (r / 8) = none := by rw [State.partOfDie, gateOne_parts]; exact hn
    refine ih (by rw [gateOne_regions]; exact hr) hn' ?_
    by_cases hq : q = r
    · exact .inr (gateOne_off hr hn (.inl hq))
    · obtain hm | ha := h
      · exact .inl ((List.mem_cons.mp hm).resolve_left (Ne.symm hq))
      · exact .inr (gateOne_off hr hn (.inr ha))

/-- s with new masks for its partitions. -/
def masked (s : State) (masks : List Nat) : State :=
  { s with parts := List.zipWith (fun (p : Part) m => { p with mask := m }) s.parts masks }

theorem gateFree_eq (v : State) : v.gateFree = { v with regions := v.gateFree.regions } := by
  obtain ⟨r, hr⟩ := gate_only (List.range 32) v
  have h : v.gateFree = { v with regions := r } := hr
  rw [h]

/-- Gating changes the regions alone, and after it no die without a partition has a region awake (R430). -/
theorem gateFree_gates : ∃ gf : State → List Region, ∀ v : State, v.gateFree = { v with regions := gf v } ∧
    ∀ r, r < v.regions.length → r < 32 → partOfDieGo (r / 8) 0 v.parts = none → ((gf v).getD r Region.init).awake = false :=
  ⟨fun v => v.gateFree.regions, fun v => ⟨gateFree_eq v, fun _ hr h32 hn => gate_off (List.range 32) hr hn (.inl (List.mem_range.mpr h32))⟩⟩

/-- New masks: each partition keeps its program. -/
theorem part_zip {s : State} {masks : List Nat} (hm : masks.length = 4) (hs : s.parts.length = 4) {p : Nat} (hp : p < 4) :
    (List.zipWith (fun (p : Part) m => { p with mask := m }) s.parts masks).getD p Part.init =
        { s.part p with mask := masks.getD p 0 } := by
  rw [State.part, List.getD_eq_getElem?_getD, List.getElem?_zipWith, List.getD_eq_getElem?_getD, List.getD_eq_getElem?_getD,
    List.getElem?_eq_getElem (by omega), List.getElem?_eq_getElem (by omega)]
  rfl

theorem sysPartition_takes {s : State} {c : Call} {masks : List Nat} (ht : Taken s (.sysPartition c masks) c) (hm : masks.length = 4)
    (ha : (masks.any fun m => 15 < m) = false) (hd : disjointMasks masks = true) (hs : s.parts.length = 4)
    (hb : ((List.range 4).any fun p => (s.part p).bound.isSome && (s.part p).mask != masks.getD p 0) = false) :
    ∃ u, exec (.sysPartition c masks) s = .next u ∧ answered u c stOk 0 [] ∧
      (∀ p, p < 4 → (u.part p).mask = masks.getD p 0 ∧ (u.part p).bound = (s.part p).bound) ∧
      ∀ r, r < 32 → r < s.regions.length → u.partOfDie (r / 8) = none → (u.region r).awake = false := by
  obtain ⟨gf, hgf⟩ := gateFree_gates
  obtain ⟨o, k, -, -, hex, hans, -⟩ :=
      taken_answers (a := fun o => State.ok { masked (opened s o) masks with regions := gf (masked (opened s o) masks) })
    (fun _ => rfl) rfl ht (fun o _ _ => (if_neg (not_not.mpr hm)).trans ((if_neg (by rw [ha, hd]; exact Bool.false_ne_true)).trans
      ((if_neg (by rw [Bool.not_eq_true]; exact hb)).trans (congrArg State.ok (hgf (masked (opened s o) masks)).1))))
    (fun o => prompt_ok rfl rfl)
  exact ⟨_, hex, hans, fun p hp => ⟨congrArg Part.mask (part_zip hm hs hp), (congrArg Part.bound (part_zip hm hs hp)).trans rfl⟩,
    fun q hq hlen hn => (hgf (masked (opened s o) masks)).2 q hlen hq hn⟩

/-! The security commands. -/

@[simp] theorem length_natLe : ∀ n v : Nat, (natLe n v).length = n
  | 0, _ => rfl
  | n + 1, v => congrArg (· + 1) (length_natLe n (v / 256))

theorem length_partRec (s : State) (p : Nat) (shown : Bool) : (s.partRec p shown).length = 64 := by
  unfold State.partRec
  split
  · simp only [List.length_append, length_natLe]
  · exact length_natLe _ _

theorem length_reportBody (s : State) (nonce : Nat) (shown : Nat → Bool) : (s.reportBody nonce shown).length = 512 := by
  unfold State.reportBody
  simp [length_partRec, List.range_succ]

theorem cap_post (s : State) (p : Option Nat) (e src layer op detail : Nat) : (s.post p e src layer op detail).cap = s.cap := by
  obtain ⟨_, _, _, _, h⟩ := sampled_post s p e src layer op detail
  rw [h]

theorem cap_slRefuse (s : State) (src : Option Src) (item : Nat) : (s.slRefuse src item).cap = s.cap := by
  unfold State.slRefuse
  exact cap_post _ _ _ _ _ _ _

theorem slWrite_same (n : Nat) : slWrite false n = .same := rfl
theorem slWrite_refused : slWrite true 0 = .refused := rfl
theorem slWrite_write {n : Nat} (h : 0 < n) : slWrite true n = .write :=
  (if_neg Bool.false_ne_true).trans (if_neg (by omega))

theorem secRevoke_takes {s : State} {c : Call} {lms : Bool} {slot e l : Nat} (ht : Taken s (.secRevoke c lms slot) c)
    (he : e = if lms then s.cap.revEcdsa else s.cap.revEcdsa ||| 2 ^ slot) (hl : l = if lms then s.cap.revLms ||| 2 ^ slot else
        s.cap.revLms)
    (h8 : slot < 8) (h : e = s.cap.revEcdsa ∧ l = s.cap.revLms ∨ s.revokeBusy e l = false) :
    ∃ u, exec (.secRevoke c lms slot) s = .next u ∧ answered u c stOk 0 [] ∧ u.cap.revEcdsa = e ∧ u.cap.revLms = l := by
  by_cases hsame : e = s.cap.revEcdsa ∧ l = s.cap.revLms
  · obtain ⟨o, k, -, -, hex, hans, -⟩ := taken_answers (a := fun o => (opened s o).ok) (fun _ => rfl) rfl ht (fun o _ _ =>
      (if_neg (by omega)).trans
          (if_pos (by subst he hl; rw [Bool.and_eq_true, decide_eq_true_iff, decide_eq_true_iff]; exact hsame))) (fun _ =>
          ⟨rfl, rfl, rfl⟩)
    exact ⟨_, hex, hans, hsame.1.symm, hsame.2.symm⟩
  · obtain ⟨o, k, -, -, hex, hans, -⟩ :=
      taken_answers (a := fun o => ((opened s o).slateChange 1 fun k => { k with revEcdsa := e, revLms := l }).ok)
      (fun _ => rfl) rfl ht (fun o _ _ => by
        subst he hl
        exact (if_neg (by omega)).trans
            ((if_neg (by rw [Bool.and_eq_true, decide_eq_true_iff, decide_eq_true_iff]; exact hsame)).trans
            (if_neg (by rw [Bool.not_eq_true]; exact h.resolve_left hsame))))
      (fun _ => ⟨rfl, rfl, rfl⟩)
    exact ⟨_, hex, hans, rfl, rfl⟩

theorem secRevoke_busy {s : State} {c : Call} {lms : Bool} {slot e l : Nat} (ht : Taken s (.secRevoke c lms slot) c)
    (he : e = if lms then s.cap.revEcdsa else s.cap.revEcdsa ||| 2 ^ slot) (hl : l = if lms then s.cap.revLms ||| 2 ^ slot else
        s.cap.revLms)
    (h8 : slot < 8) (hsame : ¬(e = s.cap.revEcdsa ∧ l = s.cap.revLms)) (h : s.revokeBusy e l = true) :
    turnedAway s (.secRevoke c lms slot) c stBusy :=
  taken_refuses (fun _ => rfl) rfl ht fun o _ _ => by
    subst he hl
    exact (if_neg (by omega)).trans ((if_neg (by rw [Bool.and_eq_true, decide_eq_true_iff, decide_eq_true_iff]; exact hsame)).trans
        (if_pos h))

theorem secDebugDisable_takes {s : State} {c : Call} (ht : Taken s (.secDebugDisable c) c) :
    ∃ u, exec (.secDebugDisable c) s = .next u ∧ answered u c stOk 0 [] ∧ u.cap.debugDisable = true := by
  by_cases h : s.cap.debugDisable = true
  · obtain ⟨o, k, -, -, hex, hans, -⟩ := taken_answers (fun _ => rfl) rfl ht (fun o _ _ => if_pos h) (fun _ => ⟨rfl, rfl, rfl⟩)
    exact ⟨_, hex, hans, h⟩
  · obtain ⟨o, k, -, -, hex, hans, -⟩ := taken_answers (fun _ => rfl) rfl ht (fun o _ _ => if_neg h) (fun _ => ⟨rfl, rfl, rfl⟩)
    exact ⟨_, hex, hans, rfl⟩

section
variable {s : State} {c : Call} {lock : Bool} {node : Nat} {new : Option Nat} (ht : Taken s (.secFabricLock c lock node) c)
  (hn : new = if lock then some (node % 65536) else none)
include ht hn

theorem secFabricLock_same (h : new = s.cap.fabLock) : ∃ u, exec (.secFabricLock c lock node) s = .next u ∧ answered u c stOk 0 [] ∧
    u.cap.fabLock = s.cap.fabLock ∧ u.cap.fabLockLeft = s.cap.fabLockLeft := by
  obtain ⟨o, k, -, -, hex, hans, -⟩ := taken_answers (a := fun o => (opened s o).ok) (fun _ => rfl) rfl ht (fun o _ _ => by
    dsimp only
    rw [← hn, decide_eq_false (not_not.mpr h)]
    rfl) (fun _ => ⟨rfl, rfl, rfl⟩)
  exact ⟨_, hex, hans, rfl, rfl⟩

theorem secFabricLock_refused (h : new ≠ s.cap.fabLock) (h0 : s.cap.fabLockLeft = 0) : ∃ u,
    exec (.secFabricLock c lock node) s = .next u ∧ answered u c stSlRefused 0 [] ∧ u.cap.fabLock = s.cap.fabLock := by
  obtain ⟨o, k, -, -, hex, hans, -⟩ := taken_answers (a := fun o => ((opened s o).slRefuse (some c.src) 3).answer stSlRefused)
    (fun _ => rfl) rfl ht (fun o _ _ => by
      dsimp only
      rw [← hn, decide_eq_true h, h0]
      rfl) (fun o => ⟨rfl, by rw [State.answer, cap_slRefuse], by rw [State.answer, cap_slRefuse]⟩)
  have hlock := congrArg Capstan.fabLock (cap_slRefuse (opened s o) (some c.src) 3)
  exact ⟨_, hex, hans, hlock⟩

theorem secFabricLock_takes (h : new ≠ s.cap.fabLock) (h0 : 0 < s.cap.fabLockLeft) : ∃ u, exec (.secFabricLock c lock node) s = .next u ∧
    answered u c stOk 0 [] ∧ u.cap.fabLock = new ∧ u.cap.fabLockLeft = s.cap.fabLockLeft - 1 := by
  obtain ⟨o, k, -, -, hex, hans, -⟩ := taken_answers (a := fun o => ((opened s o).slateChange 3 fun k =>
    { k with fabLock := new, fabLockLeft := k.fabLockLeft - 1 }).ok) (fun _ => rfl) rfl ht (fun o _ _ => by
      dsimp only
      rw [← hn, decide_eq_true h, slWrite_write h0]) (fun _ => ⟨rfl, rfl, rfl⟩)
  exact ⟨_, hex, hans, rfl, rfl⟩

end

theorem secFwWrite_takes {s : State} {c : Call} {ofs at_ : Nat} {data : List Byte} (ht : Taken s (.secFwWrite c ofs data) c)
    (ha : at_ = slotBase (1 - s.cap.boot.active) + ofs) (hd : data.length ≤ 3840) (hs : ofs + data.length ≤ slotSize)
    (hw : Safety.Memory.wf s = true) : ∃ u, exec (.secFwWrite c ofs data) s = .next u ∧ answered u c stOk 0 [] ∧
      cellsRead u.flash at_ data.length = data ∧ (∀ a, a < at_ ∨ at_ + data.length ≤ a → cellGet u.flash a = cellGet s.flash a) ∧
      u.sram = s.sram ∧ ∀ a, ¬inBuffer s c.src a → cellGet u.hbm a = cellGet s.hbm a := by
  obtain ⟨o, k, -, -, hex, hans, -, hhbm, -⟩ :=
      taken_answers (a := fun o => State.ok { opened s o with flash := cellsWrite s.flash at_ data })
    (fun _ => rfl) rfl ht (fun o _ _ => by subst ha; exact (if_neg (by omega)).trans (if_neg (by omega))) (fun _ => ⟨rfl, rfl, rfl⟩)
  obtain ⟨hsram, hbm, hflash, hamber⟩ := wf_parts.mp hw
  refine ⟨_, hex, hans, cellsRead_cellsWrite_self hflash, fun a hout => cellGet_cellsWrite_outside hflash hout, rfl, fun a hb => ?_⟩
  exact hhbm (wf_parts.mpr ⟨hsram, hbm, cellsWf_cellsWrite hflash, hamber⟩) a hb

theorem neither_none {α β : Type} {x : Option α} {y : Option β} (hx : x.isSome = true) (hy : y.isSome = true) :
    ¬(x.isNone || y.isNone) = true := by
  obtain ⟨a, rfl⟩ := Option.isSome_iff_exists.mp hx
  obtain ⟨b, rfl⟩ := Option.isSome_iff_exists.mp hy
  exact Bool.false_ne_true

/-- Settles O50, command by command. -/
theorem systemAndSecurityCommands : Obligations.SystemAndSecurityCommands := by
  intro s c
  refine ⟨fun major minor ht => ⟨fun hm => ?_, fun hm => ?_⟩, fun ht => ?_, fun masks ht =>
      ⟨fun h => ?_, fun h4 h => ?_, fun h4 ha hd hs hb => ?_⟩,
    fun gib ht => ⟨fun h => ?_, fun h1 h2 => ?_⟩, fun m a b ht => ?_, fun key ht => ?_, fun ht => ?_, fun nonce ht =>
        ⟨fun h => ?_, fun h => ?_⟩,
    fun piece ht => ?_, fun lms slot e l ht he hl => ⟨fun h => ?_, fun h hne hb => ?_, fun h hb => ?_, fun h h1 h2 => ?_⟩, fun ht => ?_,
    fun ht => ⟨fun h => ?_, fun h => ?_⟩, fun lock node new ht hn => ⟨fun h h0 => ?_, fun h h0 => ?_, fun h => ?_⟩,
    fun ofs data at_ ht ha => ⟨fun h => ?_, fun h h2 => ?_, fun h h2 hw => ?_⟩, fun slot ht hs => ⟨fun h => ?_, fun h1 h2 => ?_⟩,
        fun ht => ?_⟩
  · obtain ⟨u, hex, hans, hver, htiles, hkeep⟩ := hello_done ht (v := some (1, 0)) (if_neg hm) rfl rfl
    refine ⟨u, hex, hans, ?_, htiles, hkeep⟩
    cases hsrc : c.src with
    | fabric n => rfl
    | mbx n => exact hsrc ▸ hver (by simp [hsrc])
    | session k => exact hsrc ▸ hver (by simp [hsrc])
  · obtain ⟨u, -, -, hver, -⟩ := hello_done ht (v := none) (if_pos hm) rfl rfl
    exact ⟨u, fun h => hver h.2.2⟩
  · obtain ⟨o, k, hf, -, hex, hans, -⟩ := taken_answers (fun _ => rfl) rfl ht (fun o _ _ => rfl) (fun o => ⟨rfl, rfl, rfl⟩)
    refine ⟨_, hex, commandsAnswer.2.2.2 _ _ _ _ rfl rfl hex, rfl, fun mask r hm hr => ?_⟩
    subst hm hr
    rw [← diesUp_opened hf]
    exact hans
  · exact taken_refuses (fun _ => rfl) rfl ht fun o _ _ => if_pos h
  · refine taken_refuses (fun _ => rfl) rfl ht fun o _ _ => (if_neg (not_not.mpr h4)).trans (if_pos ?_)
    rw [Bool.or_eq_true, Bool.not_eq_true']
    exact h
  · exact sysPartition_takes ht h4 ha hd hs hb
  · exact taken_refuses (fun _ => rfl) rfl ht fun o _ _ => if_pos (by simpa using h)
  · obtain ⟨o, k, -, -, hex, hans, -⟩ := taken_answers (fun _ => rfl) rfl ht (fun o _ _ => if_neg (by simp; omega)) (fun _ =>
      ⟨rfl, rfl, rfl⟩)
    exact ⟨_, hex, hans, rfl, rfl, rfl⟩
  · obtain ⟨o, k, -, -, hex, hans, -⟩ := taken_answers (fun _ => rfl) rfl ht (fun o _ _ => rfl) (fun _ => ⟨rfl, rfl, rfl⟩)
    exact ⟨_, hex, hans, rfl, rfl, rfl⟩
  · obtain ⟨o, k, -, -, hex, hans, -⟩ := taken_answers (fun _ => rfl) rfl ht (fun o _ _ => rfl) (fun _ => ⟨rfl, rfl, rfl⟩)
    exact ⟨_, hex, hans, rfl⟩
  · obtain ⟨o, k, -, -, hex, hans, -⟩ := taken_answers (fun _ => rfl) rfl ht (fun o _ _ => rfl) (fun _ => ⟨rfl, rfl, rfl⟩)
    exact ⟨_, hex, hans, rfl⟩
  · exact taken_refuses (fun _ => rfl) rfl ht fun o _ _ => if_pos h
  · obtain ⟨o, k, -, -, hex, hans, -⟩ := taken_answers (fun _ => rfl) rfl ht (fun o _ _ => if_neg (Nat.not_le_of_lt h)) (fun _ =>
      ⟨rfl, rfl, rfl⟩)
    exact ⟨_, _, _, hex, rfl, length_reportBody s nonce _, rfl, hans, rfl⟩
  · obtain ⟨o, k, -, -, hex, hans, -⟩ := taken_answers (fun _ => rfl) rfl ht (fun o _ _ => rfl) (fun o => ⟨rfl, rfl, rfl⟩)
    exact ⟨_, hex, commandsAnswer.2.2.2 _ _ _ _ rfl rfl hex, hans⟩
  · exact taken_refuses (fun _ => rfl) rfl ht fun o _ _ => if_pos h
  · exact secRevoke_busy ht he hl h hne hb
  · exact secRevoke_takes ht he hl h (.inr hb)
  · exact secRevoke_takes ht he hl h (.inl ⟨h1, h2⟩)
  · exact secDebugDisable_takes ht
  · exact taken_refuses (fun _ => rfl) rfl ht fun o _ _ => if_pos h
  · obtain ⟨o, k, -, -, hex, hans, -⟩ := taken_answers (fun _ => rfl) rfl ht (fun o _ _ => if_neg (Bool.not_eq_true _ ▸ h))
      (fun _ => ⟨rfl, rfl, rfl⟩)
    exact ⟨_, hex, hans, rfl⟩
  · exact secFabricLock_takes ht hn h h0
  · exact secFabricLock_refused ht hn h h0
  · exact secFabricLock_same ht hn h
  · exact taken_refuses (fun _ => rfl) rfl ht fun o _ _ => if_pos h
  · exact taken_refuses (fun _ => rfl) rfl ht fun o _ _ => (if_neg (by omega)).trans (if_pos h2)
  · exact secFwWrite_takes ht ha h h2 hw
  · subst hs
    exact taken_refuses (fun _ => rfl) rfl ht fun o _ _ => if_pos (by rw [Bool.or_eq_true]; exact h)
  · subst hs
    obtain ⟨o, k, -, -, hex, hans, -⟩ := taken_answers (fun _ => rfl) rfl ht (fun o _ _ => if_neg (neither_none h1 h2))
      (fun _ => ⟨rfl, rfl, rfl⟩)
    exact ⟨_, hex, hans, rfl⟩
  · obtain ⟨o, k, -, -, hex, hans, -⟩ := taken_answers (fun _ => rfl) rfl ht (fun o _ _ => rfl) (fun _ => ⟨rfl, rfl, rfl⟩)
    exact ⟨_, hex, hans, rfl⟩

end Sys2Proof.Proofs.SystemCommands
end

section
/-! PROOFS. The memory commands of the mailboxes. -/
namespace Sys2Proof.Proofs.MemoryCommands

open Sys2Proof Sys2Proof.Machine Sys2Proof.Laws Sys2Proof.Safety Sys2Proof.Proofs.Stores Sys2Proof.Proofs.Messages
open Sys2Proof.Proofs.Answers Sys2Proof.Proofs.HomeFrame

/-- What a message leaves whose body answers from a state with the same mailboxes and sessions. -/
theorem taken_does {s v : State} {i : Instr} {c : Call} {x : CmdInfo} {body : State → Answer}
    (hrun : ∀ s, exec i s = .next (capstanRun i c x body s)) (hcmd : cmdOf i = some (c, x)) (ht : Taken s i c) {status : Nat} {result : W64}
    {payload : List Nat} (h : body (base s c) = ⟨v, status, result, payload, false⟩) (hm : v.cap.mbx = (base s c).cap.mbx)
    (hs : v.cap.sessions = (base s c).cap.sessions) :
    ∃ k, exec i s = .next (closed v k) ∧ answered (closed v k) c status result payload := by
  obtain ⟨hex, hans⟩ := taken_done hrun hcmd ht h rfl (held_of_lists (congrArg List.length hm) (congrArg (List.map Option.isSome) hs))
  obtain ⟨k, hk⟩ := closed_done c x ⟨v, status, result, payload, false⟩
  rw [hk] at hex hans
  exact ⟨k, hex, hans⟩

/-- A body that comes to an answer at once completes the message with it. -/
theorem taken_answer {s : State} {i : Instr} {c : Call} {x : CmdInfo} {body : State → Answer} {a : Answer}
    (hrun : ∀ s, exec i s = .next (capstanRun i c x body s)) (hcmd : cmdOf i = some (c, x)) (ht : Taken s i c)
    (h : body (base s c) = a) (hl : a.later = false) : exec i s = .next (done c x a) := by
  obtain ⟨-, hex⟩ := taken_runs hrun hcmd ht
  rw [h, hl] at hex
  exact hex

/-! Folds over dies. -/

theorem modDie_foldl_only (f : Die → Die) (l : List Nat) : ∀ s : State, ∃ dies, l.foldl (fun s d => s.modDie d f) s =
    { s with dies := dies } := by
  induction l with
  | nil => exact fun s => ⟨s.dies, rfl⟩
  | cons d l ih =>
    intro s
    obtain ⟨k, hk⟩ := ih (s.modDie d f)
    exact ⟨k, hk⟩

theorem modDie_foldl_keeps {α : Type} {g : Die → α} {f : Die → Die} (h : ∀ x, g (f x) = g x) (l : List Nat) (d : Nat) :
    ∀ s : State, g ((l.foldl (fun s d => s.modDie d f) s).die d) = g (s.die d) := by
  induction l with
  | nil => exact fun _ => rfl
  | cons e l ih => exact fun s => (ih _).trans (HomeServe.die_modDie_keeps h s e d)

/-- What a change sets holds of every die it was made on, however often. -/
theorem modDie_foldl_sets {α : Type} {g : Die → α} {f : Die → Die} {y : α} (h : ∀ x, g (f x) = y) (l : List Nat) {d : Nat} :
    ∀ {s : State}, d < s.dies.length → d ∈ l ∨ g (s.die d) = y → g ((l.foldl (fun s d => s.modDie d f) s).die d) = y := by
  induction l with
  | nil => exact fun _ h => h.resolve_left (by simp)
  | cons e l ih =>
    intro s hd hm
    refine ih (by simpa [State.modDie, modAt] using hd) ?_
    by_cases he : e = d
    · subst he
      exact .inr ((congrArg g (die_modDie f hd)).trans (h _))
    · obtain hm | hm := hm
      · exact .inl ((List.mem_cons.mp hm).resolve_left (Ne.symm he))
      · right
        rw [show (s.modDie e f).die d = s.die d from by simp [State.die, State.modDie, modAt, List.getD_eq_getElem?_getD, he]]
        exact hm

/-- MEM_HOLD and MEM_RELEASE set REPAIR_PENDING as given on the partition's dies (R361). -/
theorem setRepair_sets {s : State} {i : Instr} {c : Call} {x : CmdInfo} {on : Bool} (hrun : ∀ s, exec i s = .next (capstanRun i c x
    (fun s => (s.setRepair (Call.part c) on).ok) s)) (hcmd : cmdOf i = some (c, x)) (ht : Taken s i c) :
    ∃ u, exec i s = .next u ∧ answered u c stOk 0 [] ∧
      ∀ d, d ∈ s.diesOf (Call.part c) → d < s.dies.length → (u.die d).upd.repair = on ∧ (u.die d).upd.todo = (s.die d).upd.todo := by
  obtain ⟨o, ho, hf⟩ := opened_base s c
  obtain ⟨dies, hd⟩ := modDie_foldl_only (fun x => { x with upd := { x.upd with repair := on } }) (s.diesOf (Call.part c)) (opened s o)
  have hlen : s.dies.length = o.dies.length := by simpa using (congrArg List.length hf.dies).symm
  have hset := fun d (hm : d ∈ s.diesOf (Call.part c)) (h : d < s.dies.length) => modDie_foldl_sets (g := fun x => x.upd.repair)
    (f := fun x => { x with upd := { x.upd with repair := on } }) (y := on) (fun _ => rfl) (s.diesOf (Call.part c)) (s := opened s o)
    (Nat.lt_of_lt_of_eq h hlen) (.inl hm)
  have hkeep := fun d => (modDie_foldl_keeps (g := fun x => x.upd.todo) (f := fun x => { x with upd := { x.upd with repair := on } })
    (fun _ => rfl) (s.diesOf (Call.part c)) d (opened s o)).trans (SystemCommands.die_opened (g := fun x => x.upd.todo) (fun _ => rfl) hf d)
  rw [hd] at hset hkeep
  obtain ⟨k, hex, hans⟩ := taken_does (v := { opened s o with dies := dies }) hrun hcmd ht
    ((congrArg (fun v : State => (v.setRepair (Call.part c) on).ok) ho).trans (congrArg State.ok hd)) (by rw [ho]) (by rw [ho])
  exact ⟨_, hex, hans, fun d hm h => ⟨hset d hm h, hkeep d⟩⟩

/-! Reading memory. -/

theorem served_readLines (p agent : Nat) (ls : List Nat) (s : State) : Served s (s.readLines p agent ls).s := by
  have key : ∀ (ls : List Nat) (x : EngRead), Served x.s (ls.foldl (fun (x : EngRead) l =>
      let a : HomeAns := match x.s.allocAt p l with
        | none => ⟨x.s, .refused 1 0x20 l, [], none⟩
        | some al => x.s.homeDo al (engReq agent l .readLine false x.s.now)
      ⟨a.s, x.data ++ (if a.data.isEmpty then List.replicate 64 0 else a.data), x.bad <|> a.fin.cause⟩) x).s := by
    intro ls
    induction ls with
    | nil => exact fun x => .refl x.s
    | cons l ls ih =>
      intro x
      refine Served.trans ?_ (ih _)
      dsimp only
      cases x.s.allocAt p l with
      | none => exact .refl x.s
      | some al => exact served_homeDo x.s al _
  exact key ls ⟨s, [], none⟩

theorem served_plainRead (s : State) (p agent off n : Nat) : Served s (s.plainRead p agent off n).s := served_readLines p agent _ s

/-- MEM_CHECKSUM answers the sums (R359). -/
theorem memChecksum_sums {s s1 : State} {c : Call} {base0 blocks : Nat} {sums : List Nat} (ht : Taken s (.memChecksum c base0 blocks) c)
    (hb : base0 % 4096 = 0) (hr : s.runIn (Call.part c) base0 (4096 * blocks) = true)
    (hs : (base s c).checksums (Call.part c) base0 blocks = (s1, sums)) : ∃ u, exec (.memChecksum c base0 blocks) s = .next u ∧
      answered u c stOk 0 sums ∧ sums.length = (if blocks ≤ 16 then 18 else 17) ∧ u.sram = s.sram := by
  have hserved : Served (base s c) s1 := by
    have h := served_readLines (Call.part c) capAgent (linesOf base0 (4096 * blocks)) (base s c)
    have hfst : ((base s c).readLines (Call.part c) capAgent (linesOf base0 (4096 * blocks))).s = s1 := congrArg Prod.fst hs
    exact hfst ▸ h
  obtain ⟨_, _, _, _, _, _, _, _, _, hv⟩ := hserved
  obtain ⟨o, ho, -⟩ := opened_base s c
  have hrun : (base s c).runIn (Call.part c) base0 (4096 * blocks) = true := by rw [ho]; exact hr
  obtain ⟨k, hex, hans⟩ := taken_does (fun _ => rfl) rfl ht (v := s1) (status := stOk) (result := 0) (payload := sums) (by
    refine (if_neg (by rw [hb, hrun]; decide)).trans ?_
    rw [hs]
    rfl) (by rw [hv]) (by rw [hv])
  refine ⟨_, hex, hans, ?_, by rw [hv, ho]⟩
  rw [show sums = ((base s c).checksums (Call.part c) base0 blocks).2 from (congrArg Prod.snd hs).symm]
  unfold State.checksums
  split
  · simp
  · simp

/-- Whether the source of a fill lies in the partition's allocations. -/
def fillFrom (s : State) (p len : Nat) : FillSrc → Bool
  | .pattern _ => true
  | .offset o => s.runIn p o len

theorem runIn_opened (s : State) (o : Opening) (p off n : Nat) : (opened s o).runIn p off n = s.runIn p off n := rfl

theorem runIn_base (s : State) (c : Call) (p off n : Nat) : (base s c).runIn p off n = s.runIn p off n := by
  obtain ⟨o, ho, -⟩ := opened_base s c
  rw [ho, runIn_opened]

section
variable {s : State} {c : Call} {dst len : Nat} {src : FillSrc} (ht : Taken s (.memFill c dst len src) c)
include ht

theorem memFill_range (h : s.runIn (Call.part c) dst len = false ∨ ∃ o, src = .offset o ∧ s.runIn (Call.part c) o len = false) :
    turnedAway s (.memFill c dst len src) c stRange := by
  have hguard : (!s.runIn (Call.part c) dst len || !fillFrom s (Call.part c) len src) = true := by
    obtain h | ⟨a, rfl, h⟩ := h
    · rw [h]
      rfl
    · rw [fillFrom, h, Bool.not_false, Bool.or_true]
  exact taken_refuses (fun _ => rfl) rfl ht fun o _ _ => if_pos hguard

variable (hdst : s.runIn (Call.part c) dst len = true) (hsrc : ∀ o, src = .offset o → s.runIn (Call.part c) o len = true)
include hdst hsrc

omit ht in
/-- A fill whose runs are in order reads its source and writes. -/
theorem memFill_guard : ¬(!(base s c).runIn (Call.part c) dst len || !fillFrom (base s c) (Call.part c) len src) = true := by
  rw [runIn_base, hdst]
  cases src with
  | pattern w => exact Bool.false_ne_true
  | offset a =>
    rw [fillFrom, runIn_base, hsrc a rfl]
    exact Bool.false_ne_true

variable {s0 : State}

theorem memFill_unread (h : (base s c).fillBytes (Call.part c) len src = (s0, none)) :
    exec (.memFill c dst len src) s = .next (done c { cmdC 0x0103 .job with cflags := 1, mem := true } (s0.answer stResource)) := by
  refine taken_answer (fun _ => rfl) rfl ht ((if_neg (memFill_guard hdst hsrc)).trans ?_) rfl
  rw [h]

variable {data : List Byte} {s1 : State} (h : (base s c).fillBytes (Call.part c) len src = (s0, some data))
include h

theorem memFill_unwritten (hw : s0.memWrite (Call.part c) capAgent dst data = (s1, false)) :
    exec (.memFill c dst len src) s = .next (done c { cmdC 0x0103 .job with cflags := 1, mem := true } (s1.answer stResource)) := by
  refine taken_answer (fun _ => rfl) rfl ht ((if_neg (memFill_guard hdst hsrc)).trans ?_) rfl
  rw [h]
  dsimp only
  rw [hw]
  rfl

variable (hw : s0.memWrite (Call.part c) capAgent dst data = (s1, true))
include hw

theorem memFill_written (hbit : bit c.msg.cflags 0 = false) :
    exec (.memFill c dst len src) s = .next (done c { cmdC 0x0103 .job with cflags := 1, mem := true } s1.ok) := by
  refine taken_answer (fun _ => rfl) rfl ht ((if_neg (memFill_guard hdst hsrc)).trans ?_) rfl
  rw [h]
  dsimp only
  rw [hw, hbit]
  rfl

theorem memFill_repairs (hbit : bit c.msg.cflags 0 = true) {s2 : State} {count : Nat} (hc : s1.countOf (Call.part c) = (s2, count)) :
    exec (.memFill c dst len src) s = .next (done c { cmdC 0x0103 .job with cflags := 1, mem := true }
      ((s2.noteRepair (Call.part c) dst len).log 0x000A (Call.part c) [dst, s2.nodeId.getD 0xFFFF, count]).ok) := by
  refine taken_answer (fun _ => rfl) rfl ht ((if_neg (memFill_guard hdst hsrc)).trans ?_) rfl
  rw [h]
  dsimp only
  rw [hw, hbit]
  dsimp only
  rw [hc]
  rfl

end

end Sys2Proof.Proofs.MemoryCommands
end

section
/-! PROOFS. The program commands of the mailboxes. -/
namespace Sys2Proof.Proofs.ProgramCommands

open Sys2Proof Sys2Proof.Machine Sys2Proof.Laws Sys2Proof.Safety Sys2Proof.Proofs.Stores Sys2Proof.Proofs.Messages
open Sys2Proof.Proofs.Answers Sys2Proof.Proofs.MemoryCommands Sys2Proof.Proofs.HomeFrame

theorem part_modPart {s : State} {p : Nat} (f : Part → Part) (h : p < s.parts.length) : (s.modPart p f).part p = f (s.part p) := by
  simp [State.part, State.modPart, modAt, List.getD_eq_getElem?_getD, List.getElem?_eq_getElem h]

theorem part_congr {v w : State} (h : v.parts = w.parts) (p : Nat) : v.part p = w.part p := by
  unfold State.part
  rw [h]

theorem geode_modGeode {s : State} {p : Nat} (f : Geode → Geode) (h : p < s.geodes.length) : (s.modGeode p f).geode p = f (s.geode p) := by
  simp [State.geode, State.modGeode, modAt, List.getD_eq_getElem?_getD, List.getElem?_eq_getElem h]

/-! A message that stays with the Capstan. -/

theorem hasMsg_of_lists {v w : State} {src : Src} (hm : w.cap.mbx = v.cap.mbx) (hs : w.cap.sessions = v.cap.sessions)
    (hg : w.fabric.mgtGot = v.fabric.mgtGot) (h : v.hasMsg src = true) : w.hasMsg src = true := by
  cases src with
  | mbx n => exact (congrArg (fun l => (l.getD n Mailbox.init).owner) hm).trans h
  | session k => exact (congrArg (fun l => (l.getD k none).isSome) hs).trans h
  | fabric node => exact (congrArg (fun l => l.any fun q => q.1.src == node) hg).trans h

theorem any_markStarted (node : Nat) : ∀ l : List (Packet × Option Nat),
    ((markStarted node l).any fun q => q.1.src == node) = l.any fun q => q.1.src == node
  | [] => rfl
  | p :: l => by
    unfold markStarted
    by_cases h : p.1.src = node
    · rw [if_pos h]
      simp [h]
    · rw [if_neg h]
      simp only [List.any_cons, any_markStarted node l]

theorem hasMsg_clearHand {s : State} {src : Src} (h : s.hasMsg src = true) : (s.clearHand src).hasMsg src = true := by
  cases src with
  | mbx n => exact (SystemCommands.mbx_modMbx_keeps (g := Mailbox.owner) (f := fun m => { m with handAt := none }) (fun _ => rfl) s n n).trans h
  | session k =>
    obtain ⟨y, hy⟩ := Option.isSome_iff_exists.mp (h : (s.session k).isSome = true)
    exact congrArg Option.isSome (session_modSession (fun x => { x with handAt := none }) hy)
  | fabric node => exact (any_markStarted node s.fabric.mgtGot).trans h

theorem hasMsg_startMsg {s : State} {src : Src} (h : s.hasMsg src = true) : (s.startMsg src).hasMsg src = true := by
  unfold State.startMsg
  cases s.handAt src with
  | none => exact h
  | some t =>
    obtain ⟨_, _, _, _, hv⟩ := sampled_emitAll ((s.clearHand src).modCap fun c => c.taken src) srcMgtWait (s.now - t) 0 0 0
    dsimp only
    rw [hv]
    exact hasMsg_of_lists rfl rfl rfl (hasMsg_clearHand h)

theorem hasMsg_base {s : State} {c : Call} (h : s.hasMsg c.src = true) : (base s c).hasMsg c.src = true := by
  have hstart : (started s c).hasMsg c.src = true := hasMsg_startMsg h
  unfold base
  split
  · split
    · exact hstart
    · unfold State.acceptSeq
      split
      · exact hstart
      · exact hasMsg_of_lists rfl rfl rfl hstart
  · exact hstart

/-! Folds over tiles. -/

theorem modTile_foldl_only (f : State → Nat → Tile → Tile) (l : List Nat) :
    ∀ s : State, ∃ tiles, l.foldl (fun s t => s.modTile t (f s t)) s = { s with tiles := tiles } := by
  induction l with
  | nil => exact fun s => ⟨s.tiles, rfl⟩
  | cons t l ih =>
    intro s
    obtain ⟨k, hk⟩ := ih (s.modTile t (f s t))
    exact ⟨k, hk⟩

/-- What a change makes of a tile with Q holds of every tile it was made on, where it keeps Q. -/
theorem modTile_foldl_sets {f : State → Nat → Tile → Tile} {P Q : Tile → Prop} (hPQ : ∀ x, P x → Q x) (h : ∀ s k x, Q x → P (f s k x))
    (l : List Nat) {t : Nat} : ∀ {s : State}, t < s.tiles.length → Q (s.tile t) → t ∈ l ∨ P (s.tile t) →
    P ((l.foldl (fun s k => s.modTile k (f s k)) s).tile t) := by
  induction l with
  | nil => exact fun _ _ h => h.resolve_left (by simp)
  | cons e l ih =>
    intro s ht hq hm
    have hlen : t < (s.modTile e (f s e)).tiles.length := by simpa [State.modTile, modAt] using ht
    by_cases he : e = t
    · subst he
      have hp : P ((s.modTile e (f s e)).tile e) := by
        rw [tile_modTile _ ht]
        exact h _ _ _ hq
      exact ih hlen (hPQ _ hp) (.inr hp)
    · have hsame : (s.modTile e (f s e)).tile t = s.tile t := tile_modTile_ne _ he
      refine ih hlen (hsame ▸ hq) ?_
      obtain hm | hm := hm
      · exact .inl ((List.mem_cons.mp hm).resolve_left (Ne.symm he))
      · exact .inr (hsame ▸ hm)

/-! What planned power steps change. -/

theorem planned_only (s : State) : ∃ power, s.planned = { s with power := power } := by
  unfold State.planned
  split
  · exact ⟨_, rfl⟩
  · exact ⟨s.power, rfl⟩

theorem plannedStop_only (s : State) (p : Nat) : ∃ power, s.plannedStop p = { s with power := power } := by
  unfold State.plannedStop
  split
  · obtain ⟨power, h⟩ := planned_only s
    rw [h]
    exact ⟨_, rfl⟩
  · exact ⟨s.power, rfl⟩

/-! PROG_LOAD. -/

section
variable {s : State} {c : Call} {ofs size key : Nat} {sign : Option Nat} {r : EngRead} (ht : Taken s (.progLoad c ofs size sign key) c)
  (hk : key < 4) (hi : (s.part (Call.part c)).images.length < 2) (hrun : s.runIn (Call.part c) ofs size = true)
  (hr : r = (base s c).plainRead (Call.part c) capAgent ofs size)

theorem part_base (s : State) (c : Call) (p : Nat) : (base s c).part p = s.part p := by
  obtain ⟨o, ho, -⟩ := opened_base s c
  rw [ho]
  rfl

include ht hk hi hrun hr

theorem progLoad_unread (hb : r.bad ≠ none) : ∃ u, exec (.progLoad c ofs size sign key) s = .next u ∧ answered u c stResource 0 [] ∧
    u.parts = s.parts := by
  obtain ⟨o, ho, -⟩ := opened_base s c
  obtain ⟨_, _, _, _, _, _, _, _, _, hv⟩ := hr ▸ served_plainRead (base s c) (Call.part c) capAgent ofs size
  obtain ⟨k, hex, hans⟩ := taken_does (fun _ => rfl) rfl ht (v := r.s) (status := stResource) (result := 0) (payload := [])
    ((if_neg (by omega)).trans ((if_neg (by rw [part_base]; omega)).trans ((if_neg (by rw [runIn_base, hrun]; decide)).trans
      ((if_pos (by rw [← hr, Option.isSome_iff_ne_none]; exact hb)).trans (by rw [← hr]; rfl))))) (by rw [hv]) (by rw [hv])
  exact ⟨_, hex, hans, by rw [hv, ho]⟩

variable (hb : r.bad = none)
include hb

theorem progLoad_fails {e : LErr} (hc : r.s.loadCheck (Call.part c) size (imgOf r.data) sign key = some e) :
    ∃ u, exec (.progLoad c ofs size sign key) s = .next u ∧ answered u c e.status e.result [] ∧ u.parts = s.parts := by
  obtain ⟨o, ho, -⟩ := opened_base s c
  obtain ⟨_, _, _, _, _, _, _, _, _, hv⟩ := hr ▸ served_plainRead (base s c) (Call.part c) capAgent ofs size
  obtain ⟨k, hex, hans⟩ := taken_does (fun _ => rfl) rfl ht (v := r.s) (status := e.status) (result := e.result) (payload := [])
    ((if_neg (by omega)).trans ((if_neg (by rw [part_base]; omega)).trans ((if_neg (by rw [runIn_base, hrun]; decide)).trans
      ((if_neg (by rw [← hr, hb]; decide)).trans (by rw [← hr]; dsimp only; rw [hc] <;> rfl))))) (by rw [hv]) (by rw [hv])
  exact ⟨_, hex, hans, by rw [hv, ho]⟩

theorem progLoad_keeps (hp : Call.part c < s.parts.length) (hc : r.s.loadCheck (Call.part c) size (imgOf r.data) sign key = none) :
    ∃ u, exec (.progLoad c ofs size sign key) s = .next u ∧ answered u c stOk (BitVec.ofNat 64 (s.part (Call.part c)).nextHandle) [] ∧
      (u.part (Call.part c)).images = (s.part (Call.part c)).images ++ [(imgOf r.data).image (s.part (Call.part c)).nextHandle] ∧
      (u.part (Call.part c)).nextHandle = (s.part (Call.part c)).nextHandle + 1 ∧
      (u.part (Call.part c)).bound = (s.part (Call.part c)).bound ∧ u.sram = s.sram := by
  obtain ⟨o, ho, -⟩ := opened_base s c
  obtain ⟨_, _, _, _, _, _, _, _, _, hv⟩ := hr ▸ served_plainRead (base s c) (Call.part c) capAgent ofs size
  have hparts : r.s.parts = s.parts := by rw [hv, ho]
  have hpart : (r.s.modPart (Call.part c) fun x => { x with
      images := x.images ++ [(imgOf r.data).image x.nextHandle], nextHandle := x.nextHandle + 1 }).part (Call.part c) =
      { s.part (Call.part c) with
        images := (s.part (Call.part c)).images ++ [(imgOf r.data).image (s.part (Call.part c)).nextHandle]
        nextHandle := (s.part (Call.part c)).nextHandle + 1 } := by
    rw [part_modPart _ (hparts ▸ hp), part_congr hparts (Call.part c)]
  obtain ⟨k, hex, hans⟩ := taken_does (fun _ => rfl) rfl ht (v := r.s.modPart (Call.part c) fun x => { x with
      images := x.images ++ [(imgOf r.data).image x.nextHandle], nextHandle := x.nextHandle + 1 }) (status := stOk)
    (result := BitVec.ofNat 64 (s.part (Call.part c)).nextHandle) (payload := [])
    ((if_neg (by omega)).trans ((if_neg (by rw [part_base]; omega)).trans ((if_neg (by rw [runIn_base, hrun]; decide)).trans
      ((if_neg (by rw [← hr, hb]; decide)).trans (by rw [← hr]; dsimp only; rw [hc, part_base] <;> rfl))))) (by rw [modPart_cap, hv]) (by rw [modPart_cap, hv])
  exact ⟨_, hex, hans, congrArg Part.images hpart, congrArg Part.nextHandle hpart, (congrArg Part.bound hpart).trans rfl, by
    show r.s.sram = s.sram
    rw [hv, ho]⟩

end

/-! PROG_BIND. -/

/-- What binding an image writes beside the partition's own record. -/
def Bound (s v : State) : Prop := ∃ tiles sram sramBad dies spineMons geodes power, v = { s with
  tiles := tiles, sram := sram, sramBad := sramBad, dies := dies, spineMons := spineMons, geodes := geodes, power := power }

theorem Bound.refl (s : State) : Bound s s := ⟨_, _, _, _, _, _, _, rfl⟩

theorem Bound.trans {s v w : State} (h : Bound s v) (k : Bound v w) : Bound s w := by
  obtain ⟨_, _, _, _, _, _, _, rfl⟩ := h
  obtain ⟨_, _, _, _, _, _, _, rfl⟩ := k
  exact ⟨_, _, _, _, _, _, _, rfl⟩

theorem bound_foldl {α : Type} {f : State → α → State} (h : ∀ s a, Bound s (f s a)) : ∀ (l : List α) (s : State), Bound s (l.foldl f s)
  | [], s => .refl s
  | a :: l, s => (h s a).trans (bound_foldl h l (f s a))

theorem bound_bindTile (s : State) (im : Image) (t : Nat) : Bound s (s.bindTile im t) := by
  have hmod : Bound s (s.modTile t fun x => x.bind im (im.tiles.find? fun x => x.tile == t)) := ⟨_, _, _, _, _, _, _, rfl⟩
  unfold State.bindTile
  dsimp only
  split
  · exact hmod.trans (bound_foldl (fun v g => ⟨_, _, _, _, _, _, _, rfl⟩) _ _)
  · exact hmod

theorem bound_bindRef (s : State) (r : ShadowRef) : Bound s (s.bindRef r) := by
  unfold State.bindRef State.modMon
  split <;> exact ⟨_, _, _, _, _, _, _, rfl⟩

theorem bound_planned (s : State) : Bound s s.planned := by
  obtain ⟨power, h⟩ := planned_only s
  rw [h]
  exact ⟨_, _, _, _, _, _, _, rfl⟩

/-- A bind writes the partition's record, and tiles, dies, monitors, the dump controller and the wake queue. -/
theorem bindImage_only (s : State) (p : Nat) (im : Image) (seed : Nat) : ∃ w, Bound s w ∧
    Bound (w.modPart p fun x => { x with bound := some im, seed := seed, launched := false }) (s.bindImage p im seed) := by
  unfold State.bindImage
  dsimp only
  refine ⟨_, ?_, Bound.trans ⟨_, _, _, _, _, _, _, rfl⟩ (bound_planned _)⟩
  exact (bound_foldl (fun v t => bound_bindTile v im t) _ s).trans ((bound_foldl (fun v d => ⟨_, _, _, _, _, _, _, rfl⟩) _ _).trans
    ((bound_foldl bound_bindRef _ _).trans ⟨_, _, _, _, _, _, _, rfl⟩))

/-- Placing an image's allocations adds to the allocations alone. -/
theorem placeAll_only (p : Nat) : ∀ (l : List AllocEntry) {s v : State}, s.placeAll p l = some v → ∃ allocs, v = { s with allocs := allocs }
  | [], s, v, h => ⟨s.allocs, (Option.some.inj h).symm⟩
  | e :: l, s, v, h => by
    unfold State.placeAll at h
    cases hp : s.placeAlloc p e with
    | none => rw [hp] at h; cases h
    | some pc =>
      rw [hp] at h
      obtain ⟨allocs, rfl⟩ := placeAll_only p l h
      exact ⟨allocs, rfl⟩

theorem placeAll_some_opened (p : Nat) (o : Opening) : ∀ (l : List AllocEntry) (s : State),
    (opened s o).placeAll p l = (s.placeAll p l).map fun v => opened v o
  | [], _ => rfl
  | e :: l, s => by
    unfold State.placeAll
    rw [show (opened s o).placeAlloc p e = s.placeAlloc p e from rfl]
    cases s.placeAlloc p e with
    | none => rfl
    | some pc => exact placeAll_some_opened p o l (s.addAlloc ⟨e, pc, p, true⟩)

theorem placeAll_none_opened {s : State} {p : Nat} {o : Opening} {l : List AllocEntry} (h : s.placeAll p l = none) :
    (opened s o).placeAll p l = none := by
  rw [placeAll_some_opened, h]
  rfl

/-- What a bind does with the image of its handle (R223). -/
def bindFound (c : Call) (seed : W64) (s : State) (im : Image) : Answer :=
  if im.shift ≠ s.lny.shift then s.answer stTime
  else match needsCheck ((s.allocsOf (Call.part c)).map (fun al => al.e) ++ im.allocs) im.needs with
    | some e => { s.answer e.status with result := e.result }
    | none => match s.placeAll (Call.part c) im.allocs with
      | none => s.answer stResource
      | some s1 =>
        if (s1.bindImage (Call.part c) im seed.toNat).allAwake im.dieMask then (s1.bindImage (Call.part c) im seed.toNat).ok
        else { ((s1.bindImage (Call.part c) im seed.toNat).modPart (Call.part c) fun x => { x with binding := some c }).ok with later := true }

/-- The body of PROG_BIND. -/
def bindBody (c : Call) (h : Nat) (seed : W64) (s : State) : Answer :=
  if (s.part (Call.part c)).bound.isSome then s.answer stBusy
  else match (s.part (Call.part c)).images.find? fun i => i.handle == h with
    | none => s.answer stNotHeld
    | some im => bindFound c seed s im

theorem exec_progBind (c : Call) (h : Nat) (seed : W64) (s : State) :
    exec (.progBind c h seed) s = .next (capstanRun (.progBind c h seed) c (cmdP 0x0202) (bindBody c h seed) s) := rfl

section
variable {s : State} {c : Call} {h : Nat} {seed : W64} (ht : Taken s (.progBind c h seed) c)

include ht in
theorem progBind_busy (hb : (s.part (Call.part c)).bound.isSome = true) : turnedAway s (.progBind c h seed) c stBusy :=
  taken_refuses (exec_progBind c h seed) rfl ht fun _ _ _ => if_pos hb

variable (hb : (s.part (Call.part c)).bound = none)
include hb

theorem bindBody_none (o : Opening) (hf : ((s.part (Call.part c)).images.find? fun i => i.handle == h) = none) :
    bindBody c h seed (opened s o) = (opened s o).answer stNotHeld := by
  unfold bindBody
  rw [show (opened s o).part (Call.part c) = s.part (Call.part c) from rfl, hb, hf]
  rfl

variable {im : Image} (hf : ((s.part (Call.part c)).images.find? fun i => i.handle == h) = some im)
include hf

theorem bindBody_found (o : Opening) : bindBody c h seed (opened s o) = bindFound c seed (opened s o) im := by
  unfold bindBody
  rw [show (opened s o).part (Call.part c) = s.part (Call.part c) from rfl, hb, hf]
  rfl

include ht

theorem progBind_shift (hs : im.shift ≠ s.lny.shift) : turnedAway s (.progBind c h seed) c stTime :=
  taken_refuses (exec_progBind c h seed) rfl ht fun o _ _ => (bindBody_found hb hf o).trans (if_pos hs)

variable (hs : im.shift = s.lny.shift)
include hs

theorem progBind_needs {e : LErr} (hn : needsCheck ((s.allocsOf (Call.part c)).map (fun al => al.e) ++ im.allocs) im.needs = some e) :
    ∃ u, exec (.progBind c h seed) s = .next u ∧ answered u c e.status e.result [] ∧ u.parts = s.parts := by
  obtain ⟨o, k, -, -, hex, hans, -⟩ := taken_answers (a := fun o => { (opened s o).answer e.status with result := e.result })
    (exec_progBind c h seed) rfl ht (fun o _ _ => (bindBody_found hb hf o).trans ((if_neg (not_not.mpr hs)).trans (by
      rw [show (opened s o).allocsOf (Call.part c) = s.allocsOf (Call.part c) from rfl, hn]))) (fun _ => ⟨rfl, rfl, rfl⟩)
  exact ⟨_, hex, hans, rfl⟩

variable (hn : needsCheck ((s.allocsOf (Call.part c)).map (fun al => al.e) ++ im.allocs) im.needs = none)
include hn

theorem progBind_unplaced (hp : s.placeAll (Call.part c) im.allocs = none) : turnedAway s (.progBind c h seed) c stResource :=
  taken_refuses (exec_progBind c h seed) rfl ht fun o _ _ => (bindBody_found hb hf o).trans ((if_neg (not_not.mpr hs)).trans (by
    rw [show (opened s o).allocsOf (Call.part c) = s.allocsOf (Call.part c) from rfl, hn, placeAll_none_opened hp]))

variable {s1 : State} (hp : (base s c).placeAll (Call.part c) im.allocs = some s1)
include hp

omit ht in
theorem bindFound_placed : bindBody c h seed (base s c) =
    if (s1.bindImage (Call.part c) im seed.toNat).allAwake im.dieMask then (s1.bindImage (Call.part c) im seed.toNat).ok
    else { ((s1.bindImage (Call.part c) im seed.toNat).modPart (Call.part c) fun x => { x with binding := some c }).ok with later := true } := by
  obtain ⟨o, ho, -⟩ := opened_base s c
  rw [ho] at hp ⊢
  refine (bindBody_found hb hf o).trans ((if_neg (not_not.mpr hs)).trans ?_)
  rw [show (opened s o).allocsOf (Call.part c) = s.allocsOf (Call.part c) from rfl, hn, hp]

variable (hlen : Call.part c < s.parts.length)
include hlen

omit ht hb hf hs hn in
/-- The partition's record after a bind, and what else of the state stays. -/
theorem bindImage_bound {w : State} (hw : w = s1.bindImage (Call.part c) im seed.toNat) :
    w.part (Call.part c) = { s.part (Call.part c) with bound := some im, seed := seed.toNat, launched := false } ∧
      w.parts.length = s.parts.length ∧ w.allocs = s1.allocs ∧ w.cap = (base s c).cap ∧ w.fabric = (base s c).fabric := by
  obtain ⟨allocs, hs1⟩ := placeAll_only _ _ hp
  obtain ⟨v, ⟨_, _, _, _, _, _, _, hv⟩, _, _, _, _, _, _, _, h2⟩ := bindImage_only s1 (Call.part c) im seed.toNat
  obtain ⟨o, ho, -⟩ := opened_base s c
  have hparts : v.parts = s.parts := by rw [hv, hs1, ho]
  have hpart : (v.modPart (Call.part c) fun x => { x with bound := some im, seed := seed.toNat, launched := false }).part (Call.part c) =
      { s.part (Call.part c) with bound := some im, seed := seed.toNat, launched := false } := by
    rw [part_modPart _ (hparts ▸ hlen), part_congr hparts]
  have hwv := hw.trans h2
  refine ⟨(part_congr (by rw [hwv]) _).trans hpart, ?_, by rw [hwv, modPart_allocs, hv], by rw [hwv, modPart_cap, hv, hs1],
    by rw [hwv, modPart_fabric, hv, hs1]⟩
  rw [hwv, ← hparts]
  simp [State.modPart, modAt]

theorem progBind_binds (ha : (s1.bindImage (Call.part c) im seed.toNat).allAwake im.dieMask = true) :
    ∃ u, exec (.progBind c h seed) s = .next u ∧ answered u c stOk 0 [] ∧ (u.part (Call.part c)).bound = some im ∧
      (u.part (Call.part c)).seed = seed.toNat ∧ (u.part (Call.part c)).launched = false ∧ u.allocs = s1.allocs := by
  obtain ⟨hpart, -, hallocs, hcap, -⟩ := bindImage_bound hp hlen (rfl : s1.bindImage (Call.part c) im seed.toNat = _)
  have hbody := (bindFound_placed (seed := seed) hb hf hs hn hp).trans (if_pos ha)
  generalize s1.bindImage (Call.part c) im seed.toNat = w at *
  obtain ⟨k, hex, hans⟩ := taken_does (exec_progBind c h seed) rfl ht (v := w) hbody (by rw [hcap]) (by rw [hcap])
  exact ⟨_, hex, hans, (congrArg Part.bound hpart).trans rfl, (congrArg Part.seed hpart).trans rfl, (congrArg Part.launched hpart).trans rfl,
    hallocs⟩

theorem progBind_waits (ha : (s1.bindImage (Call.part c) im seed.toNat).allAwake im.dieMask = false) :
    ∃ u, exec (.progBind c h seed) s = .next u ∧ (u.part (Call.part c)).bound = some im ∧ (u.part (Call.part c)).binding = some c ∧
      u.hasMsg c.src = true := by
  obtain ⟨hpart, hplen, -, hcap, hfab⟩ := bindImage_bound hp hlen (rfl : s1.bindImage (Call.part c) im seed.toNat = _)
  have hbody := (bindFound_placed (seed := seed) hb hf hs hn hp).trans (if_neg (by rw [ha]; exact Bool.false_ne_true))
  generalize s1.bindImage (Call.part c) im seed.toNat = w at *
  obtain ⟨hacc, hex⟩ := taken_runs (exec_progBind c h seed) rfl ht
  rw [hbody] at hex
  have hbind := (part_modPart (s := w) (fun x => { x with binding := some c }) (hplen ▸ hlen)).trans
    (congrArg (fun x : Part => { x with binding := some c }) hpart)
  exact ⟨_, hex, (congrArg Part.bound hbind).trans rfl, (congrArg Part.binding hbind).trans rfl,
    hasMsg_of_lists (congrArg Capstan.mbx hcap) (congrArg Capstan.sessions hcap) (congrArg Fabric.mgtGot hfab) (hasMsg_base hacc.msg)⟩

end

/-! PROG_LAUNCH. -/

section
variable {s : State} {c : Call} {beat : Nat} (ht : Taken s (.progLaunch c beat) c)
include ht

theorem progLaunch_launches (hp : Call.part c < s.parts.length) (hb : (s.part (Call.part c)).bound.isSome = true)
    (hl : (s.part (Call.part c)).launched = false) (hw : (s.part (Call.part c)).binding = none) (ha : s.ahead beat 100000 = true) :
    ∃ u, exec (.progLaunch c beat) s = .next u ∧ answered u c stOk 0 [] ∧ (u.part (Call.part c)).launched = true ∧
      ∀ t, t ∈ s.tilesOf (Call.part c) → t < s.tiles.length → (u.tile t).beatBase = beat % 2 ^ 48 ∧ (u.tile t).descIdx = 0 ∧
        (u.tile t).table = (s.tile t).table ∧ (u.tile t).launched = !(s.tile t).table.isEmpty := by
  obtain ⟨o, ho, -⟩ := opened_base s c
  obtain ⟨tiles, hfold⟩ := modTile_foldl_only (fun s t y => y.begin_ beat (s.localBeat t)) (s.tilesOf (Call.part c)) (opened s o)
  have htile : ∀ t, t ∈ s.tilesOf (Call.part c) → t < s.tiles.length → _ := fun t hm hlen => modTile_foldl_sets
    (f := fun s t y => y.begin_ beat (s.localBeat t)) (Q := fun x => x.table = (s.tile t).table)
    (P := fun x => x.beatBase = beat % 2 ^ 48 ∧ x.descIdx = 0 ∧ x.table = (s.tile t).table ∧ x.launched = !(s.tile t).table.isEmpty)
    (fun _ h => h.2.2.1) (fun _ _ x hx => ⟨rfl, rfl, hx, congrArg (fun l => !List.isEmpty l) hx⟩)
    (s.tilesOf (Call.part c)) (s := opened s o) hlen rfl (.inl hm)
  rw [hfold] at htile
  obtain ⟨power, hpow⟩ := planned_only (({ opened s o with tiles := tiles } : State).modPart (Call.part c) fun x => { x with launched := true })
  obtain ⟨k, hex, hans⟩ := taken_does (v := { ({ opened s o with tiles := tiles } : State).modPart (Call.part c) fun x =>
      { x with launched := true } with power := power }) (fun _ => rfl) rfl ht (by
    rw [ho]
    refine (if_neg ?_).trans ((if_neg ?_).trans ((if_neg ?_).trans ((congrArg (fun v : State => (v.modPart (Call.part c) fun x =>
      { x with launched := true }).planned.ok) hfold).trans (congrArg State.ok hpow))))
    · rw [show (opened s o).part (Call.part c) = s.part (Call.part c) from rfl]
      obtain ⟨im, him⟩ := Option.isSome_iff_exists.mp hb
      rw [him]
      exact Bool.false_ne_true
    · rw [show (opened s o).part (Call.part c) = s.part (Call.part c) from rfl, hl, hw]
      exact Bool.false_ne_true
    · rw [show (opened s o).ahead beat 100000 = s.ahead beat 100000 from rfl, ha]
      exact Bool.false_ne_true) (by rw [ho, modPart_cap]) (by rw [ho, modPart_cap])
  have hpart := part_modPart (s := ({ opened s o with tiles := tiles } : State)) (fun x => { x with launched := true }) hp
  exact ⟨_, hex, hans, (congrArg Part.launched hpart).trans rfl, htile⟩

end

/-! PROG_ABORT. -/

/-- What an abort's fault records write beside tiles. -/
def Noted (s v : State) : Prop := ∃ tiles dies errs irqs spineMons obs mram, v = { s with
  tiles := tiles, dies := dies, errs := errs, irqs := irqs, spineMons := spineMons, obs := obs, mram := mram }

theorem Noted.refl (s : State) : Noted s s := ⟨_, _, _, _, _, _, _, rfl⟩

theorem Noted.trans {s v w : State} (h : Noted s v) (k : Noted v w) : Noted s w := by
  obtain ⟨_, _, _, _, _, _, _, rfl⟩ := h
  obtain ⟨_, _, _, _, _, _, _, rfl⟩ := k
  exact ⟨_, _, _, _, _, _, _, rfl⟩

theorem noted_post (s : State) (p : Option Nat) (e src layer op detail : Nat) : Noted s (s.post p e src layer op detail) := by
  obtain ⟨_, _, _, _, h⟩ := sampled_post s p e src layer op detail
  rw [h]
  exact ⟨_, _, _, _, _, _, _, rfl⟩

theorem noted_postFault (s : State) (d source : Nat) (r : FaultRec) (step : Nat) : Noted s (s.postFault d source r step) := by
  have hq : Noted s (if 256 ≤ (s.die d).faultQ.length then
      match s.partOfDie d with
      | some p => s.modPage (p + 1) fun x => { x with faultDrop := inc16 x.faultDrop }
      | none => s
    else s.modDie d fun x => { x with faultQ := x.faultQ ++ [r] }) := by
    split
    · split
      · exact ⟨_, _, _, _, _, _, _, rfl⟩
      · exact .refl s
    · exact ⟨_, _, _, _, _, _, _, rfl⟩
  unfold State.postFault
  dsimp only
  split
  · exact hq.trans (noted_post _ _ _ _ _ _ _)
  · exact (hq.trans (noted_post _ _ _ _ _ _ _)).trans ⟨_, _, _, _, _, _, _, rfl⟩

/-- The launches of a tile, and how many tiles there are, stay. -/
def Launches (s v : State) : Prop := Noted s v ∧ v.tiles.map Tile.launched = s.tiles.map Tile.launched

theorem Launches.trans {s v w : State} (h : Launches s v) (k : Launches v w) : Launches s w := ⟨h.1.trans k.1, k.2.trans h.2⟩

theorem abort_launched (x : Tile) (k : Nat) : (x.abort k).launched = x.launched := by
  unfold Tile.abort
  split <;> rfl

theorem tiles_post (s : State) (p : Option Nat) (e src layer op detail : Nat) : (s.post p e src layer op detail).tiles = s.tiles := by
  obtain ⟨_, _, _, _, h⟩ := sampled_post s p e src layer op detail
  rw [h]

theorem tiles_postFault (s : State) (d source : Nat) (r : FaultRec) (step : Nat) : (s.postFault d source r step).tiles = s.tiles := by
  have hq : ∀ v : State, v = (if 256 ≤ (s.die d).faultQ.length then
      match s.partOfDie d with
      | some p => s.modPage (p + 1) fun x => { x with faultDrop := inc16 x.faultDrop }
      | none => s
    else s.modDie d fun x => { x with faultQ := x.faultQ ++ [r] }) → v.tiles = s.tiles := by
    rintro v rfl
    split
    · split <;> rfl
    · rfl
  unfold State.postFault
  dsimp only
  split
  · exact (tiles_post _ _ _ _ _ _ _).trans (hq _ rfl)
  · exact (tiles_post _ _ _ _ _ _ _).trans (hq _ rfl)

/-- The fault of an abort ends the slot, and keeps the launches of every tile (R218). -/
theorem launches_abortFault (s : State) (t : Nat) (i : Info) : Launches s (s.fault t i true 4 1 0) := by
  have h : s.fault t i true 4 1 0 = (s.postFault (dieOfTile t) t (s.recOf t i true 4 1 0) i.step).modTile t fun x =>
      if (x.holds i).isSome then x.abort i.slot else x := rfl
  rw [h]
  refine ⟨(noted_postFault _ _ _ _ _).trans ⟨_, _, _, _, _, _, _, rfl⟩, ?_⟩
  refine (map_modAt_keeps (g := Tile.launched) (fun x => ?_) _ _).trans (congrArg (List.map Tile.launched) (tiles_postFault _ _ _ _ _))
  split
  · exact abort_launched x i.slot
  · rfl

theorem launches_foldl {α : Type} {f : State → α → State} (h : ∀ s a, Launches s (f s a)) :
    ∀ (l : List α) (s : State), Launches s (l.foldl f s)
  | [], s => ⟨.refl s, rfl⟩
  | a :: l, s => (h s a).trans (launches_foldl h l (f s a))

/-- Aborting a tile stops its launches. -/
theorem abortTile_stops (s : State) (t : Nat) : ∃ v, Launches s v ∧ s.abortTile t = v.modTile t fun x => { x with launched := false } := by
  refine ⟨_, ?_, rfl⟩
  refine launches_foldl (fun v k => ?_) _ s
  dsimp only
  split
  · exact launches_abortFault _ _ _
  · exact ⟨.refl v, rfl⟩

theorem launched_of_map {s v : State} (h : v.tiles.map Tile.launched = s.tiles.map Tile.launched) (t : Nat) :
    (v.tile t).launched = (s.tile t).launched := by
  have hk : ∀ w : State, (w.tile t).launched = (w.tiles.map Tile.launched).getD t false := by
    intro w
    rw [State.tile, List.getD_eq_getElem?_getD, List.getD_eq_getElem?_getD, List.getElem?_map]
    cases w.tiles[t]? <;> rfl
  rw [hk, hk, h]

theorem abort_foldl (l : List Nat) : ∀ s : State, Noted s (l.foldl State.abortTile s) ∧ ∀ t, t < s.tiles.length →
    t ∈ l ∨ (s.tile t).launched = false → ((l.foldl State.abortTile s).tile t).launched = false := by
  induction l with
  | nil => exact fun s => ⟨.refl s, fun t _ h => h.resolve_left (by simp)⟩
  | cons e l ih =>
    intro s
    obtain ⟨v, ⟨hn, hl⟩, hv⟩ := abortTile_stops s e
    have hlen : v.tiles.length = s.tiles.length := by simpa using congrArg List.length hl
    obtain ⟨hn', hstop⟩ := ih (s.abortTile e)
    refine ⟨(hn.trans (hv ▸ ⟨_, _, _, _, _, _, _, rfl⟩)).trans hn', fun t ht h => hstop t ?_ ?_⟩
    · rw [hv]
      simpa [State.modTile, modAt, hlen] using ht
    · by_cases he : e = t
      · subst he
        right
        rw [hv, tile_modTile _ (hlen.symm ▸ ht)]
      · obtain hm | hm := h
        · exact .inl ((List.mem_cons.mp hm).resolve_left (Ne.symm he))
        · right
          rw [hv, tile_modTile_ne _ he, launched_of_map hl]
          exact hm

theorem progAbort_aborts {s : State} {c : Call} (ht : Taken s (.progAbort c) c) (hp : Call.part c < s.parts.length) :
    ∃ u, exec (.progAbort c) s = .next u ∧ answered u c stOk 0 [] ∧ (u.part (Call.part c)).launched = false ∧
      (Call.part c < s.geodes.length → (u.geode (Call.part c)).frozen = false) ∧
      ∀ t, t ∈ s.tilesOf (Call.part c) → t < s.tiles.length → (u.tile t).launched = false := by
  obtain ⟨o, ho, -⟩ := opened_base s c
  obtain ⟨⟨tiles, dies, errs, irqs, spineMons, obs, mram, hv⟩, hstop⟩ := abort_foldl (s.tilesOf (Call.part c)) (opened s o)
  have hv' : ∃ v : State, v = (s.tilesOf (Call.part c)).foldl State.abortTile (opened s o) := ⟨_, rfl⟩
  obtain ⟨v, hveq⟩ := hv'
  rw [← hveq] at hv hstop
  obtain ⟨power, hpow⟩ := plannedStop_only ((v.modPart (Call.part c) fun x => { x with launched := false }).modGeode (Call.part c) fun g =>
    { g with frozen := false, trigs := [], phase := if g.phase = .none then .none else .done }) (Call.part c)
  obtain ⟨k, hex, hans⟩ := taken_does (v := { (v.modPart (Call.part c) fun x => { x with launched := false }).modGeode (Call.part c) fun g =>
      { g with frozen := false, trigs := [], phase := if g.phase = .none then .none else .done } with power := power }) (fun _ => rfl) rfl ht (by
    rw [ho]
    refine Eq.trans ?_ (congrArg State.ok hpow)
    rw [hveq]
    rfl) (by rw [ho, modGeode_cap, modPart_cap, hv]) (by rw [ho, modGeode_cap, modPart_cap, hv])
  have hpart := part_modPart (s := v) (fun x => { x with launched := false }) (by rw [hv]; exact hp)
  refine ⟨_, hex, hans, (congrArg Part.launched hpart).trans rfl, fun hg => ?_, fun t hm hlen => hstop t hlen (.inl hm)⟩
  have hgeode := geode_modGeode (s := v.modPart (Call.part c) fun x => { x with launched := false }) (fun g =>
    { g with frozen := false, trigs := [], phase := if g.phase = .none then .none else .done }) (by rw [modPart_geodes, hv]; exact hg)
  exact (congrArg Geode.frozen hgeode).trans rfl

/-! PROG_UNBIND. -/

theorem unbind_of {s w v : State} {p : Nat}
    (h : (s.tilesOf p).foldl (fun s t => s.modTile t fun x => { x with table := [], launched := false }) s = w)
    (h2 : (s.diesOf p).foldl (fun s d => s.modDie d fun x =>
      { x with reef := { Reef.init with credHeld := x.reef.credHeld }, upd := { x.upd with sec := none } }) w = v) :
    s.unbind p = (({ v with allocs := v.allocs.filter fun al => !(al.part == p && al.fromImage) } : State).modGeode p
      fun g => { g with mapped := false }).modPart p fun x => { x with
        images := x.images.filter fun i => some i.handle != x.bound.map fun b => b.handle
        bound := none, launched := false, binding := none } := by
  subst h h2
  rfl

theorem progUnbind_unbinds {s : State} {c : Call} (ht : Taken s (.progUnbind c) c) (hp : Call.part c < s.parts.length)
    (hb : (s.part (Call.part c)).bound.isSome = true) : ∃ u, exec (.progUnbind c) s = .next u ∧ answered u c stOk 0 [] ∧
      (u.part (Call.part c)).bound = none ∧ (u.part (Call.part c)).launched = false ∧
      u.allocs = s.allocs.filter (fun al => !(al.part == Call.part c && al.fromImage)) ∧
      ∀ t, t ∈ s.tilesOf (Call.part c) → t < s.tiles.length → (u.tile t).table = [] ∧ (u.tile t).slots = (s.tile t).slots := by
  obtain ⟨o, ho, -⟩ := opened_base s c
  obtain ⟨tiles, hfold⟩ := modTile_foldl_only (fun _ _ x => { x with table := [], launched := false }) (s.tilesOf (Call.part c)) (opened s o)
  have htile : ∀ t, t ∈ s.tilesOf (Call.part c) → t < s.tiles.length → _ := fun t hm hlen => modTile_foldl_sets
    (f := fun _ _ x => { x with table := [], launched := false }) (Q := fun x => x.slots = (s.tile t).slots)
    (P := fun x => x.table = [] ∧ x.slots = (s.tile t).slots) (fun _ h => h.2) (fun _ _ x hx => ⟨rfl, hx⟩)
    (s.tilesOf (Call.part c)) (s := opened s o) hlen rfl (.inl hm)
  rw [hfold] at htile
  obtain ⟨dies, hdies⟩ := modDie_foldl_only (fun x => { x with reef := { Reef.init with credHeld := x.reef.credHeld }, upd := { x.upd with sec := none } })
    (s.diesOf (Call.part c)) { opened s o with tiles := tiles }
  have hun : (opened s o).unbind (Call.part c) = (({ opened s o with
      tiles := tiles, dies := dies, allocs := s.allocs.filter fun al => !(al.part == Call.part c && al.fromImage) } : State).modGeode (Call.part c)
      fun g => { g with mapped := false }).modPart (Call.part c) fun x => { x with
        images := x.images.filter fun i => some i.handle != x.bound.map fun b => b.handle
        bound := none, launched := false, binding := none } := by
    exact unbind_of hfold hdies
  have hcap : ((opened s o).unbind (Call.part c)).cap = (opened s o).cap := by rw [hun, modPart_cap, modGeode_cap]
  have hallocs : ((opened s o).unbind (Call.part c)).allocs = s.allocs.filter fun al => !(al.part == Call.part c && al.fromImage) := by
    rw [hun, modPart_allocs, modGeode_allocs]
  have hpart : ((opened s o).unbind (Call.part c)).part (Call.part c) = { s.part (Call.part c) with
      images := (s.part (Call.part c)).images.filter fun i => some i.handle != (s.part (Call.part c)).bound.map fun b => b.handle
      bound := none, launched := false, binding := none } := by
    rw [hun, part_modPart _ (by rw [modGeode_parts]; exact hp)]
    rfl
  have htiles : ((opened s o).unbind (Call.part c)).tiles = tiles := by rw [hun, modPart_tiles, modGeode_tiles]
  obtain ⟨power, hpow⟩ := plannedStop_only ((opened s o).unbind (Call.part c)) (Call.part c)
  have hbody := congrArg State.ok hpow
  have hnone : ((base s c).part (Call.part c)).bound.isNone = false := by
    rw [part_base, ← Option.not_isSome, hb]
    rfl
  have hrun := fun v : Answer => (if_neg (by rw [hnone]; exact Bool.false_ne_true) :
    (if ((base s c).part (Call.part c)).bound.isNone then (base s c).answer stNotHeld else v) = v)
  obtain ⟨k, hex, hans⟩ := taken_does (v := { (opened s o).unbind (Call.part c) with power := power }) (fun _ => rfl) rfl ht
    ((hrun _).trans (by rw [ho]; exact hbody)) (by rw [ho, hcap]) (by rw [ho, hcap])
  generalize (opened s o).unbind (Call.part c) = v at *
  refine ⟨_, hex, hans, (congrArg Part.bound hpart).trans rfl, (congrArg Part.launched hpart).trans rfl, hallocs, fun t hm hlen => ?_⟩
  have htile' := htile t hm hlen
  rw [← htiles] at htile'
  exact htile'

/-! MEM_MAP. -/

theorem part_opened (s : State) (o : Opening) (p : Nat) : (opened s o).part p = s.part p := rfl

/-- The body of MEM_MAP. -/
def memMapBody (c : Call) (a : AllocEntry) (s : State) : Answer :=
  match entryBad a with
  | some st => s.answer st
  | none =>
    if a.mode ≠ 2 && !bit (s.part (Call.part c)).mask a.die then s.answer stPartition
    else match s.placeAlloc (Call.part c) a with
      | none => s.answer stResource
      | some pc => { (s.addAlloc ⟨a, pc, Call.part c, false⟩).ok with result := BitVec.ofNat 64 pc }

/-- Where an entry in order goes: its die is one of the partition's, or it spans the dies (R226). -/
theorem memMap_placed {s : State} {c : Call} {a : AllocEntry} (o : Opening) (h : entryBad a = none)
    (hm : a.mode = 2 ∨ bit (s.part (Call.part c)).mask a.die = true) : memMapBody c a (opened s o) =
      match (opened s o).placeAlloc (Call.part c) a with
      | none => (opened s o).answer stResource
      | some pc => { ((opened s o).addAlloc ⟨a, pc, Call.part c, false⟩).ok with result := BitVec.ofNat 64 pc } := by
  unfold memMapBody
  rw [h]
  refine if_neg ?_
  rw [part_opened]
  obtain hm | hm := hm
  · simp [hm]
  · simp [hm]

theorem memMap_partition {s : State} {c : Call} {a : AllocEntry} (ht : Taken s (.memMap c a) c) (h : entryBad a = none) (hm : a.mode ≠ 2)
    (hb : bit (s.part (Call.part c)).mask a.die = false) : turnedAway s (.memMap c a) c stPartition :=
  taken_refuses (fun _ => rfl) rfl ht fun o _ _ => by
    dsimp only
    rw [h]
    refine if_pos ?_
    rw [part_opened, hb, decide_eq_true hm]
    rfl

/-- Settles O51, command by command. -/
theorem memoryAndProgramCommands : Obligations.MemoryAndProgramCommands := by
  intro s c p hp hlen
  subst hp
  refine ⟨fun a ht => ⟨fun st h => ?_, fun h h2 hb => ?_, fun h hm => ⟨fun hp => ?_, fun pc hp => ?_⟩⟩,
    fun id mine ht hmine => ⟨fun h => ?_, fun h h2 => ?_, fun h h2 => ?_⟩,
    fun dst len src x ht hx => ⟨fun h => memFill_range ht (h.imp id fun ⟨o, h, h2⟩ => ⟨o, h, h2⟩), fun hd hs s0 got hf => ⟨fun hg => ?_,
      fun data s1 ok hg hw => ⟨fun h => ?_, fun h hb => ?_, fun s2 count h hb hc => ?_⟩⟩⟩,
    fun base0 blocks ht => ⟨fun h => ?_, fun s1 sums hb hr hs => memChecksum_sums ht hb hr hs⟩,
    fun ht => setRepair_sets (fun _ => rfl) rfl ht, fun ht => setRepair_sets (fun _ => rfl) rfl ht,
    fun h ht => ⟨fun hh => ?_, fun h1 h2 => ?_⟩,
    fun ofs size sign key ht => ⟨fun h => ?_, fun h h2 => ?_, fun h h2 h3 => ?_, fun r h h2 h3 hr => ⟨fun hb => progLoad_unread ht h h2 h3 hr hb,
      fun e hb hc => progLoad_fails ht h h2 h3 hr hb hc, fun hb hc => progLoad_keeps ht h h2 h3 hr hb hlen hc⟩⟩,
    fun h seed ht => ⟨fun hb => progBind_busy ht hb, fun hb hf => taken_refuses (exec_progBind c h seed) rfl ht fun o _ _ => bindBody_none hb o hf,
      fun im hb hf => ⟨fun hs => progBind_shift ht hb hf hs, fun e hs hn => progBind_needs ht hb hf hs hn,
        fun hs hn hp => progBind_unplaced ht hb hf hs hn hp, fun s1 hs hn hp => ⟨fun ha => progBind_binds ht hb hf hs hn hp hlen ha,
          fun ha => progBind_waits ht hb hf hs hn hp hlen ha⟩⟩⟩,
    fun beat ht => ⟨fun h => ?_, fun h h2 => ?_, fun hb hl hw => ⟨fun ha => ?_, fun ha => progLaunch_launches ht hlen hb hl hw ha⟩⟩,
    fun ht => progAbort_aborts ht hlen, fun ht => ⟨fun h => ?_, fun h => progUnbind_unbinds ht hlen h⟩,
    fun slot key ht => ⟨fun h => ?_, fun h => ?_⟩⟩
  · exact taken_refuses (fun _ => rfl) rfl ht fun o _ _ => by
      dsimp only
      rw [h]
  · exact memMap_partition ht h h2 hb
  · exact taken_refuses (fun _ => rfl) rfl ht fun o _ _ => (memMap_placed o h hm).trans (by
      dsimp only
      rw [show (opened s o).placeAlloc (Call.part c) a = s.placeAlloc (Call.part c) a from rfl, hp])
  · obtain ⟨o, k, -, -, hex, hans, -⟩ := taken_answers (a := fun o => { ((opened s o).addAlloc ⟨a, pc, Call.part c, false⟩).ok with
      result := BitVec.ofNat 64 pc }) (fun _ => rfl) rfl ht (fun o _ _ => (memMap_placed o h hm).trans (by
        dsimp only
        rw [show (opened s o).placeAlloc (Call.part c) a = s.placeAlloc (Call.part c) a from rfl, hp])) (fun _ => ⟨rfl, rfl, rfl⟩)
    exact ⟨_, hex, hans, rfl, commandsAnswer.2.2.2 _ _ _ _ rfl rfl hex⟩
  · exact taken_refuses (fun _ => rfl) rfl ht fun o _ _ => if_pos h
  · subst hmine
    exact taken_refuses (fun _ => rfl) rfl ht fun o _ _ => (if_neg (by rw [part_opened, h]; decide)).trans
      (if_neg (by rw [Bool.not_eq_true]; exact h2))
  · subst hmine
    obtain ⟨o, k, -, -, hex, hans, -⟩ := taken_answers (fun _ => rfl) rfl ht (fun o _ _ => (if_neg (by rw [part_opened, h]; decide)).trans
      (if_pos h2)) (fun _ => ⟨rfl, rfl, rfl⟩)
    exact ⟨_, hex, hans, rfl, commandsAnswer.2.2.2 _ _ _ _ rfl rfl hex⟩
  · subst hx hg
    exact memFill_unread ht hd hs hf
  · subst hx hg h
    exact memFill_unwritten ht hd hs hf hw
  · subst hx hg h
    exact memFill_written ht hd hs hf hw hb
  · subst hx hg h
    exact memFill_repairs ht hd hs hf hw hb hc
  · refine taken_refuses (fun _ => rfl) rfl ht fun o _ _ => if_pos ?_
    rw [Bool.or_eq_true, decide_eq_true_iff, Bool.not_eq_true']
    exact h
  · refine taken_refuses (fun _ => rfl) rfl ht fun o _ _ => if_pos ?_
    rw [Bool.or_eq_true, decide_eq_true_iff, decide_eq_true_iff]
    exact hh
  · obtain ⟨o, k, -, -, hex, hans, -⟩ := taken_answers (fun _ => rfl) rfl ht (fun o _ _ => if_neg (by simp; omega)) (fun _ => ⟨rfl, rfl, rfl⟩)
    exact ⟨_, hex, hans, rfl⟩
  · exact taken_refuses (fun _ => rfl) rfl ht fun o _ _ => if_pos h
  · exact taken_refuses (fun _ => rfl) rfl ht fun o _ _ => (if_neg (by omega)).trans (if_pos h2)
  · exact taken_refuses (fun _ => rfl) rfl ht fun o _ _ => (if_neg (by omega)).trans ((if_neg (by rw [part_opened]; omega)).trans
      (if_pos (by rw [runIn_opened, h3]; rfl)))
  · exact taken_refuses (fun _ => rfl) rfl ht fun o _ _ => if_pos (by rw [part_opened, h]; rfl)
  · refine taken_refuses (fun _ => rfl) rfl ht fun o _ _ => (if_neg (by rw [part_opened, ← Option.not_isSome, h]; decide)).trans (if_pos ?_)
    rw [Bool.or_eq_true]
    exact h2
  · exact taken_refuses (fun _ => rfl) rfl ht fun o _ _ => (if_neg (by rw [part_opened, ← Option.not_isSome, hb]; decide)).trans
      ((if_neg (by rw [part_opened, hl, hw]; decide)).trans (if_pos (by
        rw [show (opened s o).ahead beat 100000 = s.ahead beat 100000 from rfl, ha]
        rfl)))
  · exact taken_refuses (fun _ => rfl) rfl ht fun o _ _ => if_pos (by rw [part_opened, h]; rfl)
  · exact taken_refuses (fun _ => rfl) rfl ht fun o _ _ => if_pos h
  · obtain ⟨o, k, -, -, hex, hans, -⟩ := taken_answers (fun _ => rfl) rfl ht (fun o _ _ => if_neg (by omega)) (fun _ => ⟨rfl, rfl, rfl⟩)
    exact ⟨_, hex, hans, rfl⟩

end Sys2Proof.Proofs.ProgramCommands
end

section
/-! PROOFS. The fabric and time commands of the mailboxes. -/
namespace Sys2Proof.Proofs.FabricCommands

open Sys2Proof Sys2Proof.Machine Sys2Proof.Laws Sys2Proof.Safety Sys2Proof.Proofs.Stores Sys2Proof.Proofs.Messages
open Sys2Proof.Proofs.Answers Sys2Proof.Proofs.MemoryCommands Sys2Proof.Proofs.ProgramCommands Sys2Proof.Proofs.Reports
    Sys2Proof.Proofs.Ports Sys2Proof.Proofs.PortStates

/-! Tables keyed by a number. -/

theorem find_filter_ne {α : Type} {n m : Nat} (h : n ≠ m) (l : List (Nat × α)) :
    (l.filter fun e => e.1 != m).find? (fun e => e.1 == n) = l.find? fun e => e.1 == n := by
  rw [List.find?_filter]
  congr 1
  funext e
  by_cases he : e.1 = n
  · simp [he, h]
  · simp [he]

theorem find_filter_same {α : Type} (m : Nat) (l : List (Nat × α)) : (l.filter fun e => e.1 != m).find? (fun e => e.1 == m) = none := by
  rw [List.find?_filter, List.find?_eq_none]
  intro e _
  simp

/-- The route entry of a node, 0 where none is listed. -/
def routeIn (l : List (Nat × Nat)) (n : Nat) : Nat := ((l.find? fun e => e.1 == n).map Prod.snd).getD 0

theorem routeEntry_eq (s : State) (n : Nat) : s.routeEntry n = routeIn s.fabric.routes n := by
  unfold State.routeEntry routeIn
  cases s.fabric.routes.find? fun e => e.1 == n <;> rfl

/-- One route entry set. -/
theorem routeIn_set (l : List (Nat × Nat)) (m e n : Nat) :
    routeIn (if e = 0 then l.filter (fun x => x.1 != m) else (m, e) :: l.filter fun x => x.1 != m) n = if n =
        m then e else routeIn l n := by
  unfold routeIn
  by_cases hn : n = m
  · subst hn
    rw [if_pos rfl]
    split
    · rw [find_filter_same]
      exact Eq.symm ‹e = 0›
    · simp
  · rw [if_neg hn]
    split
    · rw [find_filter_ne hn]
    · rw [List.find?_cons_of_neg (by simpa using Ne.symm hn), find_filter_ne hn]

/-- A run of route entries set, and every other one as before (R296). -/
theorem routeIn_putRoutes : ∀ (es : List Nat) (first : Nat) (l : List (Nat × Nat)),
    (∀ k, k < es.length → routeIn (putRoutes first l es) (first + k) = es.getD k 0) ∧
      ∀ n, n < first ∨ first + es.length ≤ n → routeIn (putRoutes first l es) n = routeIn l n
  | [], _, _ => ⟨fun _ h => absurd h (by simp), fun _ _ => rfl⟩
  | e :: es, first, l => by
    obtain ⟨hin, hout⟩ := routeIn_putRoutes es (first + 1)
      (if e = 0 then l.filter (fun x => x.1 != first) else (first, e) :: l.filter fun x => x.1 != first)
    refine ⟨fun k hk => ?_, fun n hn => ?_⟩
    · cases k with
      | zero => exact (hout first (.inl (Nat.lt_succ_self _))).trans ((routeIn_set l first e first).trans (if_pos rfl))
      | succ k =>
        have := hin k (by simpa using hk)
        rw [show first + 1 + k = first + (k + 1) from by omega] at this
        exact this
    · rw [List.length_cons] at hn
      exact (hout n (by omega)).trans ((routeIn_set l first e n).trans (if_neg (by omega)))

/-! FAB_JOIN. -/

/-- Nothing but dies, the fabric and records of events changes. -/
def Said (s v : State) : Prop := Reported s v ∧ v.tiles = s.tiles

theorem Said.refl (s : State) : Said s s := ⟨.refl s, rfl⟩

theorem Said.trans {s v w : State} (h : Said s v) (k : Said v w) : Said s w := ⟨h.1.trans k.1, k.2.trans h.2⟩

theorem said_portMove (s : State) (p : Nat) (f : Port → Port) : Said s (s.portMove p f) := by
  refine ⟨reported_portMove s p f, ?_⟩
  unfold State.portMove
  dsimp only
  split
  · rfl
  · split
    · obtain ⟨_, _, _, _, h⟩ := TimeEvents.sampled_postAll (((s.modPort p f).modPort p fun x => { x with lastChange := s.now }).log
        0x0004 0xFF
        (((s.modPort p f).modPort p fun x => { x with lastChange := s.now }).port p).words) 0x000F p
        ((((s.modPort p f).modPort p fun x => { x with lastChange := s.now }).port p).words.headD 0)
      rw [h]
      rfl
    · rfl

theorem said_judgePeer (s : State) (p : Nat) : Said s (s.judgePeer p) := by
  unfold State.judgePeer
  dsimp only
  split
  · exact .refl s
  split
  · exact said_portMove s p _
  split
  · exact .refl s
  split
  · split
    · exact .refl s
    · exact said_portMove s p _
  split
  · exact .refl s
  · obtain ⟨_, h⟩ := (queued_moveOut (s.portMove p fun x => { x with st := .miswired, since := s.now }) p).portAt p
    exact (said_portMove s p _).trans ⟨h.rep, h.tiles⟩

theorem said_foldl {α : Type} {f : State → α → State} (h : ∀ s a, Said s (f s a)) : ∀ (l : List α) (s : State), Said s (l.foldl f s)
  | [], s => .refl s
  | a :: l, s => (h s a).trans (said_foldl h l (f s a))

theorem said_rejudge (s : State) : Said s s.rejudge := by
  refine said_foldl (fun v p => ?_) _ s
  dsimp only
  split
  · exact Said.trans ⟨reported_modPort v p _, rfl⟩ (said_judgePeer _ p)
  · exact .refl v

section
variable {s : State} {c : Call} {j : JoinReq} (ht : Taken s (.fabJoin c j) c) (hr : joinRange j = true)
include ht hr

theorem fabJoin_locked (h : s.cap.fabLock ≠ none) (h2 : s.cap.fabLock ≠ some (nodeOf (j.x, j.y, j.z))) :
    turnedAway s (.fabJoin c j) c stPermission :=
  taken_refuses (fun _ => rfl) rfl ht fun o _ _ => (if_neg (by rw [hr]; decide)).trans (if_pos (by
    rw [show (opened s o).cap.fabLock = s.cap.fabLock from rfl, Option.isSome_iff_ne_none.mpr h, Bool.true_and]
    exact bne_iff_ne.mpr h2))

variable (hl : s.cap.fabLock = none ∨ s.cap.fabLock = some (nodeOf (j.x, j.y, j.z)))
include hl

omit ht hr in
theorem fabJoin_unlocked : ¬(s.cap.fabLock.isSome && s.cap.fabLock != some (nodeOf (j.x, j.y, j.z))) = true := by
  obtain h | h := hl
  · rw [h]
    exact Bool.false_ne_true
  · rw [h]
    simp

theorem fabJoin_clash (h : s.joinClash (Call.part c) (j.dimX, j.dimY, j.dimZ) (j.x, j.y, j.z) = true) :
    turnedAway s (.fabJoin c j) c stBusy :=
  taken_refuses (fun _ => rfl) rfl ht fun _ _ _ => (if_neg (by rw [hr]; decide)).trans ((if_neg (fabJoin_unlocked hl)).trans (if_pos h))

theorem fabJoin_joins (h : s.joinClash (Call.part c) (j.dimX, j.dimY, j.dimZ) (j.x, j.y, j.z) = false)
    (hlen : Call.part c < s.parts.length) :
    ∃ u, exec (.fabJoin c j) s = .next u ∧ answered u c stOk 0 [] ∧
      (u.part (Call.part c)).join = some ⟨j.job, (j.dimX, j.dimY, j.dimZ), (j.x, j.y, j.z), j.timeoutNs, j.joinList⟩ ∧
      (∀ q, q ≠ Call.part c → u.part q = s.part q) ∧ u.tiles = s.tiles := by
  obtain ⟨o, ho, -⟩ := opened_base s c
  obtain ⟨v, hv⟩ : ∃ v, v = ((opened s o).modPart (Call.part c) fun p => { p with
    join := some ⟨j.job, (j.dimX, j.dimY, j.dimZ), (j.x, j.y, j.z), j.timeoutNs, j.joinList⟩ }).rejudge := ⟨_, rfl⟩
  obtain ⟨⟨_, _, _, _, _, _, _, _, _, hrep⟩, htiles⟩ := hv ▸ said_rejudge ((opened s o).modPart (Call.part c) fun p => { p with
    join := some ⟨j.job, (j.dimX, j.dimY, j.dimZ), (j.x, j.y, j.z), j.timeoutNs, j.joinList⟩ })
  obtain ⟨k, hex, hans⟩ := taken_does (v := v) (fun _ => rfl) rfl ht (by
    rw [ho]
    exact (if_neg (by rw [hr]; decide)).trans ((if_neg (fabJoin_unlocked hl)).trans ((if_neg (by
      rw [show (opened s o).joinClash (Call.part c) (j.dimX, j.dimY, j.dimZ) (j.x, j.y, j.z) = s.joinClash (Call.part c) _ _ from rfl, h]
      exact Bool.false_ne_true)).trans (congrArg State.ok hv.symm)))) (by rw [hrep, ho, modPart_cap]) (by rw [hrep, ho, modPart_cap])
  have hparts : v.parts = ((opened s o).modPart (Call.part c) fun p => { p with
    join := some ⟨j.job, (j.dimX, j.dimY, j.dimZ), (j.x, j.y, j.z), j.timeoutNs, j.joinList⟩ }).parts := by rw [hrep]
  have hset := (part_congr hparts (Call.part c)).trans (part_modPart _ hlen)
  refine ⟨_, hex, hans, (congrArg Part.join hset).trans rfl, fun q hq => ?_, htiles⟩
  refine (part_congr hparts q).trans ?_
  simp [State.part, State.modPart, modAt, List.getD_eq_getElem?_getD, Ne.symm hq]

end

/-! FAB_PORT. -/

/-- The body of FAB_PORT for a port there is. -/
def portBody (port : Nat) (op : PortOp) (s : State) : Answer :=
  match op with
  | .retrain =>
    if (s.port port).st = .up then ((s.modPort port fun x => { x with working := [0, 1, 2, 3] }).startRetrain port 4 2).ok
    else s.answer stBusy
  | .disable => (s.portDown port .disabled).ok
  | .enable =>
    if (s.port port).st = .disabled then (s.portMove port fun x => { x with st := .training, since := s.now }).ok else s.ok

theorem exec_fabPort (c : Call) (port : Nat) (op : PortOp) (s : State) : exec (.fabPort c port op) s =
    .next (capstanRun (.fabPort c port op) c (cmdC 0x0309 .owner)
      (fun s => if 16 ≤ port then s.answer stRange else portBody port op s) s) := by
  cases op <;> rfl

section
variable {s : State} {c : Call} {port : Nat} (h16 : port < 16) (hlen : port < s.fabric.ports.length)
include h16 hlen

omit hlen in
/-- What FAB_PORT leaves of the port it changes. -/
theorem fabPort_moves {op : PortOp} {v : Opening → State} (ht : Taken s (.fabPort c port op) c)
    (ha : ∀ o, portBody port op (opened s o) = (v o).ok) {P : Port → Prop}
    (hv : ∀ o, Reported (opened s o) (v o) ∧ P ((v o).port port)) :
    ∃ u, exec (.fabPort c port op) s = .next u ∧ answered u c stOk 0 [] ∧ P (u.port port) := by
  obtain ⟨o, k, -, -, hex, hans, -⟩ := taken_answers (a := fun o => (v o).ok) (exec_fabPort c port op) rfl ht
    (fun o _ _ => (if_neg (Nat.not_le_of_lt h16)).trans (ha o)) (fun o => by
      obtain ⟨_, _, _, _, _, _, _, _, _, h⟩ := (hv o).1
      exact SystemCommands.prompt_ok (by rw [h]) (by rw [h]))
  exact ⟨_, hex, hans, (hv o).2⟩

theorem fabPort_retrains (ht : Taken s (.fabPort c port .retrain) c) (hup : (s.port port).st = .up) :
    ∃ u, exec (.fabPort c port .retrain) s = .next u ∧ answered u c stOk 0 [] ∧ (u.port port).st = .retraining ∧
        (u.port port).lanes = 4 := by
  refine fabPort_moves h16 ht (fun o => if_pos hup) (P := fun x => x.st = .retraining ∧ x.lanes = 4) fun o => ?_
  have h1 : PortIs (opened s o) port _ _ := portIs_modPort (fun x => { x with working := [0, 1, 2, 3] }) hlen
  rw [startRetrain_enough 2 (by omega)]
  obtain ⟨l, h2⟩ := portIs_portMove (s := (opened s o).modPort port fun x => { x with working := [0, 1, 2, 3] })
    (retrains (opened s o).now 4 2) (h1.len.symm ▸ hlen)
  exact ⟨(h1.trans h2).rep, (congrArg Port.st h2.port).trans rfl, (congrArg Port.lanes h2.port).trans rfl⟩

theorem fabPort_disables (ht : Taken s (.fabPort c port .disable) c) :
    ∃ u, exec (.fabPort c port .disable) s = .next u ∧ answered u c stOk 0 [] ∧ (u.port port).st = .disabled := by
  refine fabPort_moves h16 ht (fun o => rfl) (P := fun x => x.st = .disabled) fun o => ?_
  obtain ⟨l, out, h⟩ := portAt_portDown (s := opened s o) .disabled hlen
  exact ⟨h.rep, (congrArg Port.st h.port).trans rfl⟩

theorem fabPort_enables (ht : Taken s (.fabPort c port .enable) c) : ∃ u, exec (.fabPort c port .enable) s = .next u ∧
    answered u c stOk 0 [] ∧ (u.port port).st = if (s.port port).st = .disabled then .training else (s.port port).st := by
  by_cases hd : (s.port port).st = .disabled
  · refine fabPort_moves h16 ht (fun o => if_pos hd)
      (P := fun x => x.st = if (s.port port).st = .disabled then .training else (s.port port).st) fun o => ?_
    obtain ⟨l, h⟩ := portIs_portMove (s := opened s o) (fun x => { x with st := .training, since := (opened s o).now }) hlen
    exact ⟨h.rep, ((congrArg Port.st h.port).trans rfl).trans (if_pos hd).symm⟩
  · exact fabPort_moves h16 ht (fun o => if_neg hd)
      (P := fun x => x.st = if (s.port port).st = .disabled then .training else (s.port port).st) fun o => ⟨.refl _, (if_neg hd).symm⟩

end

/-! TIME_SET and TIME_SHIFT. -/

/-- s with the UTC offset of a TIME_SET. -/
def withUtc (s : State) : Option Int → State
  | some o => s.modLny fun l => { l with utcOfs := o }
  | none => s

/-- Lanyard's record with the UTC offset of a TIME_SET. -/
def utcLny (l : Lny) : Option Int → Lny
  | some o => { l with utcOfs := o }
  | none => l

theorem withUtc_only (s : State) (ofs : Option Int) : withUtc s ofs = { s with lny := utcLny s.lny ofs } := by
  cases ofs <;> rfl

/-- The body of TIME_SET once its UTC offset is in range. -/
def timeSetBody (x : TimeSetReq) (s : State) : Answer :=
  match x with
  | .keep => s.ok
  | .adj v => (s.modLny fun l => l.adjust (toSigned 32 v.toNat)).answer (if (toSigned 32 v.toNat).natAbs ≤ 65535 then stOk else stRange)
  | .set v => (s.lnySet v.toNat).answer (if s.setOk v.toNat then stOk else if s.anyBound then stBusy else stTime)

/-- The body of TIME_SET. -/
def timeSetAll (x : TimeSetReq) (ofs : Option Int) (s : State) : Answer :=
  if (match ofs with | some o => decide (o < -32768) || decide (32767 < o) | none => false) then s.answer stRange
  else timeSetBody x (withUtc s ofs)

theorem exec_timeSet (c : Call) (x : TimeSetReq) (ofs : Option Int) (s : State) :
    exec (.timeSet c x ofs) s = .next (capstanRun (.timeSet c x ofs) c (cmdC 0x0502 .owner) (timeSetAll x ofs) s) := by
  cases ofs <;> cases x <;> rfl

theorem timeSet_range {s : State} {c : Call} {x : TimeSetReq} {ofs : Option Int} (ht : Taken s (.timeSet c x ofs) c)
    (h : ∃ o : Int, ofs = some o ∧ (o < -32768 ∨ 32767 < o)) : turnedAway s (.timeSet c x ofs) c stRange := by
  obtain ⟨o, rfl, h⟩ := h
  exact taken_refuses (exec_timeSet c x (some o)) rfl ht fun _ _ _ => if_pos (by simpa using h)

section
variable {s : State} {c : Call} {x : TimeSetReq} {ofs : Option Int} (ht : Taken s (.timeSet c x ofs) c)
  (h : ∀ o : Int, ofs = some o → -32768 ≤ o ∧ o ≤ 32767)
include ht h

omit ht in
theorem timeSetAll_inRange (v : State) : timeSetAll x ofs v = timeSetBody x { v with lny := utcLny v.lny ofs } := by
  refine (if_neg ?_).trans (congrArg (timeSetBody x) (withUtc_only v ofs))
  cases ofs with
  | none => exact Bool.false_ne_true
  | some o =>
    have := h o rfl
    simp only [Bool.or_eq_true, decide_eq_true_eq]
    omega

/-- What a TIME_SET in range leaves: the Lanyard record of its body's state. -/
theorem timeSet_does {v : Opening → State} {st : Nat} (hb : ∀ o,
    timeSetBody x { opened s o with lny := utcLny s.lny ofs } = (v o).answer st)
    (hp : ∀ o, LanyardWrites.PowerOnly ({ opened s o with lny := (v o).lny } : State) (v o)) :
    ∃ o u, exec (.timeSet c x ofs) s = .next u ∧ answered u c st 0 [] ∧ u.lny = (v o).lny := by
  obtain ⟨o, k, -, -, hex, hans, -⟩ := taken_answers (exec_timeSet c x ofs) rfl ht (fun o _ _ => (timeSetAll_inRange h _).trans
      (hb o)) (fun o => by
    obtain ⟨_, _, hv⟩ := hp o
    exact ⟨rfl, by rw [State.answer, hv], by rw [State.answer, hv]⟩)
  exact ⟨o, _, hex, hans, rfl⟩

end

theorem utcLny_eq {s : State} {ofs : Option Int} {l : Lny} (h : l = match ofs with | some o => { s.lny with utcOfs := o } | none => s.lny) :
    l = utcLny s.lny ofs := by
  subst h
  cases ofs <;> rfl

theorem setOk_utc (s : State) (o : Opening) (ofs : Option Int) (v : Nat) :
    State.setOk { opened s o with lny := utcLny s.lny ofs } v = s.setOk v := by
  cases ofs <;> rfl

theorem anyBound_opened (s : State) (o : Opening) : (opened s o).anyBound = s.anyBound := rfl

theorem timeShift_shifts {s : State} {c : Call} {n : Nat} (ht : Taken s (.timeShift c n) c) (hb : s.anyBound = false)
    (hok : shiftOk n = true) :
    ∃ u, exec (.timeShift c n) s = .next u ∧ answered u c stOk 0 [] ∧ u.lny.shift = n ∧ u.lny.now = s.lny.now := by
  by_cases hn : n = s.lny.shift
  · obtain ⟨o, k, -, -, hex, hans, -⟩ := taken_answers (a := fun o => (opened s o).ok) (fun _ => rfl) rfl ht (fun o _ _ =>
      (if_neg (by rw [anyBound_opened, hb]; decide)).trans ((if_neg (by rw [hok]; decide)).trans (if_pos hn))) (fun _ => ⟨rfl, rfl, rfl⟩)
    exact ⟨_, hex, hans, hn.symm, rfl⟩
  · have hset := fun o => LanyardWrites.powerOnly_lnyMoved ((opened s o).modLny fun l => { l with shift := n })
    obtain ⟨o, k, -, -, hex, hans, -⟩ := taken_answers (a := fun o => ((opened s o).setShift n).ok) (fun _ => rfl) rfl ht (fun o _ _ =>
      (if_neg (by rw [anyBound_opened, hb]; decide)).trans ((if_neg (by rw [hok]; decide)).trans (if_neg hn))) (fun o => by
        obtain ⟨_, _, h⟩ := hset o
        exact SystemCommands.prompt_ok (by rw [State.setShift, h]; rfl) (by rw [State.setShift, h]; rfl))
    have hlny := (hset o).lny
    exact ⟨_, hex, hans, (congrArg Lny.shift hlny).trans rfl, (congrArg Lny.now hlny).trans rfl⟩

/-! FAB_LEAVE and FAB_GROUP. -/

theorem part_lt {s : State} {p : Nat} (h : (s.part p).join.isSome = true) : p < s.parts.length := by
  by_contra hge
  have hx : s.part p = Part.init := by
    unfold State.part
    rw [List.getD_eq_default]
    omega
  rw [hx] at h
  cases h

theorem fabLeave_leaves {s : State} {c : Call} (ht : Taken s (.fabLeave c) c) (h : (s.part (Call.part c)).join.isSome = true) :
    ∃ u, exec (.fabLeave c) s = .next u ∧ answered u c stOk 0 [] ∧ (u.part (Call.part c)).join = none ∧
      u.fabric.windows = s.fabric.windows.filter (fun w => w.2.part != Call.part c) := by
  obtain ⟨o, k, -, -, hex, hans, -⟩ := taken_answers (fun _ => rfl) rfl ht (fun o _ _ => if_neg (by
    rw [part_opened, ← Option.not_isSome, h]; decide)) (fun _ => ⟨rfl, rfl, rfl⟩)
  have hpart := part_modPart (s := opened s o) (fun p => { p with join := none }) (part_lt h)
  exact ⟨_, hex, hans, (congrArg Part.join hpart).trans rfl, rfl⟩

theorem fabGroup_keeps {s : State} {c : Call} {g : GroupRec} (ht : Taken s (.fabGroup c g) c) (hlen : Call.part c < s.parts.length)
    (h : g.cvc < 12) (hb : groupBad s g = false) : ∃ u, exec (.fabGroup c g) s = .next u ∧ answered u c stOk 0 [] ∧
      ((u.part (Call.part c)).groups.find? fun e => e.1 == g.cvc) = some (g.cvc, g) := by
  obtain ⟨o, k, -, -, hex, hans, -⟩ := taken_answers (fun _ => rfl) rfl ht (fun o _ _ => (if_neg (by omega)).trans (if_neg (by
    rw [show groupBad (opened s o) g = groupBad s g from rfl, hb]; exact Bool.false_ne_true))) (fun _ => ⟨rfl, rfl, rfl⟩)
  have hpart := part_modPart (s := opened s o) (fun p => { p with groups := (p.groups.filter fun e => e.1 != g.cvc) ++ [(g.cvc, g)] }) hlen
  refine ⟨_, hex, hans, (congrArg (fun x : Part => x.groups.find? fun e => e.1 == g.cvc) hpart).trans ?_⟩
  dsimp only
  rw [List.find?_append, find_filter_same]
  simp

/-- Settles O52, command by command. -/
theorem fabricAndTimeCommands : Obligations.FabricAndTimeCommands := by
  intro s c p hp
  subst hp
  refine ⟨fun j ht => ⟨fun h => ?_, fun hr hl hc hlen => fabJoin_joins ht hr hl hc hlen, fun hr h h2 => fabJoin_locked ht hr h h2,
      fun hr hl hc => fabJoin_clash ht hr hl hc⟩, fun ht => ⟨fun h => ?_, fun h => ?_⟩, fun g ht hlen =>
          ⟨fun h => ?_, fun h hb => ?_, fun h hb => ?_⟩,
    fun w node ht => ⟨fun h => ?_, fun h hn => ?_, fun n h hn => ⟨fun hj => ?_, fun j hj => ⟨fun hv => ?_, fun hv => ?_⟩⟩⟩,
    fun ns ht => ⟨fun h => ?_, fun h1 h2 => ?_⟩, fun ht => ?_, fun first es ht => ⟨fun h => ?_, fun h hb => ?_, fun h hb => ?_⟩,
    fun n x ht => ⟨fun h => ?_, fun h hx => ?_, fun node span h hx => ⟨fun hr => ?_, fun h1 h2 => ?_⟩⟩,
    fun port op ht => ⟨fun h => ?_, fun h16 hlen => ⟨fun ho hs => ?_, fun ho hs => ?_, fun ho => ?_, fun ho => ?_⟩⟩,
    fun src dom m ht => ⟨fun h => ?_, fun h1 h2 => ?_⟩,
    fun x ofs ht => ⟨fun h => timeSet_range ht h, fun h l hl => ⟨fun hx => ?_, fun v hx => ?_, fun v hx => ⟨fun hok => ?_, fun hok => ?_⟩⟩⟩,
    fun n ht => ⟨fun h => ?_, fun h h2 => ?_, fun h h2 => ?_⟩, fun ht => ?_⟩
  · exact taken_refuses (fun _ => rfl) rfl ht fun o _ _ => if_pos (by rw [h]; rfl)
  · exact taken_refuses (fun _ => rfl) rfl ht fun o _ _ => if_pos (by rw [part_opened, h]; rfl)
  · exact fabLeave_leaves ht h
  · exact taken_refuses (fun _ => rfl) rfl ht fun o _ _ => if_pos h
  · exact taken_refuses (fun _ => rfl) rfl ht fun o _ _ => (if_neg (by omega)).trans (if_pos hb)
  · exact fabGroup_keeps ht hlen h hb
  · exact taken_refuses (fun _ => rfl) rfl ht fun o _ _ => if_pos h
  · subst hn
    obtain ⟨o, k, -, -, hex, hans, -⟩ := taken_answers (fun _ => rfl) rfl ht (fun o _ _ => if_neg (by omega)) (fun _ => ⟨rfl, rfl, rfl⟩)
    exact ⟨_, hex, hans, find_filter_same w s.fabric.windows⟩
  · subst hn
    exact taken_refuses (fun _ => rfl) rfl ht fun o _ _ => (if_neg (by omega)).trans (by rw [part_opened, hj])
  · subst hn
    exact taken_refuses (fun _ => rfl) rfl ht fun o _ _ => (if_neg (by omega)).trans (by
      rw [part_opened, hj]
      exact if_pos (by rw [show nodeValid (opened s o) j.dims n = nodeValid s j.dims n from rfl, hv]; rfl))
  · subst hn
    obtain ⟨o, k, -, -, hex, hans, -⟩ := taken_answers (a := fun o => ((opened s o).modFab fun f => { f with
      windows := (w, ⟨n, j.job, Call.part c⟩) :: s.fabric.windows.filter fun e => e.1 != w }).ok) (fun _ => rfl) rfl ht
      (fun o _ _ => (if_neg (by omega)).trans (by
        rw [part_opened, hj]
        exact if_neg (by rw [show nodeValid (opened s o) j.dims n = nodeValid s j.dims n from rfl, hv]; decide))) (fun _ => ⟨rfl, rfl, rfl⟩)
    exact ⟨_, hex, hans, List.find?_cons_of_pos (by simp)⟩
  · exact taken_refuses (fun _ => rfl) rfl ht fun o _ _ => if_pos (by simpa using h)
  · obtain ⟨o, k, -, -, hex, hans, -⟩ := taken_answers (fun _ => rfl) rfl ht (fun o _ _ => if_neg (by simp; omega)) (fun _ =>
      ⟨rfl, rfl, rfl⟩)
    exact ⟨_, hex, hans, rfl⟩
  · obtain ⟨o, k, -, -, hex, hans, -⟩ := taken_answers (fun _ => rfl) rfl ht (fun o _ _ => rfl) (fun _ => ⟨rfl, rfl, rfl⟩)
    exact ⟨_, hex, hans, rfl, commandsAnswer.2.2.2 _ _ _ _ rfl rfl hex⟩
  · exact taken_refuses (fun _ => rfl) rfl ht fun o _ _ => if_pos h
  · exact taken_refuses (fun _ => rfl) rfl ht fun o _ _ => (if_neg (by omega)).trans (if_pos (by simpa using hb))
  · obtain ⟨o, k, -, -, hex, hans, -⟩ :=
      taken_answers (a := fun o => ((opened s o).modFab fun f => { f with routes := putRoutes first f.routes es }).ok)
      (fun _ => rfl) rfl ht (fun o _ _ => (if_neg (by omega)).trans (if_neg (by simpa using hb))) (fun _ => ⟨rfl, rfl, rfl⟩)
    obtain ⟨hin, hout⟩ := routeIn_putRoutes es first s.fabric.routes
    refine ⟨_, hex, hans, fun k hk => ?_, fun n hn => ?_⟩
    · rw [routeEntry_eq]
      exact hin k hk
    · rw [routeEntry_eq, routeEntry_eq]
      exact hout n hn
  · exact taken_refuses (fun _ => rfl) rfl ht fun o _ _ => if_pos h
  · subst hx
    obtain ⟨o, k, -, -, hex, hans, -⟩ := taken_answers (fun _ => rfl) rfl ht (fun o _ _ => if_neg (by omega)) (fun _ => ⟨rfl, rfl, rfl⟩)
    refine ⟨_, hex, hans, ?_⟩
    unfold State.gateway
    rw [Nat.mod_eq_of_lt h]
    exact congrArg (Option.map Prod.snd) (find_filter_same n s.fabric.gateways)
  · subst hx
    exact taken_refuses (fun _ => rfl) rfl ht fun o _ _ => (if_neg (by omega)).trans (if_pos (by simpa using hr))
  · subst hx
    obtain ⟨o, k, -, -, hex, hans, -⟩ := taken_answers (a := fun o => ((opened s o).modFab fun f => { f with
      gateways := (n, node, span) :: s.fabric.gateways.filter fun e => e.1 != n }).ok) (fun _ => rfl) rfl ht
      (fun o _ _ => (if_neg (by omega)).trans (if_neg (by simp; omega))) (fun _ => ⟨rfl, rfl, rfl⟩)
    refine ⟨_, hex, hans, ?_⟩
    unfold State.gateway
    rw [Nat.mod_eq_of_lt h]
    exact congrArg (Option.map Prod.snd) (List.find?_cons_of_pos (by simp))
  · exact taken_refuses (exec_fabPort c port op) rfl ht fun o _ _ => if_pos h
  · subst ho
    exact taken_refuses (exec_fabPort c port .retrain) rfl ht fun o _ _ => (if_neg (by omega)).trans (if_neg hs)
  · subst ho
    exact fabPort_retrains h16 hlen ht hs
  · subst ho
    exact fabPort_disables h16 hlen ht
  · subst ho
    exact fabPort_enables h16 hlen ht
  · exact taken_refuses (fun _ => rfl) rfl ht fun o _ _ => if_pos (by simpa using h)
  · obtain ⟨o, k, -, -, hex, hans, -⟩ := taken_answers (fun _ => rfl) rfl ht (fun o _ _ => if_neg (by simp; omega)) (fun _ =>
      ⟨rfl, rfl, rfl⟩)
    exact ⟨_, hex, hans, rfl⟩
  · obtain rfl := utcLny_eq hl
    subst hx
    obtain ⟨o, u, hex, hans, hu⟩ := timeSet_does ht h (v := fun o => { opened s o with lny := utcLny s.lny ofs }) (st := stOk)
        (fun _ => rfl)
      (fun _ => .refl _)
    exact ⟨u, hex, hans, hu⟩
  · obtain rfl := utcLny_eq hl
    subst hx
    obtain ⟨o, u, hex, hans, hu⟩ := timeSet_does ht h (fun _ => rfl) (fun _ => .refl _)
    exact ⟨u, hex, hu, hans⟩
  · obtain rfl := utcLny_eq hl
    subst hx
    have hset := fun o => LanyardWrites.powerOnly_lnyMoved { opened s o with
      lny := { utcLny s.lny ofs with now := v.toNat, frac := 0, locked := true } }
    obtain ⟨o, u, hex, hans, hu⟩ := timeSet_does ht h (v := fun o => State.lnyMoved { opened s o with
      lny := { utcLny s.lny ofs with now := v.toNat, frac := 0, locked := true } }) (st := stOk) (fun o => by
        unfold timeSetBody State.lnySet
        dsimp only
        rw [setOk_utc, hok, if_pos rfl, if_pos rfl]
        rfl) (fun o => by rw [(hset o).lny]; exact hset o)
    rw [(hset o).lny] at hu
    exact ⟨u, hex, hans, (congrArg Lny.now hu).trans rfl, (congrArg Lny.locked hu).trans rfl, (congrArg Lny.utcOfs hu).trans rfl⟩
  · obtain rfl := utcLny_eq hl
    subst hx
    obtain ⟨o, u, hex, hans, hu⟩ :=
        timeSet_does ht h (v := fun o => { opened s o with lny := { utcLny s.lny ofs with setRefused := true } })
      (st := if s.anyBound then stBusy else stTime) (fun o => by
        unfold timeSetBody State.lnySet
        dsimp only
        rw [setOk_utc, hok, if_neg Bool.false_ne_true, if_neg Bool.false_ne_true]
        rfl) (fun _ => .refl _)
    exact ⟨u, hex, hu, hans⟩
  · exact taken_refuses (fun _ => rfl) rfl ht fun o _ _ => if_pos h
  · exact taken_refuses (fun _ => rfl) rfl ht fun o _ _ => (if_neg (by rw [anyBound_opened, h]; decide)).trans (if_pos (by rw [h2]; rfl))
  · exact timeShift_shifts ht h h2
  · obtain ⟨o, k, -, -, hex, hans, -⟩ := taken_answers (fun _ => rfl) rfl ht (fun o _ _ => rfl) (fun _ => ⟨rfl, rfl, rfl⟩)
    exact ⟨_, hex, rfl, commandsAnswer.2.2.2 _ _ _ _ rfl rfl hex, hans⟩

end Sys2Proof.Proofs.FabricCommands
end

section
/-! PROOFS. The power and tether commands of the mailboxes, and the two register writes of the Slate items. -/
namespace Sys2Proof.Proofs.PowerCommands

open Sys2Proof Sys2Proof.Machine Sys2Proof.Laws Sys2Proof.Safety Sys2Proof.Proofs.Stores Sys2Proof.Proofs.Messages
open Sys2Proof.Proofs.Answers Sys2Proof.Proofs.SystemCommands

/-! The owner ceiling (R11, R378). -/

/-- s with a new owner ceiling, one change consumed. -/
def ceilSet (s : State) (w : Nat) : State := (s.slateChange 0 fun k => { k with ceil := w, ceilLeft := k.ceilLeft - 1 }).rethrottle

theorem setCeil_same {s : State} {src : Option Src} {w : Nat} (h : w = s.cap.ceil) : s.setCeil src w = (s, stOk) := by
  unfold State.setCeil
  rw [decide_eq_false (not_not.mpr h)]
  rfl

theorem setCeil_refused {s : State} {src : Option Src} {w : Nat} (h : w ≠ s.cap.ceil) (h0 : s.cap.ceilLeft = 0) :
    s.setCeil src w = (s.slRefuse src 0, stSlRefused) := by
  unfold State.setCeil
  rw [decide_eq_true h, h0]
  rfl

theorem setCeil_sets {s : State} {src : Option Src} {w : Nat} (h : w ≠ s.cap.ceil) (h0 : 0 < s.cap.ceilLeft) :
    s.setCeil src w = (ceilSet s w, stOk) := by
  unfold State.setCeil
  rw [decide_eq_true h, slWrite_write h0]
  rfl

/-- PWR_CEILING answers what setting the ceiling answers. -/
theorem pwrCeiling_does {s : State} {c : Call} {w st : Nat} {v : Opening → State} (ht : Taken s (.pwrCeiling c w) c) (hw : ceilOk w = true)
    (h : ∀ o, (opened s o).setCeil (some c.src) w = (v o, st)) (hcap : ∀ o, (v o).cap.mbx = o.mbx ∧ (v o).cap.sessions = o.sessions) :
    ∃ o k, exec (.pwrCeiling c w) s = .next (closed (v o) k) ∧ answered (closed (v o) k) c st 0 [] := by
  obtain ⟨o, k, -, -, hex, hans, -⟩ := taken_answers (a := fun o => (v o).answer st) (fun _ => rfl) rfl ht
    (fun o _ _ => (if_neg (by rw [hw]; decide)).trans (by rw [h])) (fun o => ⟨rfl, (hcap o).1, (hcap o).2⟩)
  exact ⟨o, k, hex, hans⟩

/-! The cartridge policy (R11, R410). -/

/-- s with a new cartridge policy, one change consumed. -/
def cartSet (s : State) (root grace hash : Nat) : State :=
  (s.slateChange 4 fun k => { k with cartRoot := root, cartGrace := grace, cartHash := hash, cartLeft := k.cartLeft - 1 }).rethrottle

/-- The cartridge policy in force. -/
def CartIs (s : State) (root grace hash : Nat) : Prop := root = s.cap.cartRoot ∧ grace = s.cap.cartGrace ∧ hash = s.cap.cartHash

section
variable {s : State} {src : Option Src} {root grace hash : Nat}

theorem setCart_same (h : CartIs s root grace hash) : s.setCart src root grace hash = (s, stOk) := by
  obtain ⟨h1, h2, h3⟩ := h
  unfold State.setCart
  dsimp only
  rw [decide_eq_true h1, decide_eq_true h2, decide_eq_true h3]
  rfl

theorem cart_differs (h : ¬CartIs s root grace hash) :
    (!(decide (root = s.cap.cartRoot) && decide (grace = s.cap.cartGrace) && decide (hash = s.cap.cartHash))) = true := by
  unfold CartIs at h
  simp only [Bool.not_eq_true', Bool.and_eq_false_iff, decide_eq_false_iff_not]
  tauto

theorem setCart_refused (h : ¬CartIs s root grace hash) (h0 : s.cap.cartLeft = 0) :
    s.setCart src root grace hash = (s.slRefuse src 4, stSlRefused) := by
  unfold State.setCart
  dsimp only
  rw [cart_differs h, h0]
  rfl

theorem setCart_sets (h : ¬CartIs s root grace hash) (h0 : 0 < s.cap.cartLeft) :
    s.setCart src root grace hash = (cartSet s root grace hash, stOk) := by
  unfold State.setCart
  dsimp only
  rw [cart_differs h, slWrite_write h0]
  rfl

end

/-- PWR_CART_POLICY answers what setting the policy answers. -/
theorem pwrCart_does {s : State} {c : Call} {root grace hash st : Nat} {v : Opening → State}
    (ht : Taken s (.pwrCartPolicy c root grace hash) c)
    (hr : root ≤ 1) (hg : grace ≤ 2000) (h : ∀ o, (opened s o).setCart (some c.src) root grace hash = (v o, st))
    (hcap : ∀ o, (v o).cap.mbx = o.mbx ∧ (v o).cap.sessions = o.sessions) :
    ∃ o k, exec (.pwrCartPolicy c root grace hash) s = .next (closed (v o) k) ∧ answered (closed (v o) k) c st 0 [] := by
  obtain ⟨o, k, -, -, hex, hans, -⟩ := taken_answers (a := fun o => (v o).answer st) (fun _ => rfl) rfl ht
    (fun o _ _ => (if_neg (by simp; omega)).trans (by rw [h])) (fun o => ⟨rfl, (hcap o).1, (hcap o).2⟩)
  exact ⟨o, k, hex, hans⟩

theorem slRefuse_lists (s : State) (o : Opening) (src : Option Src) (item : Nat) :
    ((opened s o).slRefuse src item).cap.mbx = o.mbx ∧ ((opened s o).slRefuse src item).cap.sessions = o.sessions := by
  rw [cap_slRefuse]
  exact ⟨rfl, rfl⟩

/-! PWR_REQUEST: the region shares (R387). -/

/-- What a share writes: the regions, and the gear changes under way. -/
def Shared (s v : State) : Prop := ∃ regions cur queue gearAt, v = { s with
  regions := regions, power := { s.power with cur := cur, queue := queue, gearAt := gearAt } }

theorem Shared.refl (s : State) : Shared s s := ⟨_, _, _, _, rfl⟩

theorem Shared.trans {s v w : State} (h : Shared s v) (k : Shared v w) : Shared s w := by
  obtain ⟨_, _, _, _, rfl⟩ := h
  obtain ⟨_, _, _, _, rfl⟩ := k
  exact ⟨_, _, _, _, rfl⟩

theorem shared_retarget (s : State) (r : Nat) : Shared s (s.retarget r) ∧ ∀ k, ((s.retarget r).region k).shareCap =
    (s.region k).shareCap := by
  unfold State.retarget
  dsimp only
  split
  · exact ⟨.refl s, fun _ => rfl⟩
  split
  · exact ⟨⟨_, _, _, _, rfl⟩, fun k => Feeds.region_modRegion_keeps (g := Region.shareCap) (f := fun x =>
      { x with gear := (s.region r).target s.power.gear })
      (fun _ => rfl) s r k⟩
  split
  · exact ⟨.refl s, fun _ => rfl⟩
  · obtain ⟨c, q, g, h⟩ := Sensors.requestChange_only s (some r) ((s.region r).target s.power.gear)
    rw [h]
    exact ⟨⟨_, _, _, _, rfl⟩, fun _ => rfl⟩

/-- A region of the partition follows its own limits. -/
def retargetOne (p : Nat) (s : State) (r : Nat) : State := if bit (s.part p).mask (r / 8) then s.retarget r else s

theorem shared_retargets (p : Nat) : ∀ (l : List Nat) (s : State), Shared s (l.foldl (retargetOne p) s) ∧
    ∀ k, ((l.foldl (retargetOne p) s).region k).shareCap = (s.region k).shareCap
  | [], s => ⟨.refl s, fun _ => rfl⟩
  | r :: l, s => by
    have h1 : Shared s (retargetOne p s r) ∧ ∀ k, ((retargetOne p s r).region k).shareCap = (s.region k).shareCap := by
      unfold retargetOne
      split
      · exact shared_retarget s r
      · exact ⟨.refl s, fun _ => rfl⟩
    obtain ⟨h2, h3⟩ := shared_retargets p l (retargetOne p s r)
    exact ⟨h1.1.trans h2, fun k => (h3 k).trans (h1.2 k)⟩

/-- A region of the partition takes the share's cap. -/
def shareOne (p cap : Nat) (s : State) (r : Nat) : State :=
  if bit (s.part p).mask (r / 8) then s.modRegion r fun x => { x with shareCap := cap } else s

theorem shareOne_parts (p cap : Nat) (s : State) (r : Nat) : (shareOne p cap s r).parts = s.parts := by
  unfold shareOne
  split <;> rfl

theorem shareOne_lt {p cap : Nat} {s : State} {k : Nat} (r : Nat) (h : k < s.regions.length) : k < (shareOne p cap s r).regions.length := by
  unfold shareOne
  split
  · simpa [State.modRegion, modAt] using h
  · exact h

theorem shareOne_caps {p cap k r : Nat} {s : State} (h : k < s.regions.length) (hm : bit (s.part p).mask (k / 8) = true)
    (hk : k = r ∨ (s.region k).shareCap = cap) : ((shareOne p cap s r).region k).shareCap = cap := by
  unfold shareOne
  by_cases he : k = r
  · subst he
    rw [if_pos hm]
    exact congrArg Region.shareCap (Cleat.region_modRegion _ h)
  · split
    · exact (congrArg Region.shareCap (Cleat.region_modRegion_ne _ he)).trans (hk.resolve_left he)
    · exact hk.resolve_left he

theorem share_foldl (p cap : Nat) : ∀ (l : List Nat) (s : State), Shared s (l.foldl (shareOne p cap) s) ∧ ∀ k, k < s.regions.length →
    bit (s.part p).mask (k / 8) = true → k ∈ l ∨ (s.region k).shareCap = cap → ((l.foldl (shareOne p cap) s).region k).shareCap = cap
  | [], s => ⟨.refl s, fun _ _ _ h => h.resolve_left (by simp)⟩
  | r :: l, s => by
    obtain ⟨h1, h2⟩ := share_foldl p cap l (shareOne p cap s r)
    refine ⟨Shared.trans ?_ h1, fun k hk hm h => h2 k (shareOne_lt r hk) ?_ ?_⟩
    · unfold shareOne
      split
      · exact ⟨_, _, _, _, rfl⟩
      · exact .refl s
    · rw [ProgramCommands.part_congr (shareOne_parts p cap s r)]
      exact hm
    · by_cases he : k = r
      · exact .inr (shareOne_caps hk hm (.inl he))
      · exact h.imp (fun hm => (List.mem_cons.mp hm).resolve_left he) fun h => shareOne_caps hk hm (.inr h)

/-- Setting a partition's share caps its regions, and touches no more than gears and regions. -/
theorem setShare_caps (s : State) (p cap : Nat) : ∃ v, s.setShare p cap = v ∧ Shared s v ∧
    ∀ r, r < 32 → r < s.regions.length → bit (s.part p).mask (r / 8) = true → (v.region r).shareCap = cap := by
  have hset : s.setShare p cap = (List.range 32).foldl (retargetOne p) ((List.range 32).foldl (shareOne p cap) s) := rfl
  obtain ⟨h1, h2⟩ := share_foldl p cap (List.range 32) s
  obtain ⟨h3, h4⟩ := shared_retargets p (List.range 32) ((List.range 32).foldl (shareOne p cap) s)
  refine ⟨_, hset, h1.trans h3, fun r hr hlen hm => (h4 r).trans (h2 r hlen hm (.inl (List.mem_range.mpr hr)))⟩

section
variable {s : State} {c : Call} {req g : Nat} (ht : Taken s (.pwrRequest c req g) c)
include ht

theorem pwrRequest_range (h : req < 50 ∨ 1200 < req ∨ 7 < g) : turnedAway s (.pwrRequest c req g) c stRange :=
  taken_refuses (fun _ => rfl) rfl ht fun _ _ _ => if_pos (by
    simp only [Bool.or_eq_true, decide_eq_true_eq]
    tauto)

/-- The share caps of a partition's regions. -/
def shareCaps (s : State) (p : Nat) : List Nat := ((List.range 32).filter fun r => bit (s.part p).mask (r / 8)).map fun r =>
    (s.region r).shareCap

theorem pwrRequest_takes (h1 : 50 ≤ req) (h2 : req ≤ 1200) (h3 : g ≤ 7) (hp : Call.part c < s.power.parts.length) :
    ∃ u, exec (.pwrRequest c req g) s = .next u ∧ answered u c stOk 0 [] ∧ (u.prec (Call.part c)).2.1 = req ∧
      (u.prec (Call.part c)).2.2.1 = g ∧
      (bit c.msg.cflags 0 = true → (u.power.throt.getD (Call.part c) (0, 0)).2 = (u.power.throt.getD (Call.part c) (0, 0)).1) ∧
      ∀ r, r < 32 → r < s.regions.length → bit (s.part (Call.part c)).mask (r / 8) = true → (u.region r).shareCap ≤ g := by
  obtain ⟨o, ho, -⟩ := opened_base s c
  obtain ⟨v, hv, ⟨regions, cur, queue, gearAt, hshared⟩, hcaps⟩ := setShare_caps ((opened s o).modPower fun w => { w with
    parts := w.parts.set (Call.part c) ((s.prec (Call.part c)).1, req, g, (s.prec (Call.part c)).2.2.2) }) (Call.part c)
    (min ((shareCaps (opened s o) (Call.part c)).foldl min 7) g)
  obtain ⟨throt, hthrot⟩ := Cleat.rethrottle_only v
  have hbody : (if bit c.msg.cflags 0 then v.rethrottle.clearSticky (Call.part c) else v.rethrottle) =
      v.modPower fun w => { w with throt := if bit c.msg.cflags 0 then modAt throt (Call.part c) fun x => (x.1, x.1) else throt } := by
    rw [hthrot]
    split <;> rfl
  obtain ⟨k, hex, hans⟩ := MemoryCommands.taken_does (v := v.modPower fun w => { w with
      throt := if bit c.msg.cflags 0 then modAt throt (Call.part c) fun x => (x.1, x.1) else throt }) (fun _ => rfl) rfl ht (by
    rw [ho]
    refine (if_neg (by simp only [Bool.or_eq_true, decide_eq_true_eq]; omega)).trans (congrArg State.ok (Eq.trans ?_ hbody))
    rw [← hv]
    rfl) (by rw [ho, modPower_cap, hshared, modPower_cap]) (by rw [ho, modPower_cap, hshared, modPower_cap])
  have hprec : v.prec (Call.part c) = ((s.prec (Call.part c)).1, req, g, (s.prec (Call.part c)).2.2.2) := by
    rw [hshared]
    simp [State.prec, State.modPower, List.getD_eq_getElem?_getD, hp]
  refine ⟨_, hex, hans, congrArg (fun x => x.2.1) hprec, congrArg (fun x => x.2.2.1) hprec, fun hbit => ?_, fun r hr hlen hm => ?_⟩
  · simp only [hbit, modPower_power, ↓reduceIte]
    rw [modAt, List.getD_eq_getElem?_getD, List.getElem?_modify_eq]
    cases throt[Call.part c]? <;> rfl
  · exact Nat.le_trans (Nat.le_of_eq (hcaps r hr hlen hm)) (Nat.min_le_right _ _)

end

/-! The tether ceiling in force (R393). -/

/-- s with the ceiling in force formed anew. -/
structure Tethered (s : State) (w : Power) : Prop where
  standing : w.standing = s.power.standing
  schedule : w.schedule = s.power.schedule
  ramp : w.rampEn = s.power.rampEn
  tether : w.tether = s.tetherAt s.now

theorem applyTether_forms (s : State) : ∃ w, s.applyTether = { s with power := w } ∧ Tethered s w := by
  unfold State.applyTether
  dsimp only
  split
  · exact ⟨s.power, rfl, rfl, rfl, rfl, (‹s.tetherAt s.now = s.power.tether›).symm⟩
  · split
    · exact ⟨_, rfl, rfl, rfl, rfl, rfl⟩
    · unfold State.planned
      split <;> exact ⟨_, rfl, rfl, rfl, rfl, rfl⟩

theorem tetherAt_congr {s v : State} (hs : v.power.standing = s.power.standing) (hc : v.power.schedule = s.power.schedule)
    (hl : v.lny = s.lny)
    (t : Nat) : v.tetherAt t = s.tetherAt t := by
  unfold State.tetherAt State.utcMinute
  rw [hs, hc, hl]

/-- A tether command leaves the ceiling of its record in force. -/
theorem tether_applies {s : State} {i : Instr} {c : Call} {x : CmdInfo} {body : State → Answer} {f : Power → Power}
    (hrun : ∀ s, exec i s = .next (capstanRun i c x body s)) (hcmd : cmdOf i = some (c, x)) (ht : Taken s i c)
    (hb : ∀ o, body (opened s o) = ((opened s o).modPower f).applyTether.ok) : ∃ u, exec i s = .next u ∧ answered u c stOk 0 [] ∧
      u.power.standing = (f s.power).standing ∧ u.power.schedule = (f s.power).schedule ∧ u.power.rampEn = (f s.power).rampEn ∧
      u.power.tether = u.tetherAt u.now := by
  obtain ⟨o, ho, -⟩ := opened_base s c
  obtain ⟨w, hw, hs, hc, hr, ht'⟩ := applyTether_forms ((opened s o).modPower f)
  obtain ⟨k, hex, hans⟩ := MemoryCommands.taken_does (v := { (opened s o).modPower f with power := w }) hrun hcmd ht
    ((congrArg body ho).trans ((hb o).trans (congrArg State.ok hw))) (by rw [ho, modPower_cap]) (by rw [ho, modPower_cap])
  refine ⟨_, hex, hans, hs, hc, hr, ht'.trans ?_⟩
  exact (tetherAt_congr (s := (opened s o).modPower f) (v := closed { (opened s o).modPower f with power := w } k) hs hc rfl _).symm

theorem tetherAt_clear {s : State} (hs : s.power.standing = none) (hc : s.power.schedule = (0, [])) (t : Nat) : s.tetherAt t = 0 := by
  unfold State.tetherAt
  rw [hs, hc]
  simp

/-! PWR_METER and METER_FETCH (R400). -/

theorem exec_meter {c : Call} {i : Instr} {n m : Nat} (h : i = .pwrMeter c n m ∨ i = .meterFetch c n m) :
    ∃ x, cmdOf i = some (c, x) ∧ ∀ s, exec i s = .next (capstanRun i c x (fun s => s.meterAnswer n m) s) := by
  obtain rfl | rfl := h
  · exact ⟨_, rfl, fun _ => rfl⟩
  · exact ⟨_, rfl, fun _ => rfl⟩

/-! PWR_TUNE (R389). -/

theorem clearSticky_foldl : ∀ (l : List Nat) (s : State), ∃ t, l.foldl (fun s p => s.clearSticky p) s = s.modPower fun w =>
    { w with throt := t }
  | [], s => ⟨s.power.throt, rfl⟩
  | p :: l, s => by
    obtain ⟨t, h⟩ := clearSticky_foldl l (s.clearSticky p)
    exact ⟨t, h⟩

theorem pwrTune_takes {s : State} {c : Call} {x : TuneReq} (ht : Taken s (.pwrTune c x) c) (h1 : 1 ≤ x.cleatHoldMs)
    (h2 : x.cleatHoldMs ≤ 1000)
    (h3 : x.guardW < 2 ^ 16) (h4 : x.tripLevel < 256) (h5 : x.releaseLevel < 256) (h6 : x.stretchPct < 256) :
    ∃ u, exec (.pwrTune c x) s = .next u ∧ answered u c stOk 0 [] ∧ u.power.rampEn = x.rampEn ∧ u.power.guard = x.guardW ∧
      u.power.cleatHoldMs = x.cleatHoldMs ∧ u.power.droopTrip = x.tripLevel ∧ u.power.droopRelease = x.releaseLevel ∧
      u.power.stretchPct = x.stretchPct ∧ u.power.tether = s.power.tether ∧ u.cap.ceil = s.cap.ceil := by
  obtain ⟨o, ho, -⟩ := opened_base s c
  obtain ⟨v, hv⟩ : ∃ v, v = (opened s o).modPower fun w => { w with
    rampEn := x.rampEn, guard := x.guardW, cleatHoldMs := x.cleatHoldMs, droopTrip := x.tripLevel
    droopRelease := x.releaseLevel, stretchPct := x.stretchPct } := ⟨_, rfl⟩
  obtain ⟨t, hbody⟩ : ∃ t, (if bit c.msg.cflags 0 then
      (if c.msg.partition = 0xFF then [0, 1, 2, 3] else [c.msg.partition]).foldl (fun s p => s.clearSticky p) v else v) =
      v.modPower fun w => { w with throt := t } := by
    split
    · exact clearSticky_foldl _ v
    · exact ⟨v.power.throt, rfl⟩
  obtain ⟨k, hex, hans⟩ := MemoryCommands.taken_does (v := v.modPower fun w => { w with throt := t }) (fun _ => rfl) rfl ht (by
    rw [ho]
    refine (if_neg (by simp only [Bool.or_eq_true, decide_eq_true_eq]; omega)).trans (congrArg State.ok (Eq.trans ?_ hbody))
    rw [hv]) (by rw [ho, modPower_cap, hv, modPower_cap]) (by rw [ho, modPower_cap, hv, modPower_cap])
  subst hv
  exact ⟨_, hex, hans, rfl, rfl, rfl, rfl, rfl, rfl, rfl, rfl⟩

/-! The two registers of Slate items, written by the Capstan. -/

section
variable {s : State} {v : W64}

theorem ceilWrite_range (h : ceilOk (bits v.toNat 0 16) = false) : s.ceilWrite true v = s :=
  (if_neg Bool.false_ne_true).trans (if_pos (by rw [h]; rfl))

theorem ceilWrite_waits (h : ceilOk (bits v.toNat 0 16) = true) (hm : s.mramIdle = false) :
    s.ceilWrite true v = s.await (.pwrCeilOwnerWrite true v) :=
  (if_neg Bool.false_ne_true).trans ((if_neg (by rw [h]; decide)).trans (if_pos (by rw [hm]; rfl)))

theorem ceilWrite_sets (h : ceilOk (bits v.toNat 0 16) = true) (hm : s.mramIdle = true) :
    s.ceilWrite true v = (s.setCeil none (bits v.toNat 0 16)).1 :=
  (if_neg Bool.false_ne_true).trans ((if_neg (by rw [h]; decide)).trans (if_neg (by rw [hm]; decide)))

theorem cartWrite_range (h : 2000 < bits v.toNat 16 11) : s.cartWrite true v = s := (if_neg Bool.false_ne_true).trans (if_pos h)

theorem cartWrite_waits (h : bits v.toNat 16 11 ≤ 2000) (hm : s.mramIdle = false) :
    s.cartWrite true v = s.await (.thmCartPolicyWrite true v) :=
  (if_neg Bool.false_ne_true).trans ((if_neg (Nat.not_lt_of_le h)).trans (if_pos (by rw [hm]; rfl)))

theorem cartWrite_sets (h : bits v.toNat 16 11 ≤ 2000) (hm : s.mramIdle = true) :
    s.cartWrite true v = (s.setCart none (bits v.toNat 0 1) (bits v.toNat 16 11) s.cap.cartHash).1 :=
  (if_neg Bool.false_ne_true).trans ((if_neg (Nat.not_lt_of_le h)).trans (if_neg (by rw [hm]; decide)))

end

theorem getD_set_self {α : Type} {l : List α} {p : Nat} {x d : α} (h : p < l.length) : (l.set p x).getD p d = x := by
  simp [List.getD_eq_getElem?_getD, h]

theorem getD_set_ne {α : Type} {l : List α} {p q : Nat} {x d : α} (h : q ≠ p) : (l.set p x).getD q d = l.getD q d := by
  simp [List.getD_eq_getElem?_getD, Ne.symm h]

/-- Settles O53, command by command. -/
theorem powerAndTetherCommands : Obligations.PowerAndTetherCommands := by
  intro s c
  refine ⟨fun w ht => ⟨fun h => ?_, fun h hne h0 => ?_, fun h hne h0 => ?_, fun h he => ?_⟩,
    fun v w hw => ⟨rfl, fun h => ?_, fun h hm => ?_, fun h hm he => ?_, fun h hm hne h0 => ?_, fun h hm hne h0 => ?_⟩,
    fun root grace hash ht => ⟨fun h => ?_, fun hr hg hne => ⟨fun h0 => ?_, fun h0 => ?_⟩, fun hr hg he => ?_⟩,
    fun v root grace same hroot hgrace hsame => ⟨rfl, fun h => ?_, fun h hm => ?_, fun h hm he => ?_, fun h hm hne h0 => ?_,
        fun h hm hne h0 => ?_⟩,
    fun p prio ht => ⟨fun h => ?_, fun h1 h2 hp => ?_⟩, fun req g p ht hp => ⟨pwrRequest_range ht, fun h1 h2 h3 hlen => ?_⟩,
    fun slot key ht => ⟨fun h => ?_, fun h => ?_⟩, fun m ht => ⟨fun h => ?_, fun h => ?_⟩, fun x ht => ⟨fun h => ?_, pwrTune_takes ht⟩,
    fun i n m got hi ht hgot => ⟨fun h => ?_, fun h1 h2 h => ?_, fun h1 h2 h => ?_⟩,
    fun w at_ ramp ht => ⟨fun h => ?_, fun h => ?_⟩, fun start ws ht => ⟨fun h => ?_, fun h1 h2 h3 => ?_⟩, fun ht => ?_, fun ht => ?_⟩
  · exact taken_refuses (fun _ => rfl) rfl ht fun o _ _ => if_pos (by rw [h]; rfl)
  · obtain ⟨o, k, hex, hans⟩ := pwrCeiling_does ht h (fun o => setCeil_sets (s := opened s o) hne h0) (fun _ => ⟨rfl, rfl⟩)
    exact ⟨_, hex, hans, rfl, rfl⟩
  · obtain ⟨o, k, hex, hans⟩ := pwrCeiling_does ht h (fun o => setCeil_refused (s := opened s o) hne h0) (fun o => slRefuse_lists s o _ 0)
    have hceil := congrArg Capstan.ceil (cap_slRefuse (opened s o) (some c.src) 0)
    exact ⟨_, hex, hans, hceil⟩
  · obtain ⟨o, k, hex, hans⟩ := pwrCeiling_does ht h (fun o => setCeil_same (s := opened s o) he) (fun _ => ⟨rfl, rfl⟩)
    exact ⟨_, hex, hans, rfl, rfl⟩
  · exact congrArg Host.Outcome.next (ceilWrite_range (hw ▸ h))
  · exact congrArg Host.Outcome.next ((ceilWrite_waits (hw ▸ h) hm))
  · exact congrArg Host.Outcome.next ((ceilWrite_sets (hw ▸ h) hm).trans (congrArg Prod.fst (setCeil_same (hw ▸ he))))
  · exact congrArg Host.Outcome.next ((ceilWrite_sets (hw ▸ h) hm).trans (congrArg Prod.fst (setCeil_refused (hw ▸ hne) h0)))
  · subst hw
    exact ⟨_, congrArg Host.Outcome.next ((ceilWrite_sets h hm).trans (congrArg Prod.fst (setCeil_sets hne h0))), rfl, rfl, rfl,
      SameBytes.sameMemory ⟨rfl, rfl, rfl, rfl⟩⟩
  · exact taken_refuses (fun _ => rfl) rfl ht fun o _ _ => if_pos (by simpa using h)
  · obtain ⟨o, k, hex, hans⟩ := pwrCart_does ht hr hg (fun o => setCart_sets (s := opened s o) hne h0) (fun _ => ⟨rfl, rfl⟩)
    exact ⟨_, hex, hans, rfl, rfl, rfl, rfl⟩
  · obtain ⟨o, k, hex, hans⟩ := pwrCart_does ht hr hg (fun o => setCart_refused (s := opened s o) hne h0) (fun o => slRefuse_lists s o _ 4)
    have hcap := cap_slRefuse (opened s o) (some c.src) 4
    have hroot := congrArg Capstan.cartRoot hcap
    have hgrace := congrArg Capstan.cartGrace hcap
    have hhash := congrArg Capstan.cartHash hcap
    exact ⟨_, hex, hans, hroot, hgrace, hhash⟩
  · obtain ⟨o, k, hex, hans⟩ := pwrCart_does ht hr hg (fun o => setCart_same (s := opened s o) he) (fun _ => ⟨rfl, rfl⟩)
    exact ⟨_, hex, hans, rfl⟩
  · exact congrArg Host.Outcome.next (cartWrite_range (hgrace ▸ h))
  · exact congrArg Host.Outcome.next (cartWrite_waits (hgrace ▸ h) hm)
  · subst hroot hgrace hsame
    exact congrArg Host.Outcome.next ((cartWrite_sets h hm).trans (congrArg Prod.fst (setCart_same ⟨he.1, he.2, rfl⟩)))
  · subst hroot hgrace hsame
    exact congrArg Host.Outcome.next ((cartWrite_sets h hm).trans (congrArg Prod.fst (setCart_refused (fun hc => hne ⟨hc.1, hc.2.1⟩) h0)))
  · subst hroot hgrace hsame
    exact ⟨_, congrArg Host.Outcome.next ((cartWrite_sets h hm).trans (congrArg Prod.fst (setCart_sets (fun hc => hne ⟨hc.1, hc.2.1⟩) h0))),
      rfl, rfl, rfl, rfl, rfl, SameBytes.sameMemory ⟨rfl, rfl, rfl, rfl⟩⟩
  · exact taken_refuses (fun _ => rfl) rfl ht fun o _ _ => if_pos (by simpa using h)
  · obtain ⟨o, k, -, -, hex, hans, -⟩ := taken_answers (fun _ => rfl) rfl ht (fun o _ _ => if_neg (by simp; omega)) (fun _ =>
      ⟨rfl, rfl, rfl⟩)
    exact ⟨_, hex, hans, getD_set_self hp, fun q hq => getD_set_ne hq⟩
  · subst hp
    exact pwrRequest_takes ht h1 h2 h3 hlen
  · exact taken_refuses (fun _ => rfl) rfl ht fun o _ _ => if_pos h
  · obtain ⟨o, k, -, -, hex, hans, -⟩ := taken_answers (fun _ => rfl) rfl ht (fun o _ _ => if_neg (by omega)) (fun _ => ⟨rfl, rfl, rfl⟩)
    exact ⟨_, hex, hans, rfl⟩
  · exact taken_refuses (fun _ => rfl) rfl ht fun o _ _ => if_pos h
  · obtain ⟨o, k, -, -, hex, hans, -⟩ := taken_answers (fun _ => rfl) rfl ht (fun o _ _ => if_neg (by omega)) (fun _ => ⟨rfl, rfl, rfl⟩)
    exact ⟨_, hex, hans, rfl⟩
  · exact taken_refuses (fun _ => rfl) rfl ht fun o _ _ => if_pos (by
      simp only [Bool.or_eq_true, decide_eq_true_eq]
      tauto)
  · obtain ⟨x, hx, hrun⟩ := exec_meter hi
    exact taken_refuses hrun hx ht fun o _ _ => if_pos (by simpa using h)
  · subst hgot
    obtain ⟨x, hx, hrun⟩ := exec_meter hi
    exact taken_refuses hrun hx ht fun o _ _ => (if_neg (by simp; omega)).trans (if_pos h)
  · subst hgot
    obtain ⟨x, hx, hrun⟩ := exec_meter hi
    obtain ⟨o, k, -, -, hex, hans, -⟩ := taken_answers (a := fun o => { (opened s o).ok with payload := ((((List.range m).map fun k =>
      s.power.meter.find? fun r => r.seq == n + k && r.sigs.isSome).filterMap id).map MeterRec.words).flatten }) hrun hx ht
      (fun o _ _ => (if_neg (by simp; omega)).trans (if_neg (by rw [Bool.not_eq_true]; exact h))) (fun _ => ⟨rfl, rfl, rfl⟩)
    exact ⟨_, hex, rfl, hans⟩
  · exact taken_refuses (fun _ => rfl) rfl ht fun o _ _ => if_pos (by rw [h]; rfl)
  · obtain ⟨u, hex, hans, h1, -, h3, h4⟩ := tether_applies (f := fun p => { p with standing := some (w, at_), rampEn := ramp })
      (fun _ => rfl) rfl ht
      (fun o => if_neg (by rw [h]; decide))
    exact ⟨u, hex, hans, h1, h3, h4⟩
  · refine taken_refuses (fun _ => rfl) rfl ht fun o _ _ => if_pos ?_
    rw [Bool.or_eq_true, Bool.or_eq_true, List.isEmpty_iff, decide_eq_true_iff, Bool.not_eq_true', or_assoc]
    exact h
  · obtain ⟨u, hex, hans, -, h5, -, h4⟩ := tether_applies (f := fun p => { p with schedule := (start, ws) }) (fun _ => rfl) rfl ht
      (fun o => if_neg (by
        rw [Bool.or_eq_true, Bool.or_eq_true, List.isEmpty_iff, decide_eq_true_iff, h3]
        simp only [Bool.not_true, Bool.false_eq_true, or_false]
        exact fun hc => hc.elim h1 (by omega)))
    exact ⟨u, hex, hans, h5, h4⟩
  · obtain ⟨u, hex, hans, h1, h2, -, h4⟩ := tether_applies (f := fun p => { p with standing := none, schedule := (0, []) })
      (fun _ => rfl) rfl ht
      (fun o => rfl)
    exact ⟨u, hex, hans, h1, h2, h4.trans (tetherAt_clear h1 h2 _)⟩
  · obtain ⟨o, k, -, -, hex, hans, -⟩ := taken_answers (fun _ => rfl) rfl ht (fun o _ _ => rfl) (fun _ => ⟨rfl, rfl, rfl⟩)
    exact ⟨_, hex, rfl, hans⟩

end Sys2Proof.Proofs.PowerCommands
end

section
/-! PROOFS. The counters and dump commands of the mailboxes. -/
namespace Sys2Proof.Proofs.CounterCommands

open Sys2Proof Sys2Proof.Machine Sys2Proof.Laws Sys2Proof.Safety Sys2Proof.Proofs.Stores Sys2Proof.Proofs.Messages
open Sys2Proof.Proofs.Answers Sys2Proof.Proofs.MemoryCommands Sys2Proof.Proofs.ProgramCommands Sys2Proof.Proofs.SystemCommands

/-! CNT_FAULTS: the fault queues. -/

theorem takeFault_only {s v : State} {ds : List Nat} {r : FaultRec} (h : s.takeFault ds = some (r, v)) : ∃ dies, v =
    { s with dies := dies } := by
  unfold State.takeFault at h
  dsimp only at h
  split at h
  · cases h
  · cases h
    exact ⟨_, rfl⟩

theorem takeFaults_only (ds : List Nat) : ∀ (n : Nat) (s : State), ∃ dies, (s.takeFaults ds n).2 = { s with dies := dies }
  | 0, s => ⟨s.dies, rfl⟩
  | n + 1, s => by
    unfold State.takeFaults
    cases h : s.takeFault ds with
    | none => exact ⟨s.dies, rfl⟩
    | some x =>
      obtain ⟨dies, hv⟩ := takeFault_only (r := x.1) (v := x.2) h
      obtain ⟨dies', hw⟩ := takeFaults_only ds n x.2
      dsimp only
      rw [hw, hv]
      exact ⟨dies', rfl⟩

/-- One die's fault queue is read in order. -/
theorem takeFaults_one {d : Nat} : ∀ (n : Nat) (s : State), d < s.dies.length → (s.takeFaults [d] n).1 = (s.die d).faultQ.take n ∧
    ((s.takeFaults [d] n).2.die d).faultQ = (s.die d).faultQ.drop n
  | 0, s, _ => ⟨by simp [State.takeFaults], by simp [State.takeFaults]⟩
  | n + 1, s, hd => by
    unfold State.takeFaults
    cases hq : (s.die d).faultQ with
    | nil =>
      have h : s.takeFault [d] = none := by simp [State.takeFault, hq]
      rw [h]
      exact ⟨by simp, by simp [hq]⟩
    | cons r l =>
      have h : s.takeFault [d] = some (r, s.modDie d fun x => { x with faultQ := x.faultQ.drop 1 }) := by simp [State.takeFault, hq]
      have hdrop : ((s.modDie d fun x => { x with faultQ := x.faultQ.drop 1 }).die d).faultQ = l := by
        rw [die_modDie _ hd, hq]
        rfl
      obtain ⟨h1, h2⟩ := takeFaults_one n (s.modDie d fun x => { x with faultQ := x.faultQ.drop 1 })
          (by simpa [State.modDie, modAt] using hd)
      rw [h]
      rw [hdrop] at h1 h2
      exact ⟨congrArg (r :: ·) h1, h2⟩

theorem modDie_foldl_length (f : Die → Die) (l : List Nat) : ∀ s : State, (l.foldl (fun s d => s.modDie d f) s).dies.length =
    s.dies.length := by
  induction l with
  | nil => exact fun _ => rfl
  | cons d l ih => exact fun s => (ih _).trans (by simp [State.modDie, modAt])

section
variable {s s1 : State} {c : Call} {n : Nat} {l : List FaultRec} (ht : Taken s (.cntFaults c n) c)
  (hl : (base s c).takeFaults (s.diesOf (Call.part c)) (Nat.min n 127) = (l, s1))
include ht hl

theorem cntFaults_full (h : 4064 < 8 * (l.map FaultRec.words).flatten.length + 16 * (s.diesOf (Call.part c)).length) :
    ∃ u, exec (.cntFaults c n) s = .next u ∧ answered u c stOk 0 (l.map FaultRec.words).flatten ∧ ∀ d, (u.die d).faultQ =
        (s1.die d).faultQ := by
  obtain ⟨o, ho, -⟩ := opened_base s c
  obtain ⟨dies, hv⟩ := takeFaults_only (s.diesOf (Call.part c)) (Nat.min n 127) (base s c)
  rw [hl] at hv
  dsimp only at hv
  obtain ⟨k, hex, hans⟩ := taken_does (v := s1) (payload := (l.map FaultRec.words).flatten) (status := stOk) (result := 0) (fun _ =>
      rfl) rfl ht (by
    dsimp only
    rw [show (base s c).diesOf (Call.part c) = s.diesOf (Call.part c) from by rw [ho]; rfl, hl]
    exact if_pos h) (by rw [hv]) (by rw [hv])
  exact ⟨_, hex, hans, fun d => rfl⟩

theorem cntFaults_scopes (h : 8 * (l.map FaultRec.words).flatten.length + 16 * (s.diesOf (Call.part c)).length ≤ 4064) :
    ∃ u, exec (.cntFaults c n) s = .next u ∧ answered u c stOk 0 ((l.map FaultRec.words).flatten ++
        ((s.diesOf (Call.part c)).map fun d => [(s.die d).scopeCnt, (s.die d).scopeLastWord]).flatten) ∧
      (∀ d, (u.die d).faultQ = (s1.die d).faultQ) ∧ ∀ d, d ∈ s.diesOf (Call.part c) → (u.die d).scopeCnt = 0 := by
  obtain ⟨o, ho, hf⟩ := opened_base s c
  obtain ⟨dies, hv⟩ := takeFaults_only (s.diesOf (Call.part c)) (Nat.min n 127) (base s c)
  rw [hl] at hv
  dsimp only at hv
  obtain ⟨dies', hfold⟩ := modDie_foldl_only (fun x => { x with scopeCnt := 0 }) (s.diesOf (Call.part c)) s1
  have hkeep := fun d => modDie_foldl_keeps (g := Die.faultQ) (f := fun x => { x with scopeCnt := 0 }) (fun _ => rfl)
      (s.diesOf (Call.part c)) d s1
  have hset := fun d (hd : d < s1.dies.length) (hm : d ∈ s.diesOf (Call.part c)) => modDie_foldl_sets (g := Die.scopeCnt)
    (f := fun x => { x with scopeCnt := 0 }) (y := 0) (fun _ => rfl) (s.diesOf (Call.part c)) hd (.inl hm)
  have hlen := modDie_foldl_length (fun x => { x with scopeCnt := 0 }) (s.diesOf (Call.part c)) s1
  rw [hfold] at hkeep hset hlen
  have hscope : ((s.diesOf (Call.part c)).map fun d => [((base s c).die d).scopeCnt, ((base s c).die d).scopeLastWord]) =
      (s.diesOf (Call.part c)).map fun d => [(s.die d).scopeCnt, (s.die d).scopeLastWord] := by
    rw [ho]
    exact List.map_congr_left fun d _ => die_opened (g := fun x => [x.scopeCnt, x.scopeLastWord]) (fun _ => rfl) hf d
  obtain ⟨k, hex, hans⟩ := taken_does (v := { s1 with dies := dies' }) (payload := (l.map FaultRec.words).flatten ++
      ((s.diesOf (Call.part c)).map fun d => [(s.die d).scopeCnt, (s.die d).scopeLastWord]).flatten) (status := stOk) (result := 0)
    (fun _ => rfl) rfl ht (by
      dsimp only
      rw [show (base s c).diesOf (Call.part c) = s.diesOf (Call.part c) from by rw [ho]; rfl, hl]
      refine (if_neg (Nat.not_lt_of_le h)).trans ?_
      rw [hscope, hfold]
      rfl) (by rw [hv]) (by rw [hv])
  refine ⟨_, hex, hans, hkeep, fun d hm => ?_⟩
  by_cases hd : d < s1.dies.length
  · exact hset d hd hm
  · unfold State.die
    rw [List.getD_eq_default]
    · rfl
    · exact Nat.le_trans (Nat.le_of_eq hlen) (Nat.le_of_not_lt hd)

end

/-! Monitors. -/

theorem mon_modMon {s : State} {d m : Nat} (f : Monitor → Monitor) (hd : d = 4 ∨ d < s.dies.length) (hm : m < (s.monsOf d).length) :
    (s.modMon d m f).mon d m = f (s.mon d m) := by
  unfold State.mon State.monsOf State.modMon at *
  by_cases h : d = 4
  · simp only [h, ↓reduceIte] at hm ⊢
    simp [modAt, List.getD_eq_getElem?_getD, List.getElem?_eq_getElem hm]
  · simp only [h, ↓reduceIte] at hm ⊢
    rw [die_modDie _ (hd.resolve_left h)]
    simp [modAt, List.getD_eq_getElem?_getD, List.getElem?_eq_getElem hm]

theorem mon_modMon_ne {s : State} {d m k : Nat} (f : Monitor → Monitor) (h : k ≠ m) : (s.modMon d m f).mon d k = s.mon d k := by
  unfold State.mon State.monsOf State.modMon
  by_cases hd : d = 4
  · simp [hd, modAt, List.getD_eq_getElem?_getD, Ne.symm h]
  · simp only [hd, ↓reduceIte]
    by_cases hlen : d < s.dies.length
    · rw [die_modDie _ hlen]
      simp [modAt, List.getD_eq_getElem?_getD, Ne.symm h]
    · have hdie : (s.modDie d fun x => { x with mons := modAt x.mons m f }).die d = s.die d := by
        simp [State.die, State.modDie, modAt, List.getD_eq_getElem?_getD, Nat.le_of_not_lt hlen]
      rw [hdie]

/-- As many monitors, and the same ones shadow references. -/
def Shadows (s v : State) : Prop := v.spineMons.map Monitor.shadow = s.spineMons.map Monitor.shadow ∧
  v.dies.map (fun x => x.mons.map Monitor.shadow) = s.dies.map fun x => x.mons.map Monitor.shadow

theorem Shadows.refl (s : State) : Shadows s s := ⟨rfl, rfl⟩

theorem Shadows.trans {s v w : State} (h : Shadows s v) (k : Shadows v w) : Shadows s w := ⟨k.1.trans h.1, k.2.trans h.2⟩

theorem shadows_modMon {f : Monitor → Monitor} (h : ∀ x, (f x).shadow = x.shadow) (s : State) (d m : Nat) : Shadows s (s.modMon d m f) := by
  unfold State.modMon
  split
  · exact ⟨map_modAt_keeps h _ _, rfl⟩
  · exact ⟨rfl, map_modAt_keeps (g := fun x : Die => x.mons.map Monitor.shadow) (f := fun x => { x with mons := modAt x.mons m f })
      (fun x => map_modAt_keeps h _ _) _ _⟩

theorem shadows_post (s : State) (p : Option Nat) (e src layer op detail : Nat) : Shadows s (s.post p e src layer op detail) := by
  have hs : (s.post p e src layer op detail).spineMons = s.spineMons := by
    unfold State.post State.postPage
    cases p with
    | none => dsimp only; split <;> rfl
    | some p => dsimp only; split <;> rfl
  exact ⟨by rw [hs], by rw [RemoteFlags.dies_post]⟩

theorem shadows_sample (s : State) (d m raw : Nat) (force : Bool) : Shadows s (s.sample d m raw force) := by
  have h := fun alarm => shadows_modMon (f := fun x => { x.add ((s.mon d m).scaled raw) with alarm := x.alarm || alarm }) (fun _ =>
      rfl) s d m
  unfold State.sample
  dsimp only
  split
  · exact (h _).trans (shadows_post _ _ _ _ _ _ _)
  · exact h _

theorem shadows_foldl {α : Type} {f : State → α → State} (h : ∀ s a, Shadows s (f s a)) :
    ∀ (l : List α) (s : State), Shadows s (l.foldl f s)
  | [], s => .refl s
  | a :: l, s => (h s a).trans (shadows_foldl h l (f s a))

theorem shadows_emitAll (s : State) (source raw layer op inst : Nat) : Shadows s (s.emitAll source raw layer op inst) := by
  refine shadows_foldl (fun v d => ?_) _ s
  unfold State.emit State.sampleEvent
  split
  · exact .refl v
  · refine shadows_foldl (fun v m => ?_) _ _
    split
    · split
      · exact shadows_modMon (f := fun x => { x with dropped := inc16 x.dropped }) (fun _ => rfl) _ _ _
      · exact shadows_sample _ _ _ _ _
    · exact .refl v

theorem shadows_base (s : State) (c : Call) : Shadows s (base s c) := by
  have hstart : Shadows s (started s c) := by
    unfold started State.startMsg
    cases s.handAt c.src with
    | none => exact .refl s
    | some t =>
      refine Shadows.trans ?_ (shadows_emitAll _ _ _ _ _ _)
      cases c.src <;> exact ⟨rfl, rfl⟩
  unfold base
  split
  · split
    · exact hstart
    · unfold State.acceptSeq
      split
      · exact hstart
      · exact hstart.trans ⟨rfl, rfl⟩
  · exact hstart

/-- The shadow marks of a die's monitors, or of the spine's. -/
theorem monsOf_shadows {s v : State} (h : Shadows s v) (d : Nat) :
    (v.monsOf d).map Monitor.shadow = (s.monsOf d).map Monitor.shadow := by
  have hk : ∀ w : State, (w.die d).mons.map Monitor.shadow = (w.dies.map fun x => x.mons.map Monitor.shadow).getD d
      (Die.init.mons.map Monitor.shadow) := by
    intro w
    rw [State.die, List.getD_eq_getElem?_getD, List.getD_eq_getElem?_getD, List.getElem?_map]
    cases w.dies[d]? <;> rfl
  unfold State.monsOf
  split
  · exact h.1
  · rw [hk, hk, h.2]

theorem mon_shadows {s v : State} (h : Shadows s v) (d m : Nat) : (v.mon d m).shadow = (s.mon d m).shadow ∧
    (v.monsOf d).length = (s.monsOf d).length := by
  have hm := monsOf_shadows h d
  have hk : ∀ l : List Monitor, (l.getD m Monitor.init).shadow = (l.map Monitor.shadow).getD m false := by
    intro l
    rw [List.getD_eq_getElem?_getD, List.getD_eq_getElem?_getD, List.getElem?_map]
    cases l[m]? <;> rfl
  refine ⟨?_, by simpa using congrArg List.length hm⟩
  unfold State.mon
  rw [hk, hk, hm]

theorem dies_length_base (s : State) (c : Call) : (base s c).dies.length = s.dies.length := by
  simpa using congrArg List.length (shadows_base s c).2

theorem monRole_base (s : State) (c : Call) (d m : Nat) : monRole (base s c) c d m = monRole s c d m := by
  obtain ⟨o, ho, -⟩ := opened_base s c
  rw [ho]
  rfl

/-- A change of one monitor keeps the mailboxes and sessions. -/
theorem modMon_cap (s : State) (d m : Nat) (f : Monitor → Monitor) : (s.modMon d m f).cap = s.cap := by
  unfold State.modMon
  split <;> rfl

/-- A message that changes one monitor leaves it as changed, and every other of the die as its body found it. -/
theorem modMon_does {s : State} {i : Instr} {c : Call} {x : CmdInfo} {body : State → Answer} {d m : Nat} {f : Monitor → Monitor}
    (hrun : ∀ s, exec i s = .next (capstanRun i c x body s)) (hcmd : cmdOf i = some (c, x)) (ht : Taken s i c)
    (hb : body (base s c) = ((base s c).modMon d m f).ok) (hd : d = 4 ∨ d < s.dies.length) (hm : m < (s.monsOf d).length) :
    ∃ u, exec i s = .next u ∧ answered u c stOk 0 [] ∧ u.mon d m = f ((base s c).mon d m) ∧
      ∀ k, k ≠ m → u.mon d k = (base s c).mon d k := by
  obtain ⟨k, hex, hans⟩ := taken_does (v := (base s c).modMon d m f) hrun hcmd ht hb (by rw [modMon_cap]) (by rw [modMon_cap])
  have hset := mon_modMon (s := base s c) f (hd.imp id fun h => dies_length_base s c ▸ h) ((mon_shadows (shadows_base s c) d m).2 ▸ hm)
  have hne := fun j (hj : j ≠ m) => mon_modMon_ne (s := base s c) (d := d) f hj
  exact ⟨_, hex, hans, hset, hne⟩

section
variable {s : State} {c : Call} {d m alarm : Nat} {cfg : W64} (ht : Taken s (.cntStrataConfig c d m cfg alarm) c)
include ht

theorem strataConfig_role {st : Nat} (h : monRole s c d m = some st) : turnedAway s (.cntStrataConfig c d m cfg alarm) c st :=
  taken_refuses (fun _ => rfl) rfl ht fun o _ _ => by
    dsimp only
    rw [show monRole (opened s o) c d m = monRole s c d m from rfl, h]

variable (hr : monRole s c d m = none)
include hr

theorem strataConfig_bad {st : Nat} (h : cfgBad d m cfg.toNat = some st) : turnedAway s (.cntStrataConfig c d m cfg alarm) c st :=
  taken_refuses (fun _ => rfl) rfl ht fun o _ _ => by
    dsimp only
    rw [show monRole (opened s o) c d m = monRole s c d m from rfl, hr, h]

variable (h : cfgBad d m cfg.toNat = none)
include h

theorem strataConfig_bound (hs : (s.mon d m).shadow = true) (hb : s.dieBound d = true) :
    turnedAway s (.cntStrataConfig c d m cfg alarm) c stBusy :=
  taken_refuses (fun _ => rfl) rfl ht fun o _ ho => by
    dsimp only
    rw [show monRole (opened s o) c d m = monRole s c d m from rfl, hr, h]
    refine if_pos ?_
    rw [show (opened s o).dieBound d = s.dieBound d from rfl, ← ho, (mon_shadows (shadows_base s c) d m).1, hs, hb]
    rfl

theorem strataConfig_sets (hs : ((s.mon d m).shadow && s.dieBound d) = false) (hd : d = 4 ∨ d < s.dies.length)
    (hm : m < (s.monsOf d).length) :
    ∃ u, exec (.cntStrataConfig c d m cfg alarm) s = .next u ∧ answered u c stOk 0 [] ∧
      u.mon d m = { Monitor.init with
        source := bits cfg.toNat 0 8, shift := bits cfg.toNat 8 5, layerFilt := bit cfg.toNat 13, opFilt := bit cfg.toNat 14
        layer := bits cfg.toNat 16 16, op := bits cfg.toNat 32 16, sel := bits cfg.toNat 48 10
        period := bits cfg.toNat 58 4, alarmAt := alarm, shadow := (s.mon d m).shadow
        nextAt := (s.now / 2 ^ (10 + bits cfg.toNat 58 4) + 1) * 2 ^ (10 + bits cfg.toNat 58 4) } ∧
      ∀ k, k ≠ m → u.mon d k = (base s c).mon d k := by
  have hshadow := (mon_shadows (shadows_base s c) d m).1
  obtain ⟨u, hex, hans, hu, hne⟩ := modMon_does (f := fun x => { x.ofCfg cfg.toNat alarm with
    nextAt := (s.now / 2 ^ (10 + bits cfg.toNat 58 4) + 1) * 2 ^ (10 + bits cfg.toNat 58 4) }) (fun _ => rfl) rfl ht (by
      dsimp only
      rw [monRole_base, hr, h]
      refine (if_neg ?_).trans ?_
      · rw [hshadow, show (base s c).dieBound d = s.dieBound d from by
          obtain ⟨o, ho, -⟩ := opened_base s c
          rw [ho]
          rfl, hs]
        exact Bool.false_ne_true
      · rw [show (base s c).now = s.now from by
          obtain ⟨o, ho, -⟩ := opened_base s c
          rw [ho]
          rfl]) hd hm
  refine ⟨u, hex, hans, hu.trans ?_, hne⟩
  rw [← hshadow]
  rfl

end

/-! The dump areas. -/

theorem addAlloc_foldl : ∀ (l : List Alloc) (s : State), l.foldl (fun s al => s.addAlloc al) s = { s with allocs := s.allocs ++ l }
  | [], s => by simp
  | a :: l, s => (addAlloc_foldl l (s.addAlloc a)).trans (by simp [State.addAlloc])

theorem trigger_adds {v : State} {p : Nat} {tr : Trig} (h : (v.geode p).frozen = false) :
    v.trigger (some p) tr = v.modGeode p fun g => { g with trigs := g.trigs ++ [tr] } :=
  if_neg (by rw [h]; exact Bool.false_ne_true)

theorem trigger_frozen {v : State} {p : Nat} {tr : Trig} (h : (v.geode p).frozen = true) :
    v.trigger (some p) tr = v.modGeode p fun g => { g with hdr := g.hdr.map fun h => { h with later := inc16 h.later } } := if_pos h

section
variable {s : State} {c : Call}

theorem dumpTrigger_adds (ht : Taken s (.cntDumpTrigger c) c) (hp : Call.part c < s.geodes.length) :
    ((s.geode (Call.part c)).frozen = false → ∃ u, exec (.cntDumpTrigger c) s = .next u ∧ answered u c stOk 0 [] ∧
      (u.geode (Call.part c)).trigs = (s.geode (Call.part c)).trigs ++ [⟨4, 0x0600, 0, 0, 0, 0, 0, 0⟩]) ∧
    ((s.geode (Call.part c)).frozen = true → ∃ u, exec (.cntDumpTrigger c) s = .next u ∧ answered u c stOk 0 [] ∧
      (u.geode (Call.part c)).hdr = (s.geode (Call.part c)).hdr.map fun h => { h with later := inc16 h.later }) := by
  refine ⟨fun h => ?_, fun h => ?_⟩
  · obtain ⟨o, k, -, -, hex, hans, -⟩ :=
      taken_answers (body := fun s => (s.trigger (some (Call.part c)) ⟨4, capAgent, 0, 0, 0, 0, 0, 0⟩).ok) (a := fun o =>
      ((opened s o).modGeode (Call.part c) fun g =>
      { g with trigs := g.trigs ++ [⟨4, capAgent, 0, 0, 0, 0, 0, 0⟩] }).ok) (fun _ => rfl) rfl ht (fun o _ _ => congrArg State.ok
        (trigger_adds (v := opened s o) h)) (fun _ => ⟨rfl, rfl, rfl⟩)
    have hg := geode_modGeode (s := opened s o) (fun g => { g with trigs := g.trigs ++ [⟨4, capAgent, 0, 0, 0, 0, 0, 0⟩] }) hp
    exact ⟨_, hex, hans, (congrArg Geode.trigs hg).trans rfl⟩
  · obtain ⟨o, k, -, -, hex, hans, -⟩ :=
      taken_answers (body := fun s => (s.trigger (some (Call.part c)) ⟨4, capAgent, 0, 0, 0, 0, 0, 0⟩).ok) (a := fun o =>
      ((opened s o).modGeode (Call.part c) fun g =>
      { g with hdr := g.hdr.map fun h => { h with later := inc16 h.later } }).ok) (fun _ => rfl) rfl ht (fun o _ _ =>
          congrArg State.ok (trigger_frozen (v := opened s o) h))
      (fun _ => ⟨rfl, rfl, rfl⟩)
    have hg := geode_modGeode (s := opened s o) (fun g => { g with hdr := g.hdr.map fun h => { h with later := inc16 h.later } }) hp
    exact ⟨_, hex, hans, (congrArg Geode.hdr hg).trans rfl⟩

variable {home : Nat} (ht : Taken s (.cntDumpMap c) c) (hh : home = match s.diesOf (Call.part c) with | d :: _ => dumpBase d | [] => 0)
include ht

theorem dumpMap_clash (hm : (s.geode (Call.part c)).mapped = false)
    (h : (((s.diesOf (Call.part c)).map fun d => dumpAlloc (Call.part c) d).any fun x => s.allocs.any fun al =>
        entriesOverlap al.e x.e) = true) :
    turnedAway s (.cntDumpMap c) c stResource :=
  taken_refuses (fun _ => rfl) rfl ht fun o _ _ => (if_neg (by
    rw [show (opened s o).geode (Call.part c) = s.geode (Call.part c) from rfl, hm]
    exact Bool.false_ne_true)).trans (if_pos h)

include hh

theorem dumpMap_again (hm : (s.geode (Call.part c)).mapped = true) : ∃ u, exec (.cntDumpMap c) s = .next u ∧
    answered u c stOk (BitVec.ofNat 64 home) [] ∧ u.allocs = s.allocs := by
  subst hh
  obtain ⟨o, k, -, -, hex, hans, -⟩ := taken_answers (a := fun o => { (opened s o).ok with
    result := BitVec.ofNat 64 (match s.diesOf (Call.part c) with | d :: _ => dumpBase d | [] => 0) }) (fun _ => rfl) rfl ht
    (fun o _ _ => if_pos hm) (fun _ => ⟨rfl, rfl, rfl⟩)
  exact ⟨_, hex, hans, rfl⟩

theorem dumpMap_maps (hm : (s.geode (Call.part c)).mapped = false)
    (h : (((s.diesOf (Call.part c)).map fun d => dumpAlloc (Call.part c) d).any fun x => s.allocs.any fun al =>
        entriesOverlap al.e x.e) = false) :
    ∃ u, exec (.cntDumpMap c) s = .next u ∧ answered u c stOk (BitVec.ofNat 64 home) [] ∧
      u.allocs = s.allocs ++ (s.diesOf (Call.part c)).map (fun d => dumpAlloc (Call.part c) d) ∧
      (Call.part c < s.geodes.length → (u.geode (Call.part c)).mapped = true) := by
  subst hh
  obtain ⟨o, k, -, -, hex, hans, -⟩ := taken_answers (a := fun o => { (({ opened s o with
    allocs := s.allocs ++ (s.diesOf (Call.part c)).map fun d => dumpAlloc (Call.part c) d } : State).modGeode (Call.part c) fun g =>
      { g with mapped := true }).ok with
    result := BitVec.ofNat 64 (match s.diesOf (Call.part c) with | d :: _ => dumpBase d | [] => 0) }) (fun _ => rfl) rfl ht
    (fun o _ _ => (if_neg (by
      rw [show (opened s o).geode (Call.part c) = s.geode (Call.part c) from rfl, hm]
      exact Bool.false_ne_true)).trans ((if_neg (by rw [Bool.not_eq_true]; exact h)).trans (by
        rw [addAlloc_foldl]
        rfl))) (fun _ => ⟨rfl, rfl, rfl⟩)
  refine ⟨_, hex, hans, rfl, fun hp => ?_⟩
  have hg := geode_modGeode (s := ({ opened s o with
    allocs := s.allocs ++ (s.diesOf (Call.part c)).map fun d => dumpAlloc (Call.part c) d } : State)) (fun g =>
        { g with mapped := true }) hp
  exact (congrArg Geode.mapped hg).trans rfl

end

/-- Settles O54, command by command. -/
theorem counterAndDumpCommands : Obligations.CounterAndDumpCommands := by
  intro s c p hp
  subst hp
  refine ⟨fun n ds l s1 ht hds hl => ?_, fun d m cfg alarm ht => ⟨fun st h => strataConfig_role ht h, fun hr st h =>
      strataConfig_bad ht hr h,
      fun hr h hs hb => strataConfig_bound ht hr h hs hb, fun hr h hs hd hm => strataConfig_sets ht hr h hs hd hm⟩,
    fun d ms ht => ⟨fun h => ?_, fun h st hst => ?_, fun h hn => ?_⟩,
    fun i d m hi ht => ⟨fun st h => ?_, fun hr hd hm => ⟨fun h => ?_, fun h => ?_⟩⟩,
    fun d ht => ⟨fun hd ha => ?_, fun hd ha => ?_, fun k hd => ⟨fun h => ?_, fun h ha hp => ?_, fun h hp => ?_⟩⟩,
    fun ht hp => dumpTrigger_adds ht hp, fun areas home ht ha hh => ?_, fun keep ht hp => ?_, fun ht hp => ?_, fun ht => ?_⟩
  · subst hds
    refine ⟨cntFaults_full ht hl, cntFaults_scopes ht hl, fun d hd hlen => ?_⟩
    obtain ⟨o, ho, hf⟩ := opened_base s c
    obtain ⟨h1, h2⟩ := takeFaults_one (d := d) (Nat.min n 127) (base s c) (dies_length_base s c ▸ hlen)
    have hq : ((base s c).die d).faultQ = (s.die d).faultQ := by
      rw [ho]
      exact die_opened (g := Die.faultQ) (fun _ => rfl) hf d
    rw [hd] at hl
    rw [hl, hq] at h1 h2
    exact ⟨h1, h2⟩
  · exact taken_refuses (fun _ => rfl) rfl ht fun o _ _ => if_pos h
  · exact taken_refuses (fun _ => rfl) rfl ht fun o _ _ => (if_neg (by omega)).trans (by
      rw [show (ms.findSome? fun m => monRole (opened s o) c d m) = ms.findSome? fun m => monRole s c d m from rfl, hst])
  · obtain ⟨k, hex, hans⟩ := taken_does (v := base s c) (status := stOk) (result := 0)
      (payload := (ms.map fun m => ((base s c).mon d m).words).flatten) (fun _ => rfl) rfl ht ((if_neg (by omega)).trans (by
        rw [show (ms.findSome? fun m => monRole (base s c) c d m) = ms.findSome? fun m =>
            monRole s c d m from by simp only [monRole_base], hn]
        rfl)) rfl rfl
    exact ⟨_, hex, hans, rfl⟩
  · obtain rfl | rfl := hi
    · exact taken_refuses (fun _ => rfl) rfl ht fun o _ _ => by
        rw [show monRole (opened s o) c d m = monRole s c d m from rfl, h]
    · exact taken_refuses (fun _ => rfl) rfl ht fun o _ _ => by
        rw [show monRole (opened s o) c d m = monRole s c d m from rfl, h]
  · subst h
    obtain ⟨u, hex, hans, hu, -⟩ := modMon_does (f := Monitor.clear) (fun _ => rfl) rfl ht (by
      rw [monRole_base, hr]) hd hm
    exact ⟨u, hex, hans, hu⟩
  · subst h
    obtain ⟨u, hex, hans, hu, -⟩ := modMon_does (f := fun x => { x with alarm := false }) (fun _ => rfl) rfl ht (by
      rw [monRole_base, hr]) hd hm
    exact ⟨u, hex, hans, hu⟩
  · subst hd
    obtain ⟨k, hex, hans⟩ := taken_does (v := (base s c).drawFree.2) (status := stOk) (result := 0)
        (payload := [(base s c).drawFree.1.toNat])
      (fun _ => rfl) rfl ht (if_neg (not_not.mpr ha)) rfl rfl
    exact ⟨_, _, hex, hans, rfl⟩
  · subst hd
    exact taken_refuses (fun _ => rfl) rfl ht fun o _ _ => if_pos ha
  · subst hd
    exact taken_refuses (fun _ => rfl) rfl ht fun o _ _ => if_pos h
  · subst hd
    exact taken_refuses (fun _ => rfl) rfl ht fun o _ _ => (if_neg (by omega)).trans (if_pos (by
      rw [show (opened s o).partOfDie k = s.partOfDie k from rfl, decide_eq_true ha, decide_eq_true hp]
      rfl))
  · subst hd
    obtain ⟨o, ho, hf⟩ := opened_base s c
    have hled : ((base s c).die k).energy.published = (s.die k).energy.published := by
      rw [ho]
      exact die_opened (g := fun x => x.energy.published) (fun _ => rfl) hf k
    have hdie : (base s c).partOfDie k = s.partOfDie k := by
      rw [ho]
      rfl
    obtain ⟨k', hex, hans⟩ := taken_does (v := base s c) (status := stOk) (result := 0) (payload := ledgerWords (s.die k).energy.published)
      (fun _ => rfl) rfl ht ((if_neg (by omega)).trans ((if_neg (by
        rw [hdie, Bool.and_eq_true, decide_eq_true_iff, decide_eq_true_iff]
        tauto)).trans (by rw [hled]; rfl))) rfl rfl
    exact ⟨_, hex, hans, rfl⟩
  · subst ha
    exact ⟨dumpMap_again ht hh, dumpMap_clash ht, dumpMap_maps ht hh⟩
  · obtain ⟨o, k, -, -, hex, hans, -⟩ := taken_answers (fun _ => rfl) rfl ht (fun o _ _ => rfl) (fun _ => ⟨rfl, rfl, rfl⟩)
    have hg := geode_modGeode (s := opened s o) (fun g => { g with keep := keep }) hp
    exact ⟨_, hex, hans, hg⟩
  · obtain ⟨o, k, -, -, hex, hans, -⟩ := taken_answers (fun _ => rfl) rfl ht (fun o _ _ => rfl) (fun _ => ⟨rfl, rfl, rfl⟩)
    have hg := geode_modGeode (s := opened s o) (fun g => { g with fabTrig := false }) hp
    exact ⟨_, hex, hans, hg⟩
  · obtain ⟨o, k, -, -, hex, hans, -⟩ := taken_answers (fun _ => rfl) rfl ht (fun o _ _ => rfl) (fun _ => ⟨rfl, rfl, rfl⟩)
    exact ⟨_, hex, hans, rfl⟩

end Sys2Proof.Proofs.CounterCommands
end

section
/-! PROOFS. Strata samples, the energy calibration of a second, and the steps of a Geode dump (O55). -/
namespace Sys2Proof.Proofs.SamplesDumps

open Sys2Proof Sys2Proof.Machine Sys2Proof.Laws Sys2Proof.Safety
open Sys2Proof.Proofs.Stores Sys2Proof.Proofs.CounterCommands Sys2Proof.Proofs.HomeFrame Sys2Proof.Proofs.ProgramCommands

/-! One sample. -/

/-- Monitor d m takes the value of f, no other monitor of its die changes, and there are as many dies and monitors. -/
def Takes (s v : State) (d m : Nat) (x : Monitor) : Prop := v.mon d m = x ∧ (∀ j, j ≠ m → v.mon d j = s.mon d j) ∧
  (v.monsOf d).length = (s.monsOf d).length ∧ v.dies.length = s.dies.length

theorem spineMons_post (s : State) (p : Option Nat) (e src layer op detail : Nat) : (s.post p e src layer op detail).spineMons =
    s.spineMons := by
  unfold State.post State.postPage
  cases p with
  | none => dsimp only; split <;> rfl
  | some p => dsimp only; split <;> rfl

theorem monsOf_post (s : State) (p : Option Nat) (e src layer op detail d : Nat) : (s.post p e src layer op detail).monsOf d =
    s.monsOf d := by
  simp only [State.monsOf, State.die, RemoteFlags.dies_post, spineMons_post]

theorem takes_modMon {s : State} {d m : Nat} (f : Monitor → Monitor) (hd : d = 4 ∨ d < s.dies.length) (hm : m < (s.monsOf d).length) :
    Takes s (s.modMon d m f) d m (f (s.mon d m)) := by
  refine ⟨mon_modMon f hd hm, fun j hj => mon_modMon_ne f hj, ?_, ?_⟩
  · unfold State.monsOf State.modMon
    split
    · exact List.length_modify ..
    · rw [die_modDie _ (hd.resolve_left ‹_›)]
      exact List.length_modify ..
  · unfold State.modMon
    split
    · rfl
    · exact List.length_modify ..

/-- What a sample makes of a monitor. -/
def sampledMon (x : Monitor) (raw : Nat) (force : Bool) : Monitor :=
  { x.add (x.scaled raw) with alarm := x.alarm || (force || (x.alarmAt != 0 && decide (x.alarmAt ≤ x.scaled raw))) }

theorem takes_sample {s : State} {d m : Nat} (raw : Nat) (force : Bool) (hd : d = 4 ∨ d < s.dies.length) (hm : m < (s.monsOf d).length) :
    Takes s (s.sample d m raw force) d m (sampledMon (s.mon d m) raw force) := by
  have h := takes_modMon (s := s) (fun x => { x.add ((s.mon d m).scaled raw) with
    alarm := x.alarm || (force || ((s.mon d m).alarmAt != 0 && decide ((s.mon d m).alarmAt ≤ (s.mon d m).scaled raw))) }) hd hm
  unfold State.sample
  dsimp only
  split
  · obtain ⟨hx, hne, hlen, hdies⟩ := h
    simp only [Takes, State.mon, monsOf_post, RemoteFlags.dies_post]
    exact ⟨hx, hne, hlen, hdies⟩
  · exact h

/-! An event of a source. -/

/-- What an event makes of a monitor of its die. -/
def eventMon (x : Monitor) (e : SampleEvent) : Monitor :=
  if x.takes e.source e.layer e.op e.inst then
    if 8 ≤ e.burst then { x with dropped := inc16 x.dropped } else sampledMon x e.raw false
  else x

/-- An event at one monitor. -/
def eventAt (e : SampleEvent) (s : State) (m : Nat) : State :=
  if (s.mon e.d m).takes e.source e.layer e.op e.inst then
    if 8 ≤ e.burst then s.dropSample e.d m else s.sample e.d m e.raw false
  else s

theorem takes_eventAt {s : State} {e : SampleEvent} {m : Nat} (hd : e.d = 4 ∨ e.d < s.dies.length) (hm : m < (s.monsOf e.d).length) :
    Takes s (eventAt e s m) e.d m (eventMon (s.mon e.d m) e) := by
  unfold eventAt eventMon
  split
  · split
    · exact takes_modMon (fun x => { x with dropped := inc16 x.dropped }) hd hm
    · exact takes_sample _ _ hd hm
  · exact ⟨rfl, fun _ _ => rfl, rfl, rfl⟩

/-- The event at the first n monitors of its die, one after another. -/
theorem eventAt_foldl {s : State} {e : SampleEvent} (hd : e.d = 4 ∨ e.d < s.dies.length) : ∀ n ≤ (s.monsOf e.d).length,
    (∀ m, ((List.range n).foldl (eventAt e) s).mon e.d m = if m < n then eventMon (s.mon e.d m) e else s.mon e.d m) ∧
    (((List.range n).foldl (eventAt e) s).monsOf e.d).length = (s.monsOf e.d).length ∧
    ((List.range n).foldl (eventAt e) s).dies.length = s.dies.length
  | 0, _ => ⟨fun _ => rfl, rfl, rfl⟩
  | n + 1, hn => by
    obtain ⟨hm, hl, hdl⟩ := eventAt_foldl hd n (Nat.le_of_succ_le hn)
    rw [List.range_succ, List.foldl_append]
    generalize (List.range n).foldl (eventAt e) s = v at hm hl hdl
    obtain ⟨hx, hne, hl', hdl'⟩ := takes_eventAt (s := v) (e := e) (m := n) (hdl ▸ hd) (hl ▸ hn)
    refine ⟨fun m => ?_, hl'.trans hl, hdl'.trans hdl⟩
    by_cases heq : m = n
    · rw [heq, if_pos (Nat.lt_succ_self n), List.foldl_cons, List.foldl_nil, hx, hm, if_neg (Nat.lt_irrefl n)]
    · rw [List.foldl_cons, List.foldl_nil, hne m heq, hm]
      exact if_congr (by omega) rfl rfl

theorem mon_sampleEvent {s : State} {e : SampleEvent} {m : Nat} (hd : e.d = 4 ∨ e.d < s.dies.length) (hm : m < (s.monsOf e.d).length) :
    (s.sampleEvent e).mon e.d m = eventMon (s.mon e.d m) e := by
  unfold State.sampleEvent
  split
  case isTrue h =>
    have hsrc : (s.mon e.d m).source ≠ e.source := by
      rw [State.mon, List.getD_eq_getElem?_getD, List.getElem?_eq_getElem hm]
      simpa using List.all_eq_true.1 h _ (List.getElem_mem hm)
    exact (if_neg (by simp [Monitor.takes, hsrc])).symm
  case isFalse =>
    exact ((eventAt_foldl hd _ (Nat.le_refl _)).1 m).trans (if_pos hm)

theorem strataSample_posted {s : State} {e : SampleEvent} {k : SrcInfo} (hd : e.d < 5) (hk : srcInfo e.source = some k)
    (h : k.sampled = true ∨ srcPosted e.source = true) : execStrataSample e s = .next s := by
  refine (if_pos (decide_eq_true hd)).trans (congrArg Host.Outcome.next ?_)
  rw [hk]
  exact if_pos (by simpa using h)

theorem strataSample_event {s : State} {e : SampleEvent} {k : SrcInfo} (hd : e.d < 5) (hk : srcInfo e.source = some k)
    (hs : k.sampled = false) (hp : srcPosted e.source = false) : execStrataSample e s = .next (s.sampleEvent e) := by
  refine (if_pos (decide_eq_true hd)).trans (congrArg Host.Outcome.next ?_)
  rw [hk]
  exact if_neg (by simp [hs, hp])

/-! A sampled source. -/

/-- Samples of one monitor: their number is counted. -/
theorem takes_samples {d m : Nat} : ∀ (l : List Nat) (s : State), (d = 4 ∨ d < s.dies.length) → m < (s.monsOf d).length →
    ∃ x, x.count = (s.mon d m).count + l.length ∧ Takes s (l.foldl (fun s v => s.sample d m v false) s) d m x
  | [], s, _, _ => ⟨_, rfl, rfl, fun _ _ => rfl, rfl, rfl⟩
  | v :: l, s, hd, hm => by
    obtain ⟨hx, hne, hlen, hdies⟩ := takes_sample (s := s) v false hd hm
    obtain ⟨x, hcount, hx', hne', hlen', hdies'⟩ := takes_samples l (s.sample d m v false) (hdies ▸ hd) (hlen ▸ hm)
    refine ⟨x, ?_, hx', fun j hj => (hne' j hj).trans (hne j hj), hlen'.trans hlen, hdies'.trans hdies⟩
    rw [hcount, hx, List.length_cons]
    show (s.mon d m).count + 1 + l.length = _
    omega

theorem strataPeriod_early {s : State} {d m : Nat} {k : SrcInfo} (he : monExists d m = true) (hk : srcInfo (s.mon d m).source = some k)
    (h : k.sampled = false ∨ s.now < (s.mon d m).nextAt) : execStrataPeriodSample d m s = .next s := by
  refine (if_pos he).trans (congrArg Host.Outcome.next ?_)
  dsimp only
  rw [hk]
  exact if_pos (by simpa using h)

theorem strataPeriod_due {s : State} {d m : Nat} {k : SrcInfo} (he : monExists d m = true) (hm : m < (s.monsOf d).length)
    (hk : srcInfo (s.mon d m).source = some k) (hs : k.sampled = true) (hat : (s.mon d m).nextAt ≤ s.now) :
    ∃ u, execStrataPeriodSample d m s = .next u ∧
      (u.mon d m).count = (s.mon d m).count + (((s.mon d m).insts k.insts).filterMap (s.sampled d (s.mon d m).source)).length ∧
      (u.mon d m).nextAt = (s.now / 2 ^ (10 + (s.mon d m).period) + 1) * 2 ^ (10 + (s.mon d m).period) ∧
      ∀ j, j ≠ m → u.mon d j = s.mon d j := by
  have hd : d = 4 ∨ d < s.dies.length := by
    by_contra hno
    have hinit : s.mon d m = Monitor.init := by
      rw [State.mon, State.monsOf, if_neg (fun h => hno (.inl h)), State.die,
        List.getD_eq_default _ _ (Nat.le_of_not_lt fun h => hno (.inr h))]
      show (List.replicate 256 Monitor.init).getD m Monitor.init = _
      rw [List.getD_eq_getElem?_getD, List.getElem?_replicate]
      split <;> rfl
    rw [hinit] at hk
    cases hk
  obtain ⟨x, hcount, hx, hne, hlen, hdies⟩ := takes_samples (((s.mon d m).insts k.insts).filterMap (s.sampled d (s.mon d m).source)) s hd hm
  have hset := takes_modMon (fun x => { x with
    nextAt := (s.now / 2 ^ (10 + (s.mon d m).period) + 1) * 2 ^ (10 + (s.mon d m).period) }) (hdies ▸ hd) (hlen ▸ hm)
  obtain ⟨hx', hne', -, -⟩ := hset
  rw [hx] at hx'
  refine ⟨_, (if_pos he).trans (congrArg Host.Outcome.next ?_), (congrArg Monitor.count hx').trans hcount,
    congrArg Monitor.nextAt hx', fun j hj => (hne' j hj).trans (hne j hj)⟩
  dsimp only
  rw [hk]
  exact if_neg (by simp [hs, hat])

/-! The energy of a second. -/

/-- A row of the ledger whose pair stands once takes an amount: the sum rises by it, the pairs stay. -/
theorem addRow {p : Nat × Nat} {v : Int} : ∀ l : List (Nat × Nat × Int), (l.map fun e => (e.1, e.2.1)).Nodup →
    (∃ e ∈ l, e.1 = p.1 ∧ e.2.1 = p.2) →
    ((l.map fun e => if e.1 = p.1 && e.2.1 = p.2 then (e.1, e.2.1, e.2.2 + v) else e).map fun e => e.2.2).sum =
        (l.map fun e => e.2.2).sum + v
  | [], _, h => by obtain ⟨e, he, -⟩ := h; cases he
  | a :: l, hn, h => by
    obtain ⟨hfresh, hrest⟩ := List.nodup_cons.1 hn
    by_cases ha : a.1 = p.1 ∧ a.2.1 = p.2
    · have hkeep : (l.map fun e => if e.1 = p.1 && e.2.1 = p.2 then (e.1, e.2.1, e.2.2 + v) else e) = l := by
        refine List.map_congr_left (g := id) (fun e he => if_neg ?_) |>.trans (List.map_id l)
        intro hp
        obtain ⟨h1, h2⟩ : e.1 = p.1 ∧ e.2.1 = p.2 := by simpa using hp
        exact hfresh (List.mem_map.2 ⟨e, he, Prod.ext (h1.trans ha.1.symm) (h2.trans ha.2.symm)⟩)
      rw [List.map_cons, hkeep, if_pos (by simpa using ha)]
      simp only [List.map_cons, List.sum_cons]
      omega
    · obtain ⟨e, he, hp⟩ := h
      have hl : e ∈ l := (List.mem_cons.1 he).resolve_left fun hea => ha (hea ▸ hp)
      rw [List.map_cons, if_neg (by simpa using ha)]
      simp only [List.map_cons, List.sum_cons]
      rw [addRow l hrest ⟨e, hl, hp⟩]
      omega

theorem pairs_addRow (p : Nat × Nat) (v : Int) (l : List (Nat × Nat × Int)) :
    (l.map fun e => if e.1 = p.1 && e.2.1 = p.2 then (e.1, e.2.1, e.2.2 + v) else e).map (fun e => (e.1, e.2.1)) = l.map fun e =>
        (e.1, e.2.1) := by
  rw [List.map_map]
  refine List.map_congr_left fun e _ => ?_
  dsimp only [Function.comp]
  split <;> rfl

/-- An amount enters the ledger whole, and its pairs stay distinct. -/
theorem addLedger_sum {l : List (Nat × Nat × Int)} (hn : (l.map fun e => (e.1, e.2.1)).Nodup) (layer op : Nat) (v : Int) :
    ((addLedger l layer op v).map fun e => (e.1, e.2.1)).Nodup ∧
      ((addLedger l layer op v).map fun e => e.2.2).sum = (l.map fun e => e.2.2).sum + v := by
  have hrow := fun (a b : Nat) (h : (l.any fun e => e.1 == a && e.2.1 == b) = true) => addRow (p := (a, b)) (v := v) l hn (by
    obtain ⟨e, he, hp⟩ := List.any_eq_true.1 h
    exact ⟨e, he, by simpa using hp⟩)
  have hfresh : ∀ a b : Nat, ¬(l.any fun e => e.1 == a && e.2.1 == b) = true →
      ((l ++ [(a, b, v)]).map fun e => (e.1, e.2.1)).Nodup ∧ ((l ++ [(a, b, v)]).map fun e => e.2.2).sum =
          (l.map fun e => e.2.2).sum + v := by
    intro a b h
    refine ⟨?_, by simp⟩
    rw [List.map_append]
    refine List.nodup_append.2 ⟨hn, List.nodup_singleton _, fun x hx y hy hxy => ?_⟩
    obtain ⟨e, he, rfl⟩ := List.mem_map.1 hx
    rw [List.map_singleton, List.mem_singleton] at hy
    rw [hy, Prod.mk.injEq] at hxy
    exact h (List.any_eq_true.2 ⟨e, he, by simp [hxy.1, hxy.2]⟩)
  unfold addLedger
  split
  case isTrue h => exact ⟨pairs_addRow (layer, op) v l ▸ hn, hrow _ _ h⟩
  case isFalse h =>
    split
    · exact hfresh _ _ h
    · split
      case isTrue h => exact ⟨pairs_addRow (0xFFFD, 0xFFFD) v l ▸ hn, hrow _ _ h⟩
      case isFalse h => exact hfresh _ _ h

theorem addLedger_foldl : ∀ (cs : List (Nat × Nat × Nat)) (l : List (Nat × Nat × Int)), (l.map fun e => (e.1, e.2.1)).Nodup →
    ((cs.foldl (fun l c => addLedger l c.1 c.2.1 c.2.2) l).map fun e => (e.1, e.2.1)).Nodup ∧
      ((cs.foldl (fun l c => addLedger l c.1 c.2.1 c.2.2) l).map fun e => e.2.2).sum =
        (l.map fun e => e.2.2).sum + ((cs.map fun c => c.2.2).sum : Nat)
  | [], l, hn => ⟨hn, by simp⟩
  | c :: cs, l, hn => by
    obtain ⟨hn', hsum⟩ := addLedger_sum hn c.1 c.2.1 c.2.2
    obtain ⟨hn'', hsum'⟩ := addLedger_foldl cs _ hn'
    refine ⟨hn'', ?_⟩
    rw [List.foldl_cons, hsum', hsum, List.map_cons, List.sum_cons]
    push_cast
    omega

/-- The charges of a die's second, scaled. -/
def charges (e : Energy) : List (Nat × Nat × Nat) := e.raw.map fun r => (r.1, r.2.1, r.2.2 * e.num / (600 ^ 2 * e.den))

/-- The ledger with a second's charges, and the rest of what was measured at (0xFFFE, 0xFFFE). -/
def ledgerAfter (e : Energy) (measured : Nat) : List (Nat × Nat × Int) :=
  addLedger ((charges e).foldl (fun l c => addLedger l c.1 c.2.1 (c.2.2 : Int)) e.ledger) 0xFFFE 0xFFFE
    ((measured : Int) - (((charges e).map fun c => c.2.2).sum : Nat))

/-- What the calibration makes of a die's energy engine. -/
theorem energy_calibrate {s : State} {d : Nat} (measured : Nat) (hd : d < s.dies.length) : ∃ num den,
    ((s.calibrate d measured).die d).energy = ⟨num, den, true, ledgerAfter (s.die d).energy measured, [],
      ledgerAfter (s.die d).energy measured, s.now / SEC1⟩ := by
  have hset : ∀ (v : State) (x : Energy), v.dies = s.dies →
      ((v.modDie d fun y => { y with energy := x }).die d).energy = x := fun v x hv =>
    congrArg Die.energy (die_modDie (s := v) (fun y => { y with energy := x }) (hv ▸ hd))
  have hpost : ∀ (v w : State), w.dies = v.dies → (w.die d).energy = (v.die d).energy := by
    intro v w h
    rw [State.die, h]
    rfl
  unfold State.calibrate
  dsimp only
  split
  · exact ⟨_, _, (hpost _ _ (RemoteFlags.dies_post ..)).trans (hset _ _ (by split <;> rfl))⟩
  · exact ⟨_, _, hset _ _ (by split <;> rfl)⟩

theorem calibration_exact {s : State} {d : Nat} (measured : Nat) (hd : d < s.dies.length)
    (hn : ((s.die d).energy.ledger.map fun e => (e.1, e.2.1)).Nodup) :
    ∃ e, ((s.calibrate d measured).die d).energy = e ∧ e.raw = [] ∧ e.second = s.now / SEC1 ∧ e.calibrated = true ∧ e.published = e.ledger ∧
      (e.ledger.map fun r => r.2.2).sum = ((s.die d).energy.ledger.map fun r => r.2.2).sum + (measured : Int) := by
  obtain ⟨num, den, he⟩ := energy_calibrate measured hd
  obtain ⟨hn', hsum⟩ := addLedger_foldl (charges (s.die d).energy) _ hn
  refine ⟨_, he, rfl, rfl, rfl, rfl, (addLedger_sum hn' ..).2.trans ?_⟩
  rw [hsum]
  omega

theorem calibration_early {s : State} {d : Nat} (measured : Nat) (hd : d < 4) (h : s.now / SEC1 = (s.die d).energy.second) :
    execEnergyCalibration d measured s = .next s :=
  (if_pos (decide_eq_true hd)).trans (congrArg Host.Outcome.next (if_pos h))

theorem calibration_due {s : State} {d : Nat} (measured : Nat) (hd : d < 4) (h : s.now / SEC1 ≠ (s.die d).energy.second) :
    execEnergyCalibration d measured s = .next (s.calibrate d measured) :=
  (if_pos (decide_eq_true hd)).trans (congrArg Host.Outcome.next (if_neg h))

/-! The trigger of a dump, and settling. -/

section
variable {s : State} {p : Nat}

theorem geodeTrigger_frozen {cause tile : Nat} (hp : p < 4) (h : (s.geode p).frozen = true) : execGeodeTrigger p cause tile s =
    .next s := by
  refine (if_pos (decide_eq_true hp)).trans (congrArg Host.Outcome.next ?_)
  dsimp only
  cases bestTrig (s.geode p).trigs with
  | none => rfl
  | some tr => exact if_pos (by rw [h]; rfl)

theorem geodeTrigger_best {tr : Trig} (hp : p < 4) (ht : bestTrig (s.geode p).trigs = some tr) (h : (s.geode p).frozen = false) :
    execGeodeTrigger p tr.cause tr.tile s = .next (s.freeze p tr) := by
  refine (if_pos (decide_eq_true hp)).trans (congrArg Host.Outcome.next ?_)
  dsimp only
  rw [ht]
  exact if_neg (by simp [h])

/-- What a freeze makes of the dump controller. -/
theorem geode_freeze {tr : Trig} (hp : p < s.geodes.length) : (s.freeze p tr).geode p =
    { s.geode p with
      mapped := (s.geode p).keep && (s.geode p).mapped, frozen := true, phase := .settling, trigs := []
      hdr := some (DumpHdr.of tr s.now ((s.geode p).trigs.length - 1) (s.part p).mask (s.geode p).keep) } := by
  unfold State.freeze
  dsimp only
  cases hk : (s.geode p).keep with
  | true => exact (geode_modGeode _ hp).trans (by simp only [hk, Bool.true_and])
  | false =>
    have hun : (s.unmapDump p).geode p = { s.geode p with mapped := false } :=
      geode_modGeode (s := { s with allocs := _ }) (fun g => { g with mapped := false }) hp
    refine (geode_modGeode (s := s.unmapDump p) _ (Nat.lt_of_lt_of_eq hp (List.length_modify ..).symm)).trans ?_
    rw [hun]
    simp only [hk, Bool.false_and]

theorem tiles_freeze (p : Nat) (tr : Trig) : (s.freeze p tr).tiles = s.tiles := by
  unfold State.freeze
  dsimp only
  split <;> rfl

/-- The dump areas of the four dies are unmapped. -/
theorem freeze_unmaps {tr : Trig} (h : (s.geode p).keep = false) (d : Nat) (hd : dumpAlloc p d ∈ (s.freeze p tr).allocs) : 4 ≤ d := by
  have hmem : dumpAlloc p d ∈ s.allocs.filter fun al => !([dumpAlloc p 0, dumpAlloc p 1, dumpAlloc p 2, dumpAlloc p 3].contains al) := by
    unfold State.freeze at hd
    dsimp only at hd
    rwa [h] at hd
  by_contra hlt
  obtain rfl | rfl | rfl | rfl : d = 0 ∨ d = 1 ∨ d = 2 ∨ d = 3 := by omega
  all_goals simp at hmem

theorem geodeSettle_early {h : DumpHdr} (hp : p < 4) (hh : (s.geode p).hdr = some h) (hat : s.now < h.tTrig + 10000)
    (hfly : s.nothingFlies p = false) : execGeodeSettle p s = .next s := by
  refine (if_pos (decide_eq_true hp)).trans (congrArg Host.Outcome.next ?_)
  dsimp only
  rw [hh]
  exact if_neg (by simp [hfly, hat])

theorem geodeSettle_settles {h : DumpHdr} (hp : p < 4) (hh : (s.geode p).hdr = some h) (hphase : (s.geode p).phase = .settling)
    (hdue : h.tTrig + 10000 ≤ s.now ∨ s.nothingFlies p = true) : execGeodeSettle p s = .next (s.settle p h) := by
  refine (if_pos (decide_eq_true hp)).trans (congrArg Host.Outcome.next ?_)
  dsimp only
  rw [hh]
  exact if_pos (by simpa [hphase] using hdue)

theorem dumpSummary_only (s : State) (p : Nat) (h : DumpHdr) : ∃ o m, s.dumpSummary p h = { s with obs := o, mram := m } :=
  Cleat.log_only s _ _ _

theorem geode_settle {h : DumpHdr} (hp : p < s.geodes.length) : (s.settle p h).geode p =
    { s.geode p with phase := if h.status = 2 then .done else .writing, hdr := some { h with tSettled := s.now } } := by
  unfold State.settle
  dsimp only
  split
  · obtain ⟨o, m, hv⟩ := dumpSummary_only s p { h with tSettled := s.now }
    rw [hv]
    exact geode_modGeode (s := { s with obs := o, mram := m }) _ hp
  · exact geode_modGeode _ hp

/-! Writing the dump. -/

theorem geodeWrite_not {h : DumpHdr} {trunc : Bool} (hp : p < 4) (hh : (s.geode p).hdr = some h)
    (hno : ((trunc || s.engReady p) && (if trunc then decide (h.tSettled + 20000000 ≤ s.now) else
      !decide (h.tSettled + 20000000 ≤ s.now) || s.now = h.tSettled + 20000000)) = false) : execGeodeWriteEnd p trunc s = .next s := by
  refine (if_pos (decide_eq_true hp)).trans (congrArg Host.Outcome.next ?_)
  dsimp only
  rw [hh]
  exact if_neg (by rw [Bool.and_assoc, hno, Bool.and_false]; decide)

theorem geodeWrite_writes {h : DumpHdr} {trunc : Bool} (hp : p < 4) (hh : (s.geode p).hdr = some h) (hphase : (s.geode p).phase = .writing)
    (hdue : ((trunc || s.engReady p) && (if trunc then decide (h.tSettled + 20000000 ≤ s.now) else
      !decide (h.tSettled + 20000000 ≤ s.now) || s.now = h.tSettled + 20000000)) = true) :
    execGeodeWriteEnd p trunc s = .next (s.writeDump p h trunc) := by
  refine (if_pos (decide_eq_true hp)).trans (congrArg Host.Outcome.next ?_)
  dsimp only
  rw [hh]
  exact if_pos (by rw [Bool.and_assoc, hdue, hphase]; rfl)

theorem served_dumpWrite (s : State) (p off : Nat) (data : List Byte) : Served s (s.dumpWrite p off data) := by
  unfold State.dumpWrite
  generalize linesOf off data.length = ls
  induction ls generalizing s with
  | nil => exact .refl s
  | cons l ls ih =>
    refine Served.trans ?_ (ih _)
    dsimp only
    split
    · exact .refl s
    · exact served_homeDo ..

theorem served_writePieces (p : Nat) : ∀ (ps : List Piece) (s : State) (off : Nat), Served s (s.writePieces p off ps)
  | [], s, _ => .refl s
  | .bytes l :: r, s, off => (served_dumpWrite s p off l).trans (served_writePieces p r _ _)
  | .open_ n :: r, s, off =>
    have hdraw : Served s (s.drawBytes n).2 := ⟨_, _, _, _, _, _, _, _, _, rfl⟩
    (hdraw.trans (served_dumpWrite _ p off _)).trans (served_writePieces p r _ _)

theorem served_writeSections (p : Nat) : ∀ (xs : List Placed) (s : State), Served s (xs.foldl (fun s x => s.writeSection p x) s)
  | [], s => .refl s
  | x :: xs, s => (served_writePieces p x.sec.pieces s x.off).trans (served_writeSections p xs _)

theorem length_placeSections : ∀ (l : List Section) (at_ : Nat), (placeSections at_ l).length = l.length
  | [], _ => rfl
  | _ :: l, _ => congrArg Nat.succ (length_placeSections l _)

theorem length_placed (s : State) (p : Nat) : (s.placed p).length = 677 * (s.diesOf p).length := by
  have hdie : ∀ d, (s.sectionsOf d).length = 677 := fun d => by
    have htile : ∀ t, (s.tileSections t).length = 7 := fun _ => rfl
    have hown : (s.dieSections d).length = 5 := rfl
    rw [State.sectionsOf, List.length_append, hown, List.length_flatten, List.map_map,
      List.map_congr_left (f := List.length ∘ fun k => s.tileSections (96 * d + k)) (g := fun _ => 7) fun k _ => htile _,
          List.map_const', List.sum_replicate, List.length_range]
    rfl
  unfold State.placed
  dsimp only
  rw [List.length_flatten, List.map_map, List.map_congr_left (g := fun _ => 677) fun d _ => by
    rw [Function.comp, length_placeSections, hdie], List.map_const', List.sum_replicate]
  exact Nat.mul_comm ..

/-- A written dump: its header tells how it ended, and nothing but what its home's writes touch, the summary and the controller changes. -/
theorem writeDump_ends {h : DumpHdr} (trunc : Bool) (hp : p < s.geodes.length) : ∃ u, s.writeDump p h trunc = u ∧
    (u.geode p).phase = .done ∧
    (u.geode p).hdr = some { h with status := natOfBool trunc, sections := 677 * (s.diesOf p).length, tWritten := s.now } ∧
    u.sram = s.sram ∧ u.flash = s.flash ∧ u.parts = s.parts := by
  unfold State.writeDump
  dsimp only
  rw [length_placed]
  generalize (if trunc then s.drawFree.1.toNat % (677 * (s.diesOf p).length + 1) else 677 * (s.diesOf p).length) = k
  generalize ({ h with status := natOfBool trunc, sections := 677 * (s.diesOf p).length, tWritten := s.now } : DumpHdr) = h1
  generalize ((((s.placed p).take k).map fun x => x.entry false) ++ ((s.placed p).drop k).map fun x => x.entry true).flatten = entries
  have hdraw : Served s s.drawFree.2 := ⟨_, _, _, _, _, _, _, _, _, rfl⟩
  have hserved := fun home data data' => ((hdraw.trans (served_writeSections p ((s.placed p).take k) s.drawFree.2)).trans
    (served_dumpWrite _ p (home + 128) data)).trans (served_dumpWrite _ p home data')
  obtain ⟨_, _, _, _, _, _, _, _, _, hv⟩ := hserved _ entries _
  rw [hv]
  obtain ⟨o, m, hw⟩ := dumpSummary_only _ p h1
  rw [hw]
  have hg := geode_modGeode (s := { s with geodes := s.geodes }) (fun g => { g with phase := .done, hdr := some h1 }) hp
  exact ⟨_, rfl, congrArg Geode.phase hg, congrArg Geode.hdr hg, rfl, rfl, rfl⟩

end

/-- Settles O55: an event's effect on each monitor of its die is followed through the fold over the monitors, the ledger's sum through the
fold over the charges, and the dump's steps through the controller that each of them leaves. -/
theorem samplesAndDumps : Obligations.SamplesAndDumps := by
  unfold Obligations.SamplesAndDumps
  refine ⟨fun s e k m hd hdie hk hm => ⟨strataSample_posted hd hk, fun hs hp => ?_⟩,
    fun s d m k he hm hk => ⟨strataPeriod_early he hk, strataPeriod_due he hm hk⟩,
    fun s d measured hd h => calibration_early measured hd h,
    fun s d measured hd hlen h hn => ?_, fun s p hp hlen => ⟨fun tr ht => ⟨geodeTrigger_frozen hp, fun hfrozen => ?_⟩, fun h hh =>
        ⟨fun hphase =>
      ⟨geodeSettle_early hp hh, fun hdue => ?_⟩, fun hphase => ⟨fun hat => ?_, fun hno => ?_, fun hat hready => ?_, fun hat => ?_⟩⟩⟩⟩
  · have hex := strataSample_event (s := s) hd hk hs hp
    have hmon := mon_sampleEvent hdie hm
    refine ⟨_, hex, commandsAnswer.2.2.1 (.strataSample e) s _ rfl hex, fun hno => ?_, fun hyes => ⟨fun hburst => ?_, fun hburst => ?_⟩⟩
    · exact hmon.trans (if_neg (by rw [hno]; decide))
    · exact hmon.trans ((if_pos hyes).trans (if_pos hburst))
    · have hmon' := hmon.trans ((if_pos hyes).trans (if_neg (Nat.not_le_of_lt hburst)))
      exact ⟨congrArg Monitor.count hmon', congrArg Monitor.sum hmon', congrArg Monitor.min hmon', congrArg Monitor.max hmon'⟩
  · have hex := calibration_due measured hd h
    obtain ⟨e, he, hraw, hsecond, hcal, hpub, hsum⟩ := calibration_exact measured hlen hn
    refine ⟨_, hex, ?_⟩
    rw [he]
    exact ⟨hraw, hsecond, hcal, hpub, hsum, commandsAnswer.2.2.1 (.energyCalibration d measured) s _ rfl hex⟩
  · have hex := geodeTrigger_best hp ht hfrozen
    have hg := geode_freeze (tr := tr) hlen
    refine ⟨_, _, hex, congrArg Geode.frozen hg, congrArg Geode.phase hg, congrArg Geode.trigs hg, congrArg Geode.hdr hg, rfl, rfl,
        rfl, rfl,
      rfl, rfl, rfl, fun hkeep => ⟨(congrArg Geode.mapped hg).trans (by rw [hkeep]; rfl), freeze_unmaps hkeep⟩, tiles_freeze p tr,
      commandsAnswer.2.2.1 (.geodeTrigger p tr.cause tr.tile) s _ rfl hex⟩
  · have hex := geodeSettle_settles hp hh hphase hdue
    have hg := geode_settle (h := h) hlen
    exact ⟨_, hex, congrArg Geode.hdr hg, congrArg Geode.phase hg, (congrArg Geode.frozen hg).trans rfl,
      commandsAnswer.2.2.1 (.geodeSettle p) s _ rfl hex⟩
  · exact geodeWrite_not hp hh (by simp [hat])
  · refine geodeWrite_not hp hh ?_
    obtain hlate | hready := hno
    · have hne : ¬s.now = h.tSettled + 20000000 := by omega
      simp [Nat.le_of_lt hlate, hne]
    · simp [hready]
  · obtain ⟨u, hu, hdone, hhdr, hsram, hflash, hparts⟩ := writeDump_ends (h := h) false hlen
    have hdue : s.now < h.tSettled + 20000000 ∨ s.now = h.tSettled + 20000000 := by omega
    exact ⟨u, _, (geodeWrite_writes hp hh hphase (by simpa [hready] using hdue)).trans (congrArg Host.Outcome.next hu), hdone, hhdr,
        rfl, rfl, rfl,
      hsram, hflash, hparts⟩
  · obtain ⟨u, hu, hdone, hhdr, hsram, hflash, hparts⟩ := writeDump_ends (h := h) true hlen
    exact ⟨u, _, (geodeWrite_writes hp hh hphase (by simpa using hat)).trans (congrArg Host.Outcome.next hu), hdone, hhdr, rfl, rfl,
      hsram, hflash, hparts⟩

end Sys2Proof.Proofs.SamplesDumps
end

section
/-! PROOFS. The two passes of the update engine (O48). -/
namespace Sys2Proof.Proofs.Passes

open Sys2Proof Sys2Proof.Machine Sys2Proof.Laws Sys2Proof.Safety
open Sys2Proof.Proofs.SystemCommands Sys2Proof.Proofs.HomeServe Sys2Proof.Proofs.SamplesDumps

/-! Little-endian fields. -/

theorem leNat_natLe : ∀ n v : Nat, leNat (natLe n v) = v % 256 ^ n
  | 0, v => (Nat.mod_one v).symm
  | n + 1, v => by
    have hlow : (BitVec.ofNat 8 (v % 256)).toNat = v % 256 := by simp
    rw [natLe, leNat, hlow, leNat_natLe n, Nat.pow_succ, Nat.mul_comm (256 ^ n), Nat.mod_mul]

theorem take_natLe : ∀ {k n : Nat} (v : Nat), k ≤ n → (natLe n v).take k = natLe k v
  | 0, _, _, _ => by rw [List.take_zero, natLe]
  | k + 1, n + 1, v, h => by rw [natLe, natLe, List.take_succ_cons, take_natLe _ (Nat.le_of_succ_le_succ h)]

/-- The first bytes of a record that begins with a field. -/
theorem leAt_first {k n : Nat} (v : Nat) (l : List Byte) (h : k ≤ n) : leAt (natLe n v ++ l) 0 k = v % 256 ^ k := by
  unfold leAt sub
  rw [List.drop_zero, List.take_append_of_le_length (by rw [length_natLe]; exact h), take_natLe v h, leNat_natLe]

/-- A field behind a first one. -/
theorem leAt_second {n : Nat} (v lo m : Nat) (l : List Byte) : leAt (natLe n v ++ l) (n + lo) m = leAt l lo m := by
  unfold leAt sub
  rw [List.drop_append, length_natLe, List.drop_eq_nil_of_le (by rw [length_natLe]; omega), List.nil_append, Nat.add_sub_cancel_left]

theorem natOfBool_le (b : Bool) : natOfBool b ≤ 1 := by cases b <;> decide

/-- A bit with what stands below and above it. -/
theorem bit_between {v lo hi n : Nat} {b : Bool} (h : v = lo + natOfBool b * 2 ^ n + hi * 2 ^ (n + 1)) (hlo : lo < 2 ^ n) :
    bit v n = b := by
  have hv : v = lo + 2 ^ n * (natOfBool b + 2 * hi) := by
    rw [h, Nat.pow_succ]
    ring
  rw [bit, Nat.testBit_eq_decide_div_mod_eq, hv, Nat.add_mul_div_left _ _ (Nat.two_pow_pos n), Nat.div_eq_of_lt hlo]
  cases b
  · exact decide_eq_false (by simp only [natOfBool]; simp)
  · exact decide_eq_true (by simp only [natOfBool]; simp)

/-! The commit record. -/

section
variable (step count lr clip failed first : Nat) (committed repair audited : Bool)

theorem length_commitRec : (commitRec step committed repair audited count lr clip failed first).length = 64 := by
  simp [commitRec]

theorem commitRec_count : leAt (commitRec step committed repair audited count lr clip failed first) 8 8 = count % 2 ^ 64 := by
  unfold commitRec
  simp only [List.append_assoc]
  exact (leAt_second (n := 8) _ 0 8 _).trans (leAt_first count _ (Nat.le_refl 8))

theorem commitRec_head (k : Nat) (h : k ≤ 8) : leAt (commitRec step committed repair audited count lr clip failed first) 0 k =
    (step % 2 ^ 32 + 2 ^ 32 + natOfBool committed * 2 ^ 33 + natOfBool repair * 2 ^ 34 + natOfBool audited * 2 ^ 35) % 256 ^ k := by
  unfold commitRec
  simp only [List.append_assoc]
  exact leAt_first _ _ h

theorem commitRec_step : leAt (commitRec step committed repair audited count lr clip failed first) 0 4 = step % 2 ^ 32 := by
  rw [commitRec_head _ _ _ _ _ _ _ _ _ 4 (by decide)]
  omega

/-- COMMITTED, REPAIR_PENDING and AUDIT of the first word. -/
theorem commitRec_bits :
    bit (leAt (commitRec step committed repair audited count lr clip failed first) 0 8) 33 = committed ∧
    bit (leAt (commitRec step committed repair audited count lr clip failed first) 0 8) 34 = repair ∧
    bit (leAt (commitRec step committed repair audited count lr clip failed first) 0 8) 35 = audited := by
  rw [commitRec_head _ _ _ _ _ _ _ _ _ 8 (by decide)]
  have hstep : step % 2 ^ 32 < 2 ^ 32 := Nat.mod_lt _ (by decide)
  have hc := natOfBool_le committed
  have hr := natOfBool_le repair
  have ha := natOfBool_le audited
  refine ⟨bit_between (lo := step % 2 ^ 32 + 2 ^ 32) (hi := natOfBool repair + 2 * natOfBool audited) ?_ ?_,
    bit_between (lo := step % 2 ^ 32 + 2 ^ 32 + natOfBool committed * 2 ^ 33) (hi := natOfBool audited) ?_ ?_,
    bit_between (lo := step % 2 ^ 32 + 2 ^ 32 + natOfBool committed * 2 ^ 33 + natOfBool repair * 2 ^ 34) (hi := 0) ?_ ?_⟩
  all_goals omega

end

/-! The commit pass. -/

section
variable {s s0 : State} {d p step count : Nat} {u : UpdSec} {vetoed : Bool}

theorem commitPass_idle (hd : d < 4) (h : (s.die d).upd.todo = none ∨ (s.die d).upd.sec = none ∨ s.partOfDie d = none) :
    execCommitPass d s = .next s := by
  refine (if_pos (decide_eq_true hd)).trans (congrArg Host.Outcome.next ?_)
  dsimp only
  unfold State.commitPass
  obtain h | h | h := h <;> rw [h]
  · split <;> simp_all
  · split <;> simp_all

variable (hd : d < 4) (hp : s.partOfDie d = some p) (hsec : (s.die d).upd.sec = some u) (htodo : (s.die d).upd.todo = some (step, vetoed))
  (hword : s.updWord d p step u.stateLine 8 = (s0, count))
include hd hp hsec htodo

theorem commitPass_held (h : s.updLive d p = false) : execCommitPass d s = .next s := by
  refine (if_pos (decide_eq_true hd)).trans (congrArg Host.Outcome.next ?_)
  dsimp only
  unfold State.commitPass
  rw [hp, hsec, htodo]
  exact if_pos (by rw [h]; rfl)

include hword in
theorem commitPass_runs (h : s.updLive d p = true) : execCommitPass d s = .next (((if vetoed then s0.vetoRecord d p step count u else
    s0.commit d p step count u).doneSig d p step (if vetoed then count else count + 1) u).afterPass d p u.group) := by
  refine (if_pos (decide_eq_true hd)).trans (congrArg Host.Outcome.next ?_)
  dsimp only
  unfold State.commitPass
  rw [hp, hsec, htodo]
  refine (if_neg (by rw [h]; decide)).trans ?_
  rw [hword]

end

theorem vetoRecord_writes (s : State) (d p step count : Nat) (u : UpdSec) : ∃ (w : List Byte) (f : Nat),
    s.vetoRecord d p step count u = { s with free := f }.updWrite d p step 0 0 (u.commit + 64 * (step % 2)) w ∧ w.length = 64 ∧
    leAt w 8 8 = count % 2 ^ 64 ∧ leAt w 0 4 = step % 2 ^ 32 ∧ bit (leAt w 0 8) 33 = false ∧
    bit (leAt w 0 8) 34 = (s.die d).upd.repair := by
  obtain ⟨hc, hr, -⟩ := commitRec_bits step count (Config.freeWord s.free).toNat (Config.freeWord (s.free + 1)).toNat 0
    (Config.freeWord (s.free + 2)).toNat false (s.die d).upd.repair false
  exact ⟨_, s.free + 3, rfl, length_commitRec .., commitRec_count .., commitRec_step .., hc, hr⟩

theorem commit_writes {s s1 v1 : State} {d p step count : Nat} {u : UpdSec} {norms : List Nat} {a : PassAcc}
    (hn : s.norms d p step u = (s1, norms))
    (ha : a = ((List.range u.descs.length).zip u.descs).foldl (stepDesc d p step u (updScal u step (treeCombine norms)) count) ⟨s1, []⟩)
    (hv : v1 = (if u.auditEvery ≠ 0 ∧ (count + 1) % u.auditEvery = 0 then
        ((List.range u.descs.length).zip u.descs).foldl (fun s x => s.auditOne d p step count u x) a.s else a.s)) :
    ∃ (w : List Byte) (f : Nat), s.commit d p step count u =
        { v1.updWrite d p step 0 0 u.stateLine (natLe 8 ((count + 1) % 2 ^ 64)) with free := f }.updWrite d p step 0 0
          (u.commit + 64 * (step % 2)) w ∧ w.length = 64 ∧ leAt w 8 8 = (count + 1) % 2 ^ 64 ∧ leAt w 0 4 = step % 2 ^ 32 ∧
        bit (leAt w 0 8) 33 = true ∧ bit (leAt w 0 8) 34 = (s.die d).upd.repair ∧
        bit (leAt w 0 8) 35 = decide (u.auditEvery ≠ 0 ∧ (count + 1) % u.auditEvery = 0) := by
  unfold State.commit
  rw [hn]
  dsimp only
  rw [← ha]
  have haud : ((decide (u.auditEvery ≠ 0) && decide ((count + 1) % u.auditEvery = 0)) : Bool) =
      decide (u.auditEvery ≠ 0 ∧ (count + 1) % u.auditEvery = 0) := Bool.decide_and .. |>.symm
  have hif : (if (decide (u.auditEvery ≠ 0) && decide ((count + 1) % u.auditEvery = 0)) = true then
      ((List.range u.descs.length).zip u.descs).foldl (fun s x => s.auditOne d p step count u x) a.s else a.s) = v1 := by
    rw [hv, haud]
    exact if_congr decide_eq_true_iff rfl rfl
  rw [hif]
  obtain ⟨hc, hr, hau⟩ := commitRec_bits step (count + 1) ((updScal u step (treeCombine norms)).lr +
      (updScal u step (treeCombine norms)).nu * 2 ^ 32)
    (updScal u step (treeCombine norms)).phi a.failed.length
    (match a.failed with | x :: _ => x.2.2 | [] => (v1.updWrite d p step 0 0 u.stateLine (natLe 8 ((count + 1) % 2 ^ 64))).drawFree.1.toNat)
    true (s.die d).upd.repair (decide (u.auditEvery ≠ 0) && decide ((count + 1) % u.auditEvery = 0))
  exact ⟨_, _, rfl, length_commitRec .., commitRec_count .., commitRec_step .., hc, hr, hau.trans haud⟩

/-! A block whose reads fail. -/

/-- HBM, every cache, every engine and the number of dies are as they were. -/
def Noticed (s v : State) : Prop := v.hbm = s.hbm ∧ v.dies.length = s.dies.length ∧
  ∀ e, (v.die e).cache = (s.die e).cache ∧ (v.die e).upd = (s.die e).upd

theorem Noticed.refl (s : State) : Noticed s s := ⟨rfl, rfl, fun _ => ⟨rfl, rfl⟩⟩

theorem Noticed.trans {s v w : State} (h : Noticed s v) (k : Noticed v w) : Noticed s w :=
  ⟨k.1.trans h.1, k.2.1.trans h.2.1, fun e => ⟨(k.2.2 e).1.trans (h.2.2 e).1, (k.2.2 e).2.trans (h.2.2 e).2⟩⟩

theorem noticed_modDie {f : Die → Die} (hc : ∀ x, (f x).cache = x.cache) (hu : ∀ x, (f x).upd = x.upd) (s : State) (d : Nat) :
    Noticed s (s.modDie d f) :=
  ⟨rfl, List.length_modify .., fun e => ⟨die_modDie_keeps (g := Die.cache) hc s d e, die_modDie_keeps (g := Die.upd) hu s d e⟩⟩

theorem noticed_post (s : State) (p : Option Nat) (e src layer op detail : Nat) : Noticed s (s.post p e src layer op detail) := by
  obtain ⟨_, _, _, _, hv⟩ := sampled_post s p e src layer op detail
  have hdies := RemoteFlags.dies_post s p e src layer op detail
  refine ⟨by rw [hv], by rw [hdies], fun k => ?_⟩
  unfold State.die
  rw [hdies]
  exact ⟨rfl, rfl⟩

theorem noticed_setVeto (s : State) (d step : Nat) (v : Veto) (source layer op : Nat) : Noticed s (s.setVeto d step v source layer op) := by
  unfold State.setVeto
  split
  · exact .refl s
  · split
    · exact noticed_post ..
    · exact noticed_modDie (f := fun x => { x with reef := { x.reef with latch := modAt x.reef.latch (step % 2) fun y => y.join v } })
        (fun _ => rfl) (fun _ => rfl) s d

theorem noticed_log (s : State) (rtype part : Nat) (payload : List Nat) : Noticed s (s.log rtype part payload) := by
  obtain ⟨o, m, hlog⟩ := Cleat.log_only s rtype part payload
  rw [hlog]
  exact ⟨rfl, rfl, fun _ => ⟨rfl, rfl⟩⟩

theorem noticed_postFault (s : State) (d source : Nat) (r : FaultRec) (step : Nat) : Noticed s (s.postFault d source r step) := by
  have hq : Noticed s (if 256 ≤ (s.die d).faultQ.length then
      match s.partOfDie d with
      | some p => s.modPage (p + 1) fun x => { x with faultDrop := inc16 x.faultDrop }
      | none => s
    else s.modDie d fun x => { x with faultQ := x.faultQ ++ [r] }) := by
    split
    · split
      · exact ⟨rfl, rfl, fun _ => ⟨rfl, rfl⟩⟩
      · exact .refl s
    · exact noticed_modDie (f := fun x => { x with faultQ := x.faultQ ++ [r] }) (fun _ => rfl) (fun _ => rfl) s d
  unfold State.postFault
  dsimp only
  split
  · exact hq.trans (noticed_post _ _ _ _ _ _ _)
  · exact ((hq.trans (noticed_post _ _ _ _ _ _ _)).trans
      (noticed_modDie (f := fun x => { x with obsStep := some step }) (fun _ => rfl) (fun _ => rfl) _ d)).trans (noticed_log ..)

theorem noticed_engFault (s : State) (d step layer op : Nat) (why : Nat × Nat × Nat) : Noticed s (s.engFault d step layer op why) :=
  (noticed_postFault s d _ _ step).trans (noticed_setVeto _ d step Veto.error _ layer op)

theorem lineRead_congr {s v : State} {e : Nat} (hh : v.hbm = s.hbm) (hc : (v.die e).cache = (s.die e).cache) (key : Nat) :
    v.lineRead e key = s.lineRead e key := by
  unfold State.lineRead State.cached
  rw [hc, hh]

section
variable {dd p step n idx k count : Nat} {u : UpdSec} {sc : UScal} {x : UDesc} {f : Option Factors} {a : PassAcc} {s1 : State}
  {bs : List (List Byte)} {why : Nat × Nat × Nat}

theorem updOne_left_out (h : a.s.updReads dd p (x.pieces k) = (s1, bs, some why)) : updOne dd p step u sc n idx x f a k =
    ⟨if why.1 = 2 then (s1.engFault dd step x.layer x.op why).modUpd dd fun x => { x with repair := true }
      else s1.engFault dd step x.layer x.op why, a.failed ++ [(idx, k, x.master + 4096 * k)]⟩ := by
  unfold updOne
  rw [h]

theorem repair_left_out (hd : dd < s1.dies.length) :
    let v := if why.1 = 2 then (s1.engFault dd step x.layer x.op why).modUpd dd fun x => { x with repair := true }
      else s1.engFault dd step x.layer x.op why
    (v.die dd).upd.repair = ((s1.die dd).upd.repair || why.1 == 2) ∧ ∀ e key, v.lineRead e key = s1.lineRead e key := by
  obtain ⟨hhbm, hlen, hdie⟩ := noticed_engFault s1 dd step x.layer x.op why
  dsimp only
  split
  case isTrue h =>
    have hset := die_modDie (s := s1.engFault dd step x.layer x.op why) (fun y => { y with upd := { y.upd with repair := true } })
        (hlen ▸ hd)
    have hkeep := fun e => (die_modDie_keeps (g := Die.cache) (f := fun y => { y with upd := { y.upd with repair := true } }) (fun _ => rfl)
      (s1.engFault dd step x.layer x.op why) dd e).trans (hdie e).1
    exact ⟨(congrArg (fun y : Die => y.upd.repair) hset).trans (by simp [h]), fun e key => lineRead_congr
      (v := (s1.engFault dd step x.layer x.op why).modUpd dd fun x => { x with repair := true }) hhbm (hkeep e) key⟩
  case isFalse h =>
    refine ⟨?_, fun e key => lineRead_congr hhbm (hdie e).1 key⟩
    rw [(hdie dd).2]
    simp [h]

end

/-! The pre-decision pass. -/

section
variable {s : State} {d p t : Nat} {u : UpdSec} {y : GroupSt} (hd : d < 4) (hp : s.partOfDie d = some p) (hsec : (s.die d).upd.sec = some u)
  (hg : (s.reef d).group u.group = some y) (hstep : y.step = some t)
include hd hp hsec hg hstep

theorem prePass_not (h : s.updLive d p = false ∨ (s.die d).upd.todo ≠ none ∨ (s.die d).upd.preDone = some t ∨ y.closedAt = none ∨
    s.shardsSettled d y t = false) : execPreDecisionPass d s = .next s := by
  refine (if_pos (decide_eq_true hd)).trans (congrArg Host.Outcome.next ?_)
  dsimp only
  unfold State.prePass
  rw [hp, hsec]
  dsimp only
  rw [hg]
  dsimp only
  rw [hstep]
  refine if_pos ?_
  simp only [Bool.or_eq_true, Bool.not_eq_true', decide_eq_true_eq, Option.isSome_iff_ne_none, Option.isNone_iff_eq_none]
  tauto

theorem prePass_runs (hlive : s.updLive d p = true) (htodo : (s.die d).upd.todo = none) (hpre : (s.die d).upd.preDone ≠ some t)
    (hclosed : y.closedAt.isSome = true) (hsettled : s.shardsSettled d y t = true) : execPreDecisionPass d s =
    .next (((s.modUpd d fun e => { e with preDone := some t }).preNorm d p t u).preLoss d p t u) := by
  refine (if_pos (decide_eq_true hd)).trans (congrArg Host.Outcome.next ?_)
  dsimp only
  unfold State.prePass
  rw [hp, hsec]
  dsimp only
  rw [hg]
  dsimp only
  rw [hstep]
  refine if_neg ?_
  simp [hlive, htodo, hpre, hsettled, Option.isSome_iff_ne_none.1 hclosed]

end

theorem preNorm_off {v : State} {d p t : Nat} {u : UpdSec} (h : u.normEn = false) : v.preNorm d p t u = v := if_pos (by rw [h]; rfl)

theorem preLoss_off {v : State} {d p t : Nat} {u : UpdSec} (h : u.lossEn = false) : v.preLoss d p t u = v := if_pos (by rw [h]; rfl)

theorem preNorm_on {v s1 : State} {d p t : Nat} {u : UpdSec} {bs : List (List Byte)} {bad : Bool} (h : u.normEn = true)
    (hr : v.preReads d p t 4096 u.normBlocks = (s1, bs, bad)) : v.preNorm d p t u =
    (s1.updFlags d (nanFlags (bs.map (unpack 32 1024)).flatten)).give d p t u
      (u.normBkt + d) [treeCombine (bs.map fun b => seqSum ((unpack 32 1024 b).map fun g => mul32 g g))] bad := by
  refine (if_neg (by rw [h]; decide)).trans ?_
  rw [hr]
  rfl

theorem preLoss_on {v s1 : State} {d p t : Nat} {u : UpdSec} {bs : List (List Byte)} {bad : Bool} (h : u.lossEn = true)
    (hr : v.preReads d p t 384 ((List.range u.lossTiles).map fun m => (0, 0, u.loss + 384 * m)) = (s1, bs, bad)) : v.preLoss d p t u =
    (s1.updFlags d (nanFlags (bs.map fun b => (List.range 48).map fun g => leAt b (8 * g) 4).flatten)).give d p t u
      (u.lossBkt + d) (lossVals bs) bad := by
  refine (if_neg (by rw [h]; decide)).trans ?_
  rw [hr]

/-- Settles O48: each pass is one guard and then the writes that the statement names, and the commit record's fields are read from its
bytes. -/
theorem updatePasses : Obligations.UpdatePasses := by
  unfold Obligations.UpdatePasses
  refine ⟨fun s d => commitPass_idle, fun s s0 d p step count u vetoed hd hp hsec htodo hword => ⟨commitPass_held hd hp hsec htodo,
    fun hlive hveto => ?_, fun s1 norms a v1 hlive hveto hn ha hv => ?_⟩, fun dd p step n idx k u sc x f a s1 bs why hd h => ?_,
    fun s d p t u y hd hp hsec hg hstep => ⟨prePass_not hd hp hsec hg hstep, fun v hlive htodo hpre hclosed hsettled hv => ?_⟩⟩
  · subst hveto
    obtain ⟨w, f, hw, hfields⟩ := vetoRecord_writes s0 d p step count u
    have hrun := commitPass_runs hd hp hsec htodo hword hlive
    rw [if_pos rfl, if_pos rfl] at hrun
    exact ⟨_, w, f, hrun, hw, hfields⟩
  · subst hveto
    obtain ⟨w, f, hw, hfields⟩ := commit_writes hn ha hv
    have hrun := commitPass_runs hd hp hsec htodo hword hlive
    rw [if_neg Bool.false_ne_true, if_neg Bool.false_ne_true] at hrun
    exact ⟨_, w, f, hrun, hw, hfields⟩
  · rw [updOne_left_out h]
    exact ⟨rfl, repair_left_out hd⟩
  · have hruns := prePass_runs hd hp hsec hg hstep hlive htodo hpre hclosed hsettled
    rw [← hv] at hruns
    refine ⟨fun hn hl => ?_, fun s1 bs bad hn hl hr => ?_, fun s1 bs bad hn hl hr => ?_, fun _ _ => hruns⟩
    · rw [preNorm_off hn, preLoss_off hl] at hruns
      exact hruns
    · rw [preNorm_on hn hr, preLoss_off hl] at hruns
      exact hruns
    · rw [preNorm_off hn, preLoss_on hl hr] at hruns
      exact hruns

end Sys2Proof.Proofs.Passes
end

section
/-! PROOFS. The matrix array's own events (O7). -/
namespace Sys2Proof.Proofs.ArrayEvents

open Sys2Proof Sys2Proof.Machine Sys2Proof.Laws Sys2Proof.Safety
open Sys2Proof.Proofs.Stores

/-! Feeders. -/

/-- A slice read from the splice buffer is no broadcast. -/
theorem notSplice_of_bc {isB : Bool} {f : MmaF} (h : feedBc isB f = true) : ¬(!isB && f.splice) = true := by
  cases isB
  · simp only [feedBc] at h
    simp_all
  · simp

theorem live_upsetIn (s : State) (t : Nat) (upset : Option Nat) (u : Nat) : (upsetIn s t upset).live u = s.live u := by
  cases upset <;> rfl

section
variable {v : State} {t idx rel : Nat} {isB : Bool} {m : MmaRec} (hnext : (v.tile t).arr.nextFeed isB idx = some (m, rel))

theorem tiles_charge (s : State) (d gear layer op kind n : Nat) : (s.charge d gear layer op kind n).tiles = s.tiles := by
  unfold State.charge
  split <;> rfl

/-- A delivery of good parity to one tile leaves the tiles with the slice in the link and the read panels free. -/
theorem feedFrom_good (hbad : v.sliceBad t isB idx m.f rel = none) : (v.feedFrom t t isB idx m rel [t]).tiles =
    ((v.putSlice t isB idx (v.readSlice t isB idx m.f rel)).freePanels t).tiles := by
  unfold State.feedFrom
  dsimp only
  rw [hbad]
  dsimp only
  split
  · exact tiles_charge ..
  · rfl

include hnext

theorem feedFrom_bad {a : Nat} (hbad : v.sliceBad t isB idx m.f rel = some a) : v.feedFrom t t isB idx m rel [t] =
    (((v.putSlice t isB idx (v.readSlice t isB idx m.f rel)).freePanels t).postParity t a 0 m.info.layer m.info.op).fault t m.info
        true 2 2 a := by
  unfold State.feedFrom
  dsimp only
  rw [hbad]
  dsimp only
  rw [List.map_singleton, hnext]
  rfl

variable (hroom : (v.tile t).arr.linkRoom isB idx = true) (hlive : v.live t = true)
include hroom hlive

/-- What a feeder with room does, apart from the conditions it stands under. -/
theorem feed_runs : v.feed t isB idx = (if (!isB && m.f.splice) = true then
      if ((v.tile t).arr.blocks.any fun b => b.dest && b.panel == (splicePlace m.f rel idx).1 && b.n < m.blk) = true then v
      else (v.putSlice t isB idx
        ⟨sub ((v.tile t).arr.splice.getD (splicePlace m.f rel idx).1 []) (splicePlace m.f rel idx).2 32, []⟩).freePanels t
    else if feedBc isB m.f = true then
      if (rel = 0 && v.bcClash t isB idx m.f) = true then v.fault t m.info true 1 0x08 (feedBase isB m.f * 64)
      else if (!(v.bcGroup t isB idx m.f rel).contains (t / 4 * 4 + m.f.bcSrc) || rel = 0 && !v.bcReady t isB idx m.f ||
        (v.bcGroup t isB idx m.f rel).any (fun u => !(v.tile u).arr.linkRoom isB idx || !v.live u)) = true then v
      else (v.bcGroup t isB idx m.f rel).foldl (fun s u => s.pump u)
        (v.feedFrom t (t / 4 * 4 + m.f.bcSrc) isB idx m rel (v.bcGroup t isB idx m.f rel))
    else (v.feedFrom t t isB idx m rel [t]).pump t) := by
  unfold State.feed
  dsimp only
  rw [hnext]
  exact if_neg (by rw [hroom, hlive]; decide)

theorem feed_own (hbc : feedBc isB m.f = false) (hsp : m.f.splice = false ∨ isB = true) :
    v.feed t isB idx = (v.feedFrom t t isB idx m rel [t]).pump t := by
  rw [feed_runs hnext hroom hlive, if_neg (by obtain h | h := hsp <;> simp [h]), if_neg (by rw [hbc]; decide)]

theorem feed_splice (hb : isB = false) (hsp : m.f.splice = true)
    (hold : ∀ b ∈ (v.tile t).arr.blocks, b.dest = true → b.panel = (splicePlace m.f rel idx).1 → m.blk ≤ b.n) :
    v.feed t isB idx = (v.putSlice t false idx
      ⟨sub ((v.tile t).arr.splice.getD (splicePlace m.f rel idx).1 []) (splicePlace m.f rel idx).2 32, []⟩).freePanels t := by
  rw [feed_runs hnext hroom hlive, if_pos (by rw [hb, hsp]; rfl), hb]
  refine if_neg fun h => ?_
  obtain ⟨b, hmem, hb⟩ := List.any_eq_true.1 h
  simp only [Bool.and_eq_true, beq_iff_eq, decide_eq_true_eq] at hb
  exact Nat.not_lt.2 (hold b hmem hb.1.1 hb.1.2) hb.2

theorem feed_broadcast (hbc : feedBc isB m.f = true) (hsrc : (v.bcGroup t isB idx m.f rel).contains (t / 4 * 4 + m.f.bcSrc) = true)
    (hfirst : rel = 0 → v.bcClash t isB idx m.f = false ∧ v.bcReady t isB idx m.f = true)
    (hall : ∀ u ∈ v.bcGroup t isB idx m.f rel, (v.tile u).arr.linkRoom isB idx = true ∧ v.live u = true) :
    v.feed t isB idx = (v.bcGroup t isB idx m.f rel).foldl (fun s u => s.pump u)
      (v.feedFrom t (t / 4 * 4 + m.f.bcSrc) isB idx m rel (v.bcGroup t isB idx m.f rel)) := by
  rw [feed_runs hnext hroom hlive, if_neg (notSplice_of_bc hbc), if_pos hbc, if_neg, if_neg]
  · have hany : ((v.bcGroup t isB idx m.f rel).any fun u => !(v.tile u).arr.linkRoom isB idx || !v.live u) = false :=
      List.any_eq_false.2 fun u hu => by simp [hall u hu]
    have hready : (decide (rel = 0) && !v.bcReady t isB idx m.f) = false := by
      by_cases h : rel = 0
      · simp [(hfirst h).2]
      · simp [h]
    rw [hsrc, hready, hany]
    decide
  · by_cases h : rel = 0
    · simp [(hfirst h).1]
    · simp [h]

theorem feed_clash (hbc : feedBc isB m.f = true) (hrel : rel = 0) (hclash : v.bcClash t isB idx m.f = true) :
    v.feed t isB idx = v.fault t m.info true 1 0x08 (feedBase isB m.f * 64) := by
  rw [feed_runs hnext hroom hlive, if_neg (notSplice_of_bc hbc), if_pos hbc, if_pos (by rw [hclash, hrel]; rfl)]

end

theorem feederDeliver_runs {s : State} {t idx : Nat} {isB : Bool} {upset : Option Nat} (ht : t < 384) (hi : idx < 16) :
    execFeederDeliver t isB idx upset s = .next ((upsetIn s t upset).feed t isB idx) :=
  if_pos (by simp [ht, hi])

/-! DPUs. -/

section
variable {s : State} {t i j : Nat} {m : MmaRec} {upset : Option DpuUpset} (ht : t < 384) (hi : i < 16) (hj : j < 16)
    (hlive : s.live t = true)
  (hm : (s.tile t).arr.mmaAt ((s.tile t).arr.c.getD (16 * i + j) 0) = some m)
include ht hi hj hlive hm

theorem dpu_steps {a : Arr} {fl : Nat} (hstep : (s.tile t).arr.mayStep i j m = true) (hgo : (s.tile t).arr.dpuGo i j m upset = (a,
    fl, false))
    (hres : hasAny fl mfResidue = false) : execDpuAccumulate t i j upset s =
      .next (((s.modTile t fun x => { x with arr := a }).raiseMflags t m.info fl (16 * i + j)).pump t) := by
  refine (if_pos (by simp [ht, hi, hj])).trans (congrArg Host.Outcome.next ?_)
  dsimp only
  unfold State.dpu
  dsimp only
  rw [hm]
  refine (if_neg (by rw [hlive]; decide)).trans ((if_neg (by rw [hstep]; decide)).trans ?_)
  rw [hgo]
  dsimp only
  rw [hres, if_neg Bool.false_ne_true, if_neg Bool.false_ne_true, if_neg Bool.false_ne_true, Nat.or_zero]

theorem dpu_holds (hstep : (s.tile t).arr.mayStep i j m = false) : execDpuAccumulate t i j upset s =
    .next (s.modTile t fun x => { x with arr := x.arr.countHold i j m }) := by
  refine (if_pos (by simp [ht, hi, hj])).trans (congrArg Host.Outcome.next ?_)
  dsimp only
  unfold State.dpu
  dsimp only
  rw [hm]
  exact (if_neg (by rw [hlive]; decide)).trans ((if_pos (by rw [hstep]; rfl)).trans (modTile_congr rfl))

end

/-! A deferred scale set. -/

section
variable {s : State} {t set src : Nat} {i : Info} {rest : List ArrItem} (ht : t < 384) (hlive : s.live t = true)
  (hq : (s.tile t).arrQ = ⟨i, .mscl set src true⟩ :: rest)
include ht hq

theorem scaleSet_waits (hbusy : (s.tile t).arr.setBusy set = true) : execScaleSetLoad t s = .next s := by
  refine (if_pos (decide_eq_true ht)).trans (congrArg Host.Outcome.next ?_)
  dsimp only
  rw [hq]
  exact if_pos (by rw [hbusy]; rfl)

include hlive

theorem scaleSet_loads (hbusy : (s.tile t).arr.setBusy set = false) (hpar : s.sramBadIn t (src * 64) 256 = none) : execScaleSetLoad t s =
    .next (((s.modTile t fun x => ({ x with arrQ := rest }).release i.id).takeSet t i set src (s.sramRead t (src * 64) 256)).pump t) := by
  refine (if_pos (decide_eq_true ht)).trans (congrArg Host.Outcome.next ?_)
  dsimp only
  rw [hq]
  refine (if_neg (by rw [hbusy, hlive]; decide)).trans ?_
  unfold State.loadSet
  dsimp only
  rw [hpar]
  dsimp only
  have htake : (s.modTile t fun x => ({ x with arrQ := x.arrQ.drop 1 }).release i.id) =
      s.modTile t fun x => ({ x with arrQ := rest }).release i.id := modTile_congr (by rw [hq]; rfl)
  exact congrArg (fun v : State => (v.takeSet t i set src (s.sramRead t (src * 64) 256)).pump t) htake

end

theorem takeSet_image {s : State} {t set src : Nat} {i : Info} {bs : List Byte} (h : setOk bs = true) : s.takeSet t i set src bs =
    s.modTile t fun x => { x with arr := { x.arr with sets := x.arr.sets.set set (readSet bs) } } := if_pos h

theorem takeSet_breach {s : State} {t set src : Nat} {i : Info} {bs : List Byte} (h : setOk bs = false) :
    s.takeSet t i set src bs = s.fault t i true 1 0x0A (src * 64) := if_neg (by rw [h]; decide)

/-! Drains. -/

theorem drainCol_column {vals col : List Nat} {i j : Nat} (hi : i < 16) (hj : j < 16) : (drainCol vals col j).getD (16 * i + j) 0 =
    col.getD i 0 := by
  have hk : 16 * i + j < 256 := by omega
  have hmod : (16 * i + j) % 16 = j := by omega
  have hdiv : (16 * i + j) / 16 = i := by omega
  rw [drainCol, List.getD_eq_getElem?_getD, List.getElem?_map, List.getElem?_range hk, Option.map_some, Option.getD_some, if_pos hmod, hdiv]

section
variable {s : State} {t j n : Nat} {b : BlockRec} (ht : t < 384) (hlen : t < s.tiles.length) (hlive : s.live t = true) (hj : j < 16)
  (hn : n = (s.tile t).arr.drained.getD j 0) (hb : ((s.tile t).arr.blocks.find? fun x => x.n == n) = some b) (hclosed : b.closed = true)
  (hentry : (s.tile t).entryOk b = true) (hcol : ((s.tile t).arr.cCol j).any (fun c => c < (s.tile t).arr.blkStop n) = false)

/-- The block with its column j drained. -/
def drainedBlk (s : State) (t j n : Nat) (b : BlockRec) : BlockRec :=
  { b with alloc := true, vals := drainCol b.vals ((List.range 16).map fun i => (s.tile t).arr.outer ((s.tile t).arr.blkStop n) i j) j }

include hn hb hclosed hentry hcol hlive

theorem drain_column : s.drain t j = s.modTile t fun x => { x with
    arr := { x.arr with
      drained := x.arr.drained.set j (n + 1)
      blocks := x.arr.blocks.map fun o => if o.n = n then drainedBlk s t j n b else o } } := by
  unfold State.drain
  dsimp only
  rw [← hn, hb]
  exact if_neg (by rw [hclosed, hcol, hentry, hlive]; decide)

include ht hlen hj

theorem columnDrain_drains : ∃ u, execColumnDrain t j s = .next (u.pump t) ∧ (u.tile t).arr.drained = (s.tile t).arr.drained.set j (n + 1) ∧
    (∀ v, v ≠ t → u.tile v = s.tile v) ∧ sameMemory s u ∧
    ∃ b' ∈ (u.tile t).arr.blocks, b'.n = n ∧ b'.alloc = true ∧
      ∀ i, i < 16 → b'.vals.getD (16 * i + j) 0 = (s.tile t).arr.outer ((s.tile t).arr.blkStop n) i j := by
  have hname : b.n = n := by simpa using List.find?_some hb
  have hset := tile_modTile (s := s) (t := t) (fun x => { x with
    arr := { x.arr with
      drained := x.arr.drained.set j (n + 1)
      blocks := x.arr.blocks.map fun o => if o.n = n then drainedBlk s t j n b else o } }) hlen
  have hex : execColumnDrain t j s = .next ((s.drain t j).pump t) := if_pos (by simp [ht, hj])
  rw [drain_column hlive hn hb hclosed hentry hcol] at hex
  refine ⟨_, hex, congrArg (fun x : Tile => x.arr.drained) hset, fun v hv => tile_modTile_ne _ (Ne.symm hv),
    (bytes_modTile s t _).sameMemory, drainedBlk s t j n b, ?_, hname, rfl, fun i hi => ?_⟩
  · rw [congrArg (fun x : Tile => x.arr.blocks) hset]
    exact List.mem_map.2 ⟨b, List.mem_of_find?_eq_some hb, if_pos hname⟩
  · rw [drainedBlk, drainCol_column hi hj, List.getD_eq_getElem?_getD, List.getElem?_map, List.getElem?_range hi]
    rfl

end

/-! The ends of blocks, and entries. -/

section
variable {s : State} {t : Nat} (ht : t < 384) (hlive : s.live t = true)
include ht hlive

theorem queueHandoff_enters {b : BlockRec} (hb : (s.tile t).arr.ready false = some b) : execQueueHandoff t s = .next (((s.modTile t fun x =>
    { x with arr := { x.arr.dropBlk b.n with
      queue := x.arr.queue ++ [⟨b.n, b.info, b.vals, true, none, false⟩] } }).sigToken t b.sig).pump t) := by
  refine (if_pos (decide_eq_true ht)).trans (congrArg Host.Outcome.next ?_)
  dsimp only
  rw [hb]
  exact if_neg (by rw [hlive]; decide)

theorem splicePanel_written {b : BlockRec} (hb : (s.tile t).arr.ready true = some b) : execSplicePanelWrite t s =
    .next ((((s.modTile t fun x =>
    { x with arr := { x.arr.dropBlk b.n with splice := x.arr.splice.set b.panel (splicePanel b.vals).1 } }).raiseFlags t b.info
      (splicePanel b.vals).2).sigToken t b.sig).pump t) := by
  refine (if_pos (decide_eq_true ht)).trans (congrArg Host.Outcome.next ?_)
  dsimp only
  rw [hb]
  exact if_neg (by rw [hlive]; decide)

theorem queueEntryFree_drops : execQueueEntryFree t s =
    .next ((s.modTile t fun x => { x with arr := { x.arr with queue := dropTaken x.arr.queue } }).pump t) :=
  (if_pos (decide_eq_true ht)).trans (congrArg Host.Outcome.next (if_neg (by rw [hlive]; decide)))

end

theorem dropTaken_first {e : QEntry} (he : e.done = true) (post : List QEntry) : ∀ pre : List QEntry, (∀ x ∈ pre, x.done = false) →
    dropTaken (pre ++ e :: post) = pre ++ post
  | [], _ => if_pos he
  | x :: pre, h => by
    rw [List.cons_append, dropTaken, if_neg (by rw [h x List.mem_cons_self]; decide),
      dropTaken_first he post pre fun y hy => h y (List.mem_cons_of_mem x hy), List.cons_append]

theorem dropTaken_none : ∀ l : List QEntry, (∀ x ∈ l, x.done = false) → dropTaken l = l
  | [], _ => rfl
  | x :: l, h => by
    rw [dropTaken, if_neg (by rw [h x List.mem_cons_self]; decide), dropTaken_none l fun y hy => h y (List.mem_cons_of_mem x hy)]

/-- Settles O7: each event's guards are decided by its conditions, and what is left is the state that the statement names. -/
theorem arrayEventsComplete : Obligations.ArrayEventsComplete := by
  unfold Obligations.ArrayEventsComplete
  intro s t ht hlen hlive
  refine ⟨fun v isB idx upset m rel hv hi hnext hroom => ?_, fun i j m upset hi hj hm =>
      ⟨fun hstep a fl hgo hres => dpu_steps ht hi hj hlive hm hstep hgo hres,
      dpu_holds ht hi hj hlive hm⟩, fun i set src rest hq => ⟨scaleSet_waits ht hq, fun hbusy hpar => ⟨fun hok => ?_, fun hok => ?_⟩⟩,
    fun j n b hj hn hb hclosed hentry hcol => columnDrain_drains ht hlen hlive hj hn hb hclosed hentry hcol,
    fun b => queueHandoff_enters ht hlive, fun b => splicePanel_written ht hlive, fun pre e post hq hpre he => ?_, fun hq => ?_⟩
  · have hex : exec (.feederDeliver t isB idx upset) s = .next (v.feed t isB idx) := hv ▸ feederDeliver_runs ht hi
    have hliv : v.live t = true := by rw [hv, live_upsetIn]; exact hlive
    refine ⟨fun hbc hsp => ⟨fun hgood => ?_, fun a hbad => ?_⟩, fun hb hsp hold => ?_, fun us hbc hus hsrc hfirst hall => ?_,
        fun hbc hrel hclash => ?_⟩
    · rw [hex, feed_own hnext hroom hliv hbc hsp]
      exact ⟨_, rfl, feedFrom_good hgood, (stores_eq_iff.1 ((stores_feedFrom ..).trans (hv ▸ stores_upsetIn s t upset))).sameMemory⟩
    · rw [hex, feed_own hnext hroom hliv hbc hsp, feedFrom_bad hnext hbad]
    · rw [hex, feed_splice hnext hroom hliv hb hsp hold]
    · subst hus
      rw [hex, feed_broadcast hnext hroom hliv hbc hsrc hfirst hall]
    · rw [hex, feed_clash hnext hroom hliv hbc hrel hclash]
  · refine (scaleSet_loads ht hlive hq hbusy hpar).trans ?_
    rw [takeSet_image hok, modTile_modTile]
    rfl
  · refine (scaleSet_loads ht hlive hq hbusy hpar).trans ?_
    rw [takeSet_breach hok]
  · refine (queueEntryFree_drops ht hlive).trans ?_
    have hdrop : (s.modTile t fun x => { x with arr := { x.arr with queue := dropTaken x.arr.queue } }) =
        s.modTile t fun x => { x with arr := { x.arr with queue := pre ++ post } } :=
      modTile_congr (by rw [hq, dropTaken_first he post pre hpre])
    exact congrArg (fun v : State => Host.Outcome.next (v.pump t)) hdrop
  · refine (queueEntryFree_drops ht hlive).trans ?_
    have hdrop : (s.modTile t fun x => { x with arr := { x.arr with queue := dropTaken x.arr.queue } }) = s :=
      modTile_id _ (by rw [dropTaken_none _ hq])
    exact congrArg (fun v : State => Host.Outcome.next (v.pump t)) hdrop

end Sys2Proof.Proofs.ArrayEvents
end

section
/-! PROOFS. Module reset, its release and the stages of the release wave (O56, first part). -/
namespace Sys2Proof.Proofs.ReleaseWave

open Sys2Proof Sys2Proof.Machine Sys2Proof.Laws Sys2Proof.Safety
open Sys2Proof.Proofs.Stores Sys2Proof.Proofs.Reports Sys2Proof.Proofs.Feeds Sys2Proof.Proofs.Passes Sys2Proof.Proofs.Ports

/-! RESET_N goes low. -/

theorem resetN_ignored {s : State} {n : Nat} (h : n < 100 ∨ s.power.standby = false ∨ (s.rst.low = true ∧ s.standby.cause ≠ 2)) :
    execResetNAssert n s = .next s :=
  congrArg Host.Outcome.next (if_pos (by
    simp only [Bool.or_eq_true, decide_eq_true_eq, Bool.not_eq_true', Bool.and_eq_true]
    tauto))

theorem resetN_taken {s : State} {n : Nat} (hn : 100 ≤ n) (hp : s.power.standby = true) (hl : s.rst.low = false ∨ s.standby.cause = 2) :
    execResetNAssert n s = .next (s.moduleReset 1) :=
  congrArg Host.Outcome.next (if_neg (by
    simp only [Bool.or_eq_true, decide_eq_true_eq, Bool.not_eq_true', Bool.and_eq_true, hp]
    obtain h | h := hl <;> simp [h, hn]))

theorem moduleReset_clears {s : State} (cause : Nat) (h : s.mram.pulse = none) : s.moduleReset cause = s.clearModule cause :=
  if_neg (by rw [h]; decide)

theorem moduleReset_held {s : State} (cause : Nat) (h : s.mram.pulse.isSome = true) :
    s.moduleReset cause = { s with mram := { s.mram with held := some (.module cause) } } := if_pos h

/-! RESET_N goes high. -/

theorem resetRelease_not {s : State} {l : List Nat}
    (h : s.rst.low = false ∨ s.power.standby = false ∨ s.mram.held.isSome = true ∨ s.coolEnough = false) : execResetNRelease l s =
        .next s :=
  congrArg Host.Outcome.next (if_pos (by
    simp only [Bool.or_eq_true, Bool.not_eq_true']
    tauto))

/-- What testing the phases keeps. -/
def Tested (s v : State) : Prop := v.rst = s.rst ∧ v.cap = s.cap ∧ v.power.bricks = s.power.bricks

theorem Tested.trans {s v w : State} (h : Tested s v) (k : Tested v w) : Tested s w :=
  ⟨k.1.trans h.1, k.2.1.trans h.2.1, k.2.2.trans h.2.2⟩

theorem tested_foldl {α : Type} {f : State → α → State} (h : ∀ s a, Tested s (f s a)) : ∀ (l : List α) (s : State), Tested s (l.foldl f s)
  | [], _ => ⟨rfl, rfl, rfl⟩
  | a :: l, s => (h s a).trans (tested_foldl h l (f s a))

theorem tested_reported {s v : State} (h : Reported s v) : Tested s v := by
  obtain ⟨_, _, _, _, _, _, _, _, _, rfl⟩ := h
  exact ⟨rfl, rfl, rfl⟩

theorem tested_fenceRegion (s : State) (r : Nat) : Tested s (s.fenceRegion r) := by
  cases h : (s.region r).fenced
  · have hopen : Tested s (regionFenced s r) := by
      unfold regionFenced
      dsimp only
      split
      · exact (tested_foldl (f := fun s k => s.modRegion k _) (fun _ _ => ⟨rfl, rfl, rfl⟩) (neighbours r) s).trans ⟨rfl, rfl, rfl⟩
      · exact ⟨rfl, rfl, rfl⟩
    exact hopen.trans (tested_reported (fenceRegion_open h))
  · rw [State.fenceRegion, if_pos h]
    exact ⟨rfl, rfl, rfl⟩

theorem retestPhases_keeps (s : State) (bad : List Nat) : (s.retestPhases bad).rst = s.rst ∧ (s.retestPhases bad).cap = s.cap ∧
    (s.retestPhases bad).power.bricks = 255 := by
  have h : Tested (s.modPower fun w => { w with bricks := 255, tripped := false }) (s.retestPhases bad) := by
    refine tested_foldl (fun v r => ?_) (List.range 32) _
    have hlog : ∀ (ks : List Nat) (w : State), Tested w (ks.foldl (fun s i => s.log 0x0006 0xFF [1, r, i]) w) := fun ks w =>
      tested_foldl (fun v i => tested_reported (reported_log v _ _ _)) ks w
    dsimp only
    split
    · exact ((show Tested v (v.modRegion r _) from ⟨rfl, rfl, rfl⟩).trans (hlog _ _)).trans (tested_fenceRegion _ _)
    · exact (show Tested v (v.modRegion r _) from ⟨rfl, rfl, rfl⟩).trans (hlog _ _)
  exact h

/-- What the log and the choice of a slot leave of a boot. -/
def Boots (s v : State) : Prop := (∃ c o m, v = { s with cap := c, obs := o, mram := m }) ∧ v.cap.bootCount = s.cap.bootCount ∧
    v.cap.run = s.cap.run

theorem Boots.trans {s v w : State} (h : Boots s v) (k : Boots v w) : Boots s w := by
  obtain ⟨⟨_, _, _, rfl⟩, h1, h2⟩ := h
  obtain ⟨⟨_, _, _, rfl⟩, k1, k2⟩ := k
  exact ⟨⟨_, _, _, rfl⟩, k1.trans h1, k2.trans h2⟩

theorem boots_log (s : State) (rtype part : Nat) (payload : List Nat) : Boots s (s.log rtype part payload) := by
  obtain ⟨o, m, h⟩ := Cleat.log_only s rtype part payload
  rw [h]
  exact ⟨⟨_, _, _, rfl⟩, rfl, rfl⟩

theorem boots_slot (s : State) (f : BootRec → BootRec) : Boots s (s.modCap fun c => { c with boot := f c.boot }) :=
    ⟨⟨_, _, _, rfl⟩, rfl, rfl⟩

/-- Garnet counts the boot, and ends in recovery or in a firmware check with CDI_1. -/
theorem garnet_boots (s : State) : ∃ c o m, s.garnet = { s with cap := c, obs := o, mram := m } ∧ c.bootCount = s.cap.bootCount + 1 ∧
    (c.run = .recovery ∨ c.run = .booting ∧ c.cdi1.isSome = true) := by
  unfold State.garnet
  dsimp only
  generalize hs1 : ({ (s.modCap fun c => { c with bootCount := c.bootCount + 1, run := .booting, keySeqs := c.mramSeqs }) with
    obs := { s.obs with set := (s.obs.set + 1) % 8, filled := 0 } } : State) = s1
  have h2 := boots_log s1 0x0001 0xFF [s1.rstCause]
  generalize s1.log 0x0001 0xFF [s1.rstCause] = s2 at h2 ⊢
  generalize hs3 : ite ((s.cap.boot.trial && decide (s.cap.boot.tries = 3)) = true) _ _ = s3
  have h3 : Boots s2 s3 := by
    rw [← hs3]
    split
    · exact (boots_slot s2 fun _ => ⟨1 - s.cap.boot.active, false, s.cap.boot.tries⟩).trans (boots_log ..)
    · exact ⟨⟨_, _, _, rfl⟩, rfl, rfl⟩
  generalize hs4 : ite (s3.cap.boot.trial = true) _ _ = s4
  have h4 : Boots s3 s4 := by
    rw [← hs4]
    split
    · exact boots_slot s3 fun b => { b with tries := b.tries + 1 }
    · exact ⟨⟨_, _, _, rfl⟩, rfl, rfl⟩
  obtain ⟨⟨c, o, m, hv⟩, hcount, hrun⟩ := (h2.trans h3).trans h4
  rw [hv] at hcount hrun
  have hcount' : c.bootCount = s.cap.bootCount + 1 := hcount.trans (congrArg (fun v : State => v.cap.bootCount) hs1).symm
  have hrun' : c.run = .booting := hrun.trans (congrArg (fun v : State => v.cap.run) hs1).symm
  split
  · rw [hv, ← hs1]
    exact ⟨_, _, _, rfl, hcount', .inl rfl⟩
  · rw [hv, ← hs1]
    exact ⟨_, _, _, rfl, hcount', .inr ⟨hrun', rfl⟩⟩

theorem resetRelease_runs {s : State} {l : List Nat} (hl : s.rst.low = true) (hp : s.power.standby = true) (hh : s.mram.held = none)
    (hc : s.coolEnough = true) : ∃ v w : State, execResetNRelease l s = .next { w with rst := { w.rst with row := 2 } } ∧ w = v.garnet ∧
      v.rst.low = false ∧ v.cap = s.cap ∧ v.power.bricks = 255 := by
  obtain ⟨hrst, hcap, hbricks⟩ := retestPhases_keeps { s with rst := { s.rst with low := false, row := 1 } } l
  have hno : ¬(!s.rst.low || !s.power.standby || s.mram.held.isSome || !s.coolEnough) = true := by rw [hl, hp, hh, hc]; decide
  exact ⟨_, _, congrArg Host.Outcome.next (if_neg hno), rfl, congrArg Rst.low hrst, hcap, hbricks⟩

theorem resetRelease_boots {s : State} {l : List Nat} (hl : s.rst.low = true) (hp : s.power.standby = true) (hh : s.mram.held = none)
    (hc : s.coolEnough = true) : ∃ u, execResetNRelease l s = .next u ∧ u.rst.low = false ∧ u.rst.row = 2 ∧
      u.cap.bootCount = s.cap.bootCount + 1 ∧ u.power.bricks = 255 ∧
      (u.cap.run = .recovery ∨ u.cap.run = .booting ∧ u.cap.cdi1.isSome = true) := by
  obtain ⟨v, w, hex, hw, hlow, hcap, hbricks⟩ := resetRelease_runs (l := l) hl hp hh hc
  obtain ⟨c, o, m, hg, hboot, hrun⟩ := garnet_boots v
  rw [hg] at hw
  rw [hcap] at hboot
  have hlow' : w.rst.low = false := by rw [hw]; exact hlow
  have hcap' : w.cap = c := by rw [hw]
  have hbricks' : w.power.bricks = 255 := by rw [hw]; exact hbricks
  refine ⟨_, hex, hlow', rfl, ?_, hbricks', ?_⟩
  · rw [← hboot, ← hcap']
  · rw [← hcap'] at hrun
    exact hrun

/-! The stages. -/

section
variable {s : State} {d : Nat} (hd : d < 4) (hlow : s.rst.low = false)

theorem all_settled {f g : Nat → Bool} (h : ∀ k, f k = (k == d || g k)) : [0, 1, 2, 3].all f = [0, 1, 2, 3].all fun k => k == d || g k :=
  congrArg (List.all [0, 1, 2, 3]) (funext h)

include hd

theorem stage_runs {row : Nat} (h4 : 4 ≤ row) (h8 : row ≤ 8) : execReleaseWaveStage row d s = .next (s.waveStage row d) :=
  if_pos (by simp [h4, h8, hd])

include hlow

theorem stage4 : execReleaseWaveStage 4 d s = .next (if s.canRamp then s.railsUp.rowDone 4 else s) :=
  (stage_runs hd (by decide) (by decide)).trans (congrArg Host.Outcome.next (if_neg (by rw [hlow]; decide)))

theorem stage5 (h : s.rst.row = 4) : execReleaseWaveStage 5 d s = .next (s.rowDone 5) :=
  (stage_runs hd (by decide) (by decide)).trans (congrArg Host.Outcome.next ((if_neg (by rw [hlow]; decide)).trans (if_pos h)))

theorem stage6 (h : s.rst.row = 5) (hs : s.dieSettled d = false) :
    execReleaseWaveStage 6 d s = .next (s.modDie d fun x => { x with released := 1 }).row6 := by
  have hrow : s.waveStage 6 d = if s.rst.row = 5 && !s.dieSettled d then (s.modDie d fun x => { x with released := 1 }).row6 else s := by
    rw [State.waveStage, hlow]
    rfl
  rw [stage_runs hd (by decide) (by decide), hrow, if_pos (by rw [h, hs]; rfl)]

/-- The acknowledgement of a die, and row 6 with the last one. -/
theorem stage6_acknowledges (h : s.rst.row = 5) (hs : s.dieSettled d = false) (hlen : d < s.dies.length) :
    ∃ u, execReleaseWaveStage 6 d s = .next u ∧ (u.die d).released = 1 ∧
      u.rst.row = if [0, 1, 2, 3].all (fun k => k == d || s.dieSettled k) then 6 else 5 := by
  have hset := die_modDie (s := s) (fun x => { x with released := 1 }) hlen
  have hall : [0, 1, 2, 3].all (s.modDie d fun x => { x with released := 1 }).dieSettled = [0, 1, 2, 3].all fun k =>
      k == d || s.dieSettled k := by
    refine all_settled fun k => ?_
    by_cases hk : k = d
    · rw [hk, State.dieSettled, hset]
      simp
    · have hne : (s.modDie d fun x => { x with released := 1 }).die k = s.die k := by
        simp [State.die, State.modDie, modAt, List.getD_eq_getElem?_getD, Ne.symm hk]
      rw [State.dieSettled, hne]
      simp [hk, State.dieSettled]
  refine ⟨_, stage6 hd hlow h hs, ?_, ?_⟩
  · unfold State.row6
    split
    · exact congrArg Die.released hset
    · exact congrArg Die.released hset
  · unfold State.row6
    rw [hall]
    split
    · rfl
    · exact h

theorem stage7 (h : s.rst.row = 6) (ha : (s.die (edgeDies d).1).released ≠ 0) (hb : (s.die (edgeDies d).2).released ≠ 0)
    (he : s.rst.edges.contains d = false) : ∃ u, execReleaseWaveStage 7 d s = .next u ∧ u.rst.edges = d :: s.rst.edges ∧
      u.rst.row = if [0, 1, 2, 3].all (fun k => k == d || s.edgeSettled k) then 7 else 6 := by
  have hall : [0, 1, 2, 3].all ({ s with rst := { s.rst with edges := d :: s.rst.edges } } : State).edgeSettled =
      [0, 1, 2, 3].all fun k => k == d || s.edgeSettled k := by
    refine all_settled fun k => ?_
    show ((s.die (edgeDies k).1).fenced || (s.die (edgeDies k).2).fenced || (d :: s.rst.edges).contains k) =
      (k == d || ((s.die (edgeDies k).1).fenced || (s.die (edgeDies k).2).fenced || s.rst.edges.contains k))
    rw [List.contains_cons]
    ac_rfl
  have hrow : s.waveStage 7 d = if (s.die (edgeDies d).1).released ≠ 0 && (s.die (edgeDies d).2).released ≠ 0 &&
      !s.rst.edges.contains d then
      (if s.rst.row = 6 then ({ s with rst := { s.rst with edges := d :: s.rst.edges } } : State).row7
        else { s with rst := { s.rst with edges := d :: s.rst.edges } })
    else if s.rst.row = 6 then s.row7 else s := by
    rw [State.waveStage, hlow]
    rfl
  have hex : execReleaseWaveStage 7 d s = .next ({ s with rst := { s.rst with edges := d :: s.rst.edges } } : State).row7 := by
    rw [stage_runs hd (by decide) (by decide), hrow, if_pos (by rw [he, decide_eq_true ha, decide_eq_true hb]; rfl), if_pos h]
  refine ⟨_, hex, ?_, ?_⟩
  · unfold State.row7
    split <;> rfl
  · unfold State.row7
    rw [hall]
    split
    · rfl
    · exact h

omit hd hlow in
theorem length_portMove {p : Nat} (f : Port → Port) : (s.portMove p f).fabric.ports.length = s.fabric.ports.length := by
  have hlog : ∀ (v : State) (a b : Nat) (l : List Nat), (v.log a b l).fabric = v.fabric := fun v a b l => by
    obtain ⟨o, m, hv⟩ := Cleat.log_only v a b l
    rw [hv]
  have hpost : ∀ (v : State) (a b c : Nat), (v.postAll a b c).fabric = v.fabric := fun v a b c => by
    obtain ⟨_, _, _, _, hv⟩ := TimeEvents.sampled_postAll v a b c
    rw [hv]
  have hset : ∀ (v : State) (g : Port → Port), (v.modPort p g).fabric.ports.length = v.fabric.ports.length := fun v g =>
      List.length_modify ..
  unfold State.portMove
  dsimp only
  split
  · exact hset s f
  split
  · rw [hpost, hlog, hset, hset]
  · rw [hlog, hset, hset]

/-- One port of row 8. -/
def trainDown (s : State) (p : Nat) : State :=
  if (s.port p).st = .down then s.portMove p fun x => { x with st := .training, since := s.now } else s

omit hd hlow in
theorem port_portMove_ne {p q : Nat} (f : Port → Port) (h : q ≠ p) : (s.portMove p f).port q = s.port q := by
  have hlog : ∀ (v : State) (a b : Nat) (l : List Nat), (v.log a b l).port q = v.port q := fun v a b l => by
    obtain ⟨o, m, hv⟩ := Cleat.log_only v a b l
    rw [hv]
    rfl
  have hpost : ∀ (v : State) (a b c : Nat), (v.postAll a b c).port q = v.port q := fun v a b c => by
    obtain ⟨_, _, _, _, hv⟩ := TimeEvents.sampled_postAll v a b c
    rw [hv]
    rfl
  unfold State.portMove
  dsimp only
  split
  · exact port_modPort_ne f h
  split
  · exact ((hpost _ _ _ _).trans (hlog _ _ _ _)).trans ((port_modPort_ne _ h).trans (port_modPort_ne f h))
  · exact (hlog _ _ _ _).trans ((port_modPort_ne _ h).trans (port_modPort_ne f h))

omit hd hlow in
theorem trainDown_foldl : ∀ (n : Nat), (∀ p, (p < n → p < s.fabric.ports.length → (s.port p).st = .down →
      (((List.range n).foldl trainDown s).port p).st = .training) ∧ (n ≤ p → ((List.range n).foldl trainDown s).port p = s.port p)) ∧
    ((List.range n).foldl trainDown s).fabric.ports.length = s.fabric.ports.length
  | 0 => ⟨fun _ => ⟨fun h => absurd h (Nat.not_lt_zero _), fun _ => rfl⟩, rfl⟩
  | n + 1 => by
    obtain ⟨hp, hlen⟩ := trainDown_foldl n
    rw [List.range_succ, List.foldl_append, List.foldl_cons, List.foldl_nil]
    have hn := (hp n).2 (Nat.le_refl n)
    generalize (List.range n).foldl trainDown s = v at hp hlen hn
    have hmove : ∀ f : Port → Port, n < v.fabric.ports.length → ∃ l, PortIs v n { f (v.port n) with lastChange := l } (v.portMove n f) :=
      fun f h => portIs_portMove f h
    have hne : ∀ p, p ≠ n → (trainDown v n).port p = v.port p := fun p h => by
      unfold trainDown
      split
      · exact port_portMove_ne _ h
      · rfl
    refine ⟨fun p => ⟨fun hlt hpl hdown => ?_, fun hge => (hne p (by omega)).trans ((hp p).2 (by omega))⟩, ?_⟩
    · by_cases heq : p = n
      · subst heq
        rw [trainDown, if_pos (by rw [hn]; exact hdown)]
        obtain ⟨l, hl⟩ := hmove (fun x => { x with st := .training, since := v.now }) (hlen ▸ hpl)
        exact congrArg Port.st hl.port
      · rw [hne p heq]
        exact (hp p).1 (by omega) hpl hdown
    · unfold trainDown
      split
      · exact (length_portMove _).trans hlen
      · exact hlen

omit hlow in
/-- Row 8 sets every port that is down to train. -/
theorem stage8 (hlow : s.rst.low = false) (h : s.rst.row = 7) : ∃ u, execReleaseWaveStage 8 d s = .next u ∧ u.rst.row = 8 ∧
    ∀ p, p < 16 → p < s.fabric.ports.length → (s.port p).st = .down → (u.port p).st = .training := by
  have hrow : s.waveStage 8 d = if s.rst.row = 7 then (List.range 16).foldl trainDown (s.rowDone 8) else s := by
    rw [State.waveStage, hlow]
    rfl
  have hex : execReleaseWaveStage 8 d s = .next ((List.range 16).foldl trainDown (s.rowDone 8)) := by
    rw [stage_runs hd (by decide) (by decide), hrow, if_pos h]
  have htested : Tested (s.rowDone 8) ((List.range 16).foldl trainDown (s.rowDone 8)) := by
    refine tested_foldl (fun v p => ?_) _ _
    unfold trainDown
    split
    · exact tested_reported (reported_portMove v p _)
    · exact ⟨rfl, rfl, rfl⟩
  exact ⟨_, hex, (congrArg Rst.row htested.1).trans rfl, fun p hp hlen hdown => ((trainDown_foldl 16).1 p).1 hp hlen hdown⟩

/-! A stage that fails to acknowledge. -/

omit hlow in
theorem stageTimeout_early (h : s.rst.row = 5) (hat : s.now < s.rst.rowAt + 10000000) : execReleaseStageTimeout d s = .next s :=
  (if_pos (decide_eq_true hd)).trans (congrArg Host.Outcome.next (if_pos (by simp [h, hat])))

omit hd hlow in
theorem noticed_trigger (s : State) (p : Option Nat) (tr : Trig) : Noticed s (s.trigger p tr) := by
  unfold State.trigger
  split
  · split <;> exact ⟨rfl, rfl, fun _ => ⟨rfl, rfl⟩⟩
  · exact .refl s

omit hd hlow in
theorem noticed_modTile (s : State) (t : Nat) (f : Tile → Tile) : Noticed s (s.modTile t f) := ⟨rfl, rfl, fun _ => ⟨rfl, rfl⟩⟩

omit hd hlow in
theorem noticed_fault (s : State) (t : Nat) (i : Info) (ok : Bool) (cls code detail : Nat) :
    Noticed s (s.fault t i ok cls code detail) := by
  have hpost := noticed_postFault s (dieOfTile t) t (s.recOf t i ok cls code detail) i.step
  have hveto := fun v : State => noticed_setVeto v (dieOfTile t) i.step Veto.error t i.layer i.op
  have htile := fun (v : State) (f : Tile → Tile) => noticed_modTile v t f
  unfold State.fault
  dsimp only
  refine hpost.trans ?_
  split
  · exact ((htile _ _).trans (hveto _)).trans (noticed_trigger _ _ _)
  split
  · split
    · exact (htile _ _).trans (hveto _)
    · split
      · exact htile _ _
      · exact hveto _
  split
  · exact (htile _ _).trans (hveto _)
  split
  · exact htile _ _
  split
  · exact noticed_trigger _ _ _
  split
  · split
    · split
      · exact (hveto _).trans (noticed_trigger _ _ _)
      · exact hveto _
    · exact hveto _
  · exact .refl _

omit hd hlow in
theorem noticed_foldl {α : Type} {f : State → α → State} (h : ∀ s a, Noticed s (f s a)) : ∀ (l : List α) (s : State),
    Noticed s (l.foldl f s)
  | [], s => .refl s
  | a :: l, s => (h s a).trans (noticed_foldl h l (f s a))

omit hd hlow in
theorem noticed_fenceRegion (s : State) (r : Nat) : Noticed s (s.fenceRegion r) := by
  unfold State.fenceRegion
  dsimp only
  split
  · exact .refl s
  · refine Noticed.trans ?_ (noticed_foldl (fun v k => ?_) (List.range 12) _)
    · split
      · exact (noticed_foldl (f := fun s k => s.modRegion k _) (fun _ _ => ⟨rfl, rfl, fun _ => ⟨rfl, rfl⟩⟩) (neighbours r) s).trans
          ⟨rfl, rfl, fun _ => ⟨rfl, rfl⟩⟩
      · exact ⟨rfl, rfl, fun _ => ⟨rfl, rfl⟩⟩
    · refine noticed_foldl (fun v j => ?_) (List.range 4) _
      split
      · exact noticed_fault v _ _ _ _ _ _
      · exact .refl v

omit hd hlow in
/-- Each stack of a die that there is gets lost. -/
theorem loseStacks_lost {i : Nat} : ∀ (l : List Nat) (s : State) (k : Nat), k ∈ l → 5 * i + k < s.stks.length →
    ((l.foldl (fun s k => s.loseStack (5 * i + k)) s).stk (5 * i + k)).lost = true
  | [], _, _, hk, _ => absurd hk List.not_mem_nil
  | j :: l, s, k, hk, hlen => by
    rw [List.foldl_cons]
    by_cases hj : j = k
    · subst hj
      exact foldl_loseStack_keeps l _ (stk_loseStack hlen)
    · exact loseStacks_lost l _ k ((List.mem_cons.1 hk).resolve_left (Ne.symm hj)) (by rw [loseStack_length]; exact hlen)

include hlow in
theorem stageTimeout_fences (h : s.rst.row = 5) (hs : s.dieSettled d = false) (hlen : d < s.dies.length)
    (hat : s.rst.rowAt + 10000000 ≤ s.now) : ∃ u, execReleaseStageTimeout d s = .next u ∧ (u.die d).fenced = true ∧
      ∀ k, k < 5 → 5 * d + k < s.stks.length → (u.stk (5 * d + k)).lost = true := by
  have htime : s.stageTimeout d = ((((List.range 5).foldl (fun s k => s.loseStack (5 * d + k)) (s.fenceDie d)).modDie d fun x =>
      { x with fenced := true }).logInvalid 6 d).row6 := if_neg (by simp [hlow, h, hs, hat])
  have hex : execReleaseStageTimeout d s = .next (s.stageTimeout d) := if_pos (decide_eq_true hd)
  rw [htime] at hex
  have hfence : Noticed s (s.fenceDie d) := noticed_foldl (fun v k => noticed_fenceRegion v _) (List.range 8) s
  have hstk : (s.fenceDie d).stks = s.stks := (fences_fenceDie s d).stks
  have hlost := fun k (hk : k < 5) (h5 : 5 * d + k < s.stks.length) =>
    loseStacks_lost (i := d) (List.range 5) (s.fenceDie d) k (List.mem_range.2 hk) (by rw [hstk]; exact h5)
  obtain ⟨x, hx⟩ := foldl_loseStack_others (i := d) (List.range 5) (s.fenceDie d)
  generalize (List.range 5).foldl (fun s k => s.loseStack (5 * d + k)) (s.fenceDie d) = v at hex hlost hx
  have hdies : v.dies = (s.fenceDie d).dies := by rw [hx]
  have hset := die_modDie (s := v) (fun x => { x with fenced := true }) (by rw [hdies, hfence.2.1]; exact hlen)
  have hrow : ∀ v : State, v.row6.dies = v.dies ∧ v.row6.stks = v.stks := fun v => by
    unfold State.row6
    split <;> exact ⟨rfl, rfl⟩
  have hkeep : ∀ v : State, (v.logInvalid 6 d).row6.dies = v.dies ∧ (v.logInvalid 6 d).row6.stks = v.stks := fun v => by
    obtain ⟨o, m, f, hl⟩ := Sensors.logInvalid_only v 6 d
    rw [(hrow _).1, (hrow _).2, hl]
    exact ⟨rfl, rfl⟩
  refine ⟨_, hex, ?_, fun k hk h5 => ?_⟩
  · rw [State.die, (hkeep _).1]
    exact congrArg Die.fenced hset
  · rw [State.stk, (hkeep _).2]
    exact hlost k hk h5

end

/-! The loader check. -/

section
variable {s : State} (hrun : s.cap.run = .booting) (hrow : 8 ≤ s.rst.row) (htrain : (s.stks.any fun k => k.training && !k.lost) = false)
  {cdi : Nat} (hcdi : s.cap.cdi1 = some cdi)
include hrun hrow htrain hcdi

theorem loaderCheck_valid {l : Comp} (h : s.loader s.cap.slot s.cap.revEcdsa s.cap.revLms = some l) : exec .loaderCheck s =
    .next ((s.carveWrite l.loadAddr (l.payload.take (s.cap.carve * 2 ^ 30 - l.loadAddr))).modCap fun c => { c with
      run := .running, measLoader := l.digest, cdi2 := some (Config.hmac384 cdi l.digest), coresReleased := true }) := by
  refine congrArg Host.Outcome.next ?_
  unfold doLoader
  rw [if_neg (by rw [hrun, htrain]; simp [hrow]), hcdi]
  dsimp only
  rw [h]
  dsimp only
  rw [State.copyLoader]

theorem loaderCheck_invalid (h : s.loader s.cap.slot s.cap.revEcdsa s.cap.revLms = none) : exec .loaderCheck s =
    .next (s.modCap fun c => { c with run := .running, coresReleased := false }) := by
  refine congrArg Host.Outcome.next ?_
  unfold doLoader
  rw [if_neg (by rw [hrun, htrain]; simp [hrow]), hcdi]
  dsimp only
  rw [h]

end

end Sys2Proof.Proofs.ReleaseWave
end

section
/-! PROOFS. The commands of the reset family, and the end of a block reset (O56). -/
namespace Sys2Proof.Proofs.ResetCommands

open Sys2Proof Sys2Proof.Machine Sys2Proof.Laws Sys2Proof.Safety
open Sys2Proof.Proofs.Stores Sys2Proof.Proofs.Reports Sys2Proof.Proofs.Messages Sys2Proof.Proofs.Answers Sys2Proof.Proofs.MemoryCommands
open Sys2Proof.Proofs.ProgramCommands Sys2Proof.Proofs.ReleaseWave Sys2Proof.Proofs.HomeFrame Sys2Proof.Proofs.RemoteFlags
open Sys2Proof.Proofs.SamplesDumps

/-! Cells that are not listed. -/

theorem cellGet_unlisted {a : Nat} : ∀ l : List Host.Cell, (∀ c ∈ l, c.1 ≠ a) → cellGet l a = 0
  | [], _ => rfl
  | (k, v) :: l, h => by
    rw [cellGet]
    split
    · rfl
    · rw [if_neg (Ne.symm (h (k, v) List.mem_cons_self)), cellGet_unlisted l fun c hc => h c (List.mem_cons_of_mem _ hc)]

/-- No byte of a tile's SRAM is listed. -/
def Blank (s : State) (t : Nat) : Prop := ∀ c ∈ s.sram, c.1 < t * 2 ^ 21 ∨ (t + 1) * 2 ^ 21 ≤ c.1

theorem blank_sramZero (s : State) (t : Nat) : Blank (s.sramZero t) t := fun c hc => by
  have := (List.mem_filter.1 hc).2
  simpa using this

theorem Blank.zeroed {s : State} {t : Nat} (h : Blank s t) (u : Nat) : Blank (s.sramZero u) t := fun c hc => h c (List.mem_filter.1 hc).1

theorem Blank.reads {s : State} {t a : Nat} (h : Blank s t) (ha : a < 2 ^ 21) : s.sramRead t a 1 = [0] := by
  have hkey : sramKey t a = t * 2 ^ 21 + a := by unfold sramKey; omega
  simp only [State.sramRead, cellsRead, hkey]
  rw [cellGet_unlisted _ fun c hc heq => by
    have := h c hc
    omega]

theorem Blank.of_sram {s v : State} {t : Nat} (h : Blank s t) (hv : v.sram = s.sram) : Blank v t := fun c hc => h c (hv ▸ hc)

/-! RST_CAPSTAN. -/

/-- Completing a message opens no session. -/
theorem done_noSessions {c : Call} {x : CmdInfo} {a : Answer} {n : Nat} (h : a.s.cap.sessions = List.replicate n none) :
    (done c x a).cap.sessions = List.replicate n none := by
  have hnone : ∀ (k : Nat) (f : Session → Session), modAt (List.replicate n (none : Option Session)) k (fun o => o.map f) =
      List.replicate n none :=
    fun k f => modAt_id _ _ _ fun x hx => by
      rw [List.getElem?_replicate] at hx
      split at hx
      · rw [← Option.some.inj hx]
        rfl
      · cases hx
  unfold done State.reply State.complete State.putTxn
  cases c.src with
  | mbx m => dsimp only; split <;> exact h
  | session k =>
    show modAt (modAt a.s.cap.sessions k _) k _ = _
    rw [h]
    exact (congrArg (fun l => modAt l k _) (hnone k _)).trans (hnone k _)
  | fabric node => exact h

theorem rstCapstan_restarts {s : State} {c : Call} (ht : Taken s (.rstCapstan c) c) : ∃ u, exec (.rstCapstan c) s = .next u ∧
    u.cap.run = .restarting ∧ u.cap.restarts = inc16 s.cap.restarts ∧ u.cap.sessions = List.replicate 8 none ∧
    ∀ n, c.src = .mbx n → answered u c stOk 0 [] := by
  obtain ⟨hacc, hex⟩ := taken_runs (body := fun s => s.capRestart.ok) (fun _ => rfl) rfl ht
  have hheld := held_base hacc
  obtain ⟨o, ho, -⟩ := opened_base s c
  have hrest : (base s c).cap.restarts = s.cap.restarts := by rw [ho]
  generalize base s c = b at hex hheld hrest
  have hans : ∀ n, c.src = .mbx n → answered (done c (cmdC 0x0803 .owner) b.capRestart.ok) c stOk 0 [] := fun n hn => by
    refine answered_done (a := b.capRestart.ok) ?_
    rw [hn] at hheld ⊢
    exact hheld
  obtain ⟨k, hk⟩ := closed_done c (cmdC 0x0803 .owner) b.capRestart.ok
  have hsess := done_noSessions (c := c) (x := cmdC 0x0803 .owner) (a := b.capRestart.ok) (n := 8) rfl
  refine ⟨_, hex, ?_, ?_, hsess, hans⟩
  · exact (congrArg (fun v : State => v.cap.run) hk).trans rfl
  · exact (congrArg (fun v : State => v.cap.restarts) hk).trans (congrArg inc16 hrest)

/-! RST_MODULE. -/

theorem rstModule_resets {s : State} {c : Call} (ht : Taken s (.rstModule c) c) : ∃ u, exec (.rstModule c) s = .next u ∧ u.rst = Rst.init ∧
    u.standby.cause = 2 ∧ u.standby.moduleResets = inc16 s.standby.moduleResets ∧ u.tiles = List.replicate 384 Tile.init ∧
    u.cap.mbx = List.replicate 64 Mailbox.init := by
  obtain ⟨hacc, hex⟩ := taken_runs (body := fun s => { (s.moduleReset 2).ok with later := true }) (fun _ => rfl) rfl ht
  obtain ⟨o, ho, -⟩ := opened_base s c
  obtain ⟨o', ho', -⟩ : Opened s (started s c) := opened_startMsg s c.src
  have hidle : (base s c).mram.pulse = none := by
    have hport := hacc.port
    rw [ho'] at hport
    have hnone : s.mram.pulse = none := by
      rw [State.mramIdle, Bool.and_eq_true] at hport
      exact Option.isNone_iff_eq_none.1 hport.1
    rw [ho]
    exact hnone
  have hstandby : (base s c).standby = s.standby := by rw [ho]
  have hex' : exec (.rstModule c) s = .next ((base s c).moduleReset 2) := hex
  rw [moduleReset_clears 2 hidle] at hex'
  refine ⟨_, hex', rfl, rfl, ?_, rfl, rfl⟩
  show inc16 (base s c).standby.moduleResets = _
  rw [hstandby]

/-! RST_PARTITION. -/

/-- What the end of a dump and of a waiting bind, and the requests dropped, leave. -/
def Dropped (s v : State) : Prop := (∃ obs mram mbx sessions replies hbm irqs fabric dies reqs fly, v = { s with
    obs := obs, mram := mram, cap := { s.cap with mbx := mbx, sessions := sessions, fabReplies := replies }, hbm := hbm, irqs := irqs
    fabric := fabric, dies := dies, tileReqs := reqs, fly := fly }) ∧ v.cap.mbx.length = s.cap.mbx.length ∧
  v.cap.sessions.map Option.isSome = s.cap.sessions.map Option.isSome

theorem Dropped.refl (s : State) : Dropped s s := ⟨⟨_, _, _, _, _, _, _, _, _, _, _, rfl⟩, rfl, rfl⟩

theorem Dropped.trans {s v w : State} (h : Dropped s v) (k : Dropped v w) : Dropped s w := by
  obtain ⟨⟨_, _, _, _, _, _, _, _, _, _, _, rfl⟩, h1, h2⟩ := h
  obtain ⟨⟨_, _, _, _, _, _, _, _, _, _, _, rfl⟩, k1, k2⟩ := k
  exact ⟨⟨_, _, _, _, _, _, _, _, _, _, _, rfl⟩, k1.trans h1, k2.trans h2⟩

theorem dropped_endDump (s : State) (p : Nat) : Dropped s (s.endDump p) := by
  have hsum : ∀ h, Dropped s (s.dumpSummary p h) := fun h => by
    obtain ⟨o, m, hv⟩ := dumpSummary_only s p h
    rw [hv]
    exact ⟨⟨_, _, _, _, _, _, _, _, _, _, _, rfl⟩, rfl, rfl⟩
  unfold State.endDump
  split
  · exact .refl s
  · split
    · exact hsum _
    · exact hsum _
    · exact .refl s
    · exact .refl s

theorem dropped_complete (s : State) (src : Src) (r : Reply) : Dropped s (s.complete src r) := by
  unfold State.complete
  cases src with
  | mbx n =>
    have hset : Dropped s ((s.carveWrite (s.mbxBuf n) (r.bytes.take 4096)).modMbx n fun m =>
        { m with reply := some r, status := r.status, seqDone := m.seq, valid := true, owner := false, done := true }) :=
      ⟨⟨_, _, _, _, _, _, _, _, _, _, _, rfl⟩, length_modMbx _ _ _, rfl⟩
    dsimp only
    split
    · exact hset.trans ⟨⟨_, _, _, _, _, _, _, _, _, _, _, rfl⟩, rfl, rfl⟩
    · exact hset
  | session k => exact ⟨⟨_, _, _, _, _, _, _, _, _, _, _, rfl⟩, rfl, map_modAt_keeps (g := Option.isSome) (fun x => by cases x <;> rfl) _ _⟩
  | fabric node => exact ⟨⟨_, _, _, _, _, _, _, _, _, _, _, rfl⟩, rfl, rfl⟩

theorem dropped_dropBind (s : State) (p : Nat) : Dropped s (s.dropBind p) := by
  unfold State.dropBind
  split
  · exact dropped_complete s _ _
  · exact .refl s

theorem dropped_before (s : State) (p : Nat) : Dropped s (((s.endDump p).dropBind p).dropRequests p) :=
  ((dropped_endDump s p).trans (dropped_dropBind _ p)).trans ⟨⟨_, _, _, _, _, _, _, _, _, _, _, rfl⟩, rfl, rfl⟩

/-- A tile cleared, with its SRAM. -/
def clearTile (s : State) (t : Nat) : State := (s.modTile t Tile.cleared).sramZero t

theorem clearTile_clears (s : State) (t : Nat) : ((clearTile s t).tile t).slots = Tile.init.slots := by
  by_cases h : t < s.tiles.length
  · exact (congrArg Tile.slots (tile_modTile (s := s) Tile.cleared h)).trans rfl
  · have hdef : (clearTile s t).tile t = Tile.init :=
      List.getD_eq_default _ _ (Nat.le_of_not_lt fun hlt => h (Nat.lt_of_lt_of_eq hlt (List.length_modify ..)))
    rw [hdef]

theorem clearTile_foldl : ∀ (l : List Nat) (s : State),
    (∃ tiles sram bad, l.foldl clearTile s = { s with tiles := tiles, sram := sram, sramBad := bad }) ∧
    ∀ t, (t ∈ l ∨ Blank s t ∧ (s.tile t).slots = Tile.init.slots) →
      Blank (l.foldl clearTile s) t ∧ ((l.foldl clearTile s).tile t).slots = Tile.init.slots
  | [], s => ⟨⟨_, _, _, rfl⟩, fun t h => h.elim (fun hm => absurd hm List.not_mem_nil) id⟩
  | u :: l, s => by
    obtain ⟨⟨tiles, sram, bad, hv⟩, hcleared⟩ := clearTile_foldl l (clearTile s u)
    refine ⟨⟨tiles, sram, bad, hv⟩, fun t ht => hcleared t ?_⟩
    by_cases htu : t = u
    · subst htu
      exact .inr ⟨blank_sramZero _ t, clearTile_clears s t⟩
    · obtain hm | ⟨hb, hs⟩ := ht
      · exact .inl ((List.mem_cons.1 hm).resolve_left htu)
      · exact .inr ⟨hb.zeroed u, (congrArg Tile.slots (tile_modTile_ne (s := s) Tile.cleared (Ne.symm htu))).trans hs⟩

/-- The partition's part of a reset, its tiles and dies being reset. -/
def partEnd (s : State) (p : Nat) : State :=
  let s3 := s.unmapDump p
  let s4 : State := { s3 with allocs := s3.allocs.filter fun al => !(al.part == p && al.fromImage) }
  let s5 := s4.modGeode p fun g => { g with frozen := false, phase := .none, trigs := [] }
  let s6 := s5.modPage (p + 1) ErrPage.clearRecs
  let s7 := s6.modPart p fun x => { x with bound := none, launched := false, binding := none }
  if s7.power.ballastPart = some p then s7.stopBallast else s7

theorem unmapDump_only (s : State) (p : Nat) : ∃ al g, s.unmapDump p = { s with allocs := al, geodes := g } ∧ g.length = s.geodes.length :=
  ⟨_, _, rfl, List.length_modify ..⟩

theorem stopBallast_only (s : State) (c : Prop) [Decidable c] : ∃ w, (if c then s.stopBallast else s) = { s with power := w } := by
  split
  · exact ⟨{ s.power with ballast := 0, ballastPart := none }, rfl⟩
  · exact ⟨s.power, rfl⟩

/-- What a partition's end changes beside its own record, its dump controller and its allocations. -/
theorem partEnd_only (s : State) (p : Nat) : ∃ (al : List Alloc) (g : List Geode) (errs : List ErrPage) (power : Power),
    partEnd s p = { s with
    allocs := al.filter fun al => !(al.part == p && al.fromImage)
    geodes := modAt g p fun g => { g with frozen := false, phase := .none, trigs := [] }
    parts := modAt s.parts p fun x => { x with bound := none, launched := false, binding := none }, errs := errs, power := power } ∧
    g.length = s.geodes.length := by
  obtain ⟨al, g, h, hg⟩ := unmapDump_only s p
  unfold partEnd
  extract_lets s3 s4 s5 s6 s7
  obtain ⟨w, hw⟩ := stopBallast_only s7 (s7.power.ballastPart = some p)
  refine ⟨al, g, modAt s.errs (p + 1) ErrPage.clearRecs, w, hw.trans ?_, hg⟩
  have h3 : s3 = { s with allocs := al, geodes := g } := h
  clear_value s3
  subst h3
  rfl

/-- What a partition reset leaves. -/
theorem partReset_resets {s : State} {p : Nat} (hp : p < s.parts.length) : ((s.partReset p).part p).bound = none ∧
    ((s.partReset p).part p).launched = false ∧ ((s.partReset p).part p).mask = (s.part p).mask ∧
    (p < s.geodes.length → ((s.partReset p).geode p).frozen = false) ∧
    (∀ al, al ∈ (s.partReset p).allocs → ¬(al.part = p ∧ al.fromImage = true)) ∧
    (∀ t, t ∈ s.tilesOf p → Blank (s.partReset p) t ∧ ((s.partReset p).tile t).slots = Tile.init.slots) ∧
    (s.partReset p).cap.mbx.length = s.cap.mbx.length ∧
    (s.partReset p).cap.sessions.map Option.isSome = s.cap.sessions.map Option.isSome := by
  have hdef : s.partReset p = partEnd (((((s.endDump p).dropBind p).dropRequests p).tilesOf p).foldl clearTile
      (((s.endDump p).dropBind p).dropRequests p) |>.diesOf p |>.foldl (fun s d => s.modDie d Die.partReset)
      ((((((s.endDump p).dropBind p).dropRequests p).tilesOf p).foldl clearTile (((s.endDump p).dropBind p).dropRequests p)))) p := rfl
  obtain ⟨hform, hmbx, hsess⟩ := dropped_before s p
  generalize ((s.endDump p).dropBind p).dropRequests p = s0 at hdef hform hmbx hsess
  have hparts : s0.parts = s.parts := by obtain ⟨_, _, _, _, _, _, _, _, _, _, _, h⟩ := hform; rw [h]
  have hgeodes : s0.geodes = s.geodes := by obtain ⟨_, _, _, _, _, _, _, _, _, _, _, h⟩ := hform; rw [h]
  have htiles : s0.tilesOf p = s.tilesOf p := by unfold State.tilesOf State.part; rw [hparts]
  obtain ⟨⟨tiles, sram, bad, h1⟩, hclear⟩ := clearTile_foldl (s0.tilesOf p) s0
  generalize (s0.tilesOf p).foldl clearTile s0 = s1 at hdef h1 hclear
  obtain ⟨dies, h2⟩ := modDie_foldl_only Die.partReset (s1.diesOf p) s1
  rw [h2] at hdef
  obtain ⟨al, g, errs, power, h3, hlen⟩ := partEnd_only { s1 with dies := dies } p
  rw [h3] at hdef
  have hcap : (s.partReset p).cap = s0.cap := by rw [hdef, h1]
  have hpart : (s.partReset p).part p = { s.part p with bound := none, launched := false, binding := none } := by
    rw [hdef, h1]
    refine (part_modPart (s := s0) (fun x => { x with bound := none, launched := false, binding := none }) (hparts ▸ hp)).trans ?_
    rw [State.part, hparts]
    rfl
  have hgeode : p < s.geodes.length → ((s.partReset p).geode p).frozen = false := fun hg => by
    rw [hdef]
    have hg' : p < g.length := by
      rw [hlen, h1]
      exact hgeodes.symm ▸ hg
    exact (congrArg Geode.frozen (geode_modGeode (s := { s with geodes := g })
      (fun g => { g with frozen := false, phase := .none, trigs := [] }) hg')).trans rfl
  refine ⟨congrArg Part.bound hpart, congrArg Part.launched hpart, (congrArg Part.mask hpart).trans rfl, hgeode, fun al hal hno =>
      ?_, fun t ht => ?_,
    (congrArg (fun c : Capstan => c.mbx.length) hcap).trans hmbx,
        (congrArg (fun c : Capstan => c.sessions.map Option.isSome) hcap).trans hsess⟩
  · rw [hdef] at hal
    have := (List.mem_filter.1 hal).2
    simp [hno.1, hno.2] at this
  · obtain ⟨hb, hs⟩ := hclear t (.inl (htiles ▸ ht))
    rw [hdef]
    exact ⟨hb, hs⟩

theorem rstPartition_resets {s : State} {c : Call} {p : Nat} (ht : Taken s (.rstPartition c) c) (hc : p = Call.part c)
    (hp : p < s.parts.length) :
    ∃ u, exec (.rstPartition c) s = .next u ∧ answered u c stOk 0 [] ∧ (u.part p).bound = none ∧ (u.part p).launched = false ∧
      (u.part p).mask = (s.part p).mask ∧ (p < s.geodes.length → (u.geode p).frozen = false) ∧
      (∀ al, al ∈ u.allocs → ¬(al.part = p ∧ al.fromImage = true)) ∧
      ∀ t a, t ∈ s.tilesOf p → a < 2 ^ 21 → u.sramRead t a 1 = [0] ∧ (u.tile t).slots = Tile.init.slots := by
  subst hc
  obtain ⟨o, ho, -⟩ := opened_base s c
  have hparts : (base s c).parts = s.parts := by rw [ho]
  have hgeodes : (base s c).geodes = s.geodes := by rw [ho]
  have hmask := congrArg Part.mask (part_congr hparts (Call.part c))
  have htiles : (base s c).tilesOf (Call.part c) = s.tilesOf (Call.part c) := by unfold State.tilesOf; rw [hmask]
  obtain ⟨hbound, hlaunch, hmask', hfrozen, hallocs, hclear, hmbx, hsess⟩ := partReset_resets (s := base s c) (hparts ▸ hp)
  obtain ⟨hex, hans⟩ := taken_done (body := fun s => (s.partReset (Call.part c)).ok) (fun _ => rfl) rfl ht rfl rfl
    (fun h => held_of_lists hmbx hsess h)
  obtain ⟨k, hk⟩ := closed_done c (cmdC 0x0801 .job) ((base s c).partReset (Call.part c)).ok
  rw [hk] at hex hans
  generalize (base s c).partReset (Call.part c) = v at hbound hlaunch hmask' hfrozen hallocs hclear hex hans
  rw [hgeodes] at hfrozen
  refine ⟨_, hex, hans, hbound, hlaunch, hmask'.trans hmask, hfrozen, hallocs, fun t a ht ha => ?_⟩
  obtain ⟨hb, hs⟩ := hclear t (htiles ▸ ht)
  exact ⟨(hb.of_sram (v := closed v k) rfl).reads ha, hs⟩

/-! RST_BLOCK. -/

/-- The body of RST_BLOCK. -/
def rstBlockBody (c : Call) (b : BlockKind) (idx us : Nat) (s : State) : Answer :=
  if blockCount b ≤ idx || 10000 < us then s.answer stRange
  else match s.rst.blk with
    | some r => if r.call.isNone || r.call = some c then { s.ok with later := true } else s.answer stBusy
    | none =>
      if !s.blockAllowed b idx then s.answer stBusy
      else { ({ s with rst := { s.rst with blk := some ⟨b, idx, s.now + 1000 * (if us = 0 then 50 else us), s.outstanding b idx,
          some c⟩ } } : State).ok
        with later := true }

theorem exec_rstBlock (c : Call) (b : BlockKind) (idx us : Nat) (s : State) : exec (.rstBlock c b idx us) s =
    .next (capstanRun (.rstBlock c b idx us) c (cmdC 0x0802 .owner) (rstBlockBody c b idx us) s) := by
  cases c <;> rfl

section
variable {s : State} {c : Call} {b : BlockKind} {i us : Nat} (ht : Taken s (.rstBlock c b i us) c)
include ht

theorem rstBlock_range (h : blockCount b ≤ i ∨ 10000 < us) : turnedAway s (.rstBlock c b i us) c stRange :=
  taken_refuses (exec_rstBlock c b i us) rfl ht fun o _ _ => if_pos (by simpa using h)

variable (hi : i < blockCount b) (hus : us ≤ 10000)
include hi hus

omit ht in
theorem rstBlockBody_inRange (v : State) : rstBlockBody c b i us v = (match v.rst.blk with
    | some r => if r.call.isNone || r.call = some c then { v.ok with later := true } else v.answer stBusy
    | none =>
      if !v.blockAllowed b i then v.answer stBusy
      else { ({ v with rst := { v.rst with blk := some ⟨b, i, v.now + 1000 * (if us = 0 then 50 else us), v.outstanding b i, some c⟩
          } } : State).ok
        with later := true }) :=
  if_neg (by simp; omega)

theorem rstBlock_other {r : BlkReset} (hr : s.rst.blk = some r) (h : r.call ≠ none) (hc : r.call ≠ some c) :
    turnedAway s (.rstBlock c b i us) c stBusy :=
  taken_refuses (exec_rstBlock c b i us) rfl ht fun o _ _ => by
    rw [rstBlockBody_inRange hi hus]
    dsimp only
    rw [hr]
    exact if_neg (by simp [h, hc])

theorem rstBlock_again {r : BlkReset} (hr : s.rst.blk = some r) (h : r.call = none ∨ r.call = some c) :
    ∃ u, exec (.rstBlock c b i us) s = .next u ∧ u.hasMsg c.src = true ∧ u.rst.blk = some r := by
  obtain ⟨hacc, hex⟩ := taken_runs (exec_rstBlock c b i us) rfl ht
  obtain ⟨o, ho, -⟩ := opened_base s c
  have hblk : (base s c).rst.blk = some r := by rw [ho]; exact hr
  have hbody : rstBlockBody c b i us (base s c) = { (base s c).ok with later := true } := by
    rw [rstBlockBody_inRange hi hus, hblk]
    exact if_pos (by obtain h | h := h <;> simp [h])
  rw [hbody] at hex
  exact ⟨_, hex, hasMsg_base hacc.msg, hblk⟩

theorem rstBlock_notAllowed (hr : s.rst.blk = none) (h : s.blockAllowed b i = false) : turnedAway s (.rstBlock c b i us) c stBusy :=
  taken_refuses (exec_rstBlock c b i us) rfl ht fun o _ _ => by
    have hall : (opened s o).blockAllowed b i = false := h
    rw [rstBlockBody_inRange hi hus]
    dsimp only
    rw [hr]
    exact if_pos (by rw [hall]; rfl)

theorem rstBlock_begins (hr : s.rst.blk = none) (h : s.blockAllowed b i = true) : ∃ u, exec (.rstBlock c b i us) s = .next u ∧
    u.hasMsg c.src = true ∧ u.rst.blk = some ⟨b, i, s.now + 1000 * (if us = 0 then 50 else us), (base s c).outstanding b i, some c⟩ := by
  obtain ⟨hacc, hex⟩ := taken_runs (exec_rstBlock c b i us) rfl ht
  obtain ⟨o, ho, -⟩ := opened_base s c
  have hblk : (base s c).rst.blk = none := by rw [ho]; exact hr
  have hall : (base s c).blockAllowed b i = true := by rw [ho]; exact h
  have hnow : (base s c).now = s.now := by rw [ho]; rfl
  have hmsg := hasMsg_base hacc.msg
  have hbody : rstBlockBody c b i us (base s c) = { ({ base s c with rst := { (base s c).rst with
      blk := some ⟨b, i, (base s c).now + 1000 * (if us = 0 then 50 else us), (base s c).outstanding b i, some c⟩ } } : State).ok
          with later := true } := by
    rw [rstBlockBody_inRange hi hus, hblk]
    exact if_neg (by rw [hall]; simp)
  rw [hbody, hnow] at hex
  exact ⟨_, hex, hasMsg_of_lists (v := base s c) rfl rfl rfl hmsg, rfl⟩

end

/-! The end of a block reset. -/

theorem cap_served {s v : State} (h : Served s v) : v.cap = s.cap := by
  obtain ⟨_, _, _, _, _, _, _, _, _, rfl⟩ := h
  rfl

theorem cap_reported {s v : State} (h : Reported s v) : v.cap = s.cap := by
  obtain ⟨_, _, _, _, _, _, _, _, _, rfl⟩ := h
  rfl

theorem cap_foldl {α : Type} {f : State → α → State} (h : ∀ s a, (f s a).cap = s.cap) : ∀ (l : List α) (s : State),
    (l.foldl f s).cap = s.cap
  | [], _ => rfl
  | a :: l, s => (cap_foldl h l (f s a)).trans (h s a)

theorem cap_abortOp (s : State) (w : Who) : (s.abortOp w).cap = s.cap := by
  have htell : ∀ (v : State) (fl : FlagLine), (v.tellFlag fl ptRefuse 0 rsTargetFault).cap = v.cap := fun v fl => by
    obtain ⟨f, h⟩ := tellFlag_only v fl ptRefuse 0 rsTargetFault
    rw [h]
  have hfill : ∀ (v : State) (d : Nat), (v.flagFill d).cap = v.cap := fun v d => by
    obtain ⟨f, ds, h⟩ := passed_flagFill v d
    rw [h]
  unfold State.abortOp
  exact (cap_served (served_answer _ _ _ _ _)).trans ((cap_foldl hfill _ _).trans ((cap_foldl htell _ _).trans rfl))

theorem cap_resetBlock (s : State) (k : BlockKind) (i : Nat) : (s.resetBlock k i).cap = s.cap := by
  unfold State.resetBlock
  cases k with
  | tile => exact cap_foldl (f := fun s o => s.modDie (dieOfTile i) _) (fun _ _ => rfl) _ s
  | reef => rfl
  | update => rfl
  | hbmCtrl =>
    show (s.afterRetrain i).cap = _
    unfold State.afterRetrain
    dsimp only
    split <;> rfl
  | fabricPort =>
    dsimp only
    split
    · rfl
    · exact cap_reported (reported_portMove s i _)
  | strata => rfl

/-- The veto of an update engine whose decision is still open. -/
def blockVeto (s : State) (b : BlkReset) : State :=
  match (s.die b.idx).upd.todo with
  | some (step, _) => if s.updOpen b then s.setVeto b.idx step Veto.error (0x0400 + b.idx) 0 0 else s
  | none => s

/-- The block's part of the end of its reset. -/
def blockCleared (s : State) (b : BlkReset) : State := ((s.leftOpen b).foldl State.abortOp (blockVeto s b)).resetBlock b.kind b.idx

/-- The result of a block reset. -/
def blockResult (s : State) (b : BlkReset) (idle : Bool) : Nat :=
  natOfBool idle + ((s.leftOpen b).length + natOfBool (s.updOpen b)) % 2 ^ 16 * 2 ^ 16

/-- The state before the command of a block reset is answered. -/
def blockEnd (s : State) (b : BlkReset) (idle : Bool) : State :=
  ({ blockCleared s b with rst := { (blockCleared s b).rst with blk := none } } : State).log 0x0011 0xFF [blockResult s b idle]

theorem endBlock_answered {s : State} {b : BlkReset} {c : Call} (idle : Bool) (h : b.call = some c) :
    s.endBlock b idle = done c (cmdC 0x0802 .owner) ⟨blockEnd s b idle, stOk, BitVec.ofNat 64 (blockResult s b idle), [], false⟩ := by
  unfold State.endBlock
  rw [h]
  rfl

theorem endBlock_silent {s : State} {b : BlkReset} (idle : Bool) (h : b.call = none) : s.endBlock b idle = blockEnd s b idle := by
  unfold State.endBlock
  rw [h]
  rfl

theorem cap_blockCleared (s : State) (b : BlkReset) : (blockCleared s b).cap = s.cap := by
  have hveto : (blockVeto s b).cap = s.cap := by
    unfold blockVeto
    split
    · split
      · exact cap_reported (reported_setVeto s _ _ _ _ _ _)
      · rfl
    · rfl
  exact (cap_resetBlock _ _ _).trans ((cap_foldl cap_abortOp _ _).trans hveto)

theorem blank_blockCleared {s : State} {b : BlkReset} (h : b.kind = .tile) : Blank (blockCleared s b) b.idx := by
  unfold blockCleared
  rw [h]
  exact blank_sramZero _ _

/-- What is left when a block's reset has ended, before its command is answered. -/
theorem blockEnd_leaves (s : State) (b : BlkReset) (idle : Bool) : (blockEnd s b idle).rst.blk = none ∧ (blockEnd s b idle).cap = s.cap ∧
    (b.kind = .tile → Blank (blockEnd s b idle) b.idx) := by
  have hcap := cap_blockCleared s b
  have hblank := blank_blockCleared (s := s) (b := b)
  unfold blockEnd
  generalize blockCleared s b = v at hcap hblank
  obtain ⟨o, m, hlog⟩ := Cleat.log_only { v with rst := { v.rst with blk := none } } 0x0011 0xFF [blockResult s b idle]
  rw [hlog]
  exact ⟨rfl, hcap, fun hk => (hblank hk).of_sram rfl⟩

theorem endBlock_ends {s : State} {b : BlkReset} {idle : Bool} {r : Nat} (hr : r = blockResult s b idle) :
    (s.endBlock b idle).rst.blk = none ∧
    (∀ c n, b.call = some c → c.src = .mbx n → n < s.cap.mbx.length → answered (s.endBlock b idle) c stOk (BitVec.ofNat 64 r) []) ∧
    (b.kind = .tile → b.idx < 384 → ∀ a, a < 2 ^ 21 → (s.endBlock b idle).sramRead b.idx a 1 = [0]) := by
  subst hr
  obtain ⟨hblk, hcap, hblank⟩ := blockEnd_leaves s b idle
  cases hcall : b.call with
  | none =>
    rw [endBlock_silent idle hcall]
    exact ⟨hblk, fun c n h => (nomatch h), fun hk _ a ha => (hblank hk).reads ha⟩
  | some c =>
    rw [endBlock_answered idle hcall]
    generalize blockEnd s b idle = v at hblk hcap hblank
    obtain ⟨k, hk⟩ := closed_done c (cmdC 0x0802 .owner) ⟨v, stOk, BitVec.ofNat 64 (blockResult s b idle), [], false⟩
    refine ⟨(congrArg (fun v : State => v.rst.blk) hk).trans hblk, fun c' n h hsrc hn => ?_, fun hkind _ a ha => ?_⟩
    · obtain rfl := Option.some.inj h
      refine answered_done (a := ⟨v, stOk, _, [], false⟩) ?_
      rw [hsrc]
      exact Nat.lt_of_lt_of_eq hn (congrArg (fun c : Capstan => c.mbx.length) hcap).symm
    · rw [hk]
      exact ((hblank hkind).of_sram (v := closed v k) rfl).reads ha

theorem blockReset_runs {s : State} {b : BlkReset} (h : s.rst.blk = some b) (timedOut : Bool) : execBlockResetIdle timedOut s =
    .next (if s.blockIdle b then s.endBlock b true else if timedOut && b.until_ ≤ s.now then s.endBlock b false else s) := by
  unfold execBlockResetIdle
  rw [h]

/-- A block that is not idle answers what is left. -/
theorem blockResult_open (s : State) (b : BlkReset) : blockResult s b false = ((s.leftOpen b).length + natOfBool (s.updOpen b)) % 2
    ^ 16 * 2 ^ 16 := by
  have h0 : natOfBool false = 0 := rfl
  rw [blockResult, h0, Nat.zero_add]

/-- An idle block leaves nothing open. -/
theorem blockIdle_result {s : State} {b : BlkReset} (h : s.blockIdle b = true) :
    1 = blockResult s b true := by
  unfold blockResult
  simp only [State.blockIdle, Bool.and_eq_true, Bool.not_eq_true', List.isEmpty_iff] at h
  rw [h.1.1, h.1.2]
  rfl

theorem sram_carveWrite (s : State) (o : Nat) (l : List Byte) : (s.carveWrite o l).sram = s.sram := rfl

/-- Settles O56: the stages are single branches; RST_PARTITION and RST_BLOCK go through the states that their messages leave, and a cleared
tile's SRAM lists no byte. -/
theorem resetsAndRelease : Obligations.ResetsAndRelease := by
  unfold Obligations.ResetsAndRelease
  refine ⟨fun s n => ⟨fun h => resetN_ignored (.inl h), fun h => resetN_ignored (.inr h), fun hn hp hl => ⟨fun hm => ?_, fun hm => ?_⟩⟩,
    fun s l => ⟨resetRelease_not, fun hl hp hh hc => ?_⟩, fun s d hd hlow => ⟨fun h => ?_, fun h => ?_, fun h => ?_,
        stageTimeout_early hd, fun h hs hlen =>
      ⟨stage6_acknowledges hd hlow h hs hlen, stageTimeout_fences hd hlow h hs hlen⟩, stage7 hd hlow, stage8 hd hlow⟩,
    fun s hrun hrow htrain cdi hcdi => ⟨fun l hl => ?_, fun hl => ?_⟩, fun s h => ?_, fun s h => ?_, fun s c => rstCapstan_restarts,
    fun s c => rstModule_resets, fun s c p => rstPartition_resets,
    fun s c b i us ht => ⟨rstBlock_range ht, fun r hi hus hr => ⟨rstBlock_other ht hi hus hr, rstBlock_again ht hi hus hr⟩, fun hi hus hr =>
      ⟨rstBlock_notAllowed ht hi hus hr, rstBlock_begins ht hi hus hr⟩⟩,
    fun s => ⟨fun h timedOut => ?_, fun b hb => ⟨fun hidle hat timedOut => ?_, fun timedOut r hr h => ?_⟩⟩⟩
  · have hex := (resetN_taken hn hp hl).trans (congrArg Host.Outcome.next (moduleReset_clears 1 hm))
    exact ⟨_, hex, rfl, rfl, rfl, rfl, rfl, rfl, rfl, rfl, rfl⟩
  · exact (resetN_taken hn hp hl).trans (congrArg Host.Outcome.next (moduleReset_held 1 hm))
  · obtain ⟨u, hex, h1, h2, h3, h4, h5⟩ := resetRelease_boots (l := l) hl hp hh hc
    exact ⟨u, hex, h1, h2, h3, h4, h5, commandsAnswer.2.2.1 (.resetNRelease l) s u rfl hex⟩
  · exact (stage4 hd hlow).trans (congrArg Host.Outcome.next (if_neg (by rw [h]; decide)))
  · exact ⟨_, (stage4 hd hlow).trans (congrArg Host.Outcome.next (if_pos h)), rfl, rfl, rfl, rfl⟩
  · exact ⟨_, stage5 hd hlow h, rfl, rfl, rfl⟩
  · have hex := loaderCheck_valid hrun hrow htrain hcdi hl
    exact ⟨_, hex, rfl, rfl, rfl, rfl, rfl, (modCap_sram ..).trans (sram_carveWrite ..)⟩
  · exact ⟨_, loaderCheck_invalid hrun hrow htrain hcdi hl, rfl, rfl, rfl⟩
  · refine congrArg Host.Outcome.next ?_
    obtain h | h := h <;> rw [h]
  · have hex : exec .capstanRestart s = .next s.capRestart := by
      refine congrArg Host.Outcome.next ?_
      obtain h | h := h <;> rw [h]
    exact ⟨_, hex, rfl, rfl, rfl, rfl, rfl, rfl, rfl, commandsAnswer.2.2.1 .capstanRestart s _ rfl hex⟩
  · refine congrArg Host.Outcome.next ?_
    rw [h]
  · refine (blockReset_runs hb timedOut).trans (congrArg Host.Outcome.next ((if_neg (by rw [hidle]; decide)).trans (if_neg ?_)))
    simp [hat]
  · refine ⟨_, blockReset_runs hb timedOut, ?_⟩
    cases hidle : s.blockIdle b with
    | true =>
      rw [hidle, if_pos rfl] at hr
      rw [if_pos rfl]
      exact endBlock_ends (hr.trans (blockIdle_result hidle))
    | false =>
      obtain ⟨ht, hat⟩ := h.resolve_left (by rw [hidle]; decide)
      rw [hidle, if_neg Bool.false_ne_true] at hr
      rw [if_neg Bool.false_ne_true, if_pos (by rw [ht, decide_eq_true hat]; rfl)]
      exact endBlock_ends (hr.trans (blockResult_open s b).symm)

end Sys2Proof.Proofs.ResetCommands
end

section
/-! PROOFS. What the engines of a partition leave alone when they go on: the stacks, the flash and the commands that wait for
the MRAM port. -/
namespace Sys2Proof.Proofs.EngineFrames

open Sys2Proof Sys2Proof.Machine Sys2Proof.Laws
open Sys2Proof.Proofs.HomeFrame (Served served_homeDo)
open Sys2Proof.Proofs.MemoryCommands (served_readLines served_plainRead)
open Sys2Proof.Proofs.Reports

/-- The parts of the state that no engine changes. -/
def steady (s : State) : List Stack × List Host.Cell × List Instr := (s.stks, s.flash, s.awaiting)

@[simp] theorem steady_mk (s : State) (pending lny regions power thermal tiles sram sramBad fly tileReqs hbm poison crcs dies fabric
    parts allocs cap standby errs obs mram geodes spineMons rst pins irqs coreAns coreWait coreRel coreLoads free) :
    steady ⟨pending, lny, regions, power, thermal, tiles, sram, sramBad, fly, tileReqs, hbm, poison, crcs, s.stks, dies, fabric,
      parts, allocs, cap, standby, errs, obs, s.flash, mram, s.awaiting, geodes, spineMons, rst, pins, irqs, coreAns, coreWait,
      coreRel, coreLoads, free⟩ = steady s := (rfl)

@[simp] theorem steady_ite (c : Prop) [Decidable c] (s v : State) :
    steady (if c then s else v) = if c then steady s else steady v := apply_ite steady c s v

@[simp] theorem steady_foldl {α : Type} {f : State → α → State} (h : ∀ s x, steady (f s x) = steady s) :
    ∀ (l : List α) (s : State), steady (l.foldl f s) = steady s
  | [], _ => rfl
  | x :: l, s => (steady_foldl h l (f s x)).trans (h s x)

@[simp] theorem steady_getD {o : Option State} {s : State} (h : ∀ v, o = some v → steady v = steady s) :
    steady (o.getD s) = steady s := by
  cases o with
  | none => rfl
  | some v => exact h v rfl

theorem steady_of_served {s v : State} (h : Served s v) : steady v = steady s := by
  obtain ⟨_, _, _, _, _, _, _, _, _, rfl⟩ := h
  rfl

theorem steady_of_reported {s v : State} (h : Reported s v) : steady v = steady s := by
  obtain ⟨_, _, _, _, _, _, _, _, _, rfl⟩ := h
  rfl

theorem steady_of_passed {s v : State} (h : RemoteFlags.Passed s v) : steady v = steady s := by
  obtain ⟨_, _, rfl⟩ := h
  rfl

@[simp] theorem steady_modTile (s : State) (t : Nat) (f : Tile → Tile) : steady (s.modTile t f) = steady s :=
  rfl

@[simp] theorem steady_freeReads (s : State) (t : Nat) : steady (s.freeReads t) = steady s := by
  simp [State.freeReads]

@[simp] theorem steady_modDie (s : State) (d : Nat) (f : Die → Die) : steady (s.modDie d f) = steady s :=
  rfl

@[simp] theorem steady_post (s : State) (p : Option Nat) (e src layer op detail : Nat) :
    steady (s.post p e src layer op detail) = steady s :=
  steady_of_reported (reported_post s p e src layer op detail)

@[simp] theorem steady_log (s : State) (rtype part : Nat) (payload : List Nat) : steady (s.log rtype part payload) = steady s :=
  steady_of_reported (reported_log s rtype part payload)

@[simp] theorem steady_postFault (s : State) (d source : Nat) (r : FaultRec) (step : Nat) :
    steady (s.postFault d source r step) = steady s :=
  steady_of_reported (reported_postFault s d source r step)

@[simp] theorem steady_modReef (s : State) (d : Nat) (f : Reef → Reef) : steady (s.modReef d f) = steady s :=
  rfl

@[simp] theorem steady_setVeto (s : State) (d step : Nat) (v : Veto) (source layer op : Nat) :
    steady (s.setVeto d step v source layer op) = steady s :=
  steady_of_reported (reported_setVeto s d step v source layer op)

@[simp] theorem steady_trigger (s : State) (p : Option Nat) (tr : Trig) : steady (s.trigger p tr) = steady s :=
  steady_of_reported (reported_trigger s p tr)

@[simp] theorem steady_fault (s : State) (t : Nat) (i : Info) (ipValid : Bool) (cls code detail : Nat) :
    steady (s.fault t i ipValid cls code detail) = steady s :=
  steady_of_reported (reported_fault s t i ipValid cls code detail)

@[simp] theorem steady_postParity (s : State) (t a reader layer op : Nat) :
    steady (s.postParity t a reader layer op) = steady s := by
  simp [State.postParity]

@[simp] theorem steady_takeSet (s : State) (t : Nat) (i : Info) (set src : Nat) (bs : List Byte) :
    steady (s.takeSet t i set src bs) = steady s := by
  simp [State.takeSet]

@[simp] theorem steady_loadSet (s : State) (t : Nat) (i : Info) (set src : Nat) : steady (s.loadSet t i set src) = steady s := by
  unfold State.loadSet
  split <;> simp

theorem steady_arrBegin (s : State) (t : Nat) : ∀ v, State.arrBegin s t = some v → steady v = steady s := by
  unfold State.arrBegin
  dsimp only
  (repeat' split) <;> simp

@[simp] theorem steady_charge (s : State) (d gear layer op kind n : Nat) : steady (s.charge d gear layer op kind n) = steady s := by
  simp [State.charge]

theorem steady_vxeBegin (s : State) (t : Nat) : ∀ v, State.vxeBegin s t = some v → steady v = steady s := by
  unfold State.vxeBegin
  dsimp only
  (repeat' split) <;> simp

@[simp] theorem steady_modGroup (s : State) (d g : Nat) (f : GroupSt → GroupSt) : steady (s.modGroup d g f) = steady s := by
  simp [State.modGroup]

@[simp] theorem steady_emit (s : State) (d source raw layer op strandId seqTag inst : Nat) :
    steady (s.emit d source raw layer op strandId seqTag inst) = steady s :=
  steady_of_reported (reported_emit s d source raw layer op strandId seqTag inst)

@[simp] theorem steady_modOp (s : State) (t id : Nat) (f : PorOp → PorOp) : steady (s.modOp t id f) = steady s := by
  simp [State.modOp]

@[simp] theorem steady_toHome (s : State) (d : Nat) (q : HomeReq) : steady (s.toHome d q) = steady s := by
  simp [State.toHome]

@[simp] theorem steady_reefFault (s : State) (d step : Nat) (why : Nat × Nat × Nat) :
    steady (s.reefFault d step why) = steady s := by
  simp [State.reefFault]

@[simp] theorem steady_modBucket (s : State) (d g b : Nat) (f : Bucket → Bucket) : steady (s.modBucket d g b f) = steady s := by
  simp [State.modBucket]

@[simp] theorem steady_drawFree (s : State) : steady s.drawFree.2 = steady s := rfl

@[simp] theorem steady_reefFlags (s : State) (d fl : Nat) : steady (s.reefFlags d fl) = steady s := by
  simp [State.reefFlags]

@[simp] theorem steady_addToken (s : State) (t k n : Nat) : steady (s.addToken t k n) = steady s := by
  simp [State.addToken]

@[simp] theorem steady_shardDone (s : State) (d : Nat) (x : GroupSt) (b : Bucket) (step : Nat) :
    steady (s.shardDone d x b step) = steady s := by
  simp [State.shardDone]

@[simp] theorem steady_sealBlock (s : State) (p b : Nat) : steady (s.sealBlock p b) = steady s := by
  unfold State.sealBlock
  split
  · rfl
  · split
    · rfl
    · exact steady_modDie _ _ _

@[simp] theorem steady_sealOut (s : State) (d p step : Nat) (x : GroupSt) (b : Bucket) (c : Nat) :
    steady (s.sealOut d p step x b c) = steady s := by
  simp [State.sealOut]

@[simp] theorem steady_modFab (s : State) (f : Fabric → Fabric) : steady (s.modFab f) = steady s :=
  rfl

@[simp] theorem steady_modPort (s : State) (p : Nat) (f : Port → Port) : steady (s.modPort p f) = steady s :=
  rfl

theorem steady_queuePkt {s v : State} {p : Packet} {inp at_ : Nat} (h : s.queuePkt p inp at_ = some v) : steady v = steady s := by
  unfold State.queuePkt at h
  split at h <;> cases h
  simp

@[simp] theorem steady_inject (s : State) (p : Packet) : steady (s.inject p) = steady s :=
  steady_of_reported (reported_inject s p)

@[simp] theorem steady_sendReef (s : State) (p : Nat) (x : GroupSt) (rank : Nat) (a5 : RHead) (payload : List Byte) :
    steady (s.sendReef p x rank a5 payload) = steady s := by
  simp [State.sendReef]

@[simp] theorem steady_sendResend (s : State) (p : Nat) (x : GroupSt) (step b sh c : Nat) :
    steady (s.sendResend p x step b sh c) = steady s := by
  simp [State.sendResend]

@[simp] theorem steady_raiseFlags (s : State) (t : Nat) (i : Info) (fl : Nat) : steady (s.raiseFlags t i fl) = steady s := by
  simp [State.raiseFlags]

theorem steady_reefCloseBegin (s : State) (t : Nat) (o : PorOp) (g : Nat) : ∀ v, State.reefCloseBegin s t o g
    = some v → steady v = steady s := by
  unfold State.reefCloseBegin
  dsimp only
  (repeat' split) <;> simp

@[simp] theorem steady_porStart (s : State) (t : Nat) (o : PorOp) : steady (s.porStart t o) = steady s := by
  unfold State.porStart
  dsimp only
  (repeat' split) <;> simp

theorem steady_sigBegin (s : State) (t : Nat) : ∀ v, State.sigBegin s t = some v → steady v = steady s := by
  unfold State.sigBegin
  dsimp only
  split <;> simp

@[simp] theorem steady_flagGrant (s : State) (d : Nat) : steady (s.flagGrant d) = steady s :=
  steady_of_passed (RemoteFlags.passed_flagGrant s d)

@[simp] theorem steady_flagFill (s : State) (d : Nat) : steady (s.flagFill d) = steady s := by
  simp [State.flagFill]

@[simp] theorem steady_credit (s : State) (t : Nat) (item give : Bool) : steady (s.credit t item give) = steady s := by
  simp [State.credit]

@[simp] theorem steady_finishOp (s : State) (t : Nat) (o : PorOp) : steady (s.finishOp t o) = steady s := by
  unfold State.finishOp
  dsimp only
  split <;> simp

@[simp] theorem steady_modUpd (s : State) (d : Nat) (f : Upd → Upd) : steady (s.modUpd d f) = steady s :=
  rfl

@[simp] theorem steady_coreFault (s : State) : steady (s.coreFault) = steady s := by
  simp [State.coreFault]

@[simp] theorem steady_coreData (s : State) (off : Nat) (ok : Bool) (data : List Byte) :
    steady (s.coreData off ok data) = steady s := by
  simp [State.coreData]

theorem steady_coreRemote {s v : State} {win : Window} {ofs : Nat} {op : CoreOp} (h : s.coreRemote win ofs op = some v) :
    steady v = steady s := by
  revert h
  unfold State.coreRemote
  dsimp only
  repeat' split
  all_goals rintro h
  all_goals cases h
  · simp
  · simp
  · simp
  · next h => simp [steady_queuePkt h]

@[simp] theorem steady_noteBad (s : State) (t inst : Nat) (write : Bool) (node : Nat) (why : Nat × Nat × Nat) :
    steady (s.noteBad t inst write node why) = steady s := by
  simp [State.noteBad]

@[simp] theorem steady_arriveFlag (s : State) (d : Nat) (fl : FlagLine) : steady (s.arriveFlag d fl) = steady s := by
  simp [State.arriveFlag]

@[simp] theorem steady_endReq (s : State) (t : Nat) (o : PorOp) (r : Nat) (fin : ReqEnd) :
    steady (s.endReq t o r fin) = steady s := by
  simp [State.endReq]

@[simp] theorem steady_fly_ (s : State) (t : Nat) (o : PorOp) (r : Nat) : steady (s.fly_ t o r) = steady s := by
  simp [State.fly_]

theorem steady_sendLocal {s v : State} {t p : Nat} {o : PorOp} {r : Nat}
    (h : s.sendLocal t p o r = .done v) : steady v = steady s := by
  revert h
  unfold State.sendLocal
  dsimp only
  (repeat' split) <;> rintro h <;> cases h <;> simp

theorem steady_sendRemote {s v : State} {t p n : Nat} {o : PorOp} {r : Nat} (h : s.sendRemote t p n o r = .done v) :
    steady v = steady s := by
  revert h
  unfold State.sendRemote
  dsimp only
  split
  · rintro ⟨⟩
  split
  · rintro ⟨⟩
    simp
  split
  · rintro ⟨⟩
  split
  · rintro ⟨⟩
  split
  · rintro ⟨⟩
    simp
  · next h =>
    rintro ⟨⟩
    simp [steady_queuePkt h]

/-- Sending a request leaves the steady alone: a word with bad parity is posted, and ends the operation later. -/
theorem steady_sendReq {s v : State} {t : Nat} {o : PorOp} (h : s.sendReq t o = .done v) : steady v = steady s := by
  have hsent : ∀ {w : State}, (match o.node with
      | none => s.sendLocal t ((s.partOfTile t).getD 0) o o.next
      | some n => s.sendRemote t ((s.partOfTile t).getD 0) n o o.next) = .done w → steady w = steady s := by
    intro w h
    split at h
    · exact steady_sendLocal h
    · exact steady_sendRemote h
  revert h
  unfold State.sendReq
  dsimp only
  generalize (if o.isItem = true then _ else _) = credits
  split
  · rintro ⟨⟩
  split
  · rintro ⟨⟩
  split
  · next w hout =>
    have hs := hsent hout
    split <;> rintro ⟨⟩ <;> simpa using hs
  · exact hsent

@[simp] theorem steady_porSend : ∀ (n : Nat) (s : State) (t : Nat), steady (State.porSend n s t) = steady s
  | 0, _, _ => rfl
  | n + 1, s, t => by
    unfold State.porSend
    split
    · simp
    · split
      · simp
      · simp
      · next h => exact (steady_porSend n _ t).trans (steady_sendReq h)

@[simp] theorem steady_homeDo (s : State) (al : Alloc) (q : HomeReq) : steady (s.homeDo al q).s = steady s :=
  steady_of_served (served_homeDo s al q)

@[simp] theorem steady_readLines (s : State) (p agent : Nat) (l : List Nat) : steady (s.readLines p agent l).s = steady s :=
  steady_of_served (served_readLines p agent l s)

@[simp] theorem steady_plainRead (s : State) (p agent off n : Nat) : steady (s.plainRead p agent off n).s = steady s :=
  steady_of_served (served_plainRead s p agent off n)

@[simp] theorem steady_verifyRead (s : State) (p agent b : Nat) (al : Alloc) (bytes : List Byte) :
    steady (s.verifyRead p agent b al bytes).1 = steady s := by
  unfold State.verifyRead
  dsimp only
  (repeat' split) <;> simp

@[simp] theorem steady_memRead (s : State) (p agent off n : Nat) : steady (s.memRead p agent off n).s = steady s := by
  refine List.foldlRecOn (motive := fun x : EngRead => steady x.s = steady s) _ _ (steady_plainRead s p agent off n)
    fun x hx b _ => ?_
  dsimp only
  split
  · exact hx
  · split
    · exact hx
    · exact (steady_verifyRead ..).trans hx

@[simp] theorem steady_memWrite (s : State) (p agent off : Nat) (data : List Byte) :
    steady (s.memWrite p agent off data).1 = steady s := by
  refine List.foldlRecOn (motive := fun x : State × Bool => steady x.1 = steady s) _ _ rfl fun x hx l _ => ?_
  dsimp only
  split
  · exact hx
  · exact (steady_homeDo ..).trans hx

@[simp] theorem steady_reefWrite (s : State) (d p step off : Nat) (data : List Byte) :
    steady (s.reefWrite d p step off data).1 = steady s := by
  simp [State.reefWrite]

@[simp] theorem steady_reefRead (s : State) (d p step off n : Nat) : steady (s.reefRead d p step off n).s = steady s := by
  unfold State.reefRead
  dsimp only
  split <;> simp

@[simp] theorem steady_localPart (s : State) (d p step : Nat) (b : Bucket) (at_ n : Nat) :
    steady (s.localPart d p step b at_ n).1.s = steady s := by
  unfold State.localPart
  dsimp only
  split <;> simp

@[simp] theorem steady_reefAdd (s : State) (d p step : Nat) (b : Bucket) (e : Nat) (vals : List Nat) :
    steady (s.reefAdd d p step b e vals) = steady s := by
  have hstage : steady (if b.taken = 0 then (s.reefWrite d p step b.stage (List.replicate (5 * b.elems) 0)).1 else s) = steady s := by
    simp
  unfold State.reefAdd
  dsimp only
  generalize (if b.taken = 0 then _ else s) = v at hstage ⊢
  split <;> simp [hstage]

@[simp] theorem steady_chunkRoot (s : State) (d p step : Nat) (x : GroupSt) (b : Bucket) (sh c tries : Nat) (sum : List Int) (cs : Nat) :
    steady (s.chunkRoot d p step x b sh c tries sum cs) = steady s := by
  unfold State.chunkRoot
  dsimp only
  (repeat' split) <;> simp

@[simp] theorem steady_chunkGo (s : State) (d p step g bkt sh c : Nat) : steady (s.chunkGo d p step g bkt sh c) = steady s := by
  unfold State.chunkGo
  split
  · next x b _ _ =>
    have ha := steady_localPart s d p step b (b.chunkAt x.n sh c).1 (b.chunkAt x.n sh c).2
    dsimp only
    generalize s.localPart d p step b (b.chunkAt x.n sh c).1 (b.chunkAt x.n sh c).2 = r at ha ⊢
    (repeat' split) <;> simp [ha]
  · rfl

@[simp] theorem steady_bucketGo (s : State) (d p step g bkt : Nat) : steady (s.bucketGo d p step g bkt) = steady s := by
  unfold State.bucketGo
  split <;> simp

@[simp] theorem steady_f32Out (s : State) (d p : Nat) (x : GroupSt) (b : Bucket) (step : Nat) (v : List Nat) :
    steady (s.f32Out d p x b step v) = steady s := by
  simp [State.f32Out]

@[simp] theorem steady_f32Go (s : State) (d p step g bkt : Nat) : steady (s.f32Go d p step g bkt) = steady s := by
  unfold State.f32Go
  split
  · next x b _ _ =>
    have ha := steady_reefRead s d p step b.stage (4 * b.elems)
    dsimp only
    generalize s.reefRead d p step b.stage (4 * b.elems) = a at ha ⊢
    simp [ha, apply_ite Prod.snd]
  · rfl

@[simp] theorem steady_handOff (s : State) (d p step : Nat) (b : Bucket) (e : Nat) (vals : List Nat) :
    steady (s.handOff d p step b e vals) = steady s := by
  simp [State.handOff]

theorem steady_reefPutBegin {s v : State} {t : Nat} {o : PorOp} {bkt g : Nat} (h : s.reefPutBegin t o bkt g = some v) :
    steady v = steady s := by
  revert h
  unfold State.reefPutBegin
  dsimp only
  (repeat' split) <;> rintro ⟨⟩ <;> simp

theorem steady_porBegin {s v : State} {t : Nat} (h : s.porBegin t = some v) : steady v = steady s := by
  revert h
  unfold State.porBegin
  dsimp only
  split
  · rintro ⟨⟩
  split
  · rintro ⟨⟩
  split
  · exact steady_reefPutBegin
  · exact steady_reefCloseBegin _ _ _ _ v
  all_goals
    split <;> rintro ⟨⟩
    simp

theorem steady_beginOne {s v : State} {t : Nat} (h : s.beginOne t = some v) : steady v = steady s := by
  revert h
  unfold State.beginOne
  split
  · next hb => rintro ⟨⟩; exact steady_arrBegin _ _ _ hb
  split
  · next hb => rintro ⟨⟩; exact steady_vxeBegin _ _ _ hb
  split
  · next hb => rintro ⟨⟩; exact steady_porBegin hb
  · exact steady_sigBegin _ _ _

@[simp] theorem steady_beginAll : ∀ (n : Nat) (s : State) (t : Nat), steady (State.beginAll n s t) = steady s
  | 0, _, _ => rfl
  | n + 1, s, t => by
    unfold State.beginAll
    split
    · next hb => exact (steady_beginAll n _ t).trans (steady_beginOne hb)
    · rfl

@[simp] theorem steady_pump (s : State) (t : Nat) : steady (s.pump t) = steady s := by
  simp [State.pump]

@[simp] theorem steady_pumpPart (s : State) (p : Nat) : steady (s.pumpPart p) = steady s := by
  simp [State.pumpPart]

@[simp] theorem steady_actOn (s : State) (d p : Nat) (r : Report) (g : Nat) : steady (s.actOn d p r g) = steady s := by
  unfold State.actOn
  split
  · rfl
  · dsimp only
    (repeat' split) <;> simp

@[simp] theorem steady_decide (s : State) (p g : Nat) (x : GroupSt) (r : Report) : steady (s.decide_ p g x r) = steady s := by
  simp [State.decide_]

@[simp] theorem steady_closesOver (s v : State) (ds : List Nat) (g : Nat) : steady (Safety.closesOver s v ds g) = steady v :=
  steady_foldl (fun s c => by split <;> simp) _ v

@[simp] theorem steady_reportGo (s : State) (p g : Nat) : steady (s.reportGo p g) = steady s := by
  unfold State.reportGo
  dsimp only
  split
  · rfl
  · split
    · rfl
    · split
      · rfl
      · refine (steady_ite _ _ _).trans (ite_eq_left_iff.mpr fun _ => (steady_ite _ _ _).trans ?_)
        rw [steady_decide, steady_sendReef, ite_self]
        exact (steady_closesOver s _ _ g).trans ((steady_foldl (fun s d => steady_modReef s d _) _ _).trans
          (steady_foldl (fun s d => steady_modGroup s d g _) _ s))

/-- What waits for a controller goes on without changing a stack, the flash or the waiting commands. -/
@[simp] theorem steady_wake (s : State) (p : Nat) : steady (s.wake p) = steady s := by
  have hbucket : ∀ (d : Nat) (s : State) (b : Bucket),
      steady (match ((s.reef d).group b.group).bind fun x => x.step with
        | some t => if b.kind = 0 then s.bucketGo d p t b.group b.bucket else s.f32Go d p t b.group b.bucket
        | none => s) = steady s := by
    intro d s b
    split <;> simp
  unfold State.wake
  exact (steady_pumpPart _ p).trans ((steady_foldl (fun s g => steady_reportGo s p g) _ _).trans
    (steady_foldl (fun s d => steady_foldl (hbucket d) _ s) _ s))

@[simp] theorem steady_scopeTests (l : List (Nat × Nat × Nat)) (s : State) :
    steady (l.foldl (fun s l => s.modDie l.1 fun x => scopeTest x (some l.2) .core 4 0) s) = steady s :=
  steady_foldl (fun s _ => steady_modDie s _ _) l s

theorem steady_coreFence {s v : State} {pred succ : Nat} (h : s.coreFence pred succ = some v) : steady v = steady s := by
  revert h
  unfold State.coreFence
  dsimp only
  split <;> rintro ⟨⟩
  refine (steady_mk ..).trans ?_
  split
  · exact (steady_mk ..).trans (steady_scopeTests _ s)
  · rfl

theorem steady_coreLocal {s v : State} {al : Option Alloc} {off : Nat} {op : CoreOp} (h : s.coreLocal al off op = some v) :
    steady v = steady s := by
  revert h
  unfold State.coreLocal
  split
  · dsimp only
    split <;> rintro ⟨⟩
    simp
  · rintro ⟨⟩
    simp

theorem steady_coreTry {s v : State} {w : CoreWin} {ofs : Nat} {op : CoreOp} (h : s.coreTry w ofs op = some v) :
    steady v = steady s := by
  revert h
  unfold State.coreTry
  (repeat' split)
  · exact steady_coreFence
  · exact steady_coreLocal
  · rintro ⟨⟩
    simp
  · exact steady_coreLocal
  · exact steady_coreRemote
  · rintro ⟨⟩
    rfl

/-- The waiting accesses of the cores go on without changing a stack, the flash or the waiting commands. -/
@[simp] theorem steady_coreGo (s : State) : steady s.coreGo = steady s := by
  refine steady_foldl (fun s _ => ?_) _ s
  split
  · rfl
  · split
    · next h => exact (steady_coreTry h).trans (steady_mk ..)
    · rfl


end Sys2Proof.Proofs.EngineFrames
end

section
/-! PROOFS. The management port, the SMBus, the plug loop, standby power, the MRAM pulse and the training of a stack. -/
namespace Sys2Proof.Proofs.PortsPins

open Sys2Proof Sys2Proof.Machine Sys2Proof.Laws Sys2Proof.Safety
open Sys2Proof.Proofs.EngineFrames
open Sys2Proof.Proofs.Stores (commandsAnswer)
open Sys2Proof.Proofs.SystemCommands (length_natLe)

/-! Management frames and sessions. -/

theorem mgtFrame_management {s : State} {f : Frame} (h : s.classify f = .management) : exec (.mgtFrame f) s = .next (s.datagram f) :=
  congrArg Host.Outcome.next (by rw [h])

theorem datagram_ignored {s : State} {f : Frame} (h : 4096 < f.length ∨ s.cap.run = .booting) : s.datagram f = s :=
  if_pos (by simpa using h)

theorem datagram_row {s : State} {f : Frame} (hl : f.length ≤ 4096) (hr : s.cap.run ≠ .booting) : s.datagram f =
    match s.sessionOf f.srcAddr f.srcPort with
    | some k => s.modSession k fun x => { x with last := s.now, handAt := some s.now }
    | none =>
      if !f.isHello then s.modCap fun c => { c with mgtRefused := some (f.srcAddr, f.srcPort, stVersion) }
      else match (List.range 8).find? fun k => (s.session k).isNone with
        | none => s.modCap fun c => { c with mgtRefused := some (f.srcAddr, f.srcPort, stBusy) }
        | some k => s.modCap fun c =>
          { c with sessions := c.sessions.set k (some ⟨f.srcAddr, f.srcPort, s.now, none, [], none, some s.now⟩) } :=
  if_neg (by simp [hr, Nat.not_lt.mpr hl])

theorem sessionOf_some {s : State} {addr port k : Nat} (h : s.sessionOf addr port = some k) :
    ∃ y, s.session k = some y ∧ y.addr = addr ∧ y.port = port := by
  have hk := List.find?_some h
  split at hk
  · next y hy => exact ⟨y, hy, by simpa using hk⟩
  · cases hk

theorem session_set {s : State} {k : Nat} (o : Option Session) (hk : k < s.cap.sessions.length) :
    (s.modCap fun c => { c with sessions := c.sessions.set k o }).session k = o := by
  simp [State.session, State.modCap, List.getD_eq_getElem?_getD, hk]

theorem session_set_ne {s : State} {k j : Nat} (o : Option Session) (h : j ≠ k) :
    (s.modCap fun c => { c with sessions := c.sessions.set k o }).session j = s.session j := by
  simp [State.session, State.modCap, List.getD_eq_getElem?_getD, List.getElem?_set_ne h.symm]

theorem session_listed {s : State} {k : Nat} {x : Session} (h : s.session k = some x) : k < s.cap.sessions.length := by
  by_contra hk
  rw [State.session, List.getD_eq_default _ _ (not_lt.mp hk)] at h
  cases h

theorem sessionExpiry_row {s : State} {k : Nat} {x : Session} (hk : k < 8) (hx : s.session k = some x) :
    exec (.sessionExpiry k) s = .next (if x.last + 600000000000 ≤ s.now then
      s.modCap fun c => { c with sessions := c.sessions.set k none } else s) := by
  show execSessionExpiry k s = _
  rw [execSessionExpiry]
  refine (if_pos (decide_eq_true hk)).trans (congrArg Host.Outcome.next ?_)
  dsimp only
  rw [hx]
  rfl

/-! The SMBus. -/

theorem withReserved_zero (s : State) (v : Nat) : (s.withReserved v 0).1 = v := by
  show v ||| (_ &&& 0) = v
  rw [Nat.and_zero, Nat.or_zero]

theorem length_regBytes : ∀ (l : List (Nat × Nat)) (s : State), (s.regBytes l).1.length = 8 * l.length
  | [], _ => rfl
  | (v, res) :: l, s => by
    show (natLe 8 _ ++ ((s.withReserved v res).2.regBytes l).1).length = _
    rw [List.length_append, length_regBytes l, length_natLe, List.length_cons]
    omega

theorem take_regBytes (s : State) (v : Nat) (l : List (Nat × Nat)) : (s.regBytes ((v, 0) :: l)).1.take 8 = natLe 8 v := by
  show (natLe 8 (s.withReserved v 0).1 ++ _).take 8 = _
  rw [withReserved_zero]
  exact List.take_left' (length_natLe 8 v)

theorem smbusData_input (s : State) : s.smbusData 2 =
    some (s.regBytes [(s.pwrInput, 0), (s.power.feedA.word, feedRes), (s.power.feedB.word, feedRes)]) := rfl

theorem smbusBlockRead_answers {s : State} {code : Nat} {r : List Byte × State} (hs : s.power.standby = true)
    (h : s.smbusData code = some r) : exec (.smbusBlockRead s.smbusAddr code true) s = .next (r.2.setSmb (some r.1)) := by
  refine congrArg Host.Outcome.next ((if_neg (by simp [hs])).trans ?_)
  rw [h]

theorem smbusBlockRead_silent {s : State} {code : Nat} (h : s.smbusData code = none) :
    exec (.smbusBlockRead s.smbusAddr code true) s = .next (s.setSmb none) := by
  refine congrArg Host.Outcome.next ?_
  rw [h, ite_self]

theorem smbusBlockRead_refused {s : State} {addr code : Nat} {ok : Bool} (h : addr ≠ s.smbusAddr ∨ ok = false) :
    exec (.smbusBlockRead addr code ok) s = .next (s.setSmb none) := by
  refine congrArg Host.Outcome.next (if_pos ?_)
  rcases h with h | h <;> simp [h]

theorem smbusData_none {s : State} {code : Nat} (h : 6 ≤ code) : s.smbusData code = none := by
  unfold State.smbusData
  dsimp only
  rw [if_neg (by omega), if_neg (by omega), if_neg (by omega), if_neg (by omega), if_neg (by omega)]

/-! The MRAM port. -/

theorem mramLand_only (s : State) (q : MramReq) : ∃ o, s.mramLand q = { s with obs := o } := by
  unfold State.mramLand
  split <;> exact ⟨_, rfl⟩

/-- With something waiting, a class that waits goes next. -/
theorem next_waits {m : Mram} (h : m.waiting ≠ []) : ∃ c, m.next = some c ∧ ∃ q ∈ m.waiting, (q.cls == c) = true := by
  obtain ⟨q, hq⟩ := List.exists_mem_of_ne_nil _ h
  have hfound : ∀ c : MramClass, (m.waiting.any fun q => q.cls == c) = true → ∃ q ∈ m.waiting, (q.cls == c) = true :=
    fun c hc => by simpa using hc
  unfold Mram.next
  dsimp only
  split
  · next hf => exact ⟨_, rfl, hfound _ hf⟩
  · split
    · next c hc =>
      have hw := List.find?_some hc
      exact ⟨c, rfl, hfound c (Bool.and_eq_true_iff.mp hw).1⟩
    · cases hc : MramClass.all.find? fun c => m.waiting.any fun q => q.cls == c with
      | some c => exact ⟨c, rfl, hfound c (by simpa using List.find?_some hc)⟩
      | none =>
        have hno := List.find?_eq_none.mp hc q.cls (by cases q.cls <;> decide)
        exact absurd (List.any_eq_true.mpr ⟨q, hq, by simp⟩) hno

theorem next_none {m : Mram} (h : m.waiting = []) : m.next = none := by
  unfold Mram.next
  rw [h]
  rfl

theorem start_idle {m : Mram} (h : m.waiting = []) : m.start = m := by
  unfold Mram.start
  rw [next_none h, ite_self]

/-- The port takes a waiting write. -/
theorem start_takes {m : Mram} (hh : m.held = none) (hw : m.waiting ≠ []) :
    ∃ r, m.start.pulse = some r ∧ r ∈ m.waiting ∧ m.start.waiting = m.waiting.erase r := by
  obtain ⟨c, hc, q, hq, hcls⟩ := next_waits hw
  obtain ⟨r, hr⟩ := Option.isSome_iff_exists.mp
    (List.find?_isSome (p := fun q : MramReq => q.cls == c).mpr ⟨q, hq, hcls⟩)
  have hrow : m.start = { m with pulse := some r, waiting := m.waiting.erase r, served := (c :: m.served).take 15 } := by
    rw [Mram.start, hh, if_neg (by decide), hc]
    dsimp only
    rw [hr]
  rw [hrow]
  exact ⟨r, rfl, List.mem_of_find?_eq_some hr, rfl⟩

/-- What follows a landed write on a port without a pulse. -/
def portGoesOn (v : State) : State :=
  match v.mram.held with
  | some (.module cause) => v.clearModule cause
  | none =>
    let v1 := if v.mram.waiting.any fun q => q.cls == .firstFault then { v with mram := v.mram.start } else v
    let v2 := resumeAll v1.awaiting.length v1
    if v2.mram.pulse.isSome then v2 else { v2 with mram := v2.mram.start }

theorem pulseEnd_goesOn {s : State} {q : MramReq} (hp : s.mram.pulse = some q) : ∃ o, s.mramLand q = { s with obs := o } ∧
    s.pulseEnd = portGoesOn { s with obs := o, mram := { s.mram with pulse := none } } := by
  obtain ⟨o, ho⟩ := mramLand_only s q
  refine ⟨o, ho, ?_⟩
  have hrow : s.pulseEnd = portGoesOn { s.mramLand q with mram := { (s.mramLand q).mram with pulse := none } } := by
    unfold State.pulseEnd portGoesOn
    rw [hp] <;> rfl
  rw [hrow, ho]

theorem portGoesOn_held {v : State} {cause : Nat} (h : v.mram.held = some (.module cause)) : portGoesOn v = v.clearModule cause := by
  unfold portGoesOn
  rw [h]

/-- With nothing held back and no command waiting the port takes the next write. -/
theorem portGoesOn_starts {v : State} (hh : v.mram.held = none) (hp : v.mram.pulse = none) (ha : v.awaiting = []) :
    portGoesOn v = { v with mram := v.mram.start } := by
  unfold portGoesOn
  rw [hh]
  dsimp only
  cases hf : v.mram.waiting.any fun q => q.cls == .firstFault with
  | true =>
    obtain ⟨r, hr, -⟩ := start_takes hh (by intro hw; rw [hw] at hf; cases hf)
    rw [if_pos rfl]
    dsimp only
    rw [ha, List.length_nil, resumeAll, hr]
    rfl
  | false =>
    have hnone : resumeAll v.awaiting.length v = v := by rw [ha]; rfl
    rw [if_neg Bool.false_ne_true, hnone, hp]
    rfl

/-! The training of a stack. -/

theorem linkTrain_not {s : State} {k : Nat} {l : List Nat} {beyond : Bool}
    (h : (s.stk k).training = false ∨ (s.die (k / 5)).released = 0) : s.linkTrain k l beyond = s :=
  if_pos (by rcases h with h | h <;> simp [h])

theorem steady_linkTrain {s : State} {k : Nat} {l : List Nat} {beyond : Bool} (ht : (s.stk k).training = true)
    (hr : (s.die (k / 5)).released ≠ 0) : steady (s.linkTrain k l beyond) = steady (s.modStk k fun x => { x with
      training := false, repairs := x.repairs ++ (l.filter fun n => !(s.stk k).repairs.contains n).dedup, lost := x.lost || beyond
      saved := ((s.die (k / 5)).pinRate, x.repairs ++ (l.filter fun n => !(s.stk k).repairs.contains n).dedup) ::
        x.saved.filter fun e => e.1 != (s.die (k / 5)).pinRate }) := by
  refine (congrArg steady (if_neg (by simp [ht, hr]))).trans ?_
  exact steady_foldl (fun s _ => steady_log s _ _ _) _ _

/-- What goes on after the training changes no stack and no flash. -/
theorem steady_trained {s : State} {k : Nat} {l : List Nat} {beyond : Bool} (ha : (s.linkTrain k l beyond).awaiting = []) :
    steady (s.trained k l beyond) = steady (s.linkTrain k l beyond) := by
  unfold State.trained
  dsimp only
  split
  · rfl
  · have hw : steady ([0, 1, 2, 3].foldl (fun s p => if s.defined p then s.wake p else s) (s.linkTrain k l beyond)) =
        steady (s.linkTrain k l beyond) :=
      steady_foldl (fun s p => by simp) _ _
    generalize [0, 1, 2, 3].foldl (fun s p => if s.defined p then s.wake p else s) (s.linkTrain k l beyond) = v at hw ⊢
    have hv : v.awaiting = [] := (congrArg (fun x => x.2.2) hw).trans ha
    rw [hv, List.length_nil, resumeAll, steady_coreGo, hw]

theorem trained_not {s : State} {k : Nat} {l : List Nat} {beyond : Bool}
    (h : (s.stk k).training = false ∨ (s.die (k / 5)).released = 0) : s.trained k l beyond = s := by
  unfold State.trained
  dsimp only
  rw [linkTrain_not h]
  exact if_pos (by cases (s.stk k).training <;> rfl)

theorem hbmLinkTraining_eq {s : State} {k : Nat} (hk : k < 20) (l : List Nat) (beyond : Bool) :
    exec (.hbmLinkTraining k l beyond) s = .next (s.trained k l beyond) := if_pos (decide_eq_true hk)

theorem hbmLinkTraining_trains {s : State} {k : Nat} (hk : k < 20) (hl : k < s.stks.length) (l : List Nat) (beyond : Bool)
    (ht : (s.stk k).training = true) (hr : (s.die (k / 5)).released ≠ 0) (ha : s.awaiting = []) :
    ∃ u, exec (.hbmLinkTraining k l beyond) s = .next u ∧
      (u.stk k).training = false ∧ (u.stk k).lost = ((s.stk k).lost || beyond) ∧
      (u.stk k).repairs = (s.stk k).repairs ++ (l.filter fun x => !(s.stk k).repairs.contains x).dedup ∧
      (∀ j, j ≠ k → u.stk j = s.stk j) ∧ u.flash = s.flash := by
  have hlink := steady_linkTrain (l := l) (beyond := beyond) ht hr
  have hu := (steady_trained ((congrArg (fun x => x.2.2) hlink).trans ha)).trans hlink
  have hstks := congrArg Prod.fst hu
  have hstk : ∀ j, (s.trained k l beyond).stk j = _ := fun j => congrArg (fun l : List Stack => l.getD j Stack.init) hstks
  have hk' := (hstk k).trans (Sensors.stk_modStk _ hl)
  exact ⟨_, hbmLinkTraining_eq hk l beyond, congrArg Stack.training hk', congrArg Stack.lost hk', congrArg Stack.repairs hk',
    fun j hj => (hstk j).trans (Sensors.stk_modStk_ne _ hj), congrArg (fun x => x.2.1) hu⟩

/-! Standby power and the plug loop. -/

theorem standbyLoss_row (s : State) : exec .standbyLoss s = .next (if s.power.standby &&
    (decide (20000 ≤ s.power.feedA.mv) || decide (20000 ≤ s.power.feedB.mv)) then s else s.clearAll) := rfl

/-- What the loss of standby power leaves. -/
structure Lost (s u : State) : Prop where
  standby : u.power.standby = false
  rails : u.power.railsOn = false
  hbm : u.hbm = []
  sram : u.sram = []
  kept : u.standby = Standby.init
  rst : u.rst = Rst.init
  flash : u.flash = s.flash
  owner : u.cap.ownerKey = s.cap.ownerKey

theorem clearAll_lost (s : State) : Lost s s.clearAll := by
  obtain ⟨o, ho⟩ : ∃ o, (match s.mram.pulse with | some q => s.mramLand q | none => s) = { s with obs := o } := by
    cases s.mram.pulse with
    | none => exact ⟨s.obs, rfl⟩
    | some q => exact mramLand_only s q
  have hflash : s.clearAll.flash = s.flash :=
    (congrArg (fun v : State => (v.clearModule 0).flash) ho).trans rfl
  have howner : s.clearAll.cap.ownerKey = s.cap.ownerKey :=
    (congrArg (fun v : State => (v.clearModule 0).cap.ownerKey) ho).trans rfl
  have hsram : s.clearAll.sram = [] := (congrArg (fun v : State => (v.clearModule 0).sram) ho).trans rfl
  have hrst : s.clearAll.rst = Rst.init := (congrArg (fun v : State => (v.clearModule 0).rst) ho).trans rfl
  exact ⟨rfl, rfl, rfl, hsram, rfl, hrst, hflash, howner⟩

/-- Settles O57: frames, sessions, the SMBus and the pins are single branches; the port takes a waiting write by its class, and
nothing that waits for a stack's controller changes a stack. -/
theorem portsAndPins : Obligations.PortsAndPins := by
  unfold Obligations.PortsAndPins
  refine ⟨fun s f => ⟨fun h => congrArg Host.Outcome.next (by rw [h]), fun h => congrArg Host.Outcome.next (by rw [h]),
    fun h => congrArg Host.Outcome.next (by rw [h]), fun h hl hr => ?_, fun h hn =>
      (mgtFrame_management h).trans (congrArg Host.Outcome.next (datagram_ignored hn))⟩,
    fun s k x hk hx => ⟨fun ht => ?_, fun ht => ?_⟩, fun s hs => ⟨fun addr code ok h => ⟨_, smbusBlockRead_refused h, rfl⟩, ?_, ?_,
      fun code hc => ⟨_, smbusBlockRead_silent (smbusData_none hc), rfl⟩, fun ha => ?_⟩,
    fun s => ⟨fun hl hs => ?_, fun hs hf => ?_, fun h => ?_, fun hl => ?_, fun hl => ?_, fun h => ?_, ?_⟩, fun s hp => ?_,
    fun s q hp => ⟨fun cause hh => ?_, fun hh ha => ?_⟩, fun s k l beyond hk hl =>
      ⟨fun h => (hbmLinkTraining_eq hk l beyond).trans (congrArg Host.Outcome.next (trained_not h)),
        hbmLinkTraining_trains hk hl l beyond⟩⟩
  · have hex := (mgtFrame_management h).trans (congrArg Host.Outcome.next (datagram_row hl hr))
    refine ⟨fun k hk => ?_, fun hk hh => ?_, fun hk hh hfull => ?_, fun k hk hh hfree hlen => ?_⟩
    · obtain ⟨y, hy, haddr, hport⟩ := sessionOf_some hk
      rw [hk] at hex
      exact ⟨_, _, hex, Messages.session_modSession _ hy, rfl, rfl, haddr, hport⟩
    · rw [hk, hh] at hex
      exact hex
    · rw [hk, hh, hfull] at hex
      exact hex
    · rw [hk, hh, hfree] at hex
      have hk8 : k < 8 := List.mem_range.mp (List.mem_of_find?_eq_some hfree)
      exact ⟨_, hex, session_set _ (by omega)⟩
  · exact (sessionExpiry_row hk hx).trans (congrArg Host.Outcome.next (if_neg (by omega)))
  · exact ⟨_, (sessionExpiry_row hk hx).trans (congrArg Host.Outcome.next (if_pos ht)), session_set none (session_listed hx),
      fun j hj => session_set_ne none hj⟩
  · have hex := smbusBlockRead_answers hs (smbusData_input s)
    exact ⟨_, _, hex, rfl, length_regBytes _ s, take_regBytes s _ _, commandsAnswer.2.2.1 _ s _ rfl hex⟩
  · have hex := smbusBlockRead_answers (code := 1) hs rfl
    refine ⟨_, _, hex, rfl, ?_, ?_⟩
    · simp [orderingCode, length_natLe]
    · simp [orderingCode]
  · exact ⟨_, congrArg Host.Outcome.next (if_pos (by simp [hs, ha])), rfl, rfl, rfl⟩
  · exact congrArg Host.Outcome.next (if_pos (by simp [hl, hs]))
  · exact (standbyLoss_row s).trans (congrArg Host.Outcome.next (if_pos (by simpa [hs] using hf)))
  · obtain ⟨h1, h2, h3, h4, h5, h6, h7, h8⟩ := clearAll_lost s
    exact ⟨_, (standbyLoss_row s).trans (congrArg Host.Outcome.next (if_neg (by
      rcases h with h | ⟨ha, hb⟩
      · simp [h]
      · simp [Nat.not_le.mpr ha, Nat.not_le.mpr hb]))), h1, h2, h3, h4, h5, h6, h7, h8⟩
  · exact ⟨_, congrArg Host.Outcome.next (if_neg (by simp [hl])), rfl, rfl, rfl, rfl, rfl, rfl⟩
  · exact congrArg Host.Outcome.next (if_pos hl)
  · exact congrArg Host.Outcome.next (if_neg (by rcases h with h | h <;> simp [h]))
  · obtain ⟨h1, h2, h3, h4, h5, h6, h7, h8⟩ := clearAll_lost s
    exact ⟨_, rfl, rfl, rfl, h1, h5⟩
  · refine congrArg Host.Outcome.next ?_
    unfold State.pulseEnd
    rw [hp]
  · obtain ⟨o, -, hrow⟩ := pulseEnd_goesOn hp
    exact ⟨_, congrArg Host.Outcome.next (hrow.trans (portGoesOn_held (cause := cause) hh)), rfl, rfl, rfl⟩
  · obtain ⟨o, ho, hrow⟩ := pulseEnd_goesOn hp
    refine ⟨_, congrArg Host.Outcome.next (hrow.trans (portGoesOn_starts hh rfl ha)), ?_, rfl, fun hw => ?_, fun hw => ?_⟩
    · rw [ho]
    · rw [start_idle (m := { s.mram with pulse := none }) hw]
    · exact start_takes (m := { s.mram with pulse := none }) hh hw

end Sys2Proof.Proofs.PortsPins
end

section
/-! PROOFS. What the memory accesses and the faults of a Reef engine leave alone: the fabric, tile SRAM, what decides where packets
go, and what each die's engine holds for its sums. -/
namespace Sys2Proof.Proofs.ReefFrames

open Sys2Proof Sys2Proof.Machine Sys2Proof.Laws Sys2Proof.Safety
open Sys2Proof.Proofs.Home Sys2Proof.Proofs.HomeFrame
open Sys2Proof.Proofs.Packets (SamePaths)

/-- What a Reef engine holds for its sums: all but latch, flags and the parameters. -/
def sums (r : Reef) : List GroupSt × List Bucket × List Contrib × List ChunkMark × List F32Part × Nat × Nat :=
  (r.groups, r.buckets, r.contribs, r.marks, r.f32, r.retry, r.csumFails)

/-- The parts of a state that the memory accesses and the faults of an engine leave alone. -/
def around (s : State) := (s.fabric, s.sram, s.parts, s.cap, s.lny, s.dies.map fun x => sums x.reef)

@[simp] theorem around_mk (s : State) (pending regions power thermal tiles sramBad fly tileReqs hbm poison crcs stks allocs standby
    errs obs flash mram awaiting geodes spineMons rst pins irqs coreAns coreWait coreRel coreLoads free) :
    around ⟨pending, s.lny, regions, power, thermal, tiles, s.sram, sramBad, fly, tileReqs, hbm, poison, crcs, stks, s.dies, s.fabric,
      s.parts, allocs, s.cap, standby, errs, obs, flash, mram, awaiting, geodes, spineMons, rst, pins, irqs, coreAns, coreWait,
      coreRel, coreLoads, free⟩ = around s := (rfl)

@[simp] theorem around_ite (c : Prop) [Decidable c] (s v : State) :
    around (if c then s else v) = if c then around s else around v := apply_ite around c s v

@[simp] theorem around_foldl {α : Type} {f : State → α → State} (h : ∀ s x, around (f s x) = around s) :
    ∀ (l : List α) (s : State), around (l.foldl f s) = around s
  | [], _ => rfl
  | x :: l, s => (around_foldl h l (f s x)).trans (h s x)

/-- An update of a die that leaves the sums of its engine. -/
@[simp] theorem around_modDie (s : State) (d : Nat) {f : Die → Die} (h : ∀ x, sums (f x).reef = sums x.reef := by exact fun _ => rfl) :
    around (s.modDie d f) = around s := by
  have hd : (s.modDie d f).dies.map (fun x => sums x.reef) = s.dies.map fun x => sums x.reef :=
    Answers.map_modAt_keeps h s.dies d
  unfold around
  rw [hd]
  rfl

theorem around_modReef (s : State) (d : Nat) {f : Reef → Reef} (h : ∀ x, sums (f x) = sums x := by exact fun _ => rfl) :
    around (s.modReef d f) = around s :=
  around_modDie s d fun x => h x.reef

@[simp] theorem around_modTile (s : State) (t : Nat) (f : Tile → Tile) : around (s.modTile t f) = around s := rfl
@[simp] theorem around_modGeode (s : State) (p : Nat) (f : Geode → Geode) : around (s.modGeode p f) = around s := rfl
@[simp] theorem around_modPage (s : State) (k : Nat) (f : ErrPage → ErrPage) : around (s.modPage k f) = around s := rfl

@[simp] theorem around_post (s : State) (p : Option Nat) (e src layer op detail : Nat) :
    around (s.post p e src layer op detail) = around s := by
  unfold State.post State.postPage
  (repeat' split) <;> simp [State.raiseIrq]

@[simp] theorem around_log (s : State) (rtype part : Nat) (payload : List Nat) : around (s.log rtype part payload) = around s := by
  obtain ⟨o, m, h⟩ := Cleat.log_only s rtype part payload
  rw [h]
  rfl

@[simp] theorem around_modMon (s : State) (d m : Nat) (f : Monitor → Monitor) : around (s.modMon d m f) = around s := by
  unfold State.modMon
  split
  · rfl
  · exact around_modDie s d

@[simp] theorem around_emit (s : State) (d source raw layer op a b inst : Nat) :
    around (s.emit d source raw layer op a b inst) = around s := by
  simp [State.emit, State.sampleEvent, State.sample]

@[simp] theorem around_setVeto (s : State) (d step : Nat) (v : Veto) (source layer op : Nat) :
    around (s.setVeto d step v source layer op) = around s := by
  unfold State.setVeto
  split
  · rfl
  split
  · simp
  · exact around_modReef s d

@[simp] theorem around_trigger (s : State) (p : Option Nat) (tr : Trig) : around (s.trigger p tr) = around s := by
  unfold State.trigger
  (repeat' split) <;> simp

@[simp] theorem around_postFault (s : State) (d source : Nat) (r : FaultRec) (step : Nat) :
    around (s.postFault d source r step) = around s := by
  unfold State.postFault
  dsimp only
  (repeat' split) <;> simp

@[simp] theorem around_fault (s : State) (t : Nat) (i : Info) (ipValid : Bool) (cls code detail : Nat) :
    around (s.fault t i ipValid cls code detail) = around s := by
  unfold State.fault
  dsimp only
  (repeat' split) <;> simp

@[simp] theorem around_addToken (s : State) (t k n : Nat) : around (s.addToken t k n) = around s := by
  simp [State.addToken]

@[simp] theorem around_drawFree (s : State) : around s.drawFree.2 = around s := rfl

@[simp] theorem around_reefFault (s : State) (d step : Nat) (why : Nat × Nat × Nat) : around (s.reefFault d step why) = around s := by
  simp [State.reefFault]

@[simp] theorem around_reefFlags (s : State) (d fl : Nat) : around (s.reefFlags d fl) = around s := by
  unfold State.reefFlags
  split
  · rfl
  · exact around_modReef s d

/-! Requests at a home. -/

@[simp] theorem around_charge (s : State) (d gear layer op kind n : Nat) : around (s.charge d gear layer op kind n) = around s := by
  unfold State.charge
  split
  · rfl
  · exact around_modDie s d

@[simp] theorem around_setCache (s : State) (d : Nat) (l : CacheLine) : around (s.setCache d l) = around s :=
  around_modDie s d

theorem around_chargedFor (s : State) (q : HomeReq) (d key : Nat) : around (chargedFor s q d key) = around s := by
  unfold chargedFor
  dsimp only
  split <;> simp

theorem around_evict (s : State) (d key : Nat) : around (s.evict d key) = around s := by
  unfold State.evict
  split
  · dsimp only
    split
    · rfl
    split
    · rfl
    · exact (around_mk (s.modDie d _) ..).trans (around_modDie s d)
  split
  · rfl
  split
  · rfl
  dsimp only
  split
  · exact (around_mk (s.modDie d _) ..).trans (around_modDie s d)
  · exact around_modDie s d

theorem around_makeRoom {s v : State} {d off : Nat} (h : s.makeRoom d off = some v) : around v = around s := by
  unfold State.makeRoom at h
  dsimp only at h
  split at h
  · exact congrArg around (Option.some.inj h).symm
  split at h
  · exact congrArg around (Option.some.inj h).symm
  split at h
  · exact (congrArg around (Option.some.inj h).symm).trans (around_evict _ _ _)
  · cases h

theorem around_allocate {s v : State} {d : Nat} {l : CacheLine} (h : s.allocate d l = some v) : around v = around s := by
  unfold State.allocate at h
  split at h
  · exact (congrArg around (Option.some.inj h).symm).trans (around_setCache s d l)
  · obtain ⟨w, hw, rfl⟩ := Option.map_eq_some_iff.mp h
    exact (around_setCache w d l).trans (around_makeRoom hw)

theorem around_allocate_getD {s v : State} {d : Nat} {l : CacheLine} (h : around v = around s) :
    around ((s.allocate d l).getD v) = around s := by
  cases ha : s.allocate d l with
  | none => exact h
  | some w => exact around_allocate ha

theorem around_storedLine (s : State) (al : Alloc) (q : HomeReq) (d key : Nat) (whole : Bool) (old new : List Byte)
    (tag : Option (Nat × Nat)) (allocate : Bool) : around (storedLine s al q d key whole old new tag allocate) = around s := by
  have hput : ∀ off data alloc tag, around (s.putLine d key off data alloc tag) = around s := by
    intro off data alloc tag
    unfold State.putLine
    dsimp only
    split
    · exact around_allocate_getD rfl
    · rfl
  have hcrc : ∀ (s : State) al off whole old new, around (s.keepCrc al off whole old new) = around s := by
    intro s al off whole old new
    unfold State.keepCrc
    split
    · rfl
    · exact around_modDie s _
  exact (hcrc ..).trans (hput ..)

theorem scopeTest_reef (x : Die) (tag : Option (Nat × Nat)) (who : Who) (scope layer : Nat) :
    (scopeTest x tag who scope layer).reef = x.reef := by
  unfold scopeTest
  split
  · rfl
  · dsimp only
    (repeat' split) <;> rfl

theorem around_scopeNoted (s : State) (q : HomeReq) (d key : Nat) : around (scopeNoted s q d key) = around s := by
  unfold scopeNoted
  split
  · rfl
  · exact around_modDie s _ fun x => congrArg sums (scopeTest_reef x _ _ _ _)

theorem around_filled (s : State) (d key off : Nat) (skip : Bool) (old : List Byte) : around (filled s d key off skip old) = around s := by
  unfold filled
  split
  · rfl
  · exact around_allocate_getD rfl

theorem around_cond {s : State} {c : Prop} [Decidable c] {x y : HomeAns} (hx : around x.s = around s) (hy : around y.s = around s) :
    around (if c then x else y).s = around s := by
  split <;> assumption

theorem around_applied (s : State) (al : Alloc) (q : HomeReq) (d key : Nat) : around (applied s al q d key).s = around s := by
  unfold applied
  dsimp only
  cases q.kind with
  | readLine => exact (around_filled _ _ _ _ _ _).trans (around_scopeNoted s q d key)
  | readItem => rfl
  | writeLine m data => exact around_cond rfl (around_storedLine s _ _ _ _ _ _ _ _ _)
  | writeItem data => exact around_cond rfl (around_storedLine s _ _ _ _ _ _ _ _ _)
  | atomic aop ret opd => exact around_cond rfl ((around_storedLine _ _ _ _ _ _ _ _ _ _).trans (around_scopeNoted s q d key))

@[simp] theorem around_homeApply (s : State) (al : Alloc) (q : HomeReq) : around (s.homeApply al q false).s = around s := by
  cases hlost : (s.stk (place al (q.off / 64 * 64)).1).lost with
  | true =>
    have h : s.homeApply al q false = ⟨s, .refused 3 2 q.off, [], none⟩ := if_pos hlost
    rw [h]
  | false =>
    rw [homeApply_eq hlost]
    exact (around_applied _ _ _ _ _).trans (around_chargedFor s _ _ _)

@[simp] theorem around_answer (s : State) (who : Who) (fin : ReqEnd) (data : List Byte) (crc : Option Nat) :
    around (s.answer_ who fin data crc) = around s := by
  cases who <;> rfl

theorem around_serveReq (s : State) (q : HomeReq) : around (s.serveReq q false) = around s := by
  unfold State.serveReq
  split <;> simp

theorem around_granted {s v : State} {d k : Nat} {ok : HomeReq → Bool} {r : HomeReq} (h : s.granted d k ok = some (r, v)) :
    around v = around s := by
  unfold State.granted at h
  dsimp only at h
  split at h
  · cases h
  · obtain ⟨q, hq, hv⟩ := Option.map_eq_some_iff.mp h
    have hv2 := congrArg (fun x => around x.2) hv
    exact hv2.symm.trans ((around_emit ..).trans (around_modDie s d))

theorem around_untilGrant (d k : Nat) (q : HomeReq) (n : Nat) : ∀ s : State, around (State.untilGrant n s d k q) = around s := by
  induction n with
  | zero => exact fun _ => rfl
  | succ n ih =>
    intro s
    unfold State.untilGrant
    split
    · rfl
    next r v h =>
      split
      · exact around_granted h
      · exact (ih _).trans ((around_serveReq v r).trans (around_granted h))

/-- Serving a request at its home leaves the sums of the engines alone. -/
@[simp] theorem around_homeDo (s : State) (al : Alloc) (q : HomeReq) : around (s.homeDo al q).s = around s :=
  (around_homeApply _ _ _).trans ((around_untilGrant _ _ _ _ _).trans (around_modDie s _))

@[simp] theorem around_readLines (s : State) (p agent : Nat) (l : List Nat) : around (s.readLines p agent l).s = around s := by
  refine List.foldlRecOn (motive := fun x : EngRead => around x.s = around s) _ _ rfl fun x hx l _ => ?_
  dsimp only
  split
  · exact hx
  · exact (around_homeDo ..).trans hx

@[simp] theorem around_verifyRead (s : State) (p agent b : Nat) (al : Alloc) (bytes : List Byte) :
    around (s.verifyRead p agent b al bytes).1 = around s := by
  unfold State.verifyRead
  dsimp only
  (repeat' split) <;> simp

@[simp] theorem around_memRead (s : State) (p agent off n : Nat) : around (s.memRead p agent off n).s = around s := by
  refine List.foldlRecOn (motive := fun x : EngRead => around x.s = around s) _ _ (around_readLines s p agent _) fun x hx b _ => ?_
  dsimp only
  split
  · exact hx
  · split
    · exact hx
    · exact (around_verifyRead ..).trans hx

@[simp] theorem around_memWrite (s : State) (p agent off : Nat) (data : List Byte) :
    around (s.memWrite p agent off data).1 = around s := by
  refine List.foldlRecOn (motive := fun x : State × Bool => around x.1 = around s) _ _ rfl fun x hx l _ => ?_
  dsimp only
  split
  · exact hx
  · exact (around_homeDo ..).trans hx

@[simp] theorem around_reefWrite (s : State) (d p step off : Nat) (data : List Byte) :
    around (s.reefWrite d p step off data).1 = around s := by
  simp [State.reefWrite]

@[simp] theorem around_reefRead (s : State) (d p step off n : Nat) : around (s.reefRead d p step off n).s = around s := by
  unfold State.reefRead
  dsimp only
  split <;> simp

@[simp] theorem around_localPart (s : State) (d p step : Nat) (b : Bucket) (at_ n : Nat) :
    around (s.localPart d p step b at_ n).1.s = around s := by
  unfold State.localPart
  dsimp only
  split <;> simp

@[simp] theorem around_sealBlock (s : State) (p b : Nat) : around (s.sealBlock p b) = around s := by
  unfold State.sealBlock
  split
  · rfl
  · split
    · rfl
    · exact around_modDie s _

@[simp] theorem around_sealOut (s : State) (d p step : Nat) (x : GroupSt) (b : Bucket) (c : Nat) :
    around (s.sealOut d p step x b c) = around s := by
  simp [State.sealOut]

/-! What follows for an engine and for packets. -/

section
variable {s v : State} (h : around v = around s)
include h

theorem fabric_of_around : v.fabric = s.fabric := congrArg Prod.fst h
theorem sram_of_around : v.sram = s.sram := congrArg (fun x => x.2.1) h

theorem paths_of_around : SamePaths s v := by
  have hf := fabric_of_around h
  have hp : v.parts = s.parts := congrArg (fun x => x.2.2.1) h
  have hc : v.cap = s.cap := congrArg (fun x => x.2.2.2.1) h
  have hl : v.lny = s.lny := congrArg (fun x => x.2.2.2.2.1) h
  refine ⟨?_, ?_, ?_, congrArg Fabric.routes hf, congrArg Fabric.gateways hf, fun q => ?_⟩
  · unfold State.nodeId
    rw [hc, hp]
  · unfold State.dims
    rw [hp]
  · unfold State.now
    rw [hl]
  · unfold State.portUp State.port
    rw [hf]

theorem dieSums_of_around : (v.dies.map fun x => sums x.reef) = s.dies.map fun x => sums x.reef :=
  congrArg (fun x => x.2.2.2.2.2) h

theorem length_of_around : v.dies.length = s.dies.length := by
  have hl := congrArg List.length (dieSums_of_around h)
  simpa using hl

theorem sums_of_around (e : Nat) : sums (v.reef e) = sums (s.reef e) := by
  have hd := dieSums_of_around h
  have hget : ∀ u : State, sums (u.reef e) = (u.dies.map fun x => sums x.reef).getD e (sums Die.init.reef) := fun u =>
    (List.getD_map (f := fun x : Die => sums x.reef) (n := e) (l := u.dies) (d := Die.init)).symm
  rw [hget, hget, hd]

end

/-- What the functions of an engine's sums read. -/
structure SameSums (a b : Reef) : Prop where
  groups : b.groups = a.groups
  buckets : b.buckets = a.buckets
  contribs : b.contribs = a.contribs
  marks : b.marks = a.marks
  f32 : b.f32 = a.f32
  retry : b.retry = a.retry
  csumFails : b.csumFails = a.csumFails

theorem sameSums_of_eq {a b : Reef} (h : sums b = sums a) : SameSums a b := by
  simp only [sums, Prod.mk.injEq] at h
  obtain ⟨h1, h2, h3, h4, h5, h6, h7⟩ := h
  exact ⟨h1, h2, h3, h4, h5, h6, h7⟩

section
variable {a b : Reef} (h : SameSums a b)
include h

theorem SameSums.group (g : Nat) : b.group g = a.group g := by
  unfold Reef.group
  rw [h.groups]
theorem SameSums.bucket (g n : Nat) : b.bucket g n = a.bucket g n := by
  unfold Reef.bucket
  rw [h.buckets]
theorem SameSums.mark (step g n sh c : Nat) : b.mark step g n sh c = a.mark step g n sh c := by
  unfold Reef.mark
  rw [h.marks]
theorem SameSums.parts (step g n sh c : Nat) : b.parts step g n sh c = a.parts step g n sh c := by
  unfold Reef.parts
  rw [h.contribs]

end

theorem sameSums_of_around {s v : State} (h : around v = around s) (e : Nat) : SameSums (s.reef e) (v.reef e) :=
  sameSums_of_eq (sums_of_around h e)

theorem reef_modReef {s : State} {d : Nat} (f : Reef → Reef) (hd : d < s.dies.length) : (s.modReef d f).reef d = f (s.reef d) := by
  simp [State.reef, State.die, State.modReef, State.modDie, modAt, hd]

theorem reef_modReef_ne {s : State} {d e : Nat} (f : Reef → Reef) (h : e ≠ d) : (s.modReef d f).reef e = s.reef e := by
  simp [State.reef, State.die, State.modReef, State.modDie, modAt, Ne.symm h]

/-- A die that is not there holds no group. -/
theorem listed_of_group {s : State} {d g : Nat} {y : GroupSt} (h : (s.reef d).group g = some y) : d < s.dies.length := by
  by_contra hd
  have hr : s.reef d = Die.init.reef := congrArg Die.reef (List.getD_eq_default _ _ (not_lt.mp hd))
  rw [hr] at h
  cases h

theorem g_of_group {r : Reef} {g : Nat} {y : GroupSt} (h : r.group g = some y) : y.g = g := by
  simpa using List.find?_some h

/-! Packets sent. -/

theorem sendReef_only (s : State) (p : Nat) (x : GroupSt) (rank : Nat) (h : RHead) (payload : List Byte) :
    ∃ f, s.sendReef p x rank h payload = { s with fabric := f } := FabricRequests.inject_only s _

theorem sendReef_foldl_only {α : Type} (p : Nat) (x : GroupSt) (rank : α → Nat) (h : RHead) (payload : List Byte) (l : List α) :
    ∀ s : State, ∃ f, l.foldl (fun s a => s.sendReef p x (rank a) h payload) s = { s with fabric := f } := by
  induction l with
  | nil => exact fun s => ⟨s.fabric, rfl⟩
  | cons a l ih =>
    intro s
    obtain ⟨f, hf⟩ := sendReef_only s p x (rank a) h payload
    obtain ⟨f', hf'⟩ := ih (s.sendReef p x (rank a) h payload)
    exact ⟨f', hf'.trans (by rw [hf])⟩

theorem tookPkt_sendReef {s v : State} {k : Nat} (h : tookPkt s v k) (p : Nat) (x : GroupSt) (rank : Nat) (hd : RHead)
    (payload : List Byte) :
    tookPkt s (v.sendReef p x rank hd payload) k := by
  obtain ⟨l, hl⟩ := h
  have hin := Packets.inbox_inject v (v.mkPkt ptReef (4 + x.cvc) (x.ranks.getD rank 0xFFFF) 0 1 ((v.jobOf p).getD 0) 0 0 0 0 0
    (hd.bytes ++ padSlots payload))
  rw [hl, List.append_assoc] at hin
  exact ⟨_, hin⟩

theorem tookPkt_foldl {α : Type} {s : State} {k : Nat} {f : State → α → State} (h : ∀ v a, tookPkt s v k → tookPkt s (f v a) k)
    (l : List α) : ∀ v, tookPkt s v k → tookPkt s (l.foldl f v) k := by
  induction l with
  | nil => exact fun _ h => h
  | cons a l ih => exact fun v hv => ih _ (h v a hv)

theorem tookPkt_of_around {s v w : State} {k : Nat} (h : around w = around v) (ht : tookPkt s v k) : tookPkt s w k := by
  obtain ⟨l, hl⟩ := ht
  exact ⟨l, (congrArg Fabric.inbox (fabric_of_around h)).trans hl⟩

theorem taken_takePkt (s : State) (k : Nat) (x : InPkt) : taken s (s.takePkt k x) k := by
  unfold State.takePkt State.returnCredits
  split <;> rfl

theorem tookPkt_takePkt (s : State) (k : Nat) (x : InPkt) : tookPkt s (s.takePkt k x) k :=
  ⟨[], (taken_takePkt s k x).trans (List.append_nil _).symm⟩

/-! A Reef packet that is taken. -/

section
variable {s : State} {k rk : Nat} {x : InPkt} {p d : Nat} {y : GroupSt} (hin : ReefIn s k rk x p d y)
  {f : Nat → Nat → GroupSt → RHead → Packet → State → Option State}
include hin

/-- A sound packet for its group is acted on, or stays. -/
theorem onReef_row {v : State} (h : (f d p y (RHead.ofBytes x.pkt.data) x.pkt (s.takePkt k x)).getD s = v) : s.onReef k rk f = v := by
  obtain ⟨⟨hat, htype, hhere⟩, hkind, hpart, hdie, hgroup, hsound, hsign, hruns, hfree⟩ := hin
  have hdie' : (if (rk = 2 || rk = 3) = true then (s.groupDies p (x.pkt.vc - 4)).head?
      else (s.diesOf p).find? fun d => ((s.reef d).bucket (x.pkt.vc - 4) (RHead.ofBytes x.pkt.data).bucket).isSome) = some d := by
    simpa using hdie
  unfold State.onReef onPacket
  rw [hat]
  dsimp only
  rw [if_pos (by simp [htype, hkind, hhere]), hsound, if_neg Bool.false_ne_true, hpart]
  dsimp only
  rw [hdie']
  dsimp only
  rw [hruns, hfree, if_neg (by decide), hgroup]
  dsimp only
  rw [if_neg (fun h => h hsign), ← h]
  cases f d p y (RHead.ofBytes x.pkt.data) x.pkt (s.takePkt k x) with
  | none => rfl
  | some v => rfl

theorem onReef_acts {v : State} (h : f d p y (RHead.ofBytes x.pkt.data) x.pkt (s.takePkt k x) = some v) : s.onReef k rk f = v :=
  onReef_row hin (by rw [h, Option.getD_some])

theorem onReef_waits (h : f d p y (RHead.ofBytes x.pkt.data) x.pkt (s.takePkt k x) = none) : s.onReef k rk f = s :=
  onReef_row hin (by rw [h, Option.getD_none])

end

end Sys2Proof.Proofs.ReefFrames
end

section
/-! PROOFS. The report of a group's step, the decision on it, and the timer of the decision. -/
namespace Sys2Proof.Proofs.ReefReports

open Sys2Proof Sys2Proof.Machine Sys2Proof.Laws Sys2Proof.Safety
open Sys2Proof.Proofs.ReefFrames

/-- A fold that brings each listed die from P to Q, where an operation on one die leaves both of another. -/
theorem foldl_reaches {f : State → Nat → State} {P Q : State → Nat → Prop} (hstep : ∀ s a, P s a → Q (f s a) a)
    (hp : ∀ s a b, b ≠ a → P s b → P (f s a) b) (hq : ∀ s a b, b ≠ a → Q s b → Q (f s a) b) :
    ∀ (l : List Nat) (s : State), l.Nodup → (∀ a ∈ l, P s a) → ∀ a ∈ l, Q (l.foldl f s) a := by
  have hkeep : ∀ (l : List Nat) (s : State) (b : Nat), b ∉ l → Q s b → Q (l.foldl f s) b := by
    intro l
    induction l with
    | nil => exact fun _ _ _ h => h
    | cons a l ih =>
      intro s b hb h
      obtain ⟨hne, hl⟩ := List.ne_and_not_mem_of_not_mem_cons hb
      exact ih (f s a) b hl (hq s a b hne h)
  intro l
  induction l with
  | nil => exact fun _ _ _ a ha => nomatch ha
  | cons c l ih =>
    intro s hnd hall a ha
    obtain ⟨hc, hnd⟩ := List.nodup_cons.mp hnd
    rcases List.mem_cons.mp ha with rfl | ha
    · exact hkeep l _ a hc (hstep s a (hall a List.mem_cons_self))
    · exact ih (f s c) hnd (fun b hb => hp s c b (fun h => hc (h ▸ hb)) (hall b (List.mem_cons_of_mem _ hb))) a ha

theorem nodup_groupDies (s : State) (p g : Nat) : (s.groupDies p g).Nodup := (List.nodup_range.filter _).filter _

theorem group_of_groupDies {s : State} {p g e : Nat} (h : e ∈ s.groupDies p g) : ∃ z, (s.reef e).group g = some z :=
  Option.isSome_iff_exists.mp (List.mem_filter.mp h).2

/-! A group's record changed on one die. -/

/-- The first that a test finds, where an update of some leaves what the test reads and reaches all it finds. -/
theorem find_map_if {α : Type} {q : α → Bool} {c : α → Prop} [DecidablePred c] {f : α → α} (hq : ∀ x, q (f x) = q x)
    (hc : ∀ x, q x = true → c x) (l : List α) : (l.map fun x => if c x then f x else x).find? q = (l.find? q).map f := by
  have hcomp : (q ∘ fun x => if c x then f x else x) = q := by
    funext x
    show q (if c x then f x else x) = q x
    split
    · exact hq x
    · rfl
  rw [List.find?_map, hcomp]
  cases h : l.find? q with
  | none => rfl
  | some x => exact congrArg some (if_pos (hc x (List.find?_some h)))

theorem group_modGroup {s : State} {d g : Nat} {y : GroupSt} {f : GroupSt → GroupSt} (hf : ∀ x, (f x).g = x.g)
    (h : (s.reef d).group g = some y) : ((s.modGroup d g f).reef d).group g = some (f y) := by
  have hr : (s.modGroup d g f).reef d = _ := reef_modReef _ (listed_of_group h)
  rw [hr]
  refine (find_map_if (q := fun x : GroupSt => x.g == g) (fun x => by rw [hf]) (fun x hx => by simpa using hx) _).trans ?_
  exact congrArg (Option.map f) h

theorem reef_modGroup_ne {s : State} {d e g : Nat} (f : GroupSt → GroupSt) (h : e ≠ d) : (s.modGroup d g f).reef e = s.reef e :=
  reef_modReef_ne _ h

/-- An update of one group on each listed die. -/
theorem group_foldl_modGroup {g : Nat} {f : State → GroupSt → GroupSt} (hf : ∀ s x, (f s x).g = x.g)
    (hs : ∀ s d h, f (s.modGroup d g h) = f s) {l : List Nat} (hnd : l.Nodup) (s : State) (h : ∀ e ∈ l, ∃ z, (s.reef e).group g = some z) :
    ∀ e ∈ l, ∀ z, (s.reef e).group g = some z →
      ((l.foldl (fun s d => s.modGroup d g (f s)) s).reef e).group g = some (f s z) := by
  have hreach := foldl_reaches (f := fun v d => v.modGroup d g (f v))
    (P := fun v e => f v = f s ∧ (v.reef e).group g = (s.reef e).group g ∧ ∃ z, (s.reef e).group g = some z)
    (Q := fun v e => f v = f s ∧ (v.reef e).group g = ((s.reef e).group g).map (f s)) ?_ ?_ ?_ l s hnd (fun e he => ⟨rfl, rfl, h e he⟩)
  · intro e he z hz
    rw [(hreach e he).2, hz]
    rfl
  · rintro v a ⟨hv, hg, z, hz⟩
    refine ⟨(hs v a _).trans hv, ?_⟩
    rw [group_modGroup (hf v) (hg.trans hz), hz, hv]
    rfl
  · rintro v a b hne ⟨hv, hg, hz⟩
    exact ⟨(hs v a _).trans hv, by rw [reef_modGroup_ne _ hne]; exact hg, hz⟩
  · rintro v a b hne ⟨hv, hg⟩
    exact ⟨(hs v a _).trans hv, by rw [reef_modGroup_ne _ hne]; exact hg⟩

/-! The report leaves. -/

/-- Whether die e of a group is ready for the report of a step. -/
def mayReport (s : State) (p g step e : Nat) : Bool :=
  match (s.reef e).group g with
  | some z => z.closedAt.isSome && z.step == some step && s.bucketsDone e z step && s.engReady p
  | none => false

/-- The report of a step has left, noted on every die of the group. -/
def reportNoted (s : State) (ds : List Nat) (g : Nat) : State :=
  ds.foldl (fun s d => s.modGroup d g fun y => { y with reportLeft := true, reportAt := s.now }) s

/-- The last step whose contributions have left is noted. -/
def lateNoted (s : State) (ds : List Nat) (step : Nat) : State :=
  ds.foldl (fun s d => s.modReef d fun e =>
    if e.allLeft step then { e with lateStep := some (max step (e.lateStep.getD 0)) } else e) s

def childReports (y : GroupSt) (step : Nat) : List (Nat × Report) := y.children.filter fun c => c.2.step == step

section
variable {s : State} {p d g : Nat} {y : GroupSt} {ds : List Nat} (hds : ds = s.groupDies p g) (hd : ds.head? = some d)
  (hy : (s.reef d).group g = some y)
include hds hd hy

theorem reportGo_none (h : y.step = none) : s.reportGo p g = s := by
  obtain ⟨tl, rfl⟩ : ∃ tl, ds = d :: tl := List.head?_eq_some_iff.mp hd
  unfold State.reportGo
  rw [← hds]
  dsimp only
  rw [hy]
  dsimp only
  rw [h]

theorem reportGo_row {step : Nat} {w : State} {rep : Report} (h : y.step = some step)
    (hw : w = closesOver s (lateNoted (reportNoted s ds g) ds step) ds g)
    (hrep : rep = (childReports y step).foldl (fun r c => r.join c.2) (s.ownReport ds y step)) :
    s.reportGo p g =
      if y.reportLeft || y.timedOut || !(ds.all (mayReport s p g step)) ||
        decide ((childReports y step).length < (treeKids y.n (s.rankIn y) 0).length) then s
      else if s.rankIn y = 0 then w.decide_ p g y rep
      else w.sendReef p y (treeParent y.n (s.rankIn y) 0)
        { y.head 2 step with veto := rep.veto, csumFail := rep.csum, count := (w.ebOrder ds g).length }
        (rep.payload false (w.ebOrder ds g)) := by
  obtain ⟨tl, rfl⟩ : ∃ tl, ds = d :: tl := List.head?_eq_some_iff.mp hd
  subst hw hrep
  unfold State.reportGo
  rw [← hds]
  dsimp only
  rw [hy]
  dsimp only
  rw [h] <;> rfl

end

theorem mayReport_iff {s : State} {p g step e : Nat} : mayReport s p g step e = true ↔ s.engReady p = true ∧
    ∃ z, (s.reef e).group g = some z ∧ z.closedAt.isSome = true ∧ z.step = some step ∧ s.bucketsDone e z step = true := by
  unfold mayReport
  cases hz : (s.reef e).group g with
  | none => simp
  | some z =>
    simp only [Bool.and_eq_true, beq_iff_eq, Option.some.injEq, exists_eq_left']
    tauto

/-- All dies of a group with a lead die are ready. -/
theorem all_mayReport_iff {s : State} {p d g step : Nat} {ds : List Nat} (hd : ds.head? = some d) :
    ds.all (mayReport s p g step) = true ↔ s.engReady p = true ∧ ∀ e ∈ ds, ∃ z, (s.reef e).group g = some z ∧
      z.closedAt.isSome = true ∧ z.step = some step ∧ s.bucketsDone e z step = true := by
  simp only [List.all_eq_true, mayReport_iff]
  constructor
  · intro h
    exact ⟨(h d (List.mem_of_head? hd)).1, fun e he => (h e he).2⟩
  · rintro ⟨hr, h⟩ e he
    exact ⟨hr, h e he⟩

theorem reportSend_row {s : State} {p d g : Nat} (hd4 : d < 4) (hg : g < 12) (hp : s.partOfDie d = some p)
    (hd : (s.groupDies p g).head? = some d) : exec (.reportSend d g) s = .next (s.reportGo p g).pumpWaiting := by
  refine (if_pos (by simp [hd4, hg])).trans (congrArg Host.Outcome.next ?_)
  dsimp only
  rw [hp]
  exact if_pos hd

/-! What the notes leave. -/

theorem modReef_foldl_only {f : Nat → Reef → Reef} (l : List Nat) :
    ∀ s : State, ∃ dies, l.foldl (fun s d => s.modReef d (f d)) s = { s with dies := dies } := by
  induction l with
  | nil => exact fun s => ⟨s.dies, rfl⟩
  | cons d l ih =>
    intro s
    obtain ⟨dies, h⟩ := ih (s.modReef d (f d))
    exact ⟨dies, h⟩

theorem reportNoted_only (s : State) (ds : List Nat) (g : Nat) : ∃ dies, reportNoted s ds g = { s with dies := dies } := by
  unfold reportNoted
  induction ds generalizing s with
  | nil => exact ⟨s.dies, rfl⟩
  | cons d l ih =>
    obtain ⟨dies, h⟩ := ih (s.modGroup d g fun y => { y with reportLeft := true, reportAt := s.now })
    exact ⟨dies, h⟩

theorem lateNoted_only (s : State) (ds : List Nat) (step : Nat) : ∃ dies, lateNoted s ds step = { s with dies := dies } :=
  modReef_foldl_only (f := fun _ e => if e.allLeft step then { e with lateStep := some (max step (e.lateStep.getD 0)) } else e) ds s

theorem notes_only (s : State) (ds : List Nat) (g step : Nat) :
    ∃ dies, lateNoted (reportNoted s ds g) ds step = { s with dies := dies } := by
  obtain ⟨d1, h1⟩ := reportNoted_only s ds g
  obtain ⟨d2, h2⟩ := lateNoted_only (reportNoted s ds g) ds step
  exact ⟨d2, h2.trans (congrArg (fun v : State => { v with dies := d2 }) h1)⟩

theorem around_lateNoted (s : State) (ds : List Nat) (step : Nat) : around (lateNoted s ds step) = around s :=
  around_foldl (fun s d => around_modReef s d (f := fun e =>
    if e.allLeft step then { e with lateStep := some (max step (e.lateStep.getD 0)) } else e) fun e => by split <;> rfl) ds s

/-- The noted report on a die of the group. -/
theorem group_noted {s : State} {p g e step : Nat} (he : e ∈ s.groupDies p g) {z : GroupSt} (hz : (s.reef e).group g = some z) :
    ((lateNoted (reportNoted s (s.groupDies p g) g) (s.groupDies p g) step).reef e).group g =
      some { z with reportLeft := true, reportAt := s.now } := by
  refine ((sameSums_of_around (around_lateNoted _ _ step) e).group g).trans ?_
  exact group_foldl_modGroup (f := fun s y => { y with reportLeft := true, reportAt := s.now }) (fun _ _ => rfl) (fun _ _ _ => rfl)
    (nodup_groupDies s p g) s (fun e he => group_of_groupDies he) e he z hz

/-! A child's report. -/

theorem report_waits {s : State} {k p d : Nat} {x : InPkt} {y : GroupSt} (hin : ReefIn s k 2 x p d y)
    (h : y.accepts (RHead.ofBytes x.pkt.data).step = false) : s.gotReport k = s :=
  onReef_waits hin (if_pos (by rw [h]; rfl))

theorem report_kept {s : State} {k p d g : Nat} {x : InPkt} {y : GroupSt} {r : Report} (hin : ReefIn s k 2 x p d y) (hg : y.g = g)
    (hy : (s.reef d).group g = some y)
    (h : y.accepts (RHead.ofBytes x.pkt.data).step = true) (hr : r = Report.ofPayload (payloadOf x.pkt) (s.ebOrder (s.groupDies p g) g)) :
    ∃ u z, s.gotReport k = u.reportGo p g ∧ taken s u k ∧ (u.reef d).group g = some z ∧
      z.children = y.children.filter (fun c => c.1 != y.rankOf x.pkt.src) ++ [(y.rankOf x.pkt.src, r)] ∧ z.step = y.step ∧
      z.reportLeft = y.reportLeft ∧ sameMemory s u := by
  subst hg hr
  obtain ⟨f, hf⟩ := FabricRequests.takePkt_only s k x
  have hy' : ((s.takePkt k x).reef d).group y.g = some y := by
    rw [hf]
    exact hy
  refine ⟨_, _, onReef_acts hin (if_neg (by rw [h]; decide)), taken_takePkt s k x, group_modGroup (fun _ => rfl) hy', rfl, rfl, rfl, ?_⟩
  rw [hf]
  exact SameBytes.sameMemory ⟨rfl, rfl, rfl, rfl⟩

/-! A decision. -/

/-- A group once the decision on its step is acted on. -/
def decidedGroup (r : Report) (y : GroupSt) : GroupSt :=
  { y with step := none, closedAt := none, closeOp := none, reportLeft := false, timedOut := false, children := []
           vetoSeen := Veto.none, retries := 0, decided := some r.step }

/-- A bucket once the decision on its group's step is acted on. -/
def decidedBucket (x : GroupSt) (r : Report) (b : Bucket) : Bucket :=
  { b with
    k := if b.kind = 0 then kNext x.n b.k (ebOf r.eb b.bucket) else b.k
    taken := 0, amax := none, outDone := false, f32Sent := false }

/-- A die's engine once the decision on a group's step is acted on. -/
def acted (x : GroupSt) (r : Report) (g : Nat) (e : Reef) : Reef :=
  { e with
    buckets := e.buckets.map fun b => if b.group = g then decidedBucket x r b else b
    contribs := e.contribs.filter fun c => !(c.group == g && c.step == r.step)
    marks := e.marks.filter fun c => !(c.group == g && c.step == r.step)
    f32 := e.f32.filter fun c => !(c.group == g && c.step == r.step)
    latch := e.latch.set (r.step % 2) Veto.none
    groups := e.groups.map fun y => if y.g = g then decidedGroup r y else y }

/-- The update engine of a decided group is told. -/
def updateTold (s : State) (d g : Nat) (r : Report) : State :=
  match (s.die d).upd.sec with
  | some u => if u.group = g then s.modUpd d fun u => { u with todo := some (r.step, r.vetoed) } else s
  | none => s

theorem around_updateTold (s : State) (d g : Nat) (r : Report) : around (updateTold s d g r) = around s := by
  unfold updateTold
  split
  · split
    · exact around_modDie s d
    · rfl
  · rfl

theorem sums_eq_of_same {a b : Reef} (h : SameSums a b) : sums b = sums a := by
  simp only [sums, h.groups, h.buckets, h.contribs, h.marks, h.f32, h.retry, h.csumFails]

theorem actOn_none {s : State} {d g : Nat} (h : (s.reef d).group g = none) (p : Nat) (r : Report) : s.actOn d p r g = s := by
  unfold State.actOn
  rw [h]

/-- The decision's record written and its wait posted. -/
def decisionWritten (s : State) (d p : Nat) (r : Report) (g : Nat) (x : GroupSt) : State :=
  ((s.reefWrite d p r.step ((s.reef d).decBase + 128 * g + 64 * (r.step % 2))
    (((r.words r.vetoed).map fun w => natLe 8 w).flatten ++ List.replicate 32 0)).1.emit d srcDecideWait (s.now - x.reportAt) 0 0 0 0 0).emit
    d srcReefRetry x.retries 0 0 0 0 0

theorem around_decisionWritten (s : State) (d p : Nat) (r : Report) (g : Nat) (x : GroupSt) :
    around (decisionWritten s d p r g x) = around s := by
  simp [decisionWritten]

theorem actOn_row {s : State} {d g : Nat} {x : GroupSt} (h : (s.reef d).group g = some x) (p : Nat) (r : Report) {v : State}
    (hv : v = updateTold ((decisionWritten s d p r g x).modReef d (acted x r g)) d g r) :
    s.actOn d p r g = if (s.reef d).decSig then v.addToken (s.reef d).decTile (s.reef d).decTok 1 else v := by
  subst hv
  unfold State.actOn
  rw [h] <;> rfl

theorem around_actOn {s : State} {d g : Nat} {x : GroupSt} (h : (s.reef d).group g = some x) (p : Nat) (r : Report) :
    around (s.actOn d p r g) = around ((decisionWritten s d p r g x).modReef d (acted x r g)) := by
  rw [actOn_row h p r rfl, around_ite, around_addToken, ite_self, around_updateTold]

section
variable {s : State} {d p g : Nat} {r : Report}

theorem fabric_actOn (s : State) (d p g : Nat) (r : Report) : (s.actOn d p r g).fabric = s.fabric := by
  cases h : (s.reef d).group g with
  | none => rw [actOn_none h]
  | some x => exact (fabric_of_around (around_actOn h p r)).trans (fabric_of_around (v := decisionWritten s d p r g x) (around_decisionWritten s d p r g x))

theorem sums_actOn_ne {e : Nat} (hne : e ≠ d) : sums ((s.actOn d p r g).reef e) = sums (s.reef e) := by
  cases h : (s.reef d).group g with
  | none => rw [actOn_none h]
  | some x =>
    refine (sums_of_around (around_actOn h p r) e).trans ?_
    rw [reef_modReef_ne _ hne]
    exact sums_of_around (around_decisionWritten s d p r g x) e

theorem sums_actOn {x : GroupSt} (h : (s.reef d).group g = some x) :
    ∃ a, SameSums (s.reef d) a ∧ SameSums (acted x r g a) ((s.actOn d p r g).reef d) := by
  have hw := around_decisionWritten s d p r g x
  refine ⟨(decisionWritten s d p r g x).reef d, sameSums_of_around hw d, sameSums_of_eq ?_⟩
  refine (sums_of_around (around_actOn h p r) d).trans ?_
  rw [reef_modReef _ ((length_of_around hw).symm ▸ listed_of_group h)]

end

/-- A decision is acted on by every die of the group. -/
def ActedOn (s v : State) (g : Nat) (r : Report) (e : Nat) : Prop :=
  (∃ z, (v.reef e).group g = some z ∧ z.step = none ∧ z.decided = some r.step ∧ z.reportLeft = false ∧ z.children = []) ∧
    ∀ n b z, (s.reef e).group g = some z → (s.reef e).bucket g n = some b → ∃ b', (v.reef e).bucket g n = some b' ∧
      b'.taken = 0 ∧ b'.outDone = false ∧ b'.k = (if b.kind = 0 then kNext z.n b.k (ebOf r.eb n) else b.k)

theorem actedOn_of_acted {s v : State} {g e : Nat} {r : Report} {x : GroupSt} {a : Reef} (hx : (s.reef e).group g = some x)
    (ha : SameSums (s.reef e) a) (hv : SameSums (acted x r g a) (v.reef e)) : ActedOn s v g r e := by
  constructor
  · refine ⟨_, ((hv.group g).trans (find_map_if (q := fun y : GroupSt => y.g == g) (f := decidedGroup r) (fun _ => rfl) (fun y hy => by simpa using hy) _)).trans
      (congrArg (Option.map _) ((ha.group g).trans hx)), rfl, rfl, rfl, rfl⟩
  · intro n b z hz hb
    obtain rfl : x = z := Option.some.inj (hx.symm.trans hz)
    have hn : b.bucket = n := by
      have h := List.find?_some hb
      simp only [Bool.and_eq_true, beq_iff_eq] at h
      exact h.2
    refine ⟨_, ((hv.bucket g n).trans (find_map_if (q := fun y : Bucket => y.group == g && y.bucket == n)
      (f := decidedBucket x r) (fun _ => rfl)
      (fun y hy => by simp only [Bool.and_eq_true, beq_iff_eq] at hy; exact hy.1) _)).trans
      (congrArg (Option.map _) ((ha.bucket g n).trans hb)), rfl, rfl, ?_⟩
    rw [← hn]
    rfl

theorem decide_actsOn {s v : State} {p g : Nat} (hv : ∃ f, v = { s with fabric := f }) (y : GroupSt) (r : Report) :
    ∀ e ∈ s.groupDies p g, ActedOn s (v.decide_ p g y r) g r e := by
  obtain ⟨f, rfl⟩ := hv
  obtain ⟨f', hf'⟩ := sendReef_foldl_only p y id
    { y.head 3 r.step with veto := r.veto, csumFail := r.csum, count := (s.ebOrder (s.groupDies p g) g).length }
    (r.payload r.vetoed (s.ebOrder (s.groupDies p g) g)) (treeKids y.n (s.rankIn y) 0) { s with fabric := f }
  have hrow : ({ s with fabric := f } : State).decide_ p g y r =
      (s.groupDies p g).foldl (fun s d => s.actOn d p r g) { s with fabric := f' } :=
    congrArg (fun u : State => List.foldl (fun (s : State) d => s.actOn d p r g) u (s.groupDies p g)) hf'
  rw [hrow]
  refine foldl_reaches (P := fun u e => sums (u.reef e) = sums (s.reef e) ∧ ∃ z, (s.reef e).group g = some z)
    (Q := fun u e => ActedOn s u g r e) ?_ ?_ ?_ _ _ (nodup_groupDies s p g) (fun e he => ⟨rfl, group_of_groupDies he⟩)
  · rintro u a ⟨hu, z, hz⟩
    have hsame := sameSums_of_eq hu
    obtain ⟨w, hw, hact⟩ := sums_actOn (p := p) (r := r) ((hsame.group g).trans hz)
    exact actedOn_of_acted hz (sameSums_of_eq ((sums_eq_of_same hw).trans hu)) hact
  · rintro u a b hne ⟨hu, hz⟩
    exact ⟨(sums_actOn_ne hne).trans hu, hz⟩
  · rintro u a b hne ⟨hg, hb⟩
    have hs := sameSums_of_eq (sums_actOn_ne (s := u) (p := p) (g := g) (r := r) hne)
    refine ⟨?_, fun n c z hz hc => ?_⟩
    · rw [hs.group]
      exact hg
    · rw [hs.bucket]
      exact hb n c z hz hc

theorem tookPkt_decide {s v : State} {k : Nat} (h : tookPkt s v k) (p g : Nat) (y : GroupSt) (r : Report) :
    tookPkt s (v.decide_ p g y r) k := by
  unfold State.decide_
  dsimp only
  refine tookPkt_foldl (fun w d hw => ?_) _ _ (tookPkt_foldl (fun w c hw => tookPkt_sendReef hw _ _ _ _ _) _ _ h)
  obtain ⟨l, hl⟩ := hw
  exact ⟨l, (congrArg Fabric.inbox (fabric_actOn w d p g r)).trans hl⟩

section
variable {s : State} {k p d : Nat} {x : InPkt} {y : GroupSt} (hin : ReefIn s k 3 x p d y)
include hin

theorem decision_acts (ht : y.timedOut = false) (hs : y.step = some (RHead.ofBytes x.pkt.data).step) (hl : y.reportLeft = true)
    (hr : s.engReady p = true) : s.gotDecision k =
      (s.takePkt k x).decide_ p y.g y (Report.ofPayload (payloadOf x.pkt) (s.ebOrder (s.groupDies p y.g) y.g)) := by
  refine onReef_acts hin ?_
  dsimp only
  rw [if_neg (by simp [ht, hs, hl]), hr]
  rfl

theorem decision_waits (ht : y.timedOut = false) (hs : y.step = some (RHead.ofBytes x.pkt.data).step) (hl : y.reportLeft = true)
    (hr : s.engReady p = false) : s.gotDecision k = s := by
  refine onReef_waits hin ?_
  dsimp only
  rw [if_neg (by simp [ht, hs, hl]), hr]
  rfl

theorem decision_discarded (h : y.timedOut = true ∨ y.step ≠ some (RHead.ofBytes x.pkt.data).step ∨ y.reportLeft = false) :
    s.gotDecision k = (s.takePkt k x).countDiscard := by
  refine onReef_acts hin (if_pos ?_)
  rcases h with h | h | h <;> simp [h]

end

/-- A packet that is taken and discarded. -/
theorem discarded_leaves (s : State) (k : Nat) (x : InPkt) : taken s (s.takePkt k x).countDiscard k ∧
    (s.takePkt k x).countDiscard.fabric.discarded = inc32 s.fabric.discarded ∧ (s.takePkt k x).countDiscard.dies = s.dies ∧
    sameMemory s (s.takePkt k x).countDiscard := by
  have hd : (s.takePkt k x).fabric.discarded = s.fabric.discarded := by
    unfold State.takePkt State.returnCredits
    split <;> rfl
  refine ⟨taken_takePkt s k x, congrArg inc32 hd, ?_⟩
  obtain ⟨f, hf⟩ := FabricRequests.takePkt_only s k x
  rw [hf]
  exact ⟨rfl, SameBytes.sameMemory ⟨rfl, rfl, rfl, rfl⟩⟩

/-! The timer of a decision. -/

/-- A group whose decision did not come in time. -/
def timedOut (s : State) (ds : List Nat) (g : Nat) : State :=
  ds.foldl (fun s d => s.modGroup d g fun y => { y with timedOut := true }) s

theorem timedOut_only (s : State) (ds : List Nat) (g : Nat) : ∃ dies, timedOut s ds g = { s with dies := dies } :=
  modReef_foldl_only (f := fun _ r => { r with groups := r.groups.map fun x => if x.g = g then { x with timedOut := true } else x }) ds s

/-- Whether a DECISION for the group has come. -/
def decisionCame (s : State) (y : GroupSt) : Bool :=
  s.fabric.inbox.any fun i => i.pkt.ptype == ptReef && i.pkt.vc == 4 + y.cvc &&
    bits (leAt i.pkt.data 0 8) 0 4 == 3 && some i.pkt.dest == s.nodeId

theorem decisionOut_row {s : State} {p d g step : Nat} {y : GroupSt} (hp : s.partOfDie d = some p)
    (hy : (s.reef d).group g = some y) (hd : (s.groupDies p g).head? = some d) (hs : y.step = some step) {v : State}
    (hv : v = (timedOut s (s.groupDies p g) g).reefFault d step (6, 1, g + step * 2 ^ 32)) :
    s.decisionOut d g = if !y.reportLeft || y.timedOut || decisionCame s y || s.timersStopped p ||
        s.now < y.reportAt + (s.reef d).decTimeoutMs * 1000000 then s
      else if (v.geode p).fabTrig then v.trigger (some p) ⟨3, reefAgent d, step, 0, 0, 0, 6, 1⟩ else v := by
  subst hv
  unfold State.decisionOut
  rw [hp, hy]
  dsimp only
  rw [hs]
  dsimp only
  rw [hd]
  simp only [ne_eq, not_true_eq_false, decide_false, Bool.false_or]
  exact congrArg (ite _ s) rfl

theorem faultQ_modDie (s : State) (d e : Nat) {f : Die → Die} (h : ∀ x, (f x).faultQ = x.faultQ := by exact fun _ => rfl) :
    ((s.modDie d f).die e).faultQ = (s.die e).faultQ := HomeServe.die_modDie_keeps h s d e

theorem faultQ_post (s : State) (p : Option Nat) (event source layer op detail e : Nat) :
    ((s.post p event source layer op detail).die e).faultQ = (s.die e).faultQ :=
  congrArg (fun l : List Die => (l.getD e Die.init).faultQ) (RemoteFlags.dies_post s _ _ _ _ _ _)

theorem faultQ_log (s : State) (rtype part : Nat) (payload : List Nat) (e : Nat) :
    ((s.log rtype part payload).die e).faultQ = (s.die e).faultQ := by
  obtain ⟨o, m, h⟩ := Cleat.log_only s rtype part payload
  rw [h]
  rfl

theorem faultQ_setVeto (s : State) (d step : Nat) (v : Veto) (source layer op e : Nat) :
    ((s.setVeto d step v source layer op).die e).faultQ = (s.die e).faultQ := by
  unfold State.setVeto
  split
  · rfl
  split
  · exact faultQ_post s _ _ _ _ _ _ e
  · exact faultQ_modDie s d e

/-- A fault enters the queue of its die where that has room. -/
theorem faultQ_postFault {s : State} {d : Nat} (hd : d < s.dies.length) (hq : (s.die d).faultQ.length < 256) (source : Nat)
    (r : FaultRec) (step : Nat) : ((s.postFault d source r step).die d).faultQ = (s.die d).faultQ ++ [r] := by
  have hadd : ((s.modDie d fun x => { x with faultQ := x.faultQ ++ [r] }).die d).faultQ = (s.die d).faultQ ++ [r] := by
    simp [State.die, State.modDie, modAt, hd]
  have hrow : (if 256 ≤ (s.die d).faultQ.length then
      (match s.partOfDie d with
        | some p => s.modPage (p + 1) fun x => { x with faultDrop := inc16 x.faultDrop }
        | none => s)
      else s.modDie d fun x => { x with faultQ := x.faultQ ++ [r] }) = s.modDie d fun x => { x with faultQ := x.faultQ ++ [r] } :=
    if_neg (by omega)
  unfold State.postFault
  dsimp only
  split
  · exact (faultQ_post ..).trans ((congrArg (fun v : State => (v.die d).faultQ) hrow).trans hadd)
  · exact (faultQ_log ..).trans ((faultQ_modDie _ d d).trans ((faultQ_post ..).trans
      ((congrArg (fun v : State => (v.die d).faultQ) hrow).trans hadd)))

theorem faultQ_reefFault {s : State} {d : Nat} (hd : d < s.dies.length) (hq : (s.die d).faultQ.length < 256) (step : Nat)
    (why : Nat × Nat × Nat) : ((s.reefFault d step why).die d).faultQ = (s.die d).faultQ ++
      [⟨why.1, why.2.1, reefAgent d, 0, 0, 0, 0, false, 0, (s.die d).beat, why.2.2⟩] :=
  (faultQ_setVeto _ d step _ _ _ _ d).trans (faultQ_postFault hd hq _ _ step)

theorem faultQ_timedOut (ds : List Nat) (g e : Nat) : ∀ s : State, ((timedOut s ds g).die e).faultQ = (s.die e).faultQ := by
  induction ds with
  | nil => exact fun _ => rfl
  | cons d l ih =>
    intro s
    exact (ih (s.modGroup d g fun y => { y with timedOut := true })).trans (faultQ_modDie s d e)

/-- What the timer leaves of a group on its lead die d. -/
theorem timer_leaves {s : State} {p d g step : Nat} (hd : (s.groupDies p g).head? = some d) (tr : Trig) {v : State}
    (hv : v = (timedOut s (s.groupDies p g) g).reefFault d step (6, 1, g + step * 2 ^ 32)) {u : State}
    (hu : u = if (v.geode p).fabTrig then v.trigger (some p) tr else v) : sameMemory s u ∧
      (∀ e ∈ s.groupDies p g, ∃ z, (u.reef e).group g = some z ∧ z.timedOut = true) ∧
      ((s.die d).faultQ.length < 256 → ∃ f, (u.die d).faultQ = (s.die d).faultQ ++ [f] ∧ f.cls = 6 ∧ f.code = 1 ∧
        f.tile = 0x0410 + d ∧ f.detail = g + step * 2 ^ 32) := by
  obtain ⟨dies, hdies⟩ := timedOut_only s (s.groupDies p g) g
  have haround : around u = around (timedOut s (s.groupDies p g) g) := by
    rw [hu, around_ite, around_trigger, ite_self, hv, around_reefFault]
  have hstores : Stores.stores u = Stores.stores s := by
    rw [hu, Stores.stores_ite, Stores.stores_trigger, ite_self, hv, Stores.stores_reefFault, hdies]
    rfl
  have hqueue : ∀ e, (u.die e).faultQ = (v.die e).faultQ := by
    intro e
    rw [hu]
    split
    · unfold State.trigger
      dsimp only
      split <;> rfl
    · rfl
  refine ⟨(Stores.stores_eq_iff.mp hstores).sameMemory, fun e he => ?_, fun hq => ?_⟩
  · obtain ⟨z, hz⟩ := group_of_groupDies he
    refine ⟨_, ((sameSums_of_around haround e).group g).trans (group_foldl_modGroup (f := fun _ y => { y with timedOut := true })
      (fun _ _ => rfl) (fun _ _ _ => rfl) (nodup_groupDies s p g) s (fun e he => group_of_groupDies he) e he z hz), rfl⟩
  · have hold := faultQ_timedOut (s.groupDies p g) g d s
    have hmem := List.mem_of_head? hd
    obtain ⟨z, hz⟩ := group_of_groupDies hmem
    have hlen : d < (timedOut s (s.groupDies p g) g).dies.length := listed_of_group (group_foldl_modGroup
      (f := fun _ y => { y with timedOut := true }) (fun _ _ => rfl) (fun _ _ _ => rfl) (nodup_groupDies s p g) s
      (fun e he => group_of_groupDies he) d hmem z hz)
    have hadd := faultQ_reefFault hlen (hold.symm ▸ hq) step (6, 1, g + step * 2 ^ 32)
    rw [← hv, hold] at hadd
    exact ⟨⟨6, 1, reefAgent d, 0, 0, 0, 0, false, 0, ((timedOut s (s.groupDies p g) g).die d).beat, g + step * 2 ^ 32⟩,
      (hqueue d).trans hadd, rfl, rfl, rfl, rfl⟩

/-- Settles O47: the report and the timer follow the model's row for the lead die, and what each does to one die of the group leaves
the groups and buckets of the others. -/
theorem reefReports : Obligations.ReefReports := by
  unfold Obligations.ReefReports
  intro s p d g y ds hd4 hg12 hp hds hd hy
  have hlead : (s.groupDies p g).head? = some d := hds ▸ hd
  have hsend := reportSend_row hd4 hg12 hp hlead
  refine ⟨fun step kids rep hstep hkids hrep ready hready => ?_, fun hnone => ?_, fun k x h hin hh hyg => ⟨fun hacc => ?_, fun r hacc hr => ?_⟩,
    fun k x h hin hh hyg => ⟨fun ht hs hl hr => ?_, fun r hr ht hs hl hready => ?_, fun hnot => ?_⟩, fun step coming hstep hcoming => ⟨fun hnot => ?_, fun hl ht hnone hs hlate => ?_⟩⟩
  · have hrow := reportGo_row hds hd hy hstep rfl rfl
    have hready' := hready.trans (propext (all_mayReport_iff hd)).symm
    refine ⟨fun hnot => hsend.trans (congrArg (fun v : State => Host.Outcome.next v.pumpWaiting) (hrow.trans (if_pos ?_))),
      fun hr hl ht hlen => ?_⟩
    · rw [hready'] at hnot
      rw [hkids] at hnot
      rcases hnot with h | h | h | h
      · simp [h]
      · simp [h]
      · simp [Bool.eq_false_iff.mpr h]
      · simp [childReports, h]
    · have hgo := hrow.trans (if_neg (by
        rw [hready'] at hr
        rw [hkids] at hlen
        simp [hl, ht, hr, childReports, Nat.not_lt.mpr hlen]))
      obtain ⟨dies, hdies⟩ := notes_only s ds g step
      refine ⟨lateNoted (reportNoted s ds g) ds step, _, rfl, ?_, ?_, ?_, fun e he => ?_, fun h0 => ?_, fun h0 => ?_⟩
      · rw [hdies]
      · rw [hdies]
      · rw [hdies]
        exact SameBytes.sameMemory ⟨rfl, rfl, rfl, rfl⟩
      · obtain ⟨-, hall⟩ := hready.mp hr
        obtain ⟨z, hz, -, hzs, -⟩ := hall e he
        subst hds
        exact ⟨_, group_noted he hz, rfl, rfl, hzs⟩
      · rw [hsend, hgo, if_pos h0, hrep, hkids]
        rfl
      · rw [hsend, hgo, if_neg h0, hrep, hkids]
        rfl
  · rw [hsend, reportGo_none hds hd hy hnone]
  · exact congrArg (fun v : State => Host.Outcome.next v.pumpWaiting) (report_waits hin (hh ▸ hacc))
  · obtain ⟨u, z, hu, htook, hz, hc, hs, hl, hm⟩ := report_kept hin hyg hy (hh ▸ hacc) (hds ▸ hr)
    exact ⟨u, z, congrArg (fun v : State => Host.Outcome.next v.pumpWaiting) hu, htook, hz, hc, hs, hl, hm⟩
  · exact congrArg (fun v : State => Host.Outcome.next v.pumpWaiting) (decision_waits hin ht (hh ▸ hs) hl hr)
  · subst hyg hds
    have hact := decision_acts hin ht (hh ▸ hs) hl hready
    rw [← hr] at hact
    exact ⟨_, congrArg (fun v : State => Host.Outcome.next v.pumpWaiting) hact, tookPkt_decide (tookPkt_takePkt s k x) p _ y r,
      decide_actsOn (FabricRequests.takePkt_only s k x) y r⟩
  · obtain ⟨h1, h2, h3, h4⟩ := discarded_leaves s k x
    exact ⟨_, congrArg (fun v : State => Host.Outcome.next v.pumpWaiting) (decision_discarded hin (hh ▸ hnot)), h1, h2, h3, h4⟩
  · have hrow := decisionOut_row hp hy hlead hstep rfl
    refine (if_pos (by simp [hd4, hg12])).trans (congrArg (fun v : State => Host.Outcome.next v.pumpWaiting) (hrow.trans (if_pos ?_)))
    have hc : decisionCame s y = coming := hcoming.symm
    rw [hc]
    rcases hnot with h | h | h | h | h <;> simp [h]
  · have hrow := decisionOut_row hp hy hlead hstep rfl
    have hc : decisionCame s y = coming := hcoming.symm
    refine ⟨_, (if_pos (by simp [hd4, hg12])).trans (congrArg (fun v : State => Host.Outcome.next v.pumpWaiting) (hrow.trans (if_neg ?_))), ?_⟩
    · rw [hc]
      simp [hl, ht, hnone, hs, Nat.not_lt.mpr hlate]
    · subst hds
      exact timer_leaves hlead _ rfl rfl

end Sys2Proof.Proofs.ReefReports
end

section
/-! PROOFS. The chunks and buckets of a Reef engine: what settles a chunk at its root, and what moves one on. -/
namespace Sys2Proof.Proofs.ReefChunks

open Sys2Proof Sys2Proof.Machine Sys2Proof.Laws Sys2Proof.Safety
open Sys2Proof.Proofs.ReefFrames Sys2Proof.Proofs.ReefReports
open Sys2Proof.Proofs.Passes (Noticed noticed_modDie lineRead_congr)

/-! Marks, contributions and buckets. -/

theorem mark_setMark (r : Reef) (step g n sh c : Nat) (f : ChunkFate) (tries : Nat) :
    (r.setMark ⟨step, g, n, sh, c, f, tries⟩).mark step g n sh c = some ⟨step, g, n, sh, c, f, tries⟩ :=
  List.find?_cons_of_pos (by simp)

theorem parts_dropParts (r : Reef) (step g n sh c : Nat) : (r.dropParts step g n sh c).parts step g n sh c = [] := by
  refine List.filter_eq_nil_iff.mpr fun x hx hq => ?_
  have hx' := (List.mem_filter.mp hx).2
  simp [hq] at hx'

theorem bucket_modBucket {s : State} {d g n : Nat} {b : Bucket} {f : Bucket → Bucket} (hg : ∀ x, (f x).group = x.group)
    (hn : ∀ x, (f x).bucket = x.bucket) (hd : d < s.dies.length) (h : (s.reef d).bucket g n = some b) :
    ((s.modBucket d g n f).reef d).bucket g n = some (f b) := by
  have hr : (s.modBucket d g n f).reef d = _ := reef_modReef _ hd
  rw [hr]
  refine (find_map_if (q := fun x : Bucket => x.group == g && x.bucket == n) (f := f) (fun x => by rw [hg, hn])
    (fun x hx => by simpa using hx) _).trans ?_
  exact congrArg (Option.map f) h

/-- A die that is not there holds no bucket. -/
theorem listed_of_bucket {s : State} {d g n : Nat} {b : Bucket} (h : (s.reef d).bucket g n = some b) : d < s.dies.length := by
  by_contra hd
  have hr : s.reef d = Die.init.reef := congrArg Die.reef (List.getD_eq_default _ _ (not_lt.mp hd))
  rw [hr] at h
  cases h

/-! What the line contents do not see. -/

/-- The lines of the dies read as before. -/
def SameLines (s v : State) : Prop := ∀ e key, v.lineRead e key = s.lineRead e key

theorem SameLines.refl (s : State) : SameLines s s := fun _ _ => rfl
theorem SameLines.trans {s v w : State} (h : SameLines s v) (k : SameLines v w) : SameLines s w :=
  fun e key => (k e key).trans (h e key)

theorem sameLines_of_noticed {s v : State} (h : Noticed s v) : SameLines s v := fun e key => by
  obtain ⟨hh, -, hc⟩ := h
  exact lineRead_congr hh (hc e).1 key

theorem sameLines_emit (s : State) (d source raw layer op a b inst : Nat) : SameLines s (s.emit d source raw layer op a b inst) :=
  HomeServe.lineRead_counted (HomeServe.counted_emit s d source raw layer op a b inst)

theorem sameLines_modDie (s : State) (d : Nat) {f : Die → Die} (h : ∀ x, (f x).cache = x.cache := by exact fun _ => rfl) :
    SameLines s (s.modDie d f) := fun e key =>
  lineRead_congr (s := s) (v := s.modDie d f) rfl (HomeServe.die_modDie_keeps (g := Die.cache) h s d e) key

theorem sameLines_modReef (s : State) (d : Nat) (f : Reef → Reef) : SameLines s (s.modReef d f) := sameLines_modDie s d

theorem sameLines_foldl {α : Type} {f : State → α → State} (h : ∀ s a, SameLines s (f s a)) :
    ∀ (l : List α) (s : State), SameLines s (l.foldl f s)
  | [], s => .refl s
  | a :: l, s => (h s a).trans (sameLines_foldl h l (f s a))

theorem sameLines_addToken (s : State) (t k n : Nat) : SameLines s (s.addToken t k n) := by
  unfold State.addToken
  dsimp only
  have htile := fun f => sameLines_of_noticed (ReleaseWave.noticed_modTile s t f)
  split
  · exact htile _
  · exact (htile _).trans (sameLines_of_noticed (ReleaseWave.noticed_fault _ t _ _ _ _ _))

theorem sameLines_sealBlock (s : State) (p b : Nat) : SameLines s (s.sealBlock p b) := by
  unfold State.sealBlock
  split
  · exact .refl s
  · split
    · exact .refl s
    · exact sameLines_modDie s _

theorem sameLines_sealOut (s : State) (d p step : Nat) (x : GroupSt) (b : Bucket) (c : Nat) : SameLines s (s.sealOut d p step x b c) :=
  sameLines_foldl (fun s blk => by
    dsimp only
    split
    · exact sameLines_sealBlock s p blk
    · exact .refl s) _ s

/-! The own shard of a group is done. -/

/-- Parts of an engine that its buckets' flags do not touch. -/
structure SameChunks (a b : Reef) : Prop where
  groups : b.groups = a.groups
  contribs : b.contribs = a.contribs
  marks : b.marks = a.marks
  csumFails : b.csumFails = a.csumFails

theorem SameChunks.mark {a b : Reef} (h : SameChunks a b) (step g n sh c : Nat) : b.mark step g n sh c = a.mark step g n sh c := by
  unfold Reef.mark
  rw [h.marks]

theorem SameSums.chunks {a b : Reef} (h : SameSums a b) : SameChunks a b := ⟨h.groups, h.contribs, h.marks, h.csumFails⟩

theorem shardDone_leaves (s : State) (d : Nat) (x : GroupSt) (b : Bucket) (step : Nat) :
    SameLines s (s.shardDone d x b step) ∧ (s.shardDone d x b step).fabric = s.fabric ∧ (s.shardDone d x b step).sram = s.sram ∧
      SameChunks (s.reef d) ((s.shardDone d x b step).reef d) := by
  have hmod : ∀ f : Bucket → Bucket, SameChunks (s.reef d) ((s.modBucket d x.g b.bucket f).reef d) := by
    intro f
    by_cases hd : d < s.dies.length
    · have hr : (s.modBucket d x.g b.bucket f).reef d = _ := reef_modReef _ hd
      rw [hr]
      exact ⟨rfl, rfl, rfl, rfl⟩
    · have hr : (s.modBucket d x.g b.bucket f).reef d = s.reef d := by
        simp [State.modBucket, State.reef, State.die, State.modReef, State.modDie, modAt, hd]
      rw [hr]
      exact ⟨rfl, rfl, rfl, rfl⟩
  unfold State.shardDone
  dsimp only
  split
  · split
    · have ha := around_addToken (s.modBucket d x.g b.bucket fun y => { y with outDone := true }) b.outTile b.outTok 1
      have hs := sameSums_of_around ha d
      have hm := hmod fun y => { y with outDone := true }
      exact ⟨(sameLines_modReef s d _).trans (sameLines_addToken _ _ _ _), (fabric_of_around ha).trans rfl, (sram_of_around ha).trans rfl,
        ⟨hs.groups.trans hm.groups, hs.contribs.trans hm.contribs, hs.marks.trans hm.marks, hs.csumFails.trans hm.csumFails⟩⟩
    · exact ⟨sameLines_modReef s d _, rfl, rfl, hmod _⟩
  · exact ⟨.refl s, rfl, rfl, ⟨rfl, rfl, rfl, rfl⟩⟩

/-! The root settles a chunk. -/

/-- A die's mark of a chunk set. -/
def marked (s : State) (d : Nat) (m : ChunkMark) : State := s.modReef d fun e => e.setMark m

theorem mark_marked {s : State} {d : Nat} (hd : d < s.dies.length) (step g n sh c : Nat) (f : ChunkFate) (tries : Nat) :
    ((marked s d ⟨step, g, n, sh, c, f, tries⟩).reef d).mark step g n sh c = some ⟨step, g, n, sh, c, f, tries⟩ := by
  have hr : (marked s d ⟨step, g, n, sh, c, f, tries⟩).reef d = _ := reef_modReef _ hd
  rw [hr]
  exact mark_setMark ..

/-- A verified sum is written to the staging and to the output: the state after, and whether memory was there. -/
def sumWritten (s : State) (d p step : Nat) (b : Bucket) (c : Nat) (sum : List Int) : State × Bool :=
  let r := (s.reefFlags d (orFlags (sum.map (reefBackFlags b.k)))).reefWrite d p step (b.stage + 5 * b.elems + 5 * (192 * c)) (i40Bytes sum)
  if r.2 then r.1.reefWrite d p step (b.out + 4 * (192 * c)) (sum.map fun q => natLe 4 (reefBack b.k q)).flatten else (r.1, false)

theorem around_sumWritten (s : State) (d p step : Nat) (b : Bucket) (c : Nat) (sum : List Int) :
    around (sumWritten s d p step b c sum).1 = around s := by
  unfold sumWritten
  dsimp only
  split <;> simp

section
variable {s : State} {d p step : Nat} {x : GroupSt} {b : Bucket} {sh c tries cs : Nat} {sum : List Int}

theorem chunkRoot_sound (h : csum sum = cs) {r : State × Bool} (hr : sumWritten s d p step b c sum = r) :
    s.chunkRoot d p step x b sh c tries sum cs =
      if r.2 then ((marked r.1 d ⟨step, x.g, b.bucket, sh, c, .verified, tries⟩).sealOut d p step x b c).shardDone d x b step
      else marked r.1 d ⟨step, x.g, b.bucket, sh, c, .lost, tries⟩ := by
  subst hr
  exact if_pos h

theorem chunkRoot_again (h : csum sum ≠ cs) (ht : tries < (s.reef d).retry) : s.chunkRoot d p step x b sh c tries sum cs =
    ((marked (s.modReef d fun e => e.dropParts step x.g b.bucket sh c) d ⟨step, x.g, b.bucket, sh, c, .sent, tries + 1⟩).modGroup d x.g
      fun y => { y with retries := inc32 y.retries }).sendResend p x step b.bucket sh c :=
  (if_neg h).trans (if_pos ht)

theorem chunkRoot_gives_up (h : csum sum ≠ cs) (ht : (s.reef d).retry ≤ tries) : s.chunkRoot d p step x b sh c tries sum cs =
    ((((marked s d ⟨step, x.g, b.bucket, sh, c, .failed, tries⟩).modReef d fun e => { e with csumFails := inc32 e.csumFails }).post (some p)
      0x0010 (reefAgent d) 0 0 (x.g + b.bucket * 2 ^ 4 + sh * 2 ^ 13 + step * 2 ^ 32))).log 0x000C p [x.g, b.bucket, sh, c, step] :=
  (if_neg h).trans (if_neg (Nat.not_lt.mpr ht))

/-- A sound sum that memory takes leaves its chunk verified. -/
theorem chunkRoot_verified (hd : d < s.dies.length) (h : csum sum = cs) {w : State} (hr : sumWritten s d p step b c sum = (w, true)) :
    ((s.chunkRoot d p step x b sh c tries sum cs).reef d).mark step x.g b.bucket sh c =
        some ⟨step, x.g, b.bucket, sh, c, .verified, tries⟩ ∧
      (s.chunkRoot d p step x b sh c tries sum cs).fabric = s.fabric ∧ SameLines w (s.chunkRoot d p step x b sh c tries sum cs) := by
  have ha : around w = around s := (congrArg (fun r : State × Bool => around r.1) hr).symm.trans (around_sumWritten s d p step b c sum)
  rw [chunkRoot_sound h hr, if_pos rfl]
  have hseal := around_sealOut (marked w d ⟨step, x.g, b.bucket, sh, c, .verified, tries⟩) d p step x b c
  obtain ⟨hlines, hf, -, hc⟩ := shardDone_leaves ((marked w d ⟨step, x.g, b.bucket, sh, c, .verified, tries⟩).sealOut d p step x b
      c) d x b step
  refine ⟨?_, hf.trans ((fabric_of_around hseal).trans (fabric_of_around (v := w) ha)), ?_⟩
  · exact (hc.mark ..).trans (((sameSums_of_around hseal d).mark ..).trans (mark_marked ((length_of_around ha).symm ▸ hd) ..))
  · exact ((sameLines_modReef w d _).trans (sameLines_sealOut _ _ _ _ _ _ _)).trans hlines

/-- A sound sum is written, its chunk marked verified, or lost where memory is. -/
theorem chunkRoot_settles (hd : d < s.dies.length) (h : csum sum = cs) : ∃ m,
    ((s.chunkRoot d p step x b sh c tries sum cs).reef d).mark step x.g b.bucket sh c = some m ∧
      (m.fate = .verified ∨ m.fate = .lost) ∧ (s.chunkRoot d p step x b sh c tries sum cs).fabric = s.fabric := by
  have ha := around_sumWritten s d p step b c sum
  rcases hr : sumWritten s d p step b c sum with ⟨w, ok⟩
  cases ok with
  | true =>
    obtain ⟨hm, hf, -⟩ := chunkRoot_verified (x := x) (sh := sh) (tries := tries) hd h hr
    exact ⟨_, hm, .inl rfl, hf⟩
  | false =>
    rw [chunkRoot_sound h hr, if_neg Bool.false_ne_true]
    rw [hr] at ha
    exact ⟨⟨step, x.g, b.bucket, sh, c, .lost, tries⟩, mark_marked ((length_of_around ha).symm ▸ hd) .., .inr rfl,
      fabric_of_around (v := w) ha⟩

/-- A sum that does not match drops the contributions while a retry is left. -/
theorem chunkRoot_retries (hd : d < s.dies.length) (h : csum sum ≠ cs) (ht : tries < (s.reef d).retry) {k : Nat} {s0 : State}
    (htook : tookPkt s0 s k) : let u := s.chunkRoot d p step x b sh c tries sum cs
    (u.reef d).mark step x.g b.bucket sh c = some ⟨step, x.g, b.bucket, sh, c, .sent, tries + 1⟩ ∧
      (u.reef d).parts step x.g b.bucket sh c = [] ∧ (u.reef d).csumFails = (s.reef d).csumFails ∧ tookPkt s0 u k := by
  intro u
  have hu : u = _ := chunkRoot_again h ht
  obtain ⟨f, hf⟩ := sendReef_foldl_only p x id { x.head 1 step with bucket := b.bucket, shard := sh, chunk := c } [] (treeKids x.n
    (((marked (s.modReef d fun e => e.dropParts step x.g b.bucket sh c) d ⟨step, x.g, b.bucket, sh, c, .sent, tries + 1⟩).modGroup d x.g
      fun y => { y with retries := inc32 y.retries }).rankIn x) sh)
    ((marked (s.modReef d fun e => e.dropParts step x.g b.bucket sh c) d ⟨step, x.g, b.bucket, sh, c, .sent, tries + 1⟩).modGroup d x.g
      fun y => { y with retries := inc32 y.retries })
  have hreef : u.reef d = { ((s.reef d).dropParts step x.g b.bucket sh c).setMark ⟨step, x.g, b.bucket, sh, c, .sent, tries + 1⟩ with
      groups := (s.reef d).groups.map fun y => if y.g = x.g then { y with retries := inc32 y.retries } else y } := by
    rw [hu]
    refine (congrArg (fun v : State => v.reef d) hf).trans ?_
    have h1 := reef_modReef (s := s) (fun e => e.dropParts step x.g b.bucket sh c) hd
    have h2 := reef_modReef (s := s.modReef d fun e => e.dropParts step x.g b.bucket sh c)
      (fun e => e.setMark ⟨step, x.g, b.bucket, sh, c, .sent, tries + 1⟩) (by simpa [State.modReef, State.modDie, modAt] using hd)
    refine (reef_modReef (s := marked (s.modReef d fun e => e.dropParts step x.g b.bucket sh c) d ⟨step, x.g, b.bucket, sh, c,
        .sent, tries + 1⟩)
      (fun r => { r with groups := r.groups.map fun y => if y.g = x.g then { y with retries := inc32 y.retries } else y })
      (by simpa [marked, State.modReef, State.modDie, modAt] using hd)).trans ?_
    unfold marked
    rw [h2, h1]
    rfl
  rw [hreef]
  refine ⟨mark_setMark .., parts_dropParts .., rfl, ?_⟩
  rw [hu]
  exact tookPkt_foldl (fun w a hw => tookPkt_sendReef hw _ _ _ _ _) _ _ htook

/-- A sum that does not match is given up without a retry left. -/
theorem chunkRoot_fails (hd : d < s.dies.length) (h : csum sum ≠ cs) (ht : (s.reef d).retry ≤ tries) :
    let u := s.chunkRoot d p step x b sh c tries sum cs
    (u.reef d).mark step x.g b.bucket sh c = some ⟨step, x.g, b.bucket, sh, c, .failed, tries⟩ ∧
      (u.reef d).csumFails = inc32 (s.reef d).csumFails ∧ u.fabric = s.fabric := by
  intro u
  have hu : u = _ := chunkRoot_gives_up h ht
  have ha : around u = around ((marked s d ⟨step, x.g, b.bucket, sh, c, .failed, tries⟩).modReef d fun e =>
      { e with csumFails := inc32 e.csumFails }) := by
    rw [hu, around_log, around_post]
  have h1 := reef_modReef (s := s) (fun e => e.setMark ⟨step, x.g, b.bucket, sh, c, .failed, tries⟩) hd
  have h2 := reef_modReef (s := marked s d ⟨step, x.g, b.bucket, sh, c, .failed, tries⟩)
    (fun e => { e with csumFails := inc32 e.csumFails }) (by simpa [marked, State.modReef, State.modDie, modAt] using hd)
  have hs := sameSums_of_around ha d
  rw [h2] at hs
  refine ⟨(hs.mark ..).trans ?_, hs.csumFails.trans ?_, (fabric_of_around ha).trans rfl⟩
  · exact mark_marked hd ..
  · exact (congrArg (fun r : Reef => inc32 r.csumFails) h1).trans rfl

end

end Sys2Proof.Proofs.ReefChunks
end

section
/-! PROOFS. CONTRIB, RESEND and the floating-point packets at a node of the tree. -/
namespace Sys2Proof.Proofs.ReefSums

open Sys2Proof Sys2Proof.Machine Sys2Proof.Laws Sys2Proof.Safety
open Sys2Proof.Proofs.ReefFrames Sys2Proof.Proofs.ReefReports Sys2Proof.Proofs.ReefChunks
open Sys2Proof.Proofs.Packets (SamePaths)

/-- What follows a packet, for the tiles that wait. -/
theorem pumped {u v : State} (h : u = v) : (Host.Outcome.next u.pumpWaiting : Out) = .next v.pumpWaiting :=
  congrArg (fun w : State => Host.Outcome.next w.pumpWaiting) h

/-! A chunk moves on. -/

/-- How long a chunk's bucket waited for its children is posted, where it did. -/
def waitPosted (s : State) (v : State) (d : Nat) (b : Bucket) (skip : Bool) : State :=
  if skip then v else v.emit d srcChildWait (s.now - b.readyAt) 0 0 0 0 0

theorem around_waitPosted (s v : State) (d : Nat) (b : Bucket) (skip : Bool) : around (waitPosted s v d b skip) = around v := by
  simp [waitPosted]

theorem sameLines_waitPosted (s v : State) (d : Nat) (b : Bucket) (skip : Bool) : SameLines v (waitPosted s v d b skip) := by
  unfold waitPosted
  split
  · exact .refl v
  · exact sameLines_emit v _ _ _ _ _ _ _ _

theorem chunkGo_waits {s : State} {d step g n sh c : Nat} (p : Nat) (h : ∀ x, (s.reef d).group g = some x →
    ((s.reef d).parts step g n sh c).length < (treeKids x.n (s.rankIn x) sh).length) : s.chunkGo d p step g n sh c = s := by
  unfold State.chunkGo
  split
  · next x b hx _ => exact if_pos (by simp [h x hx])
  · rfl

/-- The contributions, sums and attributes that a chunk's local part and its children's contributions give. -/
def chunkSum (parts : List Contrib) (own : List Int) : List Int := parts.foldl (fun a k => List.zipWith i40Add a k.data) own
def chunkCsum (parts : List Contrib) (own : List Int) : Nat := parts.foldl (fun a k => (a + k.cs) % csumMod) (csum own)
def chunkVeto (parts : List Contrib) (v : Veto) : Veto := parts.foldl (fun a k => a.join k.veto) v
def chunkAmax (parts : List Contrib) (b : Bucket) : Option Int := parts.foldl (fun a k => maxExp a k.amax) b.amax

/-- A chunk's local sum and every child's contribution are there, and nothing holds the chunk (R328 to R330). -/
structure ChunkReady (s : State) (d p step g n sh c : Nat) (x : GroupSt) (b : Bucket) : Prop where
  group : (s.reef d).group g = some x
  bucket : (s.reef d).bucket g n = some b
  kind : b.kind = 0
  opened : x.step = some step
  taken : b.puts ≤ b.taken
  kids : (treeKids x.n (s.rankIn x) sh).length ≤ ((s.reef d).parts step g n sh c).length
  ready : s.engReady p = true

section
variable {s : State} {d p step g n sh c : Nat} {x : GroupSt} {b : Bucket} (h : ChunkReady s d p step g n sh c x b)
include h

/-- A node that is not the root sends the sum to its parent. -/
theorem chunkGo_sends (hr : s.rankIn x ≠ sh) (hm : (s.reef d).mark step g n sh c = none) {a : EngRead} {own : List Int}
    (ha : s.localPart d p step b (b.chunkAt x.n sh c).1 (b.chunkAt x.n sh c).2 = (a, own)) : s.chunkGo d p step g n sh c =
      (marked (waitPosted s a.s d b (treeKids x.n (s.rankIn x) sh).isEmpty) d ⟨step, g, n, sh, c, .sent, 0⟩).sendReef p x
        (treeParent x.n (s.rankIn x) sh)
        { x.head 0 step with
          veto := chunkVeto ((s.reef d).parts step g n sh c) ((a.s.reef d).latchOf step), bucket := n, chunk := c, shard := sh
          amax := chunkAmax ((s.reef d).parts step g n sh c) b, cs := chunkCsum ((s.reef d).parts step g n sh c) own
          count := (b.chunkAt x.n sh c).2 } (i40Bytes (chunkSum ((s.reef d).parts step g n sh c) own)) := by
  obtain ⟨hx, hb, hkind, hstep, htaken, hkids, hready⟩ := h
  have hroot : (s.rankIn x == sh) = false := beq_eq_false_iff_ne.mpr hr
  unfold State.chunkGo
  rw [hx, hb]
  dsimp only
  rw [hroot, hm, ha]
  dsimp only
  rw [if_neg (by simp [hkind, hstep, Nat.not_lt.mpr htaken, Nat.not_lt.mpr hkids, hready]), if_neg Bool.false_ne_true, Option.isSome_none,
    Bool.or_false] <;> rfl

/-- The root settles the chunk where its memory is. -/
theorem chunkGo_settles (hr : s.rankIn x = sh) {tries : Nat} (hm : (s.reef d).mark step g n sh c = none ∧ tries = 0 ∨
      (s.reef d).mark step g n sh c = some ⟨step, g, n, sh, c, .sent, tries⟩) (htodo : (s.die d).upd.todo = none)
    {a : EngRead} {own : List Int} (ha : s.localPart d p step b (b.chunkAt x.n sh c).1 (b.chunkAt x.n sh c).2 = (a, own))
    (hthere : a.there = true) : ∃ skip, s.chunkGo d p step g n sh c =
      ((waitPosted s a.s d b skip).modGroup d g fun y =>
        { y with vetoSeen := y.vetoSeen.join (chunkVeto ((s.reef d).parts step g n sh c) ((a.s.reef d).latchOf step)) }).chunkRoot d p step
          x b sh c tries (chunkSum ((s.reef d).parts step g n sh c) own) (chunkCsum ((s.reef d).parts step g n sh c) own) := by
  obtain ⟨hx, hb, hkind, hstep, htaken, hkids, hready⟩ := h
  have hroot : (s.rankIn x == sh) = true := beq_iff_eq.mpr hr
  have hbusy : ((s.die d).upd.todo.isSome) = false := by rw [htodo]; rfl
  refine ⟨(treeKids x.n (s.rankIn x) sh).isEmpty || ((s.reef d).mark step g n sh c).isSome, ?_⟩
  unfold State.chunkGo
  rw [hx, hb]
  dsimp only
  rw [hroot, ha]
  dsimp only
  rcases hm with ⟨hm, rfl⟩ | hm <;> rw [hm]
  all_goals
    refine (if_neg ?_).trans ((if_pos rfl).trans ((if_pos hthere).trans rfl))
    cases (s.die d).upd.sec <;> simp [hkind, hstep, Nat.not_lt.mpr htaken, Nat.not_lt.mpr hkids, hready, htodo]

end

/-! Floating-point buckets. -/

/-- The floating-point values that a node's children have sent. -/
def f32Got (s : State) (d step g n : Nat) (kids : List Nat) : List F32Part :=
  kids.filterMap fun k => (s.reef d).f32.find? fun f => f.step == step && f.group == g && f.bucket == n && f.child == k

/-- The sum of a node with what its children sent is kept in the bucket's staging. -/
def f32Kept (d p step g n : Nat) (b : Bucket) (a : EngRead) (got : List (List Nat)) : State :=
  let own := words32 a.data b.elems
  let v := f32Sum own got
  let s1 := (a.s.reefFlags d (nanFlags (own ++ got.flatten))).modBucket d g n fun y => { y with f32Sent := true }
  let s2 := if v.any fun w => !(val32 w).isFin then s1.setVeto d step ⟨true, false, false⟩ (reefAgent d) 0 0 else s1
  (s2.reefWrite d p step (b.stage + 4 * b.elems) (bytes32 v)).1

/-- A state with the fabric, the tile SRAM and the identity of another. -/
structure Quiet (v w : State) : Prop where
  fabric : w.fabric = v.fabric
  sram : w.sram = v.sram
  parts : w.parts = v.parts
  cap : w.cap = v.cap
  lny : w.lny = v.lny

theorem Quiet.trans {u v w : State} (h : Quiet u v) (k : Quiet v w) : Quiet u w :=
  ⟨k.fabric.trans h.fabric, k.sram.trans h.sram, k.parts.trans h.parts, k.cap.trans h.cap, k.lny.trans h.lny⟩

theorem quiet_of_around {v w : State} (h : around w = around v) : Quiet v w :=
  ⟨fabric_of_around h, sram_of_around h, congrArg (fun x => x.2.2.1) h, congrArg (fun x => x.2.2.2.1) h,
    congrArg (fun x => x.2.2.2.2.1) h⟩

theorem quiet_modReef (v : State) (d : Nat) (f : Reef → Reef) : Quiet v (v.modReef d f) := ⟨rfl, rfl, rfl, rfl, rfl⟩

theorem Quiet.paths {v w : State} (h : Quiet v w) : SamePaths v w := by
  refine ⟨?_, ?_, ?_, congrArg Fabric.routes h.fabric, congrArg Fabric.gateways h.fabric, fun q => ?_⟩
  · unfold State.nodeId
    rw [h.cap, h.parts]
  · unfold State.dims
    rw [h.parts]
  · unfold State.now
    rw [h.lny]
  · unfold State.portUp State.port
    rw [h.fabric]

theorem length_modReef (v : State) (d : Nat) (f : Reef → Reef) : (v.modReef d f).dies.length = v.dies.length := List.length_modify ..

theorem f32Kept_leaves {s : State} {d p step g n : Nat} {b : Bucket} {a : EngRead} {got : List (List Nat)} (ha : around a.s = around s)
    (hd : d < s.dies.length) (hb : (s.reef d).bucket g n = some b) : Quiet s (f32Kept d p step g n b a got) ∧
      ((f32Kept d p step g n b a got).reef d).bucket g n = some { b with f32Sent := true } := by
  have hflags := (around_reefFlags a.s d (nanFlags (words32 a.data b.elems ++ got.flatten))).trans ha
  have hend : around (f32Kept d p step g n b a got) =
      around ((a.s.reefFlags d (nanFlags (words32 a.data b.elems ++ got.flatten))).modBucket d g n fun y => { y with f32Sent := true }) := by
    unfold f32Kept
    dsimp only
    rw [around_reefWrite, around_ite, around_setVeto, ite_self]
  refine ⟨((quiet_of_around hflags).trans (quiet_modReef _ d _)).trans (quiet_of_around hend), ?_⟩
  exact ((sameSums_of_around hend d).bucket g n).trans (bucket_modBucket (fun _ => rfl) (fun _ => rfl)
    ((length_of_around hflags).symm ▸ hd) (((sameSums_of_around hflags d).bucket g n).trans hb))

/-- The sum of a floating-point bucket goes out: to the children, to the output, and as a token. -/
theorem f32Out_leaves {s s0 : State} {k d p step n : Nat} {x : GroupSt} {b : Bucket} (v : List Nat) (hd : d < s.dies.length) (hn : b.bucket = n)
    (hb : (s.reef d).bucket x.g n = some b) (ht : tookPkt s0 s k) : tookPkt s0 (s.f32Out d p x b step v) k ∧
      ((s.f32Out d p x b step v).reef d).bucket x.g n = some { b with outDone := true } ∧ (s.f32Out d p x b step v).sram = s.sram := by
  subst hn
  unfold State.f32Out
  dsimp only
  have htook := tookPkt_foldl (fun w c hw => tookPkt_sendReef (k := k) (s := s0) hw p x c { x.head 5 step with bucket := b.bucket, count := b.elems }
    (bytes32 v)) (treeKids x.n (s.rankIn x) 0) s ht
  obtain ⟨f, hf⟩ := sendReef_foldl_only p x id { x.head 5 step with bucket := b.bucket, count := b.elems } (bytes32 v)
    (treeKids x.n (s.rankIn x) 0) s
  replace hf : (treeKids x.n (s.rankIn x) 0).foldl (fun s k => s.sendReef p x k { x.head 5 step with bucket := b.bucket, count := b.elems }
    (bytes32 v)) s = { s with fabric := f } := hf
  generalize (treeKids x.n (s.rankIn x) 0).foldl (fun s k => s.sendReef p x k { x.head 5 step with bucket := b.bucket, count := b.elems }
    (bytes32 v)) s = s1 at htook hf ⊢
  have hw := around_reefWrite s1 d p step b.out (bytes32 v)
  generalize (s1.reefWrite d p step b.out (bytes32 v)).1 = s2 at hw ⊢
  have hend : around (if b.outSig then (s2.modBucket d x.g b.bucket fun y => { y with outDone := true }).addToken b.outTile b.outTok 1
      else s2.modBucket d x.g b.bucket fun y => { y with outDone := true }) =
      around (s2.modBucket d x.g b.bucket fun y => { y with outDone := true }) := by
    rw [around_ite, around_addToken, ite_self]
  have hd2 : d < s2.dies.length := by
    rw [length_of_around hw, hf]
    exact hd
  have hb2 : (s2.reef d).bucket x.g b.bucket = some b := by
    rw [(sameSums_of_around hw d).bucket, hf]
    exact hb
  have hq := ((quiet_of_around hw).trans (quiet_modReef s2 d _)).trans (quiet_of_around hend)
  refine ⟨?_, ((sameSums_of_around hend d).bucket _ _).trans (bucket_modBucket (fun _ => rfl) (fun _ => rfl) hd2 hb2), hq.sram.trans ?_⟩
  · obtain ⟨l, hl⟩ := htook
    exact ⟨l, (congrArg Fabric.inbox hq.fabric).trans hl⟩
  · rw [hf]

section
variable {s : State} {d p step g n : Nat} {x : GroupSt} {b : Bucket} (hx : (s.reef d).group g = some x)
  (hb : (s.reef d).bucket g n = some b)
include hx hb

theorem f32Go_waits (h : b.kind ≠ 1 ∨ x.step ≠ some step ∨ b.taken < b.puts ∨ b.f32Sent = true ∨ s.engReady p = false ∨
    (f32Got s d step g n (treeKids x.n (s.rankIn x) 0)).length < (treeKids x.n (s.rankIn x) 0).length) :
    s.f32Go d p step g n = s := by
  unfold State.f32Go
  rw [hx, hb]
  refine if_pos ?_
  unfold f32Got at h
  rcases h with h | h | h | h | h | h <;> simp [h]

theorem f32Go_sends (hk : b.kind = 1) (hs : x.step = some step) (ht : b.puts ≤ b.taken) (hf : b.f32Sent = false)
    (hr : s.engReady p = true)
    (hl : (treeKids x.n (s.rankIn x) 0).length ≤ (f32Got s d step g n (treeKids x.n (s.rankIn x) 0)).length) (h0 : s.rankIn x ≠ 0)
    {a : EngRead} (ha : s.reefRead d p step b.stage (4 * b.elems) = a) (hthere : a.there = true) {got : List (List Nat)}
    (hgot : got = (f32Got s d step g n (treeKids x.n (s.rankIn x) 0)).map fun f => f.vals) :
    s.f32Go d p step g n = (f32Kept d p step g n b a got).sendReef p x (treeParent x.n (s.rankIn x) 0)
      { x.head 4 step with bucket := n, count := b.elems } (bytes32 (f32Sum (words32 a.data b.elems) got)) := by
  unfold f32Got at hl
  subst hgot
  unfold State.f32Go
  rw [hx, hb]
  dsimp only
  rw [if_neg (by simp [hk, hs, Nat.not_lt.mpr ht, hf, hr, Nat.not_lt.mpr hl]), ha, hthere, if_neg h0] <;> rfl

end

/-! A packet taken, and the engine of its die changed. -/

/-- v is s with packet k taken and the engine of die d changed. -/
structure TookReef (s v : State) (k d : Nat) (F : Reef → Reef) : Prop where
  reef : v.reef d = F (s.reef d)
  rank : ∀ y, v.rankIn y = s.rankIn y
  ready : ∀ p, v.engReady p = s.engReady p
  upd : (v.die d).upd = (s.die d).upd
  took : taken s v k
  paths : SamePaths s v
  out : ∀ q, (v.port q).out = (s.port q).out
  listed : d < v.dies.length
  sram : v.sram = s.sram
  parts : v.parts = s.parts
  bytes : SameBytes s v

theorem tookReef {s : State} {d : Nat} (hd : d < s.dies.length) (k : Nat) (x : InPkt) (F : Reef → Reef) :
    TookReef s ((s.takePkt k x).modReef d F) k d F := by
  obtain ⟨f, hf⟩ := FabricRequests.takePkt_only s k x
  have hd' : d < (s.takePkt k x).dies.length := by
    rw [hf]
    exact hd
  refine ⟨(reef_modReef F hd').trans ?_, fun y => ?_, fun p => ?_,
    (HomeServe.die_modDie_keeps (g := Die.upd) (f := fun x : Die => { x with reef := F x.reef }) (fun _ => rfl) _ d d).trans ?_,
    taken_takePkt s k x, (Packets.samePaths_takePkt s k x).trans ⟨rfl, rfl, rfl, rfl, rfl, fun _ => rfl⟩,
    Packets.out_takePkt s k x, (length_modReef _ d F).symm ▸ hd', ?_, ?_, ?_⟩
  all_goals rw [hf]
  · rfl
  · rfl
  · rfl
  · rfl
  · rfl
  · rfl
  · exact ⟨rfl, rfl, rfl, rfl⟩

/-- What a node answers with a Reef packet: the packet taken, and its own sent. -/
theorem replied_reef {s v w : State} {k d : Nat} {F : Reef → Reef} (hv : TookReef s v k d F) (hw : Quiet v w) (p : Nat) (y : GroupSt)
    (rank : Nat) (h : RHead) (payload : List Byte) :
    replied s (w.sendReef p y rank h payload) k (reefPkt s p y rank h payload) ∧ (w.sendReef p y rank h payload).sram = s.sram := by
  have hpaths := hv.paths.trans hw.paths
  have hjob : w.jobOf p = s.jobOf p := by
    unfold State.jobOf State.part
    rw [hw.parts, hv.parts]
  have hport : ∀ q, (w.port q).out = (s.port q).out := fun q =>
    (congrArg (fun f : Fabric => (f.ports.getD q Port.init).out) hw.fabric).trans (hv.out q)
  have hr := Packets.replied_inject (p := reefPkt s p y rank h payload) hpaths
    (show taken s w k from (congrArg Fabric.inbox hw.fabric).trans hv.took) hport
  constructor
  · unfold State.sendReef
    rw [hpaths.mkPkt, hjob]
    exact hr
  · obtain ⟨f, hf⟩ := sendReef_only w p y rank h payload
    rw [hf]
    exact hw.sram.trans hv.sram

theorem sameLines_sendReef (s : State) (p : Nat) (y : GroupSt) (rank : Nat) (h : RHead) (payload : List Byte) :
    SameLines s (s.sendReef p y rank h payload) := by
  obtain ⟨f, hf⟩ := sendReef_only s p y rank h payload
  rw [hf]
  exact fun _ _ => rfl

/-! What a packet of a kind does. -/

section
variable {s : State} {k rk p d : Nat} {x : InPkt} {y : GroupSt} (hin : ReefIn s k rk x p d y)
include hin

theorem group_in : (s.reef d).group y.g = some y := by
  have h := hin.group
  rw [g_of_group h]
  exact h

theorem listed_in : d < s.dies.length := listed_of_group hin.group

end

section
variable {s : State} {k p d : Nat} {x : InPkt} {y : GroupSt}

theorem gotContrib_waits (hin : ReefIn s k 0 x p d y) (h : y.accepts (RHead.ofBytes x.pkt.data).step = false) : s.gotContrib k = s :=
  onReef_waits hin (if_pos (by rw [h]; rfl))

theorem gotF32Up_waits (hin : ReefIn s k 4 x p d y) (h : y.accepts (RHead.ofBytes x.pkt.data).step = false) : s.gotF32Up k = s :=
  onReef_waits hin (if_pos (by rw [h]; rfl))

theorem gotContrib_acts (hin : ReefIn s k 0 x p d y) {h : RHead} (hh : h = RHead.ofBytes x.pkt.data) (hacc : y.accepts h.step = true) :
    s.gotContrib k = ((s.takePkt k x).modReef d fun e => { e with contribs := withContrib e.contribs (contribOf x y) }).chunkGo
      d p h.step y.g h.bucket h.shard h.chunk := by
  subst hh
  exact onReef_acts hin (if_neg (by rw [hacc]; decide))

theorem gotF32Up_acts (hin : ReefIn s k 4 x p d y) {h : RHead} (hh : h = RHead.ofBytes x.pkt.data) (hacc : y.accepts h.step = true) :
    s.gotF32Up k = ((s.takePkt k x).modReef d fun e => { e with
      f32 := e.f32 ++ [⟨h.step, y.g, h.bucket, y.rankOf x.pkt.src, words32 (payloadOf x.pkt) h.count⟩] }).f32Go d p h.step y.g h.bucket := by
  subst hh
  exact onReef_acts hin (if_neg (by rw [hacc]; decide))

/-- A chunk's contributions and its mark dropped. -/
def chunkDropped (h : RHead) (g : Nat) (e : Reef) : Reef :=
  { e.dropParts h.step g h.bucket h.shard h.chunk with
    marks := e.marks.filter fun m => !(m.step == h.step && m.group == g && m.bucket == h.bucket && m.shard == h.shard && m.chunk == h.chunk) }

theorem gotResend_acts (hin : ReefIn s k 1 x p d y) {h : RHead} (hh : h = RHead.ofBytes x.pkt.data) :
    s.gotResend k = (((s.takePkt k x).modReef d (chunkDropped h y.g)).sendResend p y h.step h.bucket h.shard h.chunk).chunkGo
      d p h.step y.g h.bucket h.shard h.chunk := by
  subst hh
  exact onReef_acts hin rfl

theorem mark_chunkDropped (h : RHead) (g : Nat) (e : Reef) :
    (chunkDropped h g e).mark h.step g h.bucket h.shard h.chunk = none := by
  refine List.find?_eq_none.mpr fun m hm hq => ?_
  have hm' := (List.mem_filter.mp hm).2
  simp [hq] at hm'

theorem parts_chunkDropped (h : RHead) (g : Nat) (e : Reef) :
    (chunkDropped h g e).parts h.step g h.bucket h.shard h.chunk = [] := parts_dropParts e h.step g h.bucket h.shard h.chunk

end

/-! A chunk moves on after a packet. -/

section
variable {s v : State} {k p d step n sh c : Nat} {y : GroupSt} {b : Bucket} {F : Reef → Reef} (hv : TookReef s v k d F)
include hv

theorem TookReef.chunkReady (hg : (F (s.reef d)).group y.g = some y) (hb : (F (s.reef d)).bucket y.g n = some b) (hk : b.kind = 0)
    (hs : y.step = some step) (ht : b.puts ≤ b.taken)
    (hl : (treeKids y.n (s.rankIn y) sh).length ≤ ((v.reef d).parts step y.g n sh c).length) (hr : s.engReady p = true) :
    ChunkReady v d p step y.g n sh c y b :=
  ⟨by rw [hv.reef]; exact hg, by rw [hv.reef]; exact hb, hk, hs, ht, by rw [hv.rank]; exact hl, by rw [hv.ready]; exact hr⟩

/-- A ready chunk of a node that is not the root goes to the parent. -/
theorem TookReef.sends (hready : ChunkReady v d p step y.g n sh c y b) (hr : s.rankIn y ≠ sh)
    (hm : (v.reef d).mark step y.g n sh c = none) {a : EngRead} {own : List Int}
    (ha : v.localPart d p step b (b.chunkAt y.n sh c).1 (b.chunkAt y.n sh c).2 = (a, own)) : ∃ (u : State) (veto : Veto),
      v.chunkGo d p step y.g n sh c = u ∧
      (u.reef d).mark step y.g n sh c = some ⟨step, y.g, n, sh, c, .sent, 0⟩ ∧
      replied s u k (reefPkt s p y (treeParent y.n (s.rankIn y) sh)
        { y.head 0 step with
          veto := veto, bucket := n, chunk := c, shard := sh, amax := chunkAmax ((v.reef d).parts step y.g n sh c) b
          cs := chunkCsum ((v.reef d).parts step y.g n sh c) own, count := (b.chunkAt y.n sh c).2 }
        (i40Bytes (chunkSum ((v.reef d).parts step y.g n sh c) own))) ∧ u.sram = s.sram ∧ SameLines a.s u := by
  have hrow := chunkGo_sends hready (hv.rank y ▸ hr) hm ha
  rw [hv.rank] at hrow
  have haround : around a.s = around v := by
    have h := around_localPart v d p step b (b.chunkAt y.n sh c).1 (b.chunkAt y.n sh c).2
    rw [ha] at h
    exact h
  have hposted := (around_waitPosted v a.s d b (treeKids y.n (s.rankIn y) sh).isEmpty).trans haround
  have hlines := sameLines_waitPosted v a.s d b (treeKids y.n (s.rankIn y) sh).isEmpty
  generalize waitPosted v a.s d b (treeKids y.n (s.rankIn y) sh).isEmpty = w at hrow hposted hlines
  have hquiet : Quiet v (marked w d ⟨step, y.g, n, sh, c, .sent, 0⟩) := (quiet_of_around hposted).trans (quiet_modReef w d _)
  have hmark := mark_marked (s := w) ((length_of_around hposted).symm ▸ hv.listed) step y.g n sh c .sent 0
  refine ⟨_, _, hrow, ?_, (replied_reef hv hquiet _ _ _ _ _).1, (replied_reef hv hquiet _ _ _ _ _).2,
    (hlines.trans (sameLines_modReef w d _)).trans (sameLines_sendReef _ _ _ _ _ _)⟩
  obtain ⟨f, hf⟩ := sendReef_only (marked w d ⟨step, y.g, n, sh, c, .sent, 0⟩) p y (treeParent y.n (s.rankIn y) sh) _ _
  rw [hf]
  exact hmark

/-- A ready chunk is settled at its root. -/
theorem TookReef.settles (hready : ChunkReady v d p step y.g n sh c y b) (hr : s.rankIn y = sh) {tries : Nat}
    (hm : (v.reef d).mark step y.g n sh c = none ∧ tries = 0 ∨
      (v.reef d).mark step y.g n sh c = some ⟨step, y.g, n, sh, c, .sent, tries⟩) (htodo : (s.die d).upd.todo = none)
    {a : EngRead} {own : List Int} (ha : v.localPart d p step b (b.chunkAt y.n sh c).1 (b.chunkAt y.n sh c).2 = (a, own))
    (hthere : a.there = true) : ∃ w, v.chunkGo d p step y.g n sh c = w.chunkRoot d p step y b sh c tries
        (chunkSum ((v.reef d).parts step y.g n sh c) own) (chunkCsum ((v.reef d).parts step y.g n sh c) own) ∧
      tookPkt s w k ∧ d < w.dies.length ∧ (w.reef d).retry = (F (s.reef d)).retry ∧ (w.reef d).csumFails = (F (s.reef d)).csumFails := by
  obtain ⟨skip, hrow⟩ := chunkGo_settles hready ((hv.rank y).trans hr) hm ((congrArg Upd.todo hv.upd).trans htodo) ha hthere
  have haround : around a.s = around v := by
    have h := around_localPart v d p step b (b.chunkAt y.n sh c).1 (b.chunkAt y.n sh c).2
    rw [ha] at h
    exact h
  have hposted := (around_waitPosted v a.s d b skip).trans haround
  generalize waitPosted v a.s d b skip = w at hrow hposted
  have hd : d < w.dies.length := (length_of_around hposted).symm ▸ hv.listed
  have hs := sameSums_of_around hposted d
  have hreef := fun f : GroupSt → GroupSt => reef_modReef (s := w) (fun r => { r with groups := r.groups.map fun x => if x.g = y.g then f x else x }) hd
  refine ⟨_, hrow, ⟨[], ?_⟩, (length_modReef w d _).symm ▸ hd, ?_, ?_⟩
  · rw [List.append_nil]
    exact (congrArg Fabric.inbox (fabric_of_around (v := w) hposted)).trans hv.took
  · exact (congrArg Reef.retry (hreef _)).trans (hs.retry.trans (congrArg Reef.retry hv.reef))
  · exact (congrArg Reef.csumFails (hreef _)).trans (hs.csumFails.trans (congrArg Reef.csumFails hv.reef))

end

/-- What the root leaves of a chunk, by its checksum and the retries left. -/
theorem chunkRoot_leaves {s w : State} {k d p step sh c tries cs : Nat} {y : GroupSt} {b : Bucket} {sum : List Int}
    (htook : tookPkt s w k) (hd : d < w.dies.length) : ∃ m, tookPkt s (w.chunkRoot d p step y b sh c tries sum cs) k ∧
      ((w.chunkRoot d p step y b sh c tries sum cs).reef d).mark step y.g b.bucket sh c = some m ∧
      (csum sum = cs → m.fate = .verified ∨ m.fate = .lost) ∧
      (csum sum ≠ cs → tries < (w.reef d).retry → m.fate = .sent ∧ m.retries = tries + 1 ∧
        ((w.chunkRoot d p step y b sh c tries sum cs).reef d).parts step y.g b.bucket sh c = [] ∧
        ((w.chunkRoot d p step y b sh c tries sum cs).reef d).csumFails = (w.reef d).csumFails) ∧
      (csum sum ≠ cs → (w.reef d).retry ≤ tries → m.fate = .failed ∧ m.retries = tries ∧
        ((w.chunkRoot d p step y b sh c tries sum cs).reef d).csumFails = inc32 (w.reef d).csumFails) := by
  have hsame : ∀ {u : State}, u.fabric = w.fabric → tookPkt s u k := by
    intro u hu
    obtain ⟨l, hl⟩ := htook
    exact ⟨l, (congrArg Fabric.inbox hu).trans hl⟩
  by_cases hc : csum sum = cs
  · obtain ⟨m, hm, hfate, hf⟩ := chunkRoot_settles (p := p) (step := step) (x := y) (b := b) (sh := sh) (c := c) (tries := tries) hd hc
    exact ⟨m, hsame hf, hm, fun _ => hfate, fun h => absurd hc h, fun h => absurd hc h⟩
  · rcases lt_or_ge tries (w.reef d).retry with ht | ht
    · obtain ⟨hm, hparts, hfails, htk⟩ := chunkRoot_retries (p := p) (step := step) (x := y) (b := b) (sh := sh) (c := c) hd hc ht htook
      exact ⟨_, htk, hm, fun h => absurd h hc, fun _ _ => ⟨rfl, rfl, hparts, hfails⟩, fun _ h => absurd ht (Nat.not_lt.mpr h)⟩
    · obtain ⟨hm, hfails, hf⟩ := chunkRoot_fails (p := p) (step := step) (x := y) (b := b) (sh := sh) (c := c) hd hc ht
      exact ⟨_, hsame hf, hm, fun h => absurd h hc, fun _ h => absurd h (Nat.not_lt.mpr ht), fun _ _ => ⟨rfl, rfl, hfails⟩⟩

theorem n_of_bucket {r : Reef} {g n : Nat} {b : Bucket} (h : r.bucket g n = some b) : b.bucket = n := by
  have hb := List.find?_some h
  simp only [Bool.and_eq_true, beq_iff_eq] at hb
  exact hb.2

/-- RESEND to a node with children asks them again; what the node held of the chunk is dropped. -/
theorem resend_inner {s : State} {k p d : Nat} {x : InPkt} {y : GroupSt} {h : RHead} (hin : ReefIn s k 1 x p d y)
    (hh : h = RHead.ofBytes x.pkt.data) (hkids : treeKids y.n (s.rankIn y) h.shard ≠ []) : ∃ u, s.gotResend k = u ∧ tookPkt s u k ∧
      (u.reef d).parts h.step y.g h.bucket h.shard h.chunk = [] ∧ (u.reef d).mark h.step y.g h.bucket h.shard h.chunk = none ∧
      sameMemory s u := by
  have hv := tookReef (listed_in hin) k x (chunkDropped h y.g)
  have hrow := gotResend_acts hin hh
  obtain ⟨f, hf⟩ : ∃ f, ((s.takePkt k x).modReef d (chunkDropped h y.g)).sendResend p y h.step h.bucket h.shard h.chunk =
      { (s.takePkt k x).modReef d (chunkDropped h y.g) with fabric := f } := sendReef_foldl_only p y id _ [] _ _
  have htook : tookPkt s (((s.takePkt k x).modReef d (chunkDropped h y.g)).sendResend p y h.step h.bucket h.shard h.chunk) k :=
    tookPkt_foldl (fun w a hw => tookPkt_sendReef hw _ _ _ _ _) _ _ ⟨[], hv.took.trans (List.append_nil _).symm⟩
  have hreef : (((s.takePkt k x).modReef d (chunkDropped h y.g)).sendResend p y h.step h.bucket h.shard h.chunk).reef d =
      chunkDropped h y.g (s.reef d) := (congrArg (fun w : State => w.reef d) hf).trans hv.reef
  have hrank : (((s.takePkt k x).modReef d (chunkDropped h y.g)).sendResend p y h.step h.bucket h.shard h.chunk).rankIn y = s.rankIn y :=
    (congrArg (fun w : State => w.rankIn y) hf).trans (hv.rank y)
  have hbytes : SameBytes s (((s.takePkt k x).modReef d (chunkDropped h y.g)).sendResend p y h.step h.bucket h.shard h.chunk) := by
    rw [hf]
    exact ⟨hv.bytes.sram, hv.bytes.hbm, hv.bytes.flash, hv.bytes.amber⟩
  generalize ((s.takePkt k x).modReef d (chunkDropped h y.g)).sendResend p y h.step h.bucket h.shard h.chunk = w at *
  have hparts : (w.reef d).parts h.step y.g h.bucket h.shard h.chunk = [] := by
    rw [hreef]
    exact parts_chunkDropped h y.g _
  refine ⟨w, hrow.trans (chunkGo_waits p fun z hz => ?_), htook, hparts, ?_, hbytes.sameMemory⟩
  · rw [hreef] at hz
    obtain rfl : y = z := Option.some.inj ((group_in hin).symm.trans hz)
    rw [hparts, hrank]
    exact List.length_pos_of_ne_nil hkids
  · rw [hreef]
    exact mark_chunkDropped h y.g _

/-! Floating-point packets. -/

section
variable {s : State} {k p d : Nat} {x : InPkt} {y : GroupSt} {h : RHead} {b : Bucket}

/-- F32_UP with every value there goes on to the parent. -/
theorem TookReef.sendsF32 {s v : State} {step n : Nat} {F : Reef → Reef} (hv : TookReef s v k d F)
    (hg : (F (s.reef d)).group y.g = some y) (hb : (F (s.reef d)).bucket y.g n = some b) (hk : b.kind = 1) (hs : y.step = some step)
    (ht : b.puts ≤ b.taken) (hf : b.f32Sent = false) (hr : s.engReady p = true)
    (hl : (treeKids y.n (s.rankIn y) 0).length ≤ (f32Got v d step y.g n (treeKids y.n (s.rankIn y) 0)).length)
    (h0 : s.rankIn y ≠ 0) {a : EngRead} (ha : v.reefRead d p step b.stage (4 * b.elems) = a) (hthere : a.there = true) :
    ∃ u b', v.f32Go d p step y.g n = u ∧ (u.reef d).bucket y.g n = some b' ∧ b'.f32Sent = true ∧ b'.outDone = b.outDone ∧
      u.sram = s.sram ∧ replied s u k (reefPkt s p y (treeParent y.n (s.rankIn y) 0) { y.head 4 step with bucket := n, count := b.elems }
        (bytes32 (f32Sum (words32 a.data b.elems) ((f32Got v d step y.g n (treeKids y.n (s.rankIn y) 0)).map fun f => f.vals)))) := by
  have hg' : (v.reef d).group y.g = some y := by rw [hv.reef]; exact hg
  have hb' : (v.reef d).bucket y.g n = some b := by rw [hv.reef]; exact hb
  rw [← hv.rank] at hl h0
  have hrow := f32Go_sends hg' hb' hk hs ht hf ((hv.ready p).trans hr) hl h0 ha hthere rfl
  rw [hv.rank] at hrow
  have haround : around a.s = around v := ha ▸ around_reefRead v d p step b.stage (4 * b.elems)
  obtain ⟨hq, hbucket⟩ := f32Kept_leaves (p := p) (step := step) (got := (f32Got v d step y.g n (treeKids y.n (s.rankIn y) 0)).map fun f => f.vals)
    haround hv.listed hb'
  obtain ⟨hrep, hsram⟩ := replied_reef hv hq p y (treeParent y.n (s.rankIn y) 0) { y.head 4 step with bucket := n, count := b.elems }
    (bytes32 (f32Sum (words32 a.data b.elems) ((f32Got v d step y.g n (treeKids y.n (s.rankIn y) 0)).map fun f => f.vals)))
  refine ⟨_, { b with f32Sent := true }, hrow, ?_, rfl, rfl, hsram, hrep⟩
  obtain ⟨f, hfab⟩ := sendReef_only (f32Kept d p step y.g n b a ((f32Got v d step y.g n (treeKids y.n (s.rankIn y) 0)).map fun f => f.vals))
    p y (treeParent y.n (s.rankIn y) 0) _ _
  rw [hfab]
  exact hbucket

variable (hin : ReefIn s k 5 x p d y) (hh : h = RHead.ofBytes x.pkt.data) (hb : (s.reef d).bucket y.g h.bucket = some b)
include hin hh hb

theorem f32Down_out (ho : b.outDone = false) (hs : y.step = some h.step) (hr : s.engReady p = true) :
    s.gotF32Down k = (s.takePkt k x).f32Out d p y b h.step (words32 (payloadOf x.pkt) h.count) := by
  subst hh
  refine onReef_acts hin ?_
  rw [hb]
  dsimp only
  rw [if_neg (by simp [ho, hs]), hr]
  rfl

theorem f32Down_waits (ho : b.outDone = false) (hs : y.step = some h.step) (hr : s.engReady p = false) : s.gotF32Down k = s := by
  subst hh
  refine onReef_waits hin ?_
  rw [hb]
  dsimp only
  rw [if_neg (by simp [ho, hs]), hr]
  rfl

theorem f32Down_discarded (hnot : b.outDone = true ∨ y.step ≠ some h.step) : s.gotF32Down k = (s.takePkt k x).countDiscard := by
  subst hh
  refine onReef_acts hin ?_
  rw [hb]
  exact if_pos (by rcases hnot with h | h <;> simp [h])

end

/-- Settles O46: each packet is the row of its kind; a chunk that moves on does what its engine's row says, and the memory accesses and
faults on the way leave the fabric, tile SRAM and the engine's sums alone. -/
theorem reefSums : Obligations.ReefSums := by
  unfold Obligations.ReefSums
  refine ⟨fun s k p d x y h hh hd4 => ⟨fun i rk hi hin hacc => ?_, fun v mk kids parts hin hacc hv hmk hkids hparts => ⟨fun hlen => ?_,
    fun b at_ sum cs tries hlen hb hk hs ht hr hat hsum hcs htries => ⟨fun hroot hmk0 => ?_, fun hroot hmk1 htodo hthere => ?_⟩⟩,
    fun v hin hv => ⟨fun hkids => ?_, fun b at_ own hkids hroot hb hk hs ht hr hat hown => ?_⟩,
    fun b v got hin hacc hb hv hgot => ⟨fun hnot => ?_, fun a hk hs ht hf hr hl h0 ha hthere => ?_⟩,
    fun b hin hb => ⟨fun ho hs hr => ?_, fun ho hs hr => ?_, fun hnot => ?_⟩⟩,
    fun s v w d p step sh c tries cs x b sum hsum hd hv hw => ?_⟩
  · simp only [List.mem_cons, Prod.mk.injEq, List.not_mem_nil, or_false] at hi
    rcases hi with ⟨rfl, rfl⟩ | ⟨rfl, rfl⟩
    · exact pumped (gotContrib_waits hin (hh ▸ hacc))
    · exact pumped (gotF32Up_waits hin (hh ▸ hacc))
  · subst hv hparts
    have hv := tookReef (listed_in hin) k x fun e => { e with contribs := withContrib e.contribs (contribOf x y) }
    refine pumped ((gotContrib_acts hin hh hacc).trans (chunkGo_waits p fun z hz => ?_))
    rw [hv.reef] at hz
    obtain rfl : y = z := Option.some.inj ((group_in hin).symm.trans hz)
    rw [hv.rank, ← hkids]
    exact hlen
  · subst hv hparts hat hsum hcs
    have hv := tookReef (listed_in hin) k x fun e => { e with contribs := withContrib e.contribs (contribOf x y) }
    have hready := hv.chunkReady (p := p) (n := h.bucket) (sh := h.shard) (c := h.chunk) (group_in hin) hb hk hs ht (hkids ▸ hlen) hr
    obtain ⟨u, veto, hu, hm, hrep, hsram, hlines⟩ := hv.sends hready hroot (by rw [hv.reef]; exact hmk.symm.trans hmk0) rfl
    exact ⟨u, veto, _, pumped ((gotContrib_acts hin hh hacc).trans hu), hm, hrep, hsram, hlines⟩
  · subst hv hparts hat hsum hcs
    have hv := tookReef (listed_in hin) k x fun e => { e with contribs := withContrib e.contribs (contribOf x y) }
    have hready := hv.chunkReady (p := p) (n := h.bucket) (sh := h.shard) (c := h.chunk) (group_in hin) hb hk hs ht (hkids ▸ hlen) hr
    obtain ⟨w, hw, htook, hd, hretry, hfails⟩ := hv.settles (tries := tries) hready hroot (by
      rw [hv.reef]
      rcases hmk1 with h | h
      · exact .inl ⟨hmk.symm.trans h, by rw [htries, h]⟩
      · exact .inr (hmk.symm.trans h)) htodo rfl hthere
    have hn := n_of_bucket hb
    obtain ⟨m, h1, h2, h3, h4, h5⟩ := chunkRoot_leaves (p := p) (step := h.step) (sh := h.shard) (c := h.chunk) (tries := tries)
      (cs := chunkCsum ((((s.takePkt k x).modReef d fun e => { e with contribs := withContrib e.contribs (contribOf x y) }).reef d).parts
        h.step y.g h.bucket h.shard h.chunk) _) (y := y) (b := b) (sum := chunkSum _ _) htook hd
    rw [hretry] at h4 h5
    rw [hfails] at h4 h5
    rw [hn] at h2 h4
    exact ⟨_, m, pumped ((gotContrib_acts hin hh hacc).trans hw), h1, h2, h3, h4, h5⟩
  · obtain ⟨u, hu, hrest⟩ := resend_inner hin hh hkids
    exact ⟨u, pumped hu, hrest⟩
  · subst hat hown
    have hdropped : v = (s.takePkt k x).modReef d (chunkDropped h y.g) := hv
    subst hdropped
    have hv := tookReef (listed_in hin) k x (chunkDropped h y.g)
    have hsame : ((s.takePkt k x).modReef d (chunkDropped h y.g)).sendResend p y h.step h.bucket h.shard h.chunk =
        (s.takePkt k x).modReef d (chunkDropped h y.g) := by
      unfold State.sendResend
      rw [hv.rank, hkids]
      rfl
    have hrow := gotResend_acts hin hh
    rw [hsame] at hrow
    have hparts : (((s.takePkt k x).modReef d (chunkDropped h y.g)).reef d).parts h.step y.g h.bucket h.shard h.chunk = [] := by
      rw [hv.reef]
      exact parts_chunkDropped h y.g _
    have hready := hv.chunkReady (p := p) (n := h.bucket) (sh := h.shard) (c := h.chunk) (group_in hin) hb hk hs ht
      (by rw [hkids]; exact Nat.zero_le _) hr
    obtain ⟨u, veto, hu, -, hrep, hsram, -⟩ := hv.sends hready hroot (by rw [hv.reef]; exact mark_chunkDropped h y.g _) rfl
    rw [hparts] at hrep
    exact ⟨u, veto, pumped (hrow.trans hu), hsram, hrep⟩
  · subst hv hgot
    have hv := tookReef (listed_in hin) k x fun e => { e with
      f32 := e.f32 ++ [⟨h.step, y.g, h.bucket, y.rankOf x.pkt.src, words32 (payloadOf x.pkt) h.count⟩] }
    refine pumped ((gotF32Up_acts hin hh hacc).trans (f32Go_waits (x := y) (b := b) (by rw [hv.reef]; exact group_in hin)
      (by rw [hv.reef]; exact hb) ?_))
    rw [hv.ready, hv.rank]
    exact hnot
  · subst hv hgot
    have hv := tookReef (listed_in hin) k x fun e => { e with
      f32 := e.f32 ++ [⟨h.step, y.g, h.bucket, y.rankOf x.pkt.src, words32 (payloadOf x.pkt) h.count⟩] }
    obtain ⟨u, b', hu, hrest⟩ := hv.sendsF32 (group_in hin) hb hk hs ht hf hr hl h0 ha.symm hthere
    exact ⟨u, b', pumped ((gotF32Up_acts hin hh hacc).trans hu), hrest⟩
  · obtain ⟨f, hf⟩ := FabricRequests.takePkt_only s k x
    obtain ⟨htook, hbucket, hsram⟩ := f32Out_leaves (p := p) (step := h.step) (words32 (payloadOf x.pkt) h.count)
      (s := s.takePkt k x) (d := d) (by rw [hf]; exact (listed_in hin : d < s.dies.length)) (n_of_bucket hb) (by rw [hf]; exact hb) (tookPkt_takePkt s k x)
    refine ⟨_, _, pumped (f32Down_out hin hh hb ho hs hr), htook, hbucket, rfl, rfl, fun _ => hsram.trans ?_⟩
    rw [hf]
  · exact pumped (f32Down_waits hin hh hb ho hs hr)
  · obtain ⟨h1, h2, h3, h4⟩ := discarded_leaves s k x
    exact ⟨_, pumped (f32Down_discarded hin hh hb hnot), h1, h3, h2, h4⟩
  · have hr : sumWritten s d p step b c sum = (w, true) := by
      unfold sumWritten
      rw [hv]
      exact hw
    obtain ⟨hm, -, hlines⟩ := chunkRoot_verified (x := x) (sh := sh) (tries := tries) hd hsum hr
    exact ⟨hm, hlines⟩

end Sys2Proof.Proofs.ReefSums
end
